-- ==== Sys2Proof/Word.lean ====
section
/-! DEFINITION. The word types of the HQ-S512A (00 R3, R4, R6). -/

namespace Sys2Proof

/-- One byte of memory. -/
abbrev Byte := BitVec 8
/-- A 32-bit register image, instruction word or literal. -/
abbrev W32 := BitVec 32
/-- A 64-bit register, address or control word. -/
abbrev W64 := BitVec 64
/-- One bit for each lane of a team of up to 1,024 lanes: bit l is lane l (08 R161). -/
abbrev LaneMask := BitVec 1024

/-- A table keyed by number, in one canonical form: keys strictly rising, and no entry equal to the value that an
unlisted key reads as. -/
abbrev Cells (α : Type) := List (Nat × α)

end Sys2Proof
end

