-- ==== Sys2Proof/Syntax.lean ====
section
/-! DEFINITION. The opcode table as one inductive: the 194 instructions of 15 R288 with the operand fields of
14 R271, the unassigned opcodes (R291), and the device's other steps (spec/95), each with what comes from outside
the chip as its arguments. -/

namespace Sys2Proof

/-- The 8-bit operand space of the d, a and b fields (14 R273), every code a constructor. -/
inductive Opnd where
  | v (n : Fin 128)    -- 0x00-0x7F: V0-V127
  | s (n : Fin 64)     -- 0x80-0xBF: S0-S63
  | q (n : Fin 8)      -- 0xC0-0xC7: Q0-Q7
  | dq                 -- 0xC8: accumulator drain port
  | zr                 -- 0xC9: reads 0, discards writes
  | lid                -- 0xCA: lane index
  | rsvLo (n : Fin 5)  -- 0xCB-0xCF: reserved
  | vx (n : Fin 8)     -- 0xD0-0xD7: V[X0]-V[X7]
  | x (n : Fin 8)      -- 0xD8-0xDF: X0-X7
  | p (n : Fin 16)     -- 0xE0-0xEF: P0-P15
  | rsvHi (n : Fin 16) -- 0xF0-0xFF: reserved
  deriving DecidableEq, Repr

/-- The structure in which an ECC error was found, as the health log numbers it (01 R25), with its row. -/
structure EccPlace where
  struct : Nat
  die : Nat
  core : Nat
  row : Nat
  deriving DecidableEq, Repr

/-- The 64-bit word that an uncorrectable error marks poisoned (01 R24). -/
inductive PoisonWord where
  | home (kind die addr : Nat)       -- a word of LPDDR-6 or near memory
  | scratch (crew off : Nat)         -- a word of a crew's scratch
  | vreg (team reg lane : Nat)       -- a V register of a lane
  | sreg (team reg : Nat)            -- an S register
  | accRow (crew row : Nat)          -- a row of the accumulator store
  | tile (crew tile : Nat)           -- a word of a tile
  | draft (crew ix : Nat)            -- a store in the draft buffer
  | l1 (core word : Nat)             -- a word that an L1 holds, by its key over 8
  | margin (die word : Nat)          -- a word that a margin cache holds
  | queue (team q ix lane : Nat)     -- a lane of an entry of an operand queue
  | scriptor (off : Nat)             -- a word of Scriptor's local memory
  | none                             -- a structure that no program reads
  deriving DecidableEq, Repr

/-- Flip-flops of a team (01 R28). -/
inductive TeamCell where
  | pc | mr | mask | fsr | ufc | trapCode | trapPc | trapInfo0 | trapInfo1 | trapLane | inHandler | savedMr | savedMask | handler
  | x (reg lane : Nat)               -- a lane of an X register
  | p (reg : Nat)                    -- a predicate
  | call (i : Nat)                   -- entry i of its call stack, from the top,
  | stackAddr (i : Nat)              -- and of its reconvergence stack: its address (16 R305),
  | stackMask (i : Nat)              -- mask
  | stackMr (i : Nat)                -- and MR
  deriving DecidableEq, Repr

/-- What a readout shifts out (01 R28). -/
inductive ScanCell where
  | word (w : PoisonWord)            -- a word that an SRAM holds
  | team (team : Nat) (c : TeamCell)
  | cycles (core : Nat)              -- a core's cycle counter
  | dep (ctr : Nat)                  -- a dependency counter
  | fabric (ctx ctr : Nat)           -- a fabric event counter
  | threadPc (thread : Nat)          -- a Scriptor thread's program counter
  | threadReg (thread reg : Nat)     -- and a register of it
  deriving DecidableEq, Repr

/-- A PCI Express link comes up, and with it the sizes of BAR 4 that the host has chosen: functions with the logarithm of the size (02 R36). -/
structure LinkUp where
  link : Nat
  bar4 : List (Nat × Nat)
  deriving DecidableEq, Repr

/-- The PCI Express AtomicOps of the host (11 R219, 18 R356). -/
inductive HostAtomic where
  | fetchAdd | swap | cas
  deriving DecidableEq, Repr

/-- Where an ECC error was corrected: in a row of a structure, or on a channel of LPDDR-6, by its link ECC (01 R21, R22). -/
inductive EccSite where
  | row (place : EccPlace)
  | channel (n : Nat)
  deriving DecidableEq, Repr

/-- An invalidation request of the host's IOMMU: a page of 4 KiB, and the PASID where it names one (02 R42). -/
structure AtsRequest where
  pasid : Option Nat
  page : Nat
  deriving DecidableEq, Repr

/-- What a port learns from its training: the credits that the peer gives for each VC, and in a direct mesh the chip at the other end
(02 R49, R53). -/
structure Training where
  credits : List Nat
  peer : Option Nat
  deriving DecidableEq, Repr

/-- A flow of flits of this chip: to one destination, in one VC (02 R50, R53). -/
structure FlowId where
  dst : Nat
  vc : Nat
  deriving DecidableEq, Repr

/-- What a member's message in a QuireSync says: that it has arrived, with the values it brings, or that its context is pre-empted
(06 R134, R135). -/
inductive SyncMsg where
  | arrived (values : List W64)
  | paused
  deriving DecidableEq, Repr

/-- A flit as a port receives it, and which of the two interleaved codewords hold its symbols (02 R46, R47). -/
structure RxFlit where
  header : W64
  payload : List Byte
  words : List Nat
  deriving DecidableEq, Repr

/-- The path a management request arrives on (02 R54): of VC 7, from which chip. -/
inductive Transport where
  | i3c | vdm0 | vdm1 | vc7 (chip : Nat)
  deriving DecidableEq, Repr

/-- Part of one invocation of a prologue (03 R70): for each of the instructions that it executes, in order, the cycles that it waits beside the one
that issues it: for memory, and for the other threads (03 R57). -/
structure Prologue where
  waits : List Nat
  deriving DecidableEq, Repr

/-- What a member of a collective announces on opening (07 R141). -/
structure Announce where
  ok : Bool
  kind : Nat
  shape : List Byte
  contributes : Bool
  cap : Nat
  count : Nat
  paused : Bool := false        -- instead: its context is pre-empted, or its collective waits on a fault (R142)
  deriving DecidableEq, Repr

/-- One lane of a remote access packet: its destination VA and its data bits. -/
structure RemoteLane where
  lane : Nat
  va : Nat
  data : W64
  poison : Bool
  deriving DecidableEq, Repr

/-- Every row of the opcode table. -/
inductive Instr where
  | nop (d a b : Opnd)  -- 0x00 NOP (R301)
  | bra (off : BitVec 24)  -- 0x01 BRA (R302)
  | brg (off : BitVec 24)  -- 0x02 BRG (R306)
  | brz (d : Opnd) (imm : BitVec 16)  -- 0x03 BRZ (R302)
  | brnz (d : Opnd) (imm : BitVec 16)  -- 0x04 BRNZ (R302)
  | call (off : BitVec 24)  -- 0x05 CALL (R304)
  | ret (d a b : Opnd)  -- 0x06 RET (R304)
  | rcv (off : BitVec 24)  -- 0x07 RCV (R306)
  | join (d a b : Opnd)  -- 0x08 JOIN (R306)
  | yield (d a b : Opnd)  -- 0x09 YIELD (R306)
  | bri (d a b : Opnd)  -- 0x0A BRI (R303)
  | modeSet (d a b : Opnd)  -- 0x0B MODE_SET (R310)
  | modeGet (d a b : Opnd)  -- 0x0C MODE_GET (R310)
  | modeGuard (d : Opnd) (imm : BitVec 16)  -- 0x0D MODE_GUARD (R309)
  | modeType (d : Opnd) (imm : BitVec 16)  -- 0x0E MODE_TYPE (R309)
  | modeRnd (d : Opnd) (imm : BitVec 16)  -- 0x0F MODE_RND (R309)
  | sadd (d a b : Opnd)  -- 0x10 SADD (R312)
  | ssub (d a b : Opnd)  -- 0x11 SSUB (R312)
  | smul (d a b : Opnd)  -- 0x12 SMUL (R312)
  | slih (d : Opnd) (imm : BitVec 16)  -- 0x13 SLIH (R314)
  | sdiv (d a b : Opnd)  -- 0x14 SDIV (R313)
  | modeSrc (d : Opnd) (imm : BitVec 16)  -- 0x15 MODE_SRC (R309)
  | sand (d a b : Opnd)  -- 0x16 SAND (R312)
  | sor (d a b : Opnd)  -- 0x17 SOR (R312)
  | sxor (d a b : Opnd)  -- 0x18 SXOR (R312)
  | sshl (d a b : Opnd)  -- 0x19 SSHL (R312)
  | sshr (d a b : Opnd)  -- 0x1A SSHR (R312)
  | ssra (d a b : Opnd)  -- 0x1B SSRA (R312)
  | sslt (d a b : Opnd)  -- 0x1C SSLT (R312)
  | ssltn (d a b : Opnd)  -- 0x1D SSLTN (R312)
  | saddi (d : Opnd) (imm : BitVec 16)  -- 0x1E SADDI (R314)
  | sli (d : Opnd) (imm : BitVec 16)  -- 0x1F SLI (R314)
  | add (d a b : Opnd)  -- 0x20 ADD (R320)
  | sub (d a b : Opnd)  -- 0x21 SUB (R320)
  | mul (d a b : Opnd)  -- 0x22 MUL (R320)
  | mulh (d a b : Opnd)  -- 0x23 MULH (R321)
  | mad (d a b : Opnd)  -- 0x24 MAD (R320)
  | min (d a b : Opnd)  -- 0x25 MIN (R322)
  | max (d a b : Opnd)  -- 0x26 MAX (R322)
  | abs (d a b : Opnd)  -- 0x27 ABS (R323)
  | neg (d a b : Opnd)  -- 0x28 NEG (R323)
  | and (d a b : Opnd)  -- 0x29 AND (R325)
  | or (d a b : Opnd)  -- 0x2A OR (R325)
  | xor (d a b : Opnd)  -- 0x2B XOR (R325)
  | not (d a b : Opnd)  -- 0x2C NOT (R325)
  | shl (d a b : Opnd)  -- 0x2D SHL (R325)
  | shr (d a b : Opnd)  -- 0x2E SHR (R325)
  | rot (d a b : Opnd)  -- 0x2F ROT (R325)
  | clz (d a b : Opnd)  -- 0x30 CLZ (R325)
  | popc (d a b : Opnd)  -- 0x31 POPC (R325)
  | brev (d a b : Opnd)  -- 0x32 BREV (R325)
  | addi (d : Opnd) (imm : BitVec 16)  -- 0x33 ADDI (R326)
  | mov (d a b : Opnd)  -- 0x34 MOV (R326)
  | movi (d : Opnd) (imm : BitVec 16)  -- 0x35 MOVI (R326)
  | sel (d a b : Opnd)  -- 0x36 SEL (R327)
  | cmpEq (d a b : Opnd)  -- 0x37 CMP_EQ (R328)
  | cmpNe (d a b : Opnd)  -- 0x38 CMP_NE (R328)
  | cmpLt (d a b : Opnd)  -- 0x39 CMP_LT (R328)
  | cmpLe (d a b : Opnd)  -- 0x3A CMP_LE (R328)
  | cmpUn (d a b : Opnd)  -- 0x3B CMP_UN (R328)
  | div (d a b : Opnd)  -- 0x3C DIV (R324)
  | rem (d a b : Opnd)  -- 0x3D REM (R324)
  | li32 (d a b : Opnd) (lit : W32)  -- 0x3E LI32 (R326)
  | clamp (d a b : Opnd)  -- 0x3F CLAMP (R322)
  | sqrt (d a b : Opnd)  -- 0x40 SQRT (R329)
  | rsq (d a b : Opnd)  -- 0x41 RSQ (R329)
  | rcp (d a b : Opnd)  -- 0x42 RCP (R329)
  | exp2 (d a b : Opnd)  -- 0x43 EXP2 (R329)
  | log2 (d a b : Opnd)  -- 0x44 LOG2 (R329)
  | sin (d a b : Opnd)  -- 0x45 SIN (R329)
  | cos (d a b : Opnd)  -- 0x46 COS (R329)
  | tanh (d a b : Opnd)  -- 0x47 TANH (R329)
  | sigm (d a b : Opnd)  -- 0x48 SIGM (R329)
  | erf (d a b : Opnd)  -- 0x49 ERF (R329)
  | floor (d a b : Opnd)  -- 0x4A FLOOR (R330)
  | ceil (d a b : Opnd)  -- 0x4B CEIL (R330)
  | trunc (d a b : Opnd)  -- 0x4C TRUNC (R330)
  | rint (d a b : Opnd)  -- 0x4D RINT (R330)
  | fclass (d a b : Opnd)  -- 0x4E FCLASS (R331)
  | scalb (d a b : Opnd)  -- 0x4F SCALB (R332)
  | cvt (d a b : Opnd)  -- 0x50 CVT (R334)
  | cvtp (d a b : Opnd)  -- 0x51 CVTP (R335)
  | qnt (d a b : Opnd)  -- 0x52 QNT (R336)
  | dqnt (d a b : Opnd)  -- 0x53 DQNT (R336)
  | dot4 (d a b : Opnd)  -- 0x54 DOT4 (R337)
  | minp (d a b : Opnd)  -- 0x55 MINP (R322)
  | maxp (d a b : Opnd)  -- 0x56 MAXP (R322)
  | ballot (d a b : Opnd)  -- 0x60 BALLOT (R339)
  | pcnt (d a b : Opnd)  -- 0x61 PCNT (R339)
  | prank (d a b : Opnd)  -- 0x62 PRANK (R339)
  | shfl (d a b : Opnd)  -- 0x63 SHFL (R340)
  | shflX (d a b : Opnd)  -- 0x64 SHFL_X (R340)
  | shflUp (d a b : Opnd)  -- 0x65 SHFL_UP (R340)
  | shflDn (d a b : Opnd)  -- 0x66 SHFL_DN (R340)
  | rdlane (d a b : Opnd)  -- 0x67 RDLANE (R341)
  | wrlane (d a b : Opnd)  -- 0x68 WRLANE (R341)
  | matchN (d a b : Opnd)  -- 0x69 MATCH_N (R342)
  | matchB (d a b : Opnd)  -- 0x6A MATCH_B (R342)
  | tredAdd (d a b : Opnd)  -- 0x6B TRED_ADD (R343)
  | tredMin (d a b : Opnd)  -- 0x6C TRED_MIN (R343)
  | tredMax (d a b : Opnd)  -- 0x6D TRED_MAX (R343)
  | tredAnd (d a b : Opnd)  -- 0x6E TRED_AND (R343)
  | tredOr (d a b : Opnd)  -- 0x6F TRED_OR (R343)
  | tscanAdd (d a b : Opnd)  -- 0x70 TSCAN_ADD (R343)
  | pand (d a b : Opnd)  -- 0x71 PAND (R344)
  | por (d a b : Opnd)  -- 0x72 POR (R344)
  | pxor (d a b : Opnd)  -- 0x73 PXOR (R344)
  | pnot (d a b : Opnd)  -- 0x74 PNOT (R344)
  | pnz (d a b : Opnd)  -- 0x75 PNZ (R344)
  | pval (d a b : Opnd)  -- 0x76 PVAL (R344)
  | any (d a b : Opnd)  -- 0x77 ANY (R339)
  | all (d a b : Opnd)  -- 0x78 ALL (R339)
  | ld (d a : Opnd) (off : BitVec 8)  -- 0x80 LD (R349)
  | ldS (d a : Opnd) (off : BitVec 8)  -- 0x81 LD_S (R349)
  | ldK (d a : Opnd) (off : BitVec 8)  -- 0x82 LD_K (R349)
  | ldB (d a : Opnd) (off : BitVec 8)  -- 0x83 LD_B (R349)
  | st (d a : Opnd) (off : BitVec 8)  -- 0x84 ST (R349)
  | stS (d a : Opnd) (off : BitVec 8)  -- 0x85 ST_S (R349)
  | stK (d a : Opnd) (off : BitVec 8)  -- 0x86 ST_K (R349)
  | stB (d a : Opnd) (off : BitVec 8)  -- 0x87 ST_B (R349)
  | ldx (d a b : Opnd)  -- 0x88 LDX (R349)
  | ldxS (d a b : Opnd)  -- 0x89 LDX_S (R349)
  | ldxK (d a b : Opnd)  -- 0x8A LDX_K (R349)
  | ldxB (d a b : Opnd)  -- 0x8B LDX_B (R349)
  | stx (d a b : Opnd)  -- 0x8C STX (R349)
  | stxS (d a b : Opnd)  -- 0x8D STX_S (R349)
  | stxK (d a b : Opnd)  -- 0x8E STX_K (R349)
  | stxB (d a b : Opnd)  -- 0x8F STX_B (R349)
  | ldn (d a : Opnd) (off : BitVec 8)  -- 0x90 LDN (R350)
  | stn (d a : Opnd) (off : BitVec 8)  -- 0x91 STN (R350)
  | ldAcq (d a : Opnd) (off : BitVec 8)  -- 0x92 LD_ACQ (R351)
  | stRel (d a : Opnd) (off : BitVec 8)  -- 0x93 ST_REL (R351)
  | atomAdd (d a b : Opnd)  -- 0xA0 ATOM_ADD (R354)
  | atomMin (d a b : Opnd)  -- 0xA1 ATOM_MIN (R354)
  | atomMax (d a b : Opnd)  -- 0xA2 ATOM_MAX (R354)
  | atomAnd (d a b : Opnd)  -- 0xA3 ATOM_AND (R354)
  | atomOr (d a b : Opnd)  -- 0xA4 ATOM_OR (R354)
  | atomXor (d a b : Opnd)  -- 0xA5 ATOM_XOR (R354)
  | atomXchg (d a b : Opnd)  -- 0xA6 ATOM_XCHG (R354)
  | atomCas (d a b : Opnd)  -- 0xA7 ATOM_CAS (R354)
  | atomDecp (d a b : Opnd)  -- 0xA8 ATOM_DECP (R354)
  | atomIncw (d a b : Opnd)  -- 0xA9 ATOM_INCW (R354)
  | waita (d a b : Opnd)  -- 0xAA WAITA (R357)
  | wake (d a b : Opnd)  -- 0xAB WAKE (R360)
  | fence (d : Opnd) (imm : BitVec 16)  -- 0xAC FENCE (R361)
  | waito (d : Opnd) (imm : BitVec 16)  -- 0xAD WAITO (R362)
  | barCrew (d : Opnd) (imm : BitVec 16)  -- 0xAE BAR_CREW (R363)
  | barFolio (d : Opnd) (imm : BitVec 16)  -- 0xAF BAR_FOLIO (R363)
  | barQuire (d a b : Opnd)  -- 0xB0 BAR_QUIRE (R365)
  | slotWait (d a b : Opnd)  -- 0xB1 SLOT_WAIT (R367)
  | slotFree (d a b : Opnd)  -- 0xB2 SLOT_FREE (R368)
  | ringEos (d a b : Opnd)  -- 0xB3 RING_EOS (R369)
  | donate (d a b : Opnd)  -- 0xB4 DONATE (R370)
  | tcfg (t : BitVec 8) (a b : Opnd)  -- 0xC0 TCFG (R374)
  | ldt (t : BitVec 8) (a b : Opnd)  -- 0xC1 LDT (R375)
  | tmov (t : BitVec 8) (a b : Opnd)  -- 0xC2 TMOV (R376)
  | mma (d : Opnd) (x y : BitVec 8)  -- 0xC3 MMA (R379)
  | mmaZ (d : Opnd) (x y : BitVec 8)  -- 0xC4 MMA_Z (R379)
  | accCfg (d a b : Opnd)  -- 0xC5 ACC_CFG (R377)
  | drain (d a b : Opnd)  -- 0xC6 DRAIN (R380)
  | accSt (d a b : Opnd)  -- 0xC7 ACC_ST (R382)
  | accLd (d a b : Opnd)  -- 0xC8 ACC_LD (R383)
  | cpy (d a b : Opnd)  -- 0xC9 CPY (R386)
  | wprd (d a b : Opnd)  -- 0xCA WPRD (R387)
  | gth (d a b : Opnd)  -- 0xCB GTH (R389)
  | srecLd (t : BitVec 8) (a b : Opnd)  -- 0xCC SREC_LD (R390)
  | srecGo (t : BitVec 8) (a b : Opnd)  -- 0xCD SREC_GO (R391)
  | srecStop (t : BitVec 8) (a b : Opnd)  -- 0xCE SREC_STOP (R392)
  | qstat (d a b : Opnd)  -- 0xCF QSTAT (R393)
  | sysRd (d : Opnd) (imm : BitVec 16)  -- 0xE0 SYS_RD (R399)
  | sysWr (d : Opnd) (imm : BitVec 16)  -- 0xE1 SYS_WR (R399)
  | trap (d : Opnd) (imm : BitVec 16)  -- 0xE2 TRAP (R400)
  | brk (d a b : Opnd)  -- 0xE3 BRK (R400)
  | endTeam (d a b : Opnd)  -- 0xE4 END (R401)
  | fork (d a b : Opnd)  -- 0xE5 FORK (R402)
  | enq (d a b : Opnd)  -- 0xE6 ENQ (R403)
  | depDec (d a b : Opnd)  -- 0xE7 DEP_DEC (R404)
  | depSet (d a b : Opnd)  -- 0xE8 DEP_SET (R404)
  | tblLd (d a b : Opnd)  -- 0xE9 TBL_LD (R405)
  | dxRun (d a b : Opnd)  -- 0xEA DX_RUN (R406)
  | dxQry (d a b : Opnd)  -- 0xEB DX_QRY (R407)
  | dxStat (d a b : Opnd)  -- 0xEC DX_STAT (R407)
  | putr (d a b : Opnd)  -- 0xED PUTR (R409)
  | getr (d a b : Opnd)  -- 0xEE GETR (R409)
  | rredAdd (d a b : Opnd)  -- 0xEF RRED_ADD (R409)
  | rredMax (d a b : Opnd)  -- 0xF0 RRED_MAX (R409)
  | xsend (d a b : Opnd)  -- 0xF1 XSEND (R412)
  | ctrAdd (d a b : Opnd)  -- 0xF2 CTR_ADD (R413)
  | ctrRd (d a b : Opnd)  -- 0xF3 CTR_RD (R413)
  | cav (d a b : Opnd)  -- 0xF4 CAV (R414)
  | repart (d a b : Opnd)  -- 0xF5 REPART (R414)
  | collSt (d a b : Opnd)  -- 0xF6 COLL_ST (R414)
  | role (d a b : Opnd)  -- 0xF7 ROLE (R415)
  | tret (d a b : Opnd)  -- 0xF8 TRET (R213)
  | unassignedOpcode (word : W32)  -- UNASSIGNED_OPCODE (R291)
  | deviceReset  -- DEVICE_RESET (R31)
  | freezeNAssert  -- FREEZE_N_ASSERT (R27)
  | freezeClocksStop  -- FREEZE_CLOCKS_STOP (R27)
  | freezeNDeassert  -- FREEZE_N_DEASSERT (R29)
  | pwrbrkNAssert  -- PWRBRK_N_ASSERT (R20)
  | pwrbrkNDeassert  -- PWRBRK_N_DEASSERT (R20)
  | thermalSensorEvent (core degC : Nat)  -- THERMAL_SENSOR_EVENT (R19)
  | droopDetect (die : Nat)  -- DROOP_DETECT (R18)
  | droopEnd (die : Nat)  -- DROOP_END (R18)
  | adaptiveVoltageAdjust (die millivolt : Nat)  -- ADAPTIVE_VOLTAGE_ADJUST (R18)
  | laneRetrain (port lane : Nat) (marginLow : Bool)  -- LANE_RETRAIN (R18)
  | eccCorrectedError (at_ : EccSite) (bit : Nat)  -- ECC_CORRECTED_ERROR (R22)
  | rowTestComplete (row : Nat) (passed : Bool)  -- ROW_TEST_COMPLETE (R22)
  | eccUncorrectableError (at_ : EccPlace) (word : PoisonWord)  -- ECC_UNCORRECTABLE_ERROR (R24)
  | ageingUpdate (hours : List Nat)  -- AGEING_UPDATE (R26)
  | ageingFirstEstimate (hours : List Nat)  -- AGEING_FIRST_ESTIMATE (R26)
  | pcieLinkDown (link : Nat)  -- PCIE_LINK_DOWN (R44)
  | pcieLinkUp (link : LinkUp)  -- PCIE_LINK_UP (R38)
  | hostBar4Write (fn va : Nat) (bytes : List Byte)  -- HOST_BAR4_WRITE (R232)
  | hostBar4Read (fn va len : Nat)  -- HOST_BAR4_READ (R96)
  | hostAtomicop (fn va : Nat) (op : HostAtomic) (wide : Bool) (operand compare : W64)  -- HOST_ATOMICOP (R219)
  | atsInvalidation (fn : Nat) (request : AtsRequest)  -- ATS_INVALIDATION (R42)
  | doorbellWrite (fn ep q : Nat) (value : W64)  -- DOORBELL_WRITE (R63)
  | hqPairBind (fn ep : Nat)  -- HQ_PAIR_BIND (R37)
  | hqQrelease (fn q : Nat)  -- HQ_QRELEASE (R60)
  | hqQresume (fn q : Nat)  -- HQ_QRESUME (R72)
  | hqPreemptRequest (fn : Nat) (value : W64)  -- HQ_PREEMPT_REQUEST (R92)
  | preemptSaveComplete (ctx : Nat)  -- PREEMPT_SAVE_COMPLETE (R92)
  | hqPreemptResume (fn : Nat) (value : W64)  -- HQ_PREEMPT_RESUME (R93)
  | preemptRestoreComplete (ctx : Nat)  -- PREEMPT_RESTORE_COMPLETE (R93)
  | hqCtrRangeWrite (fn : Nat) (value : W64)  -- HQ_CTR_RANGE_WRITE (R99)
  | hqJobBaseWrite (fn : Nat) (value : W64)  -- HQ_JOB_BASE_WRITE (R105)
  | hkElogBaseWrite (fn : Nat) (value : W64)  -- HK_ELOG_BASE_WRITE (R25)
  | hkElogSizeWrite (fn : Nat) (value : W64)  -- HK_ELOG_SIZE_WRITE (R25)
  | fwActivate (fn : Nat) (value : W64)  -- FW_ACTIVATE (R74)
  | fwCommit (fn : Nat) (value : W64)  -- FW_COMMIT (R75)
  | hkFwWindowWrite (fn : Nat) (value : W64)  -- HK_FW_WINDOW_WRITE (R73)
  | fwTrialExpiry  -- FW_TRIAL_EXPIRY (R75)
  | fwThreadSwitch (thread : Nat)  -- FW_THREAD_SWITCH (R74)
  | rcvErase (fn : Nat) (value : W64)  -- RCV_ERASE (R76)
  | rcvProgram (fn : Nat) (value : W64)  -- RCV_PROGRAM (R76)
  | rcvSeal (fn : Nat) (value : W64)  -- RCV_SEAL (R76)
  | rcvReboot (fn : Nat) (value : W64)  -- RCV_REBOOT (R76)
  | rcvCmdRefused (fn : Nat) (value : W64)  -- RCV_CMD_REFUSED (R76)
  | rcvCmdComplete (storageError : Bool)  -- RCV_CMD_COMPLETE (R76)
  | frReplay (fn : Nat) (value : W64)  -- FR_REPLAY (R205)
  | frDeny (fn : Nat) (value : W64)  -- FR_DENY (R206)
  | frCtlWrite (fn : Nat) (value : W64)  -- FR_CTL_WRITE (R202)
  | frTailWrite (fn : Nat) (value : W64)  -- FR_TAIL_WRITE (R202)
  | frStatusPoolClear (fn : Nat) (value : W64)  -- FR_STATUS_POOL_CLEAR (R202)
  | faultRecordHeldWrite (ctx : Nat)  -- FAULT_RECORD_HELD_WRITE (R202)
  | hqWdogWrite (fn : Nat) (value : W64)  -- HQ_WDOG_WRITE (R214)
  | regWrite (fn ep off : Nat) (value : W64)  -- REG_WRITE (R7)
  | freeze (via : Transport)  -- FREEZE (R27)
  | scan (via : Transport) (chain : Nat)  -- SCAN (R28)
  | thaw (via : Transport)  -- THAW (R29)
  | health (via : Transport) (fromSeq : Nat)  -- HEALTH (R55)
  | life (via : Transport)  -- LIFE (R26)
  | l2share (via : Transport) (die share : Nat)  -- L2SHARE (R13)
  | idset (via : Transport) (chip : Nat)  -- IDSET (R51)
  | mctpUnsupported (via : Transport)  -- MCTP_UNSUPPORTED (R30)
  | getVersion (via : Transport)  -- GET_VERSION (R56)
  | getCapabilities (via : Transport)  -- GET_CAPABILITIES (R56)
  | negotiateAlgorithms (via : Transport)  -- NEGOTIATE_ALGORITHMS (R56)
  | getDigests (via : Transport)  -- GET_DIGESTS (R56)
  | getCertificate (via : Transport)  -- GET_CERTIFICATE (R56)
  | challenge (via : Transport)  -- CHALLENGE (R56)
  | getMeasurements (via : Transport)  -- GET_MEASUREMENTS (R56)
  | flitReceive (port errorsA errorsB : Nat) (flits : List RxFlit)  -- FLIT_RECEIVE (R48)
  | nakReceive (port seq : Nat)  -- NAK_RECEIVE (R48)
  | portReplayLimit (port : Nat)  -- PORT_REPLAY_LIMIT (R48)
  | portIdleTimeout (port : Nat)  -- PORT_IDLE_TIMEOUT (R48)
  | portTrainingComplete (port : Nat) (training : Training)  -- PORT_TRAINING_COMPLETE (R49)
  | routeSwitch (flow : FlowId) (live : List Nat)  -- ROUTE_SWITCH (R53)
  | queueMap (ctx q : Nat)  -- QUEUE_MAP (R65)
  | queuePriorityUnmap (ctx q : Nat)  -- QUEUE_PRIORITY_UNMAP (R65)
  | queueFairnessUnmap (ctx q : Nat)  -- QUEUE_FAIRNESS_UNMAP (R65)
  | queueIdleUnmap (ctx q : Nat)  -- QUEUE_IDLE_UNMAP (R65)
  | pktNop (thread : Nat)  -- PKT_NOP (R68)
  | pktLaunch (thread : Nat)  -- PKT_LAUNCH (R68)
  | pktLaunchInd (thread : Nat) (result : Prologue)  -- PKT_LAUNCH_IND (R70)
  | prologueReinvoke (thread : Nat) (result : Prologue)  -- PROLOGUE_REINVOKE (R70)
  | prologueBudgetExpiry (thread : Nat) (stopped : Prologue)  -- PROLOGUE_BUDGET_EXPIRY (R70)
  | pktWaitmem (thread : Nat)  -- PKT_WAITMEM (R69)
  | waitmemLineChange (thread : Nat)  -- WAITMEM_LINE_CHANGE (R69)
  | waitmemHostPoll (thread : Nat)  -- WAITMEM_HOST_POLL (R69)
  | pktSignal (thread : Nat)  -- PKT_SIGNAL (R68)
  | pktLoop (thread : Nat)  -- PKT_LOOP (R68)
  | pktEndloop (thread : Nat)  -- PKT_ENDLOOP (R68)
  | pktIf (thread : Nat)  -- PKT_IF (R68)
  | pktElse (thread : Nat)  -- PKT_ELSE (R68)
  | pktEndif (thread : Nat)  -- PKT_ENDIF (R68)
  | pktCall (thread : Nat)  -- PKT_CALL (R68)
  | pktReturn (thread : Nat)  -- PKT_RETURN (R68)
  | pktJump (thread : Nat)  -- PKT_JUMP (R68)
  | pktCopy (thread : Nat)  -- PKT_COPY (R68)
  | pktGraphSubmit (thread : Nat)  -- PKT_GRAPH_SUBMIT (R104)
  | pktDxRun (thread : Nat)  -- PKT_DX_RUN (R116)
  | pktInval (thread : Nat)  -- PKT_INVAL (R200)
  | pktReplay (thread : Nat)  -- PKT_REPLAY (R205)
  | pktFence (thread : Nat)  -- PKT_FENCE (R68)
  | crewPlace (launch core partition : Nat)  -- CREW_PLACE (R83)
  | folioGroupPlace (launch group folio : Nat) (partitions : List Nat)  -- FOLIO_GROUP_PLACE (R84)
  | gangReservationTimeout (launch : Nat)  -- GANG_RESERVATION_TIMEOUT (R89)
  | gangStarvedTimeout (launch : Nat)  -- GANG_STARVED_TIMEOUT (R89)
  | launchComplete (launch : Nat)  -- LAUNCH_COMPLETE (R81)
  | forkParentResume (crew core partition : Nat)  -- FORK_PARENT_RESUME (R90)
  | enqSwapOut (crew : Nat)  -- ENQ_SWAP_OUT (R108)
  | enqSwappedResume (crew core partition : Nat)  -- ENQ_SWAPPED_RESUME (R108)
  | taskDispatch (ctx queue : Nat)  -- TASK_DISPATCH (R107)
  | heldTaskInsert (ctx queue : Nat)  -- HELD_TASK_INSERT (R107)
  | taskComplete (crews : List Nat)  -- TASK_COMPLETE (R106)
  | remoteEnqArrival (ctx src token queue depth : Nat) (record : List Byte)  -- REMOTE_ENQ_ARRIVAL (R109)
  | enqAckReceive (ctx token code : Nat)  -- ENQ_ACK_RECEIVE (R109)
  | dxStageForm (ctx handle : Nat)  -- DX_STAGE_FORM (R120)
  | dxEvalComplete (ctx handle : Nat)  -- DX_EVAL_COMPLETE (R119)
  | dxJacobianComplete (ctx handle : Nat)  -- DX_JACOBIAN_COMPLETE (R126)
  | dxEventEvalComplete (ctx handle : Nat)  -- DX_EVENT_EVAL_COMPLETE (R130)
  | dxRunComplete (ctx handle : Nat)  -- DX_RUN_COMPLETE (R118)
  | dxStartExchange (ctx handle role n : Nat) (digest : List Byte)  -- DX_START_EXCHANGE (R133)
  | quiresyncArrival (ctx handle role : Nat) (msg : SyncMsg)  -- QUIRESYNC_ARRIVAL (R134)
  | dxMemberStartTimeout (ctx handle : Nat)  -- DX_MEMBER_START_TIMEOUT (R133)
  | dxPeerSilentTimeout (ctx handle role : Nat)  -- DX_PEER_SILENT_TIMEOUT (R135)
  | collAnnounceReceive (ctx handle role : Nat) (ann : Announce)  -- COLL_ANNOUNCE_RECEIVE (R141)
  | collOpenTimeout (ctx handle : Nat)  -- COLL_OPEN_TIMEOUT (R142)
  | collChunkReceive (ctx handle role first : Nat) (bytes : List Byte)  -- COLL_CHUNK_RECEIVE (R149)
  | earlyLandingArrival (ctx quire tag role first : Nat) (bytes : List Byte)  -- EARLY_LANDING_ARRIVAL (R157)
  | repartHistogramPass (ctx handle : Nat)  -- REPART_HISTOGRAM_PASS (R151)
  | repartRecordChunk (ctx handle : Nat)  -- REPART_RECORD_CHUNK (R153)
  | collMemberComplete (ctx handle : Nat)  -- COLL_MEMBER_COMPLETE (R144)
  | barQuireArrivalMsg (ctx quire tag chip crew team : Nat)  -- BAR_QUIRE_ARRIVAL_MSG (R365)
  | putrArrival (ctx src token size : Nat) (lanes : List RemoteLane) (ctr : Option Nat)  -- PUTR_ARRIVAL (R409)
  | rredArrival (ctx src token ty : Nat) (isMax : Bool) (lanes : List RemoteLane) (ctr : Option Nat)  -- RRED_ARRIVAL (R409)
  | getrRequestArrival (ctx src token size : Nat) (lanes : List RemoteLane)  -- GETR_REQUEST_ARRIVAL (R409)
  | getrResponse (ctx src token : Nat) (lanes : List RemoteLane) (denied : List (Nat × RemoteLane))  -- GETR_RESPONSE (R410)
  | remoteWriteAck (ctx src token lanes : Nat) (denied : List (Nat × RemoteLane))  -- REMOTE_WRITE_ACK (R410)
  | triggeredSendFire (ctx idx : Nat)  -- TRIGGERED_SEND_FIRE (R156)
  | triggeredSendArrival (ctx src token dstva : Nat) (bytes : List Byte) (poison : List Nat) (ctr : Option Nat)  -- TRIGGERED_SEND_ARRIVAL (R156)
  | govWindowStart (core : Nat)  -- GOV_WINDOW_START (R176)
  | watchdogExpiry (team : Nat)  -- WATCHDOG_EXPIRY (R214)
  | waitaWakeReturn (team : Nat)  -- WAITA_WAKE_RETURN (R358)
  | deferredEngineTrap (team : Nat)  -- DEFERRED_ENGINE_TRAP (R206)
  | memResponseReturn (team idx : Nat)  -- MEM_RESPONSE_RETURN (R352)
  | cpyTransferStart (core chan : Nat)  -- CPY_TRANSFER_START (R386)
  | cpyTransferComplete (core chan : Nat)  -- CPY_TRANSFER_COMPLETE (R386)
  | gthCommandComplete (core : Nat)  -- GTH_COMMAND_COMPLETE (R389)
  | matrixCommandStart (crew : Nat)  -- MATRIX_COMMAND_START (R384)
  | matrixCommandComplete (crew : Nat)  -- MATRIX_COMMAND_COMPLETE (R384)
  | feedEntryFill (team stream : Nat)  -- FEED_ENTRY_FILL (R193)
  | ringSlotFilled (crew ring slot : Nat)  -- RING_SLOT_FILLED (R189)
  | ringProducerClose (crew ring prod : Nat)  -- RING_PRODUCER_CLOSE (R189)
  | pktReservedOpcode (thread : Nat)  -- PKT_RESERVED_OPCODE (R71)
  | copyPacketComplete (ctx q : Nat)  -- COPY_PACKET_COMPLETE (R67)
  deriving DecidableEq, Repr

end Sys2Proof
end

