-- ==== Sys2Proof/Config.lean ====
section
/-! DEFINITION. The free values: what the spec leaves open, or what comes from outside the chip. Each is a constant with no
body, so that nothing proved of the model depends on which value it has. -/

namespace Sys2Proof.Config

/-- What moves after the step of count n: a core, or a device event that happens first (log 4). Which team of a core moves is not
free (08 R163). -/
opaque schedule : Nat → Nat × Option Instr

/-- How many choices of the schedule come before the next core in rotation has its turn (08 R175; log 4). -/
opaque fair : Nat → Nat

/-- The undefined contents of a crew's scratch at placement (09 R178; log 3): the placement's number and the offset. -/
opaque scratchByte : Nat → Nat → Byte

/-- A byte the spec leaves undefined (overlapping copies, 03 R68 and 19 R386; near memory after a change of share, 01 R13;
result buffers of a failed or self-overlapping collective, 07 R141, R146, R150): a count and an index. -/
opaque undefByte : Nat → Nat → Byte

/-- Whether a fetch of code that has been stored since the crew's launch was accepted gives the old form (11 R233). -/
opaque staleFetch : Nat → Bool

/-- The line, by its address over 64, whose bytes an L2 or a margin cache writes to their home after the step of count n, if one
does (09 R180). -/
opaque evicts : Nat → Option Nat

/-- Which of the writes on their way reaches host memory after the step of count n, if one does (02 R39). -/
opaque lands : Nat → Option Nat

/-- The bytes that the save of a crew, or of what else a context has, writes into the save area, whose layout the spec does not give
(04 R90, R92): a count; each with its offset. -/
opaque savedBytes : Nat → List (Nat × Byte)

/-- The set in which a cache holds a line, and its ways over 4 less one (09 R181): the level (0 L1, 1 margin cache, 2 L2, 3 instruction cache),
the line. -/
opaque cacheSet : Nat → Nat → Nat
opaque cacheWays : Nat → Nat

/-- Whether a core does not see a write by another core at first (11 R225): a count, the core and the word. -/
opaque hides : Nat → Nat → Nat → Bool

/-- A core that the writes of a word reach after the step of count n, or 512 and the die of a margin cache, or 1024 and the core of an L1, that comes
to hold the word as it is beyond it (09 R180, 11 R225). -/
opaque settles : Nat → Option (Nat × Nat)

/-- Whether a load is performed when its response comes rather than when it issues (11 R225): a count. -/
opaque lateRead : Nat → Bool

/-- How many cycles something of variable time takes: a memory response, a wake, an engine (18 R352). -/
opaque delay : Nat → Nat

/-- How many cycles the first instruction of an octet waits for the instruction cache (16 R299): a team and its count of instructions. -/
opaque fetchWait : Nat → Nat → Nat

/-- The host's translation of 64 KiB of its addresses (02 R42): the invalidations of it so far, the PASID, and its number. -/
opaque hostFrame : Nat → Nat → Nat → Nat

/-- Whether the host refuses the ATS translation of a page (02 R42, 10 R197): a count and the page's host address. -/
opaque atsFails : Nat → Nat → Bool

/-- Which representable value within its bound a bounded F32 or F64 function gives (17 R329): by opcode, type, flush bits
and input bits, and by nothing else. -/
opaque bounded : Nat → Nat → Nat → Nat → Nat

/-- How the lanes bound for one chip are divided into packets (20 R410): lanes in the next packet. -/
opaque packetLanes : Nat → Nat

/-- Whether a team that shares the way of an access performs it in an order the spec leaves free (07, 19 R389): an index. -/
opaque choice : Nat → Nat

/-- Of the bytes that a firmware slot holds as its image: whether its SLH-DSA-SHA2-192s signature is right for the public key that comes
with it, that key, and its security version; and the hash of the key that is fused into the hub die (01 R31, R33). -/
opaque imageSigned : List Byte → Bool
opaque imageKey : List Byte → List Byte
opaque imageVersion : List Byte → Nat
opaque fusedKeyHash : List Byte

/-- The first value of the CRC of a flit (02 R46). -/
opaque crcInit : BitVec 16

/-- The flits of a message (02 R46, R49; log 121): how many beyond the first, by count, and the bytes of each. -/
opaque msgFlits : Nat → Nat
opaque msgByte : Nat → Nat → Nat → Byte

/-- The payload of an idle flit, and of a NAK that carries a sequence number; the destination that such a flit of a port names where the chip at
its other end is not known (02 R46, R48). -/
opaque idleByte : Nat → Byte
opaque nakByte : Nat → Nat → Byte
opaque linkDst : Nat → Nat

/-- The context and the quire that the payload of a flit on VC 6 is for, if it is for one (07 R157). -/
opaque flitQuire : List Byte → Option (Nat × Nat)

/-- How many cycles a link counts in the step of count n (00 R2): links 0 and 1 of PCI Express, then the 16 ports. -/
opaque linkCycles : Nat → Nat → Nat

/-- How many scan chains and SRAM ranges a complete readout has (01 R28). -/
opaque scanUnits : Nat

/-- How many bytes a scan chain or SRAM range shifts out, and what each of them is: a byte of something that State names, or of something
else (01 R28). -/
opaque scanLength : Nat → Nat
opaque scanCell : Nat → Nat → Option (ScanCell × Nat)

/-- Where Scriptor's local memory lies for its threads, where in it the page of the first thread's stack is, and where in its firmware the prologue of
a thread returns to (03 R70). -/
opaque scriptorBase : Nat
opaque prologueStacks : Nat
opaque prologueReturn : Nat → Nat

/-- How many cycles of its thread a packet takes (03 R57): a count. -/
opaque packetCycles : Nat → Nat

/-- What the 88 bytes of a queue's save field that the device holds for itself contain beside the invocation number (03 R62): a count, the
index. -/
opaque saveByte : Nat → Nat → Byte

/-- The low 32 bits of the module's serial number (02 R37). -/
opaque moduleSerial : BitVec 32

/-- The chip's certificate chain and its private key; the SLH-DSA-SHA2-128s signature by a key of a message; and what the message that is signed
holds beside the answer's own data: the requester's nonce and the messages before it (02 R56). -/
opaque certificate : List Byte
opaque signingKey : List Byte
opaque signature : List Byte → List Byte → List Byte
opaque transcript : Nat → List Byte

/-- How many flits the receive buffer of a VC of a port holds (02 R49). -/
opaque rxBuffer : Nat → Nat → Nat

/-- The PASID of a context (02 R42). -/
opaque pasid : Nat → BitVec 20

/-- TRAP.INFO1 of a trap whose instruction does not state it (10 R212): a count. -/
opaque trapInfo : Nat → BitVec 64

/-- The housekeeping controller's cycle count as a health entry records it (01 R25). -/
opaque hkcCycles : Nat → Nat

end Sys2Proof.Config
end

