-- ==== Sys2Proof/Decode.lean ====
section
/-! DEFINITION. Decoding and encoding (14 R270 to R274, 15 R288, R289). An instruction is a list of 32-bit words:
one word, or two for LI32 (format FX). Every opcode decodes: an unassigned one to `unassignedOpcode`, whose meaning is
the trap of R291. Operand codes are kept as they stand, refused ones too: the traps of R293 depend on MR and are raised
when the instruction executes. Decoding refuses by name only a list that holds too few words. -/

namespace Sys2Proof

/-- Why a list of words holds no instruction. -/
inductive DecodeError where
  | noWord        -- there is no first word
  | noLiteral     -- an LI32 without the word of its literal
  deriving DecidableEq, Repr

/-- The opcode, bits [31:24] (R271). -/
def opcodeOf (w : W32) : Nat := (w.toNat / 2 ^ 24) % 256
/-- Bits [23:16], [15:8] and [7:0] of a word: the d, a and b (or off8) fields (R271). -/
def fieldD (w : W32) : BitVec 8 := BitVec.ofNat 8 (w.toNat / 2 ^ 16)
def fieldA (w : W32) : BitVec 8 := BitVec.ofNat 8 (w.toNat / 2 ^ 8)
def fieldB (w : W32) : BitVec 8 := BitVec.ofNat 8 w.toNat
/-- Bits [15:0]: imm16 (R271). -/
def fieldI (w : W32) : BitVec 16 := BitVec.ofNat 16 w.toNat
/-- Bits [23:0]: off24 (R271). -/
def fieldO (w : W32) : BitVec 24 := BitVec.ofNat 24 w.toNat

/-- The operand of a code (R273). -/
def Opnd.ofCode (c : BitVec 8) : Opnd :=
  let n := c.toNat
  if h : n < 0x80 then .v ⟨n, h⟩
  else if n < 0xC0 then .s (Fin.ofNat 64 (n - 0x80))
  else if n < 0xC8 then .q (Fin.ofNat 8 (n - 0xC0))
  else if n = 0xC8 then .dq
  else if n = 0xC9 then .zr
  else if n = 0xCA then .lid
  else if n < 0xD0 then .rsvLo (Fin.ofNat 5 (n - 0xCB))
  else if n < 0xD8 then .vx (Fin.ofNat 8 (n - 0xD0))
  else if n < 0xE0 then .x (Fin.ofNat 8 (n - 0xD8))
  else if n < 0xF0 then .p (Fin.ofNat 16 (n - 0xE0))
  else .rsvHi (Fin.ofNat 16 (n - 0xF0))

/-- The code of an operand (R273). -/
def Opnd.code (o : Opnd) : Nat :=
  match o with
  | .v n => n.val
  | .s n => 0x80 + n.val
  | .q n => 0xC0 + n.val
  | .dq => 0xC8
  | .zr => 0xC9
  | .lid => 0xCA
  | .rsvLo n => 0xCB + n.val
  | .vx n => 0xD0 + n.val
  | .x n => 0xD8 + n.val
  | .p n => 0xE0 + n.val
  | .rsvHi n => 0xF0 + n.val

/-- The operand in the d, a or b field of a word. -/
def opndD (w : W32) : Opnd := Opnd.ofCode (fieldD w)
def opndA (w : W32) : Opnd := Opnd.ofCode (fieldA w)
def opndB (w : W32) : Opnd := Opnd.ofCode (fieldB w)

/-- Row 0 of the grid (R288): opcodes 0x00 to 0x0F. -/
def decodeRow0 (op : Nat) (w : W32) : Instr :=
  match op with
  | 0x00 => .nop (opndD w) (opndA w) (opndB w)
  | 0x01 => .bra (fieldO w)
  | 0x02 => .brg (fieldO w)
  | 0x03 => .brz (opndD w) (fieldI w)
  | 0x04 => .brnz (opndD w) (fieldI w)
  | 0x05 => .call (fieldO w)
  | 0x06 => .ret (opndD w) (opndA w) (opndB w)
  | 0x07 => .rcv (fieldO w)
  | 0x08 => .join (opndD w) (opndA w) (opndB w)
  | 0x09 => .yield (opndD w) (opndA w) (opndB w)
  | 0x0A => .bri (opndD w) (opndA w) (opndB w)
  | 0x0B => .modeSet (opndD w) (opndA w) (opndB w)
  | 0x0C => .modeGet (opndD w) (opndA w) (opndB w)
  | 0x0D => .modeGuard (opndD w) (fieldI w)
  | 0x0E => .modeType (opndD w) (fieldI w)
  | 0x0F => .modeRnd (opndD w) (fieldI w)
  | _ => .unassignedOpcode w

/-- Row 1 of the grid (R288): opcodes 0x10 to 0x1F. -/
def decodeRow1 (op : Nat) (w : W32) : Instr :=
  match op with
  | 0x10 => .sadd (opndD w) (opndA w) (opndB w)
  | 0x11 => .ssub (opndD w) (opndA w) (opndB w)
  | 0x12 => .smul (opndD w) (opndA w) (opndB w)
  | 0x13 => .slih (opndD w) (fieldI w)
  | 0x14 => .sdiv (opndD w) (opndA w) (opndB w)
  | 0x15 => .modeSrc (opndD w) (fieldI w)
  | 0x16 => .sand (opndD w) (opndA w) (opndB w)
  | 0x17 => .sor (opndD w) (opndA w) (opndB w)
  | 0x18 => .sxor (opndD w) (opndA w) (opndB w)
  | 0x19 => .sshl (opndD w) (opndA w) (opndB w)
  | 0x1A => .sshr (opndD w) (opndA w) (opndB w)
  | 0x1B => .ssra (opndD w) (opndA w) (opndB w)
  | 0x1C => .sslt (opndD w) (opndA w) (opndB w)
  | 0x1D => .ssltn (opndD w) (opndA w) (opndB w)
  | 0x1E => .saddi (opndD w) (fieldI w)
  | 0x1F => .sli (opndD w) (fieldI w)
  | _ => .unassignedOpcode w

/-- Row 2 of the grid (R288): opcodes 0x20 to 0x2F. -/
def decodeRow2 (op : Nat) (w : W32) : Instr :=
  match op with
  | 0x20 => .add (opndD w) (opndA w) (opndB w)
  | 0x21 => .sub (opndD w) (opndA w) (opndB w)
  | 0x22 => .mul (opndD w) (opndA w) (opndB w)
  | 0x23 => .mulh (opndD w) (opndA w) (opndB w)
  | 0x24 => .mad (opndD w) (opndA w) (opndB w)
  | 0x25 => .min (opndD w) (opndA w) (opndB w)
  | 0x26 => .max (opndD w) (opndA w) (opndB w)
  | 0x27 => .abs (opndD w) (opndA w) (opndB w)
  | 0x28 => .neg (opndD w) (opndA w) (opndB w)
  | 0x29 => .and (opndD w) (opndA w) (opndB w)
  | 0x2A => .or (opndD w) (opndA w) (opndB w)
  | 0x2B => .xor (opndD w) (opndA w) (opndB w)
  | 0x2C => .not (opndD w) (opndA w) (opndB w)
  | 0x2D => .shl (opndD w) (opndA w) (opndB w)
  | 0x2E => .shr (opndD w) (opndA w) (opndB w)
  | 0x2F => .rot (opndD w) (opndA w) (opndB w)
  | _ => .unassignedOpcode w

/-- Row 3 of the grid (R288): opcodes 0x30 to 0x3F. -/
def decodeRow3 (op : Nat) (w lit : W32) : Instr :=
  match op with
  | 0x30 => .clz (opndD w) (opndA w) (opndB w)
  | 0x31 => .popc (opndD w) (opndA w) (opndB w)
  | 0x32 => .brev (opndD w) (opndA w) (opndB w)
  | 0x33 => .addi (opndD w) (fieldI w)
  | 0x34 => .mov (opndD w) (opndA w) (opndB w)
  | 0x35 => .movi (opndD w) (fieldI w)
  | 0x36 => .sel (opndD w) (opndA w) (opndB w)
  | 0x37 => .cmpEq (opndD w) (opndA w) (opndB w)
  | 0x38 => .cmpNe (opndD w) (opndA w) (opndB w)
  | 0x39 => .cmpLt (opndD w) (opndA w) (opndB w)
  | 0x3A => .cmpLe (opndD w) (opndA w) (opndB w)
  | 0x3B => .cmpUn (opndD w) (opndA w) (opndB w)
  | 0x3C => .div (opndD w) (opndA w) (opndB w)
  | 0x3D => .rem (opndD w) (opndA w) (opndB w)
  | 0x3E => .li32 (opndD w) (opndA w) (opndB w) lit
  | 0x3F => .clamp (opndD w) (opndA w) (opndB w)
  | _ => .unassignedOpcode w

/-- Row 4 of the grid (R288): opcodes 0x40 to 0x4F. -/
def decodeRow4 (op : Nat) (w : W32) : Instr :=
  match op with
  | 0x40 => .sqrt (opndD w) (opndA w) (opndB w)
  | 0x41 => .rsq (opndD w) (opndA w) (opndB w)
  | 0x42 => .rcp (opndD w) (opndA w) (opndB w)
  | 0x43 => .exp2 (opndD w) (opndA w) (opndB w)
  | 0x44 => .log2 (opndD w) (opndA w) (opndB w)
  | 0x45 => .sin (opndD w) (opndA w) (opndB w)
  | 0x46 => .cos (opndD w) (opndA w) (opndB w)
  | 0x47 => .tanh (opndD w) (opndA w) (opndB w)
  | 0x48 => .sigm (opndD w) (opndA w) (opndB w)
  | 0x49 => .erf (opndD w) (opndA w) (opndB w)
  | 0x4A => .floor (opndD w) (opndA w) (opndB w)
  | 0x4B => .ceil (opndD w) (opndA w) (opndB w)
  | 0x4C => .trunc (opndD w) (opndA w) (opndB w)
  | 0x4D => .rint (opndD w) (opndA w) (opndB w)
  | 0x4E => .fclass (opndD w) (opndA w) (opndB w)
  | 0x4F => .scalb (opndD w) (opndA w) (opndB w)
  | _ => .unassignedOpcode w

/-- Row 5 of the grid (R288): opcodes 0x50 to 0x5F. -/
def decodeRow5 (op : Nat) (w : W32) : Instr :=
  match op with
  | 0x50 => .cvt (opndD w) (opndA w) (opndB w)
  | 0x51 => .cvtp (opndD w) (opndA w) (opndB w)
  | 0x52 => .qnt (opndD w) (opndA w) (opndB w)
  | 0x53 => .dqnt (opndD w) (opndA w) (opndB w)
  | 0x54 => .dot4 (opndD w) (opndA w) (opndB w)
  | 0x55 => .minp (opndD w) (opndA w) (opndB w)
  | 0x56 => .maxp (opndD w) (opndA w) (opndB w)
  | _ => .unassignedOpcode w

/-- Row 6 of the grid (R288): opcodes 0x60 to 0x6F. -/
def decodeRow6 (op : Nat) (w : W32) : Instr :=
  match op with
  | 0x60 => .ballot (opndD w) (opndA w) (opndB w)
  | 0x61 => .pcnt (opndD w) (opndA w) (opndB w)
  | 0x62 => .prank (opndD w) (opndA w) (opndB w)
  | 0x63 => .shfl (opndD w) (opndA w) (opndB w)
  | 0x64 => .shflX (opndD w) (opndA w) (opndB w)
  | 0x65 => .shflUp (opndD w) (opndA w) (opndB w)
  | 0x66 => .shflDn (opndD w) (opndA w) (opndB w)
  | 0x67 => .rdlane (opndD w) (opndA w) (opndB w)
  | 0x68 => .wrlane (opndD w) (opndA w) (opndB w)
  | 0x69 => .matchN (opndD w) (opndA w) (opndB w)
  | 0x6A => .matchB (opndD w) (opndA w) (opndB w)
  | 0x6B => .tredAdd (opndD w) (opndA w) (opndB w)
  | 0x6C => .tredMin (opndD w) (opndA w) (opndB w)
  | 0x6D => .tredMax (opndD w) (opndA w) (opndB w)
  | 0x6E => .tredAnd (opndD w) (opndA w) (opndB w)
  | 0x6F => .tredOr (opndD w) (opndA w) (opndB w)
  | _ => .unassignedOpcode w

/-- Row 7 of the grid (R288): opcodes 0x70 to 0x7F. -/
def decodeRow7 (op : Nat) (w : W32) : Instr :=
  match op with
  | 0x70 => .tscanAdd (opndD w) (opndA w) (opndB w)
  | 0x71 => .pand (opndD w) (opndA w) (opndB w)
  | 0x72 => .por (opndD w) (opndA w) (opndB w)
  | 0x73 => .pxor (opndD w) (opndA w) (opndB w)
  | 0x74 => .pnot (opndD w) (opndA w) (opndB w)
  | 0x75 => .pnz (opndD w) (opndA w) (opndB w)
  | 0x76 => .pval (opndD w) (opndA w) (opndB w)
  | 0x77 => .any (opndD w) (opndA w) (opndB w)
  | 0x78 => .all (opndD w) (opndA w) (opndB w)
  | _ => .unassignedOpcode w

/-- Row 8 of the grid (R288): opcodes 0x80 to 0x8F. -/
def decodeRow8 (op : Nat) (w : W32) : Instr :=
  match op with
  | 0x80 => .ld (opndD w) (opndA w) (fieldB w)
  | 0x81 => .ldS (opndD w) (opndA w) (fieldB w)
  | 0x82 => .ldK (opndD w) (opndA w) (fieldB w)
  | 0x83 => .ldB (opndD w) (opndA w) (fieldB w)
  | 0x84 => .st (opndD w) (opndA w) (fieldB w)
  | 0x85 => .stS (opndD w) (opndA w) (fieldB w)
  | 0x86 => .stK (opndD w) (opndA w) (fieldB w)
  | 0x87 => .stB (opndD w) (opndA w) (fieldB w)
  | 0x88 => .ldx (opndD w) (opndA w) (opndB w)
  | 0x89 => .ldxS (opndD w) (opndA w) (opndB w)
  | 0x8A => .ldxK (opndD w) (opndA w) (opndB w)
  | 0x8B => .ldxB (opndD w) (opndA w) (opndB w)
  | 0x8C => .stx (opndD w) (opndA w) (opndB w)
  | 0x8D => .stxS (opndD w) (opndA w) (opndB w)
  | 0x8E => .stxK (opndD w) (opndA w) (opndB w)
  | 0x8F => .stxB (opndD w) (opndA w) (opndB w)
  | _ => .unassignedOpcode w

/-- Row 9 of the grid (R288): opcodes 0x90 to 0x9F. -/
def decodeRow9 (op : Nat) (w : W32) : Instr :=
  match op with
  | 0x90 => .ldn (opndD w) (opndA w) (fieldB w)
  | 0x91 => .stn (opndD w) (opndA w) (fieldB w)
  | 0x92 => .ldAcq (opndD w) (opndA w) (fieldB w)
  | 0x93 => .stRel (opndD w) (opndA w) (fieldB w)
  | _ => .unassignedOpcode w

/-- Row A of the grid (R288): opcodes 0xA0 to 0xAF. -/
def decodeRowA (op : Nat) (w : W32) : Instr :=
  match op with
  | 0xA0 => .atomAdd (opndD w) (opndA w) (opndB w)
  | 0xA1 => .atomMin (opndD w) (opndA w) (opndB w)
  | 0xA2 => .atomMax (opndD w) (opndA w) (opndB w)
  | 0xA3 => .atomAnd (opndD w) (opndA w) (opndB w)
  | 0xA4 => .atomOr (opndD w) (opndA w) (opndB w)
  | 0xA5 => .atomXor (opndD w) (opndA w) (opndB w)
  | 0xA6 => .atomXchg (opndD w) (opndA w) (opndB w)
  | 0xA7 => .atomCas (opndD w) (opndA w) (opndB w)
  | 0xA8 => .atomDecp (opndD w) (opndA w) (opndB w)
  | 0xA9 => .atomIncw (opndD w) (opndA w) (opndB w)
  | 0xAA => .waita (opndD w) (opndA w) (opndB w)
  | 0xAB => .wake (opndD w) (opndA w) (opndB w)
  | 0xAC => .fence (opndD w) (fieldI w)
  | 0xAD => .waito (opndD w) (fieldI w)
  | 0xAE => .barCrew (opndD w) (fieldI w)
  | 0xAF => .barFolio (opndD w) (fieldI w)
  | _ => .unassignedOpcode w

/-- Row B of the grid (R288): opcodes 0xB0 to 0xBF. -/
def decodeRowB (op : Nat) (w : W32) : Instr :=
  match op with
  | 0xB0 => .barQuire (opndD w) (opndA w) (opndB w)
  | 0xB1 => .slotWait (opndD w) (opndA w) (opndB w)
  | 0xB2 => .slotFree (opndD w) (opndA w) (opndB w)
  | 0xB3 => .ringEos (opndD w) (opndA w) (opndB w)
  | 0xB4 => .donate (opndD w) (opndA w) (opndB w)
  | _ => .unassignedOpcode w

/-- Row C of the grid (R288): opcodes 0xC0 to 0xCF. -/
def decodeRowC (op : Nat) (w : W32) : Instr :=
  match op with
  | 0xC0 => .tcfg (fieldD w) (opndA w) (opndB w)
  | 0xC1 => .ldt (fieldD w) (opndA w) (opndB w)
  | 0xC2 => .tmov (fieldD w) (opndA w) (opndB w)
  | 0xC3 => .mma (opndD w) (fieldA w) (fieldB w)
  | 0xC4 => .mmaZ (opndD w) (fieldA w) (fieldB w)
  | 0xC5 => .accCfg (opndD w) (opndA w) (opndB w)
  | 0xC6 => .drain (opndD w) (opndA w) (opndB w)
  | 0xC7 => .accSt (opndD w) (opndA w) (opndB w)
  | 0xC8 => .accLd (opndD w) (opndA w) (opndB w)
  | 0xC9 => .cpy (opndD w) (opndA w) (opndB w)
  | 0xCA => .wprd (opndD w) (opndA w) (opndB w)
  | 0xCB => .gth (opndD w) (opndA w) (opndB w)
  | 0xCC => .srecLd (fieldD w) (opndA w) (opndB w)
  | 0xCD => .srecGo (fieldD w) (opndA w) (opndB w)
  | 0xCE => .srecStop (fieldD w) (opndA w) (opndB w)
  | 0xCF => .qstat (opndD w) (opndA w) (opndB w)
  | _ => .unassignedOpcode w

/-- Row E of the grid (R288): opcodes 0xE0 to 0xEF. -/
def decodeRowE (op : Nat) (w : W32) : Instr :=
  match op with
  | 0xE0 => .sysRd (opndD w) (fieldI w)
  | 0xE1 => .sysWr (opndD w) (fieldI w)
  | 0xE2 => .trap (opndD w) (fieldI w)
  | 0xE3 => .brk (opndD w) (opndA w) (opndB w)
  | 0xE4 => .endTeam (opndD w) (opndA w) (opndB w)
  | 0xE5 => .fork (opndD w) (opndA w) (opndB w)
  | 0xE6 => .enq (opndD w) (opndA w) (opndB w)
  | 0xE7 => .depDec (opndD w) (opndA w) (opndB w)
  | 0xE8 => .depSet (opndD w) (opndA w) (opndB w)
  | 0xE9 => .tblLd (opndD w) (opndA w) (opndB w)
  | 0xEA => .dxRun (opndD w) (opndA w) (opndB w)
  | 0xEB => .dxQry (opndD w) (opndA w) (opndB w)
  | 0xEC => .dxStat (opndD w) (opndA w) (opndB w)
  | 0xED => .putr (opndD w) (opndA w) (opndB w)
  | 0xEE => .getr (opndD w) (opndA w) (opndB w)
  | 0xEF => .rredAdd (opndD w) (opndA w) (opndB w)
  | _ => .unassignedOpcode w

/-- Row F of the grid (R288): opcodes 0xF0 to 0xFF. -/
def decodeRowF (op : Nat) (w : W32) : Instr :=
  match op with
  | 0xF0 => .rredMax (opndD w) (opndA w) (opndB w)
  | 0xF1 => .xsend (opndD w) (opndA w) (opndB w)
  | 0xF2 => .ctrAdd (opndD w) (opndA w) (opndB w)
  | 0xF3 => .ctrRd (opndD w) (opndA w) (opndB w)
  | 0xF4 => .cav (opndD w) (opndA w) (opndB w)
  | 0xF5 => .repart (opndD w) (opndA w) (opndB w)
  | 0xF6 => .collSt (opndD w) (opndA w) (opndB w)
  | 0xF7 => .role (opndD w) (opndA w) (opndB w)
  | 0xF8 => .tret (opndD w) (opndA w) (opndB w)
  | _ => .unassignedOpcode w

/-- The instruction of a word and the word that follows it (R288). -/
def decodeWord (w lit : W32) : Instr :=
  let op := opcodeOf w
  match op / 16 with
  | 0x0 => decodeRow0 op w
  | 0x1 => decodeRow1 op w
  | 0x2 => decodeRow2 op w
  | 0x3 => decodeRow3 op w lit
  | 0x4 => decodeRow4 op w
  | 0x5 => decodeRow5 op w
  | 0x6 => decodeRow6 op w
  | 0x7 => decodeRow7 op w
  | 0x8 => decodeRow8 op w
  | 0x9 => decodeRow9 op w
  | 0xA => decodeRowA op w
  | 0xB => decodeRowB op w
  | 0xC => decodeRowC op w
  | 0xE => decodeRowE op w
  | 0xF => decodeRowF op w
  | _ => .unassignedOpcode w

/-- Decoding a list of words: the instruction and the words after it, or why there is none. LI32 alone takes a second
word, its literal (R271). -/
def decode : List W32 → Except DecodeError (Instr × List W32)
  | [] => .error .noWord
  | w :: rest =>
    if opcodeOf w = 0x3E then
      match rest with
      | [] => .error .noLiteral
      | lit :: rest' => .ok (decodeWord w lit, rest')
    else .ok (decodeWord w 0, rest)

/-- Words of the five formats (R271). -/
def wordF3 (op : Nat) (d a b : Opnd) : W32 := BitVec.ofNat 32 (op * 2 ^ 24 + d.code * 2 ^ 16 + a.code * 2 ^ 8 + b.code)
def wordFI (op : Nat) (d : Opnd) (imm : BitVec 16) : W32 := BitVec.ofNat 32 (op * 2 ^ 24 + d.code * 2 ^ 16 + imm.toNat)
def wordFM (op : Nat) (d a : Opnd) (off : BitVec 8) : W32 :=
  BitVec.ofNat 32 (op * 2 ^ 24 + d.code * 2 ^ 16 + a.code * 2 ^ 8 + off.toNat)
def wordFB (op : Nat) (off : BitVec 24) : W32 := BitVec.ofNat 32 (op * 2 ^ 24 + off.toNat)
/-- F3 with a tile or stream number in d (R272). -/
def wordT3 (op : Nat) (t : BitVec 8) (a b : Opnd) : W32 :=
  BitVec.ofNat 32 (op * 2 ^ 24 + t.toNat * 2 ^ 16 + a.code * 2 ^ 8 + b.code)
/-- F3 with tile numbers in a and b (R272). -/
def wordM3 (op : Nat) (d : Opnd) (x y : BitVec 8) : W32 :=
  BitVec.ofNat 32 (op * 2 ^ 24 + d.code * 2 ^ 16 + x.toNat * 2 ^ 8 + y.toNat)

/-- The words of an instruction (R271, R288, R289); a device event has none. -/
def encode (i : Instr) : List W32 :=
  match i with
  | .nop d a b => [wordF3 0x00 d a b]
  | .bra off => [wordFB 0x01 off]
  | .brg off => [wordFB 0x02 off]
  | .brz d imm => [wordFI 0x03 d imm]
  | .brnz d imm => [wordFI 0x04 d imm]
  | .call off => [wordFB 0x05 off]
  | .ret d a b => [wordF3 0x06 d a b]
  | .rcv off => [wordFB 0x07 off]
  | .join d a b => [wordF3 0x08 d a b]
  | .yield d a b => [wordF3 0x09 d a b]
  | .bri d a b => [wordF3 0x0A d a b]
  | .modeSet d a b => [wordF3 0x0B d a b]
  | .modeGet d a b => [wordF3 0x0C d a b]
  | .modeGuard d imm => [wordFI 0x0D d imm]
  | .modeType d imm => [wordFI 0x0E d imm]
  | .modeRnd d imm => [wordFI 0x0F d imm]
  | .sadd d a b => [wordF3 0x10 d a b]
  | .ssub d a b => [wordF3 0x11 d a b]
  | .smul d a b => [wordF3 0x12 d a b]
  | .slih d imm => [wordFI 0x13 d imm]
  | .sdiv d a b => [wordF3 0x14 d a b]
  | .modeSrc d imm => [wordFI 0x15 d imm]
  | .sand d a b => [wordF3 0x16 d a b]
  | .sor d a b => [wordF3 0x17 d a b]
  | .sxor d a b => [wordF3 0x18 d a b]
  | .sshl d a b => [wordF3 0x19 d a b]
  | .sshr d a b => [wordF3 0x1A d a b]
  | .ssra d a b => [wordF3 0x1B d a b]
  | .sslt d a b => [wordF3 0x1C d a b]
  | .ssltn d a b => [wordF3 0x1D d a b]
  | .saddi d imm => [wordFI 0x1E d imm]
  | .sli d imm => [wordFI 0x1F d imm]
  | .add d a b => [wordF3 0x20 d a b]
  | .sub d a b => [wordF3 0x21 d a b]
  | .mul d a b => [wordF3 0x22 d a b]
  | .mulh d a b => [wordF3 0x23 d a b]
  | .mad d a b => [wordF3 0x24 d a b]
  | .min d a b => [wordF3 0x25 d a b]
  | .max d a b => [wordF3 0x26 d a b]
  | .abs d a b => [wordF3 0x27 d a b]
  | .neg d a b => [wordF3 0x28 d a b]
  | .and d a b => [wordF3 0x29 d a b]
  | .or d a b => [wordF3 0x2A d a b]
  | .xor d a b => [wordF3 0x2B d a b]
  | .not d a b => [wordF3 0x2C d a b]
  | .shl d a b => [wordF3 0x2D d a b]
  | .shr d a b => [wordF3 0x2E d a b]
  | .rot d a b => [wordF3 0x2F d a b]
  | .clz d a b => [wordF3 0x30 d a b]
  | .popc d a b => [wordF3 0x31 d a b]
  | .brev d a b => [wordF3 0x32 d a b]
  | .addi d imm => [wordFI 0x33 d imm]
  | .mov d a b => [wordF3 0x34 d a b]
  | .movi d imm => [wordFI 0x35 d imm]
  | .sel d a b => [wordF3 0x36 d a b]
  | .cmpEq d a b => [wordF3 0x37 d a b]
  | .cmpNe d a b => [wordF3 0x38 d a b]
  | .cmpLt d a b => [wordF3 0x39 d a b]
  | .cmpLe d a b => [wordF3 0x3A d a b]
  | .cmpUn d a b => [wordF3 0x3B d a b]
  | .div d a b => [wordF3 0x3C d a b]
  | .rem d a b => [wordF3 0x3D d a b]
  | .li32 d a b lit => [wordF3 0x3E d a b, lit]
  | .clamp d a b => [wordF3 0x3F d a b]
  | .sqrt d a b => [wordF3 0x40 d a b]
  | .rsq d a b => [wordF3 0x41 d a b]
  | .rcp d a b => [wordF3 0x42 d a b]
  | .exp2 d a b => [wordF3 0x43 d a b]
  | .log2 d a b => [wordF3 0x44 d a b]
  | .sin d a b => [wordF3 0x45 d a b]
  | .cos d a b => [wordF3 0x46 d a b]
  | .tanh d a b => [wordF3 0x47 d a b]
  | .sigm d a b => [wordF3 0x48 d a b]
  | .erf d a b => [wordF3 0x49 d a b]
  | .floor d a b => [wordF3 0x4A d a b]
  | .ceil d a b => [wordF3 0x4B d a b]
  | .trunc d a b => [wordF3 0x4C d a b]
  | .rint d a b => [wordF3 0x4D d a b]
  | .fclass d a b => [wordF3 0x4E d a b]
  | .scalb d a b => [wordF3 0x4F d a b]
  | .cvt d a b => [wordF3 0x50 d a b]
  | .cvtp d a b => [wordF3 0x51 d a b]
  | .qnt d a b => [wordF3 0x52 d a b]
  | .dqnt d a b => [wordF3 0x53 d a b]
  | .dot4 d a b => [wordF3 0x54 d a b]
  | .minp d a b => [wordF3 0x55 d a b]
  | .maxp d a b => [wordF3 0x56 d a b]
  | .ballot d a b => [wordF3 0x60 d a b]
  | .pcnt d a b => [wordF3 0x61 d a b]
  | .prank d a b => [wordF3 0x62 d a b]
  | .shfl d a b => [wordF3 0x63 d a b]
  | .shflX d a b => [wordF3 0x64 d a b]
  | .shflUp d a b => [wordF3 0x65 d a b]
  | .shflDn d a b => [wordF3 0x66 d a b]
  | .rdlane d a b => [wordF3 0x67 d a b]
  | .wrlane d a b => [wordF3 0x68 d a b]
  | .matchN d a b => [wordF3 0x69 d a b]
  | .matchB d a b => [wordF3 0x6A d a b]
  | .tredAdd d a b => [wordF3 0x6B d a b]
  | .tredMin d a b => [wordF3 0x6C d a b]
  | .tredMax d a b => [wordF3 0x6D d a b]
  | .tredAnd d a b => [wordF3 0x6E d a b]
  | .tredOr d a b => [wordF3 0x6F d a b]
  | .tscanAdd d a b => [wordF3 0x70 d a b]
  | .pand d a b => [wordF3 0x71 d a b]
  | .por d a b => [wordF3 0x72 d a b]
  | .pxor d a b => [wordF3 0x73 d a b]
  | .pnot d a b => [wordF3 0x74 d a b]
  | .pnz d a b => [wordF3 0x75 d a b]
  | .pval d a b => [wordF3 0x76 d a b]
  | .any d a b => [wordF3 0x77 d a b]
  | .all d a b => [wordF3 0x78 d a b]
  | .ld d a off => [wordFM 0x80 d a off]
  | .ldS d a off => [wordFM 0x81 d a off]
  | .ldK d a off => [wordFM 0x82 d a off]
  | .ldB d a off => [wordFM 0x83 d a off]
  | .st d a off => [wordFM 0x84 d a off]
  | .stS d a off => [wordFM 0x85 d a off]
  | .stK d a off => [wordFM 0x86 d a off]
  | .stB d a off => [wordFM 0x87 d a off]
  | .ldx d a b => [wordF3 0x88 d a b]
  | .ldxS d a b => [wordF3 0x89 d a b]
  | .ldxK d a b => [wordF3 0x8A d a b]
  | .ldxB d a b => [wordF3 0x8B d a b]
  | .stx d a b => [wordF3 0x8C d a b]
  | .stxS d a b => [wordF3 0x8D d a b]
  | .stxK d a b => [wordF3 0x8E d a b]
  | .stxB d a b => [wordF3 0x8F d a b]
  | .ldn d a off => [wordFM 0x90 d a off]
  | .stn d a off => [wordFM 0x91 d a off]
  | .ldAcq d a off => [wordFM 0x92 d a off]
  | .stRel d a off => [wordFM 0x93 d a off]
  | .atomAdd d a b => [wordF3 0xA0 d a b]
  | .atomMin d a b => [wordF3 0xA1 d a b]
  | .atomMax d a b => [wordF3 0xA2 d a b]
  | .atomAnd d a b => [wordF3 0xA3 d a b]
  | .atomOr d a b => [wordF3 0xA4 d a b]
  | .atomXor d a b => [wordF3 0xA5 d a b]
  | .atomXchg d a b => [wordF3 0xA6 d a b]
  | .atomCas d a b => [wordF3 0xA7 d a b]
  | .atomDecp d a b => [wordF3 0xA8 d a b]
  | .atomIncw d a b => [wordF3 0xA9 d a b]
  | .waita d a b => [wordF3 0xAA d a b]
  | .wake d a b => [wordF3 0xAB d a b]
  | .fence d imm => [wordFI 0xAC d imm]
  | .waito d imm => [wordFI 0xAD d imm]
  | .barCrew d imm => [wordFI 0xAE d imm]
  | .barFolio d imm => [wordFI 0xAF d imm]
  | .barQuire d a b => [wordF3 0xB0 d a b]
  | .slotWait d a b => [wordF3 0xB1 d a b]
  | .slotFree d a b => [wordF3 0xB2 d a b]
  | .ringEos d a b => [wordF3 0xB3 d a b]
  | .donate d a b => [wordF3 0xB4 d a b]
  | .tcfg t a b => [wordT3 0xC0 t a b]
  | .ldt t a b => [wordT3 0xC1 t a b]
  | .tmov t a b => [wordT3 0xC2 t a b]
  | .mma d x y => [wordM3 0xC3 d x y]
  | .mmaZ d x y => [wordM3 0xC4 d x y]
  | .accCfg d a b => [wordF3 0xC5 d a b]
  | .drain d a b => [wordF3 0xC6 d a b]
  | .accSt d a b => [wordF3 0xC7 d a b]
  | .accLd d a b => [wordF3 0xC8 d a b]
  | .cpy d a b => [wordF3 0xC9 d a b]
  | .wprd d a b => [wordF3 0xCA d a b]
  | .gth d a b => [wordF3 0xCB d a b]
  | .srecLd t a b => [wordT3 0xCC t a b]
  | .srecGo t a b => [wordT3 0xCD t a b]
  | .srecStop t a b => [wordT3 0xCE t a b]
  | .qstat d a b => [wordF3 0xCF d a b]
  | .sysRd d imm => [wordFI 0xE0 d imm]
  | .sysWr d imm => [wordFI 0xE1 d imm]
  | .trap d imm => [wordFI 0xE2 d imm]
  | .brk d a b => [wordF3 0xE3 d a b]
  | .endTeam d a b => [wordF3 0xE4 d a b]
  | .fork d a b => [wordF3 0xE5 d a b]
  | .enq d a b => [wordF3 0xE6 d a b]
  | .depDec d a b => [wordF3 0xE7 d a b]
  | .depSet d a b => [wordF3 0xE8 d a b]
  | .tblLd d a b => [wordF3 0xE9 d a b]
  | .dxRun d a b => [wordF3 0xEA d a b]
  | .dxQry d a b => [wordF3 0xEB d a b]
  | .dxStat d a b => [wordF3 0xEC d a b]
  | .putr d a b => [wordF3 0xED d a b]
  | .getr d a b => [wordF3 0xEE d a b]
  | .rredAdd d a b => [wordF3 0xEF d a b]
  | .rredMax d a b => [wordF3 0xF0 d a b]
  | .xsend d a b => [wordF3 0xF1 d a b]
  | .ctrAdd d a b => [wordF3 0xF2 d a b]
  | .ctrRd d a b => [wordF3 0xF3 d a b]
  | .cav d a b => [wordF3 0xF4 d a b]
  | .repart d a b => [wordF3 0xF5 d a b]
  | .collSt d a b => [wordF3 0xF6 d a b]
  | .role d a b => [wordF3 0xF7 d a b]
  | .tret d a b => [wordF3 0xF8 d a b]
  | .unassignedOpcode word => [word]
  | .deviceReset => []
  | .freezeNAssert => []
  | .freezeClocksStop => []
  | .freezeNDeassert => []
  | .pwrbrkNAssert => []
  | .pwrbrkNDeassert => []
  | .thermalSensorEvent _ _ => []
  | .droopDetect _ => []
  | .droopEnd _ => []
  | .adaptiveVoltageAdjust _ _ => []
  | .laneRetrain _ _ _ => []
  | .eccCorrectedError _ _ => []
  | .rowTestComplete _ _ => []
  | .eccUncorrectableError _ _ => []
  | .ageingUpdate _ => []
  | .ageingFirstEstimate _ => []
  | .pcieLinkDown _ => []
  | .pcieLinkUp _ => []
  | .hostBar4Write _ _ _ => []
  | .hostBar4Read _ _ _ => []
  | .hostAtomicop _ _ _ _ _ _ => []
  | .atsInvalidation _ _ => []
  | .doorbellWrite _ _ _ _ => []
  | .hqPairBind _ _ => []
  | .hqQrelease _ _ => []
  | .hqQresume _ _ => []
  | .hqPreemptRequest _ _ => []
  | .preemptSaveComplete _ => []
  | .hqPreemptResume _ _ => []
  | .preemptRestoreComplete _ => []
  | .hqCtrRangeWrite _ _ => []
  | .hqJobBaseWrite _ _ => []
  | .hkElogBaseWrite _ _ => []
  | .hkElogSizeWrite _ _ => []
  | .fwActivate _ _ => []
  | .fwCommit _ _ => []
  | .hkFwWindowWrite _ _ => []
  | .fwTrialExpiry => []
  | .fwThreadSwitch _ => []
  | .rcvErase _ _ => []
  | .rcvProgram _ _ => []
  | .rcvSeal _ _ => []
  | .rcvReboot _ _ => []
  | .rcvCmdRefused _ _ => []
  | .rcvCmdComplete _ => []
  | .frReplay _ _ => []
  | .frDeny _ _ => []
  | .frCtlWrite _ _ => []
  | .frTailWrite _ _ => []
  | .frStatusPoolClear _ _ => []
  | .faultRecordHeldWrite _ => []
  | .hqWdogWrite _ _ => []
  | .regWrite _ _ _ _ => []
  | .freeze _ => []
  | .scan _ _ => []
  | .thaw _ => []
  | .health _ _ => []
  | .life _ => []
  | .l2share _ _ _ => []
  | .idset _ _ => []
  | .mctpUnsupported _ => []
  | .getVersion _ => []
  | .getCapabilities _ => []
  | .negotiateAlgorithms _ => []
  | .getDigests _ => []
  | .getCertificate _ => []
  | .challenge _ => []
  | .getMeasurements _ => []
  | .flitReceive _ _ _ _ => []
  | .nakReceive _ _ => []
  | .portReplayLimit _ => []
  | .portIdleTimeout _ => []
  | .portTrainingComplete _ _ => []
  | .routeSwitch _ _ => []
  | .queueMap _ _ => []
  | .queuePriorityUnmap _ _ => []
  | .queueFairnessUnmap _ _ => []
  | .queueIdleUnmap _ _ => []
  | .pktNop _ => []
  | .pktLaunch _ => []
  | .pktLaunchInd _ _ => []
  | .prologueReinvoke _ _ => []
  | .prologueBudgetExpiry _ _ => []
  | .pktWaitmem _ => []
  | .waitmemLineChange _ => []
  | .waitmemHostPoll _ => []
  | .pktSignal _ => []
  | .pktLoop _ => []
  | .pktEndloop _ => []
  | .pktIf _ => []
  | .pktElse _ => []
  | .pktEndif _ => []
  | .pktCall _ => []
  | .pktReturn _ => []
  | .pktJump _ => []
  | .pktCopy _ => []
  | .pktGraphSubmit _ => []
  | .pktDxRun _ => []
  | .pktInval _ => []
  | .pktReplay _ => []
  | .pktFence _ => []
  | .crewPlace _ _ _ => []
  | .folioGroupPlace _ _ _ _ => []
  | .gangReservationTimeout _ => []
  | .gangStarvedTimeout _ => []
  | .launchComplete _ => []
  | .forkParentResume _ _ _ => []
  | .enqSwapOut _ => []
  | .enqSwappedResume _ _ _ => []
  | .taskDispatch _ _ => []
  | .heldTaskInsert _ _ => []
  | .taskComplete _ => []
  | .remoteEnqArrival _ _ _ _ _ _ => []
  | .enqAckReceive _ _ _ => []
  | .dxStageForm _ _ => []
  | .dxEvalComplete _ _ => []
  | .dxJacobianComplete _ _ => []
  | .dxEventEvalComplete _ _ => []
  | .dxRunComplete _ _ => []
  | .dxStartExchange _ _ _ _ _ => []
  | .quiresyncArrival _ _ _ _ => []
  | .dxMemberStartTimeout _ _ => []
  | .dxPeerSilentTimeout _ _ _ => []
  | .collAnnounceReceive _ _ _ _ => []
  | .collOpenTimeout _ _ => []
  | .collChunkReceive _ _ _ _ _ => []
  | .earlyLandingArrival _ _ _ _ _ _ => []
  | .repartHistogramPass _ _ => []
  | .repartRecordChunk _ _ => []
  | .collMemberComplete _ _ => []
  | .barQuireArrivalMsg _ _ _ _ _ _ => []
  | .putrArrival _ _ _ _ _ _ => []
  | .rredArrival _ _ _ _ _ _ _ => []
  | .getrRequestArrival _ _ _ _ _ => []
  | .getrResponse _ _ _ _ _ => []
  | .remoteWriteAck _ _ _ _ _ => []
  | .triggeredSendFire _ _ => []
  | .triggeredSendArrival _ _ _ _ _ _ _ => []
  | .govWindowStart _ => []
  | .watchdogExpiry _ => []
  | .waitaWakeReturn _ => []
  | .deferredEngineTrap _ => []
  | .memResponseReturn _ _ => []
  | .cpyTransferStart _ _ => []
  | .cpyTransferComplete _ _ => []
  | .gthCommandComplete _ => []
  | .matrixCommandStart _ => []
  | .matrixCommandComplete _ => []
  | .feedEntryFill _ _ => []
  | .ringSlotFilled _ _ _ => []
  | .ringProducerClose _ _ _ => []
  | .pktReservedOpcode _ => []
  | .copyPacketComplete _ _ => []

/-- The instruction that decoding reads from an instruction of nbits bits, bit 0 the least significant bit of the first
word and the bits above nbits zero; the words lie in rising addresses, each little-endian (R270). -/
def decodeTableWord (nbits w : Nat) : Option Instr :=
  let v := w % 2 ^ nbits
  match decode [BitVec.ofNat 32 v, BitVec.ofNat 32 (v / 2 ^ 32)] with
  | .ok (i, _) => some i
  | .error _ => none

/-- The 32-bit word of four bytes, the first at the lowest address (00 R4). -/
def wordOfBytes (b0 b1 b2 b3 : Byte) : W32 :=
  BitVec.ofNat 32 (b0.toNat + b1.toNat * 2 ^ 8 + b2.toNat * 2 ^ 16 + b3.toNat * 2 ^ 24)

/-- The words of a run of bytes, little-endian; bytes short of a word at the end give none. -/
def wordsOfBytes : List Byte → List W32
  | b0 :: b1 :: b2 :: b3 :: rest => wordOfBytes b0 b1 b2 b3 :: wordsOfBytes rest
  | _ => []

end Sys2Proof
end

