-- ==== Sys2Proof/Machine/Cells.lean ====
section
/-! DEFINITION. Reading and writing a table of `Cells`. A write keeps the canonical form: keys strictly rising, and no
entry equal to what an unlisted key reads as. -/

namespace Sys2Proof.Machine

/-- What key k reads as; d where the table lists nothing. -/
def cget {α : Type} (d : α) : Cells α → Nat → α
  | [], _ => d
  | (a, v) :: r, k => if a = k then v else if k < a then d else cget d r k

/-- The table with key k holding v. -/
def cset {α : Type} [DecidableEq α] (d : α) : Cells α → Nat → α → Cells α
  | [], k, v => if v = d then [] else [(k, v)]
  | (a, w) :: r, k, v =>
    if k < a then (if v = d then (a, w) :: r else (k, v) :: (a, w) :: r)
    else if k = a then (if v = d then r.dropWhile (fun e => e.1 ≤ k) else (k, v) :: r)
    else (a, w) :: cset d r k v

/-- The canonical form: every key above `lo`, keys strictly rising, no entry equal to the default. -/
def cwfFrom {α : Type} [DecidableEq α] (d : α) (lo : Option Nat) : Cells α → Bool
  | [] => true
  | (a, v) :: r =>
    (match lo with
      | none => true
      | some l => decide (l < a)) && !decide (v = d) && cwfFrom d (some a) r

/-- The canonical form of a table. -/
def cwf {α : Type} [DecidableEq α] (d : α) (m : Cells α) : Bool := cwfFrom d none m


end Sys2Proof.Machine
end

