-- ==== Sys2Proof/Machine/State.lean ====
section
/-! DEFINITION. Everything the spec gives the machine to hold, as plain data (INVENTORY.md lists it rule by rule). The
model is one chip. Tables are `Cells`: keys strictly rising, no entry equal to the table's default, which is the value
of the field defaults below. A default on a field is its value at reset. -/

namespace Sys2Proof.Machine

/-- Why the machine stops with no next state: never. The spec gives every instruction and every step of the device an
outcome that is a state, so no reason exists. -/
inductive Fault where
  deriving DecidableEq, Repr

/-- Why an instruction has no meaning here. -/
inductive Refusal where
  /-- Raised by an arm of exec that has no meaning yet. Safe. -/
  | notModelled (mnemonic : String)
  deriving DecidableEq, Repr

/-- A register of a team as a destination (00 R6). -/
inductive Reg where
  | v (n : Nat) | s (n : Nat) | p (n : Nat) | x (n : Nat)
  deriving DecidableEq, Repr

/-- A fixed-latency result not yet written (08 R165): of one lane (V, X, P), or of the team (S, lane 0). -/
structure PendWrite where
  reg : Reg
  lane : Nat
  val : W64
  due : Nat
  pc : W64
  il : Bool := false            -- interlocked: a reader or a later writer waits for it (R167)
  deriving DecidableEq, Repr

/-- One pass: its lanes lo, …, lo + n - 1, the cycle in which it counts as issued (08 R166), and the cycles for which it holds its
port (R170). -/
structure Pass where
  lo : Nat
  n : Nat
  at_ : Nat
  occ : Nat := 1
  deriving DecidableEq, Repr

/-- Where an interlocked result comes from (08 R167). -/
inductive FlightKind where
  | mem                 -- a load or atomic on this chip: MEM_RESPONSE_RETURN
  | gth                 -- a gather command: its completion
  | enq (token : Nat)   -- a remote ENQ: its acknowledgement
  | getr (token : Nat)  -- a GETR: its responses
  deriving DecidableEq, Repr

/-- A trap of the issuing team that an engine or a remote lane causes (10 R206). -/
structure TrapInfo where
  code : Nat
  info0 : W64 := 0
  info1 : W64 := 0
  lane : W64 := 0xFFFF
  deriving DecidableEq, Repr

/-- The access of one lane of a load that may still be performed later than its issue (11 R225): its bytes and its writes. -/
structure LateLoad where
  va : Nat
  key : Nat
  size : Nat
  writes : List (Reg × Nat × W64)
  hint : Nat := 0                       -- its retention hint (09 R181)
  deriving DecidableEq, Repr

/-- An interlocked result still in flight: the registers it holds, and the values that have arrived. -/
structure InFlight where
  id : Nat                -- which instruction of the team, by the count `nIssued`
  kind : FlightKind
  regs : List Reg
  writes : List (Reg × Nat × W64)
  left : Nat := 0
  poison : Option (Nat × Nat) := none   -- the lowest lane whose response is poisoned, and its address
  late : List LateLoad := []            -- the accesses that may be performed when the response comes
  reqs : Nat := 0                       -- the memory requests it has outstanding (00 R1)
  deriving DecidableEq, Repr

/-- An entry of the reconvergence stack (16 R305). -/
structure RecEntry where
  pending : Bool
  addr : W64
  mask : LaneMask
  mr : W64
  deriving DecidableEq, Repr

/-- A fault record that an access waits on (10 R204), and whether a REPLAY has covered it (R205). -/
structure FaultRef where
  seq : Nat
  va : Nat
  cause : Nat
  lane : Nat
  covered : Bool := false
  deriving DecidableEq, Repr

/-- What an entry of an operand queue carries in place of data (09 R192, R193). -/
inductive QPoison where
  | data (lane : Nat)                              -- poisoned data (01 R24)
  | fault (va cause level lane : Nat)              -- the Feed's access did not translate
  | extent (va lane : Nat)                         -- an index outside the target's extent: PROTECTION
  | canon (va lane : Nat)                          -- bits [63:52] of the address set: TRANSLATION
  deriving DecidableEq, Repr

/-- One entry of an operand queue: 32 bits per lane (09 R191). -/
structure QEntry where
  vals : Cells W32 := []
  poison : Option QPoison := none
  deriving DecidableEq, Repr

/-- Q0 to Q7 (09 R190 to R192). -/
structure OpQueue where
  bind : W64 := 0
  entries : List QEntry := []
  deriving DecidableEq, Repr

/-- A stream record F0 to F15 (19 R390 to R392). -/
structure Stream where
  loaded : Bool := false
  base : Nat := 0
  stride : Int := 0
  length : Nat := 0
  esz : Nat := 0
  signed : Bool := false
  indirect : Bool := false
  ixs : Nat := 0
  hint : Nat := 0
  bound : Nat := 0
  running : Bool := false
  short : Bool := false         -- it completed short, or was stopped
  pos : Nat := 0
  ring : Bool := false
  q : Nat := 0
  ringOff : Nat := 0
  prod : Nat := 0
  part : QEntry := {}
  slot : Option Nat := none
  slotFill : Nat := 0
  order : Nat := 0              -- when SREC.GO started it
  ahead : List (List Byte × Bool) := []  -- elements read ahead, each poisoned or not (09 R193)
  halt : Option Nat := none     -- the element at which reading ahead failed
  again : Option Nat := none
  wait : Option FaultRef := none    -- ring mode: the fault that holds it
  deriving DecidableEq, Repr

/-- The drain port of a team (19 R380, R381). -/
structure Drain where
  first : Nat
  nrows : Nat
  col : Nat
  ncols : Nat
  pos : Nat := 0
  armed : Bool := false
  f64 : Bool := false           -- atype when the DRAIN issued
  deriving DecidableEq, Repr

/-- An armed monitor (18 R357 to R360, 23 R421): the 64-byte line, the order of arming, and whether its sleep has ended. -/
structure Monitor where
  line : Nat
  order : Nat
  woken : Bool := false
  deriving DecidableEq, Repr

/-- What a team does (08 R162). -/
inductive TStatus where
  | free                                   -- no team
  | run                                    -- may issue
  | sleep (m : Monitor)                    -- WAITA
  | barCrew (n : Nat) | barFolio (n : Nat) | barQuire (tag : Nat)
  | donate (partner : Nat) (delta : Int) (least : Nat)
  | wait (why : Nat)                       -- blocked at an instruction that is tried again: 0 queue, 1 ENQ, 2 SLOT.WAIT, 3 WAITO (not blocked), 4 the governor, 5 FORK
  | susp (recs : List FaultRef)            -- suspended by a fault (10 R204)
  | ended | killed
  deriving DecidableEq, Repr

/-- A translation held by a last-page register or a TLB (10 R198, R199). -/
structure Held where
  ctx : Nat
  page : Nat          -- 64 KiB page number
  kind : Nat
  home : Nat
  frame : Nat         -- physical address of the 64 KiB slice
  iova : Nat := 0     -- and the address in its page-table entry: of a host page the untranslated one (10 R196)
  perm : Nat          -- bits R, W, X as PTE bits [6:4]: 1 R, 2 W, 4 X
  bits : Nat := 16    -- log2 of the bytes of the page it is a slice of
  dirty : Bool
  hint : Nat := 0     -- the default retention hint (10 R196)
  deriving DecidableEq, Repr

/-- A task record (05 R97) with its address and its queue. -/
structure Task where
  va : Nat := 0
  entry : Nat := 0
  args : Nat := 0
  lanes : Nat := 5
  teams : Nat := 1
  regs : Nat := 1
  flags : Nat := 0
  scratch : Nat := 0
  own : Nat := 0xFFFFFFFF
  succ : List Nat := []
  weight : Nat := 0
  rank : Nat := 0
  job : Nat := 0
  depth : Nat := 0
  init : Nat := 0
  taskId : Nat := 0
  queue : Nat := 0
  deriving DecidableEq, Repr

/-- The state of a team (08 R160). -/
structure Team where
  status : TStatus := .free
  crew : Nat := 0
  id : Nat := 0
  lanesLog : Nat := 5
  nregs : Nat := 1
  partition : Nat := 0
  slot : Nat := 0               -- its team slot in the partition (08 R163, R174)
  pc : W64 := 0
  enter : Bool := true          -- the octet of pc has not been checked since it was entered (R295)
  mr : W64 := 0x40000140
  v : Cells W32 := []           -- key: register * 1024 + lane
  s : Cells W64 := []
  p : Cells LaneMask := []
  x : Cells (BitVec 16) := []   -- key: register * 1024 + lane
  vPoison : List Nat := []
  sPoison : List Nat := []
  mask : LaneMask := 0
  rstack : List RecEntry := []
  cstack : List W64 := []
  queues : Cells OpQueue := []
  streams : Cells Stream := []
  opc : Cells (List (Nat × Bool)) := []  -- per engine class 0 CPY, 1 GTH, 2 MMA, 3 FAB, 4 DX: commands issued and not retired, each complete or not
  lfsr : Cells W32 := []        -- lanes whose LFSR has left its start value (R259)
  fsr : W64 := 0
  ufc : W64 := 0
  trapCode : W64 := 0
  trapPc : W64 := 0
  trapInfo0 : W64 := 0
  trapInfo1 : W64 := 0
  trapLane : W64 := 0
  trapNext : Option W64 := none -- where an N trap resumes, if its octet was fetched and TRAP.PC is not rewritten (10 R206, R213)
  inHandler : Bool := false
  savedMr : W64 := 0
  savedMask : LaneMask := 0
  handler : W64 := 0
  pend : List PendWrite := []
  flight : List InFlight := []
  wordReady : Cells Nat := []   -- key: mask word; least core cycle of the next first pass over it (R164)
  nextIssue : Nat := 0          -- no pass before this cycle (R158, R299)
  portLast : Cells Nat := []    -- key: port 0 vector, 1 memory, 2 scalar; cycle from which its age there counts (R163)
  passes : List Pass := []      -- the passes issued of an instruction that has more (R161, R163)
  onePass : Bool := false       -- another team shares its ports, so that its passes issue one by one
  tries : Nat := 0              -- attempts of its object phase that found an odd version (09 R186)
  unseen : List (Nat × Nat × Nat) := []  -- (class, command, word) that the hub die has written for it and its core may see in an older form (11 R228)
  issued : Nat × Nat := (0, 0)  -- the port of its last pass, and the cycle in which the port selected it
  lastPage : Cells (List Held) := []
  drain : Option Drain := none
  doneLanes : LaneMask := 0     -- lanes already performed of a suspended instruction (10 R204)
  doneReads : List (Nat × Nat) := []    -- and what its loads read, by location (11 R216)
  engTraps : List TrapInfo := []
  replayed : Bool := false      -- the access is a retry (10 R205)
  faultPages : List (Nat × Nat) := []   -- kinds of access and 64 KiB pages with which the instruction has faulted
  enqWait : Nat := 0            -- remote ENQs not yet acknowledged (05 R109)
  enqTask : Option Task := none -- the task of a blocked ENQ, already counted in its job (05 R108, R109)
  octet : List W32 := []        -- the octet of pc as fetched: pace word, slots 1 to 7
  octetLate : Bool := false     -- its line was not in the instruction cache (16 R299)
  nIssued : Nat := 0            -- instructions issued
  holdId : Option Nat := none   -- an instruction of stall 15 whose interlocked results are awaited (R164)
  lastPc : W64 := 0             -- the last instruction issued (10 R206)
  deriving DecidableEq, Repr

/-- A tile of a crew (19 R373). -/
structure Tile where
  cfg : Bool := false
  rows : Nat := 0
  cols : Nat := 0
  ty : Nat := 0
  b8 : Nat := 0                 -- bits [2:0] b8p, 3 b8s, 4 b8x
  img : Cells Byte := []
  poison : List Nat := []       -- byte offsets of poisoned 8-byte words
  deriving DecidableEq, Repr

/-- A command of a crew's matrix queue (19 R384), with what it took at issue. -/
inductive MmaOp where
  | tcfg (tile : Nat)
  | setTile (tile : Nat) (img : List Byte) (poison : List Nat)
  | mma (zero : Bool) (base ta tb m n k tyA b8A tyB b8B : Nat) (f64 : Bool) (flush : Nat)
  | accCfg (f64 : Bool)
  | drain (team : Nat) (d : Drain)
  | accSt (va : Nat) (ctl : W64) (f64 : Bool)
  | accLd (f64 : Bool) (first rows cols : Nat) (vals : List W64) (poison : List Nat)
  | reading                     -- an LDT or ACC.LD whose object phase has not ended (R384, 10 R204)
  deriving DecidableEq, Repr

/-- A queued command, the team that issued it, and whether it has taken effect. -/
structure MmaCmd where
  op : MmaOp
  team : Nat
  id : Nat := 0
  at_ : Nat := 0                -- the cycle in which it issued, and the partition
  part : Nat := 0
  started : Bool := false
  done : Nat := 0               -- ACC.ST: parts of the object already written
  ver : Nat := 0                -- ACC.ST: the odd version written
  again : Option Nat := none    -- the 64 KiB page whose access is being retried (10 R205)
  wait : Option FaultRef := none
  deriving DecidableEq, Repr

/-- A drafted store or deferred operation of an idempotent crew (05 R110). -/
inductive Draft where
  | store (va key : Nat) (bytes : List Byte) (poison : Bool) (bits : Nat := 16) (hint : Nat := 0)   -- a store, log2 of its page, and its retention hint
  | release (scope : Nat)                                             -- a release between stores (12 R238); it takes no draft space
  | enq (t : Task) (queue : Nat)
  | dec (id n : Nat)
  | set (id n : Nat)
  | renq (team chip queue : Nat) (record : List Byte) (depth : Nat)   -- a remote ENQ
  deriving DecidableEq, Repr

/-- An aligned 8-byte word in an older form, as a core sees it while later writes have not reached the home memory from their core
(11 R225), or as a line of an L1 or a margin cache holds it (09 R180): the core or die, the form, and the count when the first write
that it lacks was made, so that of two forms of a word the one with the higher count is the newer. -/
structure StaleWord where
  core : Nat
  word : Nat
  bytes : List Byte
  bad : Bool
  since : Nat
  deriving DecidableEq, Repr

/-- Why a launch exists. -/
inductive Origin where
  | none
  | queue (q : Nat)                         -- a Scriptor packet
  | fork (crew : Nat)                       -- a FORK child
  | task (t : Task)                         -- a Rubric task
  | dx (handle kind stage part : Nat) (t h : W64) (vec out : Nat) (vstride ostride : Nat) (n slab : Nat)
      -- a Ductus evaluation: kind 0 RHS, 1 Jacobian, 2 event; per-slab strides
  deriving DecidableEq, Repr

/-- A launch record (04 R77). -/
structure LRec where
  entry : Nat := 0
  args : Nat := 0
  gx : Nat := 1
  gy : Nat := 1
  gz : Nat := 1
  lanes : Nat := 5
  teams : Nat := 1
  regs : Nat := 1
  flags : Nat := 0
  scratch : Nat := 0
  quire : Nat := 0xFFFF
  folioMode : Nat := 0
  prio : Nat := 0
  monq : Nat := 0
  counter : Nat := 0
  handler : Nat := 0
  rsv : Nat := 0                -- the reserved bytes and must-be-0 bits, 0 when all are 0
  deriving DecidableEq, Repr

/-- An accepted launch (04 R80, R81). -/
structure Launch where
  live : Bool := false
  ctx : Nat := 0
  lrec : LRec := {}
  origin : Origin := .none
  depth : Nat := 0
  order : Nat := 0
  nextIx : Nat := 0             -- least linear index not yet placed
  requeued : List (Nat × List FaultRef) := []  -- aborted idempotent crews awaiting a REPLAY (05 R110); [] when covered
  groupsPlaced : List Nat := [] -- groups of a folio launch already placed (04 R84)
  liveCrews : Nat := 0
  status : Nat := 0
  info : Nat := 0
  stopped : Bool := false       -- no further crew is placed
  reservation : Option Nat := none
  gangDue : Bool := false       -- the timer of its oldest unplaced group has reached 2^20 (04 R89)
  roles : List (Nat × Nat) := []   -- (linear index, role) as the quire's table stood at acceptance (04 R87)
  codeMem : Cells Byte := []       -- memory and dirty lines as they stood at acceptance: the old form of code (11 R233)
  codeL2 : Cells (Option Byte) := []
  codeOld : List StaleWord := []   -- and the words whose stores were not visible at DEV scope then
  deriving DecidableEq, Repr

/-- A transfer of a copy channel (19 R385, R386). -/
structure CpyXfer where
  team : Nat
  crew : Nat
  src : Nat
  dst : Nat
  bytes : Nat
  reset : Bool
  ring : Option (Nat × Nat)     -- descriptor offset, producer
  hint : Nat := 0
  order : Nat := 0              -- when it was issued
  done : Nat := 0
  started : Bool := false
  slot : Option Nat := none
  again : Option Nat := none    -- the 64 KiB page whose access is being retried (10 R205)
  wait : Option FaultRef := none
  deriving DecidableEq, Repr

/-- A gather command (19 R388, R389). -/
structure GthCmd where
  team : Nat
  id : Nat := 0
  crew : Nat
  base : Nat
  idx : Nat
  dst : Nat
  count : Nat
  lsz : Nat
  bound : Nat
  signed : Bool
  hint : Nat := 0
  done : Nat := 0
  bad : Nat := 0
  sd : Option Nat := none
  again : Option Nat := none    -- the 64 KiB page whose access is being retried (10 R205)
  wait : Option FaultRef := none
  deriving DecidableEq, Repr

/-- Where a crew is. -/
inductive CStatus where
  | none | resident | forking | enqSwapped | saved (wasForking : Bool) | ended
  deriving DecidableEq, Repr

/-- A crew (04 R83 to R90). -/
structure Crew where
  status : CStatus := .none
  launch : Nat := 0
  ctx : Nat := 0
  ix : Nat := 0
  core : Nat := 0
  p0 : Nat := 0
  teams : List Nat := []        -- indices of its teams, TEAM.ID order
  scratch : Cells (Option Byte) := []   -- bytes written since placement
  scratchSeed : Nat := 0        -- names the undefined contents at placement (09 R178)
  scratchSize : Nat := 0
  scratchPoison : List Nat := []
  monq : Nat := 0
  tiles : Cells Tile := []
  acc : Cells W64 := []         -- key: row * 64 + column
  accPoison : List Nat := []
  accF64 : Bool := false
  mmq : List MmaCmd := []
  idem : Bool := false
  drafted : Bool := false       -- idempotence ended while running (05 R111)
  drafts : List Draft := []
  draftUsed : Nat := 0
  group : Nat := 0
  rank : Nat := 0xFF
  role : Nat := 0xFFFFFFFF
  childrenLeft : Nat := 0
  forkReqs : List (Nat × Nat) := []  -- FORKs that await the swap-out (04 R90): array VA, count
  cpySaved : List (Nat × CpyXfer) := []  -- while swapped out: its transfers with their channels,
  gthSaved : List GthCmd := []           -- its gather commands,
  wpSaved : List Nat := []               -- and WP of each channel of its core (19 R394)
  killed : Option Nat := none
  ringEos : List (Nat × Nat × Nat × Nat) := []  -- closes requested (09 R189): descriptor offset, producer, team, order
  ringClaims : List (Nat × Nat × Nat) := []  -- (descriptor offset, claimed index, producer) not yet visible
  ringAsks : List (Nat × Nat) := []     -- claims that a full ring has not granted, in order of arrival: (descriptor offset, order of the command)
  deriving DecidableEq, Repr

/-- A copy channel (09 R182). -/
structure Chan where
  wp : Nat := 0
  sum : Nat := 0                -- WP at which the next transfer begins (19 R386)
  q : List CpyXfer := []
  deriving DecidableEq, Repr

/-- A compute core. -/
structure Core where
  cycle : Nat := 0              -- CYCLES (20 R398)
  portFree : Cells Nat := []    -- key: partition * 4 + port
  govCur : Nat := 1             -- B_k (08 R176)
  govCap : Nat := 64
  govUsed : Nat := 0
  govWindow : Nat := 0
  govStall : Nat := 0
  govFrom : Option Nat := none  -- since when a team is blocked in this window
  specDrop : Nat := 0
  hot : Bool := false
  degC : Nat := 0               -- its hotspot's last reading (01 R19)
  retired : Bool := false
  chans : Cells Chan := []
  gth : List GthCmd := []
  tlb : List Held := []
  ptlb : Cells (List Held) := []
  deriving DecidableEq, Repr

/-- A tableau slot (06 R112, R113). -/
structure Tableau where
  kind : Nat := 0
  s : Nat := 0
  q : Nat := 0
  qhat : Nat := 0
  deg : Nat := 0
  fsal : Bool := false
  c : List W64 := []
  a : List (List W64) := []     -- kinds 0 and 1: A; kind 2: the explicit matrix
  a2 : List (List W64) := []    -- kind 2: the implicit matrix
  b : List W64 := []
  bhat : List W64 := []
  dm : List (List W64) := []
  d : List W64 := []
  ei : W64 := 0
  raw : List Byte := []
  deriving DecidableEq, Repr

/-- An armed triggered send (07 R156). -/
structure ArmedSend where
  team : Nat
  src : Nat
  dstva : Nat
  chip : Nat
  bytes : Nat
  ctr : Nat
  dstCtr : Nat
  threshold : W64
  id : Nat := 0                 -- its class 3 entry, and the token of its message
  met : Bool := false           -- its counter has reached the threshold since it was armed
  again : Option Nat := none    -- the 64 KiB page whose access is being retried (10 R205)
  wait : Option FaultRef := none
  deriving DecidableEq, Repr

/-- A DX.QRY whose answer has not been written: it waits for a REPLAY (20 R407). -/
structure DxQuery where
  team : Nat
  id : Nat                      -- its class 4 entry
  handle : Nat
  desc : Nat
  tq : Nat
  out : Nat
  again : Option Nat := none    -- the 64 KiB page whose access is being retried (10 R205)
  wait : Option FaultRef := none
  deriving DecidableEq, Repr

/-- An entry of a ready queue (05 R107): which entry it takes (0 general, d the one reserved for depth d), and the fault
it waits on after an abort (R110). -/
structure ReadyEntry where
  task : Task
  slot : Nat := 0
  order : Nat := 0              -- when it was inserted
  wait : List FaultRef := []
  deriving DecidableEq, Repr

/-- A task held for a full queue (05 R107), or a deferred ENQ that found both entries taken (R110). -/
structure HeldTask where
  task : Task
  enq : Bool := false
  deriving DecidableEq, Repr

/-- A graph in flight (05 R104). -/
structure Graph where
  va : Nat
  job : Nat
  owned : List Nat              -- the ids of its counters
  deriving DecidableEq, Repr

/-- A fault record of the ring (10 R203). -/
structure FaultRec where
  seq : Nat
  va : Nat
  crew : Nat
  team : Nat
  core : Nat
  level : Nat
  kind : Nat
  flags : Nat
  cause : Nat
  source : Nat
  deriving DecidableEq, Repr

/-- A remote lane held at this chip by a fault (20 R411). -/
structure HeldLane where
  seq : Nat
  src : Nat
  token : Nat
  kind : Nat                    -- 0 PUTR, 1 GETR, 2 RRED.ADD, 3 RRED.MAX
  ty : Nat
  size : Nat
  lane : RemoteLane
  ctr : Option Nat
  cause : Nat
  behind : Bool := false        -- it waits behind a lower lane of its location, which seq is the record of
  pkt : Nat := 0                -- its packet, and what that adds to the counter once the last lane is done
  pktBytes : Nat := 0
  bytes : List Byte := []       -- a triggered send's data (kind 4), and which of its bytes lie in poisoned words
  bad : List Nat := []
  deriving DecidableEq, Repr

/-- An outgoing remote command of a team: a FAB entry that awaits lanes (20 R410). -/
structure FabCmd where
  token : Nat
  team : Nat
  id : Nat := 0                 -- its class 3 entry
  job : Option Nat := none      -- ENQ: the issuing task's job
  got : List (Nat × RemoteLane) := []   -- GETR: what has returned, by chip
  left : List (Nat × Nat × Nat) -- by chip: lanes not yet acknowledged, answered or dropped, and the address of the first
  traps : List TrapInfo := []   -- of lanes denied, raised when the last lane is answered
  kind : Nat                    -- 0 PUTR, 1 GETR, 2 RRED, 3 XSEND, 4 ENQ
  deriving DecidableEq, Repr

/-- What arrived early for an instance not yet open (07 R157). -/
structure Early where
  quire : Nat
  tag : Nat
  role : Nat
  first : Nat
  bytes : List Byte
  deriving DecidableEq, Repr

/-- A member's announcement that other members of this chip, by role, take when they open (07 R141). -/
structure PostedAnn where
  quire : Nat
  tag : Nat
  role : Nat
  ann : Announce
  left : List Nat
  deriving DecidableEq, Repr

/-- A context's own registers and unit state. -/
structure Ctx where
  bound0 : Bool := false
  bound1 : Bool := false
  started : Bool := false
  twoLink : Bool := false
  lnk : Nat := 0                -- the link of a context in one-link mode
  heldBells : List (Nat × Nat × W64) := []  -- endpoint, queue, value
  qtblBase : W64 := 0
  qtblCount : W64 := 0
  qdirBase : W64 := 0
  qdirCount : W64 := 0
  saveBase : W64 := 0
  pState : Nat := 0             -- HQ.PREEMPT state
  pError : Nat := 0
  pSel : Nat := 0               -- HQ.PREEMPT ctx last written through this function
  ctrBase : Nat := 0
  ctrCount : Nat := 0
  ctrErr : Bool := false
  ctrSel : Nat := 0
  jobBase : W64 := 0
  rubricCfg : W64 := 0
  elaBase : W64 := 0
  ptBase : W64 := 0
  wdog : W64 := 0
  taskHandler : W64 := 0
  errVec : W64 := 0
  msix : Cells W64 := []        -- the MSI-X table by 8-byte word (02 R36); a vector is masked until software unmasks it (log 105)
  msixPend : Cells Bool := []   -- its pending bits
  dxStarts : List (Nat × Nat × Nat × List Byte) := []   -- starts of members for runs not yet begun here, by handle: role, N, digest (06 R133)
  dxTurn : Nat := 63            -- the run that the sequencer served last (06 R138)
  atsDrops : Cells Nat := []    -- ATS invalidations of each 64 KiB of host addresses (02 R42)
  bar4 : Nat := 40              -- log2 of the bytes of BAR 4 (02 R36, log 106)
  peersPaused : List (Nat × Nat) := []   -- members, by quire and role, that have announced a pause (06 R135, 07 R142)
  frBase : W64 := 0
  frCtl : W64 := 0
  frHead : Nat := 0
  frTail : Nat := 0
  frSeq : Nat := 0
  frFull : Bool := false
  frPool : Bool := false
  frSince : Bool := true        -- no record written since FR.TAIL was last written
  frHeld : List FaultRec := []
  dirtyDies : List Nat := []
  tableaux : Cells (Option Tableau) := []
  counters : Cells W64 := []    -- C0 to C255
  armed : List ArmedSend := []
  ready : Cells (List ReadyEntry) := []
  held : List HeldTask := []    -- in the order in which they came
  parked : Cells (Option Task) := []
  graphs : List Graph := []
  jobLastQ : Cells (Option Nat) := []
  cancelled : List Nat := []    -- jobs cancelled by a kill (05 R105)
  remoteHeld : List HeldLane := []
  fab : List FabCmd := []
  dxPauses : List (Nat × Nat) := []   -- pauses announced by members of runs that have not begun here: handle, role (06 R135)
  queries : List DxQuery := []
  early : List Early := []
  posted : List PostedAnn := []
  elaQuires : Cells (Option Nat) := []   -- the quire that holds each early-landing area (07 R157)
  quireBars : List (Nat × Nat × List (Nat × Nat × Nat)) := []  -- quire, tag, (chip, crew, team) arrived
  toldEnded : List (Nat × Nat × Nat) := []   -- teams of this chip, by quire, crew and number, that the other members know to have ended (18 R364)
  deriving DecidableEq, Repr

/-- A unit of work that a queue has started (03 R67). -/
inductive Work where
  | launch (id : Nat) | job (j : Nat) | run (h : Nat) | copy (src dst n rptr : Nat)
  deriving DecidableEq, Repr

/-- A queue's thread state (03 R60 to R70); the descriptor's other fields live in memory (R61). -/
structure Queue where
  live : Bool := false          -- the queue exists (R60)
  st : Nat := 0                 -- status: 0 idle, 1 runnable, 2 mapped, 3 blocked, 4 faulted
  prio : Nat := 3               -- its priority as it became runnable
  order : Nat := 0              -- when it became runnable
  thread : Option Nat := none
  since : Nat := 0              -- when it was mapped
  loops : List (Nat × Nat) := []     -- (remaining count, position), top first
  calls : List Nat := []
  conds : List Bool := []
  fetch : Nat := 0              -- VA of the next packet at call depth 1 or more
  work : List Work := []
  scanIf : Bool := false        -- an IF was false, and its scan waits for the ring (R68)
  blocked : Bool := false       -- at a WAITMEM
  watch : Option Nat := none    -- the line its monitor is armed on; none for host memory
  lineChanged : Bool := false
  prol : Option Nat := none     -- number of a LAUNCH.IND's invocation, of the one in progress or of the next one
  used : Option Nat := none     -- the cycles that the invocation in progress has taken
  rptrKey : Option Nat := none  -- the place of its read index, since it faulted,
  rptrWritten : Bool := false   -- and whether software has written it since (R72)
  deriving DecidableEq, Repr

/-- Where a Ductus run stands: what its sequencer does next (06 R121, R125, R130). -/
inductive DxPt where
  | start       -- events at t0, or the first attempt
  | attempt     -- begin an attempt
  | stage       -- form the stage `stage`, or the combine after the last one
  | part1       -- kind 2, implicit: evaluate part 1 at W
  | eval        -- evaluate the stage vector, or the Newton iterate
  | evaluated   -- its crews have ended
  | stageDone   -- the QuireSync after the evaluation has passed
  | warm        -- the Newton iterate's start, and the Jacobian
  | newton      -- the next Newton iteration
  | solve       -- its solve
  | nu          -- its norm is known
  | norm        -- the step's error norm
  | decide      -- accept or reject
  | commit      -- the dense write and the commit of an accepted step
  | events      -- event values have been delivered
  | probe       -- form the next probe of an event
  | next        -- the outcome of the attempt
  deriving DecidableEq, Repr

/-- What a Ductus run awaits: nothing (it is over), the members' starts, its own combine work, crews, a QuireSync, or its
completion. -/
inductive DxTodo where
  | idle | begin | form | crews | sync | finish
  deriving DecidableEq, Repr

/-- A Ductus run (06 R114 to R138). F64 fields hold binary64 codes. -/
structure DxRun where
  used : Bool := false          -- the handle has been used in the context (R127)
  active : Bool := false
  todo : DxTodo := .idle
  pt : DxPt := .start
  ctx : Nat := 0
  handle : Nat := 0
  irec : List Byte := []        -- the integration record as read
  tab : Option Tableau := none
  role : Nat := 0
  chips : List Nat := []        -- the members' chips in role order; [] for a run on one chip
  peers : List (Nat × Nat × List Byte) := []   -- role, N, digest of members that have started
  syncVals : List (Nat × List Nat) := []       -- role and values of arrivals at QuireSyncs, oldest first
  got : List (List Nat) := []   -- the values the last QuireSync delivered, in role order
  t : Nat := 0
  h : Nat := 0
  stage : Nat := 0              -- R132: current stage, from 1; 0 between stages
  newton : Nat := 0
  part : Nat := 0
  evalLaunch : Option Nat := none
  evKind : Nat := 0             -- the evaluation: 0 RHS, 1 Jacobian, 2 events
  evFor : Nat := 0              -- event values at: 0 t0, 1 a step's end, 2 a probe, 3 a truncation
  retry : Bool := false         -- the step has had a rejected attempt (R123)
  fsalOk : Bool := false        -- K_S of the step before may be copied (R120)
  evald : List Nat := []        -- stages evaluated in this step (R120)
  jacDone : Bool := false       -- the Jacobian of this step has been evaluated (R126)
  failed : Bool := false        -- a Newton failure ended the attempt
  took : Bool := false          -- the attempt was accepted
  accepted : Nat := 0
  rejected : Nat := 0
  events : Nat := 0
  rhsEvals : Nat := 0
  evtIdx : Nat := 0xFF
  evtT : Nat := 0
  lastNorm : Nat := 0
  normPrev : Nat := 0x3FF0000000000000
  hNew : Nat := 0               -- the step the controller proposed last
  status : Nat := 0
  trap : Nat := 0
  cflags : Nat := 0
  denseCur : Option Nat := none -- the current copy, its start, its step and its end
  denseTa : Nat := 0
  denseH : Nat := 0
  denseTb : Nat := 0
  evA : List Nat := []          -- event values at the step's start
  evB : List Nat := []          -- and at its end
  evIdx : List Nat := []        -- triggered events still to be located, the first in work
  evLoc : List (Nat × Nat) := []     -- located events and their times
  brA : Nat := 0                -- the bracket: times, values, the probe's time, side and count
  brB : Nat := 0
  brGa : Nat := 0
  brGb : Nat := 0
  brC : Nat := 0
  side : Int := 0
  probes : Nat := 0
  deriving DecidableEq, Repr

/-- A collective instance's member on this chip (07 R139 to R154). -/
structure Coll where
  active : Bool := false
  kind : Nat := 0               -- 1 CAV, 2 REPART
  ctx : Nat := 0
  quire : Nat := 0
  tag : Nat := 0
  role : Nat := 0
  chips : List (Option Nat) := []    -- the chip of each role; none where the role is not bound
  desc : List Byte := []
  team : Nat := 0               -- the issuing team, its class 3 entry, and what a fault record says of it
  id : Nat := 0
  crewNo : Nat := 0
  teamNo : Nat := 0
  phase : Nat := 0              -- R145: 1 waiting, 2 sweeping, 3 and 4 histograms, 5 moving, 7 completing
  second : Bool := false        -- a second open of an instance (R140)
  anns : List (Nat × Announce) := []
  data : List (Nat × List Byte) := []   -- contributions as received: role, bytes so far
  sent : Nat := 0               -- elements or records of its own that it has read and sent
  chunks : Nat := 0
  owned : List Byte := []       -- REPART: the records it will receive
  status : Nat := 0
  flags : Nat := 0              -- bits [10:8] of the status
  info : Nat := 0
  undef : Bool := false         -- its result buffers become undefined at completion (R141)
  again : Option Nat := none    -- the 64 KiB page whose access is being retried (10 R205)
  wait : Option FaultRef := none
  deriving DecidableEq, Repr

/-- A compute die's power state (01 R15, R18 to R20). -/
structure Die where
  mhz : Nat := 1000
  thermMhz : Nat := 1000        -- what the thermal thresholds allow
  millivolt : Nat := 0
  droop : Bool := false
  hot100 : Bool := false
  hot110 : Bool := false
  powered : Bool := true
  share : Nat := 0              -- L2 share in 0.5 GiB steps less one (R12)
  ftBase : W64 := 0
  ftProd : Nat := 0
  ftCons : Nat := 0
  deriving DecidableEq, Repr

/-- A row awaiting or under test (01 R22, R23). -/
structure RowTest where
  place : EccPlace
  bit : Nat
  merged : Nat := 0
  deriving DecidableEq, Repr

/-- A firmware slot (03 R73 to R76). -/
structure FwSlot where
  len : Nat := 0
  bytes : Cells Byte := []
  deriving DecidableEq, Repr

/-- A flit held for retry (02 R48). -/
structure Flit where
  header : W64
  payload : List Byte
  deriving DecidableEq, Repr

/-- A Ligature port (02 R46 to R50). -/
structure Port where
  up : Bool := false
  expSeq : Nat := 0
  nextSeq : Nat := 0
  retry : List Flit := []
  replays : Nat := 0
  discarding : Bool := false
  credits : Cells Nat := []     -- key: VC; credits held toward the peer
  crcErrors : Nat := 0
  rx : List Flit := []          -- in its receive buffers, for this chip
  received : List Flit := []    -- delivered to this chip, in order
  fwd : List Flit := []         -- in its receive buffers, for another chip, and not yet sent on
  owed : Cells Nat := []        -- key: VC; credits that it has not yet returned to the peer,
  given : Cells Nat := []       -- and those that the peer holds toward this chip: advertised at training or returned since, and not used
  naks : List Nat := []         -- the numbers of NAKs that wait for a place in the retry buffer
  training : Bool := false
  peer : Option Nat := none     -- the chip at the other end; none for a switch (R52)
  deriving DecidableEq, Repr

/-- What the chip sends over Ligature (02 R49, 20 R408 to R412, 07). -/
inductive FabMsg where
  | putr (chip ctx token size : Nat) (lanes : List RemoteLane) (ctr : Option Nat)
  | getr (chip ctx token size : Nat) (lanes : List RemoteLane)
  | rred (chip ctx token ty : Nat) (isMax : Bool) (lanes : List RemoteLane) (ctr : Option Nat)
  | getrReply (chip ctx token : Nat) (lanes : List RemoteLane)
  | writeAck (chip ctx token lanes : Nat)
  | laneDenied (chip ctx token cause : Nat) (lane : RemoteLane)
  | send (chip ctx token dstva : Nat) (bytes : List Byte) (poison : List Nat) (ctr : Option Nat)
  | enq (chip ctx token queue depth : Nat) (record : List Byte)
  | enqAck (chip ctx token code : Nat)
  | announce (chip ctx quire tag role : Nat) (ann : Announce)
  | chunk (chip ctx quire tag role first : Nat) (records : Bool) (bytes : List Byte)
  | hist (chip ctx quire tag role pass : Nat) (buckets : List Nat)
  | bar (chip ctx quire tag crew team : Nat)
  | dxStart (chip ctx handle role n : Nat) (digest : List Byte)
  | quireSync (chip ctx handle role : Nat) (values : List W64)
  | paused (chip ctx quire : Nat)
  | management (chip : Nat)
  deriving DecidableEq, Repr

/-- The algorithms of attestation (02 R56). -/
inductive Algorithm where
  | sha384 | slhDsaSha2_128s
  deriving DecidableEq, Repr

/-- A response of the SPDM responder (02 R56). -/
inductive Spdm where
  | version (major minor : Nat)
  | capabilities (certificates challenge signedMeasurements : Bool)
  | algorithms (hash sign : Algorithm)
  | digests (l : List (List Byte))
  | certificate (chain : List Byte)
  | challenge (signature : List Byte)
  | measurements (blocks : List (List Nat)) (signature : List Byte)
  deriving DecidableEq, Repr

/-- What the chip answers on a management path (02 R54 to R56, 01 R30). -/
inductive Answer where
  | ok | frozen | notFrozen | notRead | busy | unsupported | spdmBusy
  | chain (n : Nat) (contents : List Byte)
  | entries (l : List (List Byte))
  | lives (hours : List Nat)
  | spdm (response : Spdm)
  | alert
  deriving DecidableEq, Repr

/-- A line that a cache holds, by its address over 64, and the retention hint recorded in it (09 R181). -/
structure Tag where
  line : Nat
  hint : Nat := 0
  deriving DecidableEq, Repr

/-- The caches (09 R179 to R181): the lines each holds, the least recently used first, and the words that a line of an L1 or of a
margin cache holds in an older form than the one at home; every other word of a line is held as it stands. -/
structure Caches where
  l1 : Cells (List Tag) := []       -- by core
  margin : Cells (List Tag) := []   -- by die; lines homed on other dies
  l2 : Cells (List Tag) := []       -- by die; lines of its LPDDR-6
  l1Old : List StaleWord := []
  marginOld : List StaleWord := []  -- `core` is the die
  out : List Nat := []              -- lines that have left an L2 and are on their way to their home
  code : Cells (List Tag) := []     -- by core: the instruction cache (00 R1)
  deriving DecidableEq, Repr

/-- A write to host memory on its way (02 R38 to R40, R44): its context, the link that carries it, and its bytes. -/
structure Posted where
  ctx : Nat
  link : Nat
  key : Nat
  bytes : List Byte
  hub : Bool := false           -- written by the hub die
  deriving DecidableEq, Repr

/-- Everything the machine holds. -/
structure State where
  cur : Nat := 0
  turn : Option Instr := none
  fresh : Nat := 0              -- the model's own: what free values are applied to
  fairIn : Nat := 0             -- the model's own: free choices of the schedule before a core has its turn in rotation, and that core
  fairCore : Nat := 0
  teams : Cells Team := []
  crews : Cells Crew := []
  launches : Cells Launch := []
  nextTeam : Nat := 0
  nextCrew : Nat := 0
  nextLaunch : Nat := 0
  order : Nat := 0              -- a count of events, for every "oldest first" of the spec
  cores : Cells Core := []
  ctxs : Cells Ctx := []
  queues : Cells Queue := []
  runs : Cells DxRun := []
  colls : Cells Coll := []
  mem : Cells Byte := []        -- at home; key: kind * 2^54 + die * 2^52 + address
  nearSeed : Cells (Option Nat) := []   -- names the undefined contents of a die's near store since its share last changed (01 R13)
  l2 : Cells (Option Byte) := []     -- bytes that the device has written and home does not hold yet: in a dirty L2 line, in a margin cache, or on a link
  through : List (Nat × Nat) := []   -- lines of near memory written by a core and not yet written through to their home: core, line
  posted : List Posted := []    -- writes on their way to host memory, oldest first
  poison : List Nat := []       -- keys of poisoned 8-byte words
  stale : List StaleWord := []  -- writes that have not reached every core, one entry for a core and a word
  caches : Caches := {}
  deps : Cells (BitVec 16) := []     -- dependency counters
  dies : Cells Die := []
  fused : List Nat := []        -- cores fused off at manufacture (04 R85)
  threads : Cells (Option Nat) := []  -- Scriptor threads: ctx * 512 + queue
  threadCycle : Cells Nat := []       -- their cycle counters (00 R2, 03 R57)
  threadReg : Cells W64 := []         -- their registers, key: thread * 32 + register (03 R70)
  threadPc : Cells W64 := []          -- and their program counters
  scriptorMem : Cells Byte := []      -- Scriptor's local memory, 512 KiB (00 R1): the stacks of the prologues
  scriptorPoison : List Nat := []     -- and its poisoned 8-byte words
  elogBase : W64 := 0
  elogSize : Nat := 64
  elogHead : Nat := 0
  elogCtl : W64 := 0
  elogSeq : Nat := 0
  tests : List RowTest := []
  spares : Nat := 16
  linkEcc : Cells Nat := []     -- LPDDR-6 link ECC errors corrected or retried, by channel (01 R21)
  lifeHours : Cells (Option Nat) := []   -- die 0 to 4; none reads 0xFFFF_FFFF
  lifeAlerted : List Nat := []
  lifeStarted : Bool := false
  fwSlots : Cells FwSlot := []
  fwActive : Nat := 0
  fwTrial : Bool := false
  fwOld : Nat := 0
  fwResult : Nat := 0
  fwWindow : W64 := 0x2CB417800
  fwFuse : Nat := 0
  fwSwitch : List Nat := []     -- Scriptor threads still on the image before the last change
  recovery : Bool := false
  rcvSlot : Nat := 0
  rcvOffset : Nat := 0
  rcvWindow : Cells Byte := []
  rcvBusy : Option Nat := none
  rcvResult : Nat := 0
  brakePin : Bool := false      -- PWRBRK_N asserted
  pwrbrk : Bool := false        -- the limits that it imposes are in force (01 R20)
  freezeN : Bool := false       -- FREEZE_N asserted
  freezing : Nat := 0           -- 0 running, 1 self-refresh begun, 2 frozen
  scanned : List Nat := []
  tripped : Bool := false
  alert : Bool := false
  links : Cells Bool := []      -- key: PCI Express link; default up
  chipId : Nat := 0
  routes : Cells (BitVec 16) := []   -- default 0xFFFF
  meshLive : Cells (Option (List Nat)) := []   -- by chip of a direct mesh: the chips known to have a live port to it; none where nothing is known (R53)
  flows : Cells (Option Nat) := []   -- the port a (destination, VC) flow uses; key: chip * 8 + VC (02 R53)
  ports : Cells Port := []
  own : List Flit := []         -- flits of this chip's own messages, not yet sent
  wire : List (Nat × Flit) := []     -- the flits sent, with their ports, oldest first
  fabric : List FabMsg := []    -- the messages sent
  linkCycle : Cells Nat := []   -- the cycle counters of the links: 0 and 1 PCI Express, then the ports (00 R2)
  irqs : List (Nat × Nat) := [] -- (context, vector) raised, newest first
  answers : List (Transport × Answer) := []
  hostReads : List (List Byte) := []
  deriving DecidableEq, Repr

/-- The machine right after reset: every field at its default above, memory lists nothing, and no team runs. The firmware slots hold nothing, so
the root of trust has found no image that passes (01 R31, R32; log 124). -/
def State.reset : State := { recovery := true }

end Sys2Proof.Machine
end

