-- ==== Sys2Proof/Machine/Ops.lean ====
section
/-! DEFINITION. The named operations over the machine's tables and registers, and taking a trap and returning from one
(10 R210, R213). -/

namespace Sys2Proof.Machine

/-! ### Bits -/

/-- Bits [lo + w - 1 : lo] of x. -/
def bitsN (x lo w : Nat) : Nat := x / 2 ^ lo % 2 ^ w
/-- Bit i of x. -/
def bitN (x i : Nat) : Bool := x.testBit i
/-- x, of w bits, as two's complement. -/
def sextN (w x : Nat) : Int := if x % 2 ^ w < 2 ^ (w - 1) then ((x % 2 ^ w : Nat) : Int) else ((x % 2 ^ w : Nat) : Int) - 2 ^ w
/-- An integer modulo 2^w. -/
def wrapN (w : Nat) (i : Int) : Nat := (i % 2 ^ w).toNat
def w64 (n : Nat) : W64 := BitVec.ofNat 64 n
def w32 (n : Nat) : W32 := BitVec.ofNat 32 n
/-- Bytes of a little-endian integer (00 R4). -/
def leBytes : Nat → Nat → List Byte
  | 0, _ => []
  | n + 1, v => BitVec.ofNat 8 v :: leBytes n (v / 256)
/-- The little-endian integer of bytes. -/
def ofLE : List Byte → Nat
  | [] => 0
  | b :: r => b.toNat + 256 * ofLE r
/-- The n bytes at offset o of a record, as an integer. -/
def field (r : List Byte) (o n : Nat) : Nat := ofLE ((r.drop o).take n)
/-- A record with the n bytes at offset o replaced. -/
def setField (r : List Byte) (o n v : Nat) : List Byte := r.take o ++ leBytes n v ++ r.drop (o + n)

/-! ### The tables -/

def State.team (s : State) (i : Nat) : Team := cget {} s.teams i
def State.setTeam (s : State) (i : Nat) (t : Team) : State := { s with teams := cset {} s.teams i t }
def State.updTeam (s : State) (i : Nat) (f : Team → Team) : State := s.setTeam i (f (s.team i))
def State.crew (s : State) (i : Nat) : Crew := cget {} s.crews i
def State.setCrew (s : State) (i : Nat) (c : Crew) : State := { s with crews := cset {} s.crews i c }
def State.updCrew (s : State) (i : Nat) (f : Crew → Crew) : State := s.setCrew i (f (s.crew i))
def State.launch (s : State) (i : Nat) : Launch := cget {} s.launches i
def State.setLaunch (s : State) (i : Nat) (l : Launch) : State := { s with launches := cset {} s.launches i l }
def State.updLaunch (s : State) (i : Nat) (f : Launch → Launch) : State := s.setLaunch i (f (s.launch i))
def State.core (s : State) (i : Nat) : Core := cget {} s.cores i
def State.setCore (s : State) (i : Nat) (c : Core) : State := { s with cores := cset {} s.cores i c }
def State.updCore (s : State) (i : Nat) (f : Core → Core) : State := s.setCore i (f (s.core i))
def State.ctx (s : State) (i : Nat) : Ctx := cget {} s.ctxs i
def State.setCtx (s : State) (i : Nat) (c : Ctx) : State := { s with ctxs := cset {} s.ctxs i c }
def State.updCtx (s : State) (i : Nat) (f : Ctx → Ctx) : State := s.setCtx i (f (s.ctx i))
def State.queue (s : State) (i : Nat) : Queue := cget {} s.queues i
def State.setQueue (s : State) (i : Nat) (q : Queue) : State := { s with queues := cset {} s.queues i q }
def State.updQueue (s : State) (i : Nat) (f : Queue → Queue) : State := s.setQueue i (f (s.queue i))
def State.run (s : State) (i : Nat) : DxRun := cget {} s.runs i
def State.setRun (s : State) (i : Nat) (r : DxRun) : State := { s with runs := cset {} s.runs i r }
def State.coll (s : State) (i : Nat) : Coll := cget {} s.colls i
def State.setColl (s : State) (i : Nat) (c : Coll) : State := { s with colls := cset {} s.colls i c }
def State.die (s : State) (i : Nat) : Die := cget {} s.dies i
def State.setDie (s : State) (i : Nat) (d : Die) : State := { s with dies := cset {} s.dies i d }
def State.port (s : State) (i : Nat) : Port := cget {} s.ports i
def State.setPort (s : State) (i : Nat) (p : Port) : State := { s with ports := cset {} s.ports i p }

/-- A fresh number for a free value, and the count advanced. -/
def State.draw (s : State) : Nat × State := (s.fresh, { s with fresh := s.fresh + 1 })
/-- The next number of the order in which things happen. -/
def State.tick (s : State) : Nat × State := (s.order, { s with order := s.order + 1 })

/-- Change every entry of a list at index i. -/
def listSet {α : Type} : List α → Nat → α → List α
  | [], _, _ => []
  | _ :: r, 0, v => v :: r
  | a :: r, n + 1, v => a :: listSet r n v

/-- The numbers a, …, a + n - 1. -/
def span (a n : Nat) : List Nat := (List.range n).map (a + ·)

/-! ### The mode register (14 R275) -/

def mrGuard (m : W64) : Nat := bitsN m.toNat 0 4
def mrGinv (m : W64) : Bool := bitN m.toNat 4
def mrType (m : W64) : Nat := bitsN m.toNat 5 5
/-- b8p, b8s and b8x as `fmtB8` takes them. -/
def mrB8 (m : W64) : Nat := bitsN m.toNat 10 5
def mrQ (m : W64) : Nat := bitsN m.toNat 15 5
def mrRnd (m : W64) : Nat := bitsN m.toNat 20 3
def mrSat (m : W64) : Bool := bitN m.toNat 23
def mrFziN (m : W64) : Bool := bitN m.toNat 24
def mrFzoN (m : W64) : Bool := bitN m.toNat 25
def mrFziW (m : W64) : Bool := bitN m.toNat 26
def mrFzoW (m : W64) : Bool := bitN m.toNat 27
def mrScope (m : W64) : Nat := bitsN m.toNat 28 3
def mrSrcType (m : W64) : Nat := bitsN m.toNat 32 5
def mrSrcB8 (m : W64) : Nat := bitsN m.toNat 37 5
def mrSrcQ (m : W64) : Nat := bitsN m.toNat 42 5
/-- MR's value at a team's start and at trap entry (14 R275, 10 R210). -/
def mrReset : W64 := 0x40000140

/-! ### Addresses of code (16 R298) -/

/-- The first slot after the instruction of n words at a: the pace word of the next octet is skipped. -/
def nextPc (a : W64) (n : Nat) : W64 :=
  let b := a + w64 (4 * n)
  if b.toNat % 32 = 0 then b + 4 else b

/-- The slot of an address in its octet. -/
def slotOf (a : W64) : Nat := a.toNat / 4 % 8

/-! ### Registers of a team -/

/-- A write of one lane, or of an S register, performed (08 R165). P0 and the poison of the register are as 14 R273 and
01 R24 say. -/
def Team.put (t : Team) (r : Reg) (lane : Nat) (v : W64) : Team :=
  match r with
  | .v n => { t with v := cset 0 t.v (n * 1024 + lane) (v.setWidth 32),
                     vPoison := t.vPoison.filter (· ≠ n * 1024 + lane) }
  | .s n => { t with s := cset 0 t.s n v, sPoison := t.sPoison.filter (· ≠ n) }
  | .x n => { t with x := cset 0 t.x (n * 1024 + lane) (v.setWidth 16) }
  | .p n =>
    if n = 0 then t
    else
      let m := cget 0 t.p n
      let b : LaneMask := 1#1024 <<< lane
      { t with p := cset 0 t.p n (if v.getLsbD 0 then m ||| b else m &&& ~~~b) }

/-- What a register holds, writes not yet performed left out. P0 reads all-true. -/
def Team.held (t : Team) (r : Reg) (lane : Nat) : W64 :=
  match r with
  | .v n => (cget 0 t.v (n * 1024 + lane)).setWidth 64
  | .s n => cget 0 t.s n
  | .x n => (cget 0 t.x (n * 1024 + lane)).setWidth 64
  | .p n => if n = 0 then 1 else if (cget 0 t.p n).getLsbD lane then 1 else 0

/-- The last of the pending writes of a register's lane that are due by cycle c, in order of performing. -/
def pendLatest (r : Reg) (lane c : Nat) : List PendWrite → Option PendWrite → Option PendWrite
  | [], best => best
  | w :: ws, best =>
    let take := decide (w.reg = r ∧ w.lane = lane ∧ w.due ≤ c) &&
      (match best with
        | none => true
        | some b => decide (b.due ≤ w.due))
    pendLatest r lane c ws (if take then some w else best)

/-- What a pass in cycle c reads (08 R165): writes due by then are seen, later ones are not. -/
def Team.read (t : Team) (c : Nat) (r : Reg) (lane : Nat) : W64 :=
  match pendLatest r lane c t.pend none with
  | some w => if r = .p 0 then 1 else w.val
  | none => t.held r lane

/-- The pending write that makes a pass in cycle c too early for register r (08 R168). -/
def Team.pending (t : Team) (c : Nat) (r : Reg) (lane : Nat) : Option PendWrite :=
  t.pend.find? (fun w => decide (w.reg = r ∧ w.lane = lane ∧ c < w.due) && !w.il)
/-- The cycle until which an interlocked write keeps a pass over register r waiting (08 R167). -/
def Team.ilDue (t : Team) (r : Reg) (lane : Nat) : Nat :=
  t.pend.foldl (fun m w => if w.il && decide (w.reg = r ∧ w.lane = lane) then max m w.due else m) 0

/-- Insert a write into a list ordered by the cycle of performing, before those of the same cycle. -/
def pendInsert (w : PendWrite) : List PendWrite → List PendWrite
  | [] => [w]
  | a :: r => if w.due ≤ a.due then w :: a :: r else a :: pendInsert w r

/-- Writes in the order in which they are performed: by cycle, then by age. -/
def pendSort : List PendWrite → List PendWrite
  | [] => []
  | w :: r => pendInsert w (pendSort r)

/-- Perform the pending writes due by cycle c. -/
def Team.commit (t : Team) (c : Nat) : Team :=
  let due := pendSort (t.pend.filter (·.due ≤ c))
  due.foldl (fun t w => t.put w.reg w.lane w.val) { t with pend := t.pend.filter (c < ·.due) }

/-- Perform every pending write. -/
def Team.commitAll (t : Team) : Team :=
  (pendSort t.pend).foldl (fun t w => t.put w.reg w.lane w.val) { t with pend := [] }

/-- The cycle by which every pending write is performed. -/
def Team.lastDue (t : Team) : Nat := t.pend.foldl (fun m w => max m w.due) 0

/-- Lanes of a team (08 R161). -/
def Team.lanes (t : Team) : Nat := 2 ^ t.lanesLog
/-- Every lane of a team of 2^k lanes. -/
def fullMask (k : Nat) : LaneMask := BitVec.ofNat 1024 (2 ^ 2 ^ k - 1)
def Team.active (t : Team) (l : Nat) : Bool := t.mask.getLsbD l
/-- The guard of lane l, as a pass in cycle c reads it. -/
def Team.guard (t : Team) (c : Nat) (l : Nat) : Bool := (t.read c (.p (mrGuard t.mr)) l == 1) != mrGinv t.mr

/-! ### What a crew's launch says -/

def State.teamCrew (s : State) (i : Nat) : Crew := s.crew (s.team i).crew
def State.crewRec (s : State) (c : Nat) : LRec := (s.launch (s.crew c).launch).lrec
def LRec.chk (r : LRec) : Bool := bitN r.flags 1
def LRec.folio (r : LRec) : Bool := bitN r.flags 2
def LRec.persist (r : LRec) : Bool := bitN r.flags 3
def LRec.tiles (r : LRec) : Bool := bitN r.flags 4
def LRec.flush (r : LRec) : Bool := bitN r.flags 5
def LRec.idem (r : LRec) : Bool := bitN r.flags 0
def LRec.crews (r : LRec) : Nat := r.gx * r.gy * r.gz

/-- The task a crew is, if it is one (05 R97). -/
def State.crewTask (s : State) (c : Nat) : Option Task :=
  match (s.launch (s.crew c).launch).origin with
  | .task t => some t
  | _ => none

/-- The task_id a Rubric trap reports (05 R101). -/
def State.crewTaskId (s : State) (c : Nat) : Nat :=
  match s.crewTask c with
  | some t => t.taskId
  | none => 0xFFFFFFFF

/-- A crew that holds a place on its core: resident, and neither saved nor swapped out. -/
def Crew.resident (c : Crew) : Bool := c.status == .resident

/-- An IDEM crew that still drafts (05 R110, R111). -/
def Crew.drafting (c : Crew) : Bool := c.idem && !c.drafted

/-- Teams that the governor blocks have left a core: GOV.STALL counts the cycles until now, if none is left (08 R177). -/
def govLeave (s : State) (core : Nat) : State :=
  let c := s.core core
  match c.govFrom with
  | some f =>
    if s.teams.any (fun e => e.2.status == .wait 4 && (s.crew e.2.crew).core == core && (s.crew e.2.crew).resident) then s
    else s.setCore core { c with govStall := (c.govStall + (min c.cycle (64 * (c.govWindow + 1)) - f)) % 2 ^ 64, govFrom := none }
  | none => s

/-! ### Killing a crew (04 R81, 10 R210) -/

/-- WP at which the next transfer of a channel begins (19 R386). -/
def Chan.next (c : Chan) : Nat := c.q.foldl (fun w x => ((if x.reset && !x.started then 0 else w) + (x.bytes - x.done)) % 2 ^ 64) c.wp
/-- A channel without a crew's transfers. -/
def Chan.without (c : Chan) (ci : Nat) : Chan :=
  if c.q.any (·.crew == ci) then
    let k : Chan := { c with q := c.q.filter (·.crew != ci) }
    { k with sum := k.next }
  else c
/-- A crew's copy and gather commands leave the engines of its core (log 133). -/
def dropCommands (s : State) (ci : Nat) : State :=
  s.updCore (s.crew ci).core (fun k => { k with
    gth := k.gth.filter (·.crew != ci),
    chans := (k.chans.map (fun e => (e.1, e.2.without ci))).filter (fun e => e.2 != ({} : Chan)) })

/-- A crew killed with a trap code: its teams stop, its drafts and deferred operations are dropped, its queued matrix, copy and gather
commands go, and the first crew killed is recorded for the launch. -/
def killCrew (s : State) (ci code : Nat) : State :=
  let c := s.crew ci
  if c.status = .ended ∨ c.status = .none then s
  else
    let s := c.teams.foldl (fun s t => s.updTeam t (fun tm =>
      if tm.status = .ended then tm else { tm with status := .killed, engTraps := [] })) s
    let s := govLeave ((dropCommands s ci).setCrew ci { c with status := .ended, killed := some code, drafts := [], draftUsed := 0, mmq := [] }) c.core
    s.updLaunch c.launch (fun l =>
      let l := { l with liveCrews := l.liveCrews - 1 }
      if l.status = 0 then { l with status := 4, info := code % 256 + c.ix % 2 ^ 24 * 256 } else l)

/-! ### Traps (10 R210 to R213) -/

/-- A command completes; commands retire in issue order (11 R228). -/
def opRetire (s : State) (ti c id : Nat) : State :=
  s.updTeam ti (fun t => { t with
    opc := cset [] t.opc c (((cget [] t.opc c).map (fun e => if e.1 = id then (e.1, true) else e)).dropWhile (·.2)) })

/-- The object phase of a team's LDT or ACC.LD ends without a command (10 R206). -/
def dropReading (s : State) (ti : Nat) : State :=
  let ci := (s.team ti).crew
  match (s.crew ci).mmq.find? (fun m => m.team == ti && m.op == .reading) with
  | some m => opRetire (s.updCrew ci (fun c => { c with mmq := c.mmq.filter (· != m) })) ti 2 m.id
  | none => s

/-- Trap entry: pending fixed-latency writes are performed; inside a handler, or with none, the crew is killed; a handler
at a pace word kills it too. `pc` is the address the trap names. -/
def takeTrap (s : State) (ti : Nat) (pc : W64) (x : TrapInfo) : State :=
  let s := dropReading s ti
  let t := s.team ti
  let t := { t.commitAll with nextIssue := max t.nextIssue t.lastDue }
  let s' := s.setTeam ti t
  if t.inHandler ∨ t.handler = 0 then killCrew s' t.crew x.code
  else if t.handler.toNat % 32 = 0 then killCrew s' t.crew 0x05
  else s.setTeam ti { t with
    trapCode := w64 x.code, trapPc := pc, trapInfo0 := x.info0, trapInfo1 := x.info1, trapLane := x.lane,
    trapNext := if t.octet.isEmpty then none else some (nextPc pc (if (t.octet.getD (slotOf pc) 0).toNat / 2 ^ 24 = 0x3E ∧ slotOf pc ≠ 0 then 2 else 1)),
    savedMr := t.mr, savedMask := t.mask, inHandler := true, mr := mrReset, pc := t.handler, enter := true,
    status := .run, replayed := false, faultPages := [], doneLanes := 0, doneReads := [], tries := 0, passes := [], octetLate := false }

/-- A trap code that resumes at the faulting instruction (10 R212). -/
def resumesAtFault (code : Nat) : Bool := code == 0x04 || code == 0x06 || code == 0x19 || code == 0x1A

/-- Return from a handler (10 R213); `words` is how many words the instruction at TRAP.PC takes. -/
def trapReturn (t : Team) (words : Nat) : Team :=
  { t with
    mr := t.savedMr, mask := t.savedMask, inHandler := false, enter := true,
    pc := if resumesAtFault t.trapCode.toNat then t.trapPc else t.trapNext.getD (nextPc t.trapPc words) }

end Sys2Proof.Machine
end

