-- ==== Sys2Proof/Machine/Memory.lean ====
section
/-! DEFINITION. Memory: its bytes at home and in a dirty L2 (09 R179, R180, 04 R96), poison (01 R24), translation
(10 R194 to R201, R207, R208), fault records (R202, R203), scratch and its windows (09 R178, 04 R86, R88), the one
place where an access by virtual address is made, and what each core sees of the writes of others (11 R215 to R225). -/

namespace Sys2Proof.Machine

/-! ### Bytes at a physical place -/

/-- The key of a physical byte. Kind 0 LPDDR-6, 1 near, 2 host. -/
def physKey (kind die addr : Nat) : Nat := kind * 2 ^ 54 + die % 4 * 2 ^ 52 + addr % 2 ^ 52
def keyKind (k : Nat) : Nat := k / 2 ^ 54
def keyDie (k : Nat) : Nat := k / 2 ^ 52 % 4

/-- A byte that exists (00 R1, 01 R12): 256 GiB of LPDDR-6 for a die, and of its near store what the margin cache and the L2 leave. -/
def State.present (s : State) (k : Nat) : Bool :=
  if keyKind k = 0 then decide (k % 2 ^ 52 < 2 ^ 38)
  else if keyKind k = 1 then decide (k % 2 ^ 52 < 3 * 2 ^ 30 - 2 ^ 28 - ((s.die (keyDie k)).share + 1) * 2 ^ 29)
  else true

/-- What a byte that memory does not list reads as: 0, or undefined contents in a near store whose size has changed (01 R13) and
where no memory is. -/
def State.blank (s : State) (k : Nat) : Byte :=
  if s.present k then
    (if keyKind k = 1 then
      match cget none s.nearSeed (keyDie k) with
      | some c => Config.undefByte c k
      | none => 0
    else 0)
  else Config.undefByte 0 k
/-- A byte as memory at home holds it: what the host, the walker and the fault ring see. -/
def State.homeByte (s : State) (k : Nat) : Byte := cget (s.blank k) s.mem k
/-- A byte as the device sees it: what it has written and home does not hold yet first. -/
def State.devByte (s : State) (k : Nat) : Byte := (cget none s.l2 k).getD (s.homeByte k)

/-- A byte of memory itself; where there is none, the write goes nowhere. -/
def State.putMem (s : State) (k : Nat) (b : Byte) : State :=
  if s.present k then { s with mem := cset (s.blank k) s.mem k b } else s
/-- A byte written at home; the device's newer form of it is replaced (11 R232). -/
def State.putHome (s : State) (k : Nat) (b : Byte) : State :=
  let s := s.putMem k b
  { s with l2 := cset none s.l2 k none }
/-- A byte written by the device that its home does not hold yet: LPDDR-6 stays in the home die's L2 (09 R180). -/
def State.putOver (s : State) (k : Nat) (b : Byte) : State :=
  if s.present k then { s with l2 := cset none s.l2 k (some b) } else s

def State.homeBytes (s : State) (k : Nat) : Nat → List Byte
  | 0 => []
  | n + 1 => s.homeByte k :: s.homeBytes (k + 1) n
def State.devBytes (s : State) (k : Nat) : Nat → List Byte
  | 0 => []
  | n + 1 => s.devByte k :: s.devBytes (k + 1) n
def State.putHomeBytes (s : State) (k : Nat) : List Byte → State
  | [] => s
  | b :: r => (s.putHome k b).putHomeBytes (k + 1) r
def State.putOverBytes (s : State) (k : Nat) : List Byte → State
  | [] => s
  | b :: r => (s.putOver k b).putOverBytes (k + 1) r

/-- What the device has written of the given bytes is written to their home. -/
def State.writeBack (s : State) (out : Nat → Bool) : State :=
  (s.l2.filter (fun e => out e.1)).foldl (fun s e => match e.2 with
    | some b => s.putHome e.1 b
    | none => s) s

/-! ### Writes to host memory (02 R38 to R40, R44) -/

/-- A PCI Express link is up. -/
def State.link (s : State) (k : Nat) : Bool := cget true s.links k
/-- The link that carries a context's access to a host address: by 4 KiB granules in two-link mode (02 R39); a link that is down leaves
it to the other (R44). -/
def hostLink (s : State) (ctx addr : Nat) : Nat :=
  let c := s.ctx ctx
  let l := if c.twoLink then addr / 4096 % 2 else c.lnk
  if s.link l then l else 1 - l
/-- The host can be reached. -/
def hostUp (s : State) : Bool := s.link 0 || s.link 1

/-- Bytes on their way to the host, cut at the granules. -/
def postedOf (s : State) (hub : Bool) (ctx k : Nat) (bytes : List Byte) : List Posted :=
  (List.range ((k % 4096 + bytes.length + 4095) / 4096)).map (fun i =>
    let lo := if i = 0 then 0 else 4096 * i - k % 4096
    { ctx := ctx, link := hostLink s ctx (k + lo), hub := hub, key := k + lo, bytes := (bytes.drop lo).take (4096 * (i + 1) - k % 4096 - lo) })

/-- Core w of the device, or its hub die as core 512, writes host memory: the bytes are on their way. With both links down they are lost (R44). -/
def State.post (s : State) (w ctx k : Nat) (bytes : List Byte) : State :=
  if hostUp s then
    let s := s.putOverBytes k bytes
    { s with posted := s.posted ++ postedOf s (512 ≤ w) ctx k bytes }
  else s

/-- A posted write covers a byte. -/
def Posted.covers (p : Posted) (k : Nat) : Bool := decide (p.key ≤ k ∧ k < p.key + p.bytes.length)

/-- The device's newer form of host memory is only what is still on its way. -/
def postedLeft (s : State) (ps : List Posted) : State :=
  { s with posted := ps, l2 := s.l2.filter (fun e => keyKind e.1 != 2 || ps.any (·.covers e.1)) }

/-- Bytes arrive in memory. -/
def State.putMemBytes (s : State) (k : Nat) : List Byte → State
  | [] => s
  | b :: r => (s.putMem k b).putMemBytes (k + 1) r

/-- Every write that a link carries arrives, in order. -/
def landLink (s : State) (l : Nat) : State :=
  if s.posted.all (·.link != l) then s
  else postedLeft ((s.posted.filter (·.link == l)).foldl (fun s p => s.putMemBytes p.key p.bytes) s) (s.posted.filter (·.link != l))

/-- Whether the i-th of the writes on their way may arrive next: no earlier one is of a byte of it, and those of the hub die arrive in the order of
their link (02 R39). Stores of cores are not ordered for the host by their own order (11 R225, 12 R239). -/
def mayLand (ps : List Posted) (i : Nat) : Bool :=
  match ps[i]? with
  | some p => (ps.take i).all (fun q =>
      !decide (q.key < p.key + p.bytes.length ∧ p.key < q.key + q.bytes.length) && !(p.hub && q.hub && p.link == q.link))
  | none => false

/-- The i-th of the writes on their way arrives, if it may. -/
def landAt (s : State) (i : Nat) : State :=
  match s.posted[i]? with
  | some p => if mayLand s.posted i then postedLeft (s.putMemBytes p.key p.bytes) (s.posted.take i ++ s.posted.drop (i + 1)) else s
  | none => s

/-- A zero-length read on every link that has carried writes of a context, and its answer (02 R38, R40). -/
def landCtx (s : State) (ctx : Nat) : State :=
  [0, 1].foldl (fun s l => if s.posted.any (fun p => p.ctx == ctx && p.link == l) then landLink s l else s) s

/-! ### Poison -/

/-- Whether one of the 64-bit words that n bytes at k touch is in a poison list. -/
def poisonedIn (l : List Nat) (k n : Nat) : Bool := l.any (fun w => decide (k / 8 ≤ w ∧ w ≤ (k + n - 1) / 8) && n != 0)
/-- Poison after n bytes at k were written: words wholly written are clear (01 R24), or poisoned when the data was. -/
def poisonAfter (l : List Nat) (k n : Nat) (bad : Bool) : List Nat :=
  let l := l.filter (fun w => !decide (k ≤ 8 * w ∧ 8 * w + 8 ≤ k + n))
  if bad && n != 0 then l ++ (span (k / 8) ((k + n - 1) / 8 + 1 - k / 8)).filter (!l.contains ·) else l

/-- The team sleeps on a line, and its sleep has not ended (18 R357, R358). -/
def Team.sleepsOn (t : Team) (line : Nat) : Bool :=
  match t.status with
  | .sleep m => m.line == line && !m.woken
  | _ => false
/-- The team's sleep, if it sleeps, ends. -/
def Team.wake (t : Team) : Team :=
  match t.status with
  | .sleep m => { t with status := .sleep { m with woken := true } }
  | _ => t

/-- Writes to a watched line end the sleeps on it (18 R358), and a WAITMEM's monitor sees them (03 R69). -/
def State.touch (s : State) (line : Nat) : State :=
  let s := if s.queues.any (fun e => e.2.watch == some line) then
      { s with queues := s.queues.map (fun e => if e.2.watch = some line then (e.1, { e.2 with lineChanged := true }) else e) } else s
  if s.teams.any (fun e => e.2.sleepsOn line) then
    s.teams.foldl (fun s e => if e.2.sleepsOn line then s.updTeam e.1 (·.wake) else s) s
  else s

/-- The lines of n bytes at a physical key. -/
def keyLines (k n : Nat) : List Nat := if n = 0 then [] else span (k / 64) ((k + n - 1) / 64 + 1 - k / 64)

/-- Likewise writes to n bytes at a physical key. -/
def State.touchKey (s : State) (k n : Nat) : State := (keyLines k n).foldl State.touch s

/-- Software has written n bytes at a physical key: a faulted queue whose read index lies in them resumes with empty stacks (03 R72). -/
def State.rewrites (s : State) (k n : Nat) : State :=
  let hit (q : Queue) : Bool := match q.rptrKey with
    | some r => decide (r < k + n ∧ k < r + 4)
    | none => false
  if s.queues.any (fun e => hit e.2) then
    { s with queues := s.queues.map (fun e => if hit e.2 then (e.1, { e.2 with rptrWritten := true }) else e) }
  else s

/-- Dies whose caches may hold lines the context has written (04 R96). -/
def State.dirtyDie (s : State) (ctx die : Nat) : State :=
  if (s.ctx ctx).dirtyDies.contains die then s
  else s.updCtx ctx (fun c => { c with dirtyDies := c.dirtyDies ++ [die] })

/-- A line's bytes are written to their home by the cache that holds them. -/
def State.evict (s : State) (line : Nat) : State :=
  { s.writeBack (fun k => k / 64 == line && keyKind k < 2) with through := s.through.filter (·.2 != line) }

/-- The release flush (04 R96): of the dies in the context's mask, every dirty line of the L2 and every line of the margin cache not yet
written through goes to its home, whoever wrote it, and the mask is cleared. Near memory that a core of its own die has written is in no cache of
the mask: what has been written of it is home then too. -/
def State.flush (s : State) (ctx : Nat) : State :=
  let m := (s.ctx ctx).dirtyDies
  let margin (e : Nat × Nat) : Bool := m.contains (e.1 / 128) || e.1 / 128 == keyDie (64 * e.2)
  let lines := (s.through.filter margin).map (·.2)
  let s := { s.writeBack (fun k => (keyKind k == 0 && m.contains (keyDie k)) || (keyKind k == 1 && lines.contains (k / 64))) with
    through := s.through.filter (fun e => !lines.contains e.2) }
  s.updCtx ctx (fun c => { c with dirtyDies := [] })

/-! ### Agents, accesses, places -/

/-- Who makes an access: its context, and for a team or a core's engine the crew and the team. `source` is that of a
fault record (10 R203): 0 team, 1 copy channel, 2 gather engine, 3 Feed, 4 matrix engine, 5 Ductus, 6 collectives. -/
structure Agent where
  ctx : Nat
  crew : Option Nat := none
  team : Option Nat := none
  source : Nat := 0
  lane : Option Nat := none
  spec : Bool := false
  deriving DecidableEq, Repr

/-- The kinds of access, as fault records number them (10 R203); the fabric's have the permission of what they do. -/
inductive Acc where
  | load | store | atomic | fetch | engR | engW | fabR | fabW | fabA
  deriving DecidableEq, Repr

def Acc.code : Acc → Nat
  | .load => 0 | .store => 1 | .atomic => 2 | .fetch => 3 | .engR => 4 | .engW => 5 | .fabR => 6 | .fabW => 6 | .fabA => 6
/-- The permission needed: 1 R, 2 W, 4 X (10 R197). -/
def Acc.needs : Acc → Nat
  | .load => 1 | .store => 2 | .atomic => 3 | .fetch => 4 | .engR => 1 | .engW => 2 | .fabR => 1 | .fabW => 2 | .fabA => 3
def Acc.writes (a : Acc) : Bool := a.needs / 2 % 2 = 1

/-- Where an access goes. -/
inductive Place where
  | scratch (crew off : Nat)
  | phys (key : Nat)
  | prot                          -- the reserved range, outside a window's allocation: PROTECTION (09 R178)
  | canon                         -- bits [63:52] set: TRANSLATION
  | fault (cause level : Nat)     -- the walk's fault (10 R197)
  deriving DecidableEq, Repr

/-- The 64-byte line of a place, as a monitor names it. -/
def Place.line : Place → Nat
  | .scratch c o => 2 ^ 60 + c * 2 ^ 20 + o / 64
  | .phys k => k / 64
  | _ => 2 ^ 61

def winLo : Nat := 0x000FFFF000000000
def folioWin : Nat := 0x000FFFF100000000

/-! ### Reading and writing a place -/

/-- A byte of a crew's scratch; undefined until written (09 R178). -/
def scratchAt (c : Crew) (o : Nat) : Byte := (cget none c.scratch o).getD (Config.scratchByte c.scratchSeed o)

def scratchBytes (c : Crew) (o : Nat) : Nat → List Byte
  | 0 => []
  | n + 1 => scratchAt c o :: scratchBytes c (o + 1) n

def scratchPut (m : Cells (Option Byte)) (o : Nat) : List Byte → Cells (Option Byte)
  | [] => m
  | b :: r => scratchPut (cset none m o (some b)) (o + 1) r

/-- n bytes at a place, and whether they are poisoned. What host memory returns while no link is up is free. -/
def readPlace (s : State) (p : Place) (n : Nat) : List Byte × Bool :=
  match p with
  | .scratch c o => (scratchBytes (s.crew c) o n, poisonedIn (s.crew c).scratchPoison o n)
  | .phys k =>
    if keyKind k = 2 ∧ hostUp s = false then ((List.range n).map (Config.undefByte s.fresh), false)
    else (s.devBytes k n, poisonedIn s.poison k n)
  | _ => (List.replicate n 0, false)

/-! ### Words and lines of a place -/

/-- The aligned 8-byte word of a place. -/
def Place.word : Place → Nat
  | .scratch c o => 2 ^ 63 + c * 2 ^ 17 + o / 8
  | .phys k => k / 8
  | _ => 2 ^ 62
/-- The offset of a place in its word. -/
def Place.inWord : Place → Nat
  | .scratch _ o => o % 8
  | .phys k => k % 8
  | _ => 0
/-- A location as a number. -/
def Place.loc (p : Place) : Nat := 8 * p.word + p.inWord
/-- n bytes at a place are the whole of a word. -/
def Place.whole (p : Place) (n w : Nat) : Bool := decide (p.loc ≤ 8 * w ∧ 8 * w + 8 ≤ p.loc + n)
/-- The place n bytes on. -/
def Place.plus (p : Place) (n : Nat) : Place :=
  match p with
  | .scratch c o => .scratch c (o + n)
  | .phys k => .phys (k + n)
  | p => p
/-- The word at a place, from its start. -/
def Place.wordStart (p : Place) : Place :=
  match p with
  | .scratch c o => .scratch c (o / 8 * 8)
  | .phys k => .phys (k / 8 * 8)
  | p => p
/-- The words that n bytes at a place touch, as places. -/
def Place.words (p : Place) (n : Nat) : List Place :=
  if n = 0 then [] else (span 0 ((p.inWord + n - 1) / 8 + 1)).map (fun i => p.wordStart.plus (8 * i))
/-- Caches hold lines of LPDDR-6 and near memory alone (09 R178, R179). -/
def Place.cacheable : Place → Bool
  | .phys k => decide (keyKind k < 2)
  | _ => false

/-- The lines that n bytes at a place touch, as monitors name them. -/
def Place.lines (p : Place) (n : Nat) : List Nat :=
  if n = 0 then [] else (p.words n).foldl (fun l w => if l.contains w.line then l else l ++ [w.line]) []

/-- The first of n bytes at a place, and the start of each further line of them. -/
def Place.firsts (p : Place) (n : Nat) : List Place :=
  match p with
  | .phys k => if n = 0 then [] else (span (k / 64) ((k + n - 1) / 64 + 1 - k / 64)).map (fun l => .phys (64 * l))
  | _ => []

/-! ### The caches (09 R179 to R181) -/

/-- The lines of a level's ways, its sets, and the set of a line. The L1 holds 256 KiB, the margin cache 256 MiB (00 R1), an L2 its share. -/
def cacheWays (level : Nat) : Nat := 4 * (Config.cacheWays level + 1)
def cacheSet (level bytes line : Nat) : Nat := Config.cacheSet level line % max 1 (bytes / 64 / cacheWays level)

/-- The line that leaves its set for a new one (09 R181), of the lines of the set, the least recently used first: none while the set has
room; a sticky line only for a sticky one, and always for one beyond three of every four ways. -/
def victim (ways : Nat) (set : List Tag) (hint : Nat) : Option Tag :=
  if hint = 2 ∧ 3 * (ways / 4) ≤ (set.filter (·.hint == 2)).length then (set.filter (·.hint == 2)).head?
  else if set.length < ways then none
  else if hint = 2 then set.head?
  else (set.filter (·.hint != 2)).head?

/-- A cache after a use of a line with a hint, and the line that left: a line held becomes the most recently used, but for a streaming access, which
leaves it where it is (log 10); another is allocated unless the access bypasses, a streaming one as the least recently used. -/
def useLine (level bytes : Nat) (ls : List Tag) (line hint : Nat) : List Tag × Option Nat :=
  match ls.find? (·.line == line) with
  | some t => (if hint = 1 then ls else ls.filter (·.line != line) ++ [t], none)
  | none =>
    if hint = 3 then (ls, none)
    else
      let out := victim (cacheWays level) (ls.filter (fun t => cacheSet level bytes t.line == cacheSet level bytes line)) hint
      let ls := match out with
        | some t => ls.filter (·.line != t.line)
        | none => ls
      (if hint = 1 then { line := line, hint := hint } :: ls else ls ++ [{ line := line, hint := hint }], out.map (·.line))

/-- A cache holds a line. -/
def holdsLine (c : Cells (List Tag)) (i line : Nat) : Bool := (cget [] c i).any (·.line == line)

/-- A form of a word is of a line that has left a cache. -/
def StaleWord.gone (e : StaleWord) (i : Nat) (out : Option Nat) : Bool := e.core == i && out == some (e.word / 8)

/-- The L2 of a line's home die after a use. A line that leaves it is written to its home (R180): `out` lists it until then. -/
def useL2 (s : State) (line hint : Nat) : State :=
  if keyKind (64 * line) = 0 then
    let d := keyDie (64 * line)
    let r := useLine 2 (((s.die d).share + 1) * 2 ^ 29) (cget [] s.caches.l2 d) line hint
    { s with caches := { s.caches with l2 := cset [] s.caches.l2 d r.1, out := s.caches.out ++ r.2.toList } }
  else s

/-- An entry of a list of forms, for a core or die and a word. -/
def formOf (l : List StaleWord) (i w : Nat) : Option StaleWord := l.find? (fun e => e.core == i && e.word == w)

/-- The newer of two forms of a word; none is the word as it stands. -/
def newer (a b : StaleWord) : StaleWord := if a.since < b.since then b else a

/-- The cores that hold a crew. -/
def liveCores (s : State) : List Nat :=
  s.crews.foldl (fun l e => if e.2.resident && !l.contains e.2.core then l ++ [e.2.core] else l) []

/-- The form of a word that comes into the margin cache of a die: the newest in which a core of the die sees it, or the word as it stands where one
does (11 R217). -/
def dieForm (s : State) (d w : Nat) : Option StaleWord :=
  match ((liveCores s).filter (· / 128 == d)).map (fun c => formOf s.stale c w) with
  | [] => none
  | f :: r => r.foldl (fun m e => match m, e with
    | some a, some b => some (newer a b)
    | _, _ => none) f

/-- A word comes into the margin cache of a die, from which its cores see it from then on. -/
def enterMargin (s : State) (d w : Nat) : State :=
  let f := dieForm s d w
  { s with
    stale := s.stale.filterMap (fun e => if e.core / 128 == d && e.word == w then f.map (fun m => { m with core := e.core }) else some e),
    caches := { s.caches with marginOld := s.caches.marginOld ++ (f.map (fun m => { m with core := d })).toList } }

/-- The margin cache of a die after a read of a line homed on another die. -/
def useMargin (s : State) (d line hint : Nat) : State :=
  let r := useLine 1 (2 ^ 28) (cget [] s.caches.margin d) line hint
  let t : State := { s with caches := { s.caches with margin := cset [] s.caches.margin d r.1,
                                                      marginOld := s.caches.marginOld.filter (fun e => !e.gone d r.2) } }
  if holdsLine s.caches.margin d line || hint == 3 || s.stale.isEmpty then t
  else (span (8 * line) 8).foldl (fun s w => enterMargin s d w) t

/-- A core reads a line past its L1: from its home on its own die, else from the margin cache, and from its home where that does not hold it
(R179). -/
def fetchLine (s : State) (core line hint : Nat) : State :=
  let d := core / 128
  if keyDie (64 * line) = d then useL2 s line hint
  else if holdsLine s.caches.margin d line then useMargin s d line hint
  else useMargin (useL2 s line hint) d line hint

/-- The older form in which the engines of a core see a word, if they do not see it as it stands: that of its die's margin cache where it holds the
line, else a form that writes have not reached. They read past its L1. -/
def engineForm (s : State) (core : Nat) (w : Place) : Option StaleWord :=
  if w.cacheable && holdsLine s.caches.margin (core / 128) (w.word / 8) then formOf s.caches.marginOld (core / 128) w.word
  else formOf s.stale core w.word

/-- The older form in which the teams of a core see a word: that of its L1 where it holds the line, else as its engines do. -/
def coreForm (s : State) (core : Nat) (w : Place) : Option StaleWord :=
  if w.cacheable && holdsLine s.caches.l1 core (w.word / 8) then formOf s.caches.l1Old core w.word else engineForm s core w

/-- No agent sees any word in an older form. -/
def State.current (s : State) : Bool := s.stale.isEmpty && s.caches.l1Old.isEmpty && s.caches.marginOld.isEmpty

/-- A team of a core has loaded from a line: its L1 holds it now, as its hint says (09 R179, R181), in the form that comes to it. -/
def fillLine (s : State) (core : Nat) (p : Place) (hint : Nat) : State :=
  if !p.cacheable then s
  else
    let line := p.line
    let r := useLine 0 (2 ^ 18) (cget [] s.caches.l1 core) line hint
    if holdsLine s.caches.l1 core line then { s with caches := { s.caches with l1 := cset [] s.caches.l1 core r.1 } }
    else
      let s := fetchLine s core line hint
      if hint = 3 then s
      else
        let forms := if s.current then [] else (span 0 8).filterMap (fun i => engineForm s core (.phys (64 * line + 8 * i)))
        { s with caches := { s.caches with
          l1 := cset [] s.caches.l1 core r.1,
          l1Old := s.caches.l1Old.filter (fun e => !e.gone core r.2) ++ forms.map (fun e => { e with core := core }) } }

/-- An engine of a core has read from a line (09 R181, 19 R385 to R391). -/
def engineLine (s : State) (core : Nat) (p : Place) (hint : Nat) : State := if p.cacheable then fetchLine s core p.line hint else s

/-- A team of a core stores to a line: a store allocates in no L1 (09 R180), and a bypassing one drops the line. -/
def storeLine (s : State) (core : Nat) (p : Place) (hint : Nat) : State :=
  if !p.cacheable then s
  else if hint = 3 then
    { s with caches := { s.caches with l1 := cset [] s.caches.l1 core ((cget [] s.caches.l1 core).filter (·.line != p.line)),
                                       l1Old := s.caches.l1Old.filter (fun e => !e.gone core (some p.line)) } }
  else { s with caches := { s.caches with l1 := cset [] s.caches.l1 core (useLine 0 (2 ^ 18) (cget [] s.caches.l1 core) p.line 3).1 } }

/-- Lines stored to that a die's margin cache holds: it writes them through, and they are its most recently used. -/
def storeMargin (s : State) (d : Nat) (lines : List Nat) : State :=
  { s with caches := { s.caches with
    margin := cset [] s.caches.margin d (lines.foldl (fun ls l => (useLine 1 (2 ^ 28) ls l 3).1) (cget [] s.caches.margin d)) } }

/-! ### What an agent sees (09 R180, 11 R217, R225) -/

/-- n bytes at a place, words in the older form that `form` gives. -/
def viewWith (s : State) (form : Place → Option StaleWord) (p : Place) (n : Nat) : List Byte × Bool :=
  let r := readPlace s p n
  if s.current then r
  else
    (((List.range n).zip r.1).map (fun x => match form (p.plus x.1).wordStart with
        | some e => e.bytes.getD (p.plus x.1).inWord 0
        | none => x.2),
      (p.words n).any (fun w => match form w with
        | some e => e.bad
        | none => (readPlace s w 8).2))

/-- n bytes at a place as the teams of a core see them. -/
def viewPlace (s : State) (core : Nat) (p : Place) (n : Nat) : List Byte × Bool := viewWith s (coreForm s core) p n
/-- Likewise as the engines of a core see them. -/
def enginePlace (s : State) (core : Nat) (p : Place) (n : Nat) : List Byte × Bool := viewWith s (engineForm s core) p n

/-- Entries that are of none of the given words. -/
def without (ws : List Nat) (l : List StaleWord) : List StaleWord := l.filter (fun e => !ws.contains e.word)

/-- Every agent sees n bytes at a place as they stand; a cached word that is poisoned stays so unless it is among them whole (01 R24). -/
def State.unhide (s : State) (p : Place) (n : Nat) : State :=
  if s.current then s
  else
    let ws := (p.words n).map (·.word)
    let keep (l : List StaleWord) : List StaleWord := l.filter (fun e => !ws.contains e.word || e.bad && !p.whole n e.word)
    { s with stale := without ws s.stale,
             caches := { s.caches with l1Old := keep s.caches.l1Old, marginOld := keep s.caches.marginOld } }

/-- Every copy of the lines of n bytes at a physical key is invalidated (11 R232). -/
def dropLines (s : State) (k n : Nat) : State :=
  let out (line : Nat) : Bool := decide (k / 64 ≤ line ∧ line ≤ (k + n - 1) / 64)
  let keep (l : List Tag) : List Tag := l.filter (fun t => !out t.line)
  let tags (c : Cells (List Tag)) : Cells (List Tag) := (c.map (fun e => (e.1, keep e.2))).filter (fun e => !e.2.isEmpty)
  let old (l : List StaleWord) : List StaleWord := l.filter (fun e => !out (e.word / 8))
  { s with caches := { s.caches with l1 := tags s.caches.l1, margin := tags s.caches.margin, l2 := tags s.caches.l2,
                                     l1Old := old s.caches.l1Old, marginOld := old s.caches.marginOld } }

/-- Bytes written by the device at a physical place, by core w or the hub die as core 512, with a retention hint: LPDDR-6 is newer in its home die's
L2, near memory that a core has written until it is written through, host memory until its link has carried it. -/
def State.putDevBytes (s : State) (w ctx k : Nat) (bytes : List Byte) (hint : Nat := 0) : State :=
  let lines := keyLines k bytes.length
  let far := decide (w < 512 ∧ w / 128 ≠ keyDie k)
  if keyKind k = 2 then s.post w ctx k bytes
  else
    let s := if far then storeMargin (s.dirtyDie ctx (w / 128)) (w / 128) lines else s
    if keyKind k = 0 then
      (lines.foldl (fun s l => useL2 s l (if hint = 3 then 0 else hint)) (s.dirtyDie ctx (keyDie k))).putOverBytes k bytes
    else if w < 512 then
      let s := s.putOverBytes k bytes
      { s with through := s.through ++ (lines.map (fun l => (w, l))).filter (!s.through.contains ·) }
    else s.putHomeBytes k bytes

/-- Bytes written at a place by core w, or the hub die as core 512, for a context, with the poison they carry and a retention hint. -/
def putPlace (s : State) (w ctx : Nat) (p : Place) (bytes : List Byte) (bad : Bool) (hint : Nat := 0) : State :=
  let s := match p with
    | .scratch c o => s.updCrew c (fun c => { c with scratch := scratchPut c.scratch o bytes,
                                                     scratchPoison := poisonAfter c.scratchPoison o bytes.length bad })
    | .phys k =>
      let s := (s.rewrites k bytes.length).putDevBytes w ctx k bytes hint
      { s with poison := poisonAfter s.poison k bytes.length bad }
    | _ => s
  (p.lines bytes.length).foldl State.touch s

/-- Likewise, and every agent sees them at once. -/
def writePlace (s : State) (ctx : Nat) (p : Place) (bytes : List Byte) (bad : Bool) (w : Nat := 512) : State :=
  putPlace (s.unhide p bytes.length) w ctx p bytes bad

/-- Bytes written at home, past every cache: no agent sees an older form, whole words lose their poison (01 R24), and watchers of the lines
see them. -/
def homePut (s : State) (k : Nat) (bytes : List Byte) : State :=
  let s := (s.unhide (.phys k) bytes.length).putHomeBytes k bytes
  { s with poison := poisonAfter s.poison k bytes.length false }.touchKey k bytes.length

/-- A core sees words as they stand from now on, and with it, where the margin cache of its die holds their line, the cores of its die. A poisoned
word of a cache stays. -/
def seeWords (s : State) (core : Nat) (ws : List Nat) : State :=
  if s.current then s
  else
    let die := core / 128
    let sees (e : StaleWord) : Bool := e.core == core || (e.core / 128 == die && holdsLine s.caches.margin die (e.word / 8))
    let keep (i : Nat) (l : List StaleWord) : List StaleWord := l.filter (fun e => !(e.core == i && ws.contains e.word && !e.bad))
    { s with stale := s.stale.filter (fun e => !(ws.contains e.word && sees e)),
             caches := { s.caches with l1Old := keep core s.caches.l1Old, marginOld := keep die s.caches.marginOld } }

/-- A core sees n bytes at a place as they stand from now on (11 R217, R219). -/
def seenBy (s : State) (core : Nat) (p : Place) (n : Nat) : State := seeWords s core ((p.words n).map (·.word))

/-- A form of a word after a store to bytes of it; none when they are the whole word. -/
def StaleWord.store (e : StaleWord) (p : Place) (bytes : List Byte) : Option StaleWord :=
  if p.whole bytes.length e.word then none
  else some { e with bytes := (List.range 8).map (fun j =>
    let i := 8 * e.word + j
    if p.loc ≤ i ∧ i < p.loc + bytes.length then bytes.getD (i - p.loc) 0 else e.bytes.getD j 0) }

/-- The poisoned words of the caches that a core writes through take its store: they are clear when it is of the whole word (01 R24). -/
def storeBad (s : State) (core : Nat) (p : Place) (bytes : List Byte) : State :=
  if s.current then s
  else
    let ws := (p.words bytes.length).map (·.word)
    let upd (i : Nat) (l : List StaleWord) : List StaleWord :=
      l.filterMap (fun e => if e.core == i && ws.contains e.word then e.store p bytes else some e)
    { s with caches := { s.caches with l1Old := upd core s.caches.l1Old, marginOld := upd (core / 128) s.caches.marginOld } }

/-- A word in its form of now. -/
def formNow (s : State) (i : Nat) (w : Place) (n : Nat) : StaleWord :=
  let r := readPlace s w 8
  { core := i, word := w.word, bytes := r.1, bad := r.2, since := n }

/-- What the caches and the cores that do not see it at once keep of a word that agent w is about to write, at count n: the L1 of every
other core and the margin cache of every other die that hold its line keep their form, and so may a core that the write has not reached, unless it
sees the line through the margin cache that the write passes. A write of the hub die, 512, is made at its home. Scratch is seen by everyone as it
stands (23 R422). -/
def keepForm (s : State) (n w : Nat) (p : Place) : State :=
  let die := w / 128
  let line := p.word / 8
  let cores := if p.cacheable then (s.caches.l1.filter (fun e => e.1 != w && holdsLine s.caches.l1 e.1 line && (formOf s.caches.l1Old e.1 p.word).isNone)).map (·.1) else []
  let dies := if p.cacheable then (s.caches.margin.filter (fun e => (512 ≤ w || e.1 != die) && holdsLine s.caches.margin e.1 line && (formOf s.caches.marginOld e.1 p.word).isNone)).map (·.1) else []
  let passes (c : Nat) : Bool := c / 128 == die && p.cacheable && holdsLine s.caches.margin die line
  let late := match p with
    | .phys _ => if w < 512 then (liveCores s).filter (fun c => c != w && !passes c && (formOf s.stale c p.word).isNone && Config.hides n c p.word) else []
    | _ => []
  { s with
    stale := s.stale ++ late.map (fun c => formNow s c p n),
    caches := { s.caches with l1Old := s.caches.l1Old ++ cores.map (fun c => formNow s c p n),
                              marginOld := s.caches.marginOld ++ dies.map (fun d => formNow s d p n) } }

/-- Whether some other agent than core w could keep an older form of what is written. -/
def othersSee (s : State) (w : Nat) : Bool :=
  (liveCores s).any (· != w) || s.caches.l1.any (·.1 != w) || s.caches.margin.any (fun e => 512 ≤ w || e.1 != w / 128)

/-- A write of a core, or of the hub die as core 512: its own teams see it, and each other core at first sees it or not. -/
def shareWrite (s : State) (w ctx : Nat) (p : Place) (bytes : List Byte) (bad : Bool) (hint : Nat := 0) : State :=
  let s := if w < 512 then storeBad (seenBy s w p bytes.length) w p bytes else s
  let s := if othersSee s w then
      let (n, s) := s.draw
      (p.words bytes.length).foldl (fun s x => keepForm s n w x) s
    else s
  putPlace s w ctx p bytes bad hint

/-! ### The walk -/

def pteV (e : Nat) : Bool := bitN e 0
def pteFT (e : Nat) : Bool := bitN e 1
def pteKind (e : Nat) : Nat := bitsN e 52 2
def pteHome (e : Nat) : Nat := bitsN e 9 2
def pteAddr (e : Nat) : Nat := bitsN e 12 40 * 4096
def pteLeaf (e : Nat) : Bool := bitN e 54
def ptePerm (e : Nat) : Nat := bitsN e 4 3
/-- Log2 of the page a leaf of a level maps (10 R195). -/
def pageBits (level : Nat) : Nat := if level = 1 then 34 else if level = 2 then 25 else 16
def pteIndex (level va : Nat) : Nat := bitsN va (if level = 0 then 43 else if level = 1 then 34 else if level = 2 then 25 else 16) 9
/-- An entry ends the walk. -/
def pteIsLeaf (level e : Nat) : Bool := level == 3 || pteLeaf e

/-- A malformed entry (10 R197). -/
def pteBad (level e : Nat) : Bool :=
  bitsN e 55 9 != 0 || bitN e 11 || pteKind e == 3 || (level == 0 && pteLeaf e) ||
  (pteKind e == 2 && !pteIsLeaf level e) || (pteIsLeaf level e && level != 0 && pteAddr e % 2 ^ pageBits level != 0)

/-- What a walk ends in. -/
inductive WalkEnd where
  | leaf (level pte key : Nat)
  | firstTouch (pte key : Nat)
  | fault (cause level : Nat)
  deriving DecidableEq, Repr

/-- The walk from a level on, over the levels left (10 R197). -/
def walkFrom (s : State) (spec : Bool) (need va table : Nat) : List Nat → WalkEnd
  | [] => .fault 0 3
  | level :: rest =>
    let k := table + 8 * pteIndex level va
    let e := ofLE (s.homeBytes k 8)
    if !pteV e then
      if pteFT e && level == 3 && pteKind e == 0 && !spec then .firstTouch e k else .fault 0 level
    else if pteBad level e then .fault 2 level
    else if pteIsLeaf level e then
      (if ptePerm e &&& need = need then .leaf level e k else .fault 1 level)
    else walkFrom s spec need va (physKey (pteKind e) (pteHome e) (pteAddr e)) rest

/-- The level-0 table of a context (10 R194). -/
def rootTable (c : Ctx) : Nat :=
  physKey (bitsN c.ptBase.toNat 2 2) (bitsN c.ptBase.toNat 0 2) (bitsN c.ptBase.toNat 12 40 * 4096)

/-- First touch (10 R208): a frame of the die's pool becomes the page. -/
def firstTouch (s : State) (ctx pte key : Nat) (write : Bool) : State × Option Nat :=
  let d := pteHome pte
  let die := s.die d
  let base := bitsN die.ftBase.toNat 12 40 * 4096
  if die.ftCons = die.ftProd ∨ base = 0 then (s.updCtx ctx (fun c => { c with frPool := true }), none)
  else
    let entry := ofLE (s.homeBytes (physKey 0 d (base + 8 * (die.ftCons % 4096))) 8)
    let frame := bitsN entry 16 36 * 65536
    let pte := pte - pteAddr pte + frame - 2 + 1
    let pte := pte ||| 4 ||| (if write then 8 else 0)
    let s := homePut s key (leBytes 8 pte)
    (s.setDie d { die with ftCons := (die.ftCons + 1) % 2 ^ 32 }, some pte)

/-- The 64 KiB slice of a leaf that holds va: of a host page the host's translation of that slice, as it stands since the last ATS invalidation that
touched it (02 R42; log 77). -/
def heldOf (c : Ctx) (ctx va level pte : Nat) (dirty : Bool) : Held :=
  let at_ := pteAddr pte + (va % 2 ^ pageBits level) / 65536 * 65536
  { ctx := ctx, page := va / 65536, kind := pteKind pte, home := pteHome pte,
    frame := if pteKind pte = 2 then Config.hostFrame (cget 0 c.atsDrops (at_ / 65536)) (Config.pasid ctx).toNat (at_ / 65536) % 2 ^ 36 * 65536 else at_,
    iova := at_, perm := ptePerm pte, bits := pageBits level, dirty := dirty, hint := bitsN pte 7 2 }

/-- The accessed and dirty bits set, by an atomic OR at the entry's memory; a monitor on its line sees the change (11 R229). -/
def setBits (s : State) (key set : Nat) : State :=
  let b := s.homeByte key ||| BitVec.ofNat 8 set
  if b = s.homeByte key then s else (s.putMem key b).touchKey key 1

/-- The walk with its effects: the accessed and dirty bits, first touch, and the host's part (10 R197, R201, R208). -/
def walk (s : State) (ctx : Nat) (spec : Bool) (acc : Acc) (va : Nat) : State × Except (Nat × Nat) Held :=
  match walkFrom s spec acc.needs va (rootTable (s.ctx ctx)) [0, 1, 2, 3] with
  | .fault c l => (s, .error (c, l))
  | .leaf level pte key =>
    let (n, s) := s.draw
    if pteKind pte = 2 && Config.atsFails n (pteAddr pte) then (s, .error (4, level))
    else
      let set := 4 ||| (if acc.writes then 8 else 0)
      (setBits s key set, .ok (heldOf (s.ctx ctx) ctx va level pte (bitN (pte ||| set) 3)))
  | .firstTouch e k =>
    match firstTouch s ctx e k acc.writes with
    | (s, none) => (s, .error (3, 3))
    | (s, some e) => (s, .ok (heldOf (s.ctx ctx) ctx va 3 e (bitN e 3)))

/-- A held translation serves an access: its page, the permission, and a dirty page for a write (10 R198). -/
def Held.serves (h : Held) (ctx : Nat) (acc : Acc) (va : Nat) : Bool :=
  h.ctx == ctx && h.page == va / 65536 && (h.perm &&& acc.needs) == acc.needs && (!acc.writes || h.dirty)

def Held.key (h : Held) (va : Nat) : Nat := physKey h.kind (if h.kind = 2 then 0 else h.home) (h.frame + va % 65536)

/-- A translation put into a cache of n entries, the oldest leaving first. -/
def tlbPut (n : Nat) (l : List Held) (h : Held) : List Held :=
  let l := l.filter (fun e => !(e.ctx == h.ctx && e.page == h.page))
  (if l.length < n then l else l.drop 1) ++ [h]

/-- Translate an address for an agent (10 R197 to R199): a lane's last-page register, its partition's TLB, its core's
TLB, then the walk. Fetches and engines use no last-page register; units of the hub die have no TLB. -/
def translate (s : State) (a : Agent) (acc : Acc) (va : Nat) : State × Except (Nat × Nat) Nat :=
  let core := a.crew.map (fun c => (s.crew c).core)
  let useLast := a.source == 0 && acc != .fetch
  let last : Option Held := match a.team, a.lane with
    | some t, some l => if useLast then (cget [] (s.team t).lastPage l).find? (·.serves a.ctx acc va) else none
    | _, _ => none
  let part := a.team.map (fun t => (s.team t).partition)
  let ptlb : List Held := match core, part with
    | some c, some p => if a.source = 0 then cget [] (s.core c).ptlb p else []
    | _, _ => []
  let ctlb : List Held := match core with
    | some c => (s.core c).tlb
    | none => []
  let keep (s : State) (h : Held) : State :=
    let s := match core, part with
      | some c, some p => if a.source = 0 then s.updCore c (fun k => { k with ptlb := cset [] k.ptlb p (tlbPut 64 (cget [] k.ptlb p) h) }) else s
      | _, _ => s
    match a.team, a.lane with
    | some t, some l => if useLast then s.updTeam t (fun t => { t with lastPage := cset [] t.lastPage l [h] }) else s
    | _, _ => s
  match last with
  | some h => (s, .ok (h.key va))
  | none =>
    match ptlb.find? (·.serves a.ctx acc va) with
    | some h => (keep s h, .ok (h.key va))
    | none =>
      match ctlb.find? (·.serves a.ctx acc va) with
      | some h => (keep s h, .ok (h.key va))
      | none =>
        match walk s a.ctx a.spec acc va with
        | (s, .error e) => (s, .error e)
        | (s, .ok h) =>
          let s := match core with
            | some c => s.updCore c (fun k => { k with tlb := tlbPut 2048 k.tlb h })
            | none => s
          (keep s h, .ok (h.key va))

/-- The crew of rank k in the folio group of a crew (04 R84, R86). DESIGN CHOICE: the scratch of a crew of the group that has ended is still reached
through the folio window until its launch closes (log 120). -/
def folioPeer (s : State) (ci k : Nat) : Option Nat :=
  let c := s.crew ci
  (s.crews.find? (fun e => e.2.launch == c.launch && e.2.group == c.group && e.2.rank == k && e.2.status != .none)).map (·.1)

/-- Whether an address lies in the reserved window range but in no window that the crew may use (09 R178, 04 R86). -/
def windowPlace (s : State) (a : Agent) (va : Nat) : Place :=
  match a.crew with
  | none => .prot
  | some ci =>
    let off := va - winLo
    if off < 0x100000 then (if off < (s.crew ci).scratchSize then .scratch ci off else .prot)
    else if folioWin ≤ va ∧ va < folioWin + 0x800000 ∧ (s.crewRec ci).folio then
      let k := (va - folioWin) / 0x100000
      let o := (va - folioWin) % 0x100000
      match folioPeer s ci k with
      | some p => if o < (s.crew p).scratchSize then .scratch p o else .prot
      | none => .prot
    else .prot

/-- The checks of an address before any translation (18 R348). -/
def addrClass (s : State) (a : Agent) (va : Nat) : Option Place :=
  if va ≥ 2 ^ 52 then some .canon
  else if winLo ≤ va then some (windowPlace s a va)
  else none

/-- An access to host memory with both links down completes with error status, and so does the launch (02 R44). -/
def hostLost (s : State) (a : Agent) (key : Nat) : State :=
  if keyKind key = 2 ∧ hostUp s = false then
    match a.crew with
    | some ci => s.updLaunch (s.crew ci).launch (fun l => if l.status = 0 then { l with status := 5 } else l)
    | none => s
  else s

/-- Where an access goes, with the effects of its translation. -/
def place (s : State) (a : Agent) (acc : Acc) (va : Nat) : State × Place :=
  match addrClass s a va with
  | some p => (s, p)
  | none =>
    match translate s a acc va with
    | (s, .ok k) => (hostLost s a k, .phys k)
    | (s, .error (c, l)) => (s, .fault c l)

/-! ### Scopes, acquires and releases (11 R220 to R224) -/

/-- The agents of a core, or of the hub die as core 512, are in a scope of a crew. -/
def inScope (s : State) (ci scope core : Nat) : Bool :=
  let c := s.crew ci
  if scope ≤ 1 then core == c.core
  else if scope = 2 then core == c.core || ((s.crewRec ci).folio &&
    s.crews.any (fun e => e.2.launch == c.launch && e.2.group == c.group && e.2.status != .none && e.2.core == core))
  else if scope = 3 then core / 128 == c.core / 128
  else true

/-- The accesses of a team's loads that may still be performed later. -/
def Team.late (t : Team) : List LateLoad := t.flight.flatMap (·.late)

/-- Those of a team's loads that `out` names are performed now: their values are the ones read at issue, and the caches hold their lines. -/
def closeSome (s : State) (ti : Nat) (out : LateLoad → Bool) : State :=
  if (s.team ti).late.any out then
    let ls := (s.team ti).late.filter out
    let s := s.updTeam ti (fun t => { t with flight := t.flight.map (fun f => { f with late := f.late.filter (fun l => !out l) }) })
    ls.foldl (fun s l => fillLine s (s.teamCrew ti).core (.phys l.key) l.hint) s
  else s

/-- A load of a team that has not been performed is performed now. -/
def closeLate (s : State) (ti : Nat) : State := closeSome s ti (fun _ => true)

/-- Likewise the loads of words that the team is about to access again (11 R217). -/
def closeWords (s : State) (ti : Nat) (ws : List Nat) : State := closeSome s ti (fun l => ws.contains (l.key / 8))

/-- An acquire of a crew at a scope (09 R180): from FOLIO on its core's L1 is invalidated, from DIE on its die's margin cache. -/
def acquireAt (s : State) (ci scope : Nat) : State :=
  let core := (s.crew ci).core
  if scope < 2 then s
  else
    let c := { s.caches with l1 := cset [] s.caches.l1 core [], l1Old := s.caches.l1Old.filter (·.core != core) }
    { s with caches := if scope < 3 then c
        else { c with margin := cset [] c.margin (core / 128) [], marginOld := c.marginOld.filter (·.core != core / 128) } }

/-- The words that a core sees in an older form, which a release of it does not make visible. -/
def behind (s : State) (core : Nat) : List StaleWord :=
  let ws := ((s.stale.filter (·.core == core) ++ s.caches.l1Old.filter (·.core == core) ++ s.caches.marginOld.filter (·.core == core / 128)).map (·.word))
  ws.filterMap (fun w => coreForm s core (.phys (8 * w)))

/-- A release of a crew at a scope (09 R180, 11 R221, R223): from FOLIO on, every write that its core sees reaches the cores of the scope, unless
their caches hold the line. Of a word that its core sees in an older form itself, none of them is left behind that form. That the host sees nothing
is as 12 R239 says. -/
def releaseAt (s : State) (ci scope : Nat) : State :=
  let r := (s.crew ci).core
  if scope < 2 then s
  else
    let mine := behind s r
    { s with stale := s.stale.filterMap (fun e =>
      if e.core == r || !inScope s ci scope e.core then some e
      else match mine.find? (·.word == e.word) with
        | some m => some (if e.since < m.since && !m.bad then { m with core := e.core } else e)
        | none => none) }

/-- An acquire and a release of a team. -/
def State.acquire (s : State) (ti scope : Nat) : State := acquireAt (closeLate s ti) (s.team ti).crew scope
/-- That of an idempotent crew covers its drafts when they are committed (12 R238). -/
def State.release (s : State) (ti scope : Nat) : State :=
  let ci := (s.team ti).crew
  let s := releaseAt (closeLate s ti) ci scope
  if (s.crew ci).drafting && !(s.crew ci).drafts.isEmpty && decide (2 ≤ scope) then
    s.updCrew ci (fun c => { c with drafts := c.drafts ++ [.release scope] })
  else s

/-- A crew's own drafts laid over bytes read at a physical key (05 R110). -/
def overlay (ds : List Draft) (k : Nat) (bytes : List Byte) : List Byte :=
  ds.foldl (fun bs d => match d with
    | .store _ dk db .. =>
      (List.zip (List.range bs.length) bs).map (fun e => if dk ≤ k + e.1 ∧ k + e.1 < dk + db.length then db.getD (k + e.1 - dk) e.2 else e.2)
    | _ => bs) bytes

/-- A word under a crew's drafts is poisoned: as it is below them, until a draft of the whole word, and from a poisoned draft on (01 R24). -/
def draftPoison (ds : List Draft) (w : Nat) (below : Bool) : Bool :=
  ds.foldl (fun b d => match d with
    | .store _ dk db bad .. =>
      if dk ≤ 8 * w ∧ 8 * w + 8 ≤ dk + db.length then bad else b || (bad && decide (dk < 8 * w + 8 ∧ 8 * w < dk + db.length))
    | _ => b) below

/-- Bytes that a view gives at a place, with the crew's drafts laid over. -/
def draftsOver (s : State) (ci : Nat) (view : Place → Nat → List Byte × Bool) (p : Place) (n : Nat) : List Byte × Bool :=
  let r := view p n
  let ds := (s.crew ci).drafts
  match p with
  | .phys k => if ds.isEmpty then r else (overlay ds k r.1, (p.words n).any (fun w => draftPoison ds w.word (view w 8).2))
  | _ => r

/-- A read for a team at a place as it stands, its crew's drafts laid over. -/
def teamRead (s : State) (ci : Nat) (p : Place) (n : Nat) : List Byte × Bool := draftsOver s ci (readPlace s) p n

/-- A team's load at a place: as its core sees it, its crew's drafts laid over. -/
def loadRead (s : State) (ci : Nat) (p : Place) (n : Nat) : List Byte × Bool := draftsOver s ci (viewPlace s (s.crew ci).core) p n

/-- A read by an engine of a crew's core. -/
def engineRead (s : State) (ci : Nat) (p : Place) (n : Nat) : List Byte × Bool := draftsOver s ci (enginePlace s (s.crew ci).core) p n

/-- The first poisoned word of n bytes at a place in a view: how far from the place it begins. -/
def firstBad (view : Place → Nat → List Byte × Bool) (p : Place) (n : Nat) : Option Nat :=
  ((p.words n).find? (fun w => (view w 8).2)).map (·.loc - p.loc)

/-! ### Fault records (10 R202, R203) -/

/-- Entries of the fault ring, 0 while its size is not set. -/
def frEntries (c : Ctx) : Nat := if 6 ≤ bitsN c.frCtl.toNat 1 5 ∧ bitsN c.frCtl.toNat 1 5 ≤ 16 then 2 ^ bitsN c.frCtl.toNat 1 5 else 0

/-- The fault ring can take a record. -/
def frRoom (c : Ctx) : Bool := bitN c.frCtl.toNat 0 && decide ((c.frHead + 2 ^ 32 - c.frTail) % 2 ^ 32 < frEntries c)

/-- A record's 32 bytes. -/
def frBytes (ctx : Nat) (r : FaultRec) : List Byte :=
  leBytes 8 r.seq ++ leBytes 8 r.va ++ leBytes 4 r.crew ++ leBytes 4 r.team ++ leBytes 2 r.core ++
  leBytes 1 r.level ++ leBytes 1 r.kind ++ leBytes 1 r.flags ++ leBytes 1 r.cause ++ leBytes 1 r.source ++ leBytes 1 ctx

/-- The place of the ring. -/
def frKey (c : Ctx) : Nat :=
  let b := c.frBase.toNat
  physKey (bitsN b 2 2) (if bitsN b 2 2 = 2 then 0 else bitsN b 0 2) (bitsN b 12 40 * 4096)

/-- A word of the MSI-X table at reset: the mask bit of every vector is set (log 105). -/
def msixReset (k : Nat) : W64 := if k % 2 = 1 then 0x100000000 else 0
/-- A vector is masked. -/
def msixMasked (c : Ctx) (v : Nat) : Bool := bitN (cget (msixReset (2 * v + 1)) c.msix (2 * v + 1)).toNat 32

/-- Raise an MSI-X vector (02 R43): one that is masked becomes pending. -/
def State.raise (s : State) (ctx vec : Nat) : State :=
  let s := { s with irqs := (ctx, vec) :: s.irqs }
  if msixMasked (s.ctx ctx) vec then s.updCtx ctx (fun c => { c with msixPend := cset false c.msixPend vec true }) else s

/-- Bytes written at home, or as a write of the hub die to host memory (02 R39). -/
def homeOrPost (s : State) (ctx k : Nat) (bytes : List Byte) : State :=
  if keyKind k = 2 then writePlace s ctx (.phys k) bytes false else homePut s k bytes

/-- A record written into the ring at its home, and the vector raised when it is the first since the tail was written. -/
def frWrite (s : State) (ctx : Nat) (r : FaultRec) : State :=
  let c := s.ctx ctx
  let n := frEntries c
  let s := homeOrPost s ctx (frKey c + 32 * (c.frHead % n)) (frBytes ctx r)
  let s := s.setCtx ctx { c with frHead := (c.frHead + 1) % 2 ^ 32, frSince := false }
  if c.frSince then s.raise ctx (bitsN c.frCtl.toNat 8 6) else s

/-- A fault's record takes the next sequence number; it is written, or held while the ring is full or disabled. -/
def faultRecord (s : State) (ctx : Nat) (r : FaultRec) : Nat × State :=
  let c := s.ctx ctx
  let seq := c.frSeq + 1
  let r := { r with seq := seq }
  let s := s.setCtx ctx { c with frSeq := seq }
  if c.frHeld.isEmpty && frRoom c then (seq, frWrite s ctx r)
  else
    let full := bitN c.frCtl.toNat 0 && !frRoom c
    (seq, s.updCtx ctx (fun c => { c with frHeld := c.frHeld ++ [r], frFull := c.frFull || full }))

/-- The record of an agent's fault. -/
def agentFault (s : State) (a : Agent) (acc : Acc) (va cause level : Nat) (again idem : Bool) : Nat × State :=
  faultRecord s a.ctx
    { seq := 0, va := va,
      crew := (a.crew.map (fun c => (s.crew c).ix)).getD 0xFFFFFFFF,
      team := (a.team.map (fun t => (s.team t).id)).getD 0xFFFFFFFF,
      core := (a.crew.map (fun c => (s.crew c).core)).getD 0xFFFF,
      level := level, kind := acc.code, flags := (if again then 1 else 0) + (if idem then 2 else 0),
      cause := cause, source := a.source }

end Sys2Proof.Machine
end

