-- ==== Sys2Proof/Machine/Num.lean ====
section
/-! DEFINITION. The number formats and their one rounding (13 R250 to R261). A finite value is exact: a sign and a ratio
of natural numbers. Rounding gives the encoding and the flags (FSR bits: 16 NX, 8 UF, 4 OF, 2 DZ, 1 NV). -/

namespace Sys2Proof.Machine

/-- A floating-point format: the IEEE ones, and binary8pP (R251). Widths and exponents are the spec's; `p` counts the
leading bit. -/
structure Fmt where
  w : Nat
  p : Nat
  bias : Int
  ieee : Bool
  signed : Bool
  ext : Bool
  deriving DecidableEq, Repr

def fmtF16 : Fmt := { w := 16, p := 11, bias := 15, ieee := true, signed := true, ext := true }
def fmtBF16 : Fmt := { w := 16, p := 8, bias := 127, ieee := true, signed := true, ext := true }
def fmtF32 : Fmt := { w := 32, p := 24, bias := 127, ieee := true, signed := true, ext := true }
def fmtF64 : Fmt := { w := 64, p := 53, bias := 1023, ieee := true, signed := true, ext := true }
/-- binary8pP, from the five mode bits b8p [2:0], b8s [3], b8x [4] (R251). -/
def fmtB8 (b8 : Nat) : Fmt :=
  let p := b8 % 8
  let sg := b8 / 8 % 2 = 1
  { w := 8, p := p, bias := (2 : Int) ^ (if sg then 7 - p else 8 - p), ieee := false, signed := sg,
    ext := b8 / 16 % 2 = 1 }

/-- Width of the exponent field. -/
def Fmt.ebits (f : Fmt) : Nat := if f.signed then f.w - f.p else f.w - f.p + 1
/-- Exponent of the smallest normal value, 2^(1 - bias). -/
def Fmt.emin (f : Fmt) : Int := 1 - f.bias

/-- A value read from a register: NaN, an infinity, or exact num / den with a sign. -/
inductive FV where
  | nan
  | inf (neg : Bool)
  | fin (neg : Bool) (num den : Nat)
  deriving DecidableEq, Repr

/-- m * 2^e as an exact value. -/
def FV.dyadic (neg : Bool) (m : Nat) (e : Int) : FV :=
  if e < 0 then .fin neg m (2 ^ e.natAbs) else .fin neg (m * 2 ^ e.natAbs) 1

/-- The code of the canonical NaN (R252, R255). -/
def Fmt.nanCode (f : Fmt) : Nat :=
  if f.ieee then (2 ^ (f.ebits + 1) - 1) * 2 ^ (f.p - 2) else if f.signed then 0x80 else 0xFF

/-- The code of an infinity; binary8 only in the extended domain (R252). -/
def Fmt.infCode (f : Fmt) (neg : Bool) : Nat :=
  if f.ieee then (2 ^ f.ebits - 1) * 2 ^ (f.p - 1) + (if neg then 2 ^ (f.w - 1) else 0)
  else if f.signed then (if neg then 0xFF else 0x7F) else 0xFE

/-- The code of the largest finite value F (R253). -/
def Fmt.maxCode (f : Fmt) : Nat :=
  if f.ieee then (2 ^ f.ebits - 1) * 2 ^ (f.p - 1) - 1
  else if f.signed then (if f.ext then 0x7E else 0x7F) else (if f.ext then 0xFD else 0xFE)

/-- The magnitude of a code without its sign bit, as significand and exponent (R251). -/
def Fmt.magOf (f : Fmt) (c : Nat) : Nat × Int :=
  let t := c % 2 ^ (f.p - 1)
  let e := c / 2 ^ (f.p - 1)
  if e = 0 then (t, f.emin - (f.p - 1 : Nat)) else (2 ^ (f.p - 1) + t, (e : Int) - f.bias - (f.p - 1 : Nat))

/-- F as significand and exponent. -/
def Fmt.maxMag (f : Fmt) : Nat × Int := f.magOf f.maxCode

/-- The value of a code (R251, R252, and IEEE 754). -/
def Fmt.value (f : Fmt) (code : Nat) : FV :=
  let c := code % 2 ^ f.w
  let neg := f.signed && c / 2 ^ (f.w - 1) == 1
  let m := if f.signed then c % 2 ^ (f.w - 1) else c
  if f.ieee then
    if m / 2 ^ (f.p - 1) = 2 ^ f.ebits - 1 then (if m % 2 ^ (f.p - 1) = 0 then .inf neg else .nan)
    else let (s, e) := f.magOf m; .dyadic neg s e
  else if c = f.nanCode then .nan
  else if f.ext && (c = f.infCode false || (f.signed && c = f.infCode true)) then .inf neg
  else let (s, e) := f.magOf m; .dyadic neg s e

/-- A code holds a subnormal value. -/
def Fmt.isSub (f : Fmt) (code : Nat) : Bool :=
  let c := code % 2 ^ f.w
  let m := if f.signed then c % 2 ^ (f.w - 1) else c
  m / 2 ^ (f.p - 1) = 0 && m ≠ 0 && f.p ≠ 1 && (f.ieee || c ≠ f.nanCode)

/-- The value of a code as an operand: a subnormal reads as zero of its sign under fzi, in binary8 as the only zero 0x00
(R252, R260). -/
def Fmt.operand (f : Fmt) (fzi : Bool) (code : Nat) : FV :=
  if fzi && f.isSub code then
    match f.value code with
    | .fin neg _ _ => .fin (f.ieee && neg) 0 1
    | v => v
  else f.value code

/-- num / den compared with m * 2^e: negative, zero or positive as less, equal or greater. -/
def cmpDyadic (num den m : Nat) (e : Int) : Ordering :=
  if e < 0 then compare (num * 2 ^ e.natAbs) (m * den) else compare num (m * 2 ^ e.natAbs * den)

/-- k * 2^q compared with m * 2^e. -/
def dyadicCmp (k : Nat) (q : Int) (m : Nat) (e : Int) : Ordering :=
  if q < e then compare k (m * 2 ^ (e - q).toNat) else compare (k * 2 ^ (q - e).toNat) m

/-- Floor of log2 (num / den), for num > 0. -/
def ratLog2 (num den : Nat) : Int :=
  let g : Int := (Nat.log2 num : Int) - (Nat.log2 den : Int)
  if cmpDyadic num den 1 g == .lt then g - 1 else g

/-- num / den in units of 2^q: the floor, and the numerator and denominator of what is left. -/
def inUnits (num den : Nat) (q : Int) : Nat × Nat × Nat :=
  let (n, d) := if q < 0 then (num * 2 ^ q.natAbs, den) else (num, den * 2 ^ q.natAbs)
  (n / d, n % d, d)

/-- Whether a value above lo by rem / d of a unit is rounded up in magnitude (R257, R259): loOdd says bit 0 of lo's
encoding, z is the lane's LFSR. -/
def roundUp (rnd : Nat) (neg loOdd : Bool) (rem d z : Nat) : Bool :=
  if rem = 0 then false
  else match rnd with
    | 0 => decide (2 * rem > d) || (decide (2 * rem = d) && loOdd)
    | 1 => false
    | 2 => neg
    | 3 => !neg
    | 4 => decide (2 * rem ≥ d)
    | 5 => !loOdd
    | 6 => decide (2 ^ 32 * rem / d > z)
    | _ => false

/-- Bit 0 of the encoding of k units at exponent e (of its leading bit): the lowest significand bit, or for P = 1 the
lowest exponent bit (R257). -/
def Fmt.oddCode (f : Fmt) (k : Nat) (e : Int) : Bool :=
  if f.p = 1 then (if k = 0 then false else decide ((e + f.bias) % 2 ≠ 0)) else k % 2 = 1

/-- Rounding in units of the exponent's own grid, at least `lowest`: significand and unit exponent. -/
def Fmt.roundGrid (f : Fmt) (rnd : Nat) (neg : Bool) (z num den : Nat) (bounded : Bool) : Nat × Int × Bool :=
  let e := ratLog2 num den
  let e' := if bounded && decide (e < f.emin) then f.emin else e
  let q := e' - (f.p - 1 : Nat)
  let (k, rem, d) := inUnits num den q
  let up := roundUp rnd neg (f.oddCode k e') rem d z
  (if up then k + 1 else k, q, decide (rem = 0))

/-- The code of k units of 2^q, which the format holds. -/
def Fmt.encode (f : Fmt) (neg : Bool) (k : Nat) (q : Int) : Nat :=
  let sgn := if f.signed && neg then 2 ^ (f.w - 1) else 0
  if k = 0 then (if f.ieee then sgn else 0)
  else
    -- normalise: a significand of 2^p units is 2^(p-1) units of the next exponent
    let (k, q) := if k = 2 ^ f.p then (2 ^ (f.p - 1), q + 1) else (k, q)
    let body := if k < 2 ^ (f.p - 1) then k
      else ((q + (f.p - 1 : Nat) + f.bias).toNat) * 2 ^ (f.p - 1) + (k - 2 ^ (f.p - 1))
    body + sgn

/-- F with a sign. -/
def Fmt.satCode (f : Fmt) (neg : Bool) : Nat :=
  if f.signed && neg then f.maxCode + 2 ^ (f.w - 1) else f.maxCode

/-- An overflowed result (R258). -/
def Fmt.overflowCode (f : Fmt) (rnd : Nat) (sat neg : Bool) : Nat :=
  if sat then f.satCode neg
  else if f.ieee then
    match rnd with
    | 1 | 5 => f.satCode neg
    | 2 => if neg then f.infCode true else f.satCode false
    | 3 => if neg then f.satCode true else f.infCode false
    | _ => f.infCode neg
  else if f.ext then f.infCode neg else f.nanCode

/-- An exact infinite result (R258): the finite domain of binary8 holds none and sets NV. -/
def Fmt.exactInf (f : Fmt) (sat neg : Bool) : Nat × Nat :=
  if !f.signed && neg then (if sat then (0, 1) else (f.nanCode, 1))
  else if f.ieee || f.ext then (f.infCode neg, 0)
  else if sat then (f.satCode neg, 1) else (f.nanCode, 1)

/-- An exact finite value rounded once (R255 to R260): code and flags. -/
def Fmt.round (f : Fmt) (rnd : Nat) (sat fzo : Bool) (z : Nat) (neg : Bool) (num den : Nat) : Nat × Nat :=
  if num = 0 then (f.encode neg 0 0, 0)
  else if !f.signed && neg then (if sat then (0, 1) else (f.nanCode, 1))      -- R262
  else
    let (ku, qu, _) := f.roundGrid rnd neg z num den false
    if dyadicCmp ku qu f.maxMag.1 f.maxMag.2 == .gt then (f.overflowCode rnd sat neg, 20)
    else
      let tiny := dyadicCmp ku qu 1 f.emin == .lt
      if tiny && fzo && f.p ≠ 1 then (f.encode neg 0 0, 24)
      else
        let (k, q, exact) := f.roundGrid rnd neg z num den true
        (f.encode neg k q, if exact then 0 else if tiny then 24 else 16)

/-- Any value rounded to a format, with the flags (R255 to R260, R262). -/
def Fmt.roundV (f : Fmt) (rnd : Nat) (sat fzo : Bool) (z : Nat) (v : FV) : Nat × Nat :=
  match v with
  | .nan => (f.nanCode, 0)
  | .inf neg => f.exactInf sat neg
  | .fin neg num den => f.round rnd sat fzo z neg num den

/-- The next LFSR value (R259). -/
def lfsrNext (z : Nat) : Nat := if z % 2 = 1 then (z / 2) ^^^ 0x80200003 else z / 2

/-- The exact sum of two finite values. An exact zero sum of nonzero operands, or of zeros of unlike sign, is +0, or −0
under RDN (R319); zeros of one sign keep it. -/
def FV.add (rnd : Nat) (x y : FV) : FV × Nat :=
  match x, y with
  | .nan, _ => (.nan, 0)
  | _, .nan => (.nan, 0)
  | .inf a, .inf b => if a = b then (.inf a, 0) else (.nan, 1)
  | .inf a, _ => (.inf a, 0)
  | _, .inf b => (.inf b, 0)
  | .fin a n d, .fin b m c =>
    let p := n * c
    let q := m * d
    if a = b then (.fin a (p + q) (d * c), 0)
    else if p = q then (.fin (rnd = 2) 0 1, 0)
    else if p > q then (.fin a (p - q) (d * c), 0) else (.fin b (q - p) (d * c), 0)

/-- The same value with the other sign. -/
def FV.neg : FV → FV
  | .nan => .nan
  | .inf a => .inf (!a)
  | .fin a n d => .fin (!a) n d

/-- The exact product. -/
def FV.mul (x y : FV) : FV × Nat :=
  match x, y with
  | .nan, _ => (.nan, 0)
  | _, .nan => (.nan, 0)
  | .inf a, .inf b => (.inf (a != b), 0)
  | .inf a, .fin b m _ => if m = 0 then (.nan, 1) else (.inf (a != b), 0)
  | .fin a n _, .inf b => if n = 0 then (.nan, 1) else (.inf (a != b), 0)
  | .fin a n d, .fin b m c => (.fin (a != b) (n * m) (d * c), 0)

/-- The exact quotient (R324): a finite nonzero value by zero is an infinity and DZ. -/
def FV.div (x y : FV) : FV × Nat :=
  match x, y with
  | .nan, _ => (.nan, 0)
  | _, .nan => (.nan, 0)
  | .inf _, .inf _ => (.nan, 1)
  | .inf a, .fin b _ _ => (.inf (a != b), 0)
  | .fin a _ _, .inf b => (.fin (a != b) 0 1, 0)
  | .fin a n d, .fin b m c =>
    if m = 0 then (if n = 0 then (.nan, 1) else (.inf (a != b), 2)) else (.fin (a != b) (n * c) (d * m), 0)

/-- a * b + c, exact (R320). -/
def FV.fma (rnd : Nat) (a b c : FV) : FV × Nat :=
  let (p, f) := a.mul b
  match c with
  | .nan => (.nan, 0)
  | _ => let (r, g) := p.add rnd c; (r, f ||| g)

/-- Numeric order of two non-NaN values; −0 orders below +0 only where `zeros` asks for it (R322, R328). -/
def FV.lt (zeros : Bool) (x y : FV) : Bool :=
  match x, y with
  | .nan, _ => false
  | _, .nan => false
  | .inf a, .inf b => a && !b
  | .inf a, _ => a
  | _, .inf b => !b
  | .fin a n d, .fin b m c =>
    if n = 0 && m = 0 then zeros && a && !b
    else
      let l : Int := (if a then -1 else 1) * ((n * c : Nat) : Int)
      let r : Int := (if b then -1 else 1) * ((m * d : Nat) : Int)
      decide (l < r)

def FV.isNan : FV → Bool
  | .nan => true
  | _ => false

/-- Numeric equality; −0 equals +0. -/
def FV.eqv (x y : FV) : Bool := !x.isNan && !y.isNan && !x.lt false y && !y.lt false x

/-- Integer square root by bits: the greatest r below 2^(k) with r * r ≤ n. -/
def isqrtBits (n : Nat) : Nat → Nat → Nat
  | 0, r => r
  | k + 1, r => let c := r + 2 ^ k; if c * c ≤ n then isqrtBits n k c else isqrtBits n k r

def isqrt (n : Nat) : Nat := isqrtBits n (Nat.log2 n / 2 + 1) 0

/-- A value known as floor(x * 2^n) with what lies below made a sticky quarter unit: rounding it gives what rounding x
gives, wherever no rounding boundary lies strictly inside that unit. -/
def sticky (neg : Bool) (k : Nat) (inexact : Bool) (n : Int) : FV :=
  let m := 4 * k + (if inexact then 1 else 0)
  .dyadic neg m (-n - 2)

/-- √x to 2 p + 80 bits, sticky below (R329). -/
def FV.sqrt : FV → FV × Nat
  | .nan => (.nan, 0)
  | .inf false => (.inf false, 0)
  | .inf true => (.nan, 1)
  | .fin neg n d =>
    if n = 0 then (.fin neg 0 1, 0)
    else if neg then (.nan, 1)
    else
      let sh := 300 + (if Nat.log2 d + 1 > Nat.log2 n then Nat.log2 d - Nat.log2 n + 1 else 0)
      let v := n * 4 ^ sh / d
      let r := isqrt v
      (sticky false r (r * r * d ≠ n * 4 ^ sh) sh, 0)

end Sys2Proof.Machine
end

