-- ==== Sys2Proof/Machine/Operands.lean ====
section
/-! DEFINITION. Operand forms (14 R273, 15 R293): which codes a field accepts, what an operand reads in a lane, which
registers it names, and the register writes of a result. Types and their widths (13 R250). -/

namespace Sys2Proof.Machine

/-! ### Types -/

/-- Width of a type code in bits (13 R250). -/
def tyWidth (ty : Nat) : Nat :=
  match ty with
  | 0 | 1 | 12 | 13 => 8
  | 2 | 3 | 8 | 9 | 14 => 16
  | 6 | 7 | 11 => 64
  | _ => 32

def tyIs64 (ty : Nat) : Bool := ty == 6 || ty == 7 || ty == 11
def tyInt (ty : Nat) : Bool := decide (ty < 8)
def tyFlt (ty : Nat) : Bool := ty == 8 || ty == 9 || ty == 10 || ty == 11
def tyFix (ty : Nat) : Bool := ty == 14 || ty == 15
/-- Signed integers and the fixed-point types. -/
def tySigned (ty : Nat) : Bool := ty == 0 || ty == 2 || ty == 4 || ty == 6 || tyFix ty
def tyNarrow (ty : Nat) : Bool := ty == 8 || ty == 9 || ty == 12 || ty == 13
/-- Element size in bytes. -/
def tySize (ty : Nat) : Nat := tyWidth ty / 8

/-- The floating-point format of a type code; b8 gives the binary8 fields. -/
def tyFmt (ty b8 : Nat) : Fmt :=
  match ty with
  | 8 => fmtF16
  | 9 => fmtBF16
  | 11 => fmtF64
  | 12 | 13 => fmtB8 b8
  | _ => fmtF32

/-- A type that an instruction operating on it accepts: not reserved, b8p not 0, Q16 with qfrac at most 15 (15 R294). -/
def tyValid (ty b8 q : Nat) : Bool :=
  decide (ty < 16) && !((ty == 12 || ty == 13) && b8 % 8 == 0) && !(ty == 14 && decide (15 < q))

/-- MR.type is valid for an instruction that operates on it. -/
def mrTyValid (m : W64) : Bool := tyValid (mrType m) (mrB8 m) (mrQ m)
/-- MR.src is valid for an instruction that reads it. -/
def mrSrcValid (m : W64) : Bool := tyValid (mrSrcType m) (mrSrcB8 m) (mrSrcQ m)
/-- The operating type is of 64 bits. -/
def mr64 (m : W64) : Bool := tyIs64 (mrType m)
/-- fzi and fzo of a type's flush class (13 R260). -/
def fziOf (m : W64) (ty : Nat) : Bool := if tyNarrow ty then mrFziN m else mrFziW m
def fzoOf (m : W64) (ty : Nat) : Bool := if tyNarrow ty then mrFzoN m else mrFzoW m

/-! ### What a field accepts -/

def okZero (o : Opnd) : Bool := o == .v 0
def okZr (o : Opnd) : Bool := o == .zr
def okV (is64 : Bool) : Opnd → Bool
  | .v n => !is64 || n.val % 2 == 0
  | _ => false
/-- A source field of a lane-wise instruction. -/
def okSrc (is64 : Bool) : Opnd → Bool
  | .v n => !is64 || n.val % 2 == 0
  | .q _ | .dq | .zr | .lid | .vx _ => true
  | .x _ => !is64
  | _ => false
/-- A destination field of a lane-wise instruction. -/
def okDst (is64 : Bool) : Opnd → Bool
  | .v n => !is64 || n.val % 2 == 0
  | .q _ | .zr | .vx _ => true
  | .x _ => !is64
  | _ => false
/-- A field that is read and written: no queue is both. -/
def okRdDst (is64 : Bool) : Opnd → Bool
  | .v n => !is64 || n.val % 2 == 0
  | .zr | .vx _ => true
  | .x _ => !is64
  | _ => false
def okS : Opnd → Bool
  | .s _ | .zr => true
  | _ => false
def okSreg : Opnd → Bool
  | .s _ => true
  | _ => false
def okP : Opnd → Bool
  | .p _ => true
  | _ => false
def okQ : Opnd → Bool
  | .q _ => true
  | _ => false
/-- A memory base: S, ZR, or an even V register naming a pair (18 R347). -/
def okBase : Opnd → Bool
  | .v n => n.val % 2 == 0
  | .s _ | .zr => true
  | _ => false
/-- The offset field of LDX, STX and the atomics: one 32-bit register. -/
def okIdx : Opnd → Bool
  | .v _ | .vx _ | .lid | .zr => true
  | _ => false

/-! ### Queues (09 R190, R191) -/

def bindDir (w : W64) : Bool := bitN w.toNat 0
def bindSrc (w : W64) : Nat := bitsN w.toNat 1 2
def bindStrm (w : W64) : Nat := bitsN w.toNat 4 4
def bindPeer (w : W64) : Nat := bitsN w.toNat 8 4
def bindPq (w : W64) : Nat := bitsN w.toNat 12 3
def Team.q (t : Team) (n : Nat) : OpQueue := cget {} t.queues n
def Team.setQ (t : Team) (n : Nat) (q : OpQueue) : Team := { t with queues := cset {} t.queues n q }

/-- The team of a crew with a TEAM.ID. -/
def crewTeam (s : State) (ci id : Nat) : Option Nat := (s.crew ci).teams[id]?

/-- A queue operand that may be read: bound, and incoming. -/
def qReadable (t : Team) (o : Opnd) : Bool :=
  match o with
  | .q n => let b := (t.q n.val).bind; !bindDir b && bindSrc b != 0
  | _ => true
/-- A queue operand that may be written: outgoing, and its target bound as incoming from the issuing team. -/
def qWritable (s : State) (t : Team) (o : Opnd) : Bool :=
  match o with
  | .q n =>
    let b := (t.q n.val).bind
    bindDir b && bindSrc b == 2 &&
    (match crewTeam s t.crew (bindPeer b) with
      | some p =>
        let pb := ((s.team p).q (bindPq b)).bind
        !bindDir pb && bindSrc pb == 2 && bindPeer pb == t.id
      | none => false)
  | _ => true

/-! ### What an operand reads -/

/-- The V register that V[Xn] names in a lane. -/
def vxIndex (t : Team) (c : Nat) (k l : Nat) : Nat := (t.read c (.x k) l).toNat % 65536

/-- Register r of a lane, or the pair r, r + 1, low word first. -/
def readV (t : Team) (c : Nat) (is64 : Bool) (r l : Nat) : Nat :=
  (t.read c (.v r) l).toNat % 2 ^ 32 + (if is64 then (t.read c (.v (r + 1)) l).toNat % 2 ^ 32 * 2 ^ 32 else 0)

/-- What an operand gives in lane l to a pass in cycle c (14 R273); Q and DQ are taken apart. -/
def readOp (t : Team) (c : Nat) (is64 : Bool) (o : Opnd) (l : Nat) : Nat :=
  match o with
  | .v n => readV t c is64 n.val l
  | .s n => (t.read c (.s n.val) 0).toNat
  | .lid => l
  | .vx k => readV t c is64 (vxIndex t c k.val l) l
  | .x n => (t.read c (.x n.val) l).toNat % 65536
  | .p n => (t.read c (.p n.val) l).toNat % 2
  | _ => 0

/-- A source as an instruction takes it: an operand, popped entries, or what the drain delivered per lane. -/
inductive Src where
  | op (o : Opnd)
  | ent (es : List QEntry)
  | dq (vals : List Nat)

def Src.val (t : Team) (c : Nat) (is64 : Bool) (l : Nat) : Src → Nat
  | .op o => readOp t c is64 o l
  | .ent es => (es.map (fun e => (cget 0 e.vals l).toNat)).foldr (fun v r => v + 2 ^ 32 * r) 0
  | .dq vs => vs.getD l 0

/-- The registers an operand names in lane l. -/
def opRegs (t : Team) (is64 : Bool) (o : Opnd) (c l : Nat) : List Reg :=
  let pair (r : Nat) : List Reg := if is64 then [.v r, .v (r + 1)] else [.v r]
  match o with
  | .v n => pair n.val
  | .s n => [.s n.val]
  | .x n => [.x n.val]
  | .p n => if n.val = 0 then [] else [.p n.val]
  | .vx k => .x k.val :: pair (vxIndex t c k.val l)
  | _ => []

/-- The writes of a result in lane l. An X register takes the low 16 bits; ZR discards. -/
def dstWrites (t : Team) (is64 : Bool) (o : Opnd) (c l v : Nat) : List (Reg × Nat × W64) :=
  let pair (r : Nat) : List (Reg × Nat × W64) :=
    if is64 then [(.v r, l, w64 (v % 2 ^ 32)), (.v (r + 1), l, w64 (v / 2 ^ 32 % 2 ^ 32))] else [(.v r, l, w64 (v % 2 ^ 32))]
  match o with
  | .v n => pair n.val
  | .vx k => pair (vxIndex t c k.val l)
  | .x n => [(.x n.val, l, w64 (v % 65536))]
  | .p n => if n.val = 0 then [] else [(.p n.val, l, w64 (v % 2))]
  | .s n => [(.s n.val, 0, w64 v)]
  | _ => []

/-- A direct V operand beyond the declared count: the first register out of range (08 R171). -/
def vRange (t : Team) (o : Opnd) (count : Nat) : Option Nat :=
  match o with
  | .v n => if t.nregs < n.val + count then some (max n.val t.nregs) else none
  | _ => none


end Sys2Proof.Machine
end

