-- ==== Sys2Proof/Machine/Issue.lean ====
section
/-! DEFINITION. How an instruction of a team issues: the order of its checks (10 R210, 15 R296), the passes and their cycles
(08 R161 to R170), waiting, and its end. -/

namespace Sys2Proof.Machine

/-- Why an instruction does not complete in this step. -/
inductive Stop where
  | trap (x : TrapInfo)          -- it traps; nothing of it is done
  | hold                         -- it is not ready, and is tried again
  | block (st : TStatus)         -- the team blocks at it (08 R162)
  | become (s : State)           -- it ends in a state of its own: a suspension, an abort
  | pass (port : Nat) (p : Pass) -- one pass of it issues, and the team goes on at it (08 R161)

/-- A trap with its code and what it reports. -/
def trapAt (code : Nat) (info0 info1 : Nat) (lane : Option Nat := none) : Stop :=
  .trap { code := code, info0 := w64 info0, info1 := w64 info1, lane := w64 (lane.getD 0xFFFF) }

/-- Likewise where the spec states no TRAP.INFO1: it is free (log 13). -/
def trapOpen (s : State) (code info0 : Nat) : Stop := trapAt code info0 (Config.trapInfo s.fresh).toNat

/-- A context whose teams issue: running (04 R92), on a chip that is not frozen and has power (01 R19, R27). -/
def ctxRuns (s : State) (ctx : Nat) : Bool := (s.ctx ctx).pState == 0 && s.freezing == 0 && !s.tripped

/-- The team may issue, or try again, an instruction: it runs, or waits at one that ends when it is tried again, its crew is resident, and no trap of an
engine awaits it at this boundary (10 R206). -/
def canIssue (s : State) (ti : Nat) : Bool :=
  let t := s.team ti
  let c := s.crew t.crew
  c.resident && ctxRuns s c.ctx &&
  (match t.status with
    | .run => t.engTraps.isEmpty || t.replayed || !t.passes.isEmpty
    | .wait _ | .barCrew _ | .barFolio _ | .barQuire _ | .donate .. => true
    | _ => false)

/-- A pass takes its port: the port is free again after it, and the team's age there counts from it (08 R158, R163). -/
def claimPort (s : State) (ti port : Nat) (p : Pass) (next : Nat) : State :=
  let ci := (s.teamCrew ti).core
  let k := (s.team ti).partition * 4 + port
  (s.updTeam ti (fun t => { t with portLast := cset 0 t.portLast port next, issued := (port, p.at_ + 1 - p.occ) })).updCore ci (fun c => { c with
    cycle := max c.cycle (p.at_ + 1 - p.occ), portFree := cset 0 c.portFree k (max (cget 0 c.portFree k) (next + 1)) })

/-- What a stop makes of the machine. A blocked instruction has issued no pass (08 R162). -/
def stopped (s : State) (ti : Nat) (x : Stop) : State :=
  match x with
  | .trap x => takeTrap (s.updTeam ti (fun t => { t with lastPc := t.pc })) ti (s.team ti).pc x
  | .hold => s
  | .block st => s.updTeam ti (fun t => { t with status := st, passes := [] })
  | .become s => s
  | .pass port p =>
    (claimPort s ti port p p.at_).updTeam ti (fun t => { t with passes := t.passes ++ [p], nextIssue := max t.nextIssue (p.at_ + 1) })

/-- An instruction of the team `cur`: its body, where the team may issue; otherwise nothing happens. -/
def runInstr (s : State) (body : Nat → Team → Except Stop State) : Host.Outcome State Fault Refusal :=
  .next (if canIssue s s.cur then
    (match body s.cur (s.team s.cur) with
      | .ok s' => s'
      | .error x => stopped s s.cur x)
    else s)

/-! ### Decode's checks -/

/-- The stall value of a slot of an octet (14 R270). -/
def stallOf (oct : List W32) (slot : Nat) : Nat := bitsN (oct.getD 0 0).toNat (4 * (slot - 1)) 4

/-- The slots of an octet scanned in order: the literal slot of an LI32 is not an instruction. -/
def paceScan (oct : List W32) : Nat → Nat → Bool
  | 0, _ => false
  | n + 1, slot =>
    if slot > 7 then false
    else if (oct.getD slot 0).toNat / 2 ^ 24 = 0x3E then
      slot == 7 || stallOf oct (slot + 1) != 0 || paceScan oct n (slot + 2)
    else paceScan oct n (slot + 1)

/-- The octet raises ILLEGAL_PACE (08 R169, 15 R295). -/
def paceBad (oct : List W32) : Bool := bitsN (oct.getD 0 0).toNat 28 3 != 0 || paceScan oct 7 1

/-- The checks of decode, in order: opcode, pace, operand fields (d, a, b), type (15 R296). -/
def decodeChecks (t : Team) (word : W32) (illegal : Bool) (fields : List (Nat × Bool)) (tyOk : Bool) : Except Stop Unit :=
  if illegal then .error (trapAt 0x01 word.toNat 0)
  else if t.enter && paceBad t.octet then .error (trapAt 0x04 (t.octet.getD 0 0).toNat 0)
  else match fields.find? (fun f => !f.2) with
    | some f => .error (trapAt 0x02 f.1 word.toNat)
    | none => if tyOk then .ok () else .error (trapAt 0x03 (bitsN t.mr.toNat 5 42) word.toNat)

/-- A field with whether it is accepted. -/
def fld (o : Opnd) (ok : Opnd → Bool) : Nat × Bool := (o.code, ok o)

/-! ### Passes -/

/-- A use of registers by an instruction: the operand code R168 reports, and the registers in a lane. -/
structure Use where
  code : Nat
  regs : Nat → Nat → List Reg     -- cycle, lane
  uniform : Bool

/-- A use by an operand field. -/
def useOf (t : Team) (is64 : Bool) (o : Opnd) : Use :=
  { code := o.code, regs := fun c l => opRegs t is64 o c l,
    uniform := match o with
      | .s _ => true
      | _ => false }

/-- A use of registers that depend on no lane. -/
def useRegs (code : Nat) (rs : List Reg) (uniform : Bool) : Use := { code := code, regs := fun _ _ => rs, uniform := uniform }

/-- The lanes of each pass of a lane-wise instruction (08 R161). -/
def passWords (t : Team) (is64 : Bool) : List (Nat × Nat) :=
  let ws := (List.range (t.lanes / 32)).filter (fun w => (t.mask >>> (32 * w)).extractLsb' 0 32 != 0)
  if ws.isEmpty then [(0, 0)]
  else if is64 then ws.flatMap (fun w => [(32 * w, 16), (32 * w + 16, 16)]) else ws.map (fun w => (32 * w, 32))

/-- The port of an opcode (08 R159): 0 vector, 1 memory and engine, 2 scalar, branch and mode. -/
def portOf (op : Nat) : Nat :=
  if 0x20 ≤ op ∧ op ≤ 0x78 then 0
  else if op < 0x20 ∨ (0xE0 ≤ op ∧ op ≤ 0xE4) ∨ op = 0xF8 then 2 else 1

/-- The latency of a fixed-latency result (08 R165). -/
def latencyOf (op : Nat) : Nat :=
  if op = 0x14 ∨ op = 0x3C ∨ op = 0x3D ∨ (0x40 ≤ op ∧ op ≤ 0x49) ∨ op = 0x52 then 12
  else if (0x60 ≤ op ∧ op ≤ 0x70) ∨ (0x75 ≤ op ∧ op ≤ 0x78) then 6 else 4

/-- Another team shares the partition, so that a pass may wait for the port (08 R163). -/
def sharesPort (s : State) (ti : Nat) : Bool :=
  let t := s.team ti
  let core := (s.crew t.crew).core
  s.teams.any (fun e => e.1 != ti && e.2.partition == t.partition && e.2.status != .free && e.2.status != .ended &&
    e.2.status != .killed && (s.crew e.2.crew).core == core && (s.crew e.2.crew).resident)

/-- The team waits for others at an instruction whose pass it has issued: a barrier, a DONATE, a WAITA (08 R162). -/
def Team.parted (t : Team) : Bool :=
  match t.status with
  | .sleep _ | .barCrew _ | .barFolio _ | .barQuire _ | .donate .. => true
  | _ => false

/-- The first cycle a pass may take: after the team's last pass, when its octet is in the instruction cache (16 R299, log 9), and when
the port is free (08 R158). What a parted team still does takes no port. -/
def firstCycle (s : State) (ti port : Nat) : Nat :=
  let t := s.team ti
  let c := s.core (s.crew t.crew).core
  let own := max c.cycle (t.nextIssue + (if t.octetLate && t.passes.isEmpty then Config.fetchWait ti t.nIssued else 0))
  if t.parted then own else max own (cget 0 c.portFree (t.partition * 4 + port))

/-- A list with one more element, unless it is there. -/
def insertNew {α : Type} [BEq α] (l : List α) (x : α) : List α := if l.contains x then l else x :: l

/-- The occupancy of a pass that reads in cycle c (08 R170): the most direct V reads in one bank, and the distinct registers that
each V[Xn] names among the pass's active lanes. -/
def occupancy (t : Team) (vreads vxs : List Nat) (c lo n : Nat) : Nat :=
  let banks := (List.range 16).map (fun b => (vreads.filter (· % 16 == b)).length)
  let d := banks.foldl max 1
  let lanes := (span lo n).filter (t.active ·)
  d + (vxs.map (fun k => ((lanes.map (fun l => vxIndex t c k l)).foldl insertNew []).length - 1)).foldl (· + ·) 0

/-- When the stall rule (08 R164) and the interlocked writes (R167) let a pass go that reads its indices in cycle c. -/
def passReady (t : Team) (uses : List Use) (c lo n : Nat) : Nat :=
  let stall := if n = 0 then t.wordReady.foldl (fun m e => max m e.2) 0 else cget 0 t.wordReady (lo / 32)
  if t.pend.any (·.il) then
    let lanes := if n = 0 then [0] else span lo n
    uses.foldl (fun m u =>
      (if u.uniform then [0] else lanes).foldl (fun m l => (u.regs c l).foldl (fun m r => max m (t.ilDue r l)) m) m) stall
  else stall

/-- The least cycle from c on in which a pass can count as issued: it has held its port since `free` at the earliest for its
occupancy, and nothing it waits for lies later. What it names it reads in that cycle itself. -/
def passCycle (occ ready : Nat → Nat) (free : Nat) : Nat → Nat → Nat
  | 0, c => c
  | n + 1, c =>
    let c' := max (max c (free + occ c - 1)) (ready c)
    if c' = c then c else passCycle occ ready free n c'

/-- The passes of an instruction, each after the one before. -/
def schedule (occ ready : Nat → Nat → Nat → Nat) : Nat → List (Nat × Nat) → List Pass
  | _, [] => []
  | free, (lo, n) :: r =>
    let c := passCycle (occ · lo n) (ready · lo n) free 64 free
    { lo := lo, n := n, at_ := c, occ := occ c lo n } :: schedule occ ready (c + 1) r

/-- A result still in flight goes to a register that a pass reads or writes (08 R167). -/
def passHeld (t : Team) (uses : List Use) (p : Pass) : Bool :=
  !t.flight.isEmpty &&
  uses.any (fun u => (if u.uniform || p.n == 0 then [0] else span p.lo p.n).any (fun l =>
    (u.regs p.at_ l).any (fun r => t.flight.any (fun f => f.regs.contains r))))

/-- The last instruction had stall value 15, and one of its results has not arrived (08 R164). -/
def stallHeld (t : Team) : Bool :=
  t.flight.any (fun f => match t.holdId with
    | some i => f.id == i
    | none => false)

/-- The passes of an instruction over the lanes `ws`, those already issued first. A result in flight that it must await holds it;
where another team shares the port, a pass that is not the last one issues alone. -/
def passesOf (s : State) (ti op : Nat) (ws : List (Nat × Nat)) (vreads vxs : List Nat) (uses : List Use) : Except Stop (List Pass) :=
  let t := s.team ti
  let todo := ws.drop t.passes.length
  let ps := schedule (occupancy t vreads vxs) (passReady t uses) (firstCycle s ti (portOf op)) todo
  if stallHeld t then .error .hold
  else
    match t.onePass, ps with
    | true, p :: _ :: _ => .error (if passHeld t uses p then .hold else .pass (portOf op) p)
    | _, _ => if ps.any (passHeld t uses) then .error .hold else .ok (t.passes ++ ps)

/-- The last pass waits for what it must. -/
def bumpLast : List Pass → Nat → List Pass
  | [], _ => []
  | [p], m => [{ p with at_ := max p.at_ m }]
  | p :: r, m => p :: bumpLast r m

def lastPass (ps : List Pass) : Nat := ps.foldl (fun m p => max m p.at_) 0
/-- The cycle of the first pass. -/
def firstPass (ps : List Pass) : Nat := (ps.head?.map (·.at_)).getD 0

/-- The checking scoreboard (08 R168): with CHK, a pass that reads or writes a register too early. -/
def undersized (chk : Bool) (t : Team) (ps : List Pass) (uses : List Use) (acts : Nat → Nat → Bool) : Except Stop Unit :=
  if !chk || t.pend.isEmpty then .ok ()
  else
    let bad := ps.findSome? (fun p => uses.findSome? (fun u =>
      let lanes := if u.uniform || p.n == 0 then [0] else (span p.lo p.n).filter (acts p.at_ ·)
      lanes.findSome? (fun l => (u.regs p.at_ l).findSome? (fun r => (t.pending p.at_ r (if u.uniform then 0 else l)).map (fun w => (u.code, w.pc))))))
    match bad with
    | some (code, pc) => .error (trapAt 0x06 code pc.toNat)
    | none => .ok ()

/-- The guard is read too: the predicate MR.guard of every active lane. -/
def guardUse (t : Team) : Use :=
  let g := mrGuard t.mr
  { code := 0xE0 + g, regs := fun _ l => if g = 0 || !t.active l then [] else [.p g], uniform := false }

/-! ### The end of an instruction -/

/-- The instruction in a slot is the last one of its octet: slot 7, or an LI32 whose literal is there. -/
def lastInOctet (oct : List W32) (slot : Nat) : Bool := slot == 7 || (slot == 6 && (oct.getD 6 0).toNat / 2 ^ 24 == 0x3E)

/-- The cycles from which a team's ages count, when its instruction has issued in cycle c: on all three ports from c after the last instruction of
an octet whose pace word has the yield hint (08 R163). -/
def Team.aged (t : Team) (c : Nat) : Cells Nat :=
  if bitN (t.octet.getD 0 0).toNat 31 && lastInOctet t.octet (slotOf t.pc) then (span 0 3).foldl (fun m p => cset 0 m p c) t.portLast
  else t.portLast

/-- What an instruction leaves of its timing: `uniform` when every word counts as passed at its last pass. That of a parted team has issued
before. -/
def retireTiming (s : State) (ti op : Nat) (ps : List Pass) (uniform : Bool) (dues : List Nat) : State :=
  let t := s.team ti
  let last := lastPass ps
  let st := stallOf t.octet (slotOf t.pc)
  let now : Pass := ps.getD t.passes.length { lo := 0, n := 0, at_ := last }
  let s := if t.parted then s.updCore (s.teamCrew ti).core (fun c => { c with cycle := max c.cycle last })
    else claimPort s ti (portOf op) now last
  s.updTeam ti (fun t => { t with
    nextIssue := max t.nextIssue (if st = 15 then dues.foldl max (last + 1) else if uniform then max (last + 1) (last + st) else last + 1),
    wordReady := if uniform || st == 15 then [] else
      ps.foldl (fun m p => if p.n = 0 then m else cset 0 m (p.lo / 32) (p.at_ + st)) [],
    portLast := if t.parted then t.portLast else t.aged last,
    holdId := if st = 15 then some t.nIssued else none,
    nIssued := t.nIssued + 1,
    lastPc := t.pc,
    status := .run, replayed := false, faultPages := [], doneLanes := 0, doneReads := [], tries := 0, passes := [] })

/-- The team goes on at an address; `redirect` for a change of path, which costs issue time (16 R299). -/
def goTo (t : Team) (pc : W64) (redirect : Bool) (last : Nat) : Team :=
  { t with pc := pc, enter := redirect || pc.toNat / 32 != t.pc.toNat / 32, octetLate := false,
           nextIssue := if redirect then max t.nextIssue (last + 2) else t.nextIssue }

/-- An instruction of `words` words ends: its writes are pending, and the team goes on after it. -/
def retire (s : State) (ti op words : Nat) (ps : List Pass) (uniform : Bool) (writes : List PendWrite) : State :=
  let s := retireTiming s ti op ps uniform (writes.map (·.due))
  s.updTeam ti (fun t => goTo { t with pend := t.pend ++ writes } (nextPc t.pc words) false 0)

/-- The pending writes of a team that are due by cycle c performed. -/
def settle (s : State) (ti c : Nat) : State := s.updTeam ti (fun t => t.commit c)

/-! ### Uniform instructions -/

/-- What a uniform instruction does once its checks are passed and its registers are read, in the cycle of its one pass. -/
structure UCtx where
  s : State          -- writes due performed
  ti : Nat
  t : Team
  c : Nat            -- the pass's cycle
  ps : List Pass
  op : Nat
  bad : Bool := false     -- an S operand read holds poison
  early : Except Stop Unit := .ok ()   -- the pass is too early for a register (08 R168)

/-- Poison of a register, and after it the checking scoreboard: what comes after the checks of addresses (10 R210). -/
def UCtx.poison (u : UCtx) : Except Stop Unit := if u.bad then .error (trapAt 0x0F (2 ^ 64 - 1) 0) else u.early

def UCtx.rd (u : UCtx) (o : Opnd) : Nat := readOp u.t u.c true o 0

/-- A poisoned S register that is read raises POISON (10 R209); the writes due have been performed. -/
def sPoisoned (t : Team) (rs : List Opnd) : Bool :=
  rs.any (fun o => match o with
    | .s n => t.sPoison.contains n.val
    | _ => false)

/-- A uniform instruction (08 R161, R173): decode's checks, its interlocks, its pass, poison, the checking scoreboard, and
then its own part. `reads` and `writes` are the S operands it reads and writes; `late` leaves poison and the scoreboard to the body. -/
def uniform (s : State) (ti : Nat) (t : Team) (op : Nat) (word : W32) (illegal : Bool) (fields : List (Nat × Bool))
    (tyOk : Bool) (reads writes : List Opnd) (body : UCtx → Except Stop State) (late : Bool := false) : Except Stop State := do
  decodeChecks t word illegal fields tyOk
  let uses := (reads ++ writes).map (useOf t false)
  let ps ← passesOf s ti op [(0, 0)] [] [] uses
  let s1 := settle s ti (lastPass ps)
  let u : UCtx := { s := s1, ti := ti, t := s1.team ti, c := lastPass ps, ps := ps, op := op, bad := sPoisoned (s1.team ti) reads,
                    early := undersized (s.crewRec t.crew).chk t ps uses (fun _ _ => true) }
  if !late then u.poison
  body u

/-- The pass of an instruction that then waits for others: its team is in the given status from that cycle on (08 R162). -/
def UCtx.part (u : UCtx) (s : State) (st : TStatus) : Stop :=
  let s := if u.t.parted then s
    else (claimPort s u.ti (portOf u.op) { lo := 0, n := 0, at_ := u.c } u.c).updTeam u.ti (fun t => { t with portLast := t.aged u.c })
  .become (s.updTeam u.ti (fun t => { t with status := st, nextIssue := max t.nextIssue u.c }))

/-- End a uniform instruction with writes of the fixed latency L, in cycle c + L; `il` for interlocked ones. -/
def UCtx.done (u : UCtx) (s : State) (writes : List (Opnd × Nat)) (lat : Nat) (il : Bool := false) : State :=
  retire s u.ti u.op 1 u.ps true
    (writes.flatMap (fun w => (dstWrites u.t true w.1 u.c 0 w.2).map (fun x =>
      { reg := x.1, lane := x.2.1, val := x.2.2, due := u.c + lat, pc := u.t.pc, il := il })))

/-- End a uniform instruction with S results written at once. -/
def UCtx.now (u : UCtx) (s : State) (writes : List (Opnd × Nat)) : State :=
  let s := s.updTeam u.ti (fun t => writes.foldl (fun t w => (dstWrites u.t true w.1 u.c 0 w.2).foldl (fun t x => t.put x.1 x.2.1 x.2.2) t) t)
  retire s u.ti u.op 1 u.ps true []

/-- End a uniform instruction at an address other than the next slot. -/
def UCtx.branch (u : UCtx) (s : State) (pc : W64) (redirect : Bool) : State :=
  let s := retireTiming s u.ti u.op u.ps true []
  s.updTeam u.ti (fun t => goTo t pc redirect (lastPass u.ps))

end Sys2Proof.Machine
end

