-- ==== Sys2Proof/Machine/Control.lean ====
section
/-! DEFINITION. Opcodes 0x00 to 0x1F: branches and the two stacks, the mode register, scalar integers (16 R297 to R314). -/

namespace Sys2Proof.Machine

/-- The target checks of a branch, in their order (16 R298). -/
def targetCheck (v : W64) : Except Stop Unit :=
  if v.toNat % 32 = 0 then .error (trapAt 0x05 v.toNat 0)
  else if 2 ^ 52 ≤ v.toNat then .error (trapAt 0x0C v.toNat 0)
  else if winLo ≤ v.toNat then .error (trapAt 0x0D v.toNat 0)
  else .ok ()

/-- Target(off): the instruction's own address plus four times the offset (16 R298). -/
def targetOf (a : W64) (off : Int) : W64 := a + BitVec.ofInt 64 (4 * off)

/-- An instruction with d = a = b = 0x00, no operand and no type. -/
def plain (op : Nat) (d a b : Opnd) (s : State) (reads writes : List Opnd) (body : UCtx → Except Stop State) :
    Host.Outcome State Fault Refusal :=
  runInstr s (fun ti t => uniform s ti t op (wordF3 op d a b) false [fld d okZero, fld a okZero, fld b okZero] true reads writes body)

/-- NOP has no effect (R301). -/
def execNop (d a b : Opnd) (s : State) : Host.Outcome State Fault Refusal :=
  plain 0x00 d a b s [] [] (fun u => .ok (u.done u.s [] 0))

/-- BRA (R302). -/
def execBra (off : BitVec 24) (s : State) : Host.Outcome State Fault Refusal :=
  runInstr s (fun ti t => uniform s ti t 0x01 (wordFB 0x01 off) false [] true [] [] (fun u => do
    let v := targetOf t.pc off.toInt
    targetCheck v
    .ok (u.branch u.s v true)))

/-- BRZ and BRNZ: all 64 bits of Sd are tested (R302). -/
def branchIf (op : Nat) (onZero : Bool) (d : Opnd) (imm : BitVec 16) (s : State) : Host.Outcome State Fault Refusal :=
  runInstr s (fun ti t => uniform s ti t op (wordFI op d imm) false [fld d okS] true [d] [] (fun u => do
    if (u.rd d == 0) == onZero then
      let v := targetOf t.pc imm.toInt
      targetCheck v
      .ok (u.branch u.s v true)
    else .ok (u.done u.s [] 0)))

def execBrz (d : Opnd) (imm : BitVec 16) (s : State) : Host.Outcome State Fault Refusal := branchIf 0x03 true d imm s
def execBrnz (d : Opnd) (imm : BitVec 16) (s : State) : Host.Outcome State Fault Refusal := branchIf 0x04 false d imm s

/-- BRI: alignment, then the target checks (R303), then poison (10 R210). -/
def execBri (d a b : Opnd) (s : State) : Host.Outcome State Fault Refusal :=
  runInstr s (fun ti t => uniform s ti t 0x0A (wordF3 0x0A d a b) false [fld d okZero, fld a okS, fld b okZero] true [a] [] (fun u => do
    let v := w64 (u.rd a)
    if v.toNat % 4 ≠ 0 then throw (trapAt 0x0B v.toNat 0)
    targetCheck v
    u.poison
    .ok (u.branch u.s v true)) true)

/-- The link register. -/
def s63 : Opnd := .s 63

/-- CALL (R304): S63 is pushed and takes the address after the CALL; the target checks come before the poison of S63 (10 R210). -/
def execCall (off : BitVec 24) (s : State) : Host.Outcome State Fault Refusal :=
  runInstr s (fun ti t => uniform s ti t 0x05 (wordFB 0x05 off) false [] true [s63] [s63] (fun u => do
    if t.cstack.length ≥ 16 then throw (trapAt 0x10 2 0)
    let v := targetOf t.pc off.toInt
    targetCheck v
    u.poison
    let link := w64 (u.rd s63)
    let s := u.s.updTeam ti (fun t => Team.put { t with cstack := link :: t.cstack } (.s 63) 0 (nextPc t.pc 1))
    .ok (u.branch s v true)) true)

/-- RET (R304): the target checks come before the pop, and before poison (10 R210). -/
def execRet (d a b : Opnd) (s : State) : Host.Outcome State Fault Refusal :=
  runInstr s (fun ti t => uniform s ti t 0x06 (wordF3 0x06 d a b) false [fld d okZero, fld a okZero, fld b okZero] true [s63] [s63] (fun u => do
    match u.t.cstack with
    | [] => throw (trapAt 0x10 3 0)
    | link :: rest =>
      let v := w64 (u.rd s63)
      targetCheck v
      u.poison
      let s := u.s.updTeam u.ti (fun t => Team.put { t with cstack := rest } (.s 63) 0 link)
      .ok (u.branch s v true)) true)

/-- RCV pushes a reconvergence entry (R306). -/
def execRcv (off : BitVec 24) (s : State) : Host.Outcome State Fault Refusal :=
  runInstr s (fun ti t => uniform s ti t 0x07 (wordFB 0x07 off) false [] true [] [] (fun u => do
    if t.rstack.length ≥ 32 then throw (trapAt 0x10 0 0)
    let e : RecEntry := { pending := false, addr := targetOf t.pc off.toInt, mask := t.mask, mr := t.mr }
    .ok (u.done (u.s.updTeam ti (fun t => { t with rstack := e :: t.rstack })) [] 0)))

/-- The active lanes that pass the guard, as a pass in cycle c reads it. -/
def guardMask (t : Team) (c : Nat) : LaneMask :=
  (List.range t.lanes).foldl (fun m l => if t.active l && t.guard c l then m ||| (1#1024 <<< l) else m) 0

/-- BRG splits the path by the guard (R306); one pass, whatever the mask, which waits for the guard's predicate like any other read
(08 R167). -/
def execBrg (off : BitVec 24) (s : State) : Host.Outcome State Fault Refusal :=
  runInstr s (fun ti t => do
    decodeChecks t (wordFB 0x02 off) false [] true
    let ready := (List.range t.lanes).foldl (fun m l => (guardUse t).regs 0 l |>.foldl (fun m r => max m (t.ilDue r l)) m) 0
    let ps := bumpLast (← passesOf s ti 0x02 [(0, 0)] [] [] []) ready
    let c := lastPass ps
    undersized (s.crewRec t.crew).chk t [{ lo := 0, n := t.lanes, at_ := c }] [guardUse t] (fun _ l => t.active l)
    let s := settle s ti c
    let t := s.team ti
    let u : UCtx := { s := s, ti := ti, t := t, c := c, ps := ps, op := 0x02 }
    let yes := guardMask t c
    let no := t.mask &&& ~~~yes
    let v := targetOf t.pc off.toInt
    if yes = 0 then .ok (u.done s [] 0)
    else if no = 0 then do
      targetCheck v
      .ok (u.branch s v true)
    else do
      if t.rstack.length ≥ 32 then throw (trapAt 0x10 0 0)
      targetCheck v
      let e : RecEntry := { pending := true, addr := nextPc t.pc 1, mask := no, mr := t.mr }
      .ok (u.branch (s.updTeam ti (fun t => { t with rstack := e :: t.rstack, mask := yes })) v true))

/-- JOIN pops the top entry (R306). -/
def execJoin (d a b : Opnd) (s : State) : Host.Outcome State Fault Refusal :=
  plain 0x08 d a b s [] [] (fun u => do
    match u.t.rstack with
    | [] => throw (trapAt 0x10 1 0)
    | e :: rest =>
      let s := u.s.updTeam u.ti (fun t => { t with rstack := rest, mask := e.mask, mr := e.mr })
      .ok (if e.pending then u.branch s e.addr true else u.done s [] 0))

/-- YIELD swaps the running path with a pending one (R306). -/
def execYield (d a b : Opnd) (s : State) : Host.Outcome State Fault Refusal :=
  plain 0x09 d a b s [] [] (fun u =>
    match u.t.rstack with
    | e :: rest =>
      if e.pending then
        let mine : RecEntry := { pending := true, addr := nextPc u.t.pc 1, mask := u.t.mask, mr := u.t.mr }
        .ok (u.branch (u.s.updTeam u.ti (fun t => { t with rstack := mine :: rest, mask := e.mask, mr := e.mr })) e.addr true)
      else .ok (u.done u.s [] 0)
    | [] => .ok (u.done u.s [] 0))

/-! ### The mode register -/

/-- MODE.SET loads all of MR (R310). Its must-be-0 bits are checked among the operands, before the poison of Sa (15 R293, 10 R210). -/
def execModeSet (d a b : Opnd) (s : State) : Host.Outcome State Fault Refusal :=
  runInstr s (fun ti t => uniform s ti t 0x0B (wordF3 0x0B d a b) false [fld d okZero, fld a okS, fld b okZero] true [a] [] (fun u => do
    let v := u.rd a
    if bitN v 31 || v / 2 ^ 47 != 0 then throw (trapAt 0x02 v (wordF3 0x0B d a b).toNat)
    u.poison
    .ok (u.done (u.s.updTeam ti (fun t => { t with mr := w64 v })) [] 0)) true)

/-- MODE.GET gives MR as sampled at issue (R310). -/
def execModeGet (d a b : Opnd) (s : State) : Host.Outcome State Fault Refusal :=
  runInstr s (fun ti t => uniform s ti t 0x0C (wordF3 0x0C d a b) false [fld d okS, fld a okZero, fld b okZero] true [] [d] (fun u =>
    .ok (u.done u.s [(d, t.mr.toNat)] 4)))

/-- A span of MR replaced (R309). -/
def mrSpan (m : W64) (shift width imm : Nat) : W64 :=
  w64 (m.toNat - bitsN m.toNat shift width * 2 ^ shift + imm % 2 ^ width * 2 ^ shift)

/-- The four immediate forms: bits above the width must be 0, then one span of MR is replaced (R309). -/
def modeImm (op shift width : Nat) (d : Opnd) (imm : BitVec 16) (s : State) : Host.Outcome State Fault Refusal :=
  runInstr s (fun ti t => uniform s ti t op (wordFI op d imm) false
    [fld d okZero, (imm.toNat, imm.toNat / 2 ^ width == 0)] true [] [] (fun u =>
      .ok (u.done (u.s.updTeam ti (fun t => { t with mr := mrSpan t.mr shift width imm.toNat })) [] 0)))

def execModeGuard (d : Opnd) (imm : BitVec 16) (s : State) : Host.Outcome State Fault Refusal := modeImm 0x0D 0 5 d imm s
def execModeType (d : Opnd) (imm : BitVec 16) (s : State) : Host.Outcome State Fault Refusal := modeImm 0x0E 5 15 d imm s
def execModeRnd (d : Opnd) (imm : BitVec 16) (s : State) : Host.Outcome State Fault Refusal := modeImm 0x0F 20 11 d imm s
def execModeSrc (d : Opnd) (imm : BitVec 16) (s : State) : Host.Outcome State Fault Refusal := modeImm 0x15 32 15 d imm s

/-! ### Scalar integers -/

/-- An F3 scalar: Sd := f Sa Sb, modulo 2^64, after the latency of its opcode (R312). -/
def scalar3 (op : Nat) (f : Nat → Nat → Nat) (d a b : Opnd) (s : State) : Host.Outcome State Fault Refusal :=
  runInstr s (fun ti t => uniform s ti t op (wordF3 op d a b) false [fld d okS, fld a okS, fld b okS] true [a, b] [d] (fun u =>
    .ok (u.done u.s [(d, f (u.rd a) (u.rd b) % 2 ^ 64)] (latencyOf op))))

/-- SDIV (R313): by zero −1; the most negative by −1 itself; otherwise truncated. -/
def sdivN (a b : Nat) : Nat :=
  if b = 0 then 2 ^ 64 - 1
  else if sextN 64 a = -2 ^ 63 ∧ sextN 64 b = -1 then 2 ^ 63
  else wrapN 64 ((sextN 64 a).tdiv (sextN 64 b))

def execSadd (d a b : Opnd) (s : State) : Host.Outcome State Fault Refusal := scalar3 0x10 (fun x y => x + y) d a b s
def execSsub (d a b : Opnd) (s : State) : Host.Outcome State Fault Refusal := scalar3 0x11 (fun x y => x + (2 ^ 64 - y)) d a b s
def execSmul (d a b : Opnd) (s : State) : Host.Outcome State Fault Refusal := scalar3 0x12 (fun x y => x * y) d a b s
def execSdiv (d a b : Opnd) (s : State) : Host.Outcome State Fault Refusal := scalar3 0x14 sdivN d a b s
def execSand (d a b : Opnd) (s : State) : Host.Outcome State Fault Refusal := scalar3 0x16 (fun x y => x &&& y) d a b s
def execSor (d a b : Opnd) (s : State) : Host.Outcome State Fault Refusal := scalar3 0x17 (fun x y => x ||| y) d a b s
def execSxor (d a b : Opnd) (s : State) : Host.Outcome State Fault Refusal := scalar3 0x18 (fun x y => x ^^^ y) d a b s
def execSshl (d a b : Opnd) (s : State) : Host.Outcome State Fault Refusal := scalar3 0x19 (fun x y => x * 2 ^ (y % 64)) d a b s
def execSshr (d a b : Opnd) (s : State) : Host.Outcome State Fault Refusal := scalar3 0x1A (fun x y => x / 2 ^ (y % 64)) d a b s
def execSsra (d a b : Opnd) (s : State) : Host.Outcome State Fault Refusal :=
  scalar3 0x1B (fun x y => wrapN 64 ((sextN 64 x).fdiv (2 ^ (y % 64)))) d a b s
def execSslt (d a b : Opnd) (s : State) : Host.Outcome State Fault Refusal :=
  scalar3 0x1C (fun x y => if sextN 64 x < sextN 64 y then 1 else 0) d a b s
def execSsltn (d a b : Opnd) (s : State) : Host.Outcome State Fault Refusal :=
  scalar3 0x1D (fun x y => if x < y then 1 else 0) d a b s

/-- An FI scalar: Sd := f Sd imm, latency 4; `rd` when Sd is read (R314). -/
def scalarI (op : Nat) (rd : Bool) (f : Nat → BitVec 16 → Nat) (d : Opnd) (imm : BitVec 16) (s : State) :
    Host.Outcome State Fault Refusal :=
  runInstr s (fun ti t => uniform s ti t op (wordFI op d imm) false [fld d okS] true (if rd then [d] else []) [d] (fun u =>
    .ok (u.done u.s [(d, f (u.rd d) imm % 2 ^ 64)] 4)))

def execSli (d : Opnd) (imm : BitVec 16) (s : State) : Host.Outcome State Fault Refusal :=
  scalarI 0x1F false (fun _ i => wrapN 64 i.toInt) d imm s
def execSlih (d : Opnd) (imm : BitVec 16) (s : State) : Host.Outcome State Fault Refusal :=
  scalarI 0x13 true (fun x i => x * 2 ^ 16 % 2 ^ 64 + i.toNat) d imm s
def execSaddi (d : Opnd) (imm : BitVec 16) (s : State) : Host.Outcome State Fault Refusal :=
  scalarI 0x1E true (fun x i => x + wrapN 64 i.toInt) d imm s

end Sys2Proof.Machine
end

