-- ==== Sys2Proof/Machine/Link.lean ====
section
/-! DEFINITION. The Ligature links (02 R45 to R53): flits and their forward error correction, virtual channels, credits and receive
buffers, retry, and the paths of flows. -/

namespace Sys2Proof.Machine

/-! ### Flits (R46, R47) -/

def hdrDst (h : W64) : Nat := bitsN h.toNat 52 12
def hdrVc (h : W64) : Nat := bitsN h.toNat 37 3
def hdrKind (h : W64) : Nat := bitsN h.toNat 34 3
def hdrSeq (h : W64) : Nat := bitsN h.toNat 24 10
def hdrCrvc (h : W64) : Nat := bitsN h.toNat 21 3
def hdrCrcnt (h : W64) : Nat := bitsN h.toNat 16 5
def hdrCrc (h : W64) : Nat := bitsN h.toNat 0 16

/-- One bit into a CRC-16 of polynomial 0x1021. -/
def crcBit (c : BitVec 16) (b : Bool) : BitVec 16 := if c.msb != b then (c <<< 1) ^^^ 0x1021 else c <<< 1
/-- One byte, its highest bit first. -/
def crcByte (c : BitVec 16) (b : Byte) : BitVec 16 := (List.range 8).foldl (fun c i => crcBit c (b.getLsbD (7 - i))) c
/-- The CRC of a flit: all 128 bytes, the field itself taken as 0. -/
def flitCrc (h : W64) (payload : List Byte) : Nat :=
  ((leBytes 8 (h.toNat / 2 ^ 16 * 2 ^ 16) ++ payload).foldl crcByte Config.crcInit).toNat

/-- A header before a link has sent it. -/
def flitHeader (dst src vc kind : Nat) : W64 :=
  w64 (dst % 4096 * 2 ^ 52 + src % 4096 * 2 ^ 40 + vc % 8 * 2 ^ 37 + kind % 8 * 2 ^ 34)

/-- A header as a link sends it: with a link sequence number of its own, the credits that it returns, and its CRC. -/
def reheader (h : W64) (seq crvc crcnt : Nat) (payload : List Byte) : W64 :=
  let x := w64 (bitsN h.toNat 34 30 * 2 ^ 34 + seq % 1024 * 2 ^ 24 + crvc % 8 * 2 ^ 21 + crcnt % 32 * 2 ^ 16)
  w64 (x.toNat + flitCrc x payload)

/-- RS(544,514): a codeword has 544 symbols of 10 bits, 514 of them data. -/
def fecSymbols : Nat := 544
def fecData : Nat := 514
/-- How many wrong symbols of a codeword are corrected. -/
def fecCorrects : Nat := (fecSymbols - fecData) / 2

/-- A flit comes through: every codeword in which it lies, of the two that are interleaved, has no more wrong symbols than are
corrected. -/
def fecPasses (errors : List Nat) (f : RxFlit) : Bool := f.words.all (fun w => decide (errors.getD (w % 2) 0 ≤ fecCorrects))

/-! ### Virtual channels (R49) -/

/-- The chip that a message is for. -/
def FabMsg.chip : FabMsg → Nat
  | .putr k .. | .getr k .. | .rred k .. | .getrReply k .. | .writeAck k .. | .laneDenied k .. | .send k .. | .enq k .. | .enqAck k .. |
    .announce k .. | .chunk k .. | .hist k .. | .bar k .. | .dxStart k .. | .quireSync k .. | .paused k .. | .management k => k

/-- Its virtual channel: control requests 0, control responses 1, PUTR and GETR requests 2, GETR responses 3, RRED 4, records of a
repartition 5, collectives, triggered sends and the start of a run over chips (06 R133) 6, management 7. -/
def FabMsg.vc : FabMsg → Nat
  | .putr .. | .getr .. => 2
  | .getrReply .. => 3
  | .rred .. => 4
  | .chunk _ _ _ _ _ _ records _ => if records then 5 else 6
  | .announce .. | .hist .. | .bar .. | .send .. | .dxStart .. => 6
  | .writeAck .. | .laneDenied .. | .enqAck .. => 1
  | .enq .. | .quireSync .. | .paused .. => 0
  | .management _ => 7

/-- The kind of its flits (log 121). -/
def FabMsg.kind : FabMsg → Nat
  | .putr .. | .getr .. | .rred .. | .enq .. | .dxStart .. | .quireSync .. | .paused .. => 0
  | .getrReply .. | .writeAck .. | .laneDenied .. | .enqAck .. => 1
  | .send .. => 2
  | .chunk _ _ _ _ _ _ records _ => if records then 2 else 3
  | .announce .. | .hist .. | .bar .. => 3
  | .management _ => 4

/-! ### Early-landing areas (07 R157) -/

/-- The early-landing area that a quire holds, and the lowest free one. -/
def elaArea (c : Ctx) (q : Nat) : Option Nat := (c.elaQuires.find? (·.2 == some q)).map (·.1)
def elaFreeArea (c : Ctx) : Option Nat := (List.range 64).find? (fun k => (cget none c.elaQuires k).isNone)
/-- The bytes of an area that are taken. -/
def elaUsed (c : Ctx) (q : Nat) : Nat := ((c.early.filter (·.quire == q)).map (·.bytes.length)).foldl (· + ·) 0
/-- It has no room for another flit's payload. -/
def elaFull (c : Ctx) (q : Nat) : Bool := decide (262144 < elaUsed c q + 120)

/-! ### Paths (R51 to R53) -/

/-- A port leads to a chip: its route names the port, the port is up, and the chip at its end is that chip, or is not known to have no live
port to it; a switch leads anywhere. -/
def leadsTo (s : State) (chip p : Nat) : Bool :=
  bitN (cget 0xFFFF s.routes chip).toNat p && (s.port p).up && (match (s.port p).peer with
    | none => true
    | some c => c == chip || (match cget none s.meshLive chip with
      | none => true
      | some l => l.contains c))
/-- The ports that lead to a chip. -/
def State.paths (s : State) (chip : Nat) : List Nat := (List.range 16).filter (leadsTo s chip)
/-- A chip that the fabric reaches: itself, or one with a live path. -/
def State.reach (s : State) (chip : Nat) : Bool := chip == s.chipId || !(s.paths chip).isEmpty

/-- How far off a port is: to the chip itself or to a switch, or else by the number of the chip between. -/
def pathRank (s : State) (chip p : Nat) : Nat := match (s.port p).peer with
  | none => 0
  | some c => if c = chip then 0 else c + 1
/-- The path of a flow that has none: straight, else through the lowest-numbered chip with live ports to both. -/
def bestPath (s : State) (chip : Nat) : Option Nat :=
  (s.paths chip).foldl (fun b p => match b with
    | some x => if pathRank s chip p < pathRank s chip x then some p else some x
    | none => some p) none

/-- The port of a flow: the one that it uses, where that is up. -/
def flowPort (s : State) (dst vc : Nat) : Option Nat :=
  match cget none s.flows (dst * 8 + vc) with
  | some p => if (s.port p).up then some p else none
  | none => bestPath s dst

/-! ### Sending (R48, R49) -/

/-- The VC whose credits a port returns with its next flit, and how many. -/
def owedNext (q : Port) : Nat × Nat :=
  match (List.range 8).find? (fun v => cget 0 q.owed v != 0) with
  | some v => (v, min 31 (cget 0 q.owed v))
  | none => (0, 0)

/-- A credit count of a VC changed. -/
def credit (m : Cells Nat) (vc : Nat) (f : Nat → Nat) : Cells Nat := cset 0 m vc (f (cget 0 m vc))

/-- A place of a receive buffer is free again, and the peer is owed a credit. -/
def State.owe (s : State) (p vc : Nat) : State := s.setPort p { s.port p with owed := credit (s.port p).owed vc (· + 1) }

/-- A port sends a flit, and keeps it for retry. A flit of kind 5 or 6 goes into no receive buffer and takes no credit (log 122). -/
def linkSend (s : State) (p : Nat) (f : Flit) : State :=
  let q := s.port p
  let (v, n) := owedNext q
  let vc := hdrVc f.header
  let g : Flit := { header := reheader f.header q.nextSeq v n f.payload, payload := f.payload }
  let s := s.setPort p { q with
    owed := credit q.owed v (· - n), given := credit q.given v (· + n), retry := q.retry ++ [g], nextSeq := (q.nextSeq + 1) % 1024,
    credits := if hdrKind f.header < 5 then credit q.credits vc (· - 1) else q.credits }
  { s with wire := s.wire ++ [(p, g)] }

/-- A flit goes, where its flow has a port with a credit and a place in its retry buffer. -/
def sendOn (s : State) (f : Flit) : Option State :=
  let dst := hdrDst f.header
  let vc := hdrVc f.header
  match flowPort s dst vc with
  | none => none
  | some p =>
    let q := s.port p
    if cget 0 q.credits vc = 0 ∨ 512 ≤ q.retry.length then none
    else some (linkSend { s with flows := cset none s.flows (dst * 8 + vc) (some p) } p f)

/-- Flits that wait, in order: of each flow the first that cannot go holds the rest. One that goes frees its place in the receive buffer of
the port from which it came. -/
def sendQueue (from_ : Option Nat) : List Flit → List Flit → State → List Flit × State
  | [], kept, s => (kept.reverse, s)
  | f :: r, kept, s =>
    if kept.any (fun g => hdrDst g.header == hdrDst f.header && hdrVc g.header == hdrVc f.header) then sendQueue from_ r (f :: kept) s
    else match sendOn s f with
      | some s => sendQueue from_ r kept (match from_ with
        | some p => s.owe p (hdrVc f.header)
        | none => s)
      | none => sendQueue from_ r (f :: kept) s

/-- The flits that a port has received for other chips are sent on. -/
def sendHeld (s : State) (p : Nat) : State :=
  let (kept, s) := sendQueue (some p) (s.port p).fwd [] s
  s.setPort p { s.port p with fwd := kept }

/-- The flits of this chip's own messages are sent; those for a chip that is not reached are not (R51). -/
def sendOwn (s : State) : State :=
  let (kept, s) := sendQueue none (s.own.filter (fun f => s.reach (hdrDst f.header))) [] s
  { s with own := kept }

/-- A link's own flit, an idle or a NAK: its destination is the chip at the other end. -/
def linkFlit (s : State) (p kind : Nat) (payload : List Byte) : Flit :=
  { header := flitHeader ((s.port p).peer.getD (Config.linkDst p)) s.chipId 0 kind, payload := payload }

/-- NAKs that wait for a place in the retry buffer. -/
def sendNaks (p : Nat) : List Nat → State → State
  | [], s => s.setPort p { s.port p with naks := [] }
  | seq :: r, s =>
    if (s.port p).up && decide ((s.port p).retry.length < 512) then
      sendNaks p r (linkSend s p (linkFlit s p 6 ((List.range 120).map (Config.nakByte seq))))
    else s.setPort p { s.port p with naks := seq :: r }

/-- Credits that no other flit has returned go with an idle flit. -/
def sendIdle (s : State) (p : Nat) : State :=
  let q := s.port p
  if q.up && decide (q.retry.length < 512) && (owedNext q).2 != 0 then linkSend s p (linkFlit s p 5 ((List.range 120).map Config.idleByte)) else s

/-! ### Receive buffers (R49, R157) -/

/-- A flit on VC 6 for a quire whose early-landing area is full stays in its receive buffer, and its credit is withheld. The quire that it is for
is what its payload says, whose form the spec does not give. -/
def rxHolds (s : State) (f : Flit) : Bool :=
  hdrVc f.header == 6 && (match Config.flitQuire f.payload with
    | some (ctx, q) => (elaArea (s.ctx ctx) q).isSome && elaFull (s.ctx ctx) q
    | none => false)

/-- What a port advertises of a VC when it is trained: the free places of its receive buffer. -/
def rxFree (p : Nat) (q : Port) (vc : Nat) : Nat :=
  Config.rxBuffer p vc - (q.rx ++ q.fwd).countP (fun f => hdrVc f.header == vc)

/-- The flits for this chip leave their receive buffers in order; of each VC the first that is held holds the rest. -/
def rxTake (p : Nat) : List Flit → List Flit → State → State
  | [], kept, s => s.setPort p { s.port p with rx := kept.reverse }
  | f :: r, kept, s =>
    if kept.any (fun g => hdrVc g.header == hdrVc f.header) || rxHolds s f then rxTake p r (f :: kept) s
    else rxTake p r kept ((s.setPort p { s.port p with received := (s.port p).received ++ [f] }).owe p (hdrVc f.header))

/-! ### Everything that can go -/

/-- The device takes part in the fabric: it is powered, not frozen, and runs an image. -/
def fabricUp (s : State) : Bool := s.freezing == 0 && !s.tripped && !s.recovery
/-- Its links run: in recovery too, for management alone (01 R32). -/
def linksRun (s : State) : Bool := s.freezing == 0 && !s.tripped

/-- What is held goes where it can. -/
def pumpAll (s : State) : State :=
  if s.ports.isEmpty || !linksRun s then s
  else
    let ps := List.range 16
    let s := ps.foldl (fun s p => rxTake p (s.port p).rx [] s) s
    let s := ps.foldl (fun s p => sendNaks p (s.port p).naks s) s
    let s := sendOwn (ps.foldl sendHeld s)
    ps.foldl sendIdle s

/-- The links carry what they can now; nothing else changes. -/
def State.pump (s : State) : State :=
  let r := pumpAll s
  { s with ports := r.ports, flows := r.flows, own := r.own, wire := r.wire }

/-- Flits for a chip are formed: how a message is laid out in payloads is not specified, so how many there are is free, and so are their bytes. -/
def State.formFlits (s : State) (dst vc kind : Nat) : State :=
  let (n, s) := s.draw
  let fs : List Flit := (List.range (Config.msgFlits n + 1)).map (fun i =>
    { header := flitHeader dst s.chipId vc kind, payload := (List.range 120).map (Config.msgByte n i) })
  ({ s with own := s.own ++ fs }).pump

/-- A message is sent: to another chip in flits on its VC, to this chip itself without a link. -/
def State.send (s : State) (m : FabMsg) : State :=
  let s := { s with fabric := s.fabric ++ [m] }
  if m.chip = s.chipId then s else s.formFlits m.chip m.vc m.kind

/-- A message of this chip to itself is taken from what it has sent, in the order of its VC (R50); one of another chip simply arrives. -/
def takeOwn (s : State) (src : Nat) (m : FabMsg) : Option State :=
  if src ≠ s.chipId then some s
  else if s.fabric.find? (fun x => x.chip == s.chipId && x.vc == m.vc) = some m then some { s with fabric := s.fabric.erase m } else none

end Sys2Proof.Machine
end

