-- ==== Sys2Proof/Machine/Faults.lean ====
section
/-! DEFINITION. What a translation fault does to a team (10 R204), the abort of an idempotent crew (05 R110), and fetching
an octet (14 R270, 11 R233). -/

namespace Sys2Proof.Machine

/-- One faulting lane of a pass. -/
structure LaneFault where
  lane : Nat
  va : Nat
  cause : Nat
  level : Nat
  deriving DecidableEq, Repr

/-- One fault for each distinct 64 KiB page, in order of each page's lowest lane. -/
def onePerPage : List LaneFault → List LaneFault
  | [] => []
  | f :: r => f :: (onePerPage r).filter (fun g => g.va / 65536 != f.va / 65536)

/-- Records for the faults of a pass, in order. -/
def recordAll (s : State) (a : Agent) (acc : Acc) (again : Nat → Bool) (idem : Bool) : List LaneFault → State × List FaultRef
  | [] => (s, [])
  | f :: r =>
    let (seq, s) := agentFault s a acc f.va f.cause f.level (again (f.va / 65536)) idem
    let (s, rs) := recordAll s a acc again idem r
    (s, { seq := seq, va := f.va, cause := f.cause, lane := f.lane } :: rs)

/-- An idempotent crew is aborted (05 R110): its drafts go, its place is given up, and it waits to run again, at the head of
its ready queue or of its launch's unplaced crews, until a REPLAY covers the records. -/
def abortCrew (s : State) (ci : Nat) (recs : List FaultRef) : State :=
  let c := s.crew ci
  let l := s.launch c.launch
  let s := c.teams.foldl (fun s t => s.setTeam t {}) (dropCommands s ci)
  let s := govLeave (s.setCrew ci {}) c.core
  match l.origin with
  | .task t =>
    let s := s.setLaunch c.launch {}
    s.updCtx c.ctx (fun x => { x with ready := cset [] x.ready t.queue ({ task := t, order := l.order, wait := recs } :: cget [] x.ready t.queue) })
  | _ => s.setLaunch c.launch { l with requeued := (c.ix, recs) :: l.requeued }

/-- A team's access of a kind to a page is a retry that follows a REPLAY of that access's record (10 R205): its fetch, or one of its
instruction's own accesses, has faulted there before. -/
def Team.retries (t : Team) (acc : Acc) (page : Nat) : Bool := t.replayed && t.faultPages.contains (acc.code, page)

/-- A team suspended on records of accesses of a kind. -/
def Team.suspend (t : Team) (acc : Acc) (recs : List FaultRef) : Team :=
  { t with status := .susp recs, passes := [], faultPages := t.faultPages ++ recs.map (fun r => (acc.code, r.va / 65536)) }

/-- An access made for a team faults while the team waits for it: an idempotent crew is aborted, any other team is
suspended at the instruction. -/
def faultTeamAs (s : State) (ti source : Nat) (acc : Acc) (fs : List LaneFault) : State :=
  let t := s.team ti
  let c := s.crew t.crew
  let a : Agent := { ctx := c.ctx, crew := some t.crew, team := some ti, source := source }
  let (s, recs) := recordAll s a acc (t.retries acc) c.drafting (onePerPage fs)
  if c.drafting then abortCrew s t.crew recs
  else s.updTeam ti (·.suspend acc recs)

/-- A team's own access faults. -/
def faultTeam (s : State) (ti : Nat) (acc : Acc) (fs : List LaneFault) : State := faultTeamAs s ti 0 acc fs

/-- A team as an agent. -/
def teamAgent (s : State) (ti : Nat) (lane : Option Nat) : Agent :=
  let t := s.team ti
  { ctx := (s.crew t.crew).ctx, crew := some t.crew, team := some ti, lane := lane }

/-- The bytes of code at a place that a team fetches (11 R233): in the form visible at DEV scope when its launch was accepted, or, where
they have been stored since, in that form or the new one. -/
def fetchBytes (s : State) (ti k n : Nat) : List Byte :=
  let l := s.launch (s.crew (s.team ti).crew).launch
  let new := s.devBytes k n
  let old := (viewWith ({ s with mem := l.codeMem, l2 := l.codeL2, stale := l.codeOld, caches := {} } : State)
    (fun w => l.codeOld.find? (·.word == w.word)) (.phys k) n).1
  if old = new then new else if Config.staleFetch s.fresh then old else new

/-- A core's instruction cache, of 128 KiB (00 R1), after a fetch of a line. -/
def useCode (s : State) (core line : Nat) : State :=
  { s with caches := { s.caches with code := cset [] s.caches.code core (useLine 3 (2 ^ 17) (cget [] s.caches.code core) line 0).1 } }

/-- The words of an octet. -/
def octetWords (bs : List Byte) : List W32 := wordsOfBytes bs

/-- The instruction at the PC of a latched octet. -/
def decodeAt (oct : List W32) (pc : Nat) : Option Instr :=
  let slot := pc / 4 % 8
  match decode [oct.getD slot 0, oct.getD (slot + 1) 0] with
  | .ok (i, _) => some i
  | .error _ => none

/-- The team `cur` fetches at its PC: the octet is latched and the instruction decoded. A PC outside the address space or
in a window traps; a page that is not mapped for fetching suspends the team there. A team that waits at an instruction
tries the latched one. Where another team may use its ports, its instruction issues pass by pass. -/
def fetch (s : State) : State × Option Instr :=
  let ti := s.cur
  if !canIssue s ti then (s, none)
  else
    let t := s.team ti
    let pc := t.pc.toNat
    let shared := sharesPort s ti
    if t.status != .run then (s.updTeam ti (fun t => { t with onePass := shared }), decodeAt t.octet pc)
    else if 2 ^ 52 ≤ pc then (takeTrap (s.updTeam ti (fun t => { t with octet := [] })) ti t.pc { code := 0x0C, info0 := t.pc }, none)
    else if winLo ≤ pc then (takeTrap (s.updTeam ti (fun t => { t with octet := [] })) ti t.pc { code := 0x0D, info0 := t.pc }, none)
    else
      match translate s (teamAgent s ti none) .fetch pc with
      | (s, .error (c, l)) =>
        (faultTeam (s.updTeam ti (fun t => { t with octet := [] })) ti .fetch [{ lane := 0xFFFF, va := pc, cause := c, level := l }], none)
      | (s, .ok k) =>
        let oct := octetWords (fetchBytes s ti (k - pc % 32) 32)
        let core := (s.teamCrew ti).core
        let late := t.octetLate || t.enter && !holdsLine s.caches.code core (k / 64)
        ((useCode s core (k / 64)).updTeam ti (fun t => { t with octet := oct, octetLate := late, onePass := shared }), decodeAt oct pc)

end Sys2Proof.Machine
end

