-- ==== Sys2Proof/Machine/Flags.lean ====
section
/-! DEFINITION. The status a team keeps of its arithmetic: FSR and UFC (13 R256). Flag masks are FSR's own bits: 16 NX, 8 UF,
4 OF, 2 DZ, 1 NV. The flags of a rounding are computed with it, in Num.lean. -/

namespace Sys2Proof.Machine

/-- Flags ORed into FSR. -/
def Team.addFlags (t : Team) (f : Nat) : Team := { t with fsr := t.fsr ||| w64 (f % 32) }
/-- Elements QNT counted as underflowed, added to UFC modulo 2^64. -/
def Team.addUfc (t : Team) (n : Nat) : Team := { t with ufc := t.ufc + w64 n }
/-- The OR of flags. -/
def orFlags (l : List Nat) : Nat := l.foldl (· ||| ·) 0

end Sys2Proof.Machine
end

