-- ==== Sys2Proof/Machine/Queues.lean ====
section
/-! DEFINITION. Stream elements as the Feed reads them (09 R193, 19 R390, R391), and popping and pushing operand queues
(09 R191, R192). -/

namespace Sys2Proof.Machine

/-! ### Stream elements -/

def Team.stream (t : Team) (f : Nat) : Stream := cget {} t.streams f
def Team.setStream (t : Team) (f : Nat) (x : Stream) : Team := { t with streams := cset {} t.streams f x }

/-- What reading one element gives: its bytes, poisoned or not; the poison of a failed read, and whether an access was made; or the end
of an index stream. -/
inductive Elem where
  | ok (bytes : List Byte) (bad : Bool)
  | fail (p : Nat → QPoison) (made : Bool)
  | short

/-- The bytes at an address a stream names, with its hint. -/
def elemAt (s : State) (ti : Nat) (spec : Bool) (hint : Nat) (va : Int) (n : Nat) : State × Elem :=
  let v := wrapN 64 va
  let a : Agent := { teamAgent s ti none with source := 3, spec := spec }
  match place s a .engR v with
  | (s, .canon) => (s, .fail (fun l => .canon v l) true)
  | (s, .prot) => (s, .fail (fun l => .extent v l) true)
  | (s, .fault c lv) => (s, .fail (fun l => .fault v c lv l) true)
  | (s, p) =>
    let (bs, bad) := engineRead s (s.team ti).crew p n
    (engineLine s (s.teamCrew ti).core p hint, .ok bs bad)

/-- Element i of stream f (19 R390). -/
def streamElem (s : State) (ti : Nat) (spec : Bool) (f i : Nat) : State × Elem :=
  let t := s.team ti
  let x := t.stream f
  if !x.indirect then elemAt s ti spec x.hint (x.base + i * x.stride) x.esz
  else
    let ix := t.stream x.ixs
    if ix.length ≤ i then (s, .short)
    else
      match elemAt s ti spec ix.hint (ix.base + i * ix.stride) 4 with
      | (s, .ok bs bad) =>
        if bad then (s, .ok (List.replicate x.esz 0) true)
        else
          let j := sextN 32 (ofLE bs)
          let va := (x.base : Int) + j * x.stride
          if j < 0 ∨ (x.bound : Int) ≤ j then (s, .fail (fun l => .extent (wrapN 64 va) l) false)
          else elemAt s ti spec x.hint va x.esz
      | r => r

/-- An element extended to 32 bits. -/
def elemWord (x : Stream) (bs : List Byte) : W32 :=
  if x.signed then w32 (wrapN 32 (sextN (8 * x.esz) (ofLE bs))) else w32 (ofLE bs)

/-- The elements of one entry, from lane l on: the entry so far, and whether the index stream ended. `pre` are elements
already read ahead. -/
def fillLanes (s : State) (ti f base : Nat) (pre : List (List Byte × Bool)) : List Nat → QEntry → State × QEntry × Bool
  | [], e => (s, e, false)
  | l :: r, e =>
    let x := (s.team ti).stream f
    if x.length ≤ base + l then (s, e, false)
    else
      match (match pre[l]? with
        | some y => (s, Elem.ok y.1 y.2)
        | none => streamElem s ti false f (base + l)) with
      | (s, .short) => (s, e, l == 0)
      | (s, .fail p _) =>
        match e.poison with
        | none => (s, { e with poison := some (p l) }, false)
        | some _ => (s, e, false)
      | (s, .ok bs bad) =>
        let e := { e with vals := cset 0 e.vals l (elemWord x bs) }
        let e := if bad && e.poison.isNone then { e with poison := some (.data l) } else e
        fillLanes s ti f base pre r e

/-- Entry k of stream f. -/
def feedEntry (s : State) (ti f k : Nat) (pre : List (List Byte × Bool)) : State × QEntry × Bool :=
  let n := (s.team ti).lanes
  fillLanes s ti f (k * n) pre (List.range n) {}

/-- Entries that a stream has put into its queue. -/
def Stream.put (x : Stream) (lanes : Nat) : Nat := (x.pos + lanes - 1) / lanes

/-! ### Popping -/

/-- The producer of an incoming queue has ended (09 R192). -/
def producerEnded (s : State) (t : Team) (n : Nat) : Bool :=
  let b := (t.q n).bind
  if bindSrc b = 2 then
    (match crewTeam s t.crew (bindPeer b) with
      | some p => let st := (s.team p).status; st == .ended || st == .killed
      | none => true)
  else (t.stream (bindStrm b)).short

/-- The declared length of a queue's stream has been delivered; with no entry left it has been consumed. -/
def streamConsumed (t : Team) (n : Nat) : Bool :=
  let b := (t.q n).bind
  let x := t.stream (bindStrm b)
  bindSrc b == 1 && x.loaded && !x.ring && x.q == n && !x.short && decide (x.length ≤ x.pos)

/-- A fault that an entry carries, raised at the instruction that pops it: a record is written and the team suspends. -/
def feedFault (s : State) (ti va cause level lane : Nat) : State :=
  faultTeamAs s ti 3 .engR [{ lane := lane, va := va, cause := cause, level := level }]

/-- The k-th entry of queue n as this instruction sees it: after a REPLAY an entry that carries a fault is read again. -/
def entryAt (s : State) (ti n k : Nat) : State :=
  let t := s.team ti
  let q := t.q n
  match q.entries[k]? with
  | some { poison := some (.fault ..), .. } =>
    if t.replayed then
      let put := (t.stream (bindStrm q.bind)).put t.lanes
      if put + k < q.entries.length then s
      else
      let (s, e, _) := feedEntry s ti (bindStrm q.bind) (put + k - q.entries.length) []
      s.updTeam ti (fun t => t.setQ n { t.q n with entries := listSet (t.q n).entries k e })
    else s
  | _ => s

/-- The poison of a popped entry raised at the instruction (09 R192, 10 R209). -/
def raisePoison (s : State) (ti : Nat) (p : QPoison) : Stop :=
  match p with
  | .data l => trapAt 0x0F (2 ^ 64 - 1) 0 (some l)
  | .extent va l => trapAt 0x0D va 0 (some l)
  | .canon va l => trapAt 0x0C va 0 (some l)
  | .fault va c lv l => .become (feedFault s ti va c lv l)

/-- m entries of queue n from the k-th on. -/
def peekEntries (s : State) (ti n : Nat) : Nat → Nat → Except Stop (State × List QEntry)
  | _, 0 => .ok (s, [])
  | k, m + 1 =>
    let s := entryAt s ti n k
    let t := s.team ti
    match (t.q n).entries[k]? with
    | none =>
      if streamConsumed t n then .error (trapAt 0x09 n 0)
      else if producerEnded s t n then .error (trapAt 0x08 n 0)
      else .error (.block (.wait 0))
    | some e =>
      match e.poison with
      | some p => .error (raisePoison s ti p)
      | none =>
        match peekEntries s ti n (k + 1) m with
        | .error x => .error x
        | .ok (s, es) => .ok (s, e :: es)

/-- Entries of queue n taken by the operands before this one. -/
def takenBefore (os : List (Opnd × Nat)) (n : Nat) : Nat :=
  (os.map (fun o => match o.1 with
    | .q m => if m.val = n then o.2 else 0
    | _ => 0)).foldl (· + ·) 0

/-- The sources of an instruction, a before b, each Q operand with the entries it pops; nothing is popped yet. `done` are
the operands already taken, each with its count of entries. -/
def peekSrcs (s : State) (ti : Nat) (dq : Opnd → Option (List Nat)) : List (Opnd × Nat) → List (Opnd × Nat) → Except Stop (State × List Src)
  | _, [] => .ok (s, [])
  | done, (o, m) :: r =>
    match o with
    | .q n =>
      match peekEntries s ti n.val (takenBefore done n.val) m with
      | .error x => .error x
      | .ok (s, es) =>
        match peekSrcs s ti dq (done ++ [(o, m)]) r with
        | .error x => .error x
        | .ok (s, l) => .ok (s, .ent es :: l)
    | _ =>
      match peekSrcs s ti dq (done ++ [(o, m)]) r with
      | .error x => .error x
      | .ok (s, l) => .ok (s, (match dq o with
        | some vs => .dq vs
        | none => .op o) :: l)

/-- The entries popped. -/
def popSrcs (t : Team) (os : List (Opnd × Nat)) : Team :=
  os.foldl (fun t o => match o.1 with
    | .q n => let q := t.q n.val; t.setQ n.val { q with entries := q.entries.drop o.2 }
    | _ => t) t

/-! ### Pushing -/

/-- The queue of the peer team that an outgoing queue feeds. -/
def pushTarget (s : State) (t : Team) (o : Opnd) : Option (Nat × Nat) :=
  match o with
  | .q n =>
    let b := (t.q n.val).bind
    (crewTeam s t.crew (bindPeer b)).map (fun p => (p, bindPq b))
  | _ => none

/-- An outgoing queue with no room for m entries blocks the team (09 R191). -/
def pushRoom (s : State) (t : Team) (o : Opnd) (m : Nat) : Except Stop Unit :=
  match pushTarget s t o with
  | some (p, q) => if ((s.team p).q q).entries.length + m ≤ 8 then .ok () else .error (.block (.wait 0))
  | none => .ok ()

/-- Entries pushed into the peer's queue. -/
def pushEntries (s : State) (t : Team) (o : Opnd) (es : List QEntry) : State :=
  match pushTarget s t o with
  | some (p, q) => s.updTeam p (fun x => x.setQ q { x.q q with entries := (x.q q).entries ++ es })
  | none => s


end Sys2Proof.Machine
end

