-- ==== Sys2Proof/Machine/VaMem.lean ====
section
/-! DEFINITION. Memory by virtual address for the units that are no team: whole records read and written, at the device's
view or at home. -/

namespace Sys2Proof.Machine

/-- Why an access by virtual address has no place. -/
inductive VaFail where
  | canon (va : Nat)
  | prot (va : Nat)
  | fault (va cause level : Nat)
  deriving DecidableEq, Repr

def VaFail.va : VaFail → Nat
  | .canon v => v
  | .prot v => v
  | .fault v _ _ => v

/-- An access of n bytes in pieces that lie in one 64 KiB page each. -/
def pieces (va : Nat) : Nat → Nat → List (Nat × Nat)
  | 0, _ => []
  | fuel + 1, n =>
    if n = 0 then []
    else
      let k := min n (65536 - va % 65536)
      (va, k) :: pieces (va + k) fuel (n - k)

def piecesOf (va n : Nat) : List (Nat × Nat) := pieces va (n / 65536 + 2) n

/-- The place of one address, or why it has none. -/
def placeVa (s : State) (a : Agent) (acc : Acc) (va : Nat) : State × Except VaFail Place :=
  match place s a acc va with
  | (s, .canon) => (s, .error (.canon va))
  | (s, .prot) => (s, .error (.prot va))
  | (s, .fault c l) => (s, .error (.fault va c l))
  | (s, p) => (s, .ok p)

/-- A window access that runs past its allocation. -/
def placeEnd (s : State) (a : Agent) (va n : Nat) : Option VaFail :=
  if winLo ≤ va ∧ va < 2 ^ 52 ∧ 0 < n then
    match windowPlace s a (va + n - 1) with
    | .scratch .. => if va + n ≤ 2 ^ 52 then none else some (.canon (2 ^ 52))
    | _ => some (.prot (va + n - 1))
  else none

/-- The places of all pieces of an access. -/
def placesOf (s : State) (a : Agent) (acc : Acc) : List (Nat × Nat) → State × Except VaFail (List (Nat × Place × Nat))
  | [] => (s, .ok [])
  | (va, n) :: r =>
    match placeVa s a acc va with
    | (s, .error e) => (s, .error e)
    | (s, .ok p) =>
      match placeEnd s a va n with
      | some e => (s, .error e)
      | none =>
        match placesOf s a acc r with
        | (s, .error e) => (s, .error e)
        | (s, .ok l) => (s, .ok ((va, p, n) :: l))

/-- The first poisoned 8-byte word of n bytes at a place: its offset. -/
def firstPoison (s : State) (p : Place) (n : Nat) : Option Nat :=
  let go (l : List Nat) (k : Nat) : Option Nat :=
    (l.foldl (fun (m : Option Nat) w => if k / 8 ≤ w ∧ w ≤ (k + n - 1) / 8 ∧ n ≠ 0 then
      some (match m with
        | some x => min x w
        | none => w) else m) none).map (fun w => 8 * w - k)
  match p with
  | .scratch c o => go (s.crew c).scratchPoison o
  | .phys k => go s.poison k
  | _ => none

/-- n bytes at va as the device sees them, with the address of the first poisoned word. -/
def readVa (s : State) (a : Agent) (acc : Acc) (va n : Nat) : State × Except VaFail (List Byte × Option Nat) :=
  match placesOf s a acc (piecesOf va n) with
  | (s, .error e) => (s, .error e)
  | (s, .ok l) =>
    (s, .ok (l.flatMap (fun x => (readPlace s x.2.1 x.2.2).1),
      l.findSome? (fun x => (firstPoison s x.2.1 x.2.2).map (x.1 + ·))))

/-- Bytes laid over the pieces of an access by core w, or by the hub die as core 512, with a retention hint. -/
def writePieces (s : State) (w ctx : Nat) (bad : Bool) (hint : Nat) : List (Nat × Place × Nat) → List Byte → State
  | [], _ => s
  | (_, p, n) :: r, bs => writePieces (shareWrite s w ctx p (bs.take n) bad hint) w ctx bad hint r (bs.drop n)

/-- Bytes written at va: all of them, or none where a piece has no place. -/
def writeVa (s : State) (a : Agent) (acc : Acc) (va : Nat) (bytes : List Byte) (bad : Bool := false) (hint : Nat := 0) :
    State × Except VaFail Unit :=
  match placesOf s a acc (piecesOf va bytes.length) with
  | (s, .error e) => (s, .error e)
  | (s, .ok l) => (writePieces s ((a.crew.map (fun c => (s.crew c).core)).getD 512) a.ctx bad hint l bytes, .ok ())

/-- A unit of the hub die, acting for a context. -/
def hubAgent (ctx source : Nat) : Agent := { ctx := ctx, source := source }

/-- A record read by a hub unit: its bytes, or nothing where it does not translate. -/
def hubRead (s : State) (ctx va n : Nat) : State × Option (List Byte) :=
  match readVa s (hubAgent ctx 5) .engR va n with
  | (s, .ok (bs, _)) => (s, some bs)
  | (s, .error _) => (s, none)

/-- A record written by a hub unit; nothing is written where it does not translate. -/
def hubWrite (s : State) (ctx va : Nat) (bytes : List Byte) : State :=
  (writeVa s (hubAgent ctx 5) .engW va bytes).1

/-- The memory kind of an address of a context, if it translates. -/
def kindOfVa (s : State) (ctx va : Nat) : Option Nat :=
  match placeVa s { hubAgent ctx 5 with spec := true } .engR va with
  | (_, .ok (.phys k)) => some (keyKind k)
  | _ => none

/-- A record at its home memory, past the die caches (03 R61). In host memory it is read as a device reads that, behind its own writes, and not at
all while no link is up (02 R44). -/
def homeRead (s : State) (ctx va n : Nat) : State × Option (List Byte) :=
  match placeVa s (hubAgent ctx 5) .engR va with
  | (s, .ok (.phys k)) => (s, if keyKind k = 2 then (if hostUp s then some (s.devBytes k n) else none) else some (s.homeBytes k n))
  | (s, _) => (s, none)

def homeWrite (s : State) (ctx va : Nat) (bytes : List Byte) : State :=
  match placeVa s (hubAgent ctx 5) .engW va with
  | (s, .ok (.phys k)) => homeOrPost s ctx k bytes
  | (s, _) => s

/-- A count at va lowered by one, at DEV scope (04 R81, 05 R105). -/
def decrementAt (s : State) (ctx va : Nat) : State :=
  match hubRead s ctx va 8 with
  | (s, some bs) => hubWrite s ctx va (leBytes 8 ((ofLE bs + 2 ^ 64 - 1) % 2 ^ 64))
  | (s, none) => s

end Sys2Proof.Machine
end

