-- ==== Sys2Proof/Machine/Rubric.lean ====
section
/-! DEFINITION. Rubric's state and its operations: counters (05 R99 to R101), jobs (R105), ready queues (R107), parking and
enqueueing (R100, R108), and the draft buffer (R110, R111). -/

namespace Sys2Proof.Machine

/-! ### Vectors -/

/-- The MSI-X vector of a queue, from its descriptor (03 R61). DESIGN CHOICE: a vector byte above 63 is taken modulo 64 (log 114). -/
def queueVector (s : State) (ctx q : Nat) : State × Nat :=
  match homeRead s ctx ((s.ctx ctx).qtblBase.toNat + 256 * q + 10) 1 with
  | (s, some bs) => (s, ofLE bs % 64)
  | (s, none) => (s, 0)

/-- The vector of a queue raised. -/
def raiseQueue (s : State) (ctx q : Nat) : State := let (s, v) := queueVector s ctx q; s.raise ctx v

/-- The context's error vector raised, where it is enabled (04 R82). -/
def raiseErr (s : State) (ctx : Nat) : State :=
  let e := (s.ctx ctx).errVec.toNat
  if bitN e 7 then s.raise ctx (e % 64) else s

/-! ### Records (R97, 04 R80) -/

/-- Lanes, teams and registers that one core can hold (04 R80). -/
def shapeOk (lanes teams regs : Nat) : Bool :=
  decide (5 ≤ lanes ∧ lanes ≤ 10 ∧ 1 ≤ teams ∧ teams ≤ 16 ∧ teams * 2 ^ lanes ≤ 4096 ∧ 1 ≤ regs ∧ regs ≤ 128 ∧
    (teams + 3) / 4 * ((regs + 7) / 8 * 8 * 4 * 2 ^ lanes) ≤ 262144)

/-- A task record's fields. -/
def taskOf (va queue : Nat) (r : List Byte) : Task :=
  { va := va, entry := field r 0 8, args := field r 8 8, lanes := field r 16 1, teams := field r 17 1, regs := field r 18 1,
    flags := field r 19 1, scratch := field r 20 4, own := field r 24 4,
    succ := (List.range (min 4 (field r 28 1))).map (fun k => field r (32 + 4 * k) 4),
    weight := field r 29 1, rank := field r 30 2, job := field r 48 4, depth := field r 52 1, init := field r 54 2,
    taskId := field r 56 4, queue := queue }

/-- The shape rules for a task (R80, R97). -/
def taskShapeOk (r : List Byte) : Bool :=
  shapeOk (field r 16 1) (field r 17 1) (field r 18 1) && field r 0 8 % 32 == 0 && decide (field r 20 4 ≤ 1048576) &&
  field r 19 1 / 64 == 0 && !bitN (field r 19 1) 2 && !bitN (field r 19 1) 3 && decide (field r 28 1 ≤ 4) &&
  field r 53 1 == 0 && field r 60 4 == 0

/-! ### Jobs (R105) -/

def jobVa (c : Ctx) (j off : Nat) : Nat := c.jobBase.toNat + 32 * j + off

/-- The first nonzero status of a job is kept. -/
def jobStatus (s : State) (ctx j code info : Nat) : State :=
  let va := jobVa (s.ctx ctx) j 8
  match hubRead s ctx va 8 with
  | (s, some bs) =>
    let st := field bs 0 4
    if st % 256 = 0 then hubWrite s ctx va (leBytes 4 (st / 256 * 256 + code) ++ leBytes 4 info) else s
  | (s, none) => s

/-- DRAFTED set in a job's status (R111). -/
def jobDrafted (s : State) (ctx j : Nat) : State :=
  let va := jobVa (s.ctx ctx) j 8
  match hubRead s ctx va 4 with
  | (s, some bs) => hubWrite s ctx va (leBytes 4 (ofLE bs ||| 256))
  | (s, none) => s

/-- A unit of work of a queue is done. -/
def workDone (s : State) (ctx : Nat) (w : Work) : State :=
  { s with queues := s.queues.map (fun e => if e.1 / 512 = ctx then (e.1, { e.2 with work := e.2.work.filter (· != w) }) else e) }

/-- Before a record in host memory is written, every earlier write of the context is there (02 R40). -/
def beforeRecord (s : State) (ctx va : Nat) : State := if kindOfVa s ctx va = some 2 then landCtx s ctx else s

/-- A job whose outstanding value has reached 0 completes. -/
def jobComplete (s : State) (ctx j : Nat) : State :=
  let s := if kindOfVa s ctx (jobVa (s.ctx ctx) j 0) = some 2 then landCtx (s.flush ctx) ctx else s
  let s := decrementAt s ctx (jobVa (s.ctx ctx) j 16)
  let last := cget none (s.ctx ctx).jobLastQ j
  let s := match hubRead s ctx (jobVa (s.ctx ctx) j 8) 4 with
    | (s, some bs) =>
      if ofLE bs % 256 = 0 then s
      else match last with
        | some q => raiseQueue s ctx q
        | none => raiseErr s ctx
    | (s, none) => s
  let s := s.updCtx ctx (fun c => { c with
    jobLastQ := cset none c.jobLastQ j none, graphs := c.graphs.filter (·.job != j), cancelled := c.cancelled.filter (· != j) })
  workDone s ctx (.job j)

/-- The job's outstanding value changed by d; at 0 the job completes. -/
def jobAdd (s : State) (ctx j : Nat) (d : Int) : State :=
  let va := jobVa (s.ctx ctx) j 0
  match hubRead s ctx va 8 with
  | (s, some bs) =>
    let v := wrapN 64 (ofLE bs + d)
    let s := hubWrite s ctx va (leBytes 8 v)
    if v = 0 ∧ d < 0 then jobComplete s ctx j else s
  | (s, none) => s

/-! ### Ready queues (R107) -/

/-- A context is active (02 R35): a queue of it is runnable, mapped or blocked; work of it is not complete; or it is being
saved, is saved or is being restored. -/
def ctxActive (s : State) (ctx : Nat) : Bool :=
  let c := s.ctx ctx
  s.queues.any (fun e => e.1 / 512 == ctx && decide (1 ≤ e.2.st ∧ e.2.st ≤ 3)) ||
  s.launches.any (fun e => e.2.live && e.2.ctx == ctx) || s.runs.any (fun e => e.2.active && e.2.ctx == ctx) ||
  s.colls.any (fun e => e.2.active && e.2.ctx == ctx) ||
  !c.ready.isEmpty || !c.parked.isEmpty || !c.held.isEmpty || !c.graphs.isEmpty || !c.jobLastQ.isEmpty || !c.armed.isEmpty || c.pState != 0

/-- Another context has work on the device. -/
def otherActive (s : State) (ctx : Nat) : Bool := (List.range 16).any (fun k => k != ctx && ctxActive s k)

/-- The order of a queue: ranked, or first in first out. -/
def ranked (s : State) (ctx q : Nat) : Bool :=
  match bitsN (s.ctx ctx).rubricCfg.toNat (2 * q) 2 with
  | 1 => false
  | 2 => true
  | _ => !otherActive s ctx

/-- Before the first entry of a lower rank. -/
def insertRanked (e : ReadyEntry) : List ReadyEntry → List ReadyEntry
  | [] => [e]
  | x :: r => if x.task.rank < e.task.rank ∧ x.wait = [] then e :: x :: r else x :: insertRanked e r

def readyList (s : State) (ctx q : Nat) : List ReadyEntry := cget [] (s.ctx ctx).ready q

/-- An entry put into its queue; a task of a cancelled job goes at once (R105). -/
def readyPut (s : State) (ctx : Nat) (t : Task) (slot : Nat) : State :=
  if (s.ctx ctx).cancelled.contains t.job then jobAdd s ctx t.job (-1)
  else
    let (o, s) := s.tick
    let e : ReadyEntry := { task := t, slot := slot, order := o }
    let l := readyList s ctx t.queue
    let l := if ranked s ctx t.queue then insertRanked e l else l ++ [e]
    s.updCtx ctx (fun c => { c with ready := cset [] c.ready t.queue l })

/-- A general entry is free. -/
def generalFree (s : State) (ctx q : Nat) : Bool := decide (((readyList s ctx q).filter (·.slot == 0)).length < 1016)
/-- The entry reserved for a depth is free. -/
def depthFree (s : State) (ctx q depth : Nat) : Bool := !((readyList s ctx q).any (·.slot == depth))

/-- No task is held for the queue: a general entry that frees goes to those first. -/
def noneHeld (s : State) (ctx q : Nat) : Bool := (s.ctx ctx).held.all (·.task.queue != q)

/-- A task is held until an entry frees. -/
def holdTask (s : State) (ctx : Nat) (t : Task) (enq : Bool) : State :=
  s.updCtx ctx (fun c => { c with held := c.held ++ [{ task := t, enq := enq }] })

/-- A ready task is inserted, or held for a full queue. -/
def makeReady (s : State) (ctx : Nat) (t : Task) : State :=
  if generalFree s ctx t.queue && noneHeld s ctx t.queue then readyPut s ctx t 0 else holdTask s ctx t false

/-! ### Counters (R99 to R101) -/

/-- The physical counter of an id, if the context's range holds it. -/
def ctrPhys (c : Ctx) (id : Nat) : Option Nat := if id < 256 * c.ctrCount then some (256 * c.ctrBase + id) else none
def depValue (s : State) (ctx id : Nat) : Nat :=
  match ctrPhys (s.ctx ctx) id with
  | some p => (cget 0 s.deps p).toNat
  | none => 0

/-- A counter's new value; a transition to 0 readies its parked task. -/
def depPut (s : State) (ctx id new : Nat) : State :=
  match ctrPhys (s.ctx ctx) id with
  | none => s
  | some p =>
    let old := (cget 0 s.deps p).toNat
    let s := { s with deps := cset 0 s.deps p (BitVec.ofNat 16 new) }
    if old ≠ 0 ∧ new = 0 then
      match cget none (s.ctx ctx).parked id with
      | some t => makeReady (s.updCtx ctx (fun c => { c with parked := cset none c.parked id none })) ctx t
      | none => s
    else s

/-- A decrement by n, and whether it underflowed. -/
def depDecBy (s : State) (ctx id n : Nat) : State × Bool :=
  let v := depValue s ctx id
  if n ≤ v then (depPut s ctx id (v - n), false) else (depPut s ctx id 0, true)

/-- A decrement that cannot trap: its failure goes to the job, if there is one (R101). -/
def recordDec (s : State) (ctx : Nat) (job : Option Nat) (id n : Nat) : State :=
  let (s, bad) := match ctrPhys (s.ctx ctx) id with
    | none => (s, true)
    | some _ => depDecBy s ctx id n
  match job with
  | some j => if bad then jobStatus s ctx j 2 id else s
  | none => s

/-- A set that cannot trap. -/
def recordSet (s : State) (ctx : Nat) (job : Option Nat) (id n : Nat) : State :=
  match ctrPhys (s.ctx ctx) id with
  | none => (match job with
    | some j => jobStatus s ctx j 2 id
    | none => s)
  | some _ =>
    if n ≤ 65535 then depPut s ctx id n
    else match job with
      | some j => jobStatus s ctx j 4 id
      | none => s

/-! ### Parking and enqueueing (R100, R108) -/

/-- A task whose counter holds it back. -/
def mustPark (s : State) (ctx : Nat) (t : Task) : Bool := t.own != 0xFFFFFFFF && depValue s ctx t.own != 0

/-- A task parked in its counter; one of a cancelled job goes at once (R105). -/
def parkTask (s : State) (ctx : Nat) (t : Task) : State :=
  if (s.ctx ctx).cancelled.contains t.job then jobAdd s ctx t.job (-1)
  else s.updCtx ctx (fun c => { c with parked := cset none c.parked t.own (some t) })

/-- The counter of a task already gates one; such an ENQ traps (R108). -/
def gateTaken (s : State) (ctx : Nat) (t : Task) : Bool :=
  t.own != 0xFFFFFFFF && ((cget none (s.ctx ctx).parked t.own).isSome || (s.ctx ctx).held.any (·.task.own == t.own))

/-- No deferred ENQ is held for the queue and depth: the depth's entry that frees goes to those first (R110). -/
def noneHeldAt (s : State) (ctx q depth : Nat) : Bool := (s.ctx ctx).held.all (fun h => !(h.enq && h.task.queue == q && h.task.depth == depth))

/-- A ready task of an ENQ inserted in a general entry or in its depth's; none when both are full. -/
def enqReady (s : State) (ctx : Nat) (t : Task) : Option State :=
  if generalFree s ctx t.queue && noneHeld s ctx t.queue then some (readyPut s ctx t 0)
  else if depthFree s ctx t.queue t.depth && noneHeldAt s ctx t.queue t.depth then some (readyPut s ctx t t.depth)
  else none

/-- A task enqueued: parked, or inserted. -/
def enqInsert (s : State) (ctx : Nat) (t : Task) : Option State :=
  if mustPark s ctx t then some (parkTask s ctx t) else enqReady s ctx t

/-- A job is cancelled by a killed task (R105): its parked, queued and held tasks leave. -/
def cancelJob (s : State) (ctx j : Nat) : State :=
  let c := s.ctx ctx
  let parked := c.parked.filter (fun e => match e.2 with
    | some t => t.job == j
    | none => false)
  let queued := (c.ready.map (fun e => (e.2.filter (·.task.job == j)).length)).foldl (· + ·) 0
  let held := (c.held.filter (·.task.job == j)).length
  let s := s.setCtx ctx { c with
    parked := c.parked.filter (fun e => match e.2 with
      | some t => t.job != j
      | none => true),
    ready := (c.ready.map (fun e => (e.1, e.2.filter (·.task.job != j)))).filter (fun e => e.2 != []),
    held := c.held.filter (·.task.job != j),
    cancelled := if c.cancelled.contains j then c.cancelled else c.cancelled ++ [j] }
  let n := parked.length + queued + held
  if n = 0 then s else jobAdd s ctx j (-n)

/-! ### Drafts (R110, R111) -/

/-- The job that the failures of a crew's deferred operations go to. -/
def crewJob (s : State) (ci : Nat) : Option Nat := (s.crewTask ci).map (·.job)

/-- A remote ENQ leaves for another chip (R109): the issuing job counts it until its acknowledgement. Nothing is sent to a chip
that cannot be reached. -/
def remoteEnq (s : State) (ctx team : Nat) (job : Option Nat) (chip queue : Nat) (record : List Byte) (depth : Nat) : State :=
  if !s.reach chip then s
  else
    let (k, s) := s.tick
    let s := match job with
      | some j => jobAdd s ctx j 1
      | none => s
    let s := s.updTeam team (fun t => { t with enqWait := t.enqWait + 1 })
    let s := s.updCtx ctx (fun c => { c with fab := c.fab ++ [{ token := k, team := team, left := [(chip, 1, 0)], kind := 4, job := job }] })
    s.send (.enq chip ctx k queue depth record)

/-- A drafted store, a release between drafted stores (12 R238) or a deferred operation applied. The operations release first, as 20 R403 and R404
say. DESIGN CHOICE: a deferred ENQ whose own counter already gates a task is dropped, and its job's status gets OVERFLOW with the
counter's id (log 128). -/
def applyDraft (ci core ctx : Nat) (job : Option Nat) (s : State) : Draft → State
  | .store _ key bytes bad _ hint => shareWrite (storeLine s core (.phys key) hint) core ctx (.phys key) bytes bad hint
  | .release scope => releaseAt s ci scope
  | .enq t q =>
    let s := releaseAt s ci 4
    let t := { t with queue := q }
    if gateTaken s ctx t then (match job with
      | some j => jobStatus s ctx j 4 t.own
      | none => s)
    else
      let s := jobAdd s ctx t.job 1
      match enqInsert s ctx t with
      | some s => s
      | none => holdTask s ctx t true
  | .dec id n => recordDec (releaseAt s ci 4) ctx job id n
  | .set id n => recordSet (releaseAt s ci 4) ctx job id n
  | .renq team chip queue record depth => remoteEnq (releaseAt s ci 5) ctx team job chip queue record depth

/-- A drafted store, or a release between such. -/
def Draft.isStore : Draft → Bool
  | .store .. | .release _ => true
  | _ => false

/-- Commit: the drafted stores, then the deferred operations, each in program order. -/
def commitDrafts (s : State) (ci : Nat) : State :=
  let c := s.crew ci
  let job := crewJob s ci
  let s := s.setCrew ci { c with drafts := [], draftUsed := 0 }
  let s := (c.drafts.filter (·.isStore)).foldl (applyDraft ci c.core c.ctx job) s
  (c.drafts.filter (!·.isStore)).foldl (applyDraft ci c.core c.ctx job) s

/-- The crew stops being idempotent: everything drafted is applied in program order. -/
def endIdem (s : State) (ci : Nat) : State :=
  let c := s.crew ci
  if !c.drafting then s
  else
    let job := crewJob s ci
    let s := s.setCrew ci { c with drafts := [], draftUsed := 0, drafted := true }
    let s := c.drafts.foldl (applyDraft ci c.core c.ctx job) s
    match job with
    | some j => jobDrafted s c.ctx j
    | none => s

/-- Draft space for n more units of 64 bytes. -/
def draftRoom (c : Crew) (n : Nat) : Bool := decide (c.draftUsed + 64 * n ≤ 4096 * c.teams.length)

/-- Drafts added, taking n units. -/
def addDrafts (s : State) (ci n : Nat) (ds : List Draft) : State :=
  s.updCrew ci (fun c => { c with drafts := c.drafts ++ ds, draftUsed := c.draftUsed + 64 * n })

/-- A deferred operation of an idempotent crew, where there is room; otherwise idempotence ends first. -/
def deferOp (s : State) (ci : Nat) (d : Draft) : State × Bool :=
  if !(s.crew ci).drafting then (s, false)
  else if draftRoom (s.crew ci) 1 then (addDrafts s ci 1 [d], true)
  else (endIdem s ci, false)

end Sys2Proof.Machine
end

