-- ==== Sys2Proof/Machine/Func.lean ====
section
/-! DEFINITION. The functions of 17 R329 and Ductus's powers (06 R123), as exact values or as values known to more than
300 bits: fixed point with 640 fraction bits, what lies below made sticky (log 20). -/

namespace Sys2Proof.Machine

/-- Fraction bits of the fixed-point values below. -/
def fixBits : Nat := 640
/-- ⌊π · 2^640⌋, ⌊ln 2 · 2^640⌋ and ⌊√π · 2^640⌋. -/
def piFix : Nat := 0x3243f6a8885a308d313198a2e03707344a4093822299f31d0082efa98ec4e6c89452821e638d01377be5466cf34e90c6cc0ac29b7c97c50dd3f84d5b5b54709179216d5d98979fb1bd1310ba698dfb5ac
def ln2Fix : Nat := 0xb17217f7d1cf79abc9e3b39803f2f6af40f343267298b62d8a0d175b8baafa2be7b876206debac98559552fb4afa1b10ed2eae35c138214427573b291169b8253e96ca16224ae8c51acbda11317c387e
def sqrtPiFix : Nat := 0x1c5bf891b4ef6aa79c3b0520d5db9383fe3921546f63b252dca100bd3ea14746ed76ffd6f941f1dbacd8e76141e0c77476c521446ddc35851524490c34a42174dcbafdf109d1b3acfb553ade465bea6c4

def fixMul (a b : Nat) : Nat := a * b / 2 ^ fixBits
def fixDiv (a b : Nat) : Nat := a * 2 ^ fixBits / b
/-- num / den in fixed point. -/
def fixOf (num den : Nat) : Nat := num * 2 ^ fixBits / den

/-- Σ xⁿ / n! from a term on. -/
def expSeries (x : Nat) : Nat → Nat → Nat → Nat
  | 0, _, _ => 0
  | fuel + 1, n, term => if term = 0 then 0 else term + expSeries x fuel (n + 1) (fixMul term x / (n + 1))

/-- e^x for x in fixed point, as m · 2^k with m in fixed point in [1, 2]. -/
def expFix (x : Nat) : Nat × Nat :=
  let k := x / ln2Fix
  (expSeries (x - k * ln2Fix) 400 0 (2 ^ fixBits), k)

/-- Σ (y²)ⁿ y / (2n + 1), the series of atanh y. -/
def atanhSeries (y2 : Nat) : Nat → Nat → Nat → Nat
  | 0, _, _ => 0
  | fuel + 1, n, term => if term = 0 then 0 else term / (2 * n + 1) + atanhSeries y2 fuel (n + 1) (fixMul term y2)

/-- ln m for m = num / den in [1, 2): 2 atanh ((m - 1) / (m + 1)). -/
def lnFix (num den : Nat) : Nat :=
  let y := fixOf (num - den) (num + den)
  2 * atanhSeries (fixMul y y) 1000 0 y

/-- Σ ± xⁿ / n! over every second n: sine from n = 1, cosine from n = 0. -/
def trigSeries (x2 : Nat) : Nat → Nat → Nat → Int
  | 0, _, _ => 0
  | fuel + 1, n, term =>
    if term = 0 then 0 else (term : Int) - trigSeries x2 fuel (n + 2) (fixMul term x2 / ((n + 1) * (n + 2)))

/-- Σ 2ⁿ x^(2n+1) / (2n + 1)!!. -/
def erfSeries (x2 : Nat) : Nat → Nat → Nat → Nat
  | 0, _, _ => 0
  | fuel + 1, n, term => if term = 0 then 0 else term + erfSeries x2 fuel (n + 1) (fixMul (2 * term) x2 / (2 * n + 3))

/-- A value k / 2^640, positive, with what lies below made sticky. -/
def fixVal (neg : Bool) (k : Nat) : FV := sticky neg k true fixBits
/-- Below every representable value, and above zero. -/
def tinyVal (neg : Bool) : FV := .fin neg 1 (2 ^ 3000)
/-- Just below one. -/
def nearOne (neg : Bool) : FV := .fin neg (2 ^ 640 - 1) (2 ^ 640)

/-- A value of a function: exact, from a case the spec lists or not; or rounded from a value known to 300 bits. -/
structure FuncVal where
  v : FV
  flags : Nat := 0
  listed : Bool := false      -- one of the exact cases of R329's table
  normal : Bool := false      -- listed only when the result is normal
  deriving DecidableEq, Repr

/-- num / den as a power of two, if it is one. -/
def log2Exact (num den : Nat) : Option Int :=
  let e := ratLog2 num den
  if cmpDyadic num den 1 e == .eq then some e else none

/-- √x (R329). -/
def funSqrt (x : FV) : FuncVal := let (v, f) := x.sqrt; { v := v, flags := f, listed := true }

/-- 1/√x. -/
def funRsq : FV → FuncVal
  | .nan => { v := .nan }
  | .inf false => { v := .fin false 0 1, listed := true }
  | .inf true => { v := .nan, flags := 1 }
  | .fin neg n d =>
    if n = 0 then { v := .inf neg, flags := 2, listed := true }
    else if neg then { v := .nan, flags := 1 }
    else match log2Exact n d with
      | some e => if e % 2 = 0 then { v := .dyadic false 1 (-(e / 2)), listed := true } else { v := (FV.sqrt (.fin false d n)).1 }
      | none => { v := (FV.sqrt (.fin false d n)).1 }

/-- 1/x. -/
def funRcp : FV → FuncVal
  | .nan => { v := .nan }
  | .inf neg => { v := .fin neg 0 1, listed := true }
  | .fin neg n d =>
    if n = 0 then { v := .inf neg, flags := 2, listed := true }
    else { v := .fin neg d n, listed := (log2Exact n d).isSome }

/-- 2^x. -/
def funExp2 : FV → FuncVal
  | .nan => { v := .nan }
  | .inf false => { v := .inf false, listed := true }
  | .inf true => { v := .fin false 0 1, listed := true }
  | .fin neg n d =>
    if n % d = 0 then
      let k := min (n / d) 2000
      { v := .dyadic false 1 (if neg then -(k : Int) else k), listed := true, normal := true }
    else if n / d ≥ 2000 then { v := if neg then tinyVal false else .dyadic false 1 2000 }
    else
      -- 2^x = 2^(⌊x⌋) · 2^f with f the fraction of x
      let w : Int := if neg then -((n / d : Nat) : Int) - 1 else (n / d : Nat)
      let f := if neg then d - n % d else n % d
      let (m, k) := expFix (fixMul (fixOf f d) ln2Fix)
      { v := sticky false (m * 2 ^ k) true (fixBits - w) }

/-- log₂ x. -/
def funLog2 : FV → FuncVal
  | .nan => { v := .nan }
  | .inf false => { v := .inf false, listed := true }
  | .inf true => { v := .nan, flags := 1 }
  | .fin neg n d =>
    if n = 0 then { v := .inf true, flags := 2, listed := true }
    else if neg then { v := .nan, flags := 1 }
    else match log2Exact n d with
      | some e => { v := .fin (e < 0) e.natAbs 1, listed := true }
      | none =>
        let e := ratLog2 n d
        let (num, den) := if e < 0 then (n * 2 ^ e.natAbs, d) else (n, d * 2 ^ e.natAbs)
        let l : Int := e * 2 ^ fixBits + ((fixDiv (lnFix num den) ln2Fix : Nat) : Int)
        { v := fixVal (l < 0) l.natAbs }

/-- The fraction of a turn of |x|, as num / den in [0, 1). -/
def turnOf (n d : Nat) : Nat := n % d

/-- sin(2πy) for y = num / den in (0, 1/4). -/
def sinTurn (num den : Nat) : Nat :=
  let a := fixMul (fixOf num den) (2 * piFix)
  (trigSeries (fixMul a a) 400 1 a).toNat

/-- cos(2πy) for y in (0, 1/4). -/
def cosTurn (num den : Nat) : Nat :=
  let a := fixMul (fixOf num den) (2 * piFix)
  (trigSeries (fixMul a a) 400 0 (2 ^ fixBits)).toNat

/-- The sine of y turns, y = num / den in [0, 1): its sign and its magnitude, or an exact case. -/
def sinOf (num den : Nat) : FV :=
  if 4 * num % den = 0 then
    match 4 * num / den with
    | 1 => .fin false 1 1
    | 3 => .fin true 1 1
    | _ => .fin false 0 1
  else
    let q := 4 * num / den
    let r := 4 * num % den                        -- y = (q + r / den) / 4
    if q % 2 = 0 then fixVal (q == 2) (sinTurn r (4 * den)) else fixVal (q == 3) (cosTurn r (4 * den))

/-- sin(2πx); zeros take the sign of x. -/
def funSin : FV → FuncVal
  | .nan => { v := .nan }
  | .inf _ => { v := .nan, flags := 1 }
  | .fin neg n d =>
    match sinOf (turnOf n d) d with
    | .fin s m c => if m = 0 then { v := .fin neg 0 1, listed := true }
                    else { v := .fin (s != neg) m c, listed := 4 * n % d == 0 }
    | v => { v := v }

/-- cos(2πx). -/
def funCos : FV → FuncVal
  | .nan => { v := .nan }
  | .inf _ => { v := .nan, flags := 1 }
  | .fin _ n d =>
    -- cos(2πx) = sin(2π(x + 1/4))
    match sinOf ((4 * n + d) % (4 * d)) (4 * d) with
    | .fin s m c => { v := .fin (s && m != 0) m c, listed := 4 * n % d == 0 }
    | v => { v := v }

/-- e^(-y) for y = num / den > 0, in fixed point. -/
def expNeg (num den : Nat) : Nat :=
  let (m, k) := expFix (fixOf num den)
  2 ^ (2 * fixBits) / m / 2 ^ k

/-- tanh x = (1 - e^(-2|x|)) / (1 + e^(-2|x|)). -/
def funTanh : FV → FuncVal
  | .nan => { v := .nan }
  | .inf neg => { v := .fin neg 1 1, listed := true }
  | .fin neg n d =>
    if n = 0 then { v := .fin neg 0 1, listed := true }
    else if n / d ≥ 200 then { v := nearOne neg }
    else
      let e := expNeg (2 * n) d
      { v := fixVal neg (fixDiv (2 ^ fixBits - e) (2 ^ fixBits + e)) }

/-- 1/(1 + e^(-x)). -/
def funSigm : FV → FuncVal
  | .nan => { v := .nan }
  | .inf neg => { v := if neg then .fin false 0 1 else .fin false 1 1, listed := true }
  | .fin neg n d =>
    if n = 0 then { v := .fin false 1 2, listed := true }
    else if n / d ≥ 400 then { v := if neg then tinyVal false else nearOne false }
    else
      let e := expNeg n d
      { v := fixVal false (fixDiv (if neg then e else 2 ^ fixBits) (2 ^ fixBits + e)) }

/-- erf x = (2/√π) e^(-x²) Σ 2ⁿ x^(2n+1) / (2n + 1)!!. -/
def funErf : FV → FuncVal
  | .nan => { v := .nan }
  | .inf neg => { v := .fin neg 1 1, listed := true }
  | .fin neg n d =>
    if n = 0 then { v := .fin neg 0 1, listed := true }
    else if n / d ≥ 16 then { v := nearOne neg }
    else
      let x := fixOf n d
      let s := erfSeries (fixMul x x) 4000 0 x
      { v := fixVal neg (fixDiv (2 * fixMul (expNeg (n * n) (d * d)) s) sqrtPiFix) }

/-- A bounded function's result in F32 or F64 (R329): a free choice among the values within `ulps` of the exact one; the
choice depends on the opcode, the type, the flush bits and the input bits alone. -/
def boundedRound (f : Fmt) (fzo : Bool) (op fz code ulps : Nat) (x : FuncVal) : Nat × Nat :=
  match x.v with
  | .fin neg num den =>
    let (c0, f0) := f.round 0 false fzo 0 neg num den
    if num = 0 || (x.listed && !(x.normal && cmpDyadic num den 1 f.emin == .lt)) then (c0, f0 ||| x.flags)
    else if f0 &&& 4 ≠ 0 then (c0, f0 ||| x.flags ||| 16)
    else
      let e := ratLog2 num den
      let q := (if e < f.emin then f.emin else e) - (f.p - 1 : Nat)
      let (k, rem, _) := inUnits num den q
      -- units j with |j - x| ≤ ulps
      let lo := if rem = 0 then k - ulps else k + 1 - ulps
      let n := k + ulps + 1 - lo
      let pick := lo + Config.bounded op f.w fz code % n
      match FV.dyadic neg pick q with
      | .fin s m c =>
        let (r, g) := f.round 1 false fzo 0 s m c
        let tiny := dyadicCmp pick q 1 f.emin == .lt && pick != 0
        (r, g ||| x.flags ||| 16 ||| (if tiny || pick == 0 then 8 else 0))
      | _ => (c0, f0)
  | .inf neg => (f.infCode neg, x.flags)
  | .nan => (f.nanCode, x.flags)

end Sys2Proof.Machine
end

