-- ==== Sys2Proof/Machine/Lane.lean ====
section
/-! DEFINITION. How lane-wise instructions (17 R315) and lane operations (17 R338) run: operands as groups of 32-bit
registers (17 R333), their checks, their passes, queues and the drain as sources, and their results. -/

namespace Sys2Proof.Machine

/-! ### Groups of registers -/

/-- n registers of a lane from r on, joined low register first (R333). -/
def readWords (t : Team) (c l r : Nat) : Nat → Nat
  | 0 => 0
  | n + 1 => (t.read c (.v r) l).toNat % 2 ^ 32 + 2 ^ 32 * readWords t c l (r + 1) n

/-- What a group of n registers that starts at an operand gives in lane l. -/
def readGrp (t : Team) (c n : Nat) (o : Opnd) (l : Nat) : Nat :=
  match o with
  | .v r => readWords t c l r.val n
  | .vx k => readWords t c l (vxIndex t c k.val l) n
  | o => readOp t c true o l

/-- The V registers of a group. -/
def grpV (t : Team) (n : Nat) (o : Opnd) (c l : Nat) : List Nat :=
  match o with
  | .v r => span r.val n
  | .vx k => span (vxIndex t c k.val l) n
  | _ => []

/-- Every register a group names in lane l, the index of V[Xn] left out. -/
def grpRegs (t : Team) (n : Nat) (o : Opnd) (c l : Nat) : List Reg :=
  match o with
  | .v _ => (grpV t n o c l).map .v
  | .vx _ => (grpV t n o c l).map .v
  | o => opRegs t false o c l

/-- The writes of a value of n words in lane l. -/
def wordWrites (r l v : Nat) : Nat → List (Reg × Nat × W64)
  | 0 => []
  | n + 1 => (.v r, l, w64 (v % 2 ^ 32)) :: wordWrites (r + 1) l (v / 2 ^ 32) n

def grpWrites (t : Team) (n : Nat) (o : Opnd) (c l v : Nat) : List (Reg × Nat × W64) :=
  match o with
  | .v r => wordWrites r.val l v n
  | .vx k => wordWrites (vxIndex t c k.val l) l v n
  | o => dstWrites t false o c l v

/-- The entries that a result of n words per lane pushes. -/
def entriesOf (vals : List (Nat × Nat)) : Nat → List QEntry
  | 0 => []
  | n + 1 => { vals := vals.foldl (fun m v => cset 0 m v.1 (w32 (v.2 % 2 ^ 32))) [] } ::
      entriesOf (vals.map (fun v => (v.1, v.2 / 2 ^ 32))) n

/-- A source comes from a queue or the drain, so the results are interlocked (08 R167). -/
def fromQueue (srcs : List (Opnd × Nat)) : Bool :=
  srcs.any (fun x => match x.1 with
    | .q _ | .dq => true
    | _ => false)

/-- The value of a source in lane l. -/
def Src.word (t : Team) (c n l : Nat) : Src → Nat
  | .op o => readGrp t c n o l
  | x => x.val t c true l

/-! ### The LFSR of a lane (13 R259) -/

/-- z[l], which starts at (l + 1) × 0x9E37_79B1. -/
def zGet (lf : Cells W32) (l : Nat) : Nat :=
  let z := (cget 0 lf l).toNat
  if z = 0 then (l + 1) * 0x9E3779B1 % 2 ^ 32 else z

def zSet (lf : Cells W32) (l z : Nat) : Cells W32 := if zGet lf l = z then lf else cset 0 lf l (w32 z)

/-- The LFSR after one element rounded under MR.rnd. -/
def zStep (m : W64) (z : Nat) : Nat := if mrRnd m = 6 then lfsrNext z else z

/-! ### The drain port as a source (19 R381) -/

/-- An accumulator element's value. -/
def accVal (c : Crew) (f64 : Bool) (row col : Nat) : FV :=
  (if f64 then fmtF64 else fmtF32).value (cget 0 c.acc (row * 64 + col)).toNat

/-- Types a DQ read may have, and its rounding code. -/
def dqTyOk (m : W64) (srcs : List (Opnd × Nat)) : Bool :=
  if srcs.any (·.1 == .dq) then decide (8 ≤ mrType m ∧ mrType m ≤ 12) && mrRnd m != 7 else true

/-- One delivery: each lane's value and flags, and the LFSRs after it. -/
def dqConvert (c : Crew) (m : W64) (d : Drain) (lf : Cells W32) : List Nat → List (Nat × Nat) × Cells W32
  | [] => ([], lf)
  | l :: r =>
    let k := d.pos + l
    if d.nrows * d.ncols ≤ k then
      let (vs, lf) := dqConvert c m d lf r
      ((0, 0) :: vs, lf)
    else
      let f := tyFmt (mrType m) (mrB8 m)
      let z := zGet lf l
      let v := f.roundV (mrRnd m) (mrSat m) (fzoOf m (mrType m)) z (accVal c d.f64 (d.first + k / d.ncols) (d.col + k % d.ncols))
      let (vs, lf) := dqConvert c m d (zSet lf l (zStep m z)) r
      (v :: vs, lf)

/-- What the DQ operands of an instruction deliver, in order: the values and flags of each, the drain and the LFSRs
after them. -/
def dqTake (c : Crew) (t : Team) : Nat → Option Drain → Cells W32 → Except Stop (List (List (Nat × Nat)) × Option Drain × Cells W32)
  | 0, d, lf => .ok ([], d, lf)
  | n + 1, d, lf =>
    match d with
    | none => .error (trapAt 0x0A 0 0)
    | some d =>
      let count := d.nrows * d.ncols
      if !d.armed ∨ count ≤ d.pos then .error (trapAt 0x0A 0 0)
      else
        match (List.range t.lanes).find? (fun l => decide (d.pos + l < count) && c.accPoison.contains (d.first + (d.pos + l) / d.ncols)) with
        | some l => .error (trapAt 0x0F (2 ^ 64 - 1) 0 (some l))
        | none =>
          let (vs, lf) := dqConvert c t.mr d lf (List.range t.lanes)
          match dqTake c t n (some { d with pos := d.pos + t.lanes }) lf with
          | .error x => .error x
          | .ok (r, d, lf) => .ok (vs :: r, d, lf)

/-- A DRAIN of the team that the crew's matrix queue has not yet executed. -/
def drainQueued (c : Crew) (ti : Nat) : Bool :=
  c.mmq.any (fun m => match m.op with
    | .drain t _ => t == ti
    | _ => false)

/-- Put the delivered values in the place of the DQ operands, in order. -/
def placeDq : List Src → List (List (Nat × Nat)) → List Src
  | [], _ => []
  | .op .dq :: r, vs :: rest => .dq (vs.map (·.1)) :: placeDq r rest
  | x :: r, vs => x :: placeDq r vs

/-- What the queue and drain operands of an instruction give; nothing is popped or advanced yet. -/
structure Taken where
  s : State
  srcs : List Src
  drain : Option Drain
  lf : Cells W32
  flags : Nat → Nat           -- a lane's flags of the drain's conversions

def takeSrcs (s : State) (ti : Nat) (srcs : List (Opnd × Nat)) : Except Stop Taken := do
  let t := s.team ti
  let n := (srcs.filter (·.1 == .dq)).length
  if n != 0 && drainQueued (s.crew t.crew) ti then throw .hold
  let (s, l) ← peekSrcs s ti (fun _ => none) [] srcs
  let t := s.team ti
  if n = 0 then .ok { s := s, srcs := l, drain := t.drain, lf := t.lfsr, flags := fun _ => 0 }
  else
    let (vs, d, lf) ← dqTake (s.crew t.crew) t n t.drain t.lfsr
    .ok { s := s, srcs := placeDq l vs, drain := d, lf := lf,
          flags := fun l => vs.foldl (fun m v => m ||| (v.getD l (0, 0)).2) 0 }

/-! ### Checks on registers -/

/-- The direct V operands within the declared count, in order (08 R171). -/
def rangeChecks (t : Team) (ops : List (Opnd × Nat)) : Except Stop Unit :=
  match ops.findSome? (fun x => vRange t x.1 x.2) with
  | some r => .error (trapAt 0x07 r 0)
  | none => .ok ()

/-- The cycle in which lane l's sources are read. -/
def passAt (ps : List Pass) (l : Nat) : Nat :=
  match ps.find? (fun p => decide (p.lo ≤ l ∧ l < p.lo + p.n)) with
  | some p => p.at_
  | none => lastPass ps

/-- The registers that V[Xn] names in the given lanes: the lowest lane out of range traps with its index (08 R171). -/
def vxChecks (t : Team) (ps : List Pass) (ops : List (Opnd × Nat)) (lanes : List Nat) : Except Stop Unit :=
  let vx := ops.filterMap (fun x => match x.1 with
    | .vx k => some (k.val, x.2)
    | _ => none)
  if vx.isEmpty then .ok ()
  else
    match lanes.findSome? (fun l => vx.findSome? (fun k =>
      let x := vxIndex t (passAt ps l) k.1 l
      if t.nregs < x + k.2 then some (l, x) else none)) with
    | some (l, x) => .error (trapAt 0x07 x 0 (some l))
    | none => .ok ()

def activeLanes (t : Team) : List Nat := (List.range t.lanes).filter (t.active ·)

/-- A V or S register holds poison when a pass in cycle c reads it (01 R24, 10 R209). -/
def regPoisoned (t : Team) (c l : Nat) : Reg → Bool
  | .v r => t.vPoison.contains (r * 1024 + l) && !t.pend.any (fun w => w.reg == .v r && w.lane == l && decide (w.due ≤ c))
  | .s r => t.sPoison.contains r && !t.pend.any (fun w => w.reg == .s r && decide (w.due ≤ c))
  | _ => false

/-- The lowest of the lanes in which a group read holds poison. -/
def poisonLane (t : Team) (ps : List Pass) (reads : List (Opnd × Nat)) (lanes : List Nat) : Option Nat :=
  if t.vPoison.isEmpty then none
  else lanes.find? (fun l => reads.any (fun x => (grpRegs t x.2 x.1 (passAt ps l) l).any (regPoisoned t (passAt ps l) l)))

def poisonChecks (t : Team) (ps : List Pass) (reads : List (Opnd × Nat)) (lanes : List Nat) : Except Stop Unit :=
  match poisonLane t ps reads lanes with
  | some l => .error (trapAt 0x0F (2 ^ 64 - 1) 0 (some l))
  | none => .ok ()

/-- The uses of a group operand: its index register apart from the registers it names. -/
def grpUse (t : Team) (x : Opnd × Nat) : Use := { code := x.1.code, regs := fun c l => grpRegs t x.2 x.1 c l, uniform := match x.1 with
  | .s _ => true
  | _ => false }
def indexUses (t : Team) (ops : List (Opnd × Nat)) : List Use :=
  ops.filterMap (fun x => match x.1 with
    | .vx k => some { code := x.1.code, regs := fun _ l => if t.active l then [.x k.val] else [], uniform := false }
    | _ => none)

/-- Direct V registers read, for the banks. -/
def bankReads (reads : List (Opnd × Nat)) : List Nat :=
  reads.flatMap (fun x => match x.1 with
    | .v r => span r.val x.2
    | _ => [])

def vxOps (ops : List (Opnd × Nat)) : List Nat :=
  ops.filterMap (fun x => match x.1 with
    | .vx k => some k.val
    | _ => none)

/-! ### Lane-wise instructions -/

/-- What one lane computes from. -/
structure LaneIn where
  mr : W64
  guard : Bool
  lane : Nat
  z : Nat
  a : Nat
  b : Nat
  d : Nat

/-- What it gives: the result, its flags, and its LFSR afterwards. -/
structure LaneOut where
  val : Nat
  flags : Nat := 0
  z : Nat

/-- A lane-wise instruction: its word, what decode asks of it, its operands with their counts of registers, and what a
lane computes. -/
structure LaneForm where
  op : Nat
  word : W32
  words : Nat := 1
  fields : List (Nat × Bool)
  tyOk : Bool
  is64 : Bool
  dst : Opnd × Nat
  srcs : List (Opnd × Nat)
  readD : Bool := false
  all : Bool := false           -- every active lane takes part (SEL)
  f : LaneIn → LaneOut

/-- What the passes have computed so far: lane, cycle and result of each, latest first. -/
structure LaneAcc where
  vals : List (Nat × Nat × Nat) := []
  flags : Nat := 0
  lf : Cells W32

def laneStep (t : Team) (f : LaneForm) (k : Taken) (p : Pass) (acc : LaneAcc) (l : Nat) : LaneAcc :=
  let g := t.guard p.at_ l
  if t.active l && (f.all || g) then
    let v (i : Nat) : Nat := match k.srcs[i]?, f.srcs[i]? with
      | some x, some y => x.word t p.at_ y.2 l
      | _, _ => 0
    let o := f.f { mr := t.mr, guard := g, lane := l, z := zGet acc.lf l, a := v 0, b := v 1,
                   d := if f.readD then readGrp t p.at_ f.dst.2 f.dst.1 l else 0 }
    { vals := (l, p.at_, o.val) :: acc.vals, flags := acc.flags ||| o.flags ||| (if g then k.flags l else 0),
      lf := zSet acc.lf l o.z }
  else acc

/-- The machine after a queue pop, a drain's advance, new flags and LFSRs. -/
def takenDone (k : Taken) (ti : Nat) (srcs : List (Opnd × Nat)) (flags : Nat) (lf : Cells W32) : State :=
  k.s.updTeam ti (fun t => (popSrcs { t with drain := k.drain, lfsr := lf } srcs).addFlags flags)

/-- A lane-wise instruction (R315). -/
def laneOp (s : State) (ti : Nat) (t : Team) (f : LaneForm) : Except Stop State := do
  decodeChecks t f.word false f.fields (f.tyOk && dqTyOk t.mr f.srcs)
  let ops := f.dst :: f.srcs
  let reads := if f.readD then f.dst :: f.srcs else f.srcs
  rangeChecks t ops
  let first := guardUse t :: indexUses t ops
  let uses := ops.map (grpUse t)
  let ps ← passesOf s ti f.op (passWords t f.is64) (bankReads reads) (vxOps ops) (first ++ uses)
  vxChecks t ps ops (activeLanes t)
  poisonChecks t ps reads ((activeLanes t).filter (fun l => f.all || t.guard (passAt ps l) l))
  let k ← takeSrcs (settle s ti (firstPass ps)) ti f.srcs
  pushRoom k.s (k.s.team ti) f.dst.1 f.dst.2
  let chk := (s.crewRec t.crew).chk
  undersized chk t ps first (fun _ l => t.active l)
  undersized chk t ps uses (fun c l => t.active l && (f.all || t.guard c l))
  let t := k.s.team ti
  let acc := ps.foldl (fun acc p => (span p.lo p.n).foldl (laneStep t f k p) acc) { lf := k.lf }
  let vals := acc.vals.reverse
  let il := fromQueue f.srcs
  let writes := vals.flatMap (fun v => (grpWrites t f.dst.2 f.dst.1 v.2.1 v.1 v.2.2).map (fun w =>
    ({ reg := w.1, lane := w.2.1, val := w.2.2, due := v.2.1 + latencyOf f.op, pc := t.pc, il := il } : PendWrite)))
  let s := takenDone k ti f.srcs acc.flags acc.lf
  let s := match f.dst.1 with
    | .q _ => pushEntries s t f.dst.1 (entriesOf (vals.map (fun v => (v.1, v.2.2))) f.dst.2)
    | _ => s
  .ok (retire s ti f.op f.words ps false writes)

/-! ### Lane operations -/

/-- What a lane operation computes from, once every source has been read (R338). -/
structure WideIn where
  mr : W64
  lanes : Nat
  cond : Nat → Bool             -- C(l)
  a : Nat → Nat
  b : Nat → Nat
  x : Nat                       -- its S operands, in order
  y : Nat
  lf : Cells W32

/-- Its results: the lanes written, or the S register's value. -/
structure WideOut where
  vals : List (Nat × Nat) := []
  sval : Nat := 0
  flags : Nat := 0
  lf : Cells W32

/-- A lane operation: `far` gives the lanes of Va that it reads beside those of C(l), from the values of b and of the
S operands. -/
structure WideForm where
  op : Nat
  word : W32
  fields : List (Nat × Bool)
  tyOk : Bool
  dst : Opnd × Nat
  srcs : List (Opnd × Nat)
  sregs : List Opnd := []
  far : WideIn → List Nat := fun _ => []
  near : Bool := true           -- Va is read in the lanes of C(l)
  f : WideIn → WideOut

/-- A use in given lanes, each at the cycle its sources are read (08 R168). -/
def earlyIn (t : Team) (ps : List Pass) (x : Opnd × Nat) (lanes : List Nat) : Option (Nat × W64) :=
  match x.1 with
  | .s n => (t.pending (lastPass ps) (.s n.val) 0).map (fun w => (x.1.code, w.pc))
  | _ => lanes.findSome? (fun l => (grpRegs t x.2 x.1 (passAt ps l) l).findSome? (fun r =>
      (t.pending (passAt ps l) r l).map (fun w => (x.1.code, w.pc))))

/-- A lane operation (R338). -/
def wideOp (s : State) (ti : Nat) (t : Team) (f : WideForm) : Except Stop State := do
  decodeChecks t f.word false f.fields (f.tyOk && dqTyOk t.mr f.srcs)
  let ss := f.sregs.map (fun o => (o, 1))
  let ops := f.dst :: f.srcs
  rangeChecks t ops
  let first := guardUse t :: indexUses t ops
  let ps ← passesOf s ti f.op (passWords t (mr64 t.mr)) (bankReads f.srcs) (vxOps ops) (first ++ (ops ++ ss).map (grpUse t))
  let cond (ps : List Pass) (l : Nat) : Bool := t.active l && t.guard (passAt ps l) l
  let reader (t : Team) (ps : List Pass) (lf : Cells W32) (src : Nat → Nat → Nat) : WideIn :=
    { mr := t.mr, lanes := t.lanes, cond := fun l => cond ps l, a := src 0, b := src 1,
      x := (match f.sregs[0]? with | some o => readOp t (lastPass ps) true o 0 | none => 0),
      y := (match f.sregs[1]? with | some o => readOp t (lastPass ps) true o 0 | none => 0), lf := lf }
  let words (k : Taken) (ps : List Pass) (i l : Nat) : Nat := match k.srcs[i]?, f.srcs[i]? with
    | some x, some y => x.word (k.s.team ti) (passAt ps l) y.2 l
    | _, _ => 0
  let taken := takeSrcs (settle s ti (firstPass ps)) ti f.srcs
  match taken with
  | .error .hold => throw .hold
  | .error (.block st) => throw (.block st)
  | _ => pure ()
  -- the lanes of Va that are read beside those of C(l), with what a queue or the drain gives as b
  let far := match taken with
    | .ok k => f.far (reader (k.s.team ti) ps k.lf (words k ps))
    | .error _ => []
  let farRegs := match f.srcs with
    | x :: _ => far.flatMap (fun l => (grpRegs t x.2 x.1 (lastPass ps) l).map (fun r => (r, l)))
    | [] => []
  if farRegs.any (fun r => t.flight.any (fun g => g.regs.contains r.1)) then throw .hold
  let ps := bumpLast ps (farRegs.foldl (fun m r => max m (t.ilDue r.1 r.2)) 0)
  let near := (activeLanes t).filter (cond ps)
  let lanesOf (i : Nat) : List Nat := if i = 0 then (if f.near then near else []) ++ far else near
  let reads := (List.range f.srcs.length).zip f.srcs
  vxChecks t ps ops (activeLanes t)
  vxChecks t ps (f.srcs.take 1) far
  match (List.range t.lanes).find? (fun l => reads.any (fun x =>
      (lanesOf x.1).contains l && (poisonLane t ps [x.2] [l]).isSome)) with
  | some l => throw (trapAt 0x0F (2 ^ 64 - 1) 0 (some l))
  | none => pure ()
  if sPoisoned (t.commit (lastPass ps)) f.sregs then throw (trapAt 0x0F (2 ^ 64 - 1) 0)
  let k ← taken
  pushRoom k.s (k.s.team ti) f.dst.1 f.dst.2
  if (s.crewRec t.crew).chk && !t.pend.isEmpty then
    undersized true t ps first (fun _ l => t.active l)
    match (earlyIn t ps f.dst near).orElse (fun _ => (reads.findSome? (fun x => earlyIn t ps x.2 (lanesOf x.1))).orElse
      (fun _ => ss.findSome? (fun x => earlyIn t ps x []))) with
    | some (code, pc) => throw (trapAt 0x06 code pc.toNat)
    | none => pure ()
  let t := k.s.team ti
  let o := f.f (reader t ps k.lf (words k ps))
  let il := fromQueue f.srcs
  let due := lastPass ps + latencyOf f.op
  let pw (w : Reg × Nat × W64) : PendWrite := { reg := w.1, lane := w.2.1, val := w.2.2, due := due, pc := t.pc, il := il }
  let writes := match f.dst.1 with
    | .s n => [pw (.s n.val, 0, w64 o.sval)]
    | .zr => []
    | _ => o.vals.flatMap (fun v => (grpWrites t f.dst.2 f.dst.1 (passAt ps v.1) v.1 v.2).map pw)
  let dq := near.foldl (fun m l => m ||| k.flags l) 0
  let s := takenDone k ti f.srcs (o.flags ||| dq) o.lf
  let s := match f.dst.1 with
    | .q _ => pushEntries s t f.dst.1 (entriesOf o.vals f.dst.2)
    | _ => s
  .ok (retire s ti f.op 1 ps true writes)

end Sys2Proof.Machine
end

