-- ==== Sys2Proof/Machine/Arith.lean ====
section
/-! DEFINITION. What one element computes: integer, fixed-point and floating-point arithmetic, selections, compares and
conversions (13 R255 to R266, 17 R320 to R337). -/

namespace Sys2Proof.Machine

/-! ### Elements of a lane (17 R317) -/

/-- Elements of a type in one lane's operand. -/
def elemCount (ty : Nat) : Nat := if tyWidth ty < 32 then 32 / tyWidth ty else 1

/-- One element's result: its bits and flags, and whether it was rounded under MR.rnd. -/
structure ElemOut where
  val : Nat
  flags : Nat := 0
  rounds : Bool := false

/-- Compute n elements of width w from element k on, in ascending order (R317, R259). -/
def elemLoop (m : W64) (w : Nat) (i : LaneIn) (f : Nat → Nat → Nat → Nat → ElemOut) : Nat → Nat → Nat → LaneOut
  | _, 0, z => { val := 0, z := z }
  | k, n + 1, z =>
    let e := f z (bitsN i.a (k * w) w) (bitsN i.b (k * w) w) (bitsN i.d (k * w) w)
    let r := elemLoop m w i f (k + 1) n (if e.rounds then zStep m z else z)
    { val := e.val % 2 ^ w * 2 ^ (k * w) + r.val, flags := e.flags ||| r.flags, z := r.z }

/-- An element-wise operation of MR.type; `f` is given the LFSR and the elements of a, b and d. -/
def elemWise (f : Nat → Nat → Nat → Nat → ElemOut) (i : LaneIn) : LaneOut :=
  let w := tyWidth (mrType i.mr)
  elemLoop i.mr w i f 0 (elemCount (mrType i.mr)) i.z

/-! ### Integers and fixed point (13 R261) -/

/-- An element as an integer, by the signedness of its type. -/
def elemInt (ty x : Nat) : Int := if tySigned ty then sextN (tyWidth ty) x else ((x % 2 ^ tyWidth ty : Nat) : Int)
def tyMin (ty : Nat) : Int := if tySigned ty then -(2 ^ (tyWidth ty - 1)) else 0
def tyMax (ty : Nat) : Int := if tySigned ty then 2 ^ (tyWidth ty - 1) - 1 else 2 ^ tyWidth ty - 1
def clampInt (lo hi x : Int) : Int := if x < lo then lo else if hi < x then hi else x
/-- The range step: wrap, or clamp with MR.sat = 1. -/
def rangeStep (ty : Nat) (sat : Bool) (x : Int) : Nat :=
  wrapN (tyWidth ty) (if sat then clampInt (tyMin ty) (tyMax ty) x else x)

/-- num / den rounded under rnd to an integer (R257), and whether it was inexact. -/
def roundInt (rnd z : Nat) (neg : Bool) (num den : Nat) : Int × Bool :=
  let k := num / den
  let rem := num % den
  let k := if roundUp rnd neg (k % 2 == 1) rem den z then k + 1 else k
  (if neg then -(k : Int) else k, rem != 0)

/-- An exact fixed-point result x / den, in units of 2^-qfrac, rounded and brought into range. -/
def fixResult (m : W64) (z : Nat) (x : Int) (den : Nat) : ElemOut :=
  { val := rangeStep (mrType m) (mrSat m) (roundInt (mrRnd m) z (x < 0) x.natAbs den).1, rounds := true }

def intResult (m : W64) (x : Int) : ElemOut := { val := rangeStep (mrType m) (mrSat m) x }

/-! ### Floating point and binary8 (17 R319) -/

def mrFmt (m : W64) : Fmt := tyFmt (mrType m) (mrB8 m)
/-- An operand of MR.type, under fzi of its class. -/
def fltIn (m : W64) (x : Nat) : FV := (mrFmt m).operand (fziOf m (mrType m)) x
/-- A result rounded once to MR.type. -/
def fltOut (m : W64) (z : Nat) (v : FV × Nat) : ElemOut :=
  let r := (mrFmt m).roundV (mrRnd m) (mrSat m) (fzoOf m (mrType m)) z v.1
  { val := r.1, flags := r.2 ||| v.2, rounds := true }

/-- The class of MR.type decides: integer, fixed point, or floating point and binary8. -/
def byClass {α : Type} (m : W64) (int fix flt : α) : α :=
  if tyInt (mrType m) then int else if tyFix (mrType m) then fix else flt

def addElem (m : W64) (z a b _d : Nat) : ElemOut :=
  let ty := mrType m
  byClass m (intResult m (elemInt ty a + elemInt ty b)) (intResult m (elemInt ty a + elemInt ty b))
    (fltOut m z (FV.add (mrRnd m) (fltIn m a) (fltIn m b)))

def subElem (m : W64) (z a b _d : Nat) : ElemOut :=
  let ty := mrType m
  byClass m (intResult m (elemInt ty a - elemInt ty b)) (intResult m (elemInt ty a - elemInt ty b))
    (fltOut m z (FV.add (mrRnd m) (fltIn m a) (fltIn m b).neg))

def mulElem (m : W64) (z a b _d : Nat) : ElemOut :=
  let ty := mrType m
  let p := elemInt ty a * elemInt ty b
  byClass m (intResult m p) (fixResult m z p (2 ^ mrQ m)) (fltOut m z ((fltIn m a).mul (fltIn m b)))

def madElem (m : W64) (z a b d : Nat) : ElemOut :=
  let ty := mrType m
  let p := elemInt ty a * elemInt ty b
  byClass m (intResult m (p + elemInt ty d)) (fixResult m z (p + elemInt ty d * 2 ^ mrQ m) (2 ^ mrQ m))
    (fltOut m z (FV.fma (mrRnd m) (fltIn m a) (fltIn m b) (fltIn m d)))

/-- MULH (R321). -/
def mulhElem (m : W64) (_z a b _d : Nat) : ElemOut :=
  let ty := mrType m
  { val := wrapN (tyWidth ty) ((elemInt ty a * elemInt ty b).fdiv (2 ^ tyWidth ty)) }

/-- A floating-point operand as a selection sees it: a subnormal under fzi is the zero of its sign, a NaN canonical. -/
def selCode (m : W64) (x : Nat) : Nat :=
  let f := mrFmt m
  match fltIn m x with
  | .nan => f.nanCode
  | .fin neg n _ => if n = 0 then f.encode neg 0 0 else x
  | .inf _ => x

/-- MIN and MAX (R322); `prop` for MINP and MAXP. -/
def selElem (m : W64) (isMax prop : Bool) (a b : Nat) : Nat :=
  let ty := mrType m
  if tyInt ty || tyFix ty then
    if (if isMax then decide (elemInt ty a < elemInt ty b) else decide (elemInt ty b < elemInt ty a)) then b else a
  else
    let x := fltIn m a
    let y := fltIn m b
    if x.isNan || y.isNan then
      (if prop then (mrFmt m).nanCode else if x.isNan then selCode m b else selCode m a)
    else if (if isMax then x.lt true y else y.lt true x) then selCode m b else selCode m a

def absElem (m : W64) (_z a _b _d : Nat) : ElemOut :=
  let ty := mrType m
  let i := elemInt ty a
  if tyInt ty || tyFix ty then intResult m (if i < 0 then -i else i)
  else
    let f := mrFmt m
    match fltIn m a with
    | .nan => { val := f.nanCode }
    | .fin _ n _ => { val := if n = 0 then f.encode false 0 0 else if f.signed then a % 2 ^ (f.w - 1) else a }
    | .inf _ => { val := if f.signed then a % 2 ^ (f.w - 1) else a }

def negElem (m : W64) (_z a _b _d : Nat) : ElemOut :=
  let ty := mrType m
  if tyInt ty || tyFix ty then
    (if tySigned ty then intResult m (-elemInt ty a)
     else { val := if mrSat m then 0 else wrapN (tyWidth ty) (-elemInt ty a) })
  else
    let f := mrFmt m
    let flip := if f.signed then a ^^^ 2 ^ (f.w - 1) else if mrSat m then 0 else f.nanCode
    let nv := if f.signed || mrSat m then 0 else 1
    match fltIn m a with
    | .nan => { val := f.nanCode }
    | .fin neg n _ => if n = 0 then { val := f.encode (!neg) 0 0 } else { val := flip, flags := nv }
    | .inf _ => { val := flip, flags := nv }

/-- DIV (R324). -/
def divElem (m : W64) (z a b _d : Nat) : ElemOut :=
  let ty := mrType m
  let x := elemInt ty a
  let y := elemInt ty b
  byClass m
    (if y = 0 then { val := 2 ^ tyWidth ty - 1 } else intResult m (x.tdiv y))
    (if y = 0 then { val := 2 ^ tyWidth ty - 1 } else fixResult m z ((if y < 0 then -x else x) * 2 ^ mrQ m) y.natAbs)
    (fltOut m z ((fltIn m a).div (fltIn m b)))

/-- REM (R324). -/
def remElem (m : W64) (_z a b _d : Nat) : ElemOut :=
  let ty := mrType m
  let x := elemInt ty a
  let y := elemInt ty b
  { val := if y = 0 then a else wrapN (tyWidth ty) (x - y * x.tdiv y) }

/-! ### Bits (17 R325) -/

def shiftAmount (w b : Nat) : Nat := b % w
def shlElem (m : W64) (_z a b _d : Nat) : ElemOut :=
  let w := tyWidth (mrType m)
  { val := a * 2 ^ shiftAmount w b % 2 ^ w }
def shrElem (m : W64) (_z a b _d : Nat) : ElemOut :=
  let w := tyWidth (mrType m)
  { val := wrapN w ((elemInt (mrType m) a).fdiv (2 ^ shiftAmount w b)) }
def rotElem (m : W64) (_z a b _d : Nat) : ElemOut :=
  let w := tyWidth (mrType m)
  let s := shiftAmount w b
  { val := a * 2 ^ s % 2 ^ w + a / 2 ^ (w - s) }
def bitList (w a : Nat) : List Bool := (List.range w).map a.testBit
def clzElem (m : W64) (_z a _b _d : Nat) : ElemOut :=
  let w := tyWidth (mrType m)
  { val := if a = 0 then w else w - 1 - Nat.log2 a }
def popcElem (m : W64) (_z a _b _d : Nat) : ElemOut := { val := ((bitList (tyWidth (mrType m)) a).filter id).length }
def brevElem (m : W64) (_z a _b _d : Nat) : ElemOut :=
  { val := (bitList (tyWidth (mrType m)) a).foldl (fun r b => 2 * r + (if b then 1 else 0)) 0 }

/-! ### Immediates (17 R326) -/

/-- imm16 as a value of a floating-point class: read as binary16. -/
def immFlt (imm : BitVec 16) : FV := fmtF16.value imm.toNat

def moviElem (imm : BitVec 16) (m : W64) (z _a _b _d : Nat) : ElemOut :=
  let i : ElemOut := { val := wrapN (tyWidth (mrType m)) imm.toInt }
  byClass m i i (fltOut m z (immFlt imm, 0))

def addiElem (imm : BitVec 16) (m : W64) (z _a _b d : Nat) : ElemOut :=
  let i := intResult m (elemInt (mrType m) d + imm.toInt)
  byClass m i i (fltOut m z (FV.add (mrRnd m) (fltIn m d) (immFlt imm)))

/-- LI32's value for MR.type, over its 32 or 64 bits. -/
def li32Value (m : W64) (lit : W32) : Nat :=
  match mrType m with
  | 6 => wrapN 64 lit.toInt
  | 11 => (fmtF64.roundV 0 false false 0 (fmtF32.value lit.toNat)).1
  | _ => lit.toNat

/-! ### Compares (17 R328) -/

/-- Less, equal, and unordered of two elements. -/
def cmpElem (m : W64) (a b : Nat) : Bool × Bool × Bool :=
  let ty := mrType m
  if tyInt ty || tyFix ty then (decide (elemInt ty a < elemInt ty b), decide (elemInt ty a = elemInt ty b), false)
  else
    let x := fltIn m a
    let y := fltIn m b
    (x.lt false y, x.eqv y, x.isNan || y.isNan)

/-! ### Special functions and floating-point operations (17 R329 to R332) -/

/-- A function of R329: correctly rounded in 16 bits; bounded in 32 and 64. -/
def funElem (op ulps : Nat) (g : FV → FuncVal) (m : W64) (z a _b _d : Nat) : ElemOut :=
  let ty := mrType m
  let v := g (fltIn m a)
  if tyWidth ty < 32 then
    let r := fltOut m z (v.v, v.flags)
    r
  else
    let fz := (if fziOf m ty then 1 else 0) + (if fzoOf m ty then 2 else 0)
    let r := boundedRound (mrFmt m) (fzoOf m ty) op fz a ulps v
    { val := r.1, flags := r.2 }

/-- SQRT is correctly rounded in every type. -/
def sqrtElem (m : W64) (z a _b _d : Nat) : ElemOut :=
  let v := funSqrt (fltIn m a)
  fltOut m z (v.v, v.flags)

/-- FLOOR, CEIL, TRUNC and RINT (R330); a binary8 integer beyond F is written as an overflow (log 21). -/
def integralElem (rnd : W64 → Nat) (rint : Bool) (m : W64) (z a _b _d : Nat) : ElemOut :=
  let f := mrFmt m
  let r : Nat × Nat :=
    match fltIn m a with
    | .nan => (f.nanCode, 0)
    | .inf _ => (a, 0)
    | .fin neg n d =>
      let (k, inexact) := roundInt (rnd m) z neg n d
      ((f.round 0 (mrSat m) false 0 neg k.natAbs 1).1, if rint && inexact then 16 else 0)
  { val := r.1, flags := r.2, rounds := rint }

/-- FCLASS (R331), at the element's width. -/
def fclassElem (m : W64) (_z a _b _d : Nat) : ElemOut :=
  let f := mrFmt m
  let k := match f.value a with
    | .inf neg => if neg then 0 else 7
    | .nan => if a.testBit (f.p - 2) then 9 else 8
    | .fin neg n _ =>
      if n = 0 then (if neg then 3 else 4)
      else if f.isSub a then (if neg then 2 else 5) else (if neg then 1 else 6)
  { val := 2 ^ k }

/-- SCALB (R332). -/
def scalbElem (m : W64) (z a b _d : Nat) : ElemOut :=
  let n := clampInt (-5000) 5000 (sextN (tyWidth (mrType m)) b)
  match fltIn m a with
  | .fin neg p q =>
    if p = 0 then { val := (mrFmt m).encode neg 0 0, rounds := true }
    else fltOut m z (if n < 0 then .fin neg p (q * 2 ^ n.natAbs) else .fin neg (p * 2 ^ n.natAbs) q, 0)
  | .inf _ => { val := a, rounds := true }
  | .nan => { val := (mrFmt m).nanCode, rounds := true }

/-! ### Conversion (13 R262) -/

/-- A source element of MR.src as an exact value, and whether it is floating-point. -/
def srcValue (m : W64) (x : Nat) : FV × Bool :=
  let ty := mrSrcType m
  if tyFlt ty || ty == 12 || ty == 13 then ((tyFmt ty (mrSrcB8 m)).operand (fziOf m ty) x, true)
  else
    let i := elemInt ty x
    (.fin (i < 0) i.natAbs (if tyFix ty then 2 ^ mrSrcQ m else 1), false)

/-- To an integer or fixed-point type: from a float clamped, NaN to 0; otherwise the range step, clamped under `sat`. -/
def toInt (m : W64) (ty q : Nat) (sat : Bool) (z : Nat) (v : FV × Bool) : ElemOut :=
  let w := tyWidth ty
  match v.1 with
  | .nan => { val := 0, flags := 1, rounds := true }
  | .inf neg => { val := wrapN w (if neg then tyMin ty else tyMax ty), flags := 1, rounds := true }
  | .fin neg n d =>
    let (k, inexact) := roundInt (mrRnd m) z neg (n * 2 ^ q) d
    if v.2 then
      (if k < tyMin ty ∨ tyMax ty < k then { val := wrapN w (clampInt (tyMin ty) (tyMax ty) k), flags := 1, rounds := true }
       else { val := wrapN w k, flags := if inexact then 16 else 0, rounds := true })
    else { val := rangeStep ty sat k, rounds := true }

/-- One element of CVT. -/
def cvtElem (m : W64) (z x : Nat) : ElemOut :=
  let ty := mrType m
  let v := srcValue m x
  if tyInt ty || tyFix ty then toInt m ty (if tyFix ty then mrQ m else 0) (mrSat m) z v
  else fltOut m z (v.1, 0)

/-- The elements of a CVT group (R334). -/
def cvtLoop (m : W64) (ws wd x : Nat) : Nat → Nat → Nat → LaneOut
  | _, 0, z => { val := 0, z := z }
  | e, n + 1, z =>
    let o := cvtElem m z (bitsN x (e * ws) ws)
    let r := cvtLoop m ws wd x (e + 1) n (zStep m z)
    { val := o.val % 2 ^ wd * 2 ^ (e * wd) + r.val, flags := o.flags ||| r.flags, z := r.z }

/-- The elements of CVTP: those of Va, then those of Vb (R335). -/
def cvtpLoop (m : W64) (ws wd x : Nat) : Nat → Nat → Nat → LaneOut
  | _, 0, z => { val := 0, z := z }
  | e, n + 1, z =>
    let o := toInt m (mrType m) 0 true z (srcValue m (bitsN x (e * ws) ws))
    let r := cvtpLoop m ws wd x (e + 1) n (zStep m z)
    { val := o.val % 2 ^ wd * 2 ^ (e * wd) + r.val, flags := o.flags ||| r.flags, z := r.z }

/-! ### DOT4 (17 R337) -/

def byteOf (x k : Nat) : Nat := bitsN x (8 * k) 8

def dot4 (i : LaneIn) : LaneOut :=
  let m := i.mr
  let ks := List.range 4
  if tyInt (mrType m) then
    let e (x : Nat) (k : Nat) : Int := elemInt (mrType m) (byteOf x k)
    let d : Int := if tySigned (mrType m) then sextN 32 i.d else ((i.d % 2 ^ 32 : Nat) : Int)
    let sum := ks.foldl (fun r k => r + e i.a k * e i.b k) d
    { val := rangeStep (if tySigned (mrType m) then 4 else 5) (mrSat m) sum, z := i.z }
  else
    let f := mrFmt m
    let e (x k : Nat) : FV := f.operand (mrFziN m) (byteOf x k)
    let d := fmtF32.operand (mrFziW m) i.d
    let nan := d.isNan || ks.any (fun k => (e i.a k).isNan || (e i.b k).isNan)
    let z := zStep m i.z
    if nan then { val := fmtF32.nanCode, z := z }
    else
      let s := ks.foldl (fun (r : FV × Nat) k =>
        let p := (e i.a k).mul (e i.b k)
        let q := r.1.add (mrRnd m) p.1
        (q.1, r.2 ||| p.2 ||| q.2)) (d, 0)
      let r := fmtF32.roundV (mrRnd m) (mrSat m) (mrFzoW m) i.z s.1
      { val := r.1, flags := r.2 ||| s.2, z := z }

/-! ### QNT and DQNT (13 R263 to R266) -/

/-- x × 2^k. -/
def FV.scale (x : FV) (k : Int) : FV :=
  match x with
  | .fin neg n d => if k < 0 then .fin neg n (d * 2 ^ k.natAbs) else .fin neg (n * 2 ^ k.natAbs) d
  | v => v

def FV.isZero : FV → Bool
  | .fin _ n _ => n == 0
  | _ => false
def FV.isNeg : FV → Bool
  | .fin neg _ _ => neg
  | .inf neg => neg
  | .nan => false
def FV.isFin : FV → Bool
  | .fin .. => true
  | _ => false

/-- Enc of R265: saturated whatever MR.sat, but a negative value in an unsigned format as R262 gives. -/
def qntEnc (m : W64) (rnd z : Nat) (v : FV) : Nat × Nat :=
  let f := mrFmt m
  f.roundV rnd (if !f.signed && v.isNeg && !v.isZero then mrSat m else true) (mrFzoN m) z v

/-- Under(s). -/
def qntUnder (m : W64) (xs : List FV) (s : Int) : Nat :=
  (xs.filter (fun x => !x.isZero && !(!(mrFmt m).signed && x.isNeg) && (qntEnc m 0 0 (x.scale (127 - s))).1 == 0)).length

/-- Ceil(Log2(M / F)) for M = num / den > 0. -/
def ceilLog2 (num den : Nat) : Int :=
  let e := ratLog2 num den
  if cmpDyadic num den 1 e == .eq then e else e + 1

/-- The scale of a group: g, and the count u. -/
def qntScale (m : W64) (thr : Nat) (xs : List FV) : Int × Nat :=
  let f := mrFmt m
  let (fm, fe) := f.maxMag
  -- the largest magnitude, as a ratio
  let big := xs.foldl (fun (r : Nat × Nat) x => match x with
    | .fin _ n d => if r.1 * d < n * r.2 then (n, d) else r
    | _ => r) (0, 1)
  let s : Int :=
    if big.1 = 0 then 127
    else
      let k := ceilLog2 (if fe < 0 then big.1 * 2 ^ fe.natAbs else big.1) (if fe < 0 then big.2 * fm else big.2 * fm * 2 ^ fe.natAbs)
      clampInt 0 254 (127 + k)
  let u := qntUnder m xs s
  if thr < u ∧ 0 < s then (s - 1, qntUnder m xs (s - 1)) else (s, u)

/-- One group quantised: its 32 codes, g, u, its flags, and the LFSRs. -/
structure QntOut where
  codes : List Nat
  g : Nat
  u : Nat := 0
  flags : Nat := 0
  lf : Cells W32

def qntCodes (m : W64) (s : Int) (lane0 : Nat) : Nat → List FV → Cells W32 → List Nat × Nat × Cells W32
  | _, [], lf => ([], 0, lf)
  | e, x :: r, lf =>
    let l := lane0 + e / 4
    let z := zGet lf l
    let c := qntEnc m (mrRnd m) z (x.scale (127 - s))
    let (cs, fl, lf) := qntCodes m s lane0 (e + 1) r (zSet lf l (zStep m z))
    (c.1 :: cs, c.2 ||| fl, lf)

def qntGroup (m : W64) (thr lane0 : Nat) (words : List Nat) (lf : Cells W32) : QntOut :=
  let xs := words.map (fmtF32.operand (mrFziW m))
  if xs.any (fun x => !x.isFin) then { codes := List.replicate 32 0, g := 0xFF, lf := lf }
  else
    let (s, u) := qntScale m thr xs
    let (cs, fl, lf) := qntCodes m s lane0 0 xs lf
    { codes := cs, g := s.toNat, u := u, flags := fl, lf := lf }

/-- One group expanded to F32 (R266). -/
def dqntCodes (m : W64) (g lane0 : Nat) : Nat → List Nat → Cells W32 → List Nat × Nat × Cells W32
  | _, [], lf => ([], 0, lf)
  | e, c :: r, lf =>
    let l := lane0 + e / 4
    let z := zGet lf l
    let v := if g = 0xFF then FV.nan else ((tyFmt 13 (mrSrcB8 m)).operand (mrFziN m) c).scale ((g : Int) - 127)
    let o := fmtF32.roundV (mrRnd m) (mrSat m) (mrFzoW m) z v
    let (cs, fl, lf) := dqntCodes m g lane0 (e + 1) r (zSet lf l (zStep m z))
    (o.1 :: cs, o.2 ||| fl, lf)

end Sys2Proof.Machine
end

