-- ==== Sys2Proof/Machine/Vector.lean ====
section
/-! DEFINITION. Opcodes 0x20 to 0x56: vector arithmetic, logic, moves, special functions, conversion, quantisation and dot
products (17 R315 to R337). -/

namespace Sys2Proof.Machine

/-! ### Types and operands -/

/-- Registers of an operand of MR.type. -/
def mrWords (m : W64) : Nat := if mr64 m then 2 else 1
def srcOk (t : Team) (o : Opnd) : Bool := okSrc (mr64 t.mr) o && qReadable t o
def dstOk (s : State) (t : Team) (o : Opnd) : Bool := okDst (mr64 t.mr) o && qWritable s t o
/-- A destination that is read too. -/
def rdDstOk (t : Team) (o : Opnd) : Bool := okRdDst (mr64 t.mr) o

def tyNotX (ty : Nat) : Bool := ty != 13
def tyFltB8 (ty : Nat) : Bool := tyFlt ty || ty == 12
/-- Types in which ADD, SUB, MOVI and ADDI round. -/
def rndFlt (ty : Nat) : Bool := tyFltB8 ty
/-- Types in which MUL, MAD and DIV round. -/
def rndMul (ty : Nat) : Bool := tyFltB8 ty || tyFix ty
def rndNever (_ : Nat) : Bool := false
/-- MR.type is valid and accepted, and MR.rnd is not reserved where the instruction rounds (13 R250, 17 R318). -/
def tyCheck (m : W64) (tys rnds : Nat → Bool) : Bool :=
  mrTyValid m && tys (mrType m) && !(rnds (mrType m) && mrRnd m == 7)

/-! ### Shapes -/

/-- Vd := f Va Vb, element by element. -/
def elem2 (op : Nat) (tys rnds : Nat → Bool) (f : W64 → Nat → Nat → Nat → Nat → ElemOut) (d a b : Opnd) (s : State) :
    Host.Outcome State Fault Refusal :=
  runInstr s (fun ti t => laneOp s ti t
    { op := op, word := wordF3 op d a b, fields := [fld d (dstOk s t), fld a (srcOk t), fld b (srcOk t)],
      tyOk := tyCheck t.mr tys rnds, is64 := mr64 t.mr, dst := (d, mrWords t.mr),
      srcs := [(a, mrWords t.mr), (b, mrWords t.mr)], f := elemWise (f t.mr) })

/-- Vd := f Vd Va Vb, element by element. -/
def elem3 (op : Nat) (tys rnds : Nat → Bool) (f : W64 → Nat → Nat → Nat → Nat → ElemOut) (d a b : Opnd) (s : State) :
    Host.Outcome State Fault Refusal :=
  runInstr s (fun ti t => laneOp s ti t
    { op := op, word := wordF3 op d a b, fields := [fld d (rdDstOk t), fld a (srcOk t), fld b (srcOk t)],
      tyOk := tyCheck t.mr tys rnds, is64 := mr64 t.mr, dst := (d, mrWords t.mr),
      srcs := [(a, mrWords t.mr), (b, mrWords t.mr)], readD := true, f := elemWise (f t.mr) })

/-- Vd := f Va, element by element; b = 0x00. -/
def elem1 (op : Nat) (tys rnds : Nat → Bool) (f : W64 → Nat → Nat → Nat → Nat → ElemOut) (d a b : Opnd) (s : State) :
    Host.Outcome State Fault Refusal :=
  runInstr s (fun ti t => laneOp s ti t
    { op := op, word := wordF3 op d a b, fields := [fld d (dstOk s t), fld a (srcOk t), fld b okZero],
      tyOk := tyCheck t.mr tys rnds, is64 := mr64 t.mr, dst := (d, mrWords t.mr),
      srcs := [(a, mrWords t.mr)], f := elemWise (f t.mr) })

/-- A compare (R328): Pd is one bit of each lane. -/
def compareOp (op : Nat) (f : Bool × Bool × Bool → Bool) (d a b : Opnd) (s : State) : Host.Outcome State Fault Refusal :=
  runInstr s (fun ti t => laneOp s ti t
    { op := op, word := wordF3 op d a b, fields := [fld d okP, fld a (srcOk t), fld b (srcOk t)],
      tyOk := tyCheck t.mr (fun ty => (tyInt ty && decide (4 ≤ ty)) || ty == 10 || ty == 11 || ty == 15) rndNever,
      is64 := mr64 t.mr, dst := (d, 1), srcs := [(a, mrWords t.mr), (b, mrWords t.mr)],
      f := fun i => { val := if f (cmpElem i.mr i.a i.b) then 1 else 0, z := i.z } })

/-! ### Arithmetic, logic and moves -/

def execAdd (d a b : Opnd) (s : State) : Host.Outcome State Fault Refusal := elem2 0x20 tyNotX rndFlt addElem d a b s
def execSub (d a b : Opnd) (s : State) : Host.Outcome State Fault Refusal := elem2 0x21 tyNotX rndFlt subElem d a b s
def execMul (d a b : Opnd) (s : State) : Host.Outcome State Fault Refusal := elem2 0x22 tyNotX rndMul mulElem d a b s
def execMulh (d a b : Opnd) (s : State) : Host.Outcome State Fault Refusal := elem2 0x23 tyInt rndNever mulhElem d a b s
def execMad (d a b : Opnd) (s : State) : Host.Outcome State Fault Refusal := elem3 0x24 tyNotX rndMul madElem d a b s
def execMin (d a b : Opnd) (s : State) : Host.Outcome State Fault Refusal :=
  elem2 0x25 tyNotX rndNever (fun m _ a b _ => { val := selElem m false false a b }) d a b s
def execMax (d a b : Opnd) (s : State) : Host.Outcome State Fault Refusal :=
  elem2 0x26 tyNotX rndNever (fun m _ a b _ => { val := selElem m true false a b }) d a b s
def execMinp (d a b : Opnd) (s : State) : Host.Outcome State Fault Refusal :=
  elem2 0x55 tyFltB8 rndNever (fun m _ a b _ => { val := selElem m false true a b }) d a b s
def execMaxp (d a b : Opnd) (s : State) : Host.Outcome State Fault Refusal :=
  elem2 0x56 tyFltB8 rndNever (fun m _ a b _ => { val := selElem m true true a b }) d a b s
/-- CLAMP (R322): MIN(MAX(Vd, Va), Vb). -/
def execClamp (d a b : Opnd) (s : State) : Host.Outcome State Fault Refusal :=
  elem3 0x3F tyNotX rndNever (fun m _ a b d => { val := selElem m false false (selElem m true false d a) b }) d a b s
def execAbs (d a b : Opnd) (s : State) : Host.Outcome State Fault Refusal := elem1 0x27 tyNotX rndNever absElem d a b s
def execNeg (d a b : Opnd) (s : State) : Host.Outcome State Fault Refusal := elem1 0x28 tyNotX rndNever negElem d a b s
def execAnd (d a b : Opnd) (s : State) : Host.Outcome State Fault Refusal :=
  elem2 0x29 tyNotX rndNever (fun _ _ a b _ => { val := a &&& b }) d a b s
def execOr (d a b : Opnd) (s : State) : Host.Outcome State Fault Refusal :=
  elem2 0x2A tyNotX rndNever (fun _ _ a b _ => { val := a ||| b }) d a b s
def execXor (d a b : Opnd) (s : State) : Host.Outcome State Fault Refusal :=
  elem2 0x2B tyNotX rndNever (fun _ _ a b _ => { val := a ^^^ b }) d a b s
def execNot (d a b : Opnd) (s : State) : Host.Outcome State Fault Refusal :=
  elem1 0x2C tyNotX rndNever (fun m _ a _ _ => { val := 2 ^ tyWidth (mrType m) - 1 - a }) d a b s
def execShl (d a b : Opnd) (s : State) : Host.Outcome State Fault Refusal := elem2 0x2D tyInt rndNever shlElem d a b s
def execShr (d a b : Opnd) (s : State) : Host.Outcome State Fault Refusal := elem2 0x2E tyInt rndNever shrElem d a b s
def execRot (d a b : Opnd) (s : State) : Host.Outcome State Fault Refusal := elem2 0x2F tyInt rndNever rotElem d a b s
def execClz (d a b : Opnd) (s : State) : Host.Outcome State Fault Refusal := elem1 0x30 tyInt rndNever clzElem d a b s
def execPopc (d a b : Opnd) (s : State) : Host.Outcome State Fault Refusal := elem1 0x31 tyInt rndNever popcElem d a b s
def execBrev (d a b : Opnd) (s : State) : Host.Outcome State Fault Refusal := elem1 0x32 tyInt rndNever brevElem d a b s
def execDiv (d a b : Opnd) (s : State) : Host.Outcome State Fault Refusal := elem2 0x3C tyNotX rndMul divElem d a b s
def execRem (d a b : Opnd) (s : State) : Host.Outcome State Fault Refusal := elem2 0x3D tyInt rndNever remElem d a b s

/-- ADDI (R326): Result(Vd + v). -/
def execAddi (d : Opnd) (imm : BitVec 16) (s : State) : Host.Outcome State Fault Refusal :=
  runInstr s (fun ti t => laneOp s ti t
    { op := 0x33, word := wordFI 0x33 d imm, fields := [fld d (rdDstOk t)], tyOk := tyCheck t.mr tyNotX rndFlt,
      is64 := mr64 t.mr, dst := (d, mrWords t.mr), srcs := [], readD := true, f := elemWise (addiElem imm t.mr) })

/-- MOVI (R326): Result(v). -/
def execMovi (d : Opnd) (imm : BitVec 16) (s : State) : Host.Outcome State Fault Refusal :=
  runInstr s (fun ti t => laneOp s ti t
    { op := 0x35, word := wordFI 0x35 d imm, fields := [fld d (dstOk s t)], tyOk := tyCheck t.mr tyNotX rndFlt,
      is64 := mr64 t.mr, dst := (d, mrWords t.mr), srcs := [], f := elemWise (moviElem imm t.mr) })

/-- MOV copies the lane's register, or its pair (R326). -/
def execMov (d a b : Opnd) (s : State) : Host.Outcome State Fault Refusal :=
  runInstr s (fun ti t => laneOp s ti t
    { op := 0x34, word := wordF3 0x34 d a b, fields := [fld d (dstOk s t), fld a (srcOk t), fld b okZero],
      tyOk := tyCheck t.mr (fun _ => true) rndNever, is64 := mr64 t.mr, dst := (d, mrWords t.mr), srcs := [(a, mrWords t.mr)],
      f := fun i => { val := i.a, z := i.z } })

/-- SEL writes every active lane, from Va or Vb by its guard (R327). -/
def execSel (d a b : Opnd) (s : State) : Host.Outcome State Fault Refusal :=
  runInstr s (fun ti t => laneOp s ti t
    { op := 0x36, word := wordF3 0x36 d a b, fields := [fld d (dstOk s t), fld a (srcOk t), fld b (srcOk t)],
      tyOk := tyCheck t.mr (fun _ => true) rndNever, is64 := mr64 t.mr, dst := (d, mrWords t.mr),
      srcs := [(a, mrWords t.mr), (b, mrWords t.mr)], all := true,
      f := fun i => { val := if i.guard then i.a else i.b, z := i.z } })

/-- LI32 writes its literal as MR.type takes it (R326). -/
def execLi32 (d a b : Opnd) (lit : W32) (s : State) : Host.Outcome State Fault Refusal :=
  runInstr s (fun ti t => laneOp s ti t
    { op := 0x3E, word := wordF3 0x3E d a b, words := 2, fields := [fld d (dstOk s t), fld a okZr, fld b okZr],
      tyOk := tyCheck t.mr (fun _ => true) rndNever, is64 := mr64 t.mr, dst := (d, mrWords t.mr), srcs := [],
      f := fun i => { val := li32Value i.mr lit, z := i.z } })

def execCmpEq (d a b : Opnd) (s : State) : Host.Outcome State Fault Refusal := compareOp 0x37 (fun c => c.2.1) d a b s
def execCmpNe (d a b : Opnd) (s : State) : Host.Outcome State Fault Refusal := compareOp 0x38 (fun c => !c.2.1) d a b s
def execCmpLt (d a b : Opnd) (s : State) : Host.Outcome State Fault Refusal := compareOp 0x39 (fun c => c.1) d a b s
def execCmpLe (d a b : Opnd) (s : State) : Host.Outcome State Fault Refusal := compareOp 0x3A (fun c => c.1 || c.2.1) d a b s
def execCmpUn (d a b : Opnd) (s : State) : Host.Outcome State Fault Refusal := compareOp 0x3B (fun c => c.2.2) d a b s

/-! ### Special functions and floating-point operations -/

/-- Types of EXP2 to ERF. -/
def tyFun (ty : Nat) : Bool := ty == 8 || ty == 9 || ty == 10
/-- The bounded functions read MR.rnd in 16 bits only (13 R250). -/
def rndFun (ty : Nat) : Bool := ty == 8 || ty == 9

def execSqrt (d a b : Opnd) (s : State) : Host.Outcome State Fault Refusal := elem1 0x40 tyFlt rndFlt sqrtElem d a b s
def execRsq (d a b : Opnd) (s : State) : Host.Outcome State Fault Refusal := elem1 0x41 tyFlt rndFun (funElem 0x41 1 funRsq) d a b s
def execRcp (d a b : Opnd) (s : State) : Host.Outcome State Fault Refusal := elem1 0x42 tyFlt rndFun (funElem 0x42 1 funRcp) d a b s
def execExp2 (d a b : Opnd) (s : State) : Host.Outcome State Fault Refusal := elem1 0x43 tyFun rndFun (funElem 0x43 1 funExp2) d a b s
def execLog2 (d a b : Opnd) (s : State) : Host.Outcome State Fault Refusal := elem1 0x44 tyFun rndFun (funElem 0x44 1 funLog2) d a b s
def execSin (d a b : Opnd) (s : State) : Host.Outcome State Fault Refusal := elem1 0x45 tyFun rndFun (funElem 0x45 2 funSin) d a b s
def execCos (d a b : Opnd) (s : State) : Host.Outcome State Fault Refusal := elem1 0x46 tyFun rndFun (funElem 0x46 2 funCos) d a b s
def execTanh (d a b : Opnd) (s : State) : Host.Outcome State Fault Refusal := elem1 0x47 tyFun rndFun (funElem 0x47 2 funTanh) d a b s
def execSigm (d a b : Opnd) (s : State) : Host.Outcome State Fault Refusal := elem1 0x48 tyFun rndFun (funElem 0x48 2 funSigm) d a b s
def execErf (d a b : Opnd) (s : State) : Host.Outcome State Fault Refusal := elem1 0x49 tyFun rndFun (funElem 0x49 2 funErf) d a b s
def execFloor (d a b : Opnd) (s : State) : Host.Outcome State Fault Refusal :=
  elem1 0x4A tyFltB8 rndNever (integralElem (fun _ => 2) false) d a b s
def execCeil (d a b : Opnd) (s : State) : Host.Outcome State Fault Refusal :=
  elem1 0x4B tyFltB8 rndNever (integralElem (fun _ => 3) false) d a b s
def execTrunc (d a b : Opnd) (s : State) : Host.Outcome State Fault Refusal :=
  elem1 0x4C tyFltB8 rndNever (integralElem (fun _ => 1) false) d a b s
def execRint (d a b : Opnd) (s : State) : Host.Outcome State Fault Refusal :=
  elem1 0x4D tyFltB8 rndFlt (integralElem mrRnd true) d a b s
def execFclass (d a b : Opnd) (s : State) : Host.Outcome State Fault Refusal := elem1 0x4E tyFlt rndNever fclassElem d a b s
def execScalb (d a b : Opnd) (s : State) : Host.Outcome State Fault Refusal := elem2 0x4F tyFlt rndFlt scalbElem d a b s

/-! ### Conversion, quantisation and dot products -/

/-- CVT (R334): n elements from ns registers of MR.src into nd registers of MR.type. -/
def execCvt (d a b : Opnd) (s : State) : Host.Outcome State Fault Refusal :=
  runInstr s (fun ti t =>
    let m := t.mr
    let ws := tyWidth (mrSrcType m)
    let wd := tyWidth (mrType m)
    let n := max 1 (32 / min ws wd)
    let ns := n * ws / 32
    let nd := n * wd / 32
    let valid := decide (mrSrcType m < 16)
    let isX (o : Opnd) : Bool := match o with
      | .x _ => true
      | _ => false
    let aOk (o : Opnd) : Bool := okSrc (valid && decide (mrType m < 16) && tyIs64 (mrSrcType m)) o && qReadable t o &&
      !(isX o && mr64 m) && (ns == 1 || !valid || mrType m ≥ 16 || !(o == .lid || o == .dq))
    laneOp s ti t
      { op := 0x50, word := wordF3 0x50 d a b, fields := [fld d (dstOk s t), fld a aOk, fld b okZero],
        tyOk := mrTyValid m && mrSrcValid m && mrType m != 13 && mrSrcType m != 13 && mrRnd m != 7,
        is64 := mr64 m, dst := (d, nd), srcs := [(a, ns)],
        f := fun i => cvtLoop i.mr ws wd i.a 0 n i.z })

/-- The pairs of types that CVTP takes (R335). -/
def cvtpOk (ty src : Nat) : Bool :=
  ((ty == 2 || ty == 3) && (src == 4 || src == 5 || src == 10)) ||
  ((ty == 0 || ty == 1) && (src == 2 || src == 3 || src == 8 || src == 9))

/-- CVTP (R335): the elements of Va, then of Vb, into half their width. -/
def execCvtp (d a b : Opnd) (s : State) : Host.Outcome State Fault Refusal :=
  runInstr s (fun ti t =>
    let m := t.mr
    let ws := tyWidth (mrSrcType m)
    laneOp s ti t
      { op := 0x51, word := wordF3 0x51 d a b, fields := [fld d (dstOk s t), fld a (srcOk t), fld b (srcOk t)],
        tyOk := mrTyValid m && mrSrcValid m && cvtpOk (mrType m) (mrSrcType m) && mrRnd m != 7,
        is64 := false, dst := (d, 1), srcs := [(a, 1), (b, 1)],
        f := fun i => cvtpLoop i.mr ws (tyWidth (mrType i.mr)) (i.a % 2 ^ 32 + 2 ^ 32 * i.b) 0 (64 / ws) i.z })

/-- DOT4 (R337). -/
def execDot4 (d a b : Opnd) (s : State) : Host.Outcome State Fault Refusal :=
  runInstr s (fun ti t => laneOp s ti t
    { op := 0x54, word := wordF3 0x54 d a b, fields := [fld d (rdDstOk t), fld a (srcOk t), fld b (srcOk t)],
      tyOk := tyCheck t.mr (fun ty => ty == 0 || ty == 1 || ty == 12) (· == 12), is64 := false,
      dst := (d, 1), srcs := [(a, 1), (b, 1)], readD := true, f := dot4 })

/-! The group instructions: groups of eight lanes, processed when their leader takes part (13 R264). -/

/-- A direct V register; under a 64-bit type an even one (15 R293). -/
def directV (is64 : Bool) : Opnd → Bool
  | .v n => !is64 || n.val % 2 == 0
  | _ => false
def vNum : Opnd → Nat
  | .v n => n.val
  | _ => 0

/-- The leaders of the groups of a pass. -/
def leaders (t : Team) (p : Pass) : List Nat :=
  (span p.lo p.n).filter (fun l => l % 8 == 0 && t.active l && t.guard p.at_ l)

/-- What the group instructions share: the checks, the passes, and one group at a time. `srcN` and `dstN` registers. -/
def groupOp (s : State) (ti : Nat) (t : Team) (op : Nat) (word : W32) (fields : List (Nat × Bool)) (tyOk : Bool)
    (d a : Opnd) (dstN srcN : Nat) (sb : Option Opnd)
    (body : (thr : Nat) → (words : Nat → Nat → Nat) → (leader : Nat) → Cells W32 → List (Nat × Nat × Nat) × Nat × Nat × Cells W32) :
    Except Stop State := do
  decodeChecks t word false fields tyOk
  let ops := [(d, dstN), (a, srcN)]
  let ss := match sb with
    | some o => [(o, 1)]
    | none => []
  rangeChecks t ops
  let ps ← passesOf s ti op (passWords t false) (bankReads [(a, srcN)]) [] (guardUse t :: (ops ++ ss).map (grpUse t))
  let chk := (s.crewRec t.crew).chk
  let takes (c l : Nat) : Bool := t.active (l / 8 * 8) && t.guard c (l / 8 * 8)
  poisonChecks t ps [(a, srcN)] ((List.range t.lanes).filter (fun l => takes (passAt ps l) l))
  if sPoisoned (t.commit (firstPass ps)) (ss.map (·.1)) then throw (trapAt 0x0F (2 ^ 64 - 1) 0)
  undersized chk t ps [guardUse t] (fun _ l => t.active l && l % 8 == 0)
  undersized chk t ps ((ops ++ ss).map (grpUse t)) takes
  let s := settle s ti (firstPass ps)
  let t := s.team ti
  let r := ps.foldl (fun acc p =>
    let thr := match sb with
      | some o => readOp t p.at_ true o 0
      | none => 0
    (leaders t p).foldl (fun (acc : List PendWrite × Nat × Nat × Cells W32) l =>
      let o := body thr (fun reg lane => (t.read p.at_ (.v (vNum a + reg)) lane).toNat % 2 ^ 32) l acc.2.2.2
      let ws := o.1.map (fun w =>
        ({ reg := .v (vNum d + w.1), lane := w.2.1, val := w64 w.2.2, due := p.at_ + latencyOf op, pc := t.pc } : PendWrite))
      (acc.1 ++ ws, acc.2.1 ||| o.2.1, acc.2.2.1 + o.2.2.1, o.2.2.2)) acc) (([] : List PendWrite), 0, 0, t.lfsr)
  let s := s.updTeam ti (fun t => (Team.addUfc { t with lfsr := r.2.2.2 } r.2.2.1).addFlags r.2.1)
  .ok (retire s ti op 1 ps false r.1)

/-- The four bytes of a lane. -/
def packBytes (l : List Nat) : Nat := l.foldr (fun b r => b % 256 + 256 * r) 0

/-- QNT (R336, 13 R265). -/
def execQnt (d a b : Opnd) (s : State) : Host.Outcome State Fault Refusal :=
  runInstr s (fun ti t =>
    groupOp s ti t 0x52 (wordF3 0x52 d a b) [fld d (directV (mr64 t.mr)), fld a (directV (mr64 t.mr)), fld b okS]
      (tyCheck t.mr (· == 13) (fun _ => true)) d a 2 4 (some b)
      (fun thr words leader lf =>
        let xs := (List.range 32).map (fun e => words (e % 4) (leader + e / 4))
        let o := qntGroup t.mr thr leader xs lf
        ((List.range 8).flatMap (fun k => [(0, leader + k, packBytes ((o.codes.drop (4 * k)).take 4)),
          (1, leader + k, if k = 0 then o.g % 256 + 256 * (o.u % 256) else 0)]), o.flags, o.u, o.lf)))

/-- DQNT (R336, 13 R266). -/
def execDqnt (d a b : Opnd) (s : State) : Host.Outcome State Fault Refusal :=
  runInstr s (fun ti t =>
    groupOp s ti t 0x53 (wordF3 0x53 d a b) [fld d (directV (mr64 t.mr)), fld a (directV (mr64 t.mr)), fld b okZero]
      (mrTyValid t.mr && mrSrcValid t.mr && mrType t.mr == 10 && mrSrcType t.mr == 13 && mrRnd t.mr != 7) d a 4 2 none
      (fun _ words leader lf =>
        let cs := (List.range 32).map (fun e => byteOf (words 0 (leader + e / 4)) (e % 4))
        let o := dqntCodes t.mr (byteOf (words 1 leader) 0) leader 0 cs lf
        ((List.range 32).map (fun e => (e % 4, leader + e / 4, o.1.getD e 0)), o.2.1, 0, o.2.2)))

end Sys2Proof.Machine
end

