-- ==== Sys2Proof/Machine/Mem.lean ====
section
/-! DEFINITION. Opcodes 0x80 to 0xA9: loads, stores and atomics (18 R345 to R356). -/

namespace Sys2Proof.Machine

/-! ### Access of the lanes -/

/-- What a load's destination accepts (R347). -/
def okLdD (s : State) (t : Team) (o : Opnd) : Bool :=
  (match o with
    | .v n => !mr64 t.mr || n.val % 2 == 0
    | .vx _ | .q _ | .zr => true
    | _ => false) && qWritable s t o
/-- What a store's data field accepts. -/
def okStD (t : Team) (o : Opnd) : Bool :=
  (match o with
    | .v n => !mr64 t.mr || n.val % 2 == 0
    | .vx _ | .q _ | .dq | .zr | .lid => true
    | _ => false) && qReadable t o

/-- A memory form: its operands; `idx` for LDX, STX and the atomics. -/
structure MemForm where
  op : Nat
  word : W32
  fields : List (Nat × Bool)
  tyOk : Bool
  d : Opnd
  dN : Nat                      -- registers of d
  base : Opnd
  idx : Option Opnd := none
  off : Int := 0
  sync : Bool := false          -- LD.ACQ and ST.REL, at the scope of MR

/-- The address operands as groups of registers. -/
def MemForm.addrOps (f : MemForm) : List (Opnd × Nat) :=
  match f.idx with
  | some o => [(f.base, 1), (o, 1)]
  | none => [(f.base, 2)]

/-- addr[l] (R348). -/
def MemForm.addr (f : MemForm) (t : Team) (e c l : Nat) : Nat :=
  let base := readGrp t c 2 f.base l
  match f.idx with
  | some o => wrapN 64 (base + sextN 32 (readGrp t c 1 o l) * e)
  | none => wrapN 64 (base + f.off * e)

/-- A lane about to access memory: its lane, the cycle of its pass, its address. -/
structure LaneAddr where
  lane : Nat
  at_ : Nat
  va : Nat
  deriving DecidableEq, Repr

/-- The checks of R348, lowest lane first within each step. -/
def addrChecks (s : State) (a : Agent) (e : Nat) (ls : List LaneAddr) : Except Stop Unit :=
  match ls.find? (fun x => x.va % e != 0) with
  | some x => .error (trapAt 0x0B x.va 0 (some x.lane))
  | none =>
    match ls.find? (fun x => decide (2 ^ 52 ≤ x.va)) with
    | some x => .error (trapAt 0x0C x.va 0 (some x.lane))
    | none =>
      match ls.find? (fun x => decide (winLo ≤ x.va) && (windowPlace s a x.va == .prot || windowPlace s a (x.va + e - 1) == .prot)) with
      | some x => .error (trapAt 0x0D x.va 0 (some x.lane))
      | none => .ok ()

/-- The lanes of one pass translated: their places, and the faults. -/
def translatePass (s : State) (ti : Nat) (acc : Acc) : List LaneAddr → State × List (LaneAddr × Place) × List LaneFault
  | [] => (s, [], [])
  | x :: r =>
    let (s, p) := place s (teamAgent s ti (some x.lane)) acc x.va
    let (s, ps, fs) := translatePass s ti acc r
    match p with
    | .fault c lv => (s, ps, { lane := x.lane, va := x.va, cause := c, level := lv } :: fs)
    | p => (s, (x, p) :: ps, fs)

/-- Passes in order up to the first that faults: the lanes of those before it, and its faults; with `every`, all passes. -/
def translatePasses (s : State) (ti : Nat) (acc : Acc) (every : Bool) : List (List LaneAddr) →
    State × List (List (LaneAddr × Place)) × Option (Nat × List LaneFault)
  | [] => (s, [], none)
  | g :: r =>
    let (s, ps, fs) := translatePass s ti acc g
    if fs.isEmpty then
      let (s, rest, f) := translatePasses s ti acc every r
      (s, ps :: rest, f.map (fun x => (x.1 + 1, x.2)))
    else if every then
      let (s, rest, _) := translatePasses s ti acc every r
      (s, ps :: rest, some (0, fs))
    else (s, [ps], some (0, fs))

/-- A location that answers in four core cycles: scratch of a crew on the issuing core. -/
def quickPlace (s : State) (ti : Nat) : Place → Bool
  | .scratch c _ => (s.crew c).core == (s.crew (s.team ti).crew).core
  | _ => false

/-- A lane whose last-page register serves its access (10 R198). -/
def servedByLast (s : State) (ti : Nat) (acc : Acc) (x : LaneAddr) : Bool :=
  (cget [] (s.team ti).lastPage x.lane).any (·.serves (s.teamCrew ti).ctx acc x.va)

/-- The memory requests of one pass (R352): one for each 64-byte line, and one for each lane that its last-page register serves; s is the machine
before the pass was translated. DESIGN CHOICE: scratch of the issuing core takes none (log 129). -/
def passRequests (s : State) (ti : Nat) (acc : Acc) (xs : List (LaneAddr × Place)) : Nat :=
  let out := xs.filter (fun x => !quickPlace s ti x.2)
  let held := out.filter (fun x => servedByLast s ti acc x.1)
  held.length + (((out.filter (fun x => !servedByLast s ti acc x.1)).map (·.2.line)).foldl insertNew []).length

/-- What a memory instruction has before it acts. -/
structure MemReady where
  s : State                     -- translated
  ps : List Pass
  groups : List (List (LaneAddr × Place))   -- of the passes before the first that faults; of all with `every`
  fault : Option (Nat × List LaneFault)     -- the pass that faults, and its faults
  bad : Option Nat              -- a lane with a poisoned register
  early : Except Stop Unit      -- a pass too early for a register (08 R168)
  reqs : List Nat               -- the memory requests of each pass in `groups` (R352)

/-- The common part: decode's checks to translation. `reads` are the operands read beside the address. -/
def memReady (s : State) (ti : Nat) (t : Team) (f : MemForm) (reads : List (Opnd × Nat)) (acc : Acc) (every : Bool)
    (before : State → List LaneAddr → State) : Except Stop MemReady := do
  decodeChecks t f.word false f.fields (f.tyOk && dqTyOk t.mr reads)
  let ops := (f.d, f.dN) :: f.addrOps
  rangeChecks t ops
  let first := guardUse t :: indexUses t ops
  let uses := ops.map (grpUse t)
  let ps ← passesOf s ti f.op (passWords t (mr64 t.mr)) (bankReads (reads ++ f.addrOps)) (vxOps ops) (first ++ uses)
  let chk := (s.crewRec t.crew).chk
  let todo (l : Nat) : Bool := t.active l && !t.doneLanes.getLsbD l
  vxChecks t ps ops (activeLanes t)
  let e := tySize (mrType t.mr)
  let groups := ps.map (fun p => ((span p.lo p.n).filter (fun l => todo l && t.guard p.at_ l)).map (fun l =>
    ({ lane := l, at_ := p.at_, va := f.addr t e p.at_ l } : LaneAddr)))
  let a := teamAgent s ti none
  addrChecks s a e groups.flatten
  let lanes := groups.flatten.map (·.lane)
  let bad := (poisonLane t ps (reads ++ f.addrOps) lanes).orElse (fun _ =>
    if sPoisoned (t.commit (firstPass ps)) (f.addrOps.map (·.1)) then some 0xFFFF else none)
  let early := do
    undersized chk t ps first (fun _ l => t.active l)
    undersized chk t ps uses (fun c l => todo l && t.guard c l)
  let s := settle s ti (firstPass ps)
  let s := before s groups.flatten
  let (s', gs, fault) := translatePasses s ti acc every groups
  .ok { s := s', ps := ps, groups := gs, fault := fault, bad := bad, early := early, reqs := gs.map (passRequests s ti acc) }

/-- The poison of a register that the instruction reads (10 R209). -/
def MemReady.poison (r : MemReady) : Except Stop Unit :=
  match r.bad with
  | some l => .error (trapAt 0x0F (2 ^ 64 - 1) 0 (if l = 0xFFFF then none else some l))
  | none => .ok ()

/-- No trap awaits the instruction once its addresses are translated. -/
def MemReady.clean (r : MemReady) : Bool := r.bad.isNone && r.early.toBool

/-- The lanes to perform: those of the passes before a fault. -/
def MemReady.lanes (r : MemReady) : List (LaneAddr × Place) :=
  match r.fault with
  | some (k, _) => (r.groups.take k).flatten
  | none => r.groups.flatten

/-- A mask with lanes added. -/
def addLanes (m : LaneMask) (ls : List Nat) : LaneMask := ls.foldl (fun m l => m ||| (1#1024 <<< l)) m

/-- A suspension after some lanes were performed (10 R204). -/
def suspendAfter (s : State) (ti : Nat) (acc : Acc) (done : List Nat) (fs : List LaneFault) : State :=
  faultTeam (s.updTeam ti (fun t => { t with doneLanes := addLanes t.doneLanes done })) ti acc fs

/-! ### Results of variable time (R352, 08 R167) -/

/-- The writes of a value loaded by lane l, quick or in flight. -/
def loadWrites (s : State) (ti : Nat) (d : Opnd) (n : Nat) (x : LaneAddr × Place) (v : Nat) : List PendWrite × List (Reg × Nat × W64) :=
  let t := s.team ti
  let ws := grpWrites t n d x.1.at_ x.1.lane v
  if quickPlace s ti x.2 then
    (ws.map (fun w => ({ reg := w.1, lane := w.2.1, val := w.2.2, due := x.1.at_ + 4, pc := t.pc, il := true } : PendWrite)), [])
  else ([], ws)

/-- An interlocked result in flight, with the memory requests that it awaits; the accesses of `late` may still be performed when it arrives. -/
def putFlight (s : State) (ti : Nat) (ws : List (Reg × Nat × W64)) (reqs : Nat) (late : List LateLoad := []) : State :=
  if ws.isEmpty then s
  else
    let regs := (ws.map (·.1)).foldl insertNew []
    s.updTeam ti (fun t => { t with flight := t.flight ++ [{ id := t.nIssued, kind := .mem, regs := regs, writes := ws, late := late,
                                                             reqs := reqs }] })

/-- The memory requests that a core has outstanding. DESIGN CHOICE: those of loads, LDN and atomics whose results are in flight; a store, and a load into
a queue, has its requests performed as it issues, and fetches and engines have none (log 129). -/
def outstanding (s : State) (core : Nat) : Nat :=
  s.teams.foldl (fun n e => if (s.crew e.2.crew).core == core && (s.crew e.2.crew).resident then
    e.2.flight.foldl (fun n f => n + f.reqs) n else n) 0

/-- A core has at most 1,024 memory requests outstanding (00 R1): of the passes of an instruction, whose requests `reqs` lists, those that find slots
issue, and the first that does not waits at issue (R352). -/
def reqRoom (s : State) (ti op : Nat) (ps : List Pass) (reqs : List Nat) : Except Stop Unit :=
  let free := 1024 - outstanding s (s.teamCrew ti).core
  let k := (s.team ti).passes.length
  if reqs.sum ≤ free then .ok ()
  else match ps[k]? with
    | some p => .error (if (reqs.take (k + 1)).sum ≤ free then .pass (portOf op) p else .hold)
    | none => .error .hold

/-- The requests of the passes before a fault. -/
def MemReady.requests (r : MemReady) : List Nat :=
  match r.fault with
  | some (k, _) => r.reqs.take k
  | none => r.reqs

/-- The passes of a memory instruction find request slots. -/
def MemReady.room (r : MemReady) (ti op : Nat) : Except Stop Unit := reqRoom r.s ti op r.ps r.requests

/-- An access of a plain load that may be performed later (11 R225): it goes to memory, and its crew does not draft. -/
def lateLoad (s : State) (ti e hint : Nat) (x : LaneAddr × Place) (ws : List (Reg × Nat × W64)) : Option LateLoad :=
  match x.2 with
  | .phys k => if (s.crew (s.team ti).crew).drafting then none else some { va := x.1.va, key := k, size := e, writes := ws, hint := hint }
  | _ => none

/-- The words that lanes access. -/
def laneWords (xs : List (LaneAddr × Place)) : List Nat := xs.map (·.2.word)

/-! ### Retention hints (09 R181) -/

/-- The translation of an access that has just been translated. -/
def heldFor (s : State) (ti lane va : Nat) : Option Held :=
  let t := s.team ti
  let c := s.core (s.teamCrew ti).core
  (cget [] t.lastPage lane ++ cget [] c.ptlb t.partition ++ c.tlb).find? (fun h => h.ctx == (s.teamCrew ti).ctx && h.page == va / 65536)
/-- The default hint of its page (10 R196). -/
def pageHint (s : State) (ti lane va : Nat) : Nat := ((heldFor s ti lane va).map (·.hint)).getD 0

/-- The hint of a lane's access: of opcodes 0x80 to 0x8F their low two bits, where these are 0, and of others, the page's. -/
def hintOf (s : State) (ti op : Nat) (x : LaneAddr) : Nat :=
  if 0x80 ≤ op ∧ op ≤ 0x8F ∧ op % 4 ≠ 0 then op % 4 else pageHint s ti x.lane x.va

/-- One lane for each line that lanes access. -/
def perLine (xs : List (LaneAddr × Place)) : List (LaneAddr × Place) :=
  xs.foldl (fun l x => if l.any (fun y => y.2.line == x.2.line) then l else l ++ [x]) []

/-- The lines of loads that have been performed come into the caches. -/
def cacheLoads (s : State) (ti op : Nat) (xs : List (LaneAddr × Place)) : State :=
  (perLine xs).foldl (fun s x => fillLine s (s.teamCrew ti).core x.2 (hintOf s ti op x.1)) s

/-- The lines of stores. -/
def cacheStores (s : State) (ti op : Nat) (xs : List (LaneAddr × Place)) : State :=
  (perLine xs).foldl (fun s x => storeLine s (s.teamCrew ti).core x.2 (hintOf s ti op x.1)) s

/-! ### Loads and stores -/

/-- The value that a lane reads, and whether it is poisoned. A lane that goes on after a fault reads what a lane of its instruction has
read at that location before (11 R216). -/
def laneLoad (s : State) (ti e : Nat) (x : LaneAddr × Place) : Nat × Bool :=
  match (s.team ti).doneReads.find? (·.1 == x.2.loc) with
  | some d => (d.2, false)
  | none =>
    let (bs, bad) := loadRead s (s.team ti).crew x.2 e
    (ofLE bs, bad)

/-- A load (R346, R349, R351). LD.ACQ acquires once its lanes have read, and is not performed later (11 R223). -/
def loadOp (s : State) (ti : Nat) (t : Team) (f : MemForm) : Except Stop State := do
  let r ← memReady s ti t f [] .load false (fun s _ => s)
  let r := { r with s := closeWords r.s ti (laneWords r.lanes) }
  let acquired (s : State) : State := if f.sync then s.acquire ti (mrScope t.mr) else s
  let e := tySize (mrType t.mr)
  let isQ := match f.d with
    | .q _ => true
    | _ => false
  let got := r.lanes.map (fun x => (x, laneLoad r.s ti e x))
  let badLane := got.find? (fun g => g.2.2)
  let ws := got.map (fun g => loadWrites r.s ti f.d f.dN g.1 g.2.1)
  let fault := match r.fault with
    | some (_, fs) => some fs
    | none => none
  match fault with
  | some fs =>
    if isQ || !r.clean || badLane.isSome then throw (.become (faultTeam r.s ti .load fs))
    r.room ti f.op
    let s := putFlight (cacheLoads r.s ti f.op r.lanes) ti (ws.flatMap (·.2)) r.requests.sum
    let s := s.updTeam ti (fun t => { t with pend := t.pend ++ ws.flatMap (·.1),
                                             doneReads := t.doneReads ++ got.map (fun g => (g.1.2.loc, g.2.1)) })
    throw (.become (suspendAfter s ti .load (r.lanes.map (·.1.lane)) fs))
  | none =>
    r.poison
    match badLane with
    | some g => throw (trapAt 0x0F g.1.1.va 0 (some g.1.1.lane))
    | none => pure ()
    r.early
    let t := r.s.team ti
    pushRoom r.s t f.d f.dN
    r.room ti f.op
    if isQ then
      let s := pushEntries (acquired (cacheLoads r.s ti f.op r.lanes)) t f.d (entriesOf (got.map (fun g => (g.1.1.lane, g.2.1))) f.dN)
      .ok (retire s ti f.op 1 r.ps false [])
    else
      let late := if f.sync || !t.doneReads.isEmpty then [] else got.filterMap (fun g =>
        lateLoad r.s ti e (hintOf r.s ti f.op g.1.1) g.1 (loadWrites r.s ti f.d f.dN g.1 g.2.1).2)
      let s := acquired (cacheLoads r.s ti f.op (if late.isEmpty then r.lanes else []))
      .ok (retire (putFlight s ti (ws.flatMap (·.2)) r.requests.sum late) ti f.op 1 r.ps false (ws.flatMap (·.1)))

/-- The distinct 64-byte lines outside scratch that lanes write. -/
def draftLines (xs : List (LaneAddr × Place)) : Nat :=
  ((xs.filterMap (fun x => match x.2 with
    | .phys _ => some (x.1.va / 64)
    | _ => none)).foldl insertNew []).length

/-- Stores of lanes in ascending order; those of an idempotent crew outside scratch are drafted (05 R110, R111), and take effect on the caches when they
are committed. With a scope they are released stores (11 R223). -/
def storeLanes (s : State) (ti op : Nat) (rel : Option Nat) (xs : List (LaneAddr × Place)) (val : LaneAddr → List Byte) : State :=
  let s := closeWords s ti (laneWords xs)
  let ci := (s.team ti).crew
  let ctx := (s.crew ci).ctx
  let core := (s.crew ci).core
  let n := draftLines xs
  let s := if (s.crew ci).drafting && n != 0 && !draftRoom (s.crew ci) n then endIdem s ci else s
  let s := match rel with
    | some scope => s.release ti scope
    | none => s
  if (s.crew ci).drafting then
    let s := xs.foldl (fun s x => match x.2 with
      | .scratch .. => shareWrite s core ctx x.2 (val x.1) false
      | _ => s) s
    addDrafts s ci n (xs.filterMap (fun x => match x.2 with
      | .phys k => some (.store x.1.va k (val x.1) false (((heldFor s ti x.1.lane x.1.va).map (·.bits)).getD 16) (hintOf s ti op x.1))
      | _ => none))
  else xs.foldl (fun s x => shareWrite s core ctx x.2 (val x.1) false (hintOf s ti op x.1)) (cacheStores s ti op xs)

/-- A store (R346, R349, R351). ST.REL releases before it stores (11 R223). -/
def storeOp (s : State) (ti : Nat) (t : Team) (f : MemForm) : Except Stop State := do
  let srcs := [(f.d, f.dN)]
  let r ← memReady s ti t f srcs .store false (fun s _ => s)
  let e := tySize (mrType t.mr)
  match r.fault with
  | some (0, fs) => throw (.become (faultTeam r.s ti .store fs))
  | some (_, fs) => if !r.clean then throw (.become (faultTeam r.s ti .store fs))
  | none => do
    r.poison
    r.early
  r.room ti f.op
  let k ← takeSrcs r.s ti srcs
  let t := k.s.team ti
  let rel := if f.sync then some (mrScope t.mr) else none
  let val (x : LaneAddr) : List Byte := leBytes e (match k.srcs[0]? with
    | some src => src.word t x.at_ f.dN x.lane
    | none => 0)
  match r.fault with
  | some (_, fs) => throw (.become (suspendAfter (storeLanes k.s ti f.op rel r.lanes val) ti .store (r.lanes.map (·.1.lane)) fs))
  | none =>
    let flags := r.lanes.foldl (fun m x => m ||| k.flags x.1.lane) 0
    let s := takenDone k ti srcs flags k.lf
    .ok (retire (storeLanes s ti f.op rel r.lanes val) ti f.op 1 r.ps false [])

/-- LD and ST forms: an FM address. -/
def fmForm (op : Nat) (store : Bool) (rel : Bool) (s : State) (t : Team) (d a : Opnd) (off : BitVec 8) : MemForm :=
  { op := op, word := wordFM op d a off, fields := [fld d (if store then okStD t else okLdD s t), fld a okBase],
    tyOk := mrTyValid t.mr && !(rel && mrScope t.mr == 7), d := d, dN := mrWords t.mr, base := a, off := off.toInt, sync := rel }

/-- LDX and STX forms: an S base and a 32-bit register scaled by the element size. -/
def xForm (op : Nat) (store : Bool) (s : State) (t : Team) (d a b : Opnd) : MemForm :=
  { op := op, word := wordF3 op d a b, fields := [fld d (if store then okStD t else okLdD s t), fld a okS, fld b okIdx],
    tyOk := mrTyValid t.mr, d := d, dN := mrWords t.mr, base := a, idx := some b }

def loadFm (op : Nat) (acq : Bool) (d a : Opnd) (off : BitVec 8) (s : State) : Host.Outcome State Fault Refusal :=
  runInstr s (fun ti t => loadOp s ti t (fmForm op false acq s t d a off))
def storeFm (op : Nat) (rel : Bool) (d a : Opnd) (off : BitVec 8) (s : State) : Host.Outcome State Fault Refusal :=
  runInstr s (fun ti t => storeOp s ti t (fmForm op true rel s t d a off))
def loadX (op : Nat) (d a b : Opnd) (s : State) : Host.Outcome State Fault Refusal :=
  runInstr s (fun ti t => loadOp s ti t (xForm op false s t d a b))
def storeX (op : Nat) (d a b : Opnd) (s : State) : Host.Outcome State Fault Refusal :=
  runInstr s (fun ti t => storeOp s ti t (xForm op true s t d a b))

/-! The retention suffixes change no value and no ordering; the caches record them (09 R181). -/

def execLd (d a : Opnd) (off : BitVec 8) (s : State) : Host.Outcome State Fault Refusal := loadFm 0x80 false d a off s
def execLdS (d a : Opnd) (off : BitVec 8) (s : State) : Host.Outcome State Fault Refusal := loadFm 0x81 false d a off s
def execLdK (d a : Opnd) (off : BitVec 8) (s : State) : Host.Outcome State Fault Refusal := loadFm 0x82 false d a off s
def execLdB (d a : Opnd) (off : BitVec 8) (s : State) : Host.Outcome State Fault Refusal := loadFm 0x83 false d a off s
def execSt (d a : Opnd) (off : BitVec 8) (s : State) : Host.Outcome State Fault Refusal := storeFm 0x84 false d a off s
def execStS (d a : Opnd) (off : BitVec 8) (s : State) : Host.Outcome State Fault Refusal := storeFm 0x85 false d a off s
def execStK (d a : Opnd) (off : BitVec 8) (s : State) : Host.Outcome State Fault Refusal := storeFm 0x86 false d a off s
def execStB (d a : Opnd) (off : BitVec 8) (s : State) : Host.Outcome State Fault Refusal := storeFm 0x87 false d a off s
def execLdx (d a b : Opnd) (s : State) : Host.Outcome State Fault Refusal := loadX 0x88 d a b s
def execLdxS (d a b : Opnd) (s : State) : Host.Outcome State Fault Refusal := loadX 0x89 d a b s
def execLdxK (d a b : Opnd) (s : State) : Host.Outcome State Fault Refusal := loadX 0x8A d a b s
def execLdxB (d a b : Opnd) (s : State) : Host.Outcome State Fault Refusal := loadX 0x8B d a b s
def execStx (d a b : Opnd) (s : State) : Host.Outcome State Fault Refusal := storeX 0x8C d a b s
def execStxS (d a b : Opnd) (s : State) : Host.Outcome State Fault Refusal := storeX 0x8D d a b s
def execStxK (d a b : Opnd) (s : State) : Host.Outcome State Fault Refusal := storeX 0x8E d a b s
def execStxB (d a b : Opnd) (s : State) : Host.Outcome State Fault Refusal := storeX 0x8F d a b s
/-- LD.ACQ (R351). -/
def execLdAcq (d a : Opnd) (off : BitVec 8) (s : State) : Host.Outcome State Fault Refusal := loadFm 0x92 true d a off s
/-- ST.REL (R351). -/
def execStRel (d a : Opnd) (off : BitVec 8) (s : State) : Host.Outcome State Fault Refusal := storeFm 0x93 true d a off s

/-! ### Uniform accesses -/

/-- One uniform access of n bytes at va: its place, after the checks of R348. A fault suspends the team. -/
def uniformPlace (s : State) (ti : Nat) (acc : Acc) (va n : Nat) (aligned : Bool) : Except Stop (State × Place) := do
  if aligned && va % n != 0 then throw (trapAt 0x0B va 0)
  let a := teamAgent s ti none
  if 2 ^ 52 ≤ va then throw (trapAt 0x0C va 0)
  if winLo ≤ va && (windowPlace s a va == .prot || windowPlace s a (va + n - 1) == .prot) then throw (trapAt 0x0D va 0)
  match place s a acc va with
  | (s, .fault c lv) => throw (.become (faultTeam s ti acc [{ lane := 0xFFFF, va := va, cause := c, level := lv }]))
  | (s, p) => .ok (s, p)

/-- An S result from memory: quick or in flight. -/
def UCtx.load (u : UCtx) (s : State) (va : Nat) (p : Place) (d : Opnd) (v : Nat) : State :=
  if quickPlace s u.ti p then u.done s [(d, v)] 4 true
  else
    let ws := dstWrites u.t true d u.c 0 v
    u.done (putFlight s u.ti ws 1 (lateLoad s u.ti 8 (pageHint s u.ti 0xFFFF va) ({ lane := 0xFFFF, at_ := u.c, va := va }, p) ws).toList) [] 0

/-- LDN (R350). -/
def execLdn (d a : Opnd) (off : BitVec 8) (s : State) : Host.Outcome State Fault Refusal :=
  runInstr s (fun ti t => uniform s ti t 0x90 (wordFM 0x90 d a off) false [fld d okSreg, fld a okS] true [a] [d] (fun u => do
    let va := wrapN 64 (u.rd a + off.toInt * 8)
    let (s, p) ← uniformPlace u.s ti .load va 8 true
    u.poison
    let s := closeWords s ti [p.word]
    let (bs, bad) := loadRead s t.crew p 8
    if bad then throw (trapAt 0x0F va 0)
    reqRoom s ti 0x90 u.ps [if quickPlace s ti p then 0 else 1]
    let s := if (s.crew t.crew).drafting then fillLine s (s.teamCrew ti).core p (pageHint s ti 0xFFFF va) else s
    .ok (u.load s va p d (ofLE bs))) true)

/-- STN (R350). -/
def execStn (d a : Opnd) (off : BitVec 8) (s : State) : Host.Outcome State Fault Refusal :=
  runInstr s (fun ti t => uniform s ti t 0x91 (wordFM 0x91 d a off) false [fld d okS, fld a okS] true [d, a] [] (fun u => do
    let va := wrapN 64 (u.rd a + off.toInt * 8)
    let (s, p) ← uniformPlace u.s ti .store va 8 true
    u.poison
    reqRoom s ti 0x91 u.ps [if quickPlace s ti p then 0 else 1]
    .ok (u.done (storeLanes s ti 0x91 none [({ lane := 0xFFFF, at_ := u.c, va := va }, p)] (fun _ => leBytes 8 (u.rd d))) [] 0)) true)

/-! ### Atomics -/

/-- A mode register that holds a type alone: RNE, no flush, no saturation (R354). -/
def tyOnly (ty : Nat) : W64 := w64 (ty * 32)

/-- The access of an atomic on a place of host kind that no AtomicOp performs (R356). -/
def hostRefused (op ty : Nat) : Place → Bool
  | .phys k => keyKind k == 2 && !(op == 0xA6 || op == 0xA7 || (op == 0xA0 && tyInt ty))
  | _ => false

/-- What a lane's atomic makes of one location: performed, with the old value, unless the word is poisoned. -/
structure AtomAcc where
  s : State
  old : List ((LaneAddr × Place) × Nat) := []
  bad : Option (Nat × Nat) := none        -- lane, address

def atomLane (ti e : Nat) (new : Nat → LaneAddr → Nat) (acc : AtomAcc) (x : LaneAddr × Place) : AtomAcc :=
  let (bs, bad) := readPlace acc.s x.2 e
  if bad then { acc with bad := acc.bad.orElse (fun _ => some (x.1.lane, x.1.va)) }
  else
    let m := ofLE bs
    let c := acc.s.crew (acc.s.team ti).crew
    { acc with s := shareWrite (seenBy acc.s c.core x.2 e) c.core c.ctx x.2 (leBytes e (new m x.1)) false (pageHint acc.s ti x.1.lane x.1.va),
               old := acc.old ++ [(x, m)] }

/-- An atomic (R353 to R356): `n` registers from Vd hold its operands. Before a fault only lanes act whose location no later lane names, so
that the atomics of one location stay one after another (11 R216). -/
def atomOp (op : Nat) (tys : Nat → Bool) (cas : Bool) (new : Nat → Nat → Nat → Nat → Nat) (d a b : Opnd) (s : State) :
    Host.Outcome State Fault Refusal :=
  runInstr s (fun ti t => do
    let ty := mrType t.mr
    let w := mrWords t.mr
    let dOk (o : Opnd) : Bool := match o with
      | .v k => !mr64 t.mr || k.val % 2 == 0
      | _ => false
    let f : MemForm :=
      { op := op, word := wordF3 op d a b, fields := [fld d dOk, fld a okS, fld b okIdx], tyOk := mrTyValid t.mr && tys ty,
        d := d, dN := if cas then 2 * w else w, base := a, idx := some b }
    let outside (l : List LaneAddr) : Bool := l.any (fun x => decide (x.va < winLo))
    let r ← memReady s ti t f [(d, f.dN)] .atomic true (fun s l => if outside l then endIdem s t.crew else s)
    match r.groups.flatten.find? (fun x => hostRefused op ty x.2) with
    | some x => throw (trapAt 0x0D x.1.va 0 (some x.1.lane))
    | none => pure ()
    match r.fault with
    | some (_, fs) => if !r.clean then throw (.become (faultTeam r.s ti .atomic fs))
    | none => do
      r.poison
      r.early
    let later := r.groups.flatten.drop r.lanes.length
    let lanes := r.lanes.filter (fun x => later.all (fun y => y.2.loc != x.2.loc))
    let e := tySize ty
    let t := r.s.team ti
    let acc := lanes.foldl (atomLane ti e (fun m x =>
      let v := readGrp t x.at_ f.dN d x.lane
      new ty m (v % 2 ^ (8 * e)) (v / 2 ^ (32 * w)) % 2 ^ (8 * e))) { s := closeWords r.s ti (laneWords lanes) }
    let ws := acc.old.map (fun g => loadWrites acc.s ti d w g.1 g.2)
    let flights := ws.flatMap (·.2)
    let quick := ws.flatMap (·.1)
    r.room ti op
    let keep (s : State) : State := (putFlight s ti flights r.requests.sum).updTeam ti (fun t => { t with pend := t.pend ++ quick })
    match r.fault, acc.bad with
    | some (_, fs), _ => throw (.become (suspendAfter (keep acc.s) ti .atomic (acc.old.map (·.1.1.lane)) fs))
    | none, some (l, va) =>
      throw (.become (stopped (keep acc.s) ti (trapAt 0x0F va 0 (some l))))
    | none, none => .ok (retire (putFlight acc.s ti flights r.requests.sum) ti op 1 r.ps false quick))

def tyAtomAdd (ty : Nat) : Bool := (tyInt ty && decide (4 ≤ ty)) || ty == 10 || ty == 11
def tyAtomBits (ty : Nat) : Bool := tyInt ty && decide (4 ≤ ty)
def tyAtomAny (ty : Nat) : Bool := decide (32 ≤ tyWidth ty)
def tyAtomN (ty : Nat) : Bool := ty == 5 || ty == 7

def execAtomAdd (d a b : Opnd) (s : State) : Host.Outcome State Fault Refusal :=
  atomOp 0xA0 tyAtomAdd false (fun ty m v _ => (addElem (tyOnly ty) 0 m v 0).val) d a b s
def execAtomMin (d a b : Opnd) (s : State) : Host.Outcome State Fault Refusal :=
  atomOp 0xA1 tyAtomAdd false (fun ty m v _ => selElem (tyOnly ty) false false m v) d a b s
def execAtomMax (d a b : Opnd) (s : State) : Host.Outcome State Fault Refusal :=
  atomOp 0xA2 tyAtomAdd false (fun ty m v _ => selElem (tyOnly ty) true false m v) d a b s
def execAtomAnd (d a b : Opnd) (s : State) : Host.Outcome State Fault Refusal :=
  atomOp 0xA3 tyAtomBits false (fun _ m v _ => m &&& v) d a b s
def execAtomOr (d a b : Opnd) (s : State) : Host.Outcome State Fault Refusal :=
  atomOp 0xA4 tyAtomBits false (fun _ m v _ => m ||| v) d a b s
def execAtomXor (d a b : Opnd) (s : State) : Host.Outcome State Fault Refusal :=
  atomOp 0xA5 tyAtomBits false (fun _ m v _ => m ^^^ v) d a b s
def execAtomXchg (d a b : Opnd) (s : State) : Host.Outcome State Fault Refusal :=
  atomOp 0xA6 tyAtomAny false (fun _ _ v _ => v) d a b s
def execAtomCas (d a b : Opnd) (s : State) : Host.Outcome State Fault Refusal :=
  atomOp 0xA7 tyAtomAny true (fun _ m v c => if m = c then v else m) d a b s
def execAtomDecp (d a b : Opnd) (s : State) : Host.Outcome State Fault Refusal :=
  atomOp 0xA8 tyAtomN false (fun _ m v _ => if v ≤ m then m - v else m) d a b s
def execAtomIncw (d a b : Opnd) (s : State) : Host.Outcome State Fault Refusal :=
  atomOp 0xA9 tyAtomN false (fun _ m v _ => if v ≤ m then 0 else m + 1) d a b s

end Sys2Proof.Machine
end

