-- ==== Sys2Proof/Machine/Counts.lean ====
section
/-! DEFINITION. The outstanding-operation counters (08 R160, 18 R362), records read at issue (20 R426, 10 R209), and what
leaves the chip (02 R51). -/

namespace Sys2Proof.Machine

/-! ### Commands of the engine classes: 0 CPY, 1 GTH, 2 MMA, 3 FAB, 4 DX -/

def Team.ops (t : Team) (c : Nat) : List (Nat × Bool) := cget [] t.opc c
/-- Commands of a class issued and not retired. -/
def Team.opCount (t : Team) (c : Nat) : Nat := (t.ops c).length

/-- A command that would raise its counter to 256 is held at issue. -/
def opRoom (t : Team) (c : Nat) : Except Stop Unit := if t.opCount c < 255 then .ok () else .error .hold

/-- A command issued: its number. It comes after every access of the team before it (11 R227). -/
def opIssue (s : State) (ti c : Nat) : Nat × State :=
  let (id, s) := s.tick
  (id, (closeLate s ti).updTeam ti (fun t => { t with opc := cset [] t.opc c (t.ops c ++ [(id, false)]) }))

/-! ### Records read at issue -/

/-- n bytes at va, read as a team's load reads them: what has no place traps, a fault suspends, poison traps. -/
def issueRead (s : State) (ti va n : Nat) : Except Stop (State × List Byte) :=
  match placesOf s (teamAgent s ti none) .load (piecesOf va n) with
  | (_, .error (.canon v)) => .error (trapAt 0x0C v 0)
  | (_, .error (.prot v)) => .error (trapAt 0x0D v 0)
  | (s, .error (.fault v c l)) => .error (.become (faultTeam s ti .load [{ lane := 0xFFFF, va := v, cause := c, level := l }]))
  | (s, .ok ps) =>
    let ci := (s.team ti).crew
    match ps.findSome? (fun x => (firstBad (loadRead s ci) x.2.1 x.2.2).map (x.1 + ·)) with
    | some v => .error (trapAt 0x0F v 0)
    | none => .ok (closeLate s ti, ps.flatMap (fun x => (loadRead s ci x.2.1 x.2.2).1))

/-! ### What the hub die writes for a command (11 R228) -/

/-- The words of n bytes at va, written for command id of a class of a team, that its core may see in an older form until it waits for
the command. -/
def noteVa (s : State) (a : Agent) (ti cls id va n : Nat) : State :=
  if s.current || (s.team ti).status == .free then s
  else
    match (placesOf s { a with spec := true } .engR (piecesOf va n)).2 with
    | .ok ps =>
      let core := (s.teamCrew ti).core
      let ws := (ps.flatMap (fun x => x.2.1.words x.2.2)).filter (fun w => (coreForm s core w).isSome)
      if ws.isEmpty then s else s.updTeam ti (fun t => { t with unseen := t.unseen ++ ws.map (fun w => (cls, id, w.word)) })
    | .error _ => s

/-- The team's core sees what its completed commands of some classes have written. -/
def seeDone (s : State) (ti : Nat) (cls : Nat → Bool) : State :=
  let t := s.team ti
  let out (e : Nat × Nat × Nat) : Bool := cls e.1 && !(t.ops e.1).any (·.1 == e.2.1)
  if t.unseen.any out then
    (seeWords s (s.teamCrew ti).core ((t.unseen.filter out).map (·.2.2))).updTeam ti (fun t => { t with unseen := t.unseen.filter (!out ·) })
  else s

/-! ### Other chips -/

/-- A directory entry's table and role count, where the quire is a usable one (04 R87, 20 R426). -/
def dirEntry (r : List Byte) : Option (Nat × Nat) :=
  let n := field r 8 4
  if 1 ≤ n ∧ n ≤ 65536 then some (field r 0 8, n) else none

/-- A binding: chip, crew linear index, directory index of its launch; none where a must-be-0 bit is set. -/
structure Binding where
  chip : Nat
  crew : Nat
  dir : Nat
  deriving DecidableEq, Repr

def bindingOf (w : Nat) : Option Binding :=
  if bitsN w 12 4 = 0 then some { chip := bitsN w 0 12, crew := bitsN w 16 32, dir := bitsN w 48 16 } else none

/-- The bindings of a quire as a unit of the hub die reads them. DESIGN CHOICE: where its directory entry or its table does not translate, or its role
count is not from 1 to 65,536, it has none, and a launch that names it is BAD_QUIRE (log 119). -/
def hubBindings (s : State) (ctx quire : Nat) : State × List (Option Binding) :=
  let c := s.ctx ctx
  if c.qdirCount.toNat ≤ quire then (s, [])
  else
    match hubRead s ctx (c.qdirBase.toNat + 16 * quire) 16 with
    | (s, some r) =>
      match dirEntry r with
      | some (tbl, n) =>
        match hubRead s ctx tbl (8 * n) with
        | (s, some bs) => (s, (List.range n).map (fun j => bindingOf (field bs (8 * j) 8)))
        | (s, none) => (s, [])
      | none => (s, [])
    | (s, none) => (s, [])

/-- The role count of the issuer's quire and, for a role below it, the role's binding entry, read at issue (R426). -/
def issueBinding (s : State) (ti role : Nat) : Except Stop (State × Option Nat × Option Binding) := do
  let ci := (s.team ti).crew
  let c := s.ctx (s.crew ci).ctx
  let q := (s.crewRec ci).quire
  if c.qdirCount.toNat ≤ q then return (s, none, none)
  let (s, r) ← issueRead s ti (c.qdirBase.toNat + 16 * q) 16
  match dirEntry r with
  | none => return (s, none, none)
  | some (tbl, n) =>
    if n ≤ role then return (s, some n, none)
    let (s, bs) ← issueRead s ti (tbl + 8 * role) 8
    return (s, some n, bindingOf (field bs 0 8))

end Sys2Proof.Machine
end

