-- ==== Sys2Proof/Machine/Sync.lean ====
section
/-! DEFINITION. Opcodes 0xAA to 0xB4: sleeping and waking, fences and completion waits, barriers, stage rings, and DONATE
(18 R357 to R371, 08 R172, 09 R188, R189). -/

namespace Sys2Proof.Machine

/-! ### WAITA and WAKE -/

/-- Whether an address lies in memory rather than in a scratch window: an atomic, WAITA or WAKE there ends the crew's
idempotence (05 R111). -/
def outsideScratch (va : Nat) : Bool := decide (va < winLo)

/-- Teams of a crew that hold an armed monitor: it is free again once their sleep has ended (R357, 04 R90). -/
def armedCount (s : State) (ci : Nat) : Nat :=
  ((s.crew ci).teams.filter (fun t => match (s.team t).status with
    | .sleep m => !m.woken
    | _ => false)).length

/-- MONQ (R359). -/
def monqFree (s : State) (ci : Nat) : Nat := (s.crew ci).monq - armedCount s ci

/-- A place of host kind. -/
def Place.host : Place → Bool
  | .phys k => keyKind k == 2
  | _ => false

/-- WAITA (R357): the word is compared as it stands, and every return acquires (11 R229). -/
def execWaita (d a b : Opnd) (s : State) : Host.Outcome State Fault Refusal :=
  runInstr s (fun ti t => uniform s ti t 0xAA (wordF3 0xAA d a b) false [fld d okS, fld a okS, fld b okS]
    (decide (mrType t.mr < 16) && mrScope t.mr != 7) [a, b] [d] (fun u => do
      let e := if mr64 t.mr then 8 else 4
      let va := u.rd a
      let s := if outsideScratch va && va % e == 0 then endIdem u.s t.crew else u.s
      let (s, p) ← uniformPlace s ti .load va e true
      u.poison
      let (bs, bad) := teamRead s t.crew p e
      if bad then throw (trapAt 0x0F va 0)
      let s := seenBy (closeLate s ti) (s.crew t.crew).core p e
      if ofLE bs ≠ u.rd b % 2 ^ (8 * e) then .ok (u.now (s.acquire ti (mrScope t.mr)) [(d, 1)])
      else if p.host || monqFree s t.crew == 0 then .ok (u.now (s.acquire ti (mrScope t.mr)) [(d, 2)])
      else
        let (o, s) := s.tick
        throw (u.part s (.sleep { line := p.line, order := o }))) true)

/-- The end of a sleep (R358): the monitor is freed, Sd := 0, and the team goes on after the WAITA. -/
def wakeReturn (s : State) (ti : Nat) : State :=
  let t := s.team ti
  match t.status, decodeAt t.octet t.pc.toNat with
  | .sleep m, some (.waita d _ _) =>
    if m.woken && (s.crew t.crew).resident && ctxRuns s (s.crew t.crew).ctx then
      let (n, s) := s.draw
      let c := firstCycle s ti 1 + Config.delay n
      let s := settle (s.acquire ti (mrScope t.mr)) ti c
      let u : UCtx := { s := s, ti := ti, t := s.team ti, c := c, ps := [{ lo := 0, n := 0, at_ := c }], op := 0xAA }
      u.now s [(d, 0)]
    else s
  | _, _ => s

/-- WAITA_WAKE_RETURN. -/
def execWaitaWakeReturn (team : Nat) (s : State) : Host.Outcome State Fault Refusal := .next (wakeReturn s team)

/-- The sleepers of a context on a line, in the order of their arming. -/
def sleepersOn (s : State) (ctx line : Nat) : List (Nat × Nat) :=
  let l := s.teams.filterMap (fun e => match e.2.status with
    | .sleep m => if m.line = line ∧ !m.woken ∧ (s.crew e.2.crew).ctx = ctx then some (m.order, e.1) else none
    | _ => none)
  l.foldr (fun x acc => (acc.takeWhile (fun y => decide (y.1 < x.1))) ++ x :: acc.dropWhile (fun y => decide (y.1 < x.1))) []

/-- A sleep ends. -/
def wakeTeam (s : State) (ti : Nat) : State := s.updTeam ti (·.wake)

/-- WAKE (R360), a release before any waiter wakes (11 R222). -/
def execWake (d a b : Opnd) (s : State) : Host.Outcome State Fault Refusal :=
  runInstr s (fun ti t => uniform s ti t 0xAB (wordF3 0xAB d a b) false [fld d okS, fld a okS, fld b okZero]
    (mrScope t.mr != 7) [d, a] [d] (fun u => do
      let va := u.rd a
      let s := if outsideScratch va then endIdem u.s t.crew else u.s
      let (s, p) ← uniformPlace s ti .load va 1 false
      u.poison
      let s := s.release ti (mrScope t.mr)
      if p.host then .ok (u.now s [(d, 0)])
      else
        let w := sleepersOn s (s.crew t.crew).ctx p.line
        let w := if u.rd d = 0 then w else w.take (u.rd d)
        .ok (u.now (w.foldl (fun s x => wakeTeam s x.2) s) [(d, w.length)])) true)

/-! ### Fences and completion waits -/

/-- The ordering of a fence: kind 1 acquires, 2 releases, 3 does both. -/
def fenceAt (s : State) (ti kind scope : Nat) : State :=
  let s := if 2 ≤ kind then s.release ti scope else s
  if kind % 2 = 1 then s.acquire ti scope else s

/-- FENCE (R361, 11 R224): it waits for the classes it names, and then releases, acquires, or does both. -/
def execFence (d : Opnd) (imm : BitVec 16) (s : State) : Host.Outcome State Fault Refusal :=
  let i := imm.toNat
  runInstr s (fun ti t => uniform s ti t 0xAC (wordFI 0xAC d imm) false
    [fld d okZero, (i, i / 1024 == 0 && i % 4 != 0 && bitsN i 2 3 != 7)] true [] [] (fun u =>
      if (List.range 5).all (fun c => !bitN i (5 + c) || t.opCount c == 0) then
        .ok (u.done (fenceAt (seeDone u.s ti (fun c => bitN i (5 + c))) ti (i % 4) (bitsN i 2 3)) [] 0)
      else .error (.block (.wait 3))))

/-- WAITO (R362). -/
def execWaito (d : Opnd) (imm : BitVec 16) (s : State) : Host.Outcome State Fault Refusal :=
  let i := imm.toNat
  runInstr s (fun ti t => uniform s ti t 0xAD (wordFI 0xAD d imm) false
    [fld d okZero, (i, i / 2048 == 0 && decide (i % 8 ≤ 4))] true [] [] (fun u =>
      if t.opCount (i % 8) ≤ bitsN i 3 8 then .ok (u.done (seeDone u.s ti (· == i % 8)) [] 0) else .error (.block (.wait 3))))

/-! ### Barriers -/

/-- A team that a barrier no longer waits for. -/
def partyGone (s : State) (ti : Nat) : Bool := (s.team ti).status == .ended || (s.team ti).status == .killed

/-- A waiting party departs, in cycle c where it shares the core of the party that completes the barrier. Its pass was issued when it
arrived (08 R162), so that no port is taken. -/
def depart (core c op : Nat) (s : State) (p : Nat) : State :=
  let t := s.team p
  let at_ := if (s.crew t.crew).core = core then max c t.nextIssue else firstCycle s p 1 + Config.delay s.fresh
  retire s p op 1 [{ lo := 0, n := 0, at_ := at_ }] true []

/-- All of `ps` that wait with status st depart, the party u with them. -/
def departAll (u : UCtx) (st : TStatus) (scope : Nat) (ps : List Nat) : State :=
  let out := ps.filter (fun p => p != u.ti && (u.s.team p).status == st)
  let s := (u.ti :: out).foldl (fun s p => s.acquire p scope) u.s
  let s := out.foldl (depart (u.s.crew u.t.crew).core u.c u.op) s
  u.done { s with fresh := s.fresh + 1 } [] 0

/-- A team that was not yet at the barrier releases as it arrives (11 R222). -/
def UCtx.arriving (u : UCtx) (st : TStatus) (scope : Nat) : State :=
  if u.t.status == st then u.s else u.s.release u.ti scope

/-- Arrival at a barrier of the parties `ps`: complete when every other one waits there or is gone, unless parties that have not been placed again
are awaited too. Departure acquires. -/
def arrive (u : UCtx) (st : TStatus) (scope : Nat) (ps : List Nat) (awaits : Bool := false) : Except Stop State :=
  let s := u.arriving st scope
  if !awaits && ps.all (fun p => p == u.ti || (u.s.team p).status == st || partyGone u.s p) then .ok (departAll { u with s := s } st scope ps)
  else .error (u.part s st)

/-- BAR.CREW (R363). -/
def execBarCrew (d : Opnd) (imm : BitVec 16) (s : State) : Host.Outcome State Fault Refusal :=
  runInstr s (fun ti t => do
    decodeChecks t (wordFI 0xAE d imm) false [fld d okZero] true
    if imm.toNat / 16 ≠ 0 then throw (trapAt 0x02 imm.toNat 0)
    uniform s ti t 0xAE (wordFI 0xAE d imm) false [] true [] [] (fun u =>
      arrive u (.barCrew imm.toNat) 1 (s.crew t.crew).teams))

/-- The teams of every crew of a folio group. -/
def folioTeams (s : State) (ci : Nat) : List Nat :=
  let c := s.crew ci
  (s.crews.filter (fun e => e.2.launch == c.launch && e.2.group == c.group && e.2.status != .none)).flatMap (·.2.teams)

/-- The folio group of a linear index, and its rank there (04 R84). -/
def LRec.groupOf (r : LRec) (ix : Nat) : Nat × Nat :=
  if r.folioMode = 0 then (ix / 8, ix % 8)
  else
    let x := ix % r.gx
    let y := ix / r.gx % r.gy
    let z := ix / (r.gx * r.gy)
    (x / 4 + r.gx / 4 * (y / 2 + r.gy / 2 * z), 4 * (y % 2) + x % 4)

/-- A crew of the folio group was aborted and is to be dispatched afresh: its teams have not arrived (05 R110). -/
def folioAborted (s : State) (ci : Nat) : Bool :=
  (s.launch (s.crew ci).launch).requeued.any (fun e => ((s.crewRec ci).groupOf e.1).1 == (s.crew ci).group)

/-- BAR.FOLIO (R363). -/
def execBarFolio (d : Opnd) (imm : BitVec 16) (s : State) : Host.Outcome State Fault Refusal :=
  runInstr s (fun ti t => do
    decodeChecks t (wordFI 0xAF d imm) false [fld d okZero] true
    if imm.toNat / 16 ≠ 0 then throw (trapAt 0x02 imm.toNat 0)
    uniform s ti t 0xAF (wordFI 0xAF d imm) false [] true [] [] (fun u => do
      if !(s.crewRec t.crew).folio then throw (trapAt 0x02 imm.toNat 1)
      arrive u (.barFolio imm.toNat) 2 (folioTeams u.s t.crew) (folioAborted u.s t.crew)))

/-- What a binding of this chip names: the teams of its crew, or none where the crew has ended; nothing where it is not
yet placed. -/
def boundTeams (s : State) (ctx : Nat) (b : Binding) : Option (List Nat) :=
  match s.crews.find? (fun e => e.2.status != .none && e.2.ctx == ctx && e.2.ix == b.crew &&
      (s.launch e.2.launch).lrec.quire == b.dir && (s.launch e.2.launch).live) with
  | some e => some e.2.teams
  | none =>
    if s.launches.any (fun e => e.2.live && e.2.ctx == ctx && e.2.lrec.quire == b.dir) then none
    else if s.launches.any (fun e => !e.2.live && e.2.ctx == ctx && e.2.lrec.quire == b.dir && e.2.lrec.regs != 0) then some []
    else none

/-- In place of a tag: the team has ended, and is at every barrier of the quire from then on; it runs (R364, log 131). -/
def tagEnded : Nat := 0x10000
def tagRuns : Nat := 0x10001

/-- The arrivals of remote members at a barrier of a quire. -/
def remoteArrived (s : State) (ctx quire tag : Nat) : List (Nat × Nat × Nat) :=
  ((s.ctx ctx).quireBars.find? (fun e => e.1 == quire && e.2.1 == tag)).elim [] (·.2.2)

/-- The crews on this chip of the launches that name a quire. -/
def quireWaiters (s : State) (ctx quire tag : Nat) : List Nat :=
  (s.teams.filter (fun e => e.2.status == .barQuire tag && (s.crew e.2.crew).ctx == ctx &&
    (s.crewRec e.2.crew).quire == quire)).map (·.1)

/-- A member chip's arrival is complete: its crews have as many teams as the local launch's (log 23). -/
def memberArrived (s : State) (ctx tag quire teams me : Nat) (b : Binding) : Bool :=
  if b.chip = s.chipId then
    match boundTeams s ctx b with
    | some ts => ts.all (fun p => p == me || partyGone s p ||
        ((s.team p).status == .barQuire tag && (s.crewRec (s.team p).crew).quire == quire))
    | none => false
  else (List.range teams).all (fun k => (remoteArrived s ctx quire tag ++ remoteArrived s ctx quire tagEnded).contains (b.chip, b.crew, k))

/-- BAR.QUIRE (R363, R365). -/
def execBarQuire (d a b : Opnd) (s : State) : Host.Outcome State Fault Refusal :=
  runInstr s (fun ti t => uniform s ti t 0xB0 (wordF3 0xB0 d a b) false [fld d okZero, fld a okS, fld b okZero] true [a] [] (fun u => do
    let v := u.rd a
    if v / 65536 ≠ 0 then throw (trapOpen u.s 0x02 v)
    let c := s.crew t.crew
    let q := (s.crewRec t.crew).quire
    if c.role = 0xFFFFFFFF then throw (trapAt 0x14 3 0)
    let (s, bs) := hubBindings u.s c.ctx q
    let bs := bs.filterMap id
    if bs.any (fun b => !s.reach b.chip) then throw (trapAt 0x14 4 0)
    let s := { u with s := s }.arriving (.barQuire v) 5
    let chips := ((bs.map (·.chip)).filter (· != s.chipId)).foldl insertNew []
    let s := if t.status == .barQuire v then s else chips.foldl (fun s k => s.send (.bar k c.ctx q v c.ix t.id)) s
    if bs.all (memberArrived s c.ctx v q (s.crewRec t.crew).teams ti) then
      let s' := s.updCtx c.ctx (fun x => { x with quireBars := x.quireBars.filter (fun e => !(e.1 == q && e.2.1 == v)) })
      .ok (departAll { u with s := s' } (.barQuire v) 5 (quireWaiters s' c.ctx q v))
    else throw (u.part s (.barQuire v))))

/-- The arrivals at a barrier of a quire replaced; none are not listed. -/
def putArrived (s : State) (ctx quire tag : Nat) (l : List (Nat × Nat × Nat)) : State :=
  s.updCtx ctx (fun x => { x with
    quireBars := x.quireBars.filter (fun e => !(e.1 == quire && e.2.1 == tag)) ++ (if l.isEmpty then [] else [(quire, tag, l)]) })

/-- BAR_QUIRE_ARRIVAL_MSG: a remote member's arrival is recorded, or that one of its teams has ended or runs; the waiting parties see it when they
are tried again. -/
def execBarQuireArrivalMsg (ctx quire tag chip crew team : Nat) (s : State) : Host.Outcome State Fault Refusal :=
  let now := remoteArrived s ctx quire tag
  let ended := remoteArrived s ctx quire tagEnded
  .next (if !fabricUp s then s
    else if tag = tagRuns then putArrived s ctx quire tagEnded (ended.filter (· != (chip, crew, team)))
    else if now.contains (chip, crew, team) then s
    else putArrived s ctx quire tag (now ++ [(chip, crew, team)]))

/-- The chips of the other members of a quire. -/
def memberChips (s : State) (ctx quire : Nat) : State × List Nat :=
  let (s, bs) := hubBindings s ctx quire
  (s, (((bs.filterMap id).map (·.chip)).filter (· != s.chipId)).foldl insertNew [])

/-- What the other members of its quire do not know of a team: that it has ended, or that it runs where they have it ended. -/
def untold (s : State) (ti : Nat) : Bool :=
  let t := s.team ti
  let c := s.crew t.crew
  c.role != 0xFFFFFFFF && (s.launch c.launch).live &&
    (partyGone s ti != (s.ctx c.ctx).toldEnded.contains ((s.crewRec t.crew).quire, c.ix, t.id))

/-- The other members of its quire are told of a team. -/
def tellMembers (s : State) (ti : Nat) : State :=
  let t := s.team ti
  let c := s.crew t.crew
  let q := (s.crewRec t.crew).quire
  let gone := partyGone s ti
  let (s, chips) := memberChips s c.ctx q
  let s := chips.foldl (fun s k => s.send (.bar k c.ctx q (if gone then tagEnded else tagRuns) c.ix t.id)) s
  s.updCtx c.ctx (fun x => { x with toldEnded := if gone then x.toldEnded ++ [(q, c.ix, t.id)] else x.toldEnded.filter (· != (q, c.ix, t.id)) })

/-- A team that has ended, by END or by being killed, counts as arrived on the other members' chips too (R364). -/
def tellEnded (s : State) : State := (((s.teams.map (·.1)).filter (untold s))).foldl tellMembers s

/-! ### Stage rings -/

/-- A ring's descriptor, at its offset within the crew's scratch (09 R188). -/
structure Ring where
  off : Nat
  nslots : Nat
  lsize : Nat
  closed : Nat
  prods : Nat
  phase : Nat
  head : Nat
  tail : Nat
  base : Nat
  deriving DecidableEq, Repr

def ringAt (c : Crew) (off : Nat) : Ring :=
  let r := scratchBytes c off 64
  { off := off, nslots := field r 0 1, lsize := field r 1 1, closed := field r 2 1, prods := field r 3 1,
    phase := field r 4 4, head := field r 8 4, tail := field r 12 4, base := field r 16 4 }

/-- Bytes of a descriptor written. -/
def ringPut (s : State) (ci off o n v : Nat) : State := writePlace s (s.crew ci).ctx (.scratch ci (off + o)) (leBytes n v) false

/-- The phase bit of a filled slot of index c (R189). -/
def Ring.phaseOf (r : Ring) (c : Nat) : Bool := c / r.nslots % 2 == 0
def Ring.filled (r : Ring) (c : Nat) : Bool := bitN r.phase (c % r.nslots) == r.phaseOf c
/-- The slots claimed and not yet freed. -/
def Ring.used (r : Ring) : Nat := (r.head + 2 ^ 32 - r.tail) % 2 ^ 32
/-- The scratch offset of the slot of index c. -/
def Ring.slot (r : Ring) (c : Nat) : Nat := r.base + c % r.nslots * 2 ^ r.lsize

/-- The checks of R366, in their order; `hi` is the first must-be-0 bit of Sa. -/
def ringChecks (s : State) (ci v hi : Nat) (poison : Except Stop Unit) : Except Stop Ring := do
  if v / 2 ^ hi ≠ 0 then throw (trapAt 0x02 0 v)
  let off := v % 2 ^ 20
  if off % 64 ≠ 0 then throw (trapAt 0x0B off 0)
  if (s.crew ci).scratchSize < off + 64 then throw (trapAt 0x0D (winLo + off) 0)
  poison
  let r := ringAt (s.crew ci) off
  if !(2 ≤ r.nslots && r.nslots ≤ 32) then throw (trapAt 0x02 1 v)
  if !(6 ≤ r.lsize && r.lsize ≤ 16) then throw (trapAt 0x02 2 v)
  if r.prods = 0 then throw (trapAt 0x02 3 v)
  if r.base % 2 ^ r.lsize ≠ 0 || (s.crew ci).scratchSize < r.base + r.nslots * 2 ^ r.lsize then throw (trapAt 0x02 4 v)
  return r

/-- SLOT.WAIT (R367). -/
def execSlotWait (d a b : Opnd) (s : State) : Host.Outcome State Fault Refusal :=
  runInstr s (fun ti t => uniform s ti t 0xB1 (wordF3 0xB1 d a b) false [fld d okS, fld a okS, fld b okS] true [a, b] [d] (fun u => do
    let r ← ringChecks u.s t.crew (u.rd a) 20 u.poison
    let c := u.rd b % 2 ^ 32
    if r.nslots ≤ (c + 2 ^ 32 - r.tail) % 2 ^ 32 then throw (trapAt 0x02 5 (u.rd a))
    if r.filled c then .ok (u.now (u.s.acquire ti 1) [(d, winLo + r.slot c)])
    else if r.closed == r.prods && c == r.head && !((u.s.crew t.crew).ringClaims.any (·.1 == r.off)) then
      .ok (u.now (u.s.acquire ti 1) [(d, 2 ^ 64 - 1)])
    else throw (.block (.wait 2))) true)

/-- SLOT.FREE (R368). -/
def execSlotFree (d a b : Opnd) (s : State) : Host.Outcome State Fault Refusal :=
  runInstr s (fun ti t => uniform s ti t 0xB2 (wordF3 0xB2 d a b) false [fld d okZero, fld a okS, fld b okS] true [a, b] [] (fun u => do
    let r ← ringChecks u.s t.crew (u.rd a) 20 u.poison
    let k := u.rd b
    if k = 0 || r.used < k then throw (trapAt 0x02 6 (u.rd a))
    .ok (u.done (ringPut (u.s.release ti 1) t.crew r.off 12 4 (r.tail + k)) [] 0)) true)

/-- RING.EOS (R369): the close is requested; RING_PRODUCER_CLOSE records it when it may. -/
def execRingEos (d a b : Opnd) (s : State) : Host.Outcome State Fault Refusal :=
  runInstr s (fun ti t => uniform s ti t 0xB3 (wordF3 0xB3 d a b) false [fld d okZero, fld a okS, fld b okZero] true [a] [] (fun u => do
    let v := u.rd a
    let r ← ringChecks u.s t.crew v 23 u.poison
    let i := bitsN v 20 3
    if !bitN r.prods i then throw (trapAt 0x02 7 v)
    if bitN r.closed i || (u.s.crew t.crew).ringEos.any (fun e => e.1 == r.off && e.2.1 == i) then .ok (u.done u.s [] 0)
    else
      let (o, s) := u.s.tick
      .ok (u.done (s.updCrew t.crew (fun c => { c with ringEos := c.ringEos ++ [(r.off, i, ti, o)] })) [] 0)) true)

/-- Commands of a team issued before `o` that name a producer of a ring and are not done. -/
def ringPending (s : State) (ci off prod team o : Nat) : Bool :=
  let core := s.core (s.crew ci).core
  core.chans.any (fun e => e.2.q.any (fun x => x.crew == ci && x.team == team && x.ring == some (off, prod) && decide (x.order < o))) ||
  (s.team team).streams.any (fun e => e.2.ring && e.2.running && e.2.ringOff == off && e.2.prod == prod && decide (e.2.order < o))

/-- RING_PRODUCER_CLOSE (R189, R369). -/
def execRingProducerClose (crew ring prod : Nat) (s : State) : Host.Outcome State Fault Refusal :=
  let c := s.crew crew
  .next (match c.ringEos.find? (fun e => e.1 == ring && e.2.1 == prod) with
    | some (_, _, team, o) =>
      if c.resident && ctxRuns s c.ctx && !ringPending s crew ring prod team o &&
          !c.ringClaims.any (fun e => e.1 == ring && e.2.2 == prod) then
        let s := s.updCrew crew (fun c => { c with ringEos := c.ringEos.filter (fun e => !(e.1 == ring && e.2.1 == prod)) })
        ringPut s crew ring 2 1 ((ringAt c ring).closed ||| 2 ^ prod)
      else s
    | none => s)

/-! ### DONATE -/

/-- A team's declared count changed by 8·g: registers lost or gained read 0 from then on. -/
def regrant (g : Int) (t : Team) : Team :=
  let n := ((t.nregs : Int) + 8 * g).toNat
  let keep := min n t.nregs
  { t with nregs := n, v := t.v.filter (fun e => decide (e.1 / 1024 < keep)), vPoison := t.vPoison.filter (fun e => decide (e / 1024 < keep)) }

/-- A change that a team can take: at least 1, at least its declared minimum, at most 128. -/
def grantOk (t : Team) (g : Int) (least : Nat) : Bool :=
  let n := (t.nregs : Int) + 8 * g
  decide (1 ≤ n ∧ (least : Int) ≤ n ∧ n ≤ 128)

/-- DONATE (R370, 08 R172). -/
def execDonate (d a b : Opnd) (s : State) : Host.Outcome State Fault Refusal :=
  runInstr s (fun ti t => uniform s ti t 0xB4 (wordF3 0xB4 d a b) false [fld d okZero, fld a okS, fld b okS] true [a, b] [] (fun u => do
    if u.rd a / 16 ≠ 0 then throw (trapOpen u.s 0x02 (u.rd a))
    if u.rd b / 65536 ≠ 0 then throw (trapOpen u.s 0x02 (u.rd b))
    if !u.t.flight.isEmpty then throw .hold
    let id := u.rd a
    let g := sextN 8 (u.rd b % 256)
    let least := u.rd b / 256
    let range : Stop := trapAt 0x16 id 0
    match crewTeam u.s t.crew id with
    | none => throw range
    | some p =>
      let pt := u.s.team p
      if p = ti || partyGone u.s p then throw range
      match pt.status with
      | .donate q pg pl =>
        if q = t.id then
          if pg + g = 0 && grantOk t g least && grantOk pt pg pl && t.id % 4 == id % 4 then
            -- both complete in one cycle: after every pending write of either, and after each one's pass
            let c := max (max u.c u.t.lastDue) (max pt.lastDue pt.nextIssue)
            let s := (u.s.updTeam ti (fun t => regrant g t.commitAll)).updTeam p (fun t => regrant pg t.commitAll)
            let s := retire s p 0xB4 1 [{ lo := 0, n := 0, at_ := c }] true []
            .ok (retire s ti 0xB4 1 [{ lo := 0, n := 0, at_ := c }] true [])
          else throw (.become (stopped (stopped u.s p (trapAt 0x16 t.id 0)) ti range))
        else throw (u.part u.s (.donate id g least))
      | _ => throw (u.part u.s (.donate id g least))))

end Sys2Proof.Machine
end

