-- ==== Sys2Proof/Machine/Engines.lean ====
section
/-! DEFINITION. What the engines of a core share: their accesses for a team, their faults and the traps they cause
(10 R204, R206), and the matrix issue governor (08 R176, R177). -/

namespace Sys2Proof.Machine

/-- An engine of a core acting for a team. -/
def engAgent (s : State) (ti source : Nat) : Agent := { teamAgent s ti none with source := source }

/-- n bytes at va read by an engine for a team of crew ci, with poison; the crew's drafts are seen (05 R110, 11 R227), and the caches hold
the lines with the command's hint (09 R181). -/
def engRead (s : State) (a : Agent) (ci va n : Nat) (hint : Nat := 0) : State × Except VaFail (List Byte × Bool) :=
  match placesOf s a .engR (piecesOf va n) with
  | (s, .error e) => (s, .error e)
  | (s, .ok ps) =>
    let r := ps.map (fun x => engineRead s ci x.2.1 x.2.2)
    let s := (ps.flatMap (fun x => x.2.1.firsts x.2.2)).foldl (fun s p => engineLine s (s.crew ci).core p hint) s
    (s, .ok (r.flatMap (·.1), r.any (·.2)))

/-- The first poisoned word of n bytes at va as an engine of a crew's core reads them. -/
def engBad (s : State) (a : Agent) (ci va n : Nat) : Option Nat :=
  match (placesOf s { a with spec := true } .engR (piecesOf va n)).2 with
  | .error _ => none
  | .ok ps => ps.findSome? (fun x => (firstBad (engineRead s ci) x.2.1 x.2.2).map (x.1 + ·))

/-- A trap that an engine causes in a team, taken at its next instruction boundary (R206). -/
def deferTrap (s : State) (ti : Nat) (x : TrapInfo) : State :=
  if partyGone s ti then s else s.updTeam ti (fun t => { t with engTraps := t.engTraps ++ [x] })

/-- The first of n data bytes at va that no place can hold, whatever the page table says: an address that is not canonical, or one of the reserved
range outside the crew's windows (09 R178), no more than 9 MiB of which are one. -/
def dataRange (s : State) (a : Agent) (va n : Nat) : Option VaFail :=
  let w := max va winLo
  if n = 0 then none
  else if 2 ^ 52 ≤ va then some (.canon va)
  else (piecesOf w (min (va + n - w) (2 ^ 24))).findSome? (fun x => match addrClass s a x.1 with
    | some .canon => some (.canon x.1)
    | some .prot => some (.prot x.1)
    | _ => placeEnd s a x.1 x.2)

/-- The data ranges that a command gives are checked at issue, so that it traps before it takes any effect (19 R395; log 130). -/
def dataOk (s : State) (a : Agent) (l : List (Nat × Nat)) : Except Stop Unit :=
  match l.findSome? (fun x => dataRange s a x.1 x.2) with
  | some (.canon v) => .error (trapAt 0x0C v 0)
  | some (.prot v) => .error (trapAt 0x0D v 0)
  | _ => .ok ()

/-- What an engine's access without a place comes to: a wait on a record, the abort of an idempotent crew, or the end of the command, as after a
DENY (10 R206), where a gathered index gives an address that no place can hold (log 130). -/
inductive EngStop where
  | wait (r : FaultRef)
  | gone
  | trap (x : TrapInfo)

def engStop (s : State) (a : Agent) (acc : Acc) (again : Option Nat) : VaFail → State × EngStop
  | .canon v => (s, .trap { code := 0x0C, info0 := w64 v })
  | .prot v => (s, .trap { code := 0x0D, info0 := w64 v })
  | .fault v c l =>
    let ci := a.crew.getD 0
    let drafts := a.crew.isSome && (s.crew ci).drafting
    let (s, rs) := recordAll s a acc (fun p => again == some p) drafts [{ lane := 0xFFFF, va := v, cause := c, level := l }]
    if drafts then (abortCrew s ci rs, .gone)
    else (s, .wait (rs.headD { seq := 0, va := v, cause := c, lane := 0xFFFF }))

/-- The team waits a free time within its instruction. -/
def engDelay (s : State) (ti : Nat) : State :=
  let (n, s) := s.draw
  s.updTeam ti (fun t => { t with nextIssue := t.nextIssue + Config.delay n })

/-! ### The governor -/

/-- The budget as of window k. -/
def govAt (c : Core) (k : Nat) : Core :=
  if k ≤ c.govWindow then c
  else { c with
    govCur := if k = c.govWindow + 1 ∧ c.govUsed ≠ 0 then min c.govCap (2 * c.govCur) else 1,
    govUsed := 0, govWindow := k,
    govStall := (c.govStall + (match c.govFrom with
      | some f => 64 * (c.govWindow + 1) - f
      | none => 0)) % 2 ^ 64,
    govFrom := none }

/-- The first cycle after the window in which a core is. -/
def windowEnd (c : Core) : Nat := 64 * (max c.govWindow (c.cycle / 64) + 1)

/-- The core's next window begins. -/
def nextWindow (s : State) (core : Nat) : State :=
  if s.freezing == 0 && !s.tripped then
    s.updCore core (fun c => { govAt c (windowEnd c / 64) with cycle := windowEnd c })
  else s

/-- No team of a core may issue, but for those that the governor blocks. -/
def coreIdle (s : State) (core : Nat) : Bool :=
  s.teams.all (fun e => (s.crew e.2.crew).core != core || !canIssue s e.1 || e.2.status == .wait 4)

/-- GOV_WINDOW_START: the budget as of the core's present window; the next one begins where time passes on the core with no team that could
issue (R163, R176). -/
def execGovWindowStart (core : Nat) (s : State) : Host.Outcome State Fault Refusal :=
  .next (if coreIdle s core then nextWindow s core
    else if s.freezing == 0 && !s.tripped then s.updCore core (fun c => govAt c (c.cycle / 64)) else s)

/-- One matrix issue in cycle c, or the team blocked until the window ends. -/
def govTake (s : State) (ti c : Nat) : Except Stop State :=
  let ci := (s.crew (s.team ti).crew).core
  let k := govAt (s.core ci) (c / 64)
  if k.govUsed < k.govCur then .ok (s.setCore ci { k with govUsed := k.govUsed + 1 })
  else .error (.become (stopped (s.setCore ci { k with govFrom := some (min c (k.govFrom.getD c)) }) ti (.block (.wait 4))))

end Sys2Proof.Machine
end

