-- ==== Sys2Proof/Machine/Tiles.lean ====
section
/-! DEFINITION. Opcodes 0xC0 to 0xC8: tiles, the matrix engine and its queue, the accumulator and the drain port
(19 R372 to R384, 13 R267, 09 R184 to R187), and the events of the matrix queue. -/

namespace Sys2Proof.Machine

def Crew.tile (c : Crew) (k : Nat) : Tile := cget {} c.tiles k
def Crew.setTile (c : Crew) (k : Nat) (t : Tile) : Crew := { c with tiles := cset {} c.tiles k t }
def tileShape (k : Nat) : Stop := trapAt 0x13 k 0
/-- Columns of an accumulator row (R377). -/
def accCap (f64 : Bool) : Nat := if f64 then 32 else 64
/-- Bytes of a tile's image (R373). -/
def imageSize (rows cols ty : Nat) : Nat := rows * cols * tySize ty + (if ty = 13 then rows * cols / 32 else 0)
def Tile.size (t : Tile) : Nat := imageSize t.rows t.cols t.ty
/-- Element types of tiles and tile objects. -/
def tileTy (ty : Nat) : Bool := decide (8 ≤ ty ∧ ty ≤ 13)
/-- The binary8 fields fit the type: b8p not 0 for B8 and B8X, no field set otherwise. -/
def tileB8 (ty b8 : Nat) : Bool := if ty = 12 ∨ ty = 13 then b8 % 8 != 0 else b8 % 32 == 0

/-- A tile field: a tile number (14 R272). -/
def fldTile (t : BitVec 8) : Nat × Bool := (t.toNat, decide (t.toNat < 16))

/-- The command of a team whose object phase has not ended. -/
def MmaCmd.readsFor (m : MmaCmd) (ti : Nat) : Bool := m.team == ti && m.op == .reading

/-- A command of the group that needs TILES; `late` as for `uniform`. One whose object phase goes on has its counter entry. -/
def matrixOp (s : State) (ti : Nat) (t : Team) (op : Nat) (word : W32) (fields : List (Nat × Bool)) (reads writes : List Opnd)
    (body : UCtx → Except Stop State) (late : Bool := false) : Except Stop State :=
  uniform s ti t op word (!(s.crewRec t.crew).tiles) fields true reads writes (fun u => do
    if !(s.crew t.crew).mmq.any (·.readsFor ti) then opRoom u.t 2
    body u) late

/-- The checks of an object's address and header before anything is read, and then poison of the S registers (10 R210). -/
def objAddress (u : UCtx) (va : Nat) : Except Stop Unit := do
  if va % 64 ≠ 0 then throw (trapAt 0x0B va 0)
  dataOk u.s (engAgent u.s u.ti 4) [(va, 64)]
  u.poison

/-- A command added to a matrix queue: at its end, but before commands of the same cycle from higher partitions (R384). -/
def mmqInsert (m : MmaCmd) : List MmaCmd → List MmaCmd
  | [] => [m]
  | x :: r => if x.at_ = m.at_ ∧ m.part < x.part ∧ !x.started then m :: x :: r else x :: mmqInsert m r

/-- A command enters the crew's matrix queue, counted in class 2 (R384); one whose object phase took more than one step has its place there. -/
def mmaPush (s : State) (ti c : Nat) (op : MmaOp) : State :=
  let ci := (s.team ti).crew
  if (s.crew ci).mmq.any (·.readsFor ti) then
    s.updCrew ci (fun c => { c with mmq := c.mmq.map (fun m => if m.readsFor ti then { m with op := op } else m) })
  else
    let (id, s) := opIssue s ti 2
    s.updCrew ci (fun k => { k with mmq := mmqInsert { op := op, team := ti, id := id, at_ := c, part := (s.team ti).partition } k.mmq })

/-! ### Tiles -/

/-- TCFG (R374): the configuration holds from issue, the zero image comes in queue order. -/
def execTcfg (t : BitVec 8) (a b : Opnd) (s : State) : Host.Outcome State Fault Refusal :=
  let word := wordT3 0xC0 t a b
  runInstr s (fun ti tm => matrixOp s ti tm 0xC0 word [fldTile t, fld a okS, fld b okZero] [a] [] (fun u => do
    let v := u.rd a
    if v / 2 ^ 26 ≠ 0 then throw (trapOpen u.s 0x02 v)
    let rows := bitsN v 0 8
    let cols := bitsN v 8 8
    let ty := bitsN v 16 5
    let b8 := bitsN v 21 5
    if !(1 ≤ rows && rows ≤ 128 && 1 ≤ cols && cols ≤ 128 && tileTy ty && tileB8 ty b8 && (ty != 13 || cols % 32 == 0) &&
        decide (imageSize rows cols ty ≤ 8192)) then throw (tileShape t.toNat)
    let s := u.s.updCrew tm.crew (fun c => c.setTile t.toNat { c.tile t.toNat with cfg := true, rows := rows, cols := cols, ty := ty, b8 := b8 })
    .ok (u.done (mmaPush s ti u.c (.tcfg t.toNat)) [] 0)))

/-! ### Tile objects (09 R184 to R186) -/

/-- A tile object's header. -/
structure Obj where
  va : Nat
  layout : Nat
  ty : Nat
  b8 : Nat
  rows : Nat
  cols : Nat
  pitch : Nat
  deriving DecidableEq, Repr

def objOf (va : Nat) (h : List Byte) : Obj :=
  { va := va, layout := field h 4 1, ty := field h 5 1, b8 := field h 7 1, rows := field h 8 2, cols := field h 10 2, pitch := field h 12 4 }

/-- The bytes from one row or column to the next. -/
def Obj.step (o : Obj) : Nat :=
  if o.pitch ≠ 0 then o.pitch else if o.layout = 1 then o.rows * tySize o.ty else o.cols * tySize o.ty

/-- Byte of element (i, j) within the payload (R185). The swizzled spans are those of the row. -/
def Obj.elemOff (o : Obj) (i j : Nat) : Nat :=
  let e := tySize o.ty
  if o.layout = 1 then j * o.step + i * e
  else if 2 ≤ o.layout ∧ o.layout ≤ 4 then
    let sp := 32 * 2 ^ (o.layout - 2)
    let x := j * e
    i * o.step + x / sp * sp + Nat.xor (x % sp / 16) (i % (sp / 16)) * 16 + x % 16
  else i * o.step + j * e


/-- A failed access of an object that the team waits for at its instruction, which issued in cycle c: with a fault, the command takes its place in
the matrix queue, and later commands wait behind it (10 R204). -/
def objFail (s : State) (ti c : Nat) : VaFail → Stop
  | .canon v => trapAt 0x0C v 0
  | .prot v => trapAt 0x0D v 0
  | .fault v cause l =>
    let s := if (s.teamCrew ti).drafting then s else mmaPush s ti c .reading
    .become (faultTeamAs s ti 4 .engR [{ lane := 0xFFFF, va := v, cause := cause, level := l }])

/-- The header of a read under the version protocol (R186), for a command that issued in cycle c. The whole object is read in one step, so the
version does not change within it; an odd version is an attempt, and how many attempts this step makes is free. The command has its place in the
matrix queue meanwhile (R384). After 1,024 attempts the instruction traps. -/
def objHeader (s : State) (ti c va : Nat) : Except Stop (State × Obj) :=
  let a := engAgent s ti 4
  match engRead s a (s.team ti).crew va 64 with
  | (s, .error e) => .error (objFail s ti c e)
  | (s, .ok (h, _)) =>
    let v := field h 0 4
    if v % 2 = 0 then .ok (s, objOf va h)
    else
      let (n, s) := s.draw
      let k := (s.team ti).tries + 1 + Config.choice n
      if k < 1024 then .error (.become ((mmaPush s ti c .reading).updTeam ti (fun t => { t with tries := k })))
      else .error (.become (stopped s ti (trapAt 0x1A v 0)))

/-- The layout of an object against the command's (R185). -/
def objLayout (o : Obj) (layout : Nat) (relayout : Bool) : Except Stop Unit :=
  if 5 < o.layout then .error (trapAt 0x0E o.layout 0)
  else if o.layout ≠ layout ∧ !relayout then .error (trapAt 0x0E o.layout layout)
  else .ok ()

/-- Pieces of the payload read in order: each n bytes at an offset. -/
def objPieces (s : State) (ti c : Nat) (o : Obj) : List (Nat × Nat) → Except Stop (State × List (List Byte × Bool))
  | [] => .ok (s, [])
  | (off, n) :: r =>
    match engRead s (engAgent s ti 4) (s.team ti).crew (o.va + 64 + off) n with
    | (s, .error e) => .error (objFail s ti c e)
    | (s, .ok x) =>
      match objPieces s ti c o r with
      | .error e => .error e
      | .ok (s, xs) => .ok (s, x :: xs)

/-- The elements of the tile, row by row, then the scales, as places of the object. Of an unknown element type there are none. -/
def objPlan (o : Obj) (tr : Bool) : List (Nat × Nat) :=
  if !tileTy o.ty then [] else
  let rows := if tr then o.cols else o.rows
  let cols := if tr then o.rows else o.cols
  (List.range (rows * cols)).map (fun k => let i := k / cols; let j := k % cols
    (if tr then o.elemOff j i else o.elemOff i j, tySize o.ty)) ++
  (if o.ty = 13 then (List.range (rows * cols / 32)).map (fun k => (o.rows * o.step + k, 1)) else [])

/-- Offsets of the 8-byte words that hold poisoned pieces laid one after another. -/
def poisonWords : Nat → List (List Byte × Bool) → List Nat
  | _, [] => []
  | off, (bs, bad) :: r =>
    let rest := poisonWords (off + bs.length) r
    if bad then (if rest.contains (off / 8 * 8) then rest else off / 8 * 8 :: rest) else rest

/-- The object of an LDT or ACC.LD read whole, for a command that issued in cycle c; only then come the checks of what it is (R375). -/
def objRead (s : State) (ti c va : Nat) (tr : Bool) : Except Stop (State × Obj × List (List Byte × Bool)) := do
  let (s, o) ← objHeader s ti c va
  let (s, xs) ← objPieces s ti c o (objPlan o tr)
  return (s, o, xs)

/-- LDT (R375). -/
def execLdt (t : BitVec 8) (a b : Opnd) (s : State) : Host.Outcome State Fault Refusal :=
  let word := wordT3 0xC1 t a b
  runInstr s (fun ti tm => matrixOp s ti tm 0xC1 word [fldTile t, fld a okS, fld b okS] [a, b] [] (fun u => do
    let va := u.rd a
    let v := u.rd b
    let lay := bitsN v 0 4
    let tr := bitN v 5
    objAddress u va
    if v / 64 ≠ 0 || 5 < lay then throw (trapOpen u.s 0x02 v)
    let tile := (u.s.crew tm.crew).tile t.toNat
    if !tile.cfg then throw (tileShape t.toNat)
    let (s, o, xs) ← objRead u.s ti u.c va tr
    objLayout o lay (bitN v 4)
    if o.ty != tile.ty || o.b8 != tile.b8 || !(if tr then o.rows == tile.cols && o.cols == tile.rows else o.rows == tile.rows && o.cols == tile.cols) ||
        (tr && o.ty == 13) || (o.ty == 13 && (o.layout != 5 || lay != 5)) || (o.layout != lay && (o.layout == 5 || lay == 5)) then
      throw (tileShape t.toNat)
    .ok (u.done (mmaPush (engDelay s ti) ti u.c (.setTile t.toNat (xs.flatMap (·.1)) (poisonWords 0 xs))) [] 0)) true)

/-- Byte b of the image that TMOV takes from registers (R376). -/
def tmovByte (t : Team) (c v L b : Nat) : Byte :=
  BitVec.ofNat 8 ((t.read c (.v (v + b / (4 * L))) (b / 4 % L)).toNat / 2 ^ (8 * (b % 4)))

/-- TMOV (R376): every lane's registers are read in one pass. -/
def execTmov (t : BitVec 8) (a b : Opnd) (s : State) : Host.Outcome State Fault Refusal :=
  let word := wordT3 0xC2 t a b
  runInstr s (fun ti tm => do
    decodeChecks tm word (!(s.crewRec tm.crew).tiles) [fldTile t, fld a (okV false), fld b okZero] true
    let v := match a with
      | .v k => k.val
      | _ => 0
    let L := tm.lanes
    let tile := (s.crew tm.crew).tile t.toNat
    let n := if tile.cfg then (tile.size + 4 * L - 1) / (4 * L) else 0
    let regs := (span v n).map Reg.v
    opRoom tm 2
    rangeChecks tm [(a, n)]
    let use := useRegs a.code regs false
    let ps := bumpLast (← passesOf s ti 0xC2 [(0, 0)] (span v n) [] [use]) (passReady tm [use] 0 0 L)
    let c := lastPass ps
    match (List.range L).find? (fun l => regs.any (regPoisoned tm c l)) with
    | some l => throw (trapAt 0x0F (2 ^ 64 - 1) 0 (some l))
    | none => pure ()
    undersized (s.crewRec tm.crew).chk tm [{ lo := 0, n := L, at_ := c }] [use] (fun _ _ => true)
    if !tile.cfg then throw (tileShape t.toNat)
    let img := (List.range tile.size).map (tmovByte tm c v L)
    .ok (retire (mmaPush (settle s ti c) ti c (.setTile t.toNat img [])) ti 0xC2 1 ps true []))

/-! ### The accumulator and products -/

/-- ACC.CFG (R377). -/
def execAccCfg (d a b : Opnd) (s : State) : Host.Outcome State Fault Refusal :=
  let word := wordF3 0xC5 d a b
  runInstr s (fun ti t => matrixOp s ti t 0xC5 word [fld d okZero, fld a okS, fld b okZero] [a] [] (fun u => do
    let v := u.rd a
    if v / 2 ≠ 0 then throw (trapOpen u.s 0x02 v)
    let s := u.s.updCrew t.crew (fun c => { c with accF64 := v == 1 })
    .ok (u.done (mmaPush s ti u.c (.accCfg (v == 1))) [] 0)))

/-- MMA and MMA.Z (R378). -/
def mmaIssue (op : Nat) (zero : Bool) (d : Opnd) (x y : BitVec 8) (s : State) : Host.Outcome State Fault Refusal :=
  let word := wordM3 op d x y
  runInstr s (fun ti t => matrixOp s ti t op word [fld d okS, fldTile x, fldTile y] [d] [] (fun u => do
    let s ← govTake u.s ti u.c
    let base := u.rd d
    if base / 4096 ≠ 0 then throw (trapOpen u.s 0x02 base)
    let c := s.crew t.crew
    let ta := c.tile x.toNat
    let tb := c.tile y.toNat
    if !ta.cfg then throw (tileShape x.toNat)
    if !tb.cfg || ta.cols != tb.cols || ta.ty != tb.ty then throw (tileShape y.toNat)
    if (c.accF64 != (ta.ty == 11)) || accCap c.accF64 < tb.rows || 3072 < base + ta.rows then throw (tileShape 0x10)
    .ok (u.done (mmaPush s ti u.c (.mma zero base x.toNat y.toNat ta.rows tb.rows ta.cols ta.ty ta.b8 tb.ty tb.b8 c.accF64
      (bitsN t.mr.toNat 24 4))) [] 0)))

def execMma (d : Opnd) (x y : BitVec 8) (s : State) : Host.Outcome State Fault Refusal := mmaIssue 0xC3 false d x y s
def execMmaZ (d : Opnd) (x y : BitVec 8) (s : State) : Host.Outcome State Fault Refusal := mmaIssue 0xC4 true d x y s

/-- DRAIN (R380): the team's earlier drain is dropped at once. -/
def execDrain (d a b : Opnd) (s : State) : Host.Outcome State Fault Refusal :=
  let word := wordF3 0xC6 d a b
  runInstr s (fun ti t => matrixOp s ti t 0xC6 word [fld d okZero, fld a okS, fld b okS] [a, b] [] (fun u => do
    let v := u.rd a
    let w := u.rd b
    if v / 2 ^ 24 ≠ 0 then throw (trapOpen u.s 0x02 v)
    if w / 2 ^ 15 ≠ 0 || bitN w 7 then throw (trapOpen u.s 0x02 w)
    let f64 := (u.s.crew t.crew).accF64
    let dr : Drain := { first := bitsN v 0 12, nrows := bitsN v 12 12, col := bitsN w 0 7, ncols := bitsN w 8 7, f64 := f64 }
    if dr.nrows = 0 || dr.ncols = 0 || 3072 < dr.first + dr.nrows || accCap f64 < dr.col + dr.ncols then throw (tileShape 0x10)
    let s := u.s.updTeam ti (fun t => { t with drain := none })
    .ok (u.done (mmaPush s ti u.c (.drain ti dr)) [] 0)))

/-- The fields of ACC.ST's control (R382). -/
def stTy (w : Nat) : Nat := bitsN w 31 5
def stRows (w : Nat) : Nat := bitsN w 12 12
def stCols (w : Nat) : Nat := bitsN w 24 7
def stB8 (w : Nat) : Nat := bitsN w 36 5
def stLayout (w : Nat) : Nat := bitsN w 41 3
def stAon (w : Nat) : Bool := bitN w 44

/-- The object that ACC.ST writes. -/
def stObj (va w : Nat) : Obj :=
  { va := va, layout := stLayout w, ty := stTy w, b8 := stB8 w, rows := stRows w, cols := stCols w, pitch := 0 }

/-- ACC.ST (R382). -/
def execAccSt (d a b : Opnd) (s : State) : Host.Outcome State Fault Refusal :=
  let word := wordF3 0xC7 d a b
  runInstr s (fun ti t => matrixOp s ti t 0xC7 word [fld d okZero, fld a okS, fld b okS] [a, b] [] (fun u => do
    let va := u.rd a
    let w := u.rd b
    objAddress u va
    if w / 2 ^ 48 ≠ 0 then throw (trapOpen u.s 0x02 w)
    let f64 := (u.s.crew t.crew).accF64
    let ty := stTy w
    let lay := stLayout w
    let row := stCols w * tySize ty
    if !tileTy ty || ty == 13 || !tileB8 ty (stB8 w) || 5 ≤ lay || stRows w = 0 || stCols w = 0 ||
        3072 < bitsN w 0 12 + stRows w || accCap f64 < stCols w || (2 ≤ lay && row % (32 * 2 ^ (lay - 2)) != 0) ||
        (stAon w && decide (65536 < stRows w * row)) then throw (tileShape 0x10)
    dataOk u.s (engAgent u.s ti 4) [(va, 64 + stRows w * row)]
    let s := if outsideScratch va then endIdem u.s t.crew else u.s
    .ok (u.done (mmaPush s ti u.c (.accSt va (w64 w) f64)) [] 0)) true)

/-- An element of an object as the accumulator takes it (R383). -/
def accLdElem (o : Obj) (f64 : Bool) (x scale : Nat) : W64 :=
  let v := (tyFmt o.ty o.b8).value x
  let v := if o.ty = 13 then (if scale = 255 then .nan else v.scale ((scale : Int) - 127)) else v
  w64 ((if f64 then fmtF64 else fmtF32).roundV 0 false false 0 v).1

/-- ACC.LD (R383). -/
def execAccLd (d a b : Opnd) (s : State) : Host.Outcome State Fault Refusal :=
  let word := wordF3 0xC8 d a b
  runInstr s (fun ti t => matrixOp s ti t 0xC8 word [fld d okZero, fld a okS, fld b okS] [a, b] [] (fun u => do
    let va := u.rd a
    let v := u.rd b
    let lay := bitsN v 12 4
    let first := bitsN v 0 12
    objAddress u va
    if v / 2 ^ 17 ≠ 0 || 5 < lay then throw (trapOpen u.s 0x02 v)
    let (s, o, xs) ← objRead u.s ti u.c va false
    objLayout o lay (bitN v 16)
    let f64 := (s.crew t.crew).accF64
    if !tileTy o.ty || !tileB8 o.ty o.b8 || 3072 < first + o.rows || accCap f64 < o.cols || (o.ty == 13 && (o.layout != 5 || lay != 5)) then
      throw (tileShape 0x10)
    let n := o.rows * o.cols
    let scale (k : Nat) : Nat := ofLE ((xs.getD (n + k / 32) ([], false)).1)
    let vals := (List.range n).map (fun k => accLdElem o f64 (ofLE ((xs.getD k ([], false)).1)) (scale k))
    let bad := (List.range o.rows).filter (fun i => (List.range o.cols).any (fun j =>
      (xs.getD (i * o.cols + j) ([], false)).2 || (o.ty == 13 && (xs.getD (n + (i * o.cols + j) / 32) ([], false)).2)))
    .ok (u.done (mmaPush (engDelay s ti) ti u.c (.accLd f64 first o.rows o.cols vals (bad.map (first + ·)))) [] 0)) true)

/-! ### The effects of queued commands -/

/-- Elements per chunk (13 R267). -/
def chunkOf (ty : Nat) : Nat := if ty = 10 then 8 else if ty = 11 then 4 else 32

/-- A tile's element as an operand: its value under fzi. -/
def tileElem (t : Tile) (ty b8 k i j flush : Nat) : FV :=
  let e := tySize ty
  let off := (i * k + j) * e
  (tyFmt ty b8).operand (bitN flush (if tyNarrow ty then 0 else 2))
    (ofLE ((List.range e).map (fun x => cget 0 t.img (off + x))))

/-- The scale byte of a block of 32 along k. -/
def tileScale (t : Tile) (rows k i j : Nat) : Nat := (cget 0 t.img (rows * k + i * (k / 32) + j / 32)).toNat

/-- The exact value of a chunk: elements j to j + w - 1 of row i of A and row l of B. -/
def chunkValue (A B : Tile) (m n k tyA b8A tyB b8B flush i l j : Nat) : FV :=
  let w := min (chunkOf tyA) (k - j)
  let ps := (span j w).map (fun x => ((tileElem A tyA b8A k i x flush).mul (tileElem B tyB b8B k l x flush)).1)
  let v := match ps with
    | [] => FV.fin false 0 1
    | p :: r => r.foldl (fun x y => (x.add 0 y).1) p
  if tyA = 13 then
    let ga := tileScale A m k i j
    let gb := tileScale B n k l j
    if ga = 255 ∨ gb = 255 then .nan else v.scale ((ga : Int) + gb - 254)
  else v

/-- One element of the product: one rounding for each chunk in ascending order. -/
def mmaElem (f64 : Bool) (flush : Nat) (chunks : List FV) (acc : Nat) : Nat :=
  let f := if f64 then fmtF64 else fmtF32
  chunks.foldl (fun c v => (f.roundV 0 false (bitN flush 3) 0 ((f.value c).add 0 v).1).1) acc

/-- MMA's effect (R379). -/
def mmaEffect (zero : Bool) (base ta tb m n k tyA b8A tyB b8B : Nat) (f64 : Bool) (flush : Nat) (c : Crew) : Crew :=
  let A := c.tile ta
  let B := c.tile tb
  let starts := (List.range ((k + chunkOf tyA - 1) / chunkOf tyA)).map (· * chunkOf tyA)
  let acc := (List.range (m * n)).foldl (fun acc e =>
    let i := e / n
    let j := e % n
    let key := (base + i) * 64 + j
    let old := if zero then 0 else (cget 0 c.acc key).toNat
    cset 0 acc key (w64 (mmaElem f64 flush (starts.map (chunkValue A B m n k tyA b8A tyB b8B flush i j)) old))) c.acc
  let rows := span base m
  let bad := !A.poison.isEmpty || !B.poison.isEmpty
  let clean := zero && n == accCap f64
  { c with acc := acc,
           accPoison := if bad then rows.foldl insertNew c.accPoison else if clean then c.accPoison.filter (!rows.contains ·) else c.accPoison }

/-- The accumulator region a command writes: first row, rows, columns. -/
def mmaRegion : MmaOp → Option (Nat × Nat × Nat)
  | .mma _ base _ _ m n _ _ _ _ _ _ _ => some (base, m, n)
  | .accCfg _ => some (0, 3072, 64)
  | .accLd _ first rows cols _ _ => some (first, rows, cols)
  | _ => none

/-- An armed region holds an element of the region that has not been delivered (R381). -/
def drainHolds (s : State) (c : Crew) (r : Nat × Nat × Nat) : Bool :=
  c.teams.any (fun ti => !partyGone s ti && (match (s.team ti).drain with
    | some d => d.armed && (List.range (d.nrows * d.ncols)).any (fun p => decide (d.pos ≤ p) &&
        decide (r.1 ≤ d.first + p / d.ncols ∧ d.first + p / d.ncols < r.1 + r.2.1 ∧ d.col + p % d.ncols < r.2.2))
    | none => false))

/-- The head of a crew's matrix queue changed. -/
def mmaHead (s : State) (ci : Nat) (f : MmaCmd → MmaCmd) : State :=
  s.updCrew ci (fun c => { c with mmq := match c.mmq with
    | m :: r => f m :: r
    | [] => [] })

/-- The head of the matrix queue leaves it, and its counter entry retires. -/
def mmaRetire (s : State) (ci : Nat) (m : MmaCmd) : State :=
  opRetire (s.updCrew ci (fun c => { c with mmq := c.mmq.drop 1 })) m.team 2 m.id

/-- What an access of ACC.ST without a place comes to. -/
def mmaStop (s : State) (ci : Nat) (m : MmaCmd) (a : Agent) (acc : Acc) (e : VaFail) : State :=
  match engStop s a acc m.again e with
  | (s, .wait r) => mmaHead s ci (fun m => { m with wait := some r })
  | (s, .gone) => s
  | (s, .trap x) => deferTrap (mmaRetire s ci m) m.team x

/-- The bytes of element (i, j) as ACC.ST stores it. -/
def stElem (c : Crew) (f64 : Bool) (w i j : Nat) : List Byte :=
  leBytes (tySize (stTy w)) ((tyFmt (stTy w) (stB8 w)).roundV 0 (bitN w 45) false 0 (accVal c f64 (bitsN w 0 12 + i) j)).1

/-- The header that ACC.ST writes after the version. -/
def stHeader (w : Nat) : List Byte :=
  leBytes 1 (stLayout w) ++ leBytes 1 (stTy w) ++ leBytes 1 (if stAon w then 1 else 0) ++ leBytes 1 (stB8 w) ++
  leBytes 2 (stRows w) ++ leBytes 2 (stCols w) ++ leBytes 52 0

/-- Parts of an ACC.ST's writing: the odd version, the header, then the elements. -/
def stParts (w : Nat) : Nat := 2 + stRows w * stCols w

/-- The odd version that follows v (R382). -/
def oddVersion (v : Nat) : Nat := (if v % 2 = 0 then v + 1 else v + 2) % 2 ^ 32

/-- Part k of an ACC.ST: where and what. -/
def stPart (c : Crew) (va w : Nat) (f64 : Bool) (ver k : Nat) : Nat × List Byte × Bool :=
  if k = 0 then (va, leBytes 4 ver, false)
  else if k = 1 then (va + 4, stHeader w, false)
  else
    let i := (k - 2) / stCols w
    let j := (k - 2) % stCols w
    (va + 64 + (stObj va w).elemOff i j, stElem c f64 w i j, c.accPoison.contains (bitsN w 0 12 + i))

/-- Parts k, k + 1, … written. -/
def stWrite (a : Agent) (c : Crew) (va w : Nat) (f64 : Bool) (ver : Nat) (s : State) : List Nat → State × Except VaFail Unit
  | [] => (s, .ok ())
  | k :: r =>
    let p := stPart c va w f64 ver k
    match placesOf s a .engW (piecesOf p.1 p.2.1.length) with
    | (s, .error e) => (s, .error e)
    | (s, .ok ps) =>
      let core := (s.crew (a.crew.getD 0)).core
      let s := (ps.flatMap (fun x => x.2.1.firsts x.2.2)).foldl (fun s q => storeLine s core q (bitsN w 46 2)) s
      stWrite a c va w f64 ver (writePieces s core a.ctx p.2.2 (bitsN w 46 2) ps p.2.1) r

/-- Bytes of the object that ACC.ST writes. -/
def stSize (w : Nat) : Nat := 64 + stRows w * stCols w * tySize (stTy w)

/-- Every agent sees n bytes at va as they stand. -/
def showVa (s : State) (a : Agent) (va n : Nat) : State :=
  match (placesOf s { a with spec := true } .engR (piecesOf va n)).2 with
  | .ok ps => ps.foldl (fun s x => s.unhide x.2.1 x.2.2) s
  | .error _ => s

/-- The next part of an ACC.ST takes effect; with AON the whole object does, in one step, for everyone (09 R187). The version is read and then
written, and every agent sees an odd version at once, so that none takes part of the object for a good read (09 R186, 11 R230). -/
def stStep (s : State) (ci : Nat) (m : MmaCmd) (va w : Nat) (f64 : Bool) : State :=
  let a := engAgent s m.team 4
  let c := s.crew ci
  if m.started then
    if stParts w ≤ m.done then s
    else
      match stWrite a c va w f64 m.ver s [m.done] with
      | (s, .ok ()) => mmaHead s ci (fun m => { m with done := m.done + 1, again := none })
      | (s, .error e) => mmaStop s ci m a .engW e
  else
    match engRead s a ci va 4 with
    | (s, .error e) => mmaStop s ci m a .engR e
    | (s, .ok (vb, _)) =>
      let ver := oddVersion (ofLE vb)
      if stAon w then
        match placesOf s a .engW (piecesOf va (stSize w)) with
        | (s, .error e) => mmaStop s ci m a .engW e
        | (s, .ok _) =>
          match stWrite a c va w f64 ((ver + 1) % 2 ^ 32) (releaseAt s ci 4) (List.range (stParts w)) with
          | (s, .ok ()) => mmaHead (showVa s a va (stSize w)) ci (fun m => { m with started := true, done := stParts w, ver := ver, again := none })
          | (s, .error e) => mmaStop s ci m a .engW e
      else
        match stWrite a c va w f64 ver s [0] with
        | (s, .ok ()) => mmaHead (showVa s a va 4) ci (fun m => { m with started := true, done := 1, ver := ver, again := none })
        | (s, .error e) => mmaStop s ci m a .engW e

/-- A command's effect on its crew, for the commands that act at once; DRAIN arms the team's drain unless a later DRAIN of
the team is queued. -/
def mmaAct (s : State) (ci : Nat) (m : MmaCmd) (rest : List MmaCmd) : State :=
  match m.op with
  | .tcfg k => s.updCrew ci (fun c => c.setTile k { c.tile k with img := [], poison := [] })
  | .setTile k img bad => s.updCrew ci (fun c => c.setTile k { c.tile k with
      img := (List.zip (List.range img.length) img).filter (fun e => e.2 != 0), poison := bad })
  | .mma z base ta tb m n k tyA b8A tyB b8B f64 flush => s.updCrew ci (mmaEffect z base ta tb m n k tyA b8A tyB b8B f64 flush)
  | .accCfg _ => s.updCrew ci (fun c => { c with acc := [], accPoison := [] })
  | .drain ti d =>
    if rest.any (fun x => match x.op with
      | .drain tj _ => tj == ti
      | _ => false) then s else s.updTeam ti (fun t => { t with drain := some { d with armed := true } })
  | .accLd f64 first rows cols vals bad => s.updCrew ci (fun c =>
      let acc := (List.range (rows * cols)).foldl (fun acc k =>
        cset 0 acc ((first + k / cols) * 64 + k % cols) (vals.getD k 0)) c.acc
      let whole := cols == accCap f64
      let keep := if whole then c.accPoison.filter (!(span first rows).contains ·) else c.accPoison
      { c with acc := acc, accPoison := bad.foldl insertNew keep })
  | .accSt .. | .reading => s

/-- A crew on this core has a command in the matrix engine. -/
def mmaBusy (s : State) (core ci : Nat) : Bool :=
  s.crews.any (fun e => e.1 != ci && e.2.resident && e.2.core == core && (e.2.mmq.head?.elim false (·.started)))

/-- The head of a crew's queue that the engine could take now. -/
def mmaReady (s : State) (c : Crew) : Option MmaCmd :=
  match c.mmq with
  | [] => none
  | m :: _ =>
    if !c.resident || !ctxRuns s c.ctx || m.wait.isSome || m.started || m.op == .reading || (match mmaRegion m.op with
      | some r => drainHolds s c r
      | none => false) then none else some m

/-- A command of another crew on the core came earlier to the engine (R379, log 132). -/
def mmaEarlier (s : State) (core ci id : Nat) : Bool :=
  s.crews.any (fun e => e.1 != ci && e.2.core == core && (match mmaReady s e.2 with
    | some m => decide (m.id < id)
    | none => false))

/-- A team of a lower partition may yet issue a command in the cycle of this one, which enters the queue before it (R384). -/
def mmaTies (s : State) (c : Crew) (m : MmaCmd) : Bool :=
  decide ((s.core c.core).cycle ≤ m.at_) &&
  c.teams.any (fun t => decide ((s.team t).partition < m.part ∧ (s.team t).nextIssue ≤ m.at_) && (s.team t).status == .run && canIssue s t)

/-- MATRIX_COMMAND_START: the head of the crew's queue takes effect; an ACC.ST in its parts. -/
def execMatrixCommandStart (crew : Nat) (s : State) : Host.Outcome State Fault Refusal :=
  let c := s.crew crew
  .next (match c.mmq with
    | [] => s
    | m :: rest =>
      if !c.resident || !ctxRuns s c.ctx || m.wait.isSome || mmaBusy s c.core crew ||
          (!m.started && ((mmaReady s c).isNone || mmaEarlier s c.core crew m.id || mmaTies s c m)) then s
      else
        match m.op with
        | .accSt va w f64 => stStep s crew m va w.toNat f64
        | _ =>
          if m.started then s
          else mmaAct (mmaHead s crew (fun m => { m with started := true })) crew m rest)

/-- MATRIX_COMMAND_COMPLETE: the head of the queue has taken effect and retires. An ACC.ST releases at DEV scope, so that every agent sees its object,
and then writes its final version, which is visible before the command completes (R382). -/
def execMatrixCommandComplete (crew : Nat) (s : State) : Host.Outcome State Fault Refusal :=
  let c := s.crew crew
  .next (match c.mmq with
    | [] => s
    | m :: _ =>
      if !c.resident || !ctxRuns s c.ctx || m.wait.isSome || !m.started then s
      else
        match m.op with
        | .accSt va w _ =>
          if m.done < stParts w.toNat then s
          else if stAon w.toNat then mmaRetire s crew m
          else
            let a := engAgent s m.team 4
            (match writeVa (showVa (releaseAt s crew 4) a va (stSize w.toNat)) a .engW va (leBytes 4 ((m.ver + 1) % 2 ^ 32)) with
              | (s, .ok ()) => mmaRetire (showVa s a va 4) crew m
              | (s, .error e) => mmaStop s crew m a .engW e)
        | _ => mmaRetire s crew m)

end Sys2Proof.Machine
end

