-- ==== Sys2Proof/Machine/Copy.lean ====
section
/-! DEFINITION. Opcodes 0xC9 to 0xCF and their engines: copy channels (09 R182, R183, 19 R385 to R387), the gather engine
(R388, R389), stream records and the Feed (R390 to R393, 09 R193), ring slots (R189), and the return of memory responses
(18 R352). -/

namespace Sys2Proof.Machine

/-! ### Results in flight -/

/-- An interlocked result arrives: its writes are performed after a free time, which is not before the issue of the
instruction has finished. A stall value of 15 holds the next instruction until then (08 R164). -/
def landFlight (s : State) (ti i : Nat) (more : List (Reg × Nat × W64)) : State :=
  let t := s.team ti
  match t.flight[i]? with
  | none => s
  | some f =>
    let (n, s) := s.draw
    let due := max (s.core (s.crew t.crew).core).cycle t.nextIssue + Config.delay n
    s.updTeam ti (fun t => { t with
      flight := t.flight.eraseIdx i,
      nextIssue := if t.holdId = some f.id then max t.nextIssue due else t.nextIssue,
      pend := t.pend ++ (f.writes ++ more).map (fun w => { reg := w.1, lane := w.2.1, val := w.2.2, due := due, pc := t.pc, il := true }) })

/-- The writes of an access with another value: a 64-bit S register whole, V registers word by word. -/
def revalue (v : Nat) : List (Reg × Nat × W64) → List (Reg × Nat × W64)
  | [] => []
  | (.s n, l, _) :: r => (.s n, l, w64 v) :: revalue v r
  | (g, l, _) :: r => (g, l, w64 (v % 2 ^ 32)) :: revalue (v / 2 ^ 32) r

/-- The writes of a load that is performed when its response comes (11 R225): the accesses still open read anew, as the core sees
memory by then. -/
def lateWrites (s : State) (ci : Nat) (f : InFlight) : List (Reg × Nat × W64) :=
  let new := f.late.flatMap (fun l =>
    let (bs, bad) := loadRead s ci (.phys l.key) l.size
    if bad then [] else revalue (ofLE bs) l.writes)
  f.writes.map (fun w => (new.find? (fun x => x.1 == w.1 && x.2.1 == w.2.1)).getD w)

/-- MEM_RESPONSE_RETURN (18 R352). -/
def execMemResponseReturn (team idx : Nat) (s : State) : Host.Outcome State Fault Refusal :=
  .next (match (s.team team).flight[idx]? with
    | some f =>
      if f.kind ≠ .mem then s
      else
        let s' := f.late.foldl (fun s l => fillLine s (s.teamCrew team).core (.phys l.key) l.hint) s
        if !f.late.isEmpty && Config.lateRead s.fresh then
          let ws := lateWrites s (s.team team).crew f
          landFlight (s'.updTeam team (fun t => { t with flight := t.flight.map (fun g => if g == f then { g with writes := ws, late := [] } else g) })) team idx []
        else landFlight s' team idx []
    | none => s)

/-! ### Copy channels -/

def State.chan (s : State) (core k : Nat) : Chan := cget {} (s.core core).chans k
def State.updChan (s : State) (core k : Nat) (f : Chan → Chan) : State :=
  s.updCore core (fun c => { c with chans := cset {} c.chans k (f (cget {} c.chans k)) })

/-- A ring that a command may name: its descriptor passes R366. -/
def ringFor (s : State) (ci off : Nat) : Option Ring := (ringChecks s ci off 20 (.ok ())).toOption

/-- CPY (R385, R386). -/
def execCpy (d a b : Opnd) (s : State) : Host.Outcome State Fault Refusal :=
  runInstr s (fun ti t => uniform s ti t 0xC9 (wordF3 0xC9 d a b) false [fld d okS, fld a okS, fld b okZero] true [a] [d] (fun u => do
    opRoom u.t 0
    let va := u.rd a
    if va % 32 ≠ 0 then throw (trapAt 0x0B va 0)
    let (s, r) ← issueRead u.s ti va 32
    u.poison
    let flags := field r 21 1
    let k := field r 20 1
    let ring := bitN flags 1
    if field r 28 4 ≠ 0 || field r 23 1 ≠ 0 || flags / 16 ≠ 0 || 7 < k then throw (trapAt 0x02 1 va)
    let prod := field r 22 1
    let off := field r 24 4
    if ring then
      match ringFor s t.crew off with
      | none => throw (trapAt 0x02 2 va)
      | some g => if 7 < prod || !bitN g.prods prod then throw (trapAt 0x02 3 va)
    let dst := field r 8 8
    let bytes := field r 16 4
    dataOk s (engAgent s ti 1) ((field r 0 8, bytes) :: (if ring then [] else [(dst, bytes)]))
    let reset := bitN flags 0
    let s := if !ring && outsideScratch dst then endIdem s t.crew else s
    let core := (s.crew t.crew).core
    let w0 := if reset then 0 else (s.chan core k).sum
    let (id, s) := opIssue s ti 0
    let x : CpyXfer := { team := ti, crew := t.crew, src := field r 0 8, dst := dst, bytes := bytes, reset := reset, hint := bitsN flags 2 2,
                         ring := if ring then some (off, prod) else none, order := id }
    let s := s.updChan core k (fun c => { c with sum := (w0 + bytes) % 2 ^ 64, q := c.q ++ [x] })
    .ok (u.now s [(d, w0)])) true)

/-- WPRD (R387). -/
def execWprd (d a b : Opnd) (s : State) : Host.Outcome State Fault Refusal :=
  runInstr s (fun ti t => uniform s ti t 0xCA (wordF3 0xCA d a b) false [fld d okS, fld a okS, fld b okZero] true [a] [d] (fun u => do
    let v := u.rd a
    if v / 8 ≠ 0 then throw (trapOpen u.s 0x02 v)
    .ok (u.done u.s [(d, (u.s.chan (u.s.crew t.crew).core v).wp)] 4 true)))

/-- The command of an order still asks for a slot. -/
def askLive (s : State) (ci order : Nat) : Bool :=
  (s.core (s.crew ci).core).chans.any (fun e => e.2.q.any (fun x => x.crew == ci && x.order == order)) ||
  (s.crew ci).teams.any (fun ti => (s.team ti).streams.any (fun e => e.2.running && e.2.ring && e.2.order == order))

/-- A producer of a ring asks for a slot (09 R189): claims are granted in order of arrival. The ring's state after it, and the claimed
index, if it is granted. -/
def ringClaim (s : State) (ci off prod order : Nat) : State × Option Nat :=
  let r := ringAt (s.crew ci) off
  let asks := (s.crew ci).ringAsks.filter (fun a => askLive s ci a.2)
  let asks := if asks.any (· == (off, order)) then asks else asks ++ [(off, order)]
  if r.used < r.nslots ∧ (asks.find? (·.1 == off)) = some (off, order) then
    let s := ringPut s ci off 8 4 (r.head + 1)
    (s.updCrew ci (fun c => { c with ringClaims := c.ringClaims ++ [(off, r.head, prod)], ringAsks := asks.filter (· != (off, order)) }), some r.head)
  else (s.updCrew ci (fun c => { c with ringAsks := asks }), none)

/-- Zero bytes from a place in a slot to its end. -/
def ringPad (s : State) (ci off idx from_ : Nat) : State :=
  let r := ringAt (s.crew ci) off
  writePlace s (s.crew ci).ctx (.scratch ci (r.slot idx + from_)) (List.replicate (2 ^ r.lsize - from_) 0) false

/-- A claim's fill is visible: its phase bit is set. -/
def ringVisible (s : State) (ci : Nat) (cl : Nat × Nat × Nat) : State :=
  let r := ringAt (s.crew ci) cl.1
  let k := cl.2.1 % r.nslots
  let s := ringPut s ci cl.1 4 4 (if r.phaseOf cl.2.1 then r.phase ||| 2 ^ k else r.phase &&& (2 ^ 32 - 1 - 2 ^ k))
  s.updCrew ci (fun c => { c with ringClaims := c.ringClaims.filter (· != cl) })

/-- A claimed slot is still being filled. -/
def ringHeld (s : State) (ci : Nat) (cl : Nat × Nat × Nat) : Bool :=
  (s.core (s.crew ci).core).chans.any (fun e => e.2.q.any (fun x => x.crew == ci && x.ring == some (cl.1, cl.2.2) && x.slot == some cl.2.1)) ||
  (s.crew ci).teams.any (fun ti => (s.team ti).streams.any (fun e => e.2.ring && e.2.ringOff == cl.1 && e.2.slot == some cl.2.1))

/-- RING_SLOT_FILLED (R189). -/
def execRingSlotFilled (crew ring slot : Nat) (s : State) : Host.Outcome State Fault Refusal :=
  let c := s.crew crew
  .next (match c.ringClaims.find? (fun cl => cl.1 == ring && cl.2.1 % (ringAt c ring).nslots == slot && !ringHeld s crew cl) with
    | some cl => if c.resident && ctxRuns s c.ctx then ringVisible s crew cl else s
    | none => s)

/-- How moving one part of a transfer ends. -/
inductive Moved where
  | on (s : State)              -- moved, or ready to move
  | stuck (s : State)           -- no slot, or it waits on a fault or ended

/-- The head of a channel's queue changed. -/
def cpyHead (s : State) (core k : Nat) (f : CpyXfer → CpyXfer) : State :=
  s.updChan core k (fun c => { c with q := match c.q with
    | x :: r => f x :: r
    | [] => [] })

/-- The head leaves its channel, and its counter entry retires. -/
def cpyRetire (s : State) (core k : Nat) (x : CpyXfer) : State :=
  opRetire (s.updChan core k (fun c => { c with q := c.q.drop 1 })) x.team 0 x.order

/-- Source and destination overlap, so that the destination bytes are undefined (R386). -/
def CpyXfer.overlaps (x : CpyXfer) : Bool :=
  x.ring.isNone && decide (x.src < x.dst + x.bytes ∧ x.dst < x.src + x.bytes)

/-- An access of a transfer without a place. -/
def cpyStop (s : State) (core k : Nat) (x : CpyXfer) (a : Agent) (acc : Acc) (e : VaFail) : State :=
  match engStop s a acc x.again e with
  | (s, .wait r) => cpyHead s core k (fun x => { x with wait := some r })
  | (s, .gone) => s
  | (s, .trap y) => deferTrap (cpyRetire s core k x) x.team y

/-- n bytes delivered: the transfer goes on behind them, and WP counts them. -/
def cpyCount (s : State) (core k n : Nat) (slot : Option Nat) : State :=
  (cpyHead s core k (fun x => { x with done := x.done + n, slot := slot, again := none })).updChan core k (fun c => { c with wp := (c.wp + n) % 2 ^ 64 })

/-- The next word or byte of a started transfer moves. -/
def cpyUnit (s : State) (core k : Nat) (x : CpyXfer) : Moved :=
  let a := engAgent s x.team 1
  let src := wrapN 64 (x.src + x.done)
  match x.ring with
  | none =>
    let dst := wrapN 64 (x.dst + x.done)
    let n := if src % 8 = 0 ∧ dst % 8 = 0 ∧ 8 ≤ x.bytes - x.done then 8 else 1
    match engRead s a x.crew src n x.hint with
    | (s, .error e) => .stuck (cpyStop s core k x a .engR e)
    | (s, .ok (bs, bad)) =>
      let (m, s) := s.draw
      let bs := if x.overlaps then (List.range n).map (Config.undefByte m) else bs
      match writeVa s a .engW dst bs bad x.hint with
      | (s, .error e) => .stuck (cpyStop s core k x a .engW e)
      | (s, .ok ()) => .on (cpyCount s core k n none)
  | some (off, prod) =>
    match x.slot with
    | none =>
      (match ringClaim s x.crew off prod x.order with
        | (s, some i) => .on (cpyHead s core k (fun x => { x with slot := some i }))
        | (s, none) => .stuck s)
    | some i =>
      let r := ringAt (s.crew x.crew) off
      let o := x.done % 2 ^ r.lsize
      let n := if src % 8 = 0 ∧ o % 8 = 0 ∧ 8 ≤ x.bytes - x.done then 8 else 1
      match engRead s a x.crew src n x.hint with
      | (s, .error e) => .stuck (cpyStop s core k x a .engR e)
      | (s, .ok (bs, bad)) =>
        let s := writePlace s a.ctx (.scratch x.crew (r.slot i + o)) bs bad
        let last := x.done + n = x.bytes
        let s := if last ∧ o + n < 2 ^ r.lsize then ringPad s x.crew off i (o + n) else s
        .on (cpyCount s core k n (if last ∨ o + n = 2 ^ r.lsize then none else some i))

/-- A transfer that may move. -/
def cpyLive (s : State) (x : CpyXfer) : Bool := (s.crew x.crew).resident && ctxRuns s (s.crew x.crew).ctx && x.wait.isNone

/-- CPY_TRANSFER_START: the head transfer of a channel starts; once it has started, its next part moves. -/
def execCpyTransferStart (core chan : Nat) (s : State) : Host.Outcome State Fault Refusal :=
  .next (match (s.chan core chan).q with
    | [] => s
    | x :: _ =>
      if !cpyLive s x then s
      else if !x.started then
        let s := cpyHead s core chan (fun x => { x with started := true })
        if x.reset then s.updChan core chan (fun c => { c with wp := 0 }) else s
      else if x.bytes ≤ x.done then s
      else match cpyUnit s core chan x with
        | .on s => s
        | .stuck s => s)

/-- The rest of a transfer, as far as it can move. -/
def cpyRest (core k : Nat) : Nat → State → State
  | 0, s => s
  | n + 1, s =>
    match (s.chan core k).q with
    | [] => s
    | x :: _ =>
      if x.bytes ≤ x.done then s
      else match cpyUnit s core k x with
        | .on s => cpyRest core k n s
        | .stuck s => s

/-- What is left of the started head transfer of a channel moves; when every byte is visible it retires. -/
def cpyFinish (core chan : Nat) (s : State) : State :=
  match (s.chan core chan).q with
  | [] => s
  | x :: _ =>
    if !cpyLive s x || !x.started then s
    else
      let s := cpyRest core chan (2 * x.bytes + 2) s
      match (s.chan core chan).q with
      | [] => s
      | y :: _ =>
        if y.order = x.order ∧ y.bytes ≤ y.done then
          let s := match y.ring with
            | some (off, prod) => ((s.crew y.crew).ringClaims.filter (fun cl => cl.1 == off && cl.2.2 == prod && !ringHeld s y.crew cl)).foldl (fun s cl => ringVisible s y.crew cl) s
            | none => s
          cpyRetire s core chan y
        else s

/-- CPY_TRANSFER_COMPLETE. -/
def execCpyTransferComplete (core chan : Nat) (s : State) : Host.Outcome State Fault Refusal := .next (cpyFinish core chan s)

/-! ### The gather engine -/

/-- GTH (R388). -/
def execGth (d a b : Opnd) (s : State) : Host.Outcome State Fault Refusal :=
  runInstr s (fun ti t => uniform s ti t 0xCB (wordF3 0xCB d a b) false [fld d okS, fld a okS, fld b okZero] true [a] [d] (fun u => do
    opRoom u.t 1
    let va := u.rd a
    if va % 64 ≠ 0 then throw (trapAt 0x0B va 0)
    let (s, r) ← issueRead u.s ti va 48
    u.poison
    let lsz := field r 28 1
    let flags := field r 29 1
    let al := min (2 ^ lsz) 8
    if field r 36 12 ≠ 0 || field r 30 2 ≠ 0 || flags / 8 ≠ 0 || 6 < lsz || field r 8 8 % 4 ≠ 0 || field r 8 8 % al ≠ 0 ||
        field r 0 8 % al ≠ 0 || field r 16 8 % al ≠ 0 then throw (trapAt 0x02 1 va)
    dataOk s (engAgent s ti 2) [(field r 8 8, 4 * field r 24 4), (field r 16 8, field r 24 4 * 2 ^ lsz)]
    let s := if outsideScratch (field r 16 8) then endIdem s t.crew else s
    let (id, s) := opIssue s ti 1
    let regs := (dstWrites u.t true d u.c 0 0).map (·.1)
    let g : GthCmd := { team := ti, id := id, crew := t.crew, base := field r 0 8, idx := field r 8 8, dst := field r 16 8,
                        count := field r 24 4, lsz := lsz, bound := field r 32 4, signed := bitN flags 0, hint := bitsN flags 1 2,
                        sd := match d with
                          | .s n => some n.val
                          | _ => none }
    let s := s.updCore (s.crew t.crew).core (fun c => { c with gth := c.gth ++ [g] })
    let s := if regs.isEmpty then s else s.updTeam ti (fun t => { t with
      flight := t.flight ++ [{ id := t.nIssued, kind := .gth, regs := regs, writes := [] }] })
    .ok (u.done s [] 0)) true)

/-- One element of a gather. -/
def gthElem (s : State) (g : GthCmd) : State × Except (Acc × VaFail) Bool :=
  let a := engAgent s g.team 2
  let n : Nat := 2 ^ g.lsz
  match engRead s a g.crew (wrapN 64 (g.idx + 4 * g.done)) 4 g.hint with
  | (s, .error e) => (s, .error (.engR, e))
  | (s, .ok (ib, ibad)) =>
    let j : Int := if g.signed then sextN 32 (ofLE ib) else (ofLE ib : Int)
    let dst := wrapN 64 (g.dst + g.done * n)
    let out := decide (j < 0 ∨ (g.bound : Int) ≤ j)
    let (s, v) := if out then (s, .ok (List.replicate n 0, false)) else engRead s a g.crew (wrapN 64 (g.base + j * n)) n g.hint
    match v with
    | .error e => (s, .error (.engR, e))
    | .ok (bs, bad) =>
      match writeVa s a .engW dst bs (bad || ibad) g.hint with
      | (s, .error e) => (s, .error (.engW, e))
      | (s, .ok ()) => (s, .ok out)

def gthHead (s : State) (core : Nat) (f : GthCmd → GthCmd) : State :=
  s.updCore core (fun c => { c with gth := match c.gth with
    | g :: r => f g :: r
    | [] => [] })

/-- The first gather result of a team in flight gets its value. -/
def gthResult (s : State) (g : GthCmd) (v : Option Nat) : State :=
  match g.sd with
  | none => s
  | some r =>
    match (s.team g.team).flight.findIdx? (fun f => f.kind == .gth) with
    | some i => landFlight s g.team i (match v with
        | some v => [(.s r, 0, w64 v)]
        | none => [])
    | none => s

/-- The head gather leaves the engine. -/
def gthRetire (s : State) (core : Nat) (g : GthCmd) (v : Option Nat) : State :=
  opRetire (gthResult (s.updCore core (fun c => { c with gth := c.gth.drop 1 })) g v) g.team 1 g.id

/-- Up to n more elements of the head gather. -/
def gthRun (core : Nat) : Nat → State → State
  | 0, s => s
  | n + 1, s =>
    match (s.core core).gth with
    | [] => s
    | g :: _ =>
      if g.count ≤ g.done ∨ g.wait.isSome then s
      else
        match gthElem s g with
        | (s, .ok out) => gthRun core n (gthHead s core (fun g => { g with done := g.done + 1, bad := g.bad + (if out then 1 else 0), again := none }))
        | (s, .error (acc, e)) =>
          match engStop s (engAgent s g.team 2) acc g.again e with
          | (s, .wait r) => gthHead s core (fun g => { g with wait := some r })
          | (s, .gone) => s
          | (s, .trap x) => deferTrap (gthRetire s core g none) g.team x

/-- The head gather, of which the engine has written elements, runs to its end, where its Sd gets the count of indices out of range. -/
def gthFinish (core : Nat) (s : State) : State :=
  match (s.core core).gth with
  | [] => s
  | g :: _ =>
    if g.wait.isSome then s
    else
      let s := gthRun core (g.count - g.done) s
      match (s.core core).gth with
      | [] => s
      | h :: _ => if h.id = g.id ∧ h.team = g.team ∧ h.count ≤ h.done then gthRetire s core h (some h.bad) else s

/-- GTH_COMMAND_COMPLETE (R389): the engine writes elements of its head command, as many as a free choice says, or all of
them; after the last one the command retires and Sd receives the count of indices out of range. -/
def execGthCommandComplete (core : Nat) (s : State) : Host.Outcome State Fault Refusal :=
  .next (match (s.core core).gth with
    | [] => s
    | g :: _ =>
      if !((s.crew g.crew).resident && ctxRuns s (s.crew g.crew).ctx) || g.wait.isSome then s
      else
        let (n, s) := s.draw
        let k := Config.choice n
        if k ≠ 0 ∧ k < g.count - g.done then gthRun core k s else gthFinish core s)

/-! ### Stream records -/

/-- A stream is the index stream of a running one. -/
def indexesRunning (t : Team) (f : Nat) : Bool := t.streams.any (fun e => e.2.running && e.2.indirect && e.2.ixs == f)

/-- SREC.LD (R390). -/
def execSrecLd (t : BitVec 8) (a b : Opnd) (s : State) : Host.Outcome State Fault Refusal :=
  runInstr s (fun ti tm => uniform s ti tm 0xCC (wordT3 0xCC t a b) false [fldTile t, fld a okS, fld b okZero] true [a] [] (fun u => do
    let va := u.rd a
    let f := t.toNat
    if va % 64 ≠ 0 then throw (trapAt 0x0B va 0)
    let (s, r) ← issueRead u.s ti va 64
    u.poison
    let ez := field r 12 1
    let kind := field r 13 1
    let ixs := field r 14 1
    if field r 28 36 ≠ 0 || ez / 8 ≠ 0 || ez % 4 = 3 || field r 15 1 / 4 ≠ 0 || field r 8 4 = 0 || 1 < kind then throw (trapAt 0x02 1 va)
    let esz := 2 ^ (ez % 4)
    if field r 0 8 % esz ≠ 0 || field r 16 8 % esz ≠ 0 then throw (trapAt 0x02 2 va)
    let x := u.t.stream ixs
    if kind = 1 && (ixs = f || 15 < ixs || !x.loaded || x.indirect || x.esz != 4) then throw (trapAt 0x02 3 va)
    if (u.t.stream f).running || indexesRunning u.t f then throw (trapAt 0x02 4 va)
    let y : Stream := { loaded := true, base := field r 0 8, stride := sextN 64 (field r 16 8), length := field r 8 4, esz := esz,
                        signed := bitN ez 2, indirect := kind == 1, ixs := ixs % 16, hint := field r 15 1, bound := field r 24 4 }
    .ok (u.done (s.updTeam ti (·.setStream f y)) [] 0)) true)

/-- SREC.GO (R391). -/
def execSrecGo (t : BitVec 8) (a b : Opnd) (s : State) : Host.Outcome State Fault Refusal :=
  runInstr s (fun ti tm => uniform s ti tm 0xCD (wordT3 0xCD t a b) false [fldTile t, fld a okS, fld b okZero] true [a] [] (fun u => do
    let v := u.rd a
    let f := t.toNat
    let ring := bitN v 0
    if v / 2 ^ 27 ≠ 0 || (if ring then bitsN v 1 3 != 0 else bitsN v 4 20 != 0) then throw (trapOpen u.s 0x02 v)
    let x := u.t.stream f
    if !x.loaded || x.running then throw (trapAt 0x02 5 v)
    let q := bitsN v 1 3
    let off := bitsN v 4 20
    let prod := bitsN v 24 3
    let bind := (u.t.q q).bind
    if !ring && (bindDir bind || bindSrc bind != 1 || bindStrm bind != f) then throw (trapAt 0x02 6 v)
    if ring then
      match ringFor u.s tm.crew off with
      | none => throw (trapAt 0x02 7 v)
      | some g => if !bitN g.prods prod then throw (trapAt 0x02 8 v)
    let (o, s) := (closeLate u.s ti).tick
    .ok (u.done (s.updTeam ti (fun t => t.setStream f { x with
      running := true, short := false, pos := 0, ring := ring, q := q, ringOff := off, prod := prod, slot := none, slotFill := 0,
      order := o, ahead := [], halt := none, again := none, wait := none })) [] 0)))

/-- A stream stops: in ring mode the slot being filled is padded, and its phase bit set. -/
def streamStop (s : State) (ti f : Nat) : State :=
  let t := s.team ti
  let x := t.stream f
  let s := s.updTeam ti (fun t => t.setStream f { x with running := false, short := true, ahead := [], slot := none, slotFill := 0, again := none, wait := none })
  match x.ring, x.slot with
  | true, some i => ringVisible (ringPad s t.crew x.ringOff i x.slotFill) t.crew (x.ringOff, i, x.prod)
  | _, _ => s

/-- SREC.STOP (R392). -/
def execSrecStop (t : BitVec 8) (a b : Opnd) (s : State) : Host.Outcome State Fault Refusal :=
  runInstr s (fun ti tm => uniform s ti tm 0xCE (wordT3 0xCE t a b) false [fldTile t, fld a okZero, fld b okZero] true [] [] (fun u =>
    .ok (u.done (if (u.t.stream t.toNat).running then streamStop u.s ti t.toNat else u.s) [] 0)))

/-- What QSTAT reports of queue n (R393). -/
def qstatOf (s : State) (t : Team) (n : Nat) : Nat :=
  let q := t.q n
  let b := q.bind
  if bindDir b then
    16 + (match crewTeam s t.crew (bindPeer b) with
      | some p => ((s.team p).q (bindPq b)).entries.length
      | none => 0)
  else
    let x := t.stream (bindStrm b)
    let mine := bindSrc b == 1 && x.loaded
    let bit (c : Bool) (k : Nat) : Nat := if c then 2 ^ k else 0
    (if mine then (x.length - x.pos) * 2 ^ 32 else 0) + bit ((q.entries.head?.elim false (·.poison.isSome))) 7 +
    bit (bindSrc b != 0 && producerEnded s t n) 6 + bit (mine && decide (x.length ≤ x.pos)) 5 + q.entries.length

/-- QSTAT (R393). -/
def execQstat (d a b : Opnd) (s : State) : Host.Outcome State Fault Refusal :=
  runInstr s (fun ti t => uniform s ti t 0xCF (wordF3 0xCF d a b) false [fld d okS, fld a okQ, fld b okZero] true [] [d] (fun u =>
    .ok (u.done u.s [(d, match a with
      | .q n => qstatOf u.s u.t n.val
      | _ => 0)] 4 true)))

/-! ### The Feed -/

/-- The element at the consumed point, or one of up to 64 beyond it, is read before it is placed. A fault beyond the consumed point is
counted, once, and the element is read again when the consumed point reaches it (09 R193, 10 R201). -/
def feedAhead (s : State) (ti f : Nat) : State :=
  let x := (s.team ti).stream f
  let i := x.pos + x.ahead.length
  let spec := !x.ahead.isEmpty
  if 64 < x.ahead.length ∨ x.length ≤ i ∨ (x.halt = some i ∧ spec) then s
  else
    match streamElem s ti spec f i with
    | (s, .ok bs bad) => s.updTeam ti (fun t => t.setStream f { x with ahead := x.ahead ++ [(bs, bad)] })
    | (s, .fail _ made) =>
      let s := s.updTeam ti (fun t => t.setStream f { x with halt := some i })
      if spec && made then s.updCore (s.teamCrew ti).core (fun c => { c with specDrop := (c.specDrop + 1) % 2 ^ 64 }) else s
    | (s, .short) => s

/-- The next entry of a stream in queue mode. -/
def feedQueue (s : State) (ti f : Nat) : State :=
  let t := s.team ti
  let x := t.stream f
  if 8 ≤ (t.q x.q).entries.length then feedAhead s ti f
  else
    let (s, e, none_) := feedEntry s ti f (x.pos / t.lanes) x.ahead
    let short := x.indirect && decide ((t.stream x.ixs).length < x.pos + min t.lanes (x.length - x.pos))
    let n := min t.lanes ((if short then (t.stream x.ixs).length else x.length) - x.pos)
    s.updTeam ti (fun t =>
      let t := if none_ then t else t.setQ x.q { t.q x.q with entries := (t.q x.q).entries ++ [e] }
      t.setStream f { x with pos := if none_ then x.pos else x.pos + n, ahead := x.ahead.drop n, short := short, running := !short && decide (x.pos + n < x.length) })

/-- The next element of a stream in ring mode goes into its slot; a full slot, or the last one, is let go. -/
def feedRingElem (s : State) (ti f i : Nat) : State × Bool :=
  let t := s.team ti
  let ci := t.crew
  let x := t.stream f
  let r := ringAt (s.crew ci) x.ringOff
  match (match x.ahead with
    | y :: _ => (s, Elem.ok y.1 y.2)
    | [] => streamElem s ti false f x.pos) with
  | (s, .short) => (streamStop s ti f, false)
  | (s, el) =>
    let write (s : State) (bs : List Byte) (bad : Bool) : State × Bool :=
      let s := writePlace s (s.crew ci).ctx (.scratch ci (r.slot i + x.slotFill)) bs bad
      let fill := x.slotFill + x.esz
      let last := x.length ≤ x.pos + 1
      let s := if last && decide (fill < 2 ^ r.lsize) then ringPad s ci x.ringOff i fill else s
      let closes := last || decide (2 ^ r.lsize ≤ fill)
      let y : Stream := { x with pos := x.pos + 1, ahead := x.ahead.drop 1, again := none, running := !last }
      let y : Stream := { y with slot := if closes then none else some i, slotFill := if closes then 0 else fill }
      (s.updTeam ti (fun t => t.setStream f y), !closes)
    match el with
    | .ok bs bad => write s bs bad
    | .fail p _ =>
      (match p 0xFFFF with
        | .fault va c l _ =>
          let a := engAgent s ti 3
          (match engStop s a .engR x.again (.fault va c l) with
            | (s, .wait w) => (s.updTeam ti (fun t => t.setStream f { x with wait := some w }), false)
            | (s, .gone) => (s, false)
            | (s, .trap _) => (s, false))
        | _ => write s (List.replicate x.esz 0) true)
    | .short => (s, false)

def feedRingRun (ti f i : Nat) : Nat → State → State
  | 0, s => s
  | n + 1, s =>
    match feedRingElem s ti f i with
    | (s, true) => feedRingRun ti f i n s
    | (s, false) => s

/-- A stream in ring mode claims a slot, or fills the one it holds; where its index stream has ended at the start of a slot it completes short. -/
def feedRing (s : State) (ti f : Nat) : State :=
  let t := s.team ti
  let x := t.stream f
  if x.wait.isSome then s
  else match x.slot with
    | some i => feedRingRun ti f i (2 ^ (ringAt (s.crew t.crew) x.ringOff).lsize) s
    | none =>
      if x.indirect && decide ((t.stream x.ixs).length ≤ x.pos) then streamStop s ti f
      else match ringClaim s t.crew x.ringOff x.prod x.order with
      | (s, some i) => s.updTeam ti (fun t => t.setStream f { x with slot := some i, slotFill := 0 })
      | (s, none) => feedAhead s ti f

/-- FEED_ENTRY_FILL (09 R193, 19 R391). -/
def execFeedEntryFill (team stream : Nat) (s : State) : Host.Outcome State Fault Refusal :=
  let t := s.team team
  let c := s.crew t.crew
  let x := t.stream stream
  .next (if !x.running || !c.resident || !ctxRuns s c.ctx || partyGone s team then s
    else if x.ring then feedRing s team stream else feedQueue s team stream)

end Sys2Proof.Machine
end

