-- ==== Sys2Proof/Machine/System.lean ====
section
/-! DEFINITION. Opcodes 0xE0 to 0xE4, 0xF2, 0xF3, 0xF7, 0xF8 and the unassigned ones: SYS registers, traps, the end of a
team, fabric counters, ROLE and TRET (20 R396 to R401, R413, R415, R416, 15 R291), with the watchdog (10 R214) and the traps
of engines (R206). -/

namespace Sys2Proof.Machine

/-- An unassigned opcode traps before anything else (15 R291, R296). -/
def execUnassignedOpcode (word : W32) (s : State) : Host.Outcome State Fault Refusal :=
  runInstr s (fun _ t => (decodeChecks t word true [] true).map (fun _ => s))

/-! ### SYS registers (R398, R399) -/

/-- The numbers of R398. -/
def sysListed (n : Nat) : Bool :=
  n ≤ 0x0C || (0x10 ≤ n && n ≤ 0x15) || (0x30 ≤ n && n ≤ 0x34) || (0x40 ≤ n && n ≤ 0x44) || (0x50 ≤ n && n ≤ 0x57) || n == 0x60

/-- A register's value as read by a pass in cycle c. -/
def sysValue (s : State) (t : Team) (c n : Nat) : Nat :=
  let crew := s.crew t.crew
  let r := s.crewRec t.crew
  let core := govAt (s.core crew.core) (c / 64)
  match n with
  | 0x00 => t.id
  | 0x01 => t.lanes
  | 0x02 => t.nregs
  | 0x03 => crew.ix
  | 0x04 => crew.ix % r.gx
  | 0x05 => crew.ix / r.gx % r.gy
  | 0x06 => crew.ix / (r.gx * r.gy)
  | 0x07 => crew.core
  | 0x08 => crew.core / 128
  | 0x09 => s.chipId
  | 0x0A => crew.rank
  | 0x0B => crew.role
  | 0x0C => (s.launch crew.launch).depth
  | 0x10 => c % 2 ^ 64
  | 0x11 => t.fsr.toNat
  | 0x12 => t.ufc.toNat
  | 0x13 => (core.govStall + (core.govFrom.elim 0 (c - ·))) % 2 ^ 64
  | 0x14 => core.govCur % 256 * 256 + core.govCap % 256
  | 0x15 => core.specDrop
  | 0x30 => t.trapCode.toNat
  | 0x31 => t.trapPc.toNat
  | 0x32 => t.trapInfo0.toNat
  | 0x33 => t.trapInfo1.toNat
  | 0x34 => t.trapLane.toNat
  | 0x40 | 0x41 | 0x42 | 0x43 | 0x44 => t.opCount (n - 0x40)
  | 0x60 => monqFree s t.crew
  | _ => if 0x50 ≤ n ∧ n ≤ 0x57 then (t.q (n - 0x50)).bind.toNat else 0

/-- SYS.RD (R399). -/
def execSysRd (d : Opnd) (imm : BitVec 16) (s : State) : Host.Outcome State Fault Refusal :=
  let n := imm.toNat
  runInstr s (fun ti t => uniform s ti t 0xE0 (wordFI 0xE0 d imm) false [fld d okS, (n, decide (0x100 ≤ n) || sysListed n)] true [] [d] (fun u => do
    if 0x100 ≤ n then throw (trapAt 0x15 n 0)
    .ok (u.now u.s [(d, sysValue u.s u.t u.c n)])))

/-- A value that QBIND accepts (09 R190). -/
def bindOk (s : State) (t : Team) (k v : Nat) : Bool :=
  let b := w64 v
  (t.q k).entries.isEmpty && v / 2 ^ 15 == 0 && !bitN v 3 && bindSrc b != 3 && !(bindDir b && bindSrc b != 2) &&
  !(bindSrc b == 2 && (crewTeam s t.crew (bindPeer b)).isNone)

/-- SYS.WR (R399). -/
def execSysWr (d : Opnd) (imm : BitVec 16) (s : State) : Host.Outcome State Fault Refusal :=
  let n := imm.toNat
  let word := wordFI 0xE1 d imm
  runInstr s (fun ti t => uniform s ti t 0xE1 word false [fld d okS, (n, decide (0x100 ≤ n) || sysListed n)] true [d] [] (fun u => do
    if 0x100 ≤ n ∨ n = 0x13 ∨ n = 0x14 then throw (trapAt 0x15 n 0)
    let v := u.rd d
    let k := n - 0x50
    if 0x50 ≤ n && n ≤ 0x57 && !bindOk u.s u.t k v then throw (trapOpen u.s 0x02 n)
    .ok (u.done (u.s.updTeam ti (fun t =>
      if n = 0x11 then { t with fsr := w64 (v % 32) }
      else if n = 0x12 then { t with ufc := w64 v }
      else if n = 0x31 then { t with trapPc := w64 v, trapNext := none }
      else if 0x50 ≤ n ∧ n ≤ 0x57 then t.setQ k { t.q k with bind := w64 v }
      else t)) [] 0)))

/-! ### Traps -/

/-- TRAP (R400). -/
def execTrap (d : Opnd) (imm : BitVec 16) (s : State) : Host.Outcome State Fault Refusal :=
  runInstr s (fun ti t => uniform s ti t 0xE2 (wordFI 0xE2 d imm) false [fld d okZero] true [] [] (fun _ => .error (trapAt 0x17 imm.toNat 0)))

/-- BRK (R400). -/
def execBrk (d a b : Opnd) (s : State) : Host.Outcome State Fault Refusal :=
  plain 0xE3 d a b s [] [] (fun _ => .error (trapAt 0x18 0 0))

/-- The words of the instruction at an address, for a TRAP.PC that was rewritten: 2 for an LI32. A page that is not mapped
for fetching suspends the team. -/
def wordsAt (s : State) (ti : Nat) (pc : W64) : Except Stop (State × Nat) :=
  let a := pc.toNat / 4 * 4
  if winLo ≤ a then .ok (s, 1)
  else
    match translate s (teamAgent s ti none) .fetch a with
    | (s, .error (c, l)) => .error (.become (faultTeam s ti .fetch [{ lane := 0xFFFF, va := a, cause := c, level := l }]))
    | (s, .ok k) => .ok (s, if ofLE (fetchBytes s ti k 4) / 2 ^ 24 = 0x3E ∧ a % 32 ≠ 0 then 2 else 1)

/-- TRET (R416, 10 R213): outside a handler it is an illegal opcode. -/
def execTret (d a b : Opnd) (s : State) : Host.Outcome State Fault Refusal :=
  runInstr s (fun ti t => uniform s ti t 0xF8 (wordF3 0xF8 d a b) (!t.inHandler) [fld d okZero, fld a okZero, fld b okZero] true [] [] (fun u => do
    let t := u.t
    let (s, n) ← if resumesAtFault t.trapCode.toNat || t.trapNext.isSome then pure (u.s, 1) else wordsAt u.s ti t.trapPc
    let t' := trapReturn t n
    .ok ((u.branch s t'.pc true).updTeam ti (fun t => { t with mr := t'.mr, mask := t'.mask, inHandler := false }))))

/-- The trap of an engine is taken at the team's next instruction boundary (10 R206). It names the last instruction issued and
resumes after it. -/
def engineTrap (s : State) (team : Nat) : State :=
  let t := s.team team
  let c := s.crew t.crew
  match t.engTraps with
  | [] => s
  | x :: r =>
    if t.status != .run || t.replayed || !t.passes.isEmpty || !c.resident || !ctxRuns s c.ctx then s
    else
      let s := takeTrap (s.updTeam team (fun t => { t with engTraps := r })) team t.lastPc x
      if (s.team team).status == .run then s.updTeam team (fun u => { u with trapNext := some t.pc }) else s

/-- DEFERRED_ENGINE_TRAP (10 R206). -/
def execDeferredEngineTrap (team : Nat) (s : State) : Host.Outcome State Fault Refusal := .next (engineTrap s team)

/-- What counts as blocked for the watchdog. -/
def TStatus.watched : TStatus → Bool
  | .sleep m => !m.woken
  | .barCrew _ | .barFolio _ | .barQuire _ | .donate .. => true
  | .wait n => n < 3
  | _ => false

/-- WATCHDOG_EXPIRY (10 R214): its arrival is the end of 2^n blocked cycles. -/
def execWatchdogExpiry (team : Nat) (s : State) : Host.Outcome State Fault Refusal :=
  let t := s.team team
  let c := s.crew t.crew
  let n := (s.ctx c.ctx).wdog.toNat
  .next (if n = 0 || !t.status.watched || (t.status == .wait 1 && t.enqTask.isNone) || !c.resident || !ctxRuns s c.ctx then s
    else
      let s := match t.enqTask with
        | some k => jobAdd s c.ctx k.job (-1)
        | none => s
      let s := engDelay (s.updTeam team (fun t => { t with status := .run, enqTask := none, lastPc := t.pc, nextIssue := t.nextIssue + 2 ^ n })) team
      takeTrap s team t.pc { code := 0x19, info0 := w64 (2 ^ n) })

/-! ### The end of a team -/

/-- A crew ends: an idempotent crew of a plain launch commits its drafts. -/
def endCrew (s : State) (ci : Nat) : State :=
  let s := if (s.crewTask ci).isNone && (s.crew ci).drafting then commitDrafts s ci else s
  let c := s.crew ci
  (s.setCrew ci { c with status := .ended }).updLaunch c.launch (fun l => { l with liveCrews := l.liveCrews - 1 })

/-- A team ends (R401). -/
def endOfTeam (s : State) (ti : Nat) : State :=
  let s := (span 0 16).foldl (fun s f => if ((s.team ti).stream f).running then streamStop s ti f else s) s
  let s := s.updTeam ti (fun t => { t with status := .ended, drain := none, rstack := [], cstack := [], engTraps := [] })
  let ci := (s.team ti).crew
  if (s.crew ci).teams.all (fun t => partyGone s t) then endCrew s ci else s

/-- END (R401). -/
def execEndTeam (d a b : Opnd) (s : State) : Host.Outcome State Fault Refusal :=
  plain 0xE4 d a b s [] [] (fun u => do
    if !u.t.flight.isEmpty then throw .hold
    if (span 0 5).any (fun c => u.t.opCount c != 0) || u.t.enqWait != 0 then throw (.block (.wait 3))
    .ok (endOfTeam (u.done (u.s.updTeam u.ti (·.commitAll)) [] 0) u.ti))

/-! ### Fabric counters and ROLE -/

def Ctx.counter (c : Ctx) (k : Nat) : Nat := (cget 0 c.counters k).toNat
/-- An addition to a fabric event counter (07 R155). A send armed on it whose threshold the counter then holds is due from then on, whatever
becomes of the counter before it goes (R156). -/
def ctrAdd (s : State) (ctx k n : Nat) : State :=
  s.updCtx ctx (fun c =>
    let v := w64 (c.counter k + n)
    { c with counters := cset 0 c.counters k v,
             armed := c.armed.map (fun x => if x.ctr = k ∧ x.threshold.toNat ≤ v.toNat then { x with met := true } else x) })

/-- CTR.ADD (R413): a release at QUIRE scope, then the addition. -/
def execCtrAdd (d a b : Opnd) (s : State) : Host.Outcome State Fault Refusal :=
  runInstr s (fun ti t => uniform s ti t 0xF2 (wordF3 0xF2 d a b) false [fld d okZero, fld a okS, fld b okS] true [a, b] [] (fun u => do
    let v := u.rd a
    if v / 256 ≠ 0 then throw (trapOpen u.s 0x02 v)
    .ok (u.done (ctrAdd ((endIdem u.s t.crew).release ti 5) (s.crew t.crew).ctx v (u.rd b)) [] 0)))

/-- CTR.RD (R413). -/
def execCtrRd (d a b : Opnd) (s : State) : Host.Outcome State Fault Refusal :=
  runInstr s (fun ti t => uniform s ti t 0xF3 (wordF3 0xF3 d a b) false [fld d okS, fld a okS, fld b okZero] true [a] [d] (fun u => do
    let v := u.rd a
    if v / 256 ≠ 0 then throw (trapOpen u.s 0x02 v)
    .ok (u.now (u.s.acquire ti 5) [(d, (u.s.ctx (s.crew t.crew).ctx).counter v)])))

/-- ROLE (R415, R426). -/
def execRole (d a b : Opnd) (s : State) : Host.Outcome State Fault Refusal :=
  runInstr s (fun ti t => uniform s ti t 0xF7 (wordF3 0xF7 d a b) false [fld d okS, fld a okS, fld b okZero] true [a] [d] (fun u => do
    let none_ := 2 ^ 64 - 1
    if (s.crewRec t.crew).quire = 0xFFFF then
      u.poison
      .ok (u.now u.s [(d, none_)])
    else
      let v := u.rd a
      let (s, n, e) ← issueBinding u.s ti v
      u.poison
      let r := if v = none_ then n.getD none_
        else match e with
          | some e => e.chip + e.crew * 2 ^ 16 + e.dir * 2 ^ 48
          | none => none_
      .ok (u.now s [(d, r)])) true)

end Sys2Proof.Machine
end

