-- ==== Sys2Proof/Machine/Launch.lean ====
section
/-! DEFINITION. The launch unit: acceptance and completion of a launch (04 R77 to R82, R87, R95, R96, 07 R157), placement
(R83 to R89), swapping crews out and in (R90, 18 R358, 19 R394), and FORK (20 R402). -/

namespace Sys2Proof.Machine

/-! ### Records (R77) -/

/-- A launch record's fields. -/
def lrecOf (r : List Byte) : LRec :=
  { entry := field r 0 8, args := field r 8 8, gx := field r 16 4, gy := field r 20 2, gz := field r 22 2,
    lanes := field r 24 1, teams := field r 25 1, regs := field r 26 1, flags := field r 27 1, scratch := field r 28 4,
    quire := field r 32 2, folioMode := field r 34 1, prio := field r 35 1, monq := field r 36 1,
    rsv := field r 37 3 + field r 56 8, counter := field r 40 8, handler := field r 48 8 }

/-- A handler that a record may name (R80). -/
def handlerOk (h : Nat) : Bool := h == 0 || (h % 4 == 0 && h % 32 != 0 && decide (h < 2 ^ 52))

/-- The checks of R80 that end in BAD_RECORD. -/
def LRec.fieldsOk (r : LRec) : Bool :=
  r.rsv == 0 && decide (r.flags < 64) && r.entry % 32 == 0 && handlerOk r.handler &&
  decide (1 ≤ r.gx ∧ 1 ≤ r.gy ∧ 1 ≤ r.gz ∧ r.crews ≤ 2 ^ 32 - 1 ∧ r.prio ≤ 3 ∧ r.monq ≤ 64 ∧ r.scratch ≤ 1048576 ∧ r.folioMode ≤ 1) &&
  (r.folio || r.folioMode == 0)

/-- The checks of R80 that end in BAD_SHAPE. -/
def LRec.sizesOk (r : LRec) : Bool :=
  shapeOk r.lanes r.teams r.regs &&
  (!r.folio || (r.crews % 8 == 0 && (r.folioMode == 0 || (r.gx % 4 == 0 && r.gy % 2 == 0))))

/-! ### Quires (R87) -/

/-- The quires that live launches of a context name. -/
def liveQuires (s : State) (ctx : Nat) : List Nat :=
  (s.launches.filterMap (fun e => if e.2.live ∧ e.2.ctx = ctx ∧ e.2.lrec.quire ≠ 0xFFFF then some e.2.lrec.quire else none)).foldl insertNew []

/-- The bindings of several quires. -/
def bindingsOf (s : State) (ctx : Nat) : List Nat → State × List (List (Option Binding))
  | [] => (s, [])
  | q :: r =>
    let (s, b) := hubBindings s ctx q
    let (s, bs) := bindingsOf s ctx r
    (s, b :: bs)

/-- A binding of this chip's crew is in at most four of the quires. -/
def boundFewTimes (chip : Nat) (tables : List (List (Option Binding))) : Bool :=
  decide (tables.length ≤ 4) || tables.all (fun t => t.all (fun b => match b with
    | some e => e.chip != chip || decide ((tables.filter (·.contains b)).length ≤ 4)
    | none => true))

/-- A quire takes an area, unless it holds one. -/
def elaTake (s : State) (ctx q : Nat) : State :=
  match elaArea (s.ctx ctx) q, elaFreeArea (s.ctx ctx) with
  | none, some k => s.updCtx ctx (fun c => { c with elaQuires := cset none c.elaQuires k (some q) })
  | _, _ => s
/-- No launch names the quire any more: its area is released, and what landed there or was announced for it goes. -/
def elaFree (s : State) (ctx q : Nat) : State :=
  s.updCtx ctx (fun c => { c with
    elaQuires := c.elaQuires.filter (·.2 != some q), early := c.early.filter (·.quire != q), posted := c.posted.filter (·.quire != q) })

/-- A quire that a launch may name: the conditions of R87, and an early-landing area for it (R157). -/
def quireOk (s : State) (ctx q : Nat) : State × Bool × List (Nat × Nat) :=
  let c := s.ctx ctx
  let (s, bs) := hubBindings s ctx q
  let good := bs != [] && bs.all (fun b => match b with
    | some e => decide (e.dir < c.qdirCount.toNat)
    | none => false) && decide bs.Nodup
  let (s, tables) := bindingsOf s ctx (insertNew (liveQuires s ctx) q)
  let area := (elaArea c q).isSome || (bitsN c.elaBase.toNat 16 36 != 0 && (elaFreeArea c).isSome)
  let roles := ((List.range bs.length).zip bs).filterMap (fun e => match e.2 with
    | some b => if b.chip = s.chipId ∧ b.dir = q then some (b.crew, e.1) else none
    | none => none)
  (s, good && boundFewTimes s.chipId tables && area, roles)

/-! ### What fits (R83, R85) -/

/-- Register bytes of one team. -/
def LRec.teamBytes (r : LRec) : Nat := (r.regs + 7) / 8 * 8 * 4 * 2 ^ r.lanes
/-- Teams of a crew that start at partition p0 and lie in partition p. -/
def teamsIn (teams p0 p : Nat) : Nat := ((List.range teams).filter (fun i => (p0 + i) % 4 == p)).length
/-- The crews resident on a core. -/
def coreCrews (s : State) (core : Nat) : List (LRec × Nat) :=
  s.crews.filterMap (fun e => if e.2.resident ∧ e.2.core = core then some ((s.launch e.2.launch).lrec, e.2.p0) else none)
def listSum (l : List Nat) : Nat := l.foldl (· + ·) 0

/-- A crew of record r, its team 0 in partition p0, fits next to the crews of a core. -/
def fitsAt (s : State) (r : LRec) (core p0 : Nat) : Bool :=
  let cs := (r, p0) :: coreCrews s core
  (List.range 4).all (fun p =>
    decide (listSum (cs.map (fun c => teamsIn c.1.teams c.2 p)) ≤ 16 ∧
      listSum (cs.map (fun c => teamsIn c.1.teams c.2 p * c.1.teamBytes)) ≤ 262144)) &&
  decide (listSum (cs.map (fun c => (c.1.scratch + 4095) / 4096)) ≤ 256 ∧ listSum (cs.map (·.1.monq)) ≤ 64 ∧
    (cs.filter (·.1.tiles)).length ≤ 2)

/-- The first partition from `start` on at which a crew fits. -/
def fitFrom (s : State) (r : LRec) (core start : Nat) : Option Nat :=
  ((List.range 4).map (fun i => (start + i) % 4)).find? (fitsAt s r core ·)

/-- A core that takes crews. -/
def coreUsable (s : State) (core : Nat) : Bool := decide (core < 512) && !(s.core core).retired && !s.fused.contains core
/-- A folio that folio launches may use. -/
def folioUsable (s : State) (f : Nat) : Bool := decide (f < 64) && (List.range 8).all (fun k => coreUsable s (8 * f + k))
/-- The drain reservations held. -/
def reserved (s : State) : List Nat := s.launches.filterMap (fun e => if e.2.live then e.2.reservation else none)
/-- A core open to ordinary crews: usable, and in no folio that is being drained. -/
def coreOpen (s : State) (core : Nat) : Bool := coreUsable s core && !(reserved s).contains (core / 8)

/-- An ordinary crew may go to a core: it fits there, and a hot core only when no other one fits (R84). -/
def mayPlace (s : State) (r : LRec) (core p0 : Nat) : Bool :=
  coreOpen s core && fitsAt s r core p0 &&
  (!(s.core core).hot || !(List.range 512).any (fun c => !(s.core c).hot && coreOpen s c && (fitFrom s r c 0).isSome))

/-! ### Folio groups (R84) -/

def LRec.groups (r : LRec) : Nat := r.crews / 8
/-- The linear index of rank k of group g. -/
def LRec.member (r : LRec) (g k : Nat) : Nat :=
  if r.folioMode = 0 then 8 * g + k
  else
    let w := r.gx / 4
    let h := r.gy / 2
    (4 * (g % w) + k % 4) + r.gx * ((2 * (g / w % h) + k / 4) + r.gy * (g / (w * h)))
/-- The first group of a launch not yet placed. -/
def Launch.nextGroup (l : Launch) : Option Nat := (List.range l.lrec.groups).find? (fun g => !l.groupsPlaced.contains g)

/-- A whole group has room on a folio. -/
def groupFits (s : State) (id : Nat) (f : Nat) : Bool :=
  folioUsable s f && (!(reserved s).contains f || (s.launch id).reservation == some f) &&
  (List.range 8).all (fun k => (fitFrom s (s.launch id).lrec (8 * f + k) 0).isSome)

/-! ### Gang starvation (R89) -/

/-- Teams resident on a folio. -/
def folioTeamCount (s : State) (f : Nat) : Nat :=
  listSum (s.crews.map (fun e => if e.2.resident ∧ e.2.core / 8 = f then e.2.teams.length else 0))

/-- The usable folio with the fewest resident teams, the lowest number first, among those not yet reserved. -/
def drainChoice (s : State) : Option Nat :=
  ((List.range 64).filter (fun f => folioUsable s f && !(reserved s).contains f)).foldl (fun b f => match b with
    | some g => if folioTeamCount s f < folioTeamCount s g then some f else some g
    | none => some f) none

/-- A group of the launch waits, and no folio has room for it. -/
def gangWaits (s : State) (id : Nat) : Bool :=
  let l := s.launch id
  l.live && l.lrec.folio && !l.stopped && ctxRuns s l.ctx && l.nextGroup.isSome && !(List.range 64).any (groupFits s id)

/-- The oldest launch whose timer has reached 2^20 and which holds no reservation. -/
def gangFirst (s : State) : Option Nat :=
  (s.launches.foldl (fun (b : Option (Nat × Nat)) e =>
    if e.2.gangDue && e.2.reservation.isNone && gangWaits s e.1 then
      (match b with
        | some x => if e.2.order < x.1 then some (e.2.order, e.1) else some x
        | none => some (e.2.order, e.1))
    else b) none).map (·.2)

/-- A drain reservation is granted to it, while fewer than 16 are held. -/
def grantGang (s : State) : State :=
  if decide ((reserved s).length < 16) then
    match gangFirst s, drainChoice s with
    | some id, some f => s.updLaunch id (fun l => { l with reservation := some f })
    | _, _ => s
  else s

/-- A launch's reservation, if it holds one, ends with its timer, and the next one waiting gets its own. -/
def endGang (s : State) (id : Nat) : State := grantGang (s.updLaunch id (fun l => { l with reservation := none, gangDue := false }))

/-! ### The end of a launch (R81, R95, R96) -/

/-- The crews of a launch. -/
def launchCrews (s : State) (id : Nat) : List (Nat × Crew) := s.crews.filter (fun e => e.2.launch == id && e.2.status != .none)

/-- A release at DEV scope of all the launch's stores (R81, R95). -/
def launchRelease (s : State) (id : Nat) : State := (launchCrews s id).foldl (fun s e => releaseAt s e.1 4) s

/-- An ENQ in which a team was blocked when its crew was killed is never made: its job counts it no longer (log 102). -/
def dropEnq (s : State) (ctx ti : Nat) : State :=
  match (s.team ti).enqTask with
  | some k => jobAdd s ctx k.job (-1)
  | none => s

/-- A launch's crews and teams leave the machine, with a release at DEV scope (R95). A quire's launch leaves its record, so that a barrier of the quire finds
its crews ended (18 R364). A reservation that it still holds ends, and the next launch waiting for one gets it (R89). -/
def closeLaunch (s : State) (id : Nat) : State :=
  let l := s.launch id
  let out := launchCrews s id
  let s := launchRelease s id
  let s := out.foldl (fun s e => e.2.teams.foldl (fun s t => dropEnq s l.ctx t) s) s
  let s := out.foldl (fun s e => (e.2.teams.foldl (fun s t => s.setTeam t {}) s).setCrew e.1 {}) s
  let s := s.setLaunch id (if l.lrec.quire = 0xFFFF then {} else { lrec := l.lrec, ctx := l.ctx })
  let s := if l.reservation.isSome then grantGang s else s
  if l.lrec.quire = 0xFFFF ∨ (liveQuires s l.ctx).contains l.lrec.quire then s
  else elaFree s l.ctx l.lrec.quire

/-- A launch completes: status and info, the release with its flush, the count, and the vector of a nonzero status. -/
def launchEnd (s : State) (id : Nat) : State :=
  let l := s.launch id
  let r := l.lrec
  let s := if r.counter = 0 then s else hubWrite (beforeRecord s l.ctx r.counter) l.ctx (r.counter + 8) (leBytes 4 l.status ++ leBytes 4 l.info)
  let s := launchRelease s id
  let s := if r.flush || (r.counter != 0 && kindOfVa s l.ctx r.counter == some 2) then s.flush l.ctx else s
  let s := if r.counter = 0 then s else beforeRecord s l.ctx r.counter
  let s := if r.counter = 0 then s else decrementAt s l.ctx r.counter
  let s := match l.origin with
    | .queue q => if l.status = 0 then s else raiseQueue s l.ctx q
    | .fork _ => if l.status = 0 then s else raiseErr s l.ctx
    | _ => s
  let s := match l.origin with
    | .queue _ => workDone s l.ctx (.launch id)
    | .fork c => s.updCrew c (fun c => { c with childrenLeft := c.childrenLeft - 1 })
    | _ => s
  closeLaunch s id

/-- Every remote ENQ of a crew is acknowledged (05 R109). -/
def enqsAcked (s : State) (ci : Nat) : Bool := (s.crew ci).teams.all (fun t => (s.team t).enqWait == 0)

/-- The crews of a launch that were not killed have no remote ENQ that awaits its acknowledgement. -/
def launchAcked (s : State) (launch : Nat) : Bool := (launchCrews s launch).all (fun e => e.2.killed.isSome || enqsAcked s e.1)

/-- LAUNCH_COMPLETE: the last crew of a launch has ended, and what remote ENQs the commits of its crews sent are acknowledged (05 R109).
Tasks and evaluations complete by their own steps. -/
def execLaunchComplete (launch : Nat) (s : State) : Host.Outcome State Fault Refusal :=
  let l := s.launch launch
  .next (match l.origin with
    | .task _ | .dx .. => s
    | _ =>
      if l.live && l.liveCrews == 0 && ctxRuns s l.ctx && launchAcked s launch
      then launchEnd s launch else s)

/-! ### Acceptance (R80) -/

/-- The completion block of a record can be written: aligned and mapped. -/
def counterOk (s : State) (ctx va : Nat) : State × Bool :=
  if va = 0 then (s, true)
  else if va % 16 ≠ 0 then (s, false)
  else
    match placeVa s (hubAgent ctx 5) .engW va with
    | (s, .ok _) => (s, true)
    | (s, .error _) => (s, false)

/-- The status of the checks after the first, 0 when all pass, and the roles of its crews. -/
def recordStatus (s : State) (ctx : Nat) (r : LRec) : State × Nat × List (Nat × Nat) :=
  if !r.fieldsOk then (s, 1, [])
  else if !r.sizesOk then (s, 2, [])
  else if r.quire = 0xFFFF then (s, 0, [])
  else
    match quireOk s ctx r.quire with
    | (s, true, roles) => (s, 0, roles)
    | (s, false, _) => (s, 6, [])

/-- A record accepted as a launch: its number, or none where its counter fails the first check. A record that fails
another check completes at once. -/
def acceptLaunch (s : State) (ctx : Nat) (r : LRec) (o : Origin) (depth : Nat) : State × Option Nat :=
  match counterOk s ctx r.counter with
  | (s, false) => (s, none)
  | (s, true) =>
    let (s, st, roles) := recordStatus s ctx r
    let id := s.nextLaunch
    let (n, s) := s.tick
    let s := { s with nextLaunch := id + 1 }
    let s := s.setLaunch id { live := true, ctx := ctx, lrec := r, origin := o, depth := depth, order := n,
                              liveCrews := if st = 0 then r.crews else 0, status := st, stopped := st != 0, roles := roles,
                              codeMem := s.mem, codeL2 := s.l2, codeOld := s.stale }
    if st ≠ 0 then (launchEnd s id, some id)
    else (if r.quire = 0xFFFF then s else elaTake s ctx r.quire, some id)

/-! ### Groups that come back (R90, R93, 05 R108) -/

/-- The crews of a folio group, or the crew alone. -/
def groupCrews (s : State) (ci : Nat) : List Nat :=
  let c := s.crew ci
  if (s.crewRec ci).folio then
    (s.crews.filter (fun e => e.2.launch == c.launch && e.2.group == c.group && e.2.status != .none && e.2.status != .ended)).map (·.1)
  else [ci]

/-- Some crew of a folio group is swapped out or saved. -/
def groupOut (s : State) (id g : Nat) : Bool :=
  s.crews.any (fun e => e.2.launch == id && e.2.group == g && (match e.2.status with
    | .forking | .enqSwapped | .saved _ => true
    | _ => false))

/-- Idempotent crews of a group that were aborted and may run again: they come back with their group when it is out (R90). -/
def groupAborted (s : State) (ci : Nat) : List Nat :=
  let l := s.launch (s.crew ci).launch
  (l.requeued.filter (fun e => e.2.isEmpty && (l.lrec.groupOf e.1).1 == (s.crew ci).group)).map (·.1)

/-- The crews of a group can all be placed: the crew named on the core named, in a folio launch each at its rank. -/
def groupReturns (s : State) (ci core p : Nat) : Bool :=
  let r := s.crewRec ci
  if r.folio then
    folioUsable s (core / 8) && !(reserved s).contains (core / 8) && core % 8 == (s.crew ci).rank &&
    (groupCrews s ci).all (fun c => (fitFrom s r (core / 8 * 8 + (s.crew c).rank) p).isSome) &&
    (groupAborted s ci).all (fun i => (fitFrom s r (core / 8 * 8 + (r.groupOf i).2) p).isSome)
  else mayPlace s r core p

/-- The group of a crew that is out waits only for a place: the children of every forking crew in it are complete, or its enqueues are
done, or its context is being restored. -/
def groupWaits (s : State) (ci : Nat) : Bool :=
  let c := s.crew ci
  (groupCrews s ci).head? == some ci &&
  ((c.status == .forking && ctxRuns s c.ctx && (groupCrews s ci).all (fun i => (s.crew i).status == .forking && (s.crew i).childrenLeft == 0)) ||
   (c.status == .enqSwapped && ctxRuns s c.ctx && (groupCrews s ci).all (fun i => (s.crew i).status == .enqSwapped &&
     (s.crew i).teams.all (fun t => (s.team t).enqTask.isNone))) ||
   (c.status == .saved false && (s.ctx c.ctx).pState == 3))

/-! ### Whose turn it is (R84, 05 R107) -/

/-- A requeued crew whose records a REPLAY has covered. -/
def Launch.requeuedReady (l : Launch) : Option Nat := (l.requeued.find? (fun e => e.2.isEmpty)).map (·.1)
/-- The next crew of a launch to place. -/
def Launch.nextCrew (l : Launch) : Option Nat :=
  match l.requeuedReady with
  | some i => some i
  | none => if !l.lrec.folio && !l.stopped && decide (l.nextIx < l.lrec.crews) then some l.nextIx else none

/-- The launch that a task is: a grid of one crew, no quire, no completion block (05 R98). Its handler is the context's (24 R423). -/
def taskLaunchRec (t : Task) : LRec :=
  { entry := t.entry, args := t.args, lanes := t.lanes, teams := t.teams, regs := t.regs, flags := t.flags, scratch := t.scratch,
    prio := t.queue }

/-- A task of a job that a kill has cancelled, or is to cancel once the killed task completes (05 R105). -/
def jobCancelled (s : State) (ctx : Nat) (t : Task) : Bool :=
  (s.ctx ctx).cancelled.contains t.job ||
  s.crews.any (fun e => e.2.killed.isSome && e.2.ctx == ctx && (s.crewTask e.1).any (·.job == t.job))

/-- The first entry of a ready queue that does not wait on a fault. -/
def readyFirst (s : State) (ctx q : Nat) : Option ReadyEntry :=
  (readyList s ctx q).find? (fun e => e.wait.isEmpty || jobCancelled s ctx e.task)

/-- A core, from a free start on, that takes a crew, and its starting partition. -/
def pickCore (s : State) (r : LRec) (start : Nat) : Option (Nat × Nat) :=
  ((List.range 512).map (fun i => (start + i) % 512)).findSome? (fun c =>
    match fitFrom s r c (start / 512) with
    | some p => if mayPlace s r c p then some (c, p) else none
    | none => none)

/-- What waits for a place: a launch's next crew, a launch's next folio group, the first entry of a ready queue, or a group that comes
back, by its first crew. -/
inductive Waiter where
  | crew (launch ix : Nat)
  | group (launch g : Nat)
  | task (ctx queue order : Nat) (r : LRec)
  | back (crew : Nat)
  deriving DecidableEq, Repr

/-- Everything that waits for a place. -/
def waiting (s : State) : List Waiter :=
  s.launches.flatMap (fun e =>
    if e.2.live && ctxRuns s e.2.ctx then
      (match e.2.nextCrew with
        | some ix => [.crew e.1 ix]
        | none => []) ++
      (if e.2.lrec.folio && !e.2.stopped then
        (match e.2.nextGroup with
          | some g => [.group e.1 g]
          | none => []) else [])
    else []) ++
  s.ctxs.flatMap (fun c => if ctxRuns s c.1 && c.2.started then
      (List.range 4).filterMap (fun q => (readyFirst s c.1 q).map (fun e => .task c.1 q e.order (taskLaunchRec e.task))) else []) ++
  s.crews.filterMap (fun e => if groupWaits s e.1 then some (.back e.1) else none)

/-- Its launch, if it has been accepted. -/
def Waiter.launch (s : State) : Waiter → Option Nat
  | .crew id _ => some id
  | .group id _ => some id
  | .task .. => none
  | .back ci => some (s.crew ci).launch

/-- Its place in the order: prio, the age of its launch, and within the launch the index. A ready task is as old as its entry (log 103). -/
def Waiter.key (s : State) : Waiter → Nat × Nat × Nat
  | .crew id ix =>
    let l := s.launch id
    (l.lrec.prio, l.order, if l.lrec.folio then 8 * (l.lrec.groupOf ix).1 + (l.lrec.groupOf ix).2 else ix)
  | .group id g => ((s.launch id).lrec.prio, (s.launch id).order, 8 * g)
  | .task _ q o _ => (q, o, 0)
  | .back ci =>
    let c := s.crew ci
    ((s.crewRec ci).prio, (s.launch c.launch).order, if (s.crewRec ci).folio then 8 * c.group + c.rank else c.ix)

/-- The folio on which the other crews of a group are, if any is resident. -/
def folioOf (s : State) (id g : Nat) : Option Nat :=
  (s.crews.find? (fun e => e.2.launch == id && e.2.group == g && e.2.resident)).map (·.2.core / 8)

/-- A crew of a folio launch that was aborted goes back alone, to its rank's core of the folio on which its group is; while its group is out it
waits for it. -/
def folioCrewFits (s : State) (id ix core p : Nat) : Bool :=
  let l := s.launch id
  let g := l.lrec.groupOf ix
  !groupOut s id g.1 && folioUsable s (core / 8) && coreOpen s core && fitsAt s l.lrec core p && core % 8 == g.2 && (folioOf s id g.1).getD (core / 8) == core / 8

/-- It could be placed on a core: with its team 0 in some partition, and for a group with its folio. -/
def Waiter.fitsOn (s : State) (core : Nat) : Waiter → Bool
  | .crew id ix => (List.range 4).any (fun p => if (s.launch id).lrec.folio then folioCrewFits s id ix core p
      else coreOpen s core && fitsAt s (s.launch id).lrec core p)
  | .group id _ => groupFits s id (core / 8)
  | .task _ _ _ r => coreOpen s core && (List.range 4).any (fitsAt s r core)
  | .back ci => (List.range 4).any (groupReturns s ci (if (s.crewRec ci).folio then core / 8 * 8 + (s.crew ci).rank else core))

/-- It could be placed. -/
def Waiter.fits (s : State) (w : Waiter) : Bool :=
  match w with
  | .group id _ => (List.range 64).any (groupFits s id)
  | w => (List.range 512).any (w.fitsOn s ·)

/-- One place in the order is before another. -/
def keyBefore (a b : Nat × Nat × Nat) : Bool :=
  decide (a.1 < b.1) || (a.1 == b.1 && (decide (a.2.1 < b.2.1) || (a.2.1 == b.2.1 && decide (a.2.2 < b.2.2))))

/-- Nothing that goes before it could be placed now; within its launch nothing goes before it at all. -/
def inTurn (s : State) (w : Waiter) : Bool :=
  (waiting s).all (fun a => !keyBefore (a.key s) (w.key s) || (!(a.launch s == w.launch s && (a.launch s).isSome) && !a.fits s))

/-! ### Placing a crew (R79, R83, R86, 05 R98, 06 R119) -/

/-- The S registers of a starting team. -/
def startRegs (l : Launch) (ix : Nat) : List W64 :=
  match l.origin with
  | .task t => [w64 l.lrec.args, w64 t.taskId]
  | .dx handle _ stage part t h vec out vs os n slab =>
    [w64 handle, w64 (stage + 256 * part), t, h, w64 (vec + ix * vs), w64 (out + ix * os), w64 (min slab (n - ix * slab)),
     w64 (ix * slab), w64 l.lrec.args]
  | _ => [w64 l.lrec.args]

/-- The lowest team slot of a partition of a core that no resident crew holds (R83; 08 R163, log 99). -/
def freeSlot (s : State) (core p : Nat) : Nat :=
  let used := s.crews.flatMap (fun e => if e.2.resident && e.2.core == core then
    (e.2.teams.filter (fun t => (s.team t).status != .free && (s.team t).partition == p)).map (fun t => (s.team t).slot) else [])
  ((List.range 16).find? (fun k => !used.contains k)).getD 0

/-- A team at its start. -/
def newTeam (l : Launch) (ci ix i p0 slot : Nat) : Team :=
  let r := l.lrec
  { status := .run, crew := ci, id := i, lanesLog := r.lanes, nregs := r.regs, partition := (p0 + i) % 4, slot := slot,
    pc := w64 (r.entry + 4), mask := fullMask r.lanes, handler := w64 r.handler,
    s := ((List.range 9).zip (startRegs l ix)).foldl (fun m e => cset 0 m e.1 e.2) [] }

/-- Crew ix of a launch becomes resident, all its teams at once. -/
def spawn (s : State) (id ix core p0 : Nat) : State :=
  let l := s.launch id
  let r := l.lrec
  let ci := s.nextCrew
  let t0 := s.nextTeam
  let (seed, s) := s.draw
  let g := r.groupOf ix
  let s := s.setCrew ci {
    status := .resident, launch := id, ctx := l.ctx, ix := ix, core := core, p0 := p0, teams := span t0 r.teams, scratchSeed := seed,
    scratchSize := r.scratch, monq := r.monq, idem := r.idem, group := if r.folio then g.1 else 0,
    rank := if r.folio then g.2 else 0xFF, role := ((l.roles.find? (·.1 == ix)).map (·.2)).getD 0xFFFFFFFF }
  let s := (List.range r.teams).foldl (fun s i => s.setTeam (t0 + i) (newTeam l ci ix i p0 (freeSlot s core ((p0 + i) % 4)))) s
  let s := acquireAt s ci 4
  { s with nextCrew := ci + 1, nextTeam := t0 + r.teams }

/-- Crew ix is no longer waiting. -/
def tookCrew (s : State) (id ix : Nat) : State :=
  s.updLaunch id (fun l => match l.requeuedReady with
    | some _ => { l with requeued := l.requeued.eraseP (fun e => e.2.isEmpty && e.1 == ix) }
    | none => { l with nextIx := l.nextIx + 1 })

/-- CREW_PLACE: the next waiting crew of a launch is placed on a core, its team 0 in a partition. A crew of a folio launch
comes here only when it was aborted, and goes back to its rank's core. -/
def execCrewPlace (launch core partition : Nat) (s : State) : Host.Outcome State Fault Refusal :=
  let l := s.launch launch
  let p := partition % 4
  .next (match l.nextCrew with
    | none => s
    | some ix =>
      if !l.live || !ctxRuns s l.ctx || !inTurn s (.crew launch ix) then s
      else if l.lrec.folio then (if folioCrewFits s launch ix core p then tookCrew (spawn s launch ix core p) launch ix else s)
      else if mayPlace s l.lrec core p then tookCrew (spawn s launch ix core p) launch ix else s)

/-! ### Folio groups and gang starvation (R84, R89) -/

/-- GANG_RESERVATION_TIMEOUT: the wait of a launch's oldest unplaced group has reached 2^20. While 16 reservations are held the timer
waits for one to end. -/
def execGangReservationTimeout (launch : Nat) (s : State) : Host.Outcome State Fault Refusal :=
  .next (if gangWaits s launch && !(s.launch launch).gangDue then grantGang (s.updLaunch launch (fun l => { l with gangDue := true })) else s)

/-- GANG_STARVED_TIMEOUT: 2^24 cycles have passed since the reservation. Its status takes the place of an earlier one (log 104). -/
def execGangStarvedTimeout (launch : Nat) (s : State) : Host.Outcome State Fault Refusal :=
  .next (if gangWaits s launch && (s.launch launch).reservation.isSome then
      endGang (s.updLaunch launch (fun l => { l with
        stopped := true, status := 3, info := 0, liveCrews := l.liveCrews - (l.lrec.crews - 8 * l.groupsPlaced.length) })) launch
    else s)

/-- FOLIO_GROUP_PLACE: the next group of a folio launch is placed whole. -/
def execFolioGroupPlace (launch group folio : Nat) (partitions : List Nat) (s : State) : Host.Outcome State Fault Refusal :=
  let l := s.launch launch
  let p (k : Nat) : Nat := partitions.getD k 0 % 4
  .next (if l.live && l.lrec.folio && !l.stopped && ctxRuns s l.ctx && l.nextGroup == some group && inTurn s (.group launch group) &&
      groupFits s launch folio && (List.range 8).all (fun k => fitsAt s l.lrec (8 * folio + k) (p k)) then
      let s := (List.range 8).foldl (fun s k => spawn s launch (l.lrec.member group k) (8 * folio + k) (p k)) s
      endGang (s.updLaunch launch (fun l => { l with groupsPlaced := l.groupsPlaced ++ [group] })) launch
    else s)

/-! ### Swapping out and in (R90, R92, R93) -/

/-- The state after an outcome. -/
def nextOr (s : State) : Host.Outcome State Fault Refusal → State
  | .next s => s
  | _ => s

/-- The command that the crew has in the matrix engine runs to its end. -/
def matrixFinish (s : State) (ci : Nat) : State :=
  match (s.crew ci).mmq with
  | [] => s
  | m :: _ =>
    if !m.started then s
    else
      let n := match m.op with
        | .accSt _ w _ => stParts w.toNat
        | _ => 0
      nextOr s (execMatrixCommandComplete ci ((List.range n).foldl (fun s _ => nextOr s (execMatrixCommandStart ci s)) s))

/-- A team leaves its core: its pending results and the responses under way are performed, its sleep ends, and what belongs
to the core's time goes. -/
def swapTeam (t : Team) : Team :=
  let t := t.commitAll
  let t := (t.flight.filter (·.kind == .mem)).foldl (fun t f => f.writes.foldl (fun t w => t.put w.1 w.2.1 w.2.2) t) t
  { t with
    flight := t.flight.filter (·.kind != .mem), nextIssue := 0, wordReady := [], portLast := [], passes := [], onePass := false, lastPage := [],
    status := match t.status with
      | .sleep m => .sleep { m with woken := true }
      | x => x }

/-- The transfers of the crew that the core's copy channels have started, and the gather that its engine has begun, run to their descriptor's end,
or as far as they can (R92, 19 R394). -/
def enginesFinish (s : State) (ci : Nat) : State :=
  let core := (s.crew ci).core
  let s := (List.range 8).foldl (fun s k => match (s.chan core k).q with
    | x :: _ => if x.crew = ci ∧ x.started then cpyFinish core k s else s
    | [] => s) s
  match (s.core core).gth with
  | g :: _ => if g.crew = ci ∧ 0 < g.done then gthFinish core s else s
  | [] => s

/-- Bytes a save area must hold (R91), and a context's area. -/
def saveSize : Nat := 0x88000000
def saveArea (c : Ctx) : Nat := bitsN c.saveBase.toNat 16 36 * 65536

/-- A save writes state into the area, in a layout that the spec does not give: which bytes, and what they hold, is free (log 78). DESIGN CHOICE:
where HQ.SAVE_BASE is unset, or a page of the area does not translate, a crew is swapped out all the same, and the bytes that cannot be written are
dropped (log 135). -/
def writeSave (s : State) (ctx : Nat) : State :=
  let base := saveArea (s.ctx ctx)
  if base = 0 then s
  else
    let (n, s) := s.draw
    (Config.savedBytes n).foldl (fun s e => if e.1 < saveSize then hubWrite s ctx (base + e.1) [e.2] else s) s

/-- A crew leaves its core, a full fence at DEV scope (11 R235), with its copy and gather commands and the WPs of the core's channels; its state
goes to the save area. One whose engine faulted on the way, and which was aborted, is gone. -/
def swapOut (s : State) (ci : Nat) (st : CStatus) : State :=
  let s := releaseAt (enginesFinish (matrixFinish s ci) ci) ci 4
  let c := s.crew ci
  if !c.resident then s
  else
  let core := s.core c.core
  let s := c.teams.foldl (fun s t => s.updTeam t swapTeam) s
  let s := s.setCrew ci { c with
    status := st,
    cpySaved := c.cpySaved ++ core.chans.flatMap (fun e => (e.2.q.filter (·.crew == ci)).map (fun x => (e.1, x))),
    gthSaved := c.gthSaved ++ core.gth.filter (·.crew == ci),
    wpSaved := (List.range 8).map (fun k => (s.chan c.core k).wp) }
  writeSave (govLeave (dropCommands s ci) c.core) c.ctx

/-- A copy channel after a crew has come back with its transfers and its WP (R92, 19 R394). A channel in which transfers of other crews stand, and
none of its own, goes on as it was (log 33). -/
def Chan.back (c : Chan) (wp : Nat) (xs : List CpyXfer) : Chan :=
  if !c.q.isEmpty && xs.isEmpty then c
  else
    let k : Chan := { c with wp := wp, q := c.q ++ xs }
    { k with sum := k.next }

/-- A crew comes back on a core: its engines' commands join those of the core, with their channels' WPs. -/
def swapIn (s : State) (ci core p0 : Nat) : State :=
  let c := s.crew ci
  let s := s.setCrew ci { c with status := .resident, core := core, p0 := p0, cpySaved := [], gthSaved := [], wpSaved := [] }
  let s := c.teams.foldl (fun s t => s.updTeam t (fun x => { x with partition := (p0 + x.id) % 4, slot := 16 })) s
  let s := c.teams.foldl (fun s t => s.updTeam t (fun x => { x with slot := freeSlot s core x.partition })) s
  let s := ((List.range 8).zip c.wpSaved).foldl (fun s e =>
    s.updChan core e.1 (fun k => k.back e.2 ((c.cpySaved.filter (·.1 == e.1)).map (·.2)))) s
  acquireAt (s.updCore core (fun k => { k with gth := k.gth ++ c.gthSaved })) ci 4

/-- The crews of a group are placed, those with it that were aborted. -/
def groupBack (s : State) (ci core p : Nat) : State :=
  let r := s.crewRec ci
  let id := (s.crew ci).launch
  if r.folio then
    let out := groupAborted s ci
    let s := (groupCrews s ci).foldl (fun s c =>
      let k := core / 8 * 8 + (s.crew c).rank
      swapIn s c k ((fitFrom s r k p).getD p)) s
    out.foldl (fun s i =>
      let k := core / 8 * 8 + (r.groupOf i).2
      (spawn s id i k ((fitFrom s r k p).getD p)).updLaunch id (fun l => { l with requeued := l.requeued.filter (·.1 != i) })) s
  else swapIn s ci core p

/-- FORK_PARENT_RESUME: the children of every forking crew of the group are complete, and it is placed again. -/
def execForkParentResume (crew core partition : Nat) (s : State) : Host.Outcome State Fault Refusal :=
  let c := s.crew crew
  .next (if c.status == .forking && groupWaits s crew && inTurn s (.back crew) && groupReturns s crew core (partition % 4)
    then groupBack s crew core (partition % 4) else s)

/-! ### FORK (R402, R90) -/

/-- One child of a forking crew: its record is read and accepted; a record that cannot be read, or whose counter fails, is
complete with BAD_RECORD and no completion block. -/
def forkChild (s : State) (ci depth va : Nat) : State :=
  let ctx := (s.crew ci).ctx
  let (s, id) := match hubRead s ctx va 64 with
    | (s, some r) => acceptLaunch s ctx (lrecOf r) (.fork ci) depth
    | (s, none) => (s, none)
  match id with
  | some _ => s
  | none => (raiseErr s ctx).updCrew ci (fun c => { c with childrenLeft := c.childrenLeft - 1 })

/-- A team waiting at FORK issues it: the one whose turn it is in its pass, another in a pass of its own. -/
def forkIssue (u : UCtx) (s : State) (t : Nat) : State :=
  retire s t 0xE5 1 (if t = u.ti then u.ps else [{ lo := 0, n := 0, at_ := firstCycle s t 1 }]) true []

/-- The swap-out: every crew of the group leaves its core after its FORKs, and then their children are accepted. -/
def forkSwap (u : UCtx) (s : State) : State :=
  let cs := groupCrews s u.t.crew
  let s := cs.foldl (fun s ci =>
    let c := s.crew ci
    let s := (c.teams.filter (fun t => (s.team t).status == .wait 5)).foldl (forkIssue u) s
    swapOut (s.setCrew ci { c with childrenLeft := listSum (c.forkReqs.map (·.2)) }) ci .forking) s
  let depth := (s.launch (s.crew u.t.crew).launch).depth + 1
  cs.foldl (fun s ci =>
    let reqs := (s.crew ci).forkReqs
    let s := s.updCrew ci (fun c => { c with forkReqs := [] })
    reqs.foldl (fun s q => (List.range q.2).foldl (fun s k => forkChild s ci depth ((q.1 + 64 * k) % 2 ^ 64)) s) s) s

/-- Every remote access of the named teams that is under way has been performed, but for lanes that a fault holds here (11 R235). -/
def fabPerformed (s : State) (ctx : Nat) (teams : Nat → Bool) : Bool :=
  (s.ctx ctx).fab.all (fun f => f.kind == 4 || !teams f.team || f.left.all (fun e =>
    e.1 == s.chipId && decide (e.2.1 ≤ ((s.ctx ctx).remoteHeld.filter (fun h => h.src == s.chipId && h.token == f.token)).length)))

/-- A group may leave its cores: the remote accesses of its teams have been performed. -/
def groupPerformed (s : State) (ci : Nat) : Bool :=
  let ts := (groupCrews s ci).flatMap (fun c => (s.crew c).teams)
  fabPerformed s (s.crew ci).ctx (ts.contains ·)

/-- FORK (R402): it is requested, while the crew's other teams may still issue, and another of them may join; when the team is
tried again, and the remote accesses of the group have been performed, the crew is swapped out and the children are accepted. -/
def execFork (d a b : Opnd) (s : State) : Host.Outcome State Fault Refusal :=
  runInstr s (fun ti t => uniform s ti t 0xE5 (wordF3 0xE5 d a b) false [fld d okZero, fld a okS, fld b okS] true [a, b] [] (fun u => do
    let va := u.rd a
    let n := u.rd b
    if t.status == .wait 5 then (if groupPerformed u.s t.crew then .ok (forkSwap u u.s) else .error .hold)
    else
      if va % 64 ≠ 0 then throw (trapAt 0x0B va 0)
      u.poison
      if n = 0 || 64 < n then throw (trapOpen u.s 0x02 n)
      if 8 ≤ (s.launch (s.crew t.crew).launch).depth then throw (trapAt 0x10 0 0)
      let s := endIdem u.s t.crew
      let s := s.updCrew t.crew (fun c => { c with forkReqs := c.forkReqs ++ [(va, n)] })
      throw (.become (stopped s ti (.block (.wait 5))))) true)

end Sys2Proof.Machine
end

