-- ==== Sys2Proof/Machine/Tasks.lean ====
section
/-! DEFINITION. Rubric's instructions ENQ, DEP.DEC and DEP.SET (20 R403, R404), and its steps: dispatch and completion of
tasks (05 R98, R105 to R107), held tasks, remote enqueues (R109), and the swap-out of a blocked ENQ (R108). -/

namespace Sys2Proof.Machine

/-! ### ENQ -/

/-- The issuing team's depth (20 R398). -/
def nestDepth (s : State) (ti : Nat) : Nat := (s.launch (s.teamCrew ti).launch).depth

/-- An ENQ on this chip: its own counter must be in range and free; in an idempotent crew it is deferred; otherwise it releases at DEV scope, the job
counts it, and it is parked, inserted, or blocks the team. -/
def enqLocal (u : UCtx) (s : State) (d : Opnd) (task : Task) : Except Stop State := do
  let ci := u.t.crew
  let ctx := (s.crew ci).ctx
  if task.own ≠ 0xFFFFFFFF && (ctrPhys (s.ctx ctx) task.own).isNone then throw (trapAt 0x0D task.own 0)
  if gateTaken s ctx task then throw (trapAt 0x12 task.own 0xFFFFFFFF)
  match deferOp s ci (.enq task task.queue) with
  | (s, true) => .ok (u.now s [(d, 0)])
  | (s, false) =>
    let s := jobAdd (s.release u.ti 4) ctx task.job 1
    match enqInsert s ctx task with
    | some s => .ok (u.now s [(d, 0)])
    | none => throw (.become (stopped (s.updTeam u.ti (fun t => { t with enqTask := some task })) u.ti (.block (.wait 1))))

/-- An ENQ for another chip, with a release at QUIRE scope before it leaves: Sd is written at the acknowledgement. -/
def enqRemote (u : UCtx) (s : State) (d : Opnd) (chip queue : Nat) (record : List Byte) (depth : Nat) : State :=
  let ci := u.t.crew
  match deferOp s ci (.renq u.ti chip queue record depth) with
  | (s, true) => u.now s [(d, 0)]
  | (s, false) =>
    let s := s.release u.ti 5
    if !s.reach chip then u.now s [(d, 1)]
    else
      let token := s.order
      let s := remoteEnq s (s.crew ci).ctx u.ti (crewJob s ci) chip queue record depth
      let regs := (dstWrites u.t true d u.c 0 0).map (·.1)
      let s := if regs.isEmpty then s else s.updTeam u.ti (fun t => { t with
        flight := t.flight ++ [{ id := t.nIssued, kind := .enq token, regs := regs, writes := [] }] })
      u.done s [] 0

/-- A blocked ENQ, whose task is ready, is tried again. -/
def enqRetry (u : UCtx) (d : Opnd) : Except Stop State :=
  let finish (s : State) : State := u.now (s.updTeam u.ti (fun t => { t with enqTask := none })) [(d, 0)]
  match u.t.enqTask with
  | none => .ok (finish u.s)
  | some task =>
    match enqReady u.s (u.s.crew u.t.crew).ctx task with
    | some s => .ok (finish s)
    | none => .error (.block (.wait 1))

/-- ENQ (R403). -/
def execEnq (d a b : Opnd) (s : State) : Host.Outcome State Fault Refusal :=
  runInstr s (fun ti t => uniform s ti t 0xE6 (wordF3 0xE6 d a b) false [fld d okS, fld a okS, fld b okS] true [a, b] [d] (fun u => do
    if t.status == .wait 1 then enqRetry u d
    else
      let va := u.rd a
      let v := u.rd b
      let remote := bitN v 2
      if va % 64 ≠ 0 then throw (trapAt 0x0B va 0)
      let (s, r) ← issueRead u.s ti va 64
      let noQuire := (s.crewRec t.crew).quire == 0xFFFF
      let (s, bind) ← if remote && !noQuire then (issueBinding s ti (bitsN v 4 32)).map (fun x => (x.1, x.2.2)) else pure (s, none)
      u.poison
      if v / 2 ^ 36 ≠ 0 || bitN v 3 || (!remote && bitsN v 4 32 != 0) then throw (trapOpen u.s 0x02 v)
      let depth := nestDepth s ti
      if 8 ≤ depth then throw (trapAt 0x10 0 0)
      if !taskShapeOk r || 255 < field r 48 4 then throw (trapOpen u.s 0x02 1)
      if remote && noQuire then throw (trapAt 0x14 3 0)
      let task := { taskOf va (v % 4) r with depth := depth + 1 }
      match bind with
      | none => if remote then throw (trapAt 0x14 2 0) else enqLocal u s d task
      | some e => if e.chip = s.chipId then enqLocal u s d task else .ok (enqRemote u s d e.chip (v % 4) r (depth + 1))) true)

/-! ### DEP.DEC and DEP.SET (R404) -/

/-- The common part of the two: the counter's range, and then poison and the must-be-0 bits (10 R210); the deferral of an idempotent crew; then a
release at DEV scope, and the counter's outcome is awaited. `act` answers the new state and whether it traps. An operation that an idempotent crew
defers meets its counter when it is applied. -/
def depOp (op : Nat) (limit : Bool) (draft : Nat → Nat → Draft) (code : Nat) (act : State → Nat → Nat → Nat → State × Bool)
    (d a b : Opnd) (s : State) : Host.Outcome State Fault Refusal :=
  runInstr s (fun ti t => uniform s ti t op (wordF3 op d a b) false [fld d okZero, fld a okS, fld b okS] true [a, b] [] (fun u => do
    let id := u.rd a % 2 ^ 32
    let n := u.rd b
    let ctx := (u.s.crew t.crew).ctx
    let out : Stop := trapAt 0x0D id 0
    if !(u.s.crew t.crew).drafting && (ctrPhys (u.s.ctx ctx) id).isNone then throw out
    u.poison
    if u.rd a / 2 ^ 32 ≠ 0 then throw (trapOpen u.s 0x02 (u.rd a))
    if limit && n / 2 ^ 16 ≠ 0 then throw (trapOpen u.s 0x02 n)
    match deferOp u.s t.crew (draft id n) with
    | (s, true) => .ok (u.done s [] 0)
    | (s, false) =>
      if (ctrPhys (s.ctx ctx) id).isNone then throw (.become (stopped s ti out))
      match act (s.release ti 4) ctx id n with
      | (s, true) => throw (.become (stopped (engDelay s ti) ti (trapAt code id (s.crewTaskId t.crew))))
      | (s, false) => .ok (engDelay (u.done s [] 0) ti)) true)

/-- DEP.DEC. -/
def execDepDec (d a b : Opnd) (s : State) : Host.Outcome State Fault Refusal :=
  depOp 0xE7 true .dec 0x11 depDecBy d a b s

/-- DEP.SET. -/
def execDepSet (d a b : Opnd) (s : State) : Host.Outcome State Fault Refusal :=
  depOp 0xE8 false .set 0x12 (fun s ctx id n => if n ≤ 65535 then (depPut s ctx id n, false) else (s, true)) d a b s

/-! ### Dispatch (R98, R107) -/

/-- TASK_DISPATCH: the first entry of a ready queue becomes a launch, and its crew is placed on a free choice of the cores
that take it. The launch is as old as the entry (log 103). An entry of a cancelled job leaves instead (R105), and a context that has not started
dispatches nothing (02 R37). -/
def execTaskDispatch (ctx queue : Nat) (s : State) : Host.Outcome State Fault Refusal :=
  .next (match readyFirst s ctx queue with
    | none => s
    | some e =>
      if !ctxRuns s ctx || !(s.ctx ctx).started then s
      else if jobCancelled s ctx e.task then
        jobAdd (s.updCtx ctx (fun c => { c with ready := cset [] c.ready queue ((cget [] c.ready queue).erase e) })) ctx e.task.job (-1)
      else if !inTurn s (.task ctx queue e.order (taskLaunchRec e.task)) then s
      else
        let r := { taskLaunchRec e.task with handler := bitsN (s.ctx ctx).taskHandler.toNat 2 50 * 4 }
        let (n, s1) := s.draw
        match pickCore s1 r (Config.choice n) with
        | none => s
        | some (core, p) =>
          let id := s1.nextLaunch
          let s := { s1 with nextLaunch := id + 1 }
          let s := s.updCtx ctx (fun c => { c with ready := cset [] c.ready queue ((cget [] c.ready queue).erase e) })
          let s := s.setLaunch id { live := true, ctx := ctx, lrec := r, origin := .task e.task, depth := e.task.depth, order := e.order,
                                    liveCrews := 1, nextIx := 1, codeMem := s.mem, codeL2 := s.l2, codeOld := s.stale }
          spawn s id 0 core p)

/-- The task held for a queue that can enter it, and its entry: the first one once a general entry is free; before that the first deferred ENQ
whose depth's entry is (R110). -/
def heldNext (s : State) (ctx q : Nat) : Option (HeldTask × Nat) :=
  let l := (s.ctx ctx).held.filter (·.task.queue == q)
  if generalFree s ctx q then l.head?.map (fun h => (h, 0))
  else (l.find? (fun h => h.enq && depthFree s ctx q h.task.depth)).map (fun h => (h, h.task.depth))

/-- HELD_TASK_INSERT: a ready task held for a queue enters it. -/
def execHeldTaskInsert (ctx queue : Nat) (s : State) : Host.Outcome State Fault Refusal :=
  .next (match heldNext s ctx queue with
    | some (h, slot) =>
      if ctxRuns s ctx then readyPut (s.updCtx ctx (fun c => { c with held := c.held.erase h })) ctx h.task slot else s
    | none => s)

/-! ### Completion (R105, R106) -/

/-- A crew that is a task and has ended. -/
def taskEnded (s : State) (ci : Nat) : Option Task :=
  if (s.crew ci).status == .ended && ctxRuns s (s.crew ci).ctx then s.crewTask ci else none

/-- A killed task: its job is cancelled, and it leaves. -/
def taskKilled (s : State) (ci : Nat) (t : Task) : State :=
  let c := s.crew ci
  let s := jobStatus s c.ctx t.job 3 t.taskId
  jobAdd (closeLaunch (cancelJob s c.ctx t.job) c.launch) c.ctx t.job (-1)

/-- Tasks in ascending task_id, and in ascending record VA for equal ids. -/
def insertTask (x : Nat × Task) : List (Nat × Task) → List (Nat × Task)
  | [] => [x]
  | y :: r => if x.2.taskId < y.2.taskId ∨ (x.2.taskId = y.2.taskId ∧ x.2.va < y.2.va) then x :: y :: r else y :: insertTask x r

/-- TASK_COMPLETE: crews that are tasks and have ended complete in one hub cycle; a killed one cancels its job. A task whose
commit sends remote ENQs completes when they are acknowledged. -/
def execTaskComplete (crews : List Nat) (s : State) : Host.Outcome State Fault Refusal :=
  let ts := (crews.foldl insertNew []).filterMap (fun c => (taskEnded s c).map (fun t => (c, t)))
  let dead := ts.filter (fun x => (s.crew x.1).killed.isSome)
  let s := dead.foldl (fun s x => taskKilled s x.1 x.2) s
  let live := (ts.filter (fun x => (s.crew x.1).killed.isNone && (s.crew x.1).status == .ended)).foldr insertTask []
  let s := live.foldl (fun s x => if (s.crew x.1).drafting then commitDrafts s x.1 else s) s
  let live := live.filter (fun x => enqsAcked s x.1)
  let s := live.foldl (fun s x => if bitN x.2.flags 5 then s.flush (s.crew x.1).ctx else s) s
  let s := live.foldl (fun s x => x.2.succ.foldl (fun s id => recordDec s (s.crew x.1).ctx (some x.2.job) id 1) s) s
  .next (live.foldl (fun s x =>
    let c := s.crew x.1
    jobAdd (closeLaunch s c.launch) c.ctx x.2.job (-1)) s)

/-! ### Remote enqueues (R109) -/

/-- REMOTE_ENQ_ARRIVAL: the target job counts the task, which is parked or inserted, and the acknowledgement returns. A task
whose counter is out of range or taken is refused; one that finds its queue full waits. DESIGN CHOICE: such a task has no record VA on this chip, and
counts as record VA 0 in the order of equal task_ids (log 134). -/
def execRemoteEnqArrival (ctx src token queue depth : Nat) (record : List Byte) (s : State) : Host.Outcome State Fault Refusal :=
  let t := { taskOf 0 (queue % 4) record with depth := depth }
  .next (match takeOwn s src (.enq s.chipId ctx token queue depth record) with
    | none => s
    | some s1 =>
      if !fabricUp s || !(s.ctx ctx).started then s
      else if (t.own != 0xFFFFFFFF && (ctrPhys (s1.ctx ctx) t.own).isNone) || gateTaken s1 ctx t then s1.send (.enqAck src ctx token 2)
      else
        match enqInsert (jobAdd s1 ctx t.job 1) ctx t with
        | some s => s.send (.enqAck src ctx token 0)
        | none => s)

/-- A FAB command with a token, of a kind. -/
def fabFind (s : State) (ctx token : Nat) : Option FabCmd := (s.ctx ctx).fab.find? (·.token == token)
def fabDrop (s : State) (ctx token : Nat) : State :=
  s.updCtx ctx (fun c => { c with fab := c.fab.filter (·.token != token) })

/-- ENQ_ACK_RECEIVE: the issuing job's count falls, and Sd is written: 0, or 2 when the task was refused. -/
def execEnqAckReceive (ctx token code : Nat) (s : State) : Host.Outcome State Fault Refusal :=
  .next (match fabFind s ctx token with
    | some f =>
      if f.kind ≠ 4 ∨ !fabricUp s then s
      else match (if f.left.any (·.1 == s.chipId) then takeOwn s s.chipId (.enqAck s.chipId ctx token code) else some s) with
      | none => s
      | some s =>
        let s := fabDrop s ctx token
        let s := match f.job with
          | some j => jobAdd s ctx j (-1)
          | none => s
        let s := if (s.team f.team).status == .free then s else s.updTeam f.team (fun t => { t with enqWait := t.enqWait - 1 })
        match (s.team f.team).flight.findIdx? (fun x => x.kind == .enq token) with
        | some i =>
          let regs := ((s.team f.team).flight[i]?).elim [] (·.regs)
          landFlight s f.team i (regs.map (fun r => (r, 0, w64 (if code = 2 then 2 else 0))))
        | none => s
    | none => s)

/-! ### A blocked ENQ swapped out (R108) -/

/-- A team blocked in ENQ. -/
def enqBlocked (t : Team) : Bool := t.status == .wait 1 && t.enqTask.isSome

/-- The context of what waits. -/
def Waiter.ctx (s : State) : Waiter → Nat
  | .crew id _ => (s.launch id).ctx
  | .group id _ => (s.launch id).ctx
  | .task c .. => c
  | .back ci => (s.crew ci).ctx

/-- A crew that waits for placement would fit on a core. To make room for another launch of its own context a PERSIST crew is not displaced
(04 R78). -/
def someoneFits (s : State) (core ci : Nat) : Bool :=
  (waiting s).any (fun w => w != .back ci && w.fitsOn s core &&
    !((s.crewRec ci).persist && w.ctx s == (s.crew ci).ctx && w.launch s != some (s.crew ci).launch))

/-- ENQ_SWAP_OUT: its arrival is the end of 2^16 cycles for which a team of the crew has been blocked in ENQ. Remote accesses of the crew are
performed first (11 R235). -/
def execEnqSwapOut (crew : Nat) (s : State) : Host.Outcome State Fault Refusal :=
  let c := s.crew crew
  .next (if c.resident && ctxRuns s c.ctx && c.teams.any (fun t => enqBlocked (s.team t)) && groupPerformed s crew then
      let s' := (groupCrews s crew).foldl (fun s ci => swapOut s ci .enqSwapped) s
      if someoneFits s' c.core crew then s' else s
    else s)

/-- The enqueues of a swapped-out crew's teams that now find room. -/
def enqWhileOut (s : State) (ci : Nat) : State :=
  (s.crew ci).teams.foldl (fun s t => match (s.team t).enqTask with
    | some k =>
      (match enqReady s (s.crew ci).ctx k with
        | some s => s.updTeam t (fun t => { t with enqTask := none })
        | none => s)
    | none => s) s

/-- ENQ_SWAPPED_RESUME: enqueues that find room complete; when all have, the crew is placed again, and each ENQ ends. -/
def execEnqSwappedResume (crew core partition : Nat) (s : State) : Host.Outcome State Fault Refusal :=
  let c := s.crew crew
  .next (if c.status != .enqSwapped || !ctxRuns s c.ctx then s
    else
      let g := groupCrews s crew
      let s := g.foldl enqWhileOut s
      if groupWaits s crew && inTurn s (.back crew) && groupReturns s crew core (partition % 4) then groupBack s crew core (partition % 4) else s)

end Sys2Proof.Machine
end

