-- ==== Sys2Proof/Machine/Fabric.lean ====
section
/-! DEFINITION. Opcodes 0xED to 0xF1: remote memory and triggered sends (20 R408 to R412, 07 R155, R156), and what arrives
over the fabric for them. -/

namespace Sys2Proof.Machine

/-! ### Lanes at their destination (R409, R411) -/

/-- The fabric's accesses at a chip. -/
def fabricAgent (ctx : Nat) : Agent := { ctx := ctx, source := 6 }

/-- A RRED's new value (R354). -/
def rredNew (ty : Nat) (isMax : Bool) (m v : Nat) : Nat :=
  if isMax then selElem (tyOnly ty) true false m v else (addElem (tyOnly ty) 0 m v 0).val

/-- One lane performed at home: kind 0 PUTR, 1 GETR, 2 and 3 RRED. What is answered is the lane with the value read. A RRED is
not performed on a poisoned word (10 R209). -/
def laneAt (s : State) (ctx kind ty size : Nat) (x : RemoteLane) : State × Except VaFail RemoteLane :=
  match placeVa s (fabricAgent ctx) (if kind = 0 then .fabW else if kind = 1 then .fabR else .fabA) x.va with
  | (s, .error e) => (s, .error e)
  | (s, .ok p) =>
    let (bs, bad) := readPlace s p size
    if kind = 0 then (shareWrite s 512 ctx p (leBytes size x.data.toNat) x.poison, .ok x)
    else if kind = 1 then (s, .ok { x with data := w64 (ofLE bs), poison := bad })
    else if bad then (s, .ok x)
    else (shareWrite s 512 ctx p (leBytes size (rredNew ty (kind == 3) (ofLE bs) (x.data.toNat % 2 ^ (8 * size)))) x.poison, .ok x)

/-- The lanes of a packet, as they are done or held. -/
structure PktAcc where
  s : State
  done : List RemoteLane := []
  held : Bool := false

/-- What a packet of this chip's own has written is noted for the team of its command. -/
def noteOwn (s : State) (ctx src token va n : Nat) : State :=
  if src ≠ s.chipId then s
  else match (s.ctx ctx).fab.find? (·.token == token) with
    | some f => noteVa s (fabricAgent ctx) f.team 3 f.id va n
    | none => s

/-- The record that a lower lane of the instruction waits for, where it may be at the location of lane x: it is at the same place in a 64 KiB page,
or, while that page has no frame, may come to be there. -/
def lowerHeld (s : State) (ctx : Nat) (h : HeldLane) (x : RemoteLane) : Option Nat :=
  if h.kind = 1 then none
  else ((s.ctx ctx).remoteHeld.find? (fun y => y.src == h.src && y.token == h.token && y.lane.va % 65536 == x.va % 65536)).map (·.seq)

/-- A lane is held. -/
def holdLane (s : State) (ctx : Nat) (h : HeldLane) : State := s.updCtx ctx (fun k => { k with remoteHeld := k.remoteHeld ++ [h] })

/-- One lane of a packet. One that faults is held with its record; one that comes after a held lane of its location is held behind it, since
those take effect in ascending lane order (R409). -/
def pktLane (h : HeldLane) (ctx : Nat) (acc : PktAcc) (x : RemoteLane) : PktAcc :=
  match lowerHeld acc.s ctx h x with
  | some seq => { acc with s := holdLane acc.s ctx { h with seq := seq, lane := x, behind := true }, held := true }
  | none =>
    match laneAt acc.s ctx h.kind h.ty h.size x with
    | (s, .ok y) => { acc with s := if h.kind = 1 then s else noteOwn s ctx h.src h.token x.va h.size, done := acc.done ++ [y] }
    | (s, .error (.fault va c lv)) =>
      let (seq, s) := agentFault s (fabricAgent ctx) .fabR va c lv false false
      { acc with s := holdLane s ctx { h with seq := seq, lane := x, cause := c }, held := true }
    | (s, .error _) => { acc with s := s, done := acc.done ++ [{ x with data := 0 }] }

/-- The answer for lanes done. -/
def pktAnswer (s : State) (h : HeldLane) (ctx : Nat) (done : List RemoteLane) : State :=
  if done.isEmpty then s
  else if h.kind = 1 then s.send (.getrReply h.src ctx h.token done)
  else s.send (.writeAck h.src ctx h.token done.length)

/-- Bytes added to the counter that a packet names. -/
def pktCount (s : State) (ctx : Nat) (ctr : Option Nat) (n : Nat) : State :=
  match ctr with
  | some k => ctrAdd s ctx (k % 256) n
  | none => s

/-- A packet arrives: its lanes are performed in order, the counter is added to once all are, and what is done is answered. -/
def pktArrive (s : State) (ctx src token kind ty size : Nat) (lanes : List RemoteLane) (ctr : Option Nat) : State :=
  let (pkt, s) := s.tick
  let h : HeldLane := { seq := 0, src := src, token := token, kind := kind, ty := ty, size := size, lane := ⟨0, 0, 0, false⟩, ctr := ctr,
                        cause := 0, pkt := pkt, pktBytes := size * lanes.length }
  let r := lanes.foldl (pktLane h ctx) { s := s }
  let s := if r.held then r.s else pktCount r.s ctx ctr h.pktBytes
  pktAnswer s h ctx r.done

/-- PUTR_ARRIVAL. -/
def execPutrArrival (ctx src token size : Nat) (lanes : List RemoteLane) (ctr : Option Nat) (s : State) : Host.Outcome State Fault Refusal :=
  .next (match takeOwn s src (.putr s.chipId ctx token size lanes ctr) with
    | some s1 => if fabricUp s then pktArrive s1 ctx src token 0 0 size lanes ctr else s
    | none => s)

/-- RRED_ARRIVAL. -/
def execRredArrival (ctx src token ty : Nat) (isMax : Bool) (lanes : List RemoteLane) (ctr : Option Nat) (s : State) : Host.Outcome State Fault Refusal :=
  .next (match takeOwn s src (.rred s.chipId ctx token ty isMax lanes ctr) with
    | some s1 => if fabricUp s && tyAtomAdd ty then pktArrive s1 ctx src token (if isMax then 3 else 2) ty (tySize ty) lanes ctr else s
    | none => s)

/-- GETR_REQUEST_ARRIVAL. -/
def execGetrRequestArrival (ctx src token size : Nat) (lanes : List RemoteLane) (s : State) : Host.Outcome State Fault Refusal :=
  .next (match takeOwn s src (.getr s.chipId ctx token size lanes) with
    | some s1 => if fabricUp s then pktArrive s1 ctx src token 1 0 size lanes none else s
    | none => s)

/-- Which of n bytes at va lie in poisoned words. -/
def poisonBytes (s : State) (a : Agent) (acc : Acc) (va n : Nat) : List Nat :=
  match (placesOf s a acc (piecesOf va n)).2 with
  | .error _ => []
  | .ok l => (l.flatMap (fun x => (List.range x.2.2).filter (fun i => match x.2.1 with
      | .scratch c o => poisonedIn (s.crew c).scratchPoison (o + i) 1
      | .phys k => poisonedIn s.poison (k + i) 1
      | _ => false) |>.map (fun i => x.1 - va + i)))

/-- Bytes written at va, some of them poisoned: the words of those become poisoned. -/
def writeMarked (s : State) (a : Agent) (acc : Acc) (va : Nat) (bytes : List Byte) (bad : List Nat) : State × Except VaFail Unit :=
  match writeVa s a acc va bytes with
  | (s, .error e) => (s, .error e)
  | (s, .ok ()) => (bad.foldl (fun s i => (writeVa s a acc (va + i) ((bytes.drop i).take 1) true).1) s, .ok ())

/-- A triggered send's data arrives: written whole, counted and acknowledged; where it faults it is held. -/
def sendArrive (s : State) (h : HeldLane) (ctx : Nat) (again : Bool) : State :=
  match writeMarked s (fabricAgent ctx) .fabW h.lane.va h.bytes h.bad with
  | (s, .error (.fault va c lv)) =>
    let (seq, s) := agentFault s (fabricAgent ctx) .fabW va c lv again false
    s.updCtx ctx (fun k => { k with remoteHeld := k.remoteHeld ++ [{ h with seq := seq, cause := c }] })
  | (s, .error _) => s.send (.writeAck h.src ctx h.token 1)
  | (s, .ok ()) => (pktCount (noteOwn s ctx h.src h.token h.lane.va h.bytes.length) ctx h.ctr h.bytes.length).send (.writeAck h.src ctx h.token 1)

/-- TRIGGERED_SEND_ARRIVAL. -/
def execTriggeredSendArrival (ctx src token dstva : Nat) (bytes : List Byte) (poison : List Nat) (ctr : Option Nat) (s : State) : Host.Outcome State Fault Refusal :=
  let h : HeldLane := { seq := 0, src := src, token := token, kind := 4, ty := 0, size := 0, lane := ⟨0, dstva, 0, false⟩, ctr := ctr,
                        cause := 0, bytes := bytes, bad := poison }
  .next (match takeOwn s src (.send s.chipId ctx token dstva bytes poison ctr) with
    | some s1 => if fabricUp s then sendArrive s1 h ctx false else s
    | none => s)

/-! ### Answers at the issuing chip (R410, R411) -/

/-- A trap for a lane that was denied. Such a lane carries the number of its record at the destination in place of data. -/
def deniedTrap (cause : Nat) (x : RemoteLane) : TrapInfo :=
  { code := if cause = 1 then 0x0D else 0x0C, info0 := w64 x.va, info1 := x.data, lane := w64 x.lane }

/-- The writes of a GETR's registers with the value of one lane: the low word first. -/
def fillLane (x : RemoteLane) : List (Reg × Nat × W64) → Bool → List (Reg × Nat × W64)
  | [], _ => []
  | (r, l, v) :: ws, high =>
    if l = x.lane then (r, l, if high then x.data >>> 32 else x.data &&& 0xFFFFFFFF) :: fillLane x ws true
    else (r, l, v) :: fillLane x ws high

/-- The first poisoned lane of responses, the lowest of all. -/
def poisonMin (p : Option (Nat × Nat)) (x : RemoteLane) : Option (Nat × Nat) :=
  if !x.poison then p
  else match p with
    | some q => if x.lane < q.1 then some (x.lane, x.va) else some q
    | none => some (x.lane, x.va)

def updFlight (s : State) (ti : Nat) (k : FlightKind) (f : InFlight → InFlight) : State :=
  s.updTeam ti (fun t => { t with flight := t.flight.map (fun x => if x.kind == k then f x else x) })

/-- A command of class FAB is answered for all its lanes: a GETR's registers are written, unless a response was poisoned; the
entry retires, and the traps of denied lanes follow. -/
def fabDone (s : State) (ctx : Nat) (f : FabCmd) : State :=
  let s := fabDrop s ctx f.token
  let s := match (s.team f.team).flight.findIdx? (fun x => x.kind == .getr f.token) with
    | some i =>
      (match ((s.team f.team).flight[i]?).bind (·.poison) with
        | some (l, va) =>
          deferTrap (s.updTeam f.team (fun t => { t with flight := t.flight.eraseIdx i })) f.team { code := 0x0F, info0 := w64 va, lane := w64 l }
        | none => landFlight s f.team i [])
    | none => s
  let s := opRetire s f.team 3 f.id
  f.traps.foldl (fun s x => deferTrap s f.team x) s

/-- Lanes of a command that a chip has not answered. -/
def FabCmd.at_ (f : FabCmd) (chip : Nat) : Nat := ((f.left.find? (·.1 == chip)).map (·.2.1)).getD 0

/-- n lanes of a command are answered by a chip, `traps` of them denied. -/
def fabAnswered (s : State) (ctx : Nat) (f : FabCmd) (chip n : Nat) (traps : List TrapInfo) : State :=
  let f := { f with left := (f.left.map (fun (e : Nat × Nat × Nat) => if e.1 = chip then (e.1, e.2.1 - n, e.2.2) else e)).filter (·.2.1 != 0),
                    traps := f.traps ++ traps }
  if f.left.isEmpty then fabDone s ctx f
  else s.updCtx ctx (fun c => { c with fab := c.fab.map (fun x => if x.token = f.token then f else x) })

/-- An answer of a chip for n lanes: this chip's own from what it has sent; another's for no more lanes than it holds. -/
def answerFrom (s : State) (f : FabCmd) (src : Nat) (m : FabMsg) (n : Nat) : Option State :=
  if f.at_ src < n then none else takeOwn s src m

/-- REMOTE_WRITE_ACK: lanes of a PUTR, a RRED or a triggered send are visible at their destination, or were denied there. -/
def execRemoteWriteAck (ctx src token lanes : Nat) (denied : List (Nat × RemoteLane)) (s : State) : Host.Outcome State Fault Refusal :=
  .next (match fabFind s ctx token with
    | some f =>
      if f.kind = 1 ∨ f.kind = 4 ∨ !fabricUp s then s
      else match answerFrom s f src (.writeAck s.chipId ctx token lanes) (lanes + denied.length) with
        | some s => fabAnswered s ctx f src (lanes + denied.length) (denied.map (fun x => deniedTrap x.1 x.2))
        | none => s
    | none => s)

/-- A lane of a GETR reads the write that another lane of its location has read (R216). -/
def sameRead (got : List (Nat × RemoteLane)) (src : Nat) (x : RemoteLane) : RemoteLane :=
  match got.find? (fun y => y.1 == src && y.2.va == x.va) with
  | some y => { x with data := y.2.data, poison := y.2.poison }
  | none => x

/-- GETR_RESPONSE: lanes of a GETR return, or were denied; a lane denied receives 0. -/
def execGetrResponse (ctx src token : Nat) (lanes : List RemoteLane) (denied : List (Nat × RemoteLane)) (s : State) : Host.Outcome State Fault Refusal :=
  .next (match fabFind s ctx token with
    | some f =>
      if f.kind ≠ 1 ∨ !fabricUp s then s
      else match answerFrom s f src (.getrReply s.chipId ctx token lanes) (lanes.length + denied.length) with
        | some s =>
          let lanes := lanes.map (sameRead f.got src)
          let f := { f with got := f.got ++ lanes.map (fun y => (src, y)) }
          let s := updFlight s f.team (.getr token) (fun x => { x with
            writes := lanes.foldl (fun ws y => fillLane y ws false) x.writes, poison := lanes.foldl poisonMin x.poison })
          fabAnswered s ctx f src (lanes.length + denied.length) (denied.map (fun x => deniedTrap x.1 x.2))
        | none => s
    | none => s)

/-! ### PUTR, GETR and RRED -/

/-- A record for a chip that cannot be reached (10 R203): it carries the destination VA, cause and source, and names the issuing team
while there is one (log 54). -/
def unreachableRecord (s : State) (ctx ti va : Nat) : State :=
  let a : Agent := if (s.team ti).status == .free then fabricAgent ctx else engAgent s ti 6
  (agentFault s a .fabW (va % 2 ^ 52) 5 0xFF false false).2

/-- The destination of each lane: its role's chip, read at issue (R426). -/
def lanePeers (s : State) (ti : Nat) : List (RemoteLane × Nat) → Except Stop (State × List (RemoteLane × Option Nat))
  | [] => .ok (s, [])
  | (x, role) :: r =>
    match issueBinding s ti role with
    | .error e => .error e
    | .ok (s, _, b) =>
      match lanePeers s ti r with
      | .error e => .error e
      | .ok (s, l) => .ok (s, (x, b.map (·.chip)) :: l)

/-- Lanes cut into packets of free sizes (R410). -/
def packets (n : Nat) : Nat → List RemoteLane → List (List RemoteLane)
  | 0, _ => []
  | _ + 1, [] => []
  | k + 1, ls => let m := max 1 (Config.packetLanes (n + k) % (ls.length + 1)); ls.take m :: packets n k (ls.drop m)

/-- What the instruction is: kind 0 PUTR, 1 GETR, 2 RRED.ADD, 3 RRED.MAX. -/
def laneMsg (kind chip ctx token ty : Nat) (ctr : Option Nat) (ls : List RemoteLane) : FabMsg :=
  if kind = 0 then .putr chip ctx token (tySize ty) ls ctr
  else if kind = 1 then .getr chip ctx token (tySize ty) ls
  else .rred chip ctx token ty (kind == 3) ls ctr

/-- The lanes bound for one chip sent. -/
def sendLanes (s : State) (kind chip ctx token ty : Nat) (ctr : Option Nat) (ls : List RemoteLane) : State :=
  let ps := packets s.fresh ls.length ls
  ps.foldl (fun s p => s.send (laneMsg kind chip ctx token ty ctr p)) { s with fresh := s.fresh + ls.length }

/-- The command of a remote instruction: its lanes sent chip by chip; those for chips that cannot be reached are dropped, with
one record for each such chip. -/
def remoteSend (s : State) (ti kind ty : Nat) (ctr : Option Nat) (ls : List (RemoteLane × Nat)) (writes : List (Reg × Nat × W64)) : State :=
  let ci := (s.team ti).crew
  let ctx := (s.crew ci).ctx
  let (id, s) := opIssue s ti 3
  let chips := ((ls.map (·.2)).foldl insertNew []).reverse
  let live := ls.filter (fun x => s.reach x.2)
  let regs := (writes.map (·.1)).foldl insertNew []
  let s := if regs.isEmpty then s else s.updTeam ti (fun t => { t with
    flight := t.flight ++ [{ id := t.nIssued, kind := .getr id, regs := regs, writes := writes }] })
  let s := (chips.filter (fun k => !s.reach k)).foldl (fun s k =>
    unreachableRecord s ctx ti (((ls.find? (fun x => x.2 == k)).map (·.1.va)).getD 0)) s
  let f : FabCmd := { token := id, team := ti, id := id, kind := if kind = 3 then 2 else kind,
                      left := (chips.filter (s.reach ·)).map (fun k =>
                        let l := ls.filter (fun x => x.2 == k)
                        (k, l.length, (l.map (·.1.va)).headD 0)) }
  if live.isEmpty then fabDone s ctx f
  else
    let s := s.updCtx ctx (fun c => { c with fab := c.fab ++ [f] })
    (chips.filter (s.reach ·)).foldl (fun s k => sendLanes s kind k ctx id ty ctr ((ls.filter (fun x => x.2 == k)).map (·.1))) s

/-- PUTR, GETR and RRED (R408): lane-wise, over the passes of R161; checked before any lane is sent, in the order of 10 R210 and,
within a step of it, of R408's table (log 53). -/
def remoteOp (op kind : Nat) (d a b : Opnd) (s : State) : Host.Outcome State Fault Refusal :=
  runInstr s (fun ti t => do
    let ty := mrType t.mr
    let w := mrWords t.mr
    let e := tySize ty
    let word := wordF3 op d a b
    let dOk : Bool := match d with
      | .v n => !mr64 t.mr || n.val % 2 == 0
      | .vx _ | .zr => true
      | .lid => kind != 1
      | _ => false
    let bOk : Bool := match b with
      | .v _ => true
      | _ => false
    decodeChecks t word false [fld d (fun _ => dOk), fld a okS, fld b (fun _ => bOk)] (mrTyValid t.mr && (kind < 2 || tyAtomAdd ty))
    let ops := [(d, w), (a, 2), (b, 2)]
    rangeChecks t ops
    let reads := if kind = 1 then [(b, 2)] else [(d, w), (b, 2)]
    let first := guardUse t :: indexUses t ops
    let uses := ops.map (grpUse t)
    let ps ← passesOf s ti op (passWords t (mr64 t.mr)) (bankReads reads) (vxOps ops) (first ++ uses)
    vxChecks t ps ops (activeLanes t)
    let ctl := readGrp t (lastPass ps) 2 a 0
    opRoom t 3
    let ls := ps.flatMap (fun p => ((span p.lo p.n).filter (fun l => t.active l && t.guard p.at_ l)).map (fun l =>
      let po := readGrp t p.at_ 2 b l
      let va := wrapN 64 ((ctl % 2 ^ 52 : Nat) + sextN 32 (po / 2 ^ 32) * e)
      (({ lane := l, va := va, data := w64 (if kind = 1 then 0 else readGrp t p.at_ w d l % 2 ^ (8 * e)), poison := false } : RemoteLane),
        po % 2 ^ 32, p.at_)))
    let bad (c : Nat) (ok : RemoteLane → Bool) : Except Stop Unit := match ls.find? (fun x => !ok x.1) with
      | some x => .error (trapAt c x.1.va 0 (some x.1.lane))
      | none => .ok ()
    bad 0x0B (fun x => x.va % e == 0)
    bad 0x0C (fun x => decide (x.va < 2 ^ 52))
    bad 0x0D (fun x => decide (x.va < winLo))
    let s := settle s ti (firstPass ps)
    let quire := decide ((s.crewRec t.crew).quire ≠ 0xFFFF)
    let (s, peers) ← if quire then lanePeers s ti (ls.map (fun x => (x.1, x.2.1))) else pure (s, [])
    match (poisonLane t ps reads (ls.map (·.1.lane))).orElse (fun _ =>
        if sPoisoned (t.commit (lastPass ps)) [a] then some 0xFFFF else none) with
    | some l => throw (trapAt 0x0F (2 ^ 64 - 1) 0 (if l = 0xFFFF then none else some l))
    | none => pure ()
    let chk := (s.crewRec t.crew).chk
    undersized chk t ps first (fun _ l => t.active l)
    undersized chk t ps uses (fun c l => t.active l && t.guard c l)
    if ctl / 2 ^ 61 ≠ 0 || (kind == 1 && bitN ctl 52) then throw (trapOpen s 0x02 ctl)
    if !quire then throw (trapAt 0x14 3 0)
    match peers.find? (fun x => x.2.isNone) with
    | some x => throw (trapAt 0x14 2 0 (some x.1.lane))
    | none => pure ()
    let s := endIdem s t.crew
    let t := s.team ti
    let writes := if kind = 1 then ls.flatMap (fun x => grpWrites t w d x.2.2 x.1.lane 0) else []
    let ctr := if bitN ctl 52 then some (bitsN ctl 53 8) else none
    let s := remoteSend s ti kind ty ctr (peers.map (fun x => (x.1, x.2.getD 0))) writes
    .ok (retire s ti op 1 ps false []))

def execPutr (d a b : Opnd) (s : State) : Host.Outcome State Fault Refusal := remoteOp 0xED 0 d a b s
def execGetr (d a b : Opnd) (s : State) : Host.Outcome State Fault Refusal := remoteOp 0xEE 1 d a b s
def execRredAdd (d a b : Opnd) (s : State) : Host.Outcome State Fault Refusal := remoteOp 0xEF 2 d a b s
def execRredMax (d a b : Opnd) (s : State) : Host.Outcome State Fault Refusal := remoteOp 0xF0 3 d a b s

/-! ### Triggered sends (R412, 07 R156) -/

/-- XSEND. -/
def execXsend (d a b : Opnd) (s : State) : Host.Outcome State Fault Refusal :=
  runInstr s (fun ti t => uniform s ti t 0xF1 (wordF3 0xF1 d a b) false [fld d okZero, fld a okS, fld b okS] true [a, b] [] (fun u => do
    let va := u.rd a
    opRoom u.t 3
    if va % 8 ≠ 0 then throw (trapAt 0x0B va 0)
    let (s, r) ← issueRead u.s ti va 32
    if (s.crewRec t.crew).quire = 0xFFFF then
      u.poison
      throw (trapAt 0x14 3 0)
    let (s, _, bind) ← issueBinding s ti (field r 16 4)
    u.poison
    let ctx := (s.crew t.crew).ctx
    if 256 ≤ (s.ctx ctx).armed.length then throw (trapAt 0x14 1 0)
    match bind with
    | none => throw (trapAt 0x14 2 0)
    | some e =>
      let s := endIdem s t.crew
      let (id, s) := opIssue s ti 3
      let x : ArmedSend := { team := ti, src := field r 0 8, dstva := field r 8 8, chip := e.chip, bytes := field r 20 4, ctr := field r 24 1,
                             dstCtr := field r 25 1, threshold := w64 (u.rd b), id := id,
                             met := decide ((w64 (u.rd b)).toNat ≤ (s.ctx ctx).counter (field r 24 1)) }
      .ok (u.done (s.updCtx ctx (fun c => { c with armed := c.armed ++ [x] })) [] 0)) true)

/-- The armed send at an index changed. -/
def updArmed (s : State) (ctx i : Nat) (f : ArmedSend → ArmedSend) : State :=
  s.updCtx ctx (fun c => { c with armed := match c.armed[i]? with
    | some x => listSet c.armed i (f x)
    | none => c.armed })

/-- TRIGGERED_SEND_FIRE: a send that is due, and before which no send armed on its counter is due, reads its source and goes;
one for a chip that cannot be reached is dropped with a record. -/
def execTriggeredSendFire (ctx idx : Nat) (s : State) : Host.Outcome State Fault Refusal :=
  let c := s.ctx ctx
  .next (match c.armed[idx]? with
    | none => s
    | some x =>
      if !x.met || x.wait.isSome || !ctxRuns s ctx || (c.armed.take idx).any (fun y => y.ctr == x.ctr && y.met) then s
      else
        let gone := s.updCtx ctx (fun c => { c with armed := c.armed.eraseIdx idx })
        if !s.reach x.chip then opRetire (unreachableRecord gone ctx x.team x.dstva) x.team 3 x.id
        else
          let a : Agent := if (s.team x.team).status == .free then fabricAgent ctx else engAgent s x.team 6
          match readVa s a .engR x.src x.bytes with
          | (s, .error e) =>
            (match engStop s a .engR x.again e with
              | (s, .wait r) => updArmed s ctx idx (fun x => { x with wait := some r })
              | (s, .gone) => s
              | (s, .trap y) =>
                deferTrap (opRetire (s.updCtx ctx (fun c => { c with armed := c.armed.eraseIdx idx })) x.team 3 x.id) x.team y)
          | (s, .ok (bs, _)) =>
            let s := s.updCtx ctx (fun c => { c with
              armed := c.armed.eraseIdx idx,
              fab := c.fab ++ [{ token := x.id, team := x.team, left := [(x.chip, 1, x.dstva)], id := x.id, kind := 3 }] })
            s.send (.send x.chip ctx x.id x.dstva bs (poisonBytes s a .engR x.src x.bytes) (if x.dstCtr = 0xFF then none else some x.dstCtr)))

/-! ### Chips that are no longer reached (02 R53, R411, 05 R109) -/

/-- A command's lanes bound for a chip that is no longer reached are dropped, with one record; an ENQ completes with 1, and its
job's count is undone. -/
def fabLost (s : State) (ctx : Nat) (f : FabCmd) (e : Nat × Nat × Nat) : State :=
  if f.kind = 4 then
    let s := fabDrop s ctx f.token
    let s := match f.job with
      | some j => jobAdd s ctx j (-1)
      | none => s
    let s := if (s.team f.team).status == .free then s else s.updTeam f.team (fun t => { t with enqWait := t.enqWait - 1 })
    match (s.team f.team).flight.findIdx? (fun x => x.kind == .enq f.token) with
    | some i => landFlight s f.team i ((((s.team f.team).flight[i]?).elim [] (·.regs)).map (fun r => (r, 0, 1)))
    | none => s
  else
    let s := unreachableRecord s ctx f.team e.2.2
    match fabFind s ctx f.token with
    | some f => fabAnswered s ctx f e.1 e.2.1 []
    | none => s

/-- Ports have gone down: commands complete for the chips that no path reaches any more. -/
def fabPeersLost (s : State) : State :=
  s.ctxs.foldl (fun s c => c.2.fab.foldl (fun s f => (f.left.filter (fun e => !s.reach e.1)).foldl (fun s e => fabLost s c.1 f e) s) s) s

/-! ### Held lanes after a REPLAY or a DENY (R411) -/

/-- A held lane leaves; when it was the last of its packet, the packet is counted. -/
def heldGone (s : State) (ctx : Nat) (h : HeldLane) : State :=
  let s := s.updCtx ctx (fun c => { c with remoteHeld := c.remoteHeld.filter (fun x => !(x.seq == h.seq && x.lane.lane == h.lane.lane)) })
  if h.kind = 4 ∨ (s.ctx ctx).remoteHeld.any (·.pkt == h.pkt) then s else pktCount s ctx h.ctr h.pktBytes

/-- A held lane tried: whether it is done. One that faults again waits for the new record, and with it those behind it. -/
def heldTry (s : State) (ctx : Nat) (again : Bool) (h : HeldLane) : State × Bool :=
  match laneAt s ctx h.kind h.ty h.size h.lane with
  | (s, .ok y) => (pktAnswer (heldGone (if h.kind = 1 then s else noteOwn s ctx h.src h.token h.lane.va h.size) ctx h) h ctx [y], true)
  | (s, .error (.fault va c lv)) =>
    let (seq, s) := agentFault s (fabricAgent ctx) .fabR va c lv again false
    (s.updCtx ctx (fun k => { k with remoteHeld := k.remoteHeld.map (fun x =>
      if x.seq = h.seq then { x with seq := seq, cause := c, behind := x.behind && x.lane.lane != h.lane.lane } else x) }), false)
  | (s, .error _) => (pktAnswer (heldGone s ctx h) h ctx [{ h.lane with data := 0 }], true)

/-- The lanes held behind one that is gone, in order, until one faults. -/
def heldFollow (ctx : Nat) : List HeldLane → State → State
  | [], s => s
  | h :: r, s =>
    match heldTry s ctx false h with
    | (s, true) => heldFollow ctx r s
    | (s, false) => s

/-- The lanes held behind a lane. -/
def heldBehind (s : State) (ctx : Nat) (h : HeldLane) : List HeldLane :=
  (s.ctx ctx).remoteHeld.filter (fun x => x.seq == h.seq && x.behind)

/-- A held lane is tried again, and after it those behind it. -/
def heldRetry (s : State) (ctx : Nat) (h : HeldLane) : State :=
  if h.kind = 4 then sendArrive (heldGone s ctx h) h ctx true
  else
    match heldTry s ctx true h with
    | (s, true) => heldFollow ctx (heldBehind s ctx h) s
    | (s, false) => s

/-- A held lane is dropped, and the issuing chip is told. Its packet's count stays the element's size times its lanes (R410). Those behind it are tried. -/
def heldDeny (s : State) (ctx : Nat) (h : HeldLane) : State :=
  let s := heldGone s ctx h
  let lane := { h.lane with data := w64 h.seq }
  let s := if h.src ≠ s.chipId then s.send (.laneDenied h.src ctx h.token h.cause lane)
    else match fabFind s ctx h.token with
      | some f => fabAnswered s ctx f s.chipId 1 [deniedTrap h.cause lane]
      | none => s
  heldFollow ctx (heldBehind s ctx h) s

end Sys2Proof.Machine
end

