-- ==== Sys2Proof/Machine/Ductus.lean ====
section
/-! DEFINITION. Ductus, the hardware time loop (06 R112 to R138, 20 R405 to R407): tableaux, runs and their steps, implicit
stages, events, dense output, and the instructions TBL.LD, DX.RUN, DX.QRY and DX.STAT. -/

namespace Sys2Proof.Machine

/-! ### F64 arithmetic, rounded under RNE -/

def r64 (v : FV) : Nat := (fmtF64.roundV 0 false false 0 v).1
def v64 (c : Nat) : FV := fmtF64.value c
def add64 (a b : Nat) : Nat := r64 ((v64 a).add 0 (v64 b)).1
def neg64 (a : Nat) : Nat := a ^^^ 2 ^ 63
def sub64 (a b : Nat) : Nat := add64 a (neg64 b)
def mul64 (a b : Nat) : Nat := r64 ((v64 a).mul (v64 b)).1
def div64 (a b : Nat) : Nat := r64 ((v64 a).div (v64 b)).1
def fma64 (a b c : Nat) : Nat := r64 (FV.fma 0 (v64 a) (v64 b) (v64 c)).1
def sqrt64 (a : Nat) : Nat := r64 (v64 a).sqrt.1
def abs64 (a : Nat) : Nat := a % 2 ^ 63
def lt64 (a b : Nat) : Bool := (v64 a).lt false (v64 b)
def nan64 (a : Nat) : Bool := (v64 a).isNan
def le64 (a b : Nat) : Bool := !nan64 a && !nan64 b && !lt64 b a
def zero64 (a : Nat) : Bool := a % 2 ^ 63 == 0
def finite64 (a : Nat) : Bool := a / 2 ^ 52 % 2048 != 2047
/-- Max and Min; a NaN operand gives NaN. -/
def max64 (a b : Nat) : Nat := if nan64 a || nan64 b then fmtF64.nanCode else if lt64 a b then b else a
def min64 (a b : Nat) : Nat := if nan64 a || nan64 b then fmtF64.nanCode else if lt64 b a then b else a
def one64 : Nat := 0x3FF0000000000000
/-- Pow of R123. -/
def pow64 (x y : Nat) : Nat := r64 (funExp2 (v64 (mul64 y (r64 (funLog2 (v64 x)).v)))).v
/-- |RNE64(e / sc)| with the rule of R121 for a zero scale. -/
def ratio64 (e sc : Nat) : Nat :=
  if zero64 sc then (if zero64 e then 0 else fmtF64.infCode false) else abs64 (div64 e sc)
/-- A chain of FMA64 from a start. -/
def chain64 (start : Nat) (l : List (Nat × Nat)) : Nat := l.foldl (fun acc x => fma64 x.1 x.2 acc) start

/-! ### Tableaux (R112, R113) -/

/-- Bytes of a record whose header is sound. -/
def tabLen (kind s deg : Nat) : Nat := 8 + 8 * (3 * s + (if kind = 2 then 2 * s * s else s * s) + deg * s)

/-- A matrix of n rows of s values, from value index o of the arrays. -/
def tabRows (vals : List Nat) (o s n : Nat) : List (List Nat) := (List.range n).map (fun i => (vals.drop (o + i * s)).take s)

/-- The arrays of a record, as F64 codes. -/
def tabVals (r : List Byte) (n : Nat) : List Nat := (List.range n).map (fun i => field r (8 + 8 * i) 8)

/-- The first offset at which a condition on a value index fails. -/
def firstOff (l : List Nat) (bad : Nat → Bool) : Option Nat := (l.find? bad).map (fun i => 8 + 8 * i)

/-- Reasons 2 to 8 of R113: the first check that fails, with the offset of its first offending field. The record is whole
where its header passes reasons 2 and 3. -/
def tabCheck (r : List Byte) : Option (Nat × Nat) :=
  let kind := field r 0 1
  let s := field r 1 1
  let nm := if kind = 2 then 2 else 1
  if 2 < kind then some (2, 0)
  else if s = 0 ∨ 16 < s then some (3, 1)
  else if field r 2 1 = 0 ∨ 15 < field r 2 1 then some (4, 2)
  else if field r 3 1 = 0 ∨ 15 < field r 3 1 then some (4, 3)
  else if 8 < field r 4 1 then some (5, 4)
  else if 1 < field r 5 1 then some (5, 5)
  else if field r 6 2 ≠ 0 then some (5, 6)
  else
    let n := 3 * s + nm * s * s + field r 4 1 * s
    let v (i : Nat) : Nat := field r (8 + 8 * i) 8
    let at_ (m i j : Nat) : Nat := s + m * s * s + i * s + j
    let cells := (List.range nm).flatMap (fun m => (List.range s).flatMap (fun i => (List.range s).map (fun j => (m, i, j))))
    match firstOff (List.range n) (fun i => !finite64 (v i)) with
    | some o => some (6, o)
    | none =>
      match cells.find? (fun e => !zero64 (v (at_ e.1 e.2.1 e.2.2)) &&
          (if kind = 0 || (kind = 2 && e.1 = 0) then decide (e.2.1 ≤ e.2.2) else decide (e.2.1 < e.2.2))) with
      | some e => some (7, 8 + 8 * at_ e.1 e.2.1 e.2.2)
      | none =>
        if field r 5 1 = 0 then none
        else
          let bad (i : Nat) : Bool :=
            (i == 0 && !zero64 (v 0)) || (i == s - 1 && v i != one64) ||
            cells.any (fun e => at_ e.1 e.2.1 e.2.2 == i &&
              ((e.2.1 == 0 && !zero64 (v i)) || (e.2.1 == s - 1 && !(v64 (v i)).eqv (v64 (v (at_ nm 0 e.2.2))))))
          (firstOff (List.range (s + nm * s * s)) bad).map (fun o => (8, o))

/-- A slot's contents from a sound record, with the derived values. -/
def tabOf (r : List Byte) : Tableau :=
  let kind := field r 0 1
  let s := field r 1 1
  let nm := if kind = 2 then 2 else 1
  let deg := field r 4 1
  let qhat := field r 3 1
  let vs := tabVals r (3 * s + nm * s * s + deg * s)
  let w (l : List Nat) : List W64 := l.map w64
  let o := s + nm * s * s
  let b := (vs.drop o).take s
  let bh := (vs.drop (o + s)).take s
  { kind := kind, s := s, q := field r 2 1, qhat := qhat, deg := deg, fsal := field r 5 1 == 1, c := w (vs.take s),
    a := (tabRows vs s s s).map w, a2 := if kind = 2 then (tabRows vs (s + s * s) s s).map w else [],
    b := w b, bhat := w bh, dm := (tabRows vs (o + 2 * s) s deg).map w, d := w ((b.zip bh).map (fun e => sub64 e.1 e.2)),
    ei := w64 (r64 (.fin true 1 (qhat + 1))), raw := r }

/-- TBL.LD (R405). A failed check leaves the slot empty. -/
def execTblLd (d a b : Opnd) (s : State) : Host.Outcome State Fault Refusal :=
  runInstr s (fun ti t => uniform s ti t 0xE9 (wordF3 0xE9 d a b) false [fld d okZero, fld a okS, fld b okS] true [a, b] [] (fun u => do
    let va := u.rd a
    let slot := u.rd b
    if va % 8 ≠ 0 then throw (trapAt 0x0B va 0)
    let (s, h) ← issueRead u.s ti va 8
    let whole := field h 0 1 ≤ 2 && 1 ≤ field h 1 1 && field h 1 1 ≤ 16 && field h 4 1 ≤ 8
    let (s, r) ← if whole then issueRead s ti va (tabLen (field h 0 1) (field h 1 1) (field h 4 1)) else pure (s, h)
    u.poison
    if 7 < slot then throw (trapAt 0x02 1 slot)
    let ctx := (s.crew t.crew).ctx
    let s := endIdem s t.crew
    let put (x : Option Tableau) : State := s.updCtx ctx (fun c => { c with tableaux := cset none c.tableaux slot x })
    match tabCheck r with
    | some (why, off) => throw (.become (stopped (put none) ti (trapAt 0x02 why off)))
    | none => .ok (u.done (put (some (tabOf r))) [] 0)) true)

/-- The key of a run. -/
def dxKey (ctx h : Nat) : Nat := ctx * 64 + h % 64

/-! ### The record and the regions (R114, R115) -/

def DxRun.f (r : DxRun) (o n : Nat) : Nat := field r.irec o n
def DxRun.n (r : DxRun) : Nat := r.f 8 8
/-- Bytes of an element of the state. -/
def DxRun.esz (r : DxRun) : Nat := if r.f 16 1 = 10 then 4 else 8
def DxRun.evt (r : DxRun) : Bool := bitN (r.f 19 1) 0
def DxRun.dense (r : DxRun) : Bool := bitN (r.f 19 1) 1
def DxRun.stop (r : DxRun) : Bool := bitN (r.f 19 1) 2
def DxRun.slab (r : DxRun) : Nat := r.f 112 8
def DxRun.slabs (r : DxRun) : Nat := (r.n + r.slab - 1) / r.slab
def DxRun.stride (r : DxRun) : Nat := (r.n * r.esz + 63) / 64 * 64
def DxRun.l8 (r : DxRun) : Nat := (8 * r.n + 63) / 64 * 64
def DxRun.tb (r : DxRun) : Tableau := r.tab.getD {}
def DxRun.kind (r : DxRun) : Nat := r.tb.kind
def DxRun.stages (r : DxRun) : Nat := r.tb.s
/-- The parts of f: the whole, or the explicit and the implicit one. -/
def DxRun.parts (r : DxRun) : List Nat := if r.kind = 2 then [1, 2] else [0]
/-- Array k of the state region. -/
def DxRun.arr (r : DxRun) (k : Nat) : Nat := r.f 0 8 + k * r.stride
/-- The array of K_j, or of a part of it. -/
def DxRun.kArr (r : DxRun) (j part : Nat) : Nat := if part = 2 then 3 + r.stages + j else 3 + j
def DxRun.arrays (r : DxRun) : Nat := 4 + r.stages * r.parts.length
def DxRun.blocks (r : DxRun) : Nat := (r.n + 31) / 32
def DxRun.jac (r : DxRun) : Nat := r.arr r.arrays
/-- Where event crews write (R129). -/
def DxRun.evtOut (r : DxRun) : Nat := if r.kind = 0 then r.jac else r.jac + 12288 * r.blocks
def DxRun.regionBytes (r : DxRun) : Nat := r.evtOut - r.f 0 8 + (if r.evt then 128 * r.slabs else 0)
/-- Array m of a copy of the dense buffer: the state at its start, then the Φ. -/
def DxRun.denseArr (r : DxRun) (copy m : Nat) : Nat := r.f 160 8 + (copy * (r.tb.deg + 1) + m) * r.l8

def tabAt (m : List (List W64)) (i j : Nat) : Nat := ((m.getD (i - 1) []).getD (j - 1) 0).toNat
def tabVec (l : List W64) (j : Nat) : Nat := (l.getD (j - 1) 0).toNat

/-- A stage solved by Newton iteration (R113). -/
def DxRun.implicit (r : DxRun) (i : Nat) : Bool :=
  (r.kind == 1 && !zero64 (tabAt r.tb.a i i)) || (r.kind == 2 && !zero64 (tabAt r.tb.a2 i i))
def DxRun.anyImplicit (r : DxRun) : Bool := (span 1 r.stages).any r.implicit
/-- Every row of a stage is zero. -/
def DxRun.zeroRow (r : DxRun) (i : Nat) : Bool := (span 1 r.stages).all (fun j => zero64 (tabAt r.tb.a i j) && zero64 (tabAt r.tb.a2 i j))
def DxRun.reusable (r : DxRun) (i : Nat) : Bool := zero64 (tabVec r.tb.c i) && r.zeroRow i

/-! ### Acceptance (R116, R133) -/

/-- The 64 KiB pieces of a region are mapped, writable and near. -/
def nearRegion (s : State) (ctx va n : Nat) : Bool :=
  (piecesOf va n).all (fun p => match placeVa s { hubAgent ctx 5 with spec := true } .engW p.1 with
    | (_, .ok (.phys k)) => keyKind k == 1
    | _ => false)

/-- The die that homes an address. -/
def homeDie (s : State) (ctx va : Nat) : Option Nat :=
  match placeVa s { hubAgent ctx 5 with spec := true } .engR va with
  | (_, .ok (.phys k)) => some (keyDie k)
  | _ => none

/-- Elements of a slab. -/
def DxRun.slabLen (r : DxRun) (k : Nat) : Nat := min r.slab (r.n - k * r.slab)
/-- In each array, each slab is homed on one die. -/
def oneDiePerSlab (s : State) (r : DxRun) : Bool :=
  (List.range r.arrays).all (fun a => (List.range r.slabs).all (fun k =>
    let base := r.arr a + k * r.slab * r.esz
    (piecesOf base (r.slabLen k * r.esz)).all (fun p => homeDie s r.ctx p.1 == homeDie s r.ctx base)))

/-- A launch record that evaluations can use. -/
def evalRecOk (s : State) (ctx va : Nat) : State × Bool :=
  if va % 64 ≠ 0 then (s, false)
  else
    match hubRead s ctx va 64 with
    | (s, none) => (s, false)
    | (s, some bs) =>
      let l := lrecOf bs
      match counterOk s ctx l.counter with
      | (s, false) => (s, false)
      | (s, true) =>
        if l.folio then (s, false)
        else let (s, st, _) := recordStatus s ctx l; (s, st == 0)

/-- The fields of a record that are no addresses or counts. -/
def dxFieldsOk (r : DxRun) : Bool :=
  let g (o : Nat) : Nat := r.f o 8
  let deg := r.tb.deg
  r.f 190 2 == 0 && r.f 19 1 / 8 == 0 && (r.f 16 1 == 10 || r.f 16 1 == 11) &&
  decide (r.f 17 1 ≤ 1 ∧ r.f 18 1 ≤ 1 ∧ 1 ≤ r.n ∧ r.n ≤ 2 ^ 32 ∧ 1 ≤ r.slab) && r.tab.isSome &&
  [24, 32, 40, 48, 56, 64, 72, 80, 88, 96, 136, 144, 152].all (fun o => finite64 (g o)) &&
  lt64 (g 24) (g 32) && lt64 0 (g 40) && le64 0 (g 48) && le64 (g 48) (g 40) && le64 (g 48) (g 56) &&
  le64 0 (g 64) && le64 0 (g 72) && !(zero64 (g 64) && zero64 (g 72)) &&
  lt64 0 (g 80) && le64 (g 80) one64 && lt64 0 (g 88) && le64 (g 88) one64 && le64 one64 (g 96) &&
  (!r.anyImplicit || (r.f 128 1 != 0 && r.slab % 32 == 0)) &&
  (!r.evt || (decide (1 ≤ r.f 129 1 ∧ r.f 129 1 ≤ 16 ∧ deg ≠ 0) && r.dense)) && (!r.dense || deg != 0) &&
  r.f 0 8 % 64 == 0 && (!r.dense || r.f 160 8 % 64 == 0)

/-- The memory that a record names. -/
def dxMemoryOk (s : State) (r : DxRun) : State × Bool :=
  if !(nearRegion s r.ctx (r.f 0 8) r.regionBytes && (!r.dense || nearRegion s r.ctx (r.f 160 8) (2 * (r.tb.deg + 1) * r.l8)) &&
      oneDiePerSlab s r) then (s, false)
  else
    let (s, a) := evalRecOk s r.ctx (r.f 104 8)
    let (s, b) := if r.anyImplicit then evalRecOk s r.ctx (r.f 168 8) else (s, true)
    let (s, c) := if r.evt then evalRecOk s r.ctx (r.f 176 8) else (s, true)
    (s, a && b && c)

/-- The members of a run that spans chips (R133): each role's chip, and the role to which the issuing crew is bound, whichever directory index its
own launch names (04 R87); or none where the conditions are not met. -/
def dxMembers (s : State) (ctx quire : Nat) (crew : Option Nat) : State × Option (List Nat × Nat) :=
  match crew with
  | none => (s, none)
  | some ci =>
    let (s, bs) := hubBindings s ctx quire
    let chips := bs.map (fun b => (b.map (·.chip)).getD 4096)
    match bs.findIdx? (· == some { chip := s.chipId, crew := (s.crew ci).ix, dir := (s.crewRec ci).quire }) with
    | some role => (s, if bs.all (·.isSome) ∧ chips.Nodup then some (chips, role) else none)
    | none => (s, none)

/-- The items that members compare: the tableau and every record field that is not a member's own. -/
def dxDigest (r : DxRun) : List Byte :=
  r.tb.raw ++ (r.irec.drop 16).take 88 ++ (r.irec.drop 128).take 32 ++ (r.irec.drop 188).take 4

/-- The first check of R116, on a record that has been read. -/
def doneRecOk (s : State) (ctx : Nat) (bs : List Byte) : Bool :=
  let d := field bs 120 8
  d % 64 == 0 && (match placeVa s { hubAgent ctx 5 with spec := true } .engW d with
    | (_, .ok _) => true
    | _ => false)

/-- The lowest free handle of a context. -/
def freeHandle (s : State) (ctx : Nat) : Option Nat := (List.range 64).find? (fun h => !(s.run (ctx * 64 + h)).active)

/-- A run that is over: it awaits its completion. -/
def DxRun.over (r : DxRun) (status : Nat) (trap : Nat := 0) : DxRun := { r with todo := .finish, status := status, trap := trap }

/-- A run whose members' starts are as they are: any difference ends it, and it begins once all have started. -/
def DxRun.begun (r : DxRun) : DxRun :=
  if r.peers.any (fun p => p.2.2 != dxDigest r) then { r with hNew := 0 }.over 7
  else if r.peers.length = r.chips.length then { r with todo := .form } else { r with todo := .begin }

/-- A member has announced a pause, or is heard again (R135, 07 R142). -/
def notePause (s : State) (ctx quire role : Nat) (paused : Bool) : State :=
  s.updCtx ctx (fun c =>
    let others := c.peersPaused.filter (· != (quire, role))
    { c with peersPaused := if paused then others ++ [(quire, role)] else others })

/-- A run takes a handle: it starts, with what members on other chips have sent for it before, or awaits its completion with BAD_RECORD. -/
def dxStart (s : State) (ctx h : Nat) (bs : List Byte) (slot : Nat) (crew : Option Nat) : State :=
  let r : DxRun := { used := true, active := true, ctx := ctx, handle := h, irec := bs,
                     tab := cget none (s.ctx ctx).tableaux (slot % 8), t := field bs 24 8 }
  let key := ctx * 64 + h
  let step := min64 (r.f 40 8) (r.f 56 8)
  let good := { r with h := step, hNew := step, todo := .form }
  if !dxFieldsOk r then s.setRun key (r.over 7)
  else
    match dxMemoryOk s r with
    | (s, false) => s.setRun key (r.over 7)
    | (s, true) =>
      if r.f 188 2 = 0xFFFF then s.setRun key good
      else
        match dxMembers s ctx (r.f 188 2) crew with
        | (s, none) => s.setRun key (r.over 7)
        | (s, some (chips, role)) =>
          let s := (chips.filter (· != s.chipId)).foldl (fun s k => s.send (.dxStart k ctx h role r.n (dxDigest r))) s
          let early := ((s.ctx ctx).dxStarts.filter (·.1 == h)).map (·.2)
          let s := ((s.ctx ctx).dxPauses.filter (·.1 == h)).foldl (fun s e => notePause s ctx (r.f 188 2) e.2 true) s
          let s := s.updCtx ctx (fun c => { c with dxStarts := c.dxStarts.filter (·.1 != h), dxPauses := c.dxPauses.filter (·.1 != h) })
          let good := { good with chips := chips, role := role,
                                  peers := (role, r.n, dxDigest r) :: early.filter (fun e => e.1 != role && decide (e.1 < chips.length)) }
          s.setRun key (if chips.all s.reach then good.begun else good.over 6)

/-- DX.RUN (R406). -/
def execDxRun (d a b : Opnd) (s : State) : Host.Outcome State Fault Refusal :=
  runInstr s (fun ti t => uniform s ti t 0xEA (wordF3 0xEA d a b) false [fld d okS, fld a okS, fld b okS] true [a, b] [d] (fun u => do
    let va := u.rd a
    let slot := u.rd b
    opRoom u.t 4
    u.poison
    let ci := t.crew
    let ctx := (s.crew ci).ctx
    let slotOk : Except Stop Unit := if 8 ≤ slot then .error (trapOpen u.s 0x02 slot) else .ok ()
    let fails (s : State) : State := u.now (endIdem s ci) [(d, 2 ^ 64 - 2)]
    if va % 64 ≠ 0 then
      slotOk
      return fails u.s
    match engRead u.s (hubAgent ctx 5) ci va 192 with
    | (s, .error _) =>
      slotOk
      return fails s
    | (s, .ok (bs, bad)) =>
      if bad then throw (trapAt 0x0F ((engBad s (hubAgent ctx 5) ci va 192).getD va) 0)
      slotOk
      if !doneRecOk s ctx bs then return fails s
      let s := endIdem s ci
      match freeHandle s ctx with
      | none => return u.now s [(d, 2 ^ 64 - 1)]
      | some h => return u.now (dxStart s ctx h bs slot (some ci)) [(d, h)]) true)

/-! ### Combine work -/

/-- Work of the combine lanes and the sequencer: it ends a run with a trap code where it fails (R136). -/
abbrev DxM := ExceptT Nat (StateM State)

def dxRead (ctx va n : Nat) : DxM (List Byte) := do
  match readVa (← get) (hubAgent ctx 5) .engR va n with
  | (s, .ok (bs, none)) => set s; return bs
  | (s, .ok (_, some _)) => set s; throw 0x0F
  | (s, .error (.fault v c l)) => set (agentFault s (hubAgent ctx 5) .engR v c l false false).2; throw 0x0C
  | (s, .error _) => set s; throw 0x0C

def dxWrite (ctx va : Nat) (bytes : List Byte) : DxM Unit := do
  match writeVa (← get) (hubAgent ctx 5) .engW va bytes with
  | (s, .ok _) => set s
  | (s, .error (.fault v c l)) => set (agentFault s (hubAgent ctx 5) .engW v c l false false).2; throw 0x0C
  | (s, .error _) => set s; throw 0x0C

/-- What the run holds from here on, should its work end in a fault. -/
def dxKeep (r : DxRun) : DxM Unit := modify (fun s => s.setRun (dxKey r.ctx r.handle) r)

/-- Elements of e bytes. -/
def elems (bs : List Byte) (e n : Nat) : List Nat := (List.range n).map (fun i => field bs (e * i) e)
/-- A state element as F64, and RoundS. -/
def DxRun.up (r : DxRun) (c : Nat) : Nat := if r.esz = 4 then r64 (fmtF32.value c) else c
def DxRun.down (r : DxRun) (c : Nat) : Nat := if r.esz = 4 then (fmtF32.roundV 0 false false 0 (v64 c)).1 else c
/-- The elements of array k. -/
def DxRun.vec (r : DxRun) (k : Nat) : DxM (List Nat) := do
  return (elems (← dxRead r.ctx (r.arr k) (r.n * r.esz)) r.esz r.n).map r.up
/-- RoundS of a list into array k: what it then holds, as F64. -/
def DxRun.put (r : DxRun) (k : Nat) (l : List Nat) : DxM (List Nat) := do
  let c := l.map r.down
  dxWrite r.ctx (r.arr k) (c.flatMap (leBytes r.esz))
  return c.map r.up
def DxRun.copyArr (r : DxRun) (src dst : Nat) : DxM Unit := do
  dxWrite r.ctx (r.arr dst) (← dxRead r.ctx (r.arr src) (r.n * r.esz))

/-- Several arrays. -/
def DxRun.vecs (r : DxRun) : List Nat → DxM (List (List Nat))
  | [] => return []
  | k :: l => do
    let v ← r.vec k
    return v :: (← r.vecs l)

/-- The weighted terms of a stage below it (R120), and of the whole step with weights w (R121). -/
def DxRun.stageTerms (r : DxRun) (i : Nat) : List (Nat × Nat) :=
  (span 1 (i - 1)).flatMap (fun j =>
    if r.kind = 2 then [(mul64 r.h (tabAt r.tb.a i j), r.kArr j 1), (mul64 r.h (tabAt r.tb.a2 i j), r.kArr j 2)]
    else [(mul64 r.h (tabAt r.tb.a i j), r.kArr j 0)])
def DxRun.stepTerms (r : DxRun) (w : List W64) : List (Nat × Nat) :=
  (span 1 r.stages).flatMap (fun j => r.parts.map (fun p => (mul64 r.h (tabVec w j), r.kArr j p)))

/-- Element i of the chain of weights ws over arrays ks. -/
def chainAt (start : Nat) (ws : List Nat) (ks : List (List Nat)) (i : Nat) : Nat :=
  chain64 start ((ws.zip ks).map (fun e => (e.1, e.2.getD i 0)))

/-- A stage vector formed into array dst. -/
def DxRun.form (r : DxRun) (i dst : Nat) : DxM Unit := do
  let ts := r.stageTerms i
  let y ← r.vec 0
  let ks ← r.vecs (ts.map (·.2))
  let _ ← r.put dst ((List.range r.n).map (fun e => chainAt (y.getD e 0) (ts.map (·.1)) ks e))

/-! ### Reductions (R122, R134) -/

/-- A partial of each slab. -/
def DxRun.perSlab (r : DxRun) (f : Nat → Nat → Nat) (l : List Nat) : List Nat :=
  (List.range r.slabs).map (fun k => ((l.drop (k * r.slab)).take (r.slabLen k)).foldl f 0)

/-- The chip's total: slabs within a die, then dies. -/
def dieTotal (op : Nat → Nat → Nat) (homes ps : List Nat) : Nat :=
  (List.range 4).foldl (fun tot d => op tot ((homes.zip ps).foldl (fun v e => if e.1 = d then op v e.2 else v) 0)) 0

/-- The dies that home the slabs. -/
def DxRun.homes (r : DxRun) (s : State) : List Nat :=
  (List.range r.slabs).map (fun k => (homeDie s r.ctx (r.arr 0 + k * r.slab * r.esz)).getD 0)

/-- The total of a norm on this chip. -/
def DxRun.normTotal (r : DxRun) (s : State) (l : List Nat) : Nat :=
  if r.f 17 1 = 0 then dieTotal add64 (r.homes s) (r.perSlab (fun p x => fma64 x x p) l)
  else dieTotal max64 (r.homes s) (r.perSlab max64 l)

def DxRun.nTotal (r : DxRun) : Nat := if r.chips.isEmpty then r.n else (r.peers.map (·.2.1)).foldl (· + ·) 0

/-- A norm from the totals of the members. -/
def DxRun.normOf (r : DxRun) (totals : List Nat) : Nat :=
  if r.f 17 1 = 0 then sqrt64 (div64 (totals.foldl add64 0) (r64 (.fin false r.nTotal 1))) else totals.foldl max64 0

/-- What member j sent, at index i. -/
def DxRun.gotAt (r : DxRun) (i : Nat) : List Nat := r.got.map (·.getD i 0)

/-- Every member has arrived: the values are delivered in role order. -/
def dxDeliver (r : DxRun) : DxRun :=
  let roles := List.range r.chips.length
  if r.todo == .sync && roles.all (fun k => r.syncVals.any (·.1 == k)) then
    { r with todo := .form, got := roles.map (fun k => ((r.syncVals.find? (·.1 == k)).map (·.2)).getD []),
             syncVals := roles.foldl (fun l k => l.eraseP (·.1 == k)) r.syncVals }
  else r

/-- A QuireSync that carries values; the run goes on at pt. -/
def dxSync (r : DxRun) (vals : List Nat) (pt : DxPt) : DxM DxRun := do
  if r.chips.isEmpty then return { r with got := [vals], todo := .form, pt := pt }
  let s ← get
  if !r.chips.all s.reach then return r.over 6
  set ((r.chips.filter (· != s.chipId)).foldl (fun s k => s.send (.quireSync k r.ctx r.handle r.role (vals.map w64))) s)
  return dxDeliver { r with todo := .sync, pt := pt, syncVals := r.syncVals ++ [(r.role, vals)] }

/-! ### Crews (R119, R126, R129) -/

/-- An evaluation is launched: one crew for each slab. -/
def dxLaunch (r : DxRun) (recVa kind stage part t vec out vs os : Nat) (pt : DxPt) : DxM DxRun := do
  let bs ← dxRead r.ctx recVa 64
  let l := lrecOf bs
  let l := { l with gx := r.slabs, gy := 1, gz := 1, flags := l.flags ||| 1, counter := 0 }
  if l.folio then throw 0
  let o : Origin := .dx r.handle kind stage part (w64 t) (w64 r.h) vec out vs os r.n r.slab
  match acceptLaunch (← get) r.ctx l o 0 with
  | (s, some id) =>
    set s
    if (s.launch id).live then return { r with todo := .crews, pt := pt, evalLaunch := some id, evKind := kind, part := part }
    else throw 0
  | (s, none) => set s; throw 0

def DxRun.stageTime (r : DxRun) (i : Nat) : Nat := add64 r.t (mul64 (tabVec r.tb.c i) r.h)

/-- f is evaluated at array v into a part of K of the current stage. -/
def dxEval (r : DxRun) (v part : Nat) : DxM DxRun := do
  let x := r.slab * r.esz
  let r ← dxLaunch r (r.f 104 8) 0 r.stage part (r.stageTime r.stage) (r.arr v) (r.arr (r.kArr r.stage part)) x x .evaluated
  return { r with rhsEvals := r.rhsEvals + 1 }

/-- The event functions are evaluated at array v and time t. The stage index the crews see is free. -/
def dxEvents (r : DxRun) (v t evFor : Nat) : DxM DxRun := do
  let (n, s) := (← get).draw
  set s
  dxLaunch { r with evFor := evFor } (r.f 176 8) 2 (Config.choice n % 256) 0 t (r.arr v) r.evtOut (r.slab * r.esz) 128 .evaluated

/-- The event values of this chip, read from the slabs' areas. -/
def dxEventVals (r : DxRun) : DxM (List Nat) := do
  let bs ← dxRead r.ctx r.evtOut (128 * r.slabs)
  let homes := r.homes (← get)
  return (List.range 16).map (fun e => dieTotal add64 homes ((List.range r.slabs).map (fun k => field bs (128 * k + 8 * e) 8)))

/-! ### Dense output (R128) -/

/-- The interpolant of the current copy at θ, before RoundS. -/
def interpAt (ya : Nat) (phi : List Nat) (th : Nat) : Nat :=
  match phi.reverse with
  | [] => ya
  | p :: r => fma64 (r.foldl (fun p c => fma64 p th c) p) th ya

/-- The arrays of a copy. -/
def dxCopy (r : DxRun) (c : Nat) : DxM (List (List Nat)) := do
  let bs ← dxRead r.ctx (r.denseArr c 0) ((r.tb.deg + 1) * r.l8)
  return (List.range (r.tb.deg + 1)).map (fun m => elems (bs.drop (m * r.l8)) 8 r.n)

/-- The interpolant of the current copy at θ. -/
def dxInterp (r : DxRun) (th : Nat) : DxM (List Nat) := do
  let a ← dxCopy r (r.denseCur.getD 0)
  return (List.range r.n).map (fun i => interpAt ((a.headD []).getD i 0) ((a.drop 1).map (·.getD i 0)) th)

/-- θ of a time in the current copy. -/
def DxRun.theta (r : DxRun) (t : Nat) : Nat := div64 (sub64 t r.denseTa) r.denseH

/-- The dense write of a step from the present t to tb: the copy that is not the current one, the run as it is once that becomes current. DESIGN
CHOICE: the first step of a run takes copy 0 (log 138). -/
def dxDense (r : DxRun) (tb : Nat) : DxM DxRun := do
  if !r.dense then return r
  let c := match r.denseCur with
    | some c => 1 - c
    | none => 0
  let ya ← r.vec 0
  let ks ← r.vecs ((r.stepTerms r.tb.b).map (·.2))
  let rows := r.tb.dm.map (fun row =>
    (List.range r.n).map (fun i => chainAt 0 ((r.stepTerms row).map (·.1)) ks i))
  for (m, a) in (List.range (r.tb.deg + 1)).zip (ya :: rows) do
    dxWrite r.ctx (r.denseArr c m) (a.flatMap (leBytes 8))
  return { r with denseCur := some c, denseTa := r.t, denseH := r.h, denseTb := tb }

/-! ### Implicit stages (R125, R126) -/

/-- An integer ratio rounded to the nearest integer, ties to even. -/
def rneDiv (n d : Int) : Int :=
  let n := if d < 0 then -n else n
  let d := d.natAbs
  let q := n.fdiv d
  let rem := (n - q * d).toNat
  if 2 * rem > d ∨ (2 * rem = d ∧ q % 2 ≠ 0) then q + 1 else q

/-- The least e with every magnitude below 2^e; none where all are zero. -/
def scaleExp (l : List Nat) : Option Int :=
  l.foldl (fun m c => match v64 c with
    | .fin _ n d => if n = 0 then m else
        let e := ratLog2 n d + 1
        some (match m with
          | some x => max x e
          | none => e)
    | _ => m) none

/-- A value times 2^(30 - e), rounded to an integer. -/
def toFix (e : Int) (c : Nat) : Int :=
  match v64 c with
  | .fin neg n d =>
    let k := 30 - e
    let (n, d) := if k < 0 then (n, d * 2 ^ k.natAbs) else (n * 2 ^ k.natAbs, d)
    rneDiv (if neg then -(n : Int) else n) d
  | _ => 0


/-- One column of the factorisation: rows in order with their original numbers; none where the block is singular. -/
def luColumn (n k : Nat) (m : List (Nat × List Int)) : Option (List (Nat × List Int)) :=
  let piv := (span k (n - k)).foldl (fun b i =>
    if ((m.getD b (0, [])).2.getD k 0).natAbs < ((m.getD i (0, [])).2.getD k 0).natAbs then i else b) k
  let prow := m.getD piv (0, [])
  let p := prow.2.getD k 0
  if p = 0 then none
  else
    let m := listSet (listSet m piv (m.getD k (0, []))) k prow
    let step (i : Nat) (row : Nat × List Int) : Nat × List Int :=
      if i ≤ k then row
      else
        let l := rneDiv (row.2.getD k 0 * 2 ^ 30) p
        (row.1, (List.range n).map (fun j =>
          if j < k then row.2.getD j 0 else if j = k then l
          else rneDiv (row.2.getD j 0 * 2 ^ 30 - l * prow.2.getD j 0) (2 ^ 30)))
    let m := ((List.range n).zip m).map (fun e => step e.1 e.2)
    if m.all (fun r => r.2.all (fun x => decide (-2 ^ 31 ≤ x ∧ x ≤ 2 ^ 31 - 1))) then some m else none

def luFrom (n : Nat) : List Nat → List (Nat × List Int) → Option (List (Nat × List Int))
  | [], m => some m
  | k :: r, m => (luColumn n k m).bind (luFrom n r)

/-- Inside the 64-bit range. -/
def fits64 (x : Int) : Bool := decide (-2 ^ 63 ≤ x ∧ x ≤ 2 ^ 63 - 1)

/-- Forward substitution: each row's value, from those before it. -/
def luForward (m : List (Nat × List Int)) (g : List Int) : Option (List Int) :=
  m.foldl (fun acc row => acc.bind (fun ys =>
    let sum := ((row.2.take ys.length).zip ys).foldl (fun a e => a + e.1 * e.2) 0
    let y := rneDiv (g.getD row.1 0 * 2 ^ 30 - sum) (2 ^ 30)
    if fits64 y then some (ys ++ [y]) else none)) (some [])

/-- Back substitution, from the last row up. -/
def luBack (m : List (Nat × List Int)) (y : List Int) : Option (List Int) :=
  ((List.range m.length).reverse).foldl (fun acc i => acc.bind (fun xs =>
    let row := (m.getD i (0, [])).2
    let sum := ((row.drop (i + 1)).zip xs).foldl (fun a e => a + e.1 * e.2) 0
    let x := rneDiv (y.getD i 0 * 2 ^ 30 - sum) (row.getD i 1)
    if fits64 x then some (x :: xs) else none)) (some [])

/-- The solve of one block: −M⁻¹ G, or none where the block is singular. -/
def blockSolve (m : List (List Nat)) (g : List Nat) : Option (List Nat) :=
  let n := g.length
  if !m.all (·.all finite64) then none
  else
    match scaleExp (m.flatMap id) with
    | none => none
    | some em =>
      match luFrom n (List.range n) ((List.range n).zip (m.map (·.map (toFix em)))) with
      | none => none
      | some lu =>
        if !g.all finite64 then some (List.replicate n fmtF64.nanCode)
        else match scaleExp g with
        | none => some (List.replicate n 0)
        | some eg =>
          ((luForward lu (g.map (toFix eg))).bind (luBack lu)).map (·.map (fun x =>
            r64 (FV.dyadic (decide (0 < x)) x.natAbs (eg - em - 30))))

/-- g of the current stage. -/
def DxRun.gStage (r : DxRun) : Nat := mul64 r.h (tabAt (if r.kind = 2 then r.tb.a2 else r.tb.a) r.stage r.stage)

/-- The blocks of M: rows of −g J + δ. -/
def dxBlock (r : DxRun) (b : Nat) : DxM (List (List Nat)) := do
  let bs ← dxRead r.ctx (r.jac + 4096 * b) 4096
  let n := min 32 (r.n - 32 * b)
  let g := neg64 r.gStage
  return (List.range n).map (fun i => (List.range n).map (fun j =>
    fma64 g (r64 (fmtF32.value (field bs (4 * (32 * i + j)) 4))) (if i = j then one64 else 0)))

/-- The blocks solved in order: each block's Δ, none where it is singular. DESIGN CHOICE: M is always factored from the Jacobian as it stands, also
in a new step whose g is that of the last factorisation (log 136). -/
def dxSolves (r : DxRun) (g : List Nat) : List Nat → DxM (List (Option (List Nat)))
  | [] => return []
  | b :: l => do
    let m ← dxBlock r b
    let x := blockSolve m ((g.drop (32 * b)).take 32)
    return x :: (← dxSolves r g l)

/-- A Newton iteration after its evaluation: the new iterate, and this chip's part of ν. -/
def dxSolve (r : DxRun) : DxM DxRun := do
  let y ← r.vec 0
  let x ← r.vec 2
  let w ← r.vec 3
  let k ← r.vec (r.kArr r.stage r.part)
  let ix := List.range r.n
  let g := ix.map (fun i => fma64 (neg64 r.gStage) (k.getD i 0) (sub64 (x.getD i 0) (w.getD i 0)))
  let ds ← dxSolves r g (List.range r.blocks)
  let sing := ds.any (·.isNone)
  let (n, s) := (← get).draw
  set s
  let dl := ((List.range r.blocks).zip ds).flatMap (fun e =>
    e.2.getD ((List.range (min 32 (r.n - 32 * e.1))).map (fun i => Config.choice n ^^^ i)))
  -- the iterate of a singular block is undefined
  let bad (i : Nat) : Bool := (ds.getD (i / 32) none).isNone
  let bytes := ix.flatMap (fun i => if bad i then (List.range r.esz).map (fun b => Config.undefByte n (8 * i + b))
    else leBytes r.esz (r.down (add64 (x.getD i 0) (dl.getD i 0))))
  dxWrite r.ctx (r.arr 2) bytes
  -- the factor area is the device's own: what it holds is free
  dxWrite r.ctx (r.jac + 4096 * r.blocks) ((List.range (8192 * r.blocks)).map (fun i => Config.undefByte n (2 ^ 40 + i)))
  let s ← get
  let tot := if sing then fmtF64.nanCode
    else r.normTotal s (ix.map (fun i => ratio64 (dl.getD i 0) (fma64 (r.f 72 8) (abs64 (y.getD i 0)) (r.f 64 8))))
  dxSync { r with cflags := if sing then r.cflags ||| 2 else r.cflags } [tot, if sing then 1 else 0] .nu

/-- ν is known: the stage has converged, fails, or iterates again. -/
def dxNu (r : DxRun) : DxM DxRun := do
  let nu := r.normOf (r.gotAt 0)
  let sing := (r.gotAt 1).any (· != 0)
  if !sing && le64 nu (r.f 136 8) then
    let x ← r.vec 2
    let w ← r.vec 3
    let _ ← r.put (r.kArr r.stage r.part) ((List.range r.n).map (fun i => div64 (sub64 (x.getD i 0) (w.getD i 0)) r.gStage))
    return { r with pt := .stage, stage := r.stage + 1, newton := 0, evald := r.stage :: r.evald }
  else if sing || nan64 nu || r.newton ≥ r.f 128 1 then
    return { r with pt := .next, failed := true, rejected := r.rejected + 1, newton := 0, stage := 0 }
  else return { r with pt := .newton }

/-- The Newton iterate's start (R128). -/
def dxWarm (r : DxRun) : DxM Unit := do
  if r.dense && r.denseCur.isSome then
    let _ ← r.put 2 (← dxInterp r (add64 one64 (div64 (mul64 (tabVec r.tb.c r.stage) r.h) r.denseH)))
  else r.copyArr 0 2

/-! ### The step (R121 to R124) -/

/-- The combine after the last stage: the candidate state and this chip's part of the norm. -/
def dxNorm (r : DxRun) : DxM DxRun := do
  let y ← r.vec 0
  let bt := r.stepTerms r.tb.b
  let ks ← r.vecs (bt.map (·.2))
  let ix := List.range r.n
  let yn ← r.put 1 (ix.map (fun i => chainAt (y.getD i 0) (bt.map (·.1)) ks i))
  let dw := (r.stepTerms r.tb.d).map (·.1)
  let rs := ix.map (fun i => ratio64 (chainAt 0 dw ks i)
    (fma64 (r.f 72 8) (max64 (abs64 (y.getD i 0)) (abs64 (yn.getD i 0))) (r.f 64 8)))
  dxSync { r with stage := 0 } [r.normTotal (← get) rs] .decide

/-- The controller's factor and step (R123). -/
def DxRun.proposal (r : DxRun) (norm : Nat) : Nat :=
  let facmax := if r.retry then one64 else r.f 96 8
  let f :=
    if zero64 norm then facmax
    else if nan64 norm || norm == fmtF64.infCode false then r.f 88 8
    else if le64 norm one64 && r.f 18 1 == 1 then
      mul64 (mul64 (r.f 80 8) (pow64 norm (neg64 (r.f 144 8)))) (pow64 r.normPrev (r.f 152 8))
    else mul64 (r.f 80 8) (pow64 norm r.tb.ei.toNat)
  min64 (mul64 r.h (min64 facmax (max64 (r.f 88 8) f))) (r.f 56 8)

/-- Accept or reject. -/
def dxDecide (r : DxRun) : DxRun :=
  let norm := r.normOf (r.gotAt 0)
  let r := { r with lastNorm := norm, hNew := r.proposal norm }
  if le64 norm one64 then { r with pt := .commit } else { r with pt := .next, rejected := r.rejected + 1 }

/-- An accepted step: its dense write, and its commit, with which the copy becomes current (R128, R138). -/
def dxCommit (r : DxRun) : DxM DxRun := do
  let tb := if r.stop && (v64 r.h).eqv (v64 (sub64 (r.f 32 8) r.t)) then r.f 32 8 else add64 r.t r.h
  let r ← dxDense r tb
  r.copyArr 1 0
  let r := { r with t := tb, took := true, accepted := r.accepted + 1, fsalOk := true, normPrev := max64 r.lastNorm 0x3EB0000000000000 }
  dxKeep r
  if r.evt then dxEvents r 1 r.t 1 else return { r with pt := .next }

/-! ### Events (R130, R131) -/

/-- Event e crosses upwards, or downwards, between two values. -/
def DxRun.ups (r : DxRun) (e ga gb : Nat) : Bool := bitN (r.f 132 2) e && lt64 ga 0 && le64 0 gb
def DxRun.downs (r : DxRun) (e ga gb : Nat) : Bool := bitN (r.f 134 2) e && lt64 0 ga && le64 gb 0

/-- The bracket of the first event still to be located. -/
def DxRun.bracket (r : DxRun) : DxRun :=
  match r.evIdx with
  | [] => r
  | e :: _ => { r with pt := .probe, todo := .form, brA := r.denseTa, brB := r.denseTb, brGa := r.evA.getD e 0, brGb := r.evB.getD e 0,
                       side := 0, probes := 0 }

/-- The event whose time is least, the lowest index on a tie. -/
def firstEvent : List (Nat × Nat) → Option (Nat × Nat)
  | [] => none
  | x :: r => match firstEvent r with
    | none => some x
    | some y => if lt64 y.2 x.2 then some y else some x

/-- The step is cut at an event. DESIGN CHOICE: the event is recorded as the step is cut, so that a run which ends in the evaluation at t_e has
reported it (log 139). -/
def dxTruncate (r : DxRun) (e te : Nat) : DxM DxRun := do
  let _ ← r.put 0 (← dxInterp r (r.theta te))
  dxKeep { r with t := te }
  let th := r.theta te
  let c := r.denseCur.getD 0
  let a ← dxCopy r c
  let pows := (List.range r.tb.deg).map (fun k => (List.range k).foldl (fun p _ => mul64 p th) th)
  for (m, x) in (List.range r.tb.deg).zip (pows.zip (a.drop 1)) do
    dxWrite r.ctx (r.denseArr c (m + 1)) ((x.2.map (fun v => mul64 v x.1)).flatMap (leBytes 8))
  let r := { r with t := te, denseH := sub64 te r.denseTa, denseTb := te, evtIdx := e, evtT := te, events := r.events + 1,
                    evLoc := [(e, te)], fsalOk := false }
  dxKeep r
  dxEvents r 0 te 3

/-- The next probe of the event in work, or its end. -/
def dxProbe (r : DxRun) : DxM DxRun := do
  match r.evIdx with
  | [] => match firstEvent r.evLoc with
    | some (e, te) => dxTruncate r e te
    | none => return { r with pt := .next }
  | e :: rest =>
    let a := r.brA
    let b := r.brB
    let width := sub64 b a
    let big := max64 (max64 (abs64 a) (abs64 b)) 0x0010000000000000
    if r.probes < 64 && lt64 (mul64 0x3D70000000000000 big) width then
      let c := sub64 b (mul64 r.brGb (div64 width (sub64 r.brGb r.brGa)))
      let c := if lt64 a c && lt64 c b then c else add64 a (div64 width 0x4000000000000000)
      let _ ← r.put 2 (← dxInterp r (r.theta c))
      dxEvents { r with brC := c, probes := r.probes + 1 } 2 c 2
    else
      let r := { r with evLoc := r.evLoc ++ [(e, b)], evIdx := rest }
      return if rest.isEmpty then { r with pt := .probe } else r.bracket

/-- Event values have been delivered. -/
def dxEventsKnown (r : DxRun) : DxRun :=
  let g := (List.range 16).map (fun e => (r.gotAt e).foldl add64 0)
  match r.evFor with
  | 0 => { r with evA := g, pt := .attempt }
  | 1 =>
    let trig := (List.range (r.f 129 1)).filter (fun e => r.ups e (r.evA.getD e 0) (g.getD e 0) || r.downs e (r.evA.getD e 0) (g.getD e 0))
    let r := { r with evB := g, evIdx := trig, evLoc := [] }
    if trig.isEmpty then { r with evA := g, pt := .next } else r.bracket
  | 2 =>
    let e := r.evIdx.headD 0
    let gc := g.getD e 0
    let up := r.ups e (r.evA.getD e 0) (r.evB.getD e 0)
    let two := 0x4000000000000000
    if (if up then le64 0 gc else le64 gc 0) then
      { r with pt := .probe, brB := r.brC, brGb := gc, brGa := if r.side = -1 then div64 r.brGa two else r.brGa, side := -1 }
    else { r with pt := .probe, brA := r.brC, brGa := gc, brGb := if r.side = 1 then div64 r.brGb two else r.brGb, side := 1 }
  | _ => { r with evA := g, pt := .next }

/-! ### The sequencer -/

/-- The outcome of an attempt (R124). -/
def dxNext (r : DxRun) : DxRun :=
  let term := r.took && (match r.evLoc with
    | [(e, _)] => bitN (r.f 130 2) e
    | _ => false)
  let quarter := div64 r.h 0x4010000000000000
  if term then r.over 2
  else if r.took && le64 (r.f 32 8) r.t then r.over 0
  else if r.took && r.f 20 4 != 0 && r.accepted == r.f 20 4 then r.over 1
  else if !r.failed && lt64 r.hNew (r.f 48 8) then r.over 3
  else if r.failed && lt64 quarter (r.f 48 8) then { r with hNew := quarter }.over 4
  else
    let r := { r with pt := .attempt, todo := .form, stage := 0, newton := 0, evLoc := [] }
    if r.took then
      { r with h := if r.stop then min64 r.hNew (sub64 (r.f 32 8) r.t) else r.hNew, retry := false, jacDone := false, evald := [] }
    else if r.failed then { r with h := quarter, hNew := quarter, retry := true }
    else { r with h := r.hNew, retry := true }

/-- One unit of the sequencer's work at the run's point. -/
def dxUnit (r : DxRun) : DxM DxRun := do
  match r.pt with
  | .start => if r.evt then dxEvents r 0 r.t 0 else return { r with pt := .attempt }
  | .attempt =>
    let r := { r with took := false, failed := false, stage := 1 }
    if r.tb.fsal && r.fsalOk && !r.retry then
      for p in r.parts do
        r.copyArr (r.kArr r.stages p) (r.kArr 1 p)
      return { r with pt := .stage, stage := 2, evald := [1] }
    else return { r with pt := .stage }
  | .stage =>
    if r.stages < r.stage then dxNorm r
    else if r.retry && r.reusable r.stage && r.evald.contains r.stage then return { r with stage := r.stage + 1 }
    else if r.implicit r.stage then
      r.form r.stage 3
      if r.kind = 2 then dxSync { r with newton := 0 } [] .part1 else return { r with pt := .warm, newton := 0 }
    else
      if !r.zeroRow r.stage then r.form r.stage 2
      dxSync { r with part := if r.kind = 2 then 1 else 0 } [] .eval
  | .part1 => dxEval r 3 1
  | .eval => dxEval r (if r.implicit r.stage || !r.zeroRow r.stage then 2 else 0) r.part
  | .evaluated =>
    if r.evKind = 2 then dxSync r (← dxEventVals r) .events
    else if r.implicit r.stage then dxSync r [] (if r.newton = 0 then .warm else .solve)
    else if r.part = 1 then return { r with part := 2, pt := .eval }
    else dxSync r [] .stageDone
  | .stageDone => return { r with pt := .stage, stage := r.stage + 1, evald := r.stage :: r.evald }
  | .warm =>
    dxWarm r
    if r.jacDone then return { r with pt := .newton }
    else dxLaunch { r with jacDone := true } (r.f 168 8) 1 r.stage (if r.kind = 2 then 2 else 0) r.t (r.arr 0) r.jac (r.slab * r.esz) (128 * r.slab) .newton
  | .newton => dxSync { r with newton := r.newton + 1, part := if r.kind = 2 then 2 else 0 } [] .eval
  | .solve => dxSolve r
  | .nu => dxNu r
  | .norm => dxNorm r
  | .decide => return dxDecide r
  | .commit => dxCommit r
  | .events => return dxEventsKnown r
  | .probe => dxProbe r
  | .next => return dxNext r

/-- The run's next unit is one of the combine lanes: a formation, a reduction or a dense write (R138). -/
def dxCombines (r : DxRun) : Bool :=
  match r.pt with
  | .attempt => r.tb.fsal && r.fsalOk && !r.retry
  | .stage => decide (r.stages < r.stage) ||
      (!(r.retry && r.reusable r.stage && r.evald.contains r.stage) && (r.implicit r.stage || !r.zeroRow r.stage))
  | .evaluated => r.evKind == 2
  | .warm | .solve | .nu | .norm | .commit | .probe => true
  | _ => false

/-- Units of work of a run while it awaits none but its own: no more than one of the combine lanes. -/
def dxGo : Nat → Bool → State → Nat → State
  | 0, _, s, _ => s
  | n + 1, combined, s, key =>
    let r := s.run key
    if !r.active || r.todo != .form || (combined && dxCombines r) then s
    else
      match (dxUnit r).run.run s with
      | (.ok r', s) => dxGo n (combined || dxCombines r) (s.setRun key r') key
      | (.error code, s) => s.setRun key ((s.run key).over 5 code)

/-- A run's turn (R138); a step has no more than 16 stages. -/
def dxWork (s : State) (key : Nat) : State := dxGo 64 false s key

/-- The sequencer has work for a run: its own, or the crews of its evaluation have ended. -/
def dxReady (s : State) (key : Nat) : Bool :=
  let r := s.run key
  r.active && (r.todo == .form || (r.todo == .crews && (match r.evalLaunch with
    | some id => (s.launch id).liveCrews == 0 && launchAcked s id
    | none => false)))

/-- The run of a context whose turn it is: in rotation from the one served last, the first for which there is work (R138). -/
def dxTurn (s : State) (ctx : Nat) : Option Nat :=
  ((List.range 64).map (fun i => ((s.ctx ctx).dxTurn + 1 + i) % 64)).find? (fun h => dxReady s (dxKey ctx h))

/-- The sequencer serves a run, if it is its turn. -/
def dxServe (s : State) (ctx h : Nat) (f : State → State) : State :=
  if ctxRuns s ctx && dxTurn s ctx == some (h % 64) then f (s.updCtx ctx (fun c => { c with dxTurn := h % 64 })) else s

/-- The crews of a run's evaluation of a kind have ended: the run goes on, or ends with the trap that killed a crew. -/
def dxCrewsEnd (s : State) (ctx h kind : Nat) : State :=
  let key := dxKey ctx h
  let r := s.run key
  match r.evalLaunch with
  | none => s
  | some id =>
    let l := s.launch id
    if !r.active || r.todo != .crews || r.evKind != kind || l.liveCrews != 0 || !launchAcked s id then s
    else
      dxServe s ctx h (fun s =>
        let s := closeLaunch s id
        let r := { r with evalLaunch := none }
        if l.status ≠ 0 then s.setRun key (r.over 5 (l.info % 256)) else dxWork (s.setRun key { r with todo := .form }) key)

/-- DX_STAGE_FORM (R120, R121): the sequencer's next work. -/
def execDxStageForm (ctx handle : Nat) (s : State) : Host.Outcome State Fault Refusal :=
  .next (dxServe s ctx handle (fun s => dxWork s (dxKey ctx handle)))

/-- DX_EVAL_COMPLETE (R119). -/
def execDxEvalComplete (ctx handle : Nat) (s : State) : Host.Outcome State Fault Refusal := .next (dxCrewsEnd s ctx handle 0)

/-- DX_JACOBIAN_COMPLETE (R126). -/
def execDxJacobianComplete (ctx handle : Nat) (s : State) : Host.Outcome State Fault Refusal := .next (dxCrewsEnd s ctx handle 1)

/-- DX_EVENT_EVAL_COMPLETE (R130). -/
def execDxEventEvalComplete (ctx handle : Nat) (s : State) : Host.Outcome State Fault Refusal := .next (dxCrewsEnd s ctx handle 2)

/-! ### The end of a run (R117, R118) -/

/-- Fields +8 to +63 of the completion record. -/
def dxRecord (r : DxRun) : List Byte :=
  leBytes 1 r.status ++ leBytes 1 r.evtIdx ++ leBytes 1 r.trap ++ leBytes 1 r.cflags ++ leBytes 4 r.events ++ leBytes 4 r.accepted ++
  leBytes 4 r.rejected ++ leBytes 8 r.rhsEvals ++ leBytes 8 r.t ++ leBytes 8 r.hNew ++ leBytes 8 r.lastNorm ++ leBytes 8 r.evtT

/-- DX_RUN_COMPLETE. The crews of an evaluation still under way run to their end first, and their remote ENQs are acknowledged (05 R109). -/
def execDxRunComplete (ctx handle : Nat) (s : State) : Host.Outcome State Fault Refusal :=
  let key := dxKey ctx handle
  let r := s.run key
  let ended := r.evalLaunch.all (fun id => (s.launch id).liveCrews == 0 && launchAcked s id)
  .next (if !r.active || r.todo != .finish || !ended || !ctxRuns s ctx then s
    else
      let s := match r.evalLaunch with
        | some id => closeLaunch s id
        | none => s
      let d := r.f 120 8
      let s := hubWrite (beforeRecord s ctx d) ctx (d + 8) (dxRecord r)
      let ctr := r.f 184 4
      let s :=
        if ctr = 0xFFFFFFFF then s
        else
          let (s, under) := match ctrPhys (s.ctx ctx) ctr with
            | none => (s, true)
            | some _ => depDecBy s ctx ctr 1
          if under then hubWrite s ctx (d + 11) (leBytes 1 (r.cflags ||| 1)) else s
      let s := if kindOfVa s ctx d = some 2 then landCtx (s.flush ctx) ctx else s
      let s := decrementAt s ctx d
      workDone (s.setRun key { r with active := false, todo := .idle, evalLaunch := none, stage := 0, newton := 0 }) ctx (.run (handle % 64)))

/-! ### Members on other chips (R133 to R135) -/

/-- DX_START_EXCHANGE: a member's start arrives; when all have started, any difference ends the run. One for a run that has not begun here is
held for it. -/
def execDxStartExchange (ctx handle role n : Nat) (digest : List Byte) (s : State) : Host.Outcome State Fault Refusal :=
  let key := dxKey ctx handle
  let r := s.run key
  .next (if 16 ≤ ctx || !fabricUp s then s
    else if !r.active || r.todo != .begin || r.peers.any (·.1 == role) then
      (if (s.ctx ctx).dxStarts.any (fun e => e.1 == handle % 64 && e.2.1 == role) then s
       else s.updCtx ctx (fun c => { c with dxStarts := c.dxStarts ++ [(handle % 64, role, n, digest)] }))
    else if r.chips.length ≤ role then s
    else s.setRun key (DxRun.begun { r with peers := r.peers ++ [(role, n, digest)] }))

/-- QUIRESYNC_ARRIVAL: a member's arrival, with the values it brings; or its announcement that its context is pre-empted, which is held for a run
that has not begun here. -/
def execQuiresyncArrival (ctx handle role : Nat) (msg : SyncMsg) (s : State) : Host.Outcome State Fault Refusal :=
  let key := dxKey ctx handle
  let r := s.run key
  .next (if !fabricUp s || 16 ≤ ctx then s
    else if !r.active || r.chips.length ≤ role || role = r.role then
      (match msg with
        | .paused => s.updCtx ctx (fun c => { c with dxPauses := insertNew c.dxPauses (handle % 64, role) })
        | .arrived _ => s)
    else
      match msg with
      | .paused => notePause s ctx (r.f 188 2) role true
      | .arrived values =>
        let s := notePause s ctx (r.f 188 2) role false
        let s := s.setRun key (dxDeliver { r with syncVals := r.syncVals ++ [(role, values.map (·.toNat))] })
        dxServe s ctx handle (fun s => dxWork s key))

/-- DX_MEMBER_START_TIMEOUT. -/
def execDxMemberStartTimeout (ctx handle : Nat) (s : State) : Host.Outcome State Fault Refusal :=
  let r := s.run (dxKey ctx handle)
  .next (if r.active && r.todo == .begin then s.setRun (dxKey ctx handle) (r.over 6) else s)

/-- DX_PEER_SILENT_TIMEOUT: a member whose arrival is awaited is silent and has announced no pre-emption. -/
def execDxPeerSilentTimeout (ctx handle role : Nat) (s : State) : Host.Outcome State Fault Refusal :=
  let r := s.run (dxKey ctx handle)
  .next (if r.active && r.todo == .sync && decide (role < r.chips.length) && !r.syncVals.any (·.1 == role) &&
      !(s.ctx ctx).peersPaused.contains (r.f 188 2, role) then
    s.setRun (dxKey ctx handle) (r.over 6) else s)

/-- Runs that await a member on a chip that has become unreachable end. -/
def dxPeersLost (s : State) : State :=
  { s with runs := s.runs.map (fun e =>
      if e.2.active && (e.2.todo == .sync || e.2.todo == .begin) && !e.2.chips.all s.reach then (e.1, e.2.over 6) else e) }

/-- The context's crews are killed (R136). -/
def dxKillRuns (s : State) (ctx : Nat) : State :=
  { s with runs := s.runs.map (fun e => if e.2.active && e.2.ctx == ctx && e.2.todo != .finish then (e.1, e.2.over 6) else e) }

/-! ### Queries and status (R127, R132) -/

/-- The status of a query: 0 where it is answered. -/
def queryStatus (s : State) (ctx handle tq : Nat) : Nat :=
  let r := s.run (ctx * 64 + handle)
  if 63 < handle || !r.used then 4
  else if !r.dense then 2
  else if r.denseCur.isNone then 3
  else if nan64 tq || lt64 tq r.denseTa || lt64 r.denseTb tq then 1 else 0

/-- The answer of a query: the status, and the elements to write, with whether they are poisoned. -/
def queryAnswer (s : State) (a : Agent) (q : DxQuery) : State × Except VaFail (Nat × List Byte × Bool) :=
  let st := queryStatus s a.ctx q.handle q.tq
  if st ≠ 0 then (s, .ok (st, [], false))
  else
    let r := s.run (a.ctx * 64 + q.handle)
    match readVa s a .engR (r.denseArr (r.denseCur.getD 0) 0) ((r.tb.deg + 1) * r.l8) with
    | (s, .error e) => (s, .error e)
    | (s, .ok (bs, bad)) =>
      let x (m i : Nat) : Nat := field bs (m * r.l8 + 8 * i) 8
      let th := r.theta q.tq
      (s, .ok (0, (List.range r.n).flatMap (fun i =>
        leBytes r.esz (r.down (interpAt (x 0 i) ((span 1 r.tb.deg).map (x · i)) th))), bad.isSome))

/-- A query is answered and retires, or waits on a fault record, or ends in a trap of its team. DESIGN CHOICE: neither the alignment of `out` nor
the reserved bytes of the descriptor are checked (log 137). -/
def queryTry (s : State) (q : DxQuery) : State :=
  let a := engAgent s q.team 5
  let stop (s : State) (acc : Acc) (e : VaFail) : State :=
    match engStop s a acc q.again e with
    | (s, .wait r) => s.updCtx a.ctx (fun c => { c with queries := c.queries ++ [{ q with wait := some r }] })
    | (s, .gone) => s
    | (s, .trap x) => opRetire (deferTrap s q.team x) q.team 4 q.id
  match queryAnswer s a q with
  | (s, .error e) => stop s .engR e
  | (s, .ok (st, bytes, bad)) =>
    match writeVa s a .engW q.out bytes bad with
    | (s, .error e) => stop s .engW e
    | (s, .ok _) =>
      match writeVa s a .engW (q.desc + 16) (leBytes 4 st) with
      | (s, .error e) => stop s .engW e
      | (s, .ok _) => opRetire s q.team 4 q.id

/-- DX.QRY (R407). -/
def execDxQry (d a b : Opnd) (s : State) : Host.Outcome State Fault Refusal :=
  runInstr s (fun ti t => uniform s ti t 0xEB (wordF3 0xEB d a b) false [fld d okZero, fld a okS, fld b okS] true [a, b] [] (fun u => do
    let va := u.rd b
    opRoom u.t 4
    if va % 8 ≠ 0 then throw (trapAt 0x0B va 0)
    let (s, r) ← issueRead u.s ti va 32
    u.poison
    let (id, s) := opIssue (endIdem s t.crew) ti 4
    .ok (u.done (queryTry s { team := ti, id := id, handle := u.rd a, desc := va, tq := field r 0 8, out := field r 8 8 }) [] 0)) true)

/-- The phase a snapshot reports. -/
def DxRun.phase (r : DxRun) : Nat :=
  match r.todo with
  | .idle => 0
  | .begin | .sync => 6
  | .finish => 7
  | .crews => if r.evKind = 2 then 5 else if r.evKind = 1 then 3 else 2
  | .form => match r.pt with
    | .warm | .newton | .solve | .nu => 3
    | .norm | .decide | .commit | .next => 4
    | .events | .probe => 5
    | .eval | .evaluated | .part1 => 2
    | _ => 1

/-- DX.STAT: the snapshot of a handle, 4 core cycles after issue. -/
def execDxStat (d a b : Opnd) (s : State) : Host.Outcome State Fault Refusal :=
  runInstr s (fun ti t => uniform s ti t 0xEC (wordF3 0xEC d a b) false [fld d okS, fld a okS, fld b okZero] true [a] [d] (fun u => do
    let h := u.rd a
    let r := u.s.run ((s.crew t.crew).ctx * 64 + h)
    let v := if 63 < h then 2 ^ 64 - 1
      else if !r.active then 0
      else r.accepted % 2 ^ 32 * 2 ^ 32 + r.newton % 256 * 2 ^ 16 + r.stage % 256 * 2 ^ 8 + r.phase
    .ok (u.done u.s [(d, v)] 4 true)))

end Sys2Proof.Machine
end

