-- ==== Sys2Proof/Machine/Collect.lean ====
section
/-! DEFINITION. Collectives (07 R139 to R157, 20 R414): opening and its announcements, the cavity reduction, the repartition,
completion, and early landing. -/

namespace Sys2Proof.Machine

/-! ### Operators (R147) -/

/-- An element: its value, and its index or second value. -/
abbrev CElem := Nat × Nat

def cavIdx (op : Nat) : Bool := op == 7 || op == 8
/-- Bytes of an element. -/
def cavSize (op ty : Nat) : Nat := if cavIdx op || op == 10 then 2 * tySize ty else tySize ty
/-- A type that an operator takes. -/
def cavTypeOk (op ty : Nat) : Bool :=
  let int := ty == 4 || ty == 5 || ty == 6 || ty == 7
  let flt := ty == 10 || ty == 11
  if op ≤ 3 || cavIdx op then int || flt else if op ≤ 6 then int else if op ≤ 10 then flt else false

/-- An element of n bytes, read and written; padding reads as nothing and is written as 0. -/
def cavRead (op ty : Nat) (bs : List Byte) : CElem :=
  (field bs 0 (tySize ty), if cavIdx op then field bs (tySize ty) 4 else if op = 10 then field bs (tySize ty) (tySize ty) else 0)
def cavBytes (op ty : Nat) (e : CElem) : List Byte :=
  leBytes (tySize ty) e.1 ++ (if cavIdx op || op == 10 then leBytes (tySize ty) e.2 else [])

/-- The identity. -/
def cavIdentity (op ty : Nat) : CElem :=
  let f := tyFmt ty 0
  let w := tyWidth ty
  let big := if tyFlt ty then f.infCode false else wrapN w (tyMax ty)
  let small := if tyFlt ty then f.infCode true else wrapN w (tyMin ty)
  let one := if tyFlt ty then (f.round 0 false false 0 false 1 1).1 else 1
  match op with
  | 0 => (if tyFlt ty then f.encode true 0 0 else 0, 0)
  | 1 => (one, 0)
  | 2 => (big, 0)
  | 3 => (small, 0)
  | 4 => (2 ^ w - 1, 0)
  | 7 => (small, 0xFFFFFFFF)
  | 8 => (big, 0xFFFFFFFF)
  | 9 => (small, 0)
  | 10 => (one, 0)
  | _ => (0, 0)

/-- ln(1 + e^(-d)) for d = n / d ≥ 0, as a ratio known to more than 500 bits. -/
def log1pExpNeg (n d : Nat) : Nat × Nat :=
  let one := 2 ^ fixBits
  if n = 0 then (ln2Fix, one)
  else if n / d ≥ 2000 then (1, 2 ^ 3000)
  else if n / d ≥ 300 then
    let (m, k) := expFix (fixOf n d)
    let b := m * 2 ^ k                        -- u = one / b; ln(1 + u) = u - u² / 2
    (one * (2 * b - one), 2 * b * b)
  else (lnFix (one + expNeg n d) one, one)

/-- ln(e^x + e^y). -/
def lseVal (x y : FV) : FV :=
  match x, y with
  | .nan, _ => .nan
  | _, .nan => .nan
  | .inf false, _ => .inf false
  | _, .inf false => .inf false
  | .inf true, v => v
  | v, .inf true => v
  | x, y =>
    let (lo, hi) := if x.lt false y then (x, y) else (y, x)
    match (hi.add 0 lo.neg).1 with
    | .fin _ n d => let (a, b) := log1pExpNeg n d; (hi.add 0 (.fin false a b)).1
    | v => v

/-- A value above another as MAXIDX orders them; −0 lies below +0. -/
def cavLess (ty a b : Nat) : Bool :=
  if tyFlt ty then ((tyFmt ty 0).value a).lt true ((tyFmt ty 0).value b) else decide (elemInt ty a < elemInt ty b)

def pickIdx (isMax : Bool) (ty : Nat) (x y : CElem) : CElem :=
  let f := tyFmt ty 0
  let nx := tyFlt ty && (f.value x.1).isNan
  let ny := tyFlt ty && (f.value y.1).isNan
  if nx && ny then (f.nanCode, min x.2 y.2)
  else if nx then y
  else if ny then x
  else if (if isMax then cavLess ty x.1 y.1 else cavLess ty y.1 x.1) then y
  else if (if isMax then cavLess ty y.1 x.1 else cavLess ty x.1 y.1) then x
  else (x.1, min x.2 y.2)

/-- A float result, and whether it overflowed from finite operands. -/
def cavFlt (e : ElemOut) : Nat × Bool := (e.val, bitN e.flags 2)
/-- An integer result, and whether it wrapped. -/
def cavInt (ty : Nat) (x : Int) : Nat × Bool := (wrapN (tyWidth ty) x, decide (x < tyMin ty ∨ tyMax ty < x))

/-- x ⊕ y, with whether it wrapped or overflowed. -/
def cavCombine (op ty : Nat) (x y : CElem) : CElem × Bool :=
  let m := tyOnly ty
  let one (r : Nat × Bool) : CElem × Bool := ((r.1, 0), r.2)
  match op with
  | 0 => one (if tyFlt ty then cavFlt (addElem m 0 x.1 y.1 0) else cavInt ty (elemInt ty x.1 + elemInt ty y.1))
  | 1 => one (if tyFlt ty then cavFlt (mulElem m 0 x.1 y.1 0) else cavInt ty (elemInt ty x.1 * elemInt ty y.1))
  | 2 => ((selElem m false false x.1 y.1, 0), false)
  | 3 => ((selElem m true false x.1 y.1, 0), false)
  | 4 => ((x.1 &&& y.1, 0), false)
  | 5 => ((x.1 ||| y.1, 0), false)
  | 6 => ((x.1 ^^^ y.1, 0), false)
  | 7 => (pickIdx true ty x y, false)
  | 8 => (pickIdx false ty x y, false)
  | 9 => one (let f := tyFmt ty 0
              let r := f.roundV 0 false false 0 (lseVal (f.value x.1) (f.value y.1))
              (r.1, bitN r.2 2))
  | _ =>
    let a := cavFlt (mulElem m 0 x.1 y.1 0)
    let b := cavFlt (madElem m 0 x.1 y.2 x.2)
    ((a.1, b.1), a.2 || b.2)

/-! ### The sweeps (R148) -/

/-- A value with whether an operation that formed it overflowed. -/
abbrev CVal := CElem × Bool

def cavOp (op ty : Nat) (x y : CVal) : CVal := let r := cavCombine op ty x.1 y.1; (r.1, r.2 || x.2 || y.2)

def foldL1 (f : CVal → CVal → CVal) : List CVal → Option CVal
  | [] => none
  | x :: r => some (r.foldl f x)
def foldR1 (f : CVal → CVal → CVal) : List CVal → Option CVal
  | [] => none
  | [x] => some x
  | x :: r => (foldR1 f r).map (f x)

/-- Val(L, q) over the contributions xs. -/
def cavVal (f : CVal → CVal → CVal) (xs : List CVal) : Nat → Nat → Option CVal
  | 0, q => xs[q]?
  | l + 1, q => foldL1 f ((List.range 4).filterMap (fun k => if 4 ^ l * (4 * q + k) < xs.length then cavVal f xs l (4 * q + k) else none))

/-- Cover(lo, hi) of m contributors: blocks as level and number. -/
def cavCover (m hi : Nat) : Nat → Nat → List (Nat × Nat)
  | 0, _ => []
  | fuel + 1, p =>
    if hi < p then []
    else
      let l := ((List.range 9).reverse.find? (fun l => p % 4 ^ l == 0 && decide (min (p + 4 ^ l) m ≤ hi + 1))).getD 0
      (l, p / 4 ^ l) :: cavCover m hi fuel (p + 4 ^ l)

def cavBlocks (f : CVal → CVal → CVal) (xs : List CVal) (lo hi : Nat) : List CVal :=
  (cavCover xs.length hi xs.length lo).filterMap (fun b => cavVal f xs b.1 b.2)

/-- Pre(j) and Suf(j). -/
def cavPre (f : CVal → CVal → CVal) (xs : List CVal) (j : Nat) : Option CVal :=
  if xs.length ≤ 8 then foldL1 f (xs.take (j + 1)) else foldL1 f (cavBlocks f xs 0 j)
def cavSuf (f : CVal → CVal → CVal) (xs : List CVal) (j : Nat) : Option CVal :=
  if xs.length ≤ 8 then foldR1 f (xs.drop j) else foldR1 f (cavBlocks f xs j (xs.length - 1))

/-- What a member receives in pre, suf and out: contributor i, or a member that contributes nothing. -/
def cavDeliver (op ty : Nat) (xs : List CElem) (who : Option Nat) : CVal × CVal × CVal :=
  let f := cavOp op ty
  let vs : List CVal := xs.map (fun x => (x, false))
  let e : CVal := (cavIdentity op ty, false)
  let pre := match who with
    | some i => if i = 0 then none else cavPre f vs (i - 1)
    | none => if xs.isEmpty then none else cavPre f vs (xs.length - 1)
  let suf := match who with
    | some i => if i + 1 < xs.length then cavSuf f vs (i + 1) else none
    | none => none
  let out := match pre, suf with
    | some p, some q => f p q
    | some p, none => p
    | none, some q => q
    | none, none => e
  (pre.getD e, suf.getD e, out)

/-! ### Descriptors (R146, R150) -/

def Coll.f (c : Coll) (o n : Nat) : Nat := field c.desc o n
def Coll.cav (c : Coll) : Bool := c.kind == 1
def Coll.op (c : Coll) : Nat := c.f 32 1
def Coll.ty (c : Coll) : Nat := c.f 33 1
/-- Bytes of an element, or of a record. -/
def Coll.esz (c : Coll) : Nat := if c.cav then cavSize c.op c.ty else c.f 24 2
/-- Elements, or records held. -/
def Coll.n (c : Coll) : Nat := if c.cav then c.f 36 4 else c.f 16 4
def Coll.contributes (c : Coll) : Bool := !c.cav || !bitN (c.f 40 1) 0
def Coll.src (c : Coll) : Nat := c.f 0 8
def Coll.done (c : Coll) : Nat := if c.cav then c.f 48 8 else c.f 80 8
def Coll.ctrFlag (c : Coll) : Bool := if c.cav then bitN (c.f 40 1) 1 else bitN (c.f 28 1) 2
def Coll.ctr (c : Coll) : Nat := if c.cav then c.f 41 1 else c.f 29 1
/-- Elements or records of a chunk. -/
def Coll.per (c : Coll) : Nat := 65536 / max 1 c.esz

/-- A member's own checks. -/
def Coll.descOk (c : Coll) : Bool :=
  if c.cav then
    let w := tySize c.ty
    c.f 56 8 == 0 && c.f 44 4 == 0 && c.f 34 2 == 0 && c.f 40 1 / 4 == 0 && cavTypeOk c.op c.ty && c.f 36 4 != 0 &&
    (!c.contributes || c.f 0 8 % w == 0) && c.f 8 8 % w == 0 && c.f 16 8 % w == 0 && c.f 24 8 % w == 0
  else
    let rs := c.f 24 2
    let e := if bitN (c.f 28 1) 1 then 8 else 4
    c.f 88 8 == 0 && c.f 28 1 / 8 == 0 && decide (16 ≤ rs ∧ rs ≤ 256) && rs % 8 == 0 &&
    c.f 26 1 % e == 0 && decide (c.f 26 1 + 3 * e ≤ rs) && c.f 27 1 % 4 == 0 && decide (c.f 27 1 + 4 ≤ rs) &&
    c.f 0 8 % 8 == 0 && c.f 8 8 % 8 == 0 &&
    [0, 1, 2].all (fun d => finite64 (c.f (32 + 8 * d) 8) && finite64 (c.f (56 + 8 * d) 8) && lt64 (c.f (32 + 8 * d) 8) (c.f (56 + 8 * d) 8))

/-- What the members compare (R141): a zero corner of either sign is one value. -/
def Coll.shape (c : Coll) : List Byte :=
  if c.cav then (c.desc.drop 32).take 2 ++ (c.desc.drop 36).take 4
  else (c.desc.drop 24).take 4 ++ leBytes 1 (c.f 28 1 % 4) ++
    (List.range 6).flatMap (fun i => let v := c.f (32 + 8 * i) 8; leBytes 8 (if zero64 v then 0 else v))

def Coll.announcement (c : Coll) : Announce :=
  { ok := c.descOk, kind := c.kind, shape := c.shape, contributes := c.contributes, cap := if c.cav then 0 else c.f 20 4, count := c.n }

/-! ### Members of one instance -/

/-- The other members of an instance that are active on this chip. -/
def collLocals (s : State) (key : Nat) : List Nat :=
  let c := s.coll key
  (s.colls.filter (fun e => e.1 != key && e.2.active && !e.2.second && e.2.ctx == c.ctx && e.2.quire == c.quire && e.2.tag == c.tag)).map (·.1)

/-- The chips of the members that are elsewhere. -/
def collChips (s : State) (c : Coll) : List Nat := ((c.chips.filterMap id).filter (· != s.chipId)).foldl insertNew []

/-- Something sent to every other chip of an instance. -/
def collSend (s : State) (c : Coll) (m : Nat → FabMsg) : State := (collChips s c).foldl (fun s k => s.send (m k)) s

def State.updColl (s : State) (k : Nat) (f : Coll → Coll) : State := s.setColl k (f (s.coll k))

/-- A member is over: it awaits its completion. -/
def Coll.ends (c : Coll) (status : Nat) (info : Nat := 0) (undef : Bool := false) : Coll :=
  if c.phase = 7 then c else { c with phase := 7, status := status, info := info, undef := undef, wait := none }

/-- A member's announcement, or its failure after it had announced, as another member sees it (R141, R154). -/
def collHear (s : State) (key role : Nat) (a : Announce) : State :=
  let c := s.coll key
  if !c.active || c.second || c.phase = 7 then s
  else if c.anns.any (·.1 == role) then (if a.ok then s else s.setColl key (c.ends 3))
  else
    let c := { c with anns := c.anns ++ [(role, a)] }
    s.setColl key (
      if !a.ok then c.ends (if role = c.role then 6 else 3) 0 true
      else if c.anns.any (fun x => x.2.ok && (x.2.kind != a.kind || x.2.shape != a.shape)) then c.ends 1 0 true
      else if c.anns.length = c.chips.length then { c with phase := if c.cav then 2 else 3 } else c)

/-- A member has ended before others of its chip have opened: they find its failure when they do. -/
def postFailure (s : State) (c : Coll) : State :=
  s.updCtx c.ctx (fun x => { x with posted := x.posted.map (fun p =>
    if p.quire == c.quire && p.tag == c.tag && p.role == c.role then { p with ann := { p.ann with ok := false } } else p) })

/-- A member fails: the others end with ABORTED. -/
def collFail (s : State) (key code : Nat) : State :=
  let c := s.coll key
  let s := postFailure s c
  let s := (collLocals s key).foldl (fun s k => s.updColl k (·.ends 3)) (s.setColl key (c.ends 5 code))
  collSend s c (fun k => .announce k c.ctx c.quire c.tag c.role { c.announcement with ok := false })

/-- Instances with a member on a chip that has become unreachable end (R142). -/
def collPeersLost (s : State) : State :=
  (s.colls.filter (fun e => e.2.active && !e.2.second && !((e.2.chips.filterMap id).all s.reach))).foldl (fun s e =>
    if e.2.phase = 7 then s else postFailure (s.setColl e.1 (e.2.ends 3)) e.2) s

/-- The context's crews are killed (R154). -/
def collKill (s : State) (ctx : Nat) : State :=
  let s := s.updCtx ctx (fun x => { x with posted := [] })
  (s.colls.filter (fun e => e.2.active && e.2.ctx == ctx && e.2.phase != 7)).foldl (fun s e =>
    collSend (s.updColl e.1 (·.ends 3)) e.2 (fun k => .announce k ctx e.2.quire e.2.tag e.2.role { e.2.announcement with ok := false })) s

/-! ### Memory -/

/-- The sequencer's access has no place: the member waits on a record, or fails. -/
def collStop (s : State) (key : Nat) (acc : Acc) (e : VaFail) : State :=
  let c := s.coll key
  match e with
  | .canon _ => collFail s key 0x0C
  | .prot _ => collFail s key 0x0D
  | .fault v cause level =>
    let cr := s.crew (s.team c.team).crew
    let core := if (s.team c.team).status != .free && cr.resident then cr.core else 0xFFFF
    let (seq, s) := faultRecord s c.ctx { seq := 0, va := v, crew := c.crewNo, team := c.teamNo, core := core, level := level, kind := acc.code,
                                          flags := if c.again = some (v / 65536) then 1 else 0, cause := cause, source := 6 }
    collSend (s.setColl key { c with wait := some { seq := seq, va := v, cause := cause, lane := 0xFFFF } }) c (fun k => .paused k c.ctx c.quire)

/-- Writes at several addresses: all of them, or the first that fails. -/
def collWrites (s : State) (ctx : Nat) : List (Nat × List Byte) → State × Except VaFail Unit
  | [] => (s, .ok ())
  | (va, bs) :: r =>
    match writeVa s (hubAgent ctx 6) .engW va bs with
    | (s, .error e) => (s, .error e)
    | (s, .ok _) => collWrites s ctx r

/-- Bytes added to what a member holds of a role, where they come next. -/
def collGather (esz : Nat) (d : List (Nat × List Byte)) (role first : Nat) (bytes : List Byte) : List (Nat × List Byte) :=
  let have_ := ((d.find? (·.1 == role)).map (·.2)).getD []
  if have_.length = first * esz then (role, have_ ++ bytes) :: d.filter (·.1 != role) else d

def Coll.bytesOf (c : Coll) (role : Nat) : List Byte := ((c.data.find? (·.1 == role)).map (·.2)).getD []

/-! ### The cavity reduction (R148, R149) -/

/-- The roles that contribute, in order. -/
def Coll.contributors (c : Coll) : List Nat :=
  (List.range c.chips.length).filter (fun r => c.anns.any (fun a => a.1 == r && a.2.contributes))

/-- The next chunk of a member, where every contribution to it is there: written, or waiting on a fault. -/
def cavChunk (s : State) (key : Nat) : State :=
  let c := s.coll key
  let lo := c.chunks * c.per
  let hi := min c.n (lo + c.per)
  let who := c.contributors
  if !c.active || c.phase != 2 || c.wait.isSome || hi ≤ lo || !who.all (fun r => decide (hi * c.esz ≤ (c.bytesOf r).length)) then s
  else
    let me := if c.contributes then some (who.idxOf c.role) else none
    let rows := (span lo (hi - lo)).map (fun i =>
      cavDeliver c.op c.ty (who.map (fun r => cavRead c.op c.ty ((c.bytesOf r).drop (i * c.esz)))) me)
    let put (f : CVal × CVal × CVal → CVal) : List Byte := rows.flatMap (fun r => cavBytes c.op c.ty (f r).1)
    let o := lo * c.esz
    match collWrites s c.ctx [(c.f 16 8 + o, put (·.1)), (c.f 24 8 + o, put (·.2.1)), (c.f 8 8 + o, put (·.2.2))] with
    | (s, .error e) => collStop s key .engW e
    | (s, .ok _) =>
      let spill := rows.any (fun r => r.1.2 || r.2.1.2 || r.2.2.2)
      let c := { c with chunks := c.chunks + 1, again := none,
                        flags := c.flags ||| (if spill then 1024 else 0) ||| (if who.length ≤ 1 then 256 else 0) }
      s.setColl key (if hi = c.n then c.ends 0 else c)

/-! ### The repartition (R151 to R153) -/

/-- Floor((p − lo) · 2^21 / (hi − lo)), clamped. -/
def cellOf (p lo hi : FV) : Nat :=
  let top : Int := 2 ^ 21 - 1
  let sg (neg : Bool) (n : Nat) : Int := if neg then -(n : Int) else n
  match p, lo, hi with
  | .fin a n d, .fin b m e, .fin g k f =>
    -- over the common denominators
    let num := (sg a n * e - sg b m * d) * 2 ^ 21 * f
    let den := (sg g k * e - sg b m * f) * d
    (max 0 (min top (num.fdiv den))).toNat
  | .inf true, _, _ => 0
  | _, _, _ => top.toNat

def xorAt (x : List Nat) (i v : Nat) : List Nat := listSet x i (x.getD i 0 ^^^ v)

/-- Skilling's axes-to-transpose transform of three 21-bit coordinates. -/
def hilbertUndo (q : Nat) (x : List Nat) : List Nat :=
  (List.range 3).foldl (fun x i =>
    let p := q - 1
    if x.getD i 0 &&& q != 0 then xorAt x 0 p
    else
      let t := (x.getD 0 0 ^^^ x.getD i 0) &&& p
      xorAt (xorAt x 0 t) i t) x
def hilbert (x : List Nat) : List Nat :=
  let qs := (List.range 20).map (fun i => 2 ^ (20 - i))
  let x := qs.foldl (fun x q => hilbertUndo q x) x
  let x := xorAt x 1 (x.getD 0 0)
  let x := xorAt x 2 (x.getD 1 0)
  let t := qs.foldl (fun t q => if x.getD 2 0 &&& q != 0 then t ^^^ (q - 1) else t) 0
  x.map (· ^^^ t)

/-- The interleaving of three coordinates. -/
def morton (x : List Nat) : Nat :=
  (List.range 21).foldl (fun k j => k + (List.range 3).foldl (fun v d => v + (x.getD d 0 / 2 ^ j % 2) * 2 ^ (3 * j + d)) 0) 0

/-- A record with its key, its load in units of 2^-149, its role and its index. -/
structure RRec where
  key : Nat
  role : Nat
  ix : Nat
  load : Nat
  bytes : List Byte
  deriving DecidableEq, Repr

/-- A load in units of 2^-149. -/
def loadOf (w : Nat) : Nat :=
  match fmtF32.value w with
  | .nan => 0
  | .inf neg => if neg then 0 else (2 ^ 24 - 1) * 2 ^ 253
  | .fin neg n d => if neg then 0 else n * 2 ^ 149 / d

def Coll.keyOf (c : Coll) (r : List Byte) : Nat :=
  let wide := bitN (c.f 28 1) 1
  let e := if wide then 8 else 4
  let f := if wide then fmtF64 else fmtF32
  let q := (List.range 3).map (fun d => cellOf (f.value (field r (c.f 26 1 + e * d) e)) (v64 (c.f (32 + 8 * d) 8)) (v64 (c.f (56 + 8 * d) 8)))
  morton (if bitN (c.f 28 1) 0 then hilbert q else q)

/-- The global order. -/
def RRec.before (a b : RRec) : Bool :=
  decide (a.key < b.key) || (a.key == b.key && (decide (a.role < b.role) || (a.role == b.role && decide (a.ix < b.ix))))
def rrecInsert (x : RRec) : List RRec → List RRec
  | [] => [x]
  | y :: r => if x.before y then x :: y :: r else y :: rrecInsert x r

/-- All records, in the global order, with the loads that count. -/
def Coll.records (c : Coll) : List RRec :=
  let all := (List.range c.chips.length).flatMap (fun p =>
    let bs := c.bytesOf p
    (List.range (bs.length / max 1 c.esz)).map (fun k =>
      let r := (bs.drop (k * c.esz)).take c.esz
      { key := c.keyOf r, role := p, ix := k, load := loadOf (field r (c.f 27 1) 4), bytes := r }))
  let all := if all.all (·.load == 0) then all.map (fun r => { r with load := 1 }) else all
  all.foldl (fun l x => rrecInsert x l) []

/-- The unclamped owner of each record in turn. -/
def ownersFrom (m total : Nat) : Nat → List RRec → List Nat
  | _, [] => []
  | e, r :: l => min (m - 1) (e * m / total) :: ownersFrom m total (e + r.load) l

/-- The capacity passes: rightward over the boundaries, then leftward. -/
def capPass : Nat → List Nat → List Nat → List Nat
  | _, [], _ => []
  | carry, [x], _ => [x + carry]
  | carry, x :: y :: r, caps =>
    let k := caps.headD 0
    if k < x + carry then k :: capPass (x + carry - k) (y :: r) caps.tail else (x + carry) :: capPass 0 (y :: r) caps.tail
def capLeft (counts caps : List Nat) : List Nat := (capPass 0 counts.reverse caps.reverse).reverse

/-- Histogram buckets of a member's own records: bits [62:51] of the key, then [50:39]. -/
def Coll.buckets (c : Coll) (pass : Nat) : List Nat :=
  let rs := c.records.filter (·.role == c.role)
  (List.range 4096).map (fun b => ((rs.filter (fun r => bitsN r.key (if pass = 1 then 51 else 39) 12 == b)).map (·.load)).foldl (· + ·) 0)

/-- Everything of every member is known. -/
def Coll.gathered (c : Coll) : Bool :=
  (List.range c.chips.length).all (fun r => c.anns.any (fun a => a.1 == r && (c.bytesOf r).length == a.2.count * c.esz))

/-- The boundaries are resolved: this member's records, and what it sends. -/
def repartResolve (s : State) (key : Nat) : State :=
  let c := s.coll key
  let m := c.chips.length
  let rs := c.records
  let total := (rs.map (·.load)).foldl (· + ·) 0
  let owners := ownersFrom m total 0 rs
  let counts := (List.range m).map (fun j => (owners.filter (· == j)).length)
  let caps := (List.range m).map (fun j => ((c.anns.find? (·.1 == j)).map (·.2.cap)).getD 0)
  if caps.foldl (· + ·) 0 < rs.length then s.setColl key (c.ends 4)
  else
    let final := capLeft (capPass 0 counts caps) caps
    let at_ (j : Nat) : Nat := (final.take j).foldl (· + ·) 0
    let mine (j : Nat) : List RRec := (rs.drop (at_ j)).take (final.getD j 0)
    let send (s : State) (j : Nat) : State := match c.chips.getD j none with
      | some k => if k = s.chipId then s else
          (List.range (((mine j).filter (·.role == c.role)).length / c.per + 1)).foldl (fun s i =>
            let bs := ((((mine j).filter (·.role == c.role)).drop (i * c.per)).take c.per).flatMap (·.bytes)
            if bs.isEmpty then s else s.send (.chunk k c.ctx c.quire c.tag c.role (i * c.per) true bs)) s
      | none => s
    let s := (List.range m).foldl send s
    s.setColl key { c with phase := 5, owned := (mine c.role).flatMap (·.bytes), flags := if final = counts then c.flags else c.flags ||| 512 }

/-- REPART_HISTOGRAM_PASS. -/
def execRepartHistogramPass (ctx handle : Nat) (s : State) : Host.Outcome State Fault Refusal :=
  let key := ctx * 64 + handle % 64
  let c := s.coll key
  .next (if !c.active || c.cav || !(c.phase == 3 || c.phase == 4) || c.wait.isSome || !c.gathered || !ctxRuns s ctx then s
    else
      let pass := c.phase - 2
      let s := collSend s c (fun k => .hist k c.ctx c.quire c.tag c.role pass (c.buckets pass))
      if c.phase = 3 then s.setColl key { c with phase := 4 } else repartResolve s key)

/-- REPART_RECORD_CHUNK: the next chunk of this member's records is written to dst. -/
def execRepartRecordChunk (ctx handle : Nat) (s : State) : Host.Outcome State Fault Refusal :=
  let key := ctx * 64 + handle % 64
  let c := s.coll key
  .next (if !c.active || c.cav || c.phase != 5 || c.wait.isSome || !ctxRuns s ctx then s
    else
      let n := c.per * c.esz
      let o := c.chunks * n
      let bs := (c.owned.drop o).take n
      match writeVa s (hubAgent c.ctx 6) .engW (c.f 8 8 + o) bs with
      | (s, .error e) => collStop s key .engW e
      | (s, .ok _) =>
        let c := { c with chunks := if bs.isEmpty then c.chunks else c.chunks + 1, again := none }
        s.setColl key (if c.owned.length ≤ o + bs.length then c.ends 0 (c.owned.length / max 1 c.esz) else c))

/-! ### Contributions -/

/-- A member reads its next chunk and sends it; its fellows on this chip have it at once. -/
def collReadOwn (s : State) (key : Nat) : State :=
  let c := s.coll key
  let n := min c.per (c.n - c.sent)
  if !c.contributes || n = 0 then s
  else
    match readVa s (hubAgent c.ctx 6) .engR (c.src + c.sent * c.esz) (n * c.esz) with
    | (s, .error e) => collStop s key .engR e
    | (s, .ok (_, some _)) => collFail s key 0x0F
    | (s, .ok (bs, none)) =>
      let s := (key :: collLocals s key).foldl (fun s k => s.updColl k (fun x => { x with data := collGather c.esz x.data c.role c.sent bs })) s
      let s := if c.cav then collSend s c (fun k => .chunk k c.ctx c.quire c.tag c.role c.sent false bs) else s
      s.updColl key (fun c => { c with sent := c.sent + n, again := none })

/-- COLL_CHUNK_RECEIVE: a member on another chip sends a chunk; for its own role, the member reads its next chunk. Then what
can be combined is. -/
def execCollChunkReceive (ctx handle role first : Nat) (bytes : List Byte) (s : State) : Host.Outcome State Fault Refusal :=
  let key := ctx * 64 + handle % 64
  let c := s.coll key
  let per := c.per * c.esz
  .next (if !c.active || c.second || !(c.phase == 2 || c.phase == 3) || c.wait.isSome || !ctxRuns s ctx then s
    else if role = c.role then cavChunk (collReadOwn s key) key
    else
      let have_ := (c.bytesOf role).length
      let want := ((c.anns.find? (·.1 == role)).map (fun a => if a.2.contributes then a.2.count * c.esz else 0)).getD 0
      if c.chips.length ≤ role || c.chips.getD role none == some s.chipId || bytes.isEmpty || bytes.length != min per (want - have_) then s
      else cavChunk ((notePause s ctx c.quire role false).setColl key { c with data := collGather c.esz c.data role first bytes }) key)

/-! ### Opening (R139 to R142, R157) -/

/-- The lowest free collective handle. -/
def collHandle (s : State) (ctx : Nat) : Option Nat := (List.range 64).find? (fun h => !(s.coll (ctx * 64 + h)).active)

/-- Announcements that a member of an instance takes as it opens, and what is left for others. -/
def PostedAnn.for_ (c : Coll) (p : PostedAnn) : Bool := p.quire == c.quire && p.tag == c.tag && p.left.contains c.role
def takePosted (c : Coll) (l : List PostedAnn) : List PostedAnn :=
  (l.map (fun p => if p.for_ c then { p with left := p.left.filter (· != c.role) } else p)).filter (·.left != [])

/-- A member opens: its checks, its announcement, those of its fellows on this chip that opened before, and what landed
early. -/
def collOpen (s : State) (c : Coll) (h : Nat) : State :=
  let key := c.ctx * 64 + h
  if s.colls.any (fun e => e.2.active && e.2.ctx == c.ctx && e.2.quire == c.quire && e.2.tag == c.tag && e.2.role == c.role) then
    s.setColl key { c with phase := 7, second := true, status := 6 }
  else
    let (s, bs) := hubBindings s c.ctx c.quire
    let c := { c with chips := bs.map (fun b => b.map (·.chip)), phase := 1 }
    let s := s.setColl key c
    let fellows := collLocals s key
    let early := (s.ctx c.ctx).early.filter (fun e => e.quire == c.quire && e.tag == c.tag)
    let data := match fellows with
      | k :: _ => (s.coll k).data
      | [] => early.foldl (fun d e => collGather c.esz d e.role e.first e.bytes) []
    let up := (c.chips.filterMap id).all s.reach
    let took := (s.ctx c.ctx).posted.filter (·.for_ c)
    let later := (List.range c.chips.length).filter (fun r => r != c.role && c.chips.getD r none == some s.chipId &&
      !took.any (·.role == r) && !fellows.any (fun k => (s.coll k).role == r))
    let s := s.updCtx c.ctx (fun x => { x with
      early := x.early.filter (fun e => !(e.quire == c.quire && e.tag == c.tag)),
      posted := takePosted c x.posted ++ (if later.isEmpty then [] else
        [{ quire := c.quire, tag := c.tag, role := c.role, ann := { c.announcement with ok := c.descOk && up }, left := later }]) })
    let s := s.setColl key { c with data := data }
    if !up then s.updColl key (·.ends 3)
    else
      let s := collSend s c (fun k => .announce k c.ctx c.quire c.tag c.role c.announcement)
      let s := collHear s key c.role c.announcement
      let s := fellows.foldl (fun s k => collHear s k c.role c.announcement) s
      took.foldl (fun s p => collHear s key p.role p.ann) s

/-- CAV and REPART (R414). -/
def openColl (op kind : Nat) (d a b : Opnd) (s : State) : Host.Outcome State Fault Refusal :=
  runInstr s (fun ti t => uniform s ti t op (wordF3 op d a b) false [fld d okS, fld a okS, fld b okZero] true [a] [d] (fun u => do
    let va := u.rd a
    opRoom u.t 3
    let ci := t.crew
    let cr := s.crew ci
    let ends (s : State) (v : Nat) : State := u.now (endIdem s ci) [(d, v)]
    u.poison
    if cr.role = 0xFFFFFFFF then return ends u.s (2 ^ 64 - 3)
    if va % 64 ≠ 0 then return ends u.s (2 ^ 64 - 2)
    match engRead u.s (hubAgent cr.ctx 6) ci va (if kind = 1 then 64 else 96) with
    | (s, .error _) => return ends s (2 ^ 64 - 2)
    | (s, .ok (bs, bad)) =>
      if bad then throw (trapAt 0x0F ((engBad s (hubAgent cr.ctx 6) ci va bs.length).getD va) 0)
      let c : Coll := { active := true, kind := kind, ctx := cr.ctx, quire := (s.crewRec ci).quire, role := cr.role, desc := bs, team := ti,
                        crewNo := cr.ix, teamNo := t.id, tag := if kind = 1 then field bs 42 2 else field bs 30 2 }
      match placeVa s { hubAgent cr.ctx 6 with spec := true } .engW c.done with
      | (_, .error _) => return ends s (2 ^ 64 - 2)
      | (_, .ok _) =>
        if c.done % 16 ≠ 0 then return ends s (2 ^ 64 - 2)
        match collHandle s cr.ctx with
        | none => return ends s (2 ^ 64 - 1)
        | some h =>
          let (id, s) := opIssue (endIdem s ci) ti 3
          return u.now (collOpen s { c with id := id } h) [(d, h)]) true)

def execCav (d a b : Opnd) (s : State) : Host.Outcome State Fault Refusal := openColl 0xF4 1 d a b s
def execRepart (d a b : Opnd) (s : State) : Host.Outcome State Fault Refusal := openColl 0xF5 2 d a b s

/-- COLL.ST (R145): the snapshot of a handle, 4 core cycles after issue. A member that waits on a fault record is paused. -/
def execCollSt (d a b : Opnd) (s : State) : Host.Outcome State Fault Refusal :=
  runInstr s (fun ti t => uniform s ti t 0xF6 (wordF3 0xF6 d a b) false [fld d okS, fld a okS, fld b okZero] true [a] [d] (fun u => do
    let h := u.rd a
    let c := u.s.coll ((s.crew t.crew).ctx * 64 + h)
    let v := if 63 < h then 2 ^ 64 - 1
      else if !c.active then 0
      else c.chunks % 2 ^ 32 * 2 ^ 32 + c.tag * 2 ^ 16 + c.kind * 2 ^ 8 + (if c.wait.isSome then 6 else c.phase)
    .ok (u.done u.s [(d, v)] 4 true)))

/-- COLL_ANNOUNCE_RECEIVE: a member on another chip announces itself, or, having done so, its failure; or a pause. -/
def execCollAnnounceReceive (ctx handle role : Nat) (ann : Announce) (s : State) : Host.Outcome State Fault Refusal :=
  let key := ctx * 64 + handle % 64
  let c := s.coll key
  .next (if fabricUp s && c.active && decide (role < c.chips.length) && c.chips.getD role none != some s.chipId then
      let s := notePause s ctx c.quire role ann.paused
      if ann.paused then s else collHear s key role ann
    else s)

/-- COLL_OPEN_TIMEOUT: a member has not opened, and has announced no pause. -/
def execCollOpenTimeout (ctx handle : Nat) (s : State) : Host.Outcome State Fault Refusal :=
  let key := ctx * 64 + handle % 64
  let c := s.coll key
  .next (if c.active && c.phase == 1 && !c.second && ctxRuns s ctx &&
      (List.range c.chips.length).any (fun r => !c.anns.any (·.1 == r) && !(s.ctx ctx).peersPaused.contains (c.quire, r)) then postFailure (s.setColl key (c.ends 3)) c else s)

/-- EARLY_LANDING_ARRIVAL: data for an instance that no member here has opened lands in its quire's area, where there is room: until then
its flits wait, with the credits of VC 6 withheld (rxHolds). The layout of the area is not specified. -/
def execEarlyLandingArrival (ctx quire tag role first : Nat) (bytes : List Byte) (s : State) : Host.Outcome State Fault Refusal :=
  let c := s.ctx ctx
  let used := elaUsed c quire
  let isOpen := s.colls.any (fun e => e.2.active && e.2.ctx == ctx && e.2.quire == quire && e.2.tag == tag)
  .next (match elaArea c quire with
    | none => s
    | some area =>
      if !fabricUp s || isOpen || 262144 < used + bytes.length then s
      else
      let (n, s) := s.draw
      let va := bitsN c.elaBase.toNat 16 36 * 65536 + 262144 * area + used
      let s := (writeVa s (hubAgent ctx 6) .engW va ((List.range bytes.length).map (Config.undefByte n))).1
      s.updCtx ctx (fun c => { c with early := c.early ++ [{ quire := quire, tag := tag, role := role, first := first, bytes := bytes }] }))

/-! ### Completion (R143, R144) -/

/-- The result buffers: address and length. -/
def Coll.results (c : Coll) : List (Nat × Nat) :=
  if c.cav then [c.f 8 8, c.f 16 8, c.f 24 8].map (·, c.n * c.esz) else [(c.f 8 8, c.f 20 4 * c.esz)]

/-- Two regions share a byte; an empty one shares none. -/
def overlaps (a b : Nat × Nat) : Bool := decide (a.1 < b.1 + b.2 ∧ b.1 < a.1 + a.2 ∧ 0 < a.2 ∧ 0 < b.2)

/-- The buffers whose contents an overlap leaves undefined (R146, R150). -/
def Coll.clash (c : Coll) : List (Nat × Nat) :=
  let n := c.n * c.esz
  if c.cav then
    let o := (c.f 8 8, n)
    let p := (c.f 16 8, n)
    let q := (c.f 24 8, n)
    let i := (c.f 0 8, n)
    let src := c.contributes && ((overlaps i o && i != o) || overlaps i p || overlaps i q)
    if overlaps o p || overlaps o q || overlaps p q || src then (if c.contributes then [i, o, p, q] else [o, p, q]) else []
  else if overlaps (c.f 0 8, n) (c.f 8 8, c.f 20 4 * c.esz) then [(c.f 8 8, c.owned.length)] else []

/-- Regions left with undefined contents, where they can be written. -/
def undefine (s : State) (ctx : Nat) (l : List (Nat × Nat)) : State :=
  l.foldl (fun s r => let (n, s) := s.draw; (writeVa s (hubAgent ctx 6) .engW r.1 ((List.range r.2).map (Config.undefByte n))).1) s

/-- COLL_MEMBER_COMPLETE. -/
def execCollMemberComplete (ctx handle : Nat) (s : State) : Host.Outcome State Fault Refusal :=
  let key := ctx * 64 + handle % 64
  let c := s.coll key
  .next (if !c.active || c.phase != 7 || !ctxRuns s ctx then s
    else
      let s := undefine s ctx (if c.undef then c.results else if c.second then [] else if c.status = 0 then c.clash else [])
      let s := hubWrite (beforeRecord s ctx c.done) ctx (c.done + 8) (leBytes 4 (c.status + (if c.status = 0 then c.flags else 0)) ++ leBytes 4 c.info)
      let s := if kindOfVa s ctx c.done = some 2 then landCtx (s.flush ctx) ctx else s
      let s := if c.ctrFlag then ctrAdd s ctx c.ctr 1 else s
      let s := decrementAt s ctx c.done
      let s := ((c.done, 16) :: c.results).foldl (fun s r => noteVa s (hubAgent ctx 6) c.team 3 c.id r.1 r.2) s
      (opRetire s c.team 3 c.id).setColl key {})

end Sys2Proof.Machine
end

