-- ==== Sys2Proof/Machine/FaultRing.lean ====
section
/-! DEFINITION. Software's side of the fault ring: REPLAY and DENY of the accesses that wait on records, and the registers of
the FR block (10 R202 to R206, 20 R411). -/

namespace Sys2Proof.Machine

/-! ### The host's side of the chip (02 R34, R36, 01 R27, R32) -/

/-- The blocks of BAR 0 that answer in normal operation, and the other BARs, respond. -/
def hostOn (s : State) : Bool := s.freezing == 0 && !s.tripped && !s.recovery && (s.link 0 || s.link 1)
/-- A register write of function fn acts. -/
def hostFn (s : State) (fn : Nat) : Bool := hostOn s && decide (fn < 16)
/-- A register write to a block that only a PF has (02 R36). -/
def hostPf (s : State) (fn : Nat) : Bool := hostOn s && fn == 0

/-- Every entry of a table changed. -/
def mapCells {α : Type} (f : Nat → α → α) : Cells α → Cells α
  | [] => []
  | (k, v) :: r => (k, f k v) :: mapCells f r

/-! ### REPLAY (R205) -/

/-- A waiting access once numbers up to q are replayed: it waits on, or is retried at its page. -/
def retryWait (q : Nat) (w : Option FaultRef) (again : Option Nat) : Option FaultRef × Option Nat :=
  match w with
  | some r => if r.seq ≤ q then (none, some (r.va / 65536)) else (some r, again)
  | none => (none, again)

/-- The records of an access once numbers up to q are replayed: none once REPLAYs have covered every one; until then it waits on all of
them, and a DENY of any ends the wait (10 R204). -/
def cover (q : Nat) (l : List FaultRef) : List FaultRef :=
  let l := l.map (fun r => if r.seq ≤ q then { r with covered := true } else r)
  if l.all (·.covered) then [] else l

def CpyXfer.retry (q : Nat) (x : CpyXfer) : CpyXfer :=
  { x with wait := (retryWait q x.wait x.again).1, again := (retryWait q x.wait x.again).2 }
def GthCmd.retry (q : Nat) (x : GthCmd) : GthCmd :=
  { x with wait := (retryWait q x.wait x.again).1, again := (retryWait q x.wait x.again).2 }
def MmaCmd.retry (q : Nat) (x : MmaCmd) : MmaCmd :=
  { x with wait := (retryWait q x.wait x.again).1, again := (retryWait q x.wait x.again).2 }
def Stream.retry (q : Nat) (x : Stream) : Stream :=
  { x with wait := (retryWait q x.wait x.again).1, again := (retryWait q x.wait x.again).2 }
def ArmedSend.retry (q : Nat) (x : ArmedSend) : ArmedSend :=
  { x with wait := (retryWait q x.wait x.again).1, again := (retryWait q x.wait x.again).2 }
def Coll.retry (q : Nat) (x : Coll) : Coll :=
  { x with wait := (retryWait q x.wait x.again).1, again := (retryWait q x.wait x.again).2 }

/-- A team's own suspension, and its streams. -/
def Team.retry (q : Nat) (t : Team) : Team :=
  let t := { t with streams := mapCells (fun _ x => Stream.retry q x) t.streams }
  match t.status with
  | .susp recs => if (cover q recs).isEmpty then { t with status := .run, replayed := true } else { t with status := .susp (cover q recs) }
  | _ => t

/-- A crew's matrix commands and, while it is swapped out, its copy and gather commands. -/
def Crew.retry (q : Nat) (c : Crew) : Crew :=
  { c with mmq := c.mmq.map (MmaCmd.retry q), cpySaved := c.cpySaved.map (fun e => (e.1, CpyXfer.retry q e.2)),
           gthSaved := c.gthSaved.map (GthCmd.retry q) }

/-- A REPLAY of numbers up to q: every access of the context that waits on nothing else is retried. -/
def frReplay (s : State) (ctx q : Nat) : State :=
  let mine (ci : Nat) : Bool := (s.crew ci).ctx == ctx && (s.crew ci).status != .none
  let c := s.ctx ctx
  let queries := c.queries.filter (fun x => x.wait.any (fun r => decide (r.seq ≤ q)))
  let lanes := c.remoteHeld.filter (fun h => decide (h.seq ≤ q) && !h.behind)
  let s := { s with
    teams := mapCells (fun _ t => if mine t.crew then Team.retry q t else t) s.teams,
    crews := mapCells (fun i c => if mine i then Crew.retry q c else c) s.crews,
    cores := mapCells (fun _ k => { k with
      chans := mapCells (fun _ h => { h with q := h.q.map (fun (x : CpyXfer) => if mine x.crew then CpyXfer.retry q x else x) }) k.chans,
      gth := k.gth.map (fun (g : GthCmd) => if mine g.crew then GthCmd.retry q g else g) }) s.cores,
    launches := mapCells (fun _ l => if l.ctx = ctx then { l with requeued := l.requeued.map (fun (r : Nat × List FaultRef) => (r.1, cover q r.2)) } else l) s.launches,
    colls := mapCells (fun _ c => if c.ctx = ctx then Coll.retry q c else c) s.colls }
  let s := s.setCtx ctx { c with
    armed := c.armed.map (ArmedSend.retry q),
    ready := mapCells (fun _ l => l.map (fun (r : ReadyEntry) => { r with wait := cover q r.wait })) c.ready,
    queries := c.queries.filter (fun x => !queries.contains x) }
  let s := queries.foldl (fun s x => queryTry s { x with wait := none, again := x.wait.map (·.va / 65536) }) s
  lanes.foldl (fun s h => heldRetry s ctx h) s

/-! ### DENY (R206) -/

/-- The trap of a denied access: INFO0 its address, INFO1 the number of its record. -/
def denyTrap (r : FaultRef) : TrapInfo :=
  { code := if r.cause = 1 then 0x0D else 0x0C, info0 := w64 r.va, info1 := w64 r.seq, lane := w64 r.lane }

def isRef (q : Nat) (w : Option FaultRef) : Bool := w.any (·.seq == q)
def inRefs (q : Nat) (l : List FaultRef) : Option FaultRef := l.find? (·.seq == q)
def refOr (w : Option FaultRef) : FaultRef := w.getD { seq := 0, va := 0, cause := 0, lane := 0xFFFF }

/-- A suspended team's instruction traps. -/
def denyTeam (s : State) (ti q : Nat) : State :=
  match (s.team ti).status with
  | .susp recs =>
    (match inRefs q recs with
      | some r => takeTrap (s.updTeam ti (fun t => { t with lastPc := t.pc, replayed := false })) ti (s.team ti).pc (denyTrap r)
      | none => s)
  | _ => s

/-- A stream in ring mode stops. -/
def denyStreams (s : State) (ti q : Nat) : State :=
  (span 0 16).foldl (fun s f =>
    let x := (s.team ti).stream f
    if isRef q x.wait then deferTrap (streamStop s ti f) ti (denyTrap (refOr x.wait)) else s) s

/-- The head of a crew's matrix queue ends. -/
def denyMatrix (s : State) (ci q : Nat) : State :=
  match (s.crew ci).mmq with
  | m :: _ => if isRef q m.wait then deferTrap (mmaRetire s ci m) m.team (denyTrap (refOr m.wait)) else s
  | [] => s

/-- Copy and gather commands of a crew that is swapped out. -/
def denySaved (s : State) (ci q : Nat) : State :=
  let c := s.crew ci
  let xs := c.cpySaved.filter (fun e => isRef q e.2.wait)
  let gs := c.gthSaved.filter (fun g => isRef q g.wait)
  let s := s.setCrew ci { c with cpySaved := c.cpySaved.filter (fun e => !isRef q e.2.wait), gthSaved := c.gthSaved.filter (fun g => !isRef q g.wait) }
  let s := xs.foldl (fun s e => deferTrap (opRetire s e.2.team 0 e.2.order) e.2.team (denyTrap (refOr e.2.wait))) s
  gs.foldl (fun s g => deferTrap (opRetire (gthResult s g none) g.team 1 g.id) g.team (denyTrap (refOr g.wait))) s

/-- The heads of a core's channels and of its gather engine. -/
def denyCore (s : State) (core ctx q : Nat) : State :=
  let mine (ci : Nat) : Bool := (s.crew ci).ctx == ctx
  let s := (span 0 8).foldl (fun s k => match (s.chan core k).q with
    | x :: _ => if mine x.crew && isRef q x.wait then deferTrap (cpyRetire s core k x) x.team (denyTrap (refOr x.wait)) else s
    | [] => s) s
  match (s.core core).gth with
  | g :: _ => if mine g.crew && isRef q g.wait then deferTrap (gthRetire s core g none) g.team (denyTrap (refOr g.wait)) else s
  | [] => s

/-- An aborted crew of a launch that awaits its return is killed. -/
def denyRequeued (s : State) (id q : Nat) : State :=
  (s.launch id).requeued.foldl (fun s e => match inRefs q e.2 with
    | some r => s.updLaunch id (fun l => { l with
        requeued := l.requeued.erase e, liveCrews := l.liveCrews - 1,
        status := if l.status = 0 then 4 else l.status,
        info := if l.status = 0 then (denyTrap r).code + e.1 % 2 ^ 24 * 256 else l.info })
    | none => s) s

/-- An aborted task is killed: it leaves, and its job is cancelled. -/
def denyReady (s : State) (ctx q : Nat) : State :=
  (s.ctx ctx).ready.foldl (fun s row => row.2.foldl (fun s e =>
    if (inRefs q e.wait).isSome && ((readyList s ctx row.1).contains e) then
      let s := s.updCtx ctx (fun c => { c with ready := cset [] c.ready row.1 ((cget [] c.ready row.1).erase e) })
      jobAdd (cancelJob (jobStatus s ctx e.task.job 3 e.task.taskId) ctx e.task.job) ctx e.task.job (-1)
    else s) s) s

/-- Armed sends, queries and remote lanes. -/
def denyHub (s : State) (ctx q : Nat) : State :=
  let c := s.ctx ctx
  let sends := c.armed.filter (fun x => isRef q x.wait)
  let qs := c.queries.filter (fun x => isRef q x.wait)
  let s := s.setCtx ctx { c with armed := c.armed.filter (fun x => !isRef q x.wait), queries := c.queries.filter (fun x => !isRef q x.wait) }
  let s := sends.foldl (fun s x => deferTrap (opRetire s x.team 3 x.id) x.team (denyTrap (refOr x.wait))) s
  let s := qs.foldl (fun s x => deferTrap (opRetire s x.team 4 x.id) x.team (denyTrap (refOr x.wait))) s
  (c.remoteHeld.filter (fun h => h.seq == q && !h.behind)).foldl (fun s h => heldDeny s ctx h) s

/-- A DENY of number q: the access of the context that waits on it ends. -/
def frDeny (s : State) (ctx q : Nat) : State :=
  let crews := (s.crews.filter (fun e => e.2.ctx == ctx && e.2.status != .none)).map (·.1)
  let s := crews.foldl (fun s ci =>
    let s := denySaved (denyMatrix s ci q) ci q
    (s.crew ci).teams.foldl (fun s t => denyTeam (denyStreams s t q) t q) s) s
  let s := (s.cores.map (·.1)).foldl (fun s k => denyCore s k ctx q) s
  let s := ((s.launches.filter (fun e => e.2.ctx == ctx)).map (·.1)).foldl (fun s id => denyRequeued s id q) s
  let s := denyReady s ctx q
  let s := (s.colls.filter (fun e => e.2.active && e.2.ctx == ctx && isRef q e.2.wait)).foldl
    (fun s e => collFail s e.1 (denyTrap (refOr e.2.wait)).code) s
  denyHub s ctx q

/-! ### Registers (R202) -/

/-- FR_REPLAY. -/
def execFrReplay (fn : Nat) (value : W64) (s : State) : Host.Outcome State Fault Refusal :=
  .next (if hostFn s fn then frReplay s fn value.toNat else s)

/-- FR_DENY. -/
def execFrDeny (fn : Nat) (value : W64) (s : State) : Host.Outcome State Fault Refusal :=
  .next (if hostFn s fn then frDeny s fn value.toNat else s)

/-- FR_CTL_WRITE: a size outside 6 to 16 makes the write ignored whole. -/
def execFrCtlWrite (fn : Nat) (value : W64) (s : State) : Host.Outcome State Fault Refusal :=
  let n := bitsN value.toNat 1 5
  .next (if hostFn s fn && decide (6 ≤ n ∧ n ≤ 16) then s.updCtx fn (fun c => { c with frCtl := value &&& 0x3F3F }) else s)

/-- The ring's full bit as its indexes stand. -/
def frFullNow (c : Ctx) : Bool := bitN c.frCtl.toNat 0 && decide (frEntries c ≤ (c.frHead + 2 ^ 32 - c.frTail) % 2 ^ 32)

/-- FR_TAIL_WRITE. -/
def execFrTailWrite (fn : Nat) (value : W64) (s : State) : Host.Outcome State Fault Refusal :=
  .next (if hostFn s fn then s.updCtx fn (fun c =>
      let c := { c with frTail := value.toNat % 2 ^ 32, frSince := true }
      { c with frFull := c.frFull && frFullNow c })
    else s)

/-- FR_STATUS_POOL_CLEAR: bit 1 of FR.STATUS is cleared by writing 1. -/
def execFrStatusPoolClear (fn : Nat) (value : W64) (s : State) : Host.Outcome State Fault Refusal :=
  .next (if hostFn s fn && bitN value.toNat 1 then s.updCtx fn (fun c => { c with frPool := false }) else s)

/-- FAULT_RECORD_HELD_WRITE: the first held record is written once the ring has room. -/
def execFaultRecordHeldWrite (ctx : Nat) (s : State) : Host.Outcome State Fault Refusal :=
  let c := s.ctx ctx
  .next (match c.frHeld with
    | r :: rest => if s.freezing == 0 && !s.tripped && frRoom c then frWrite (s.setCtx ctx { c with frHeld := rest }) ctx r else s
    | [] => s)

end Sys2Proof.Machine
end

