-- ==== Sys2Proof/Machine/Riscv.lean ====
section
/-! DEFINITION. A Scriptor thread as it runs a prologue (00 R1, 03 R57, R70): RISC-V in U-mode, the base set RV64I with M, A, C and Zicsr. The spec
names the sets; their instructions are those of the RISC-V manual (log 73). -/

namespace Sys2Proof.Machine

/-! ### Instructions -/

/-- What an instruction does, compressed or not. Registers are numbers from 0 to 31; an offset or immediate has its sign extended. -/
inductive Rv where
  | lui (rd : Nat) (imm : W64)
  | auipc (rd : Nat) (imm : W64)
  | jal (rd : Nat) (off : W64)
  | jalr (rd rs : Nat) (off : W64)
  | branch (cond rs1 rs2 : Nat) (off : W64)
  | load (width rd rs : Nat) (off : W64)
  | store (width rs1 rs2 : Nat) (off : W64)
  | aluImm (word : Bool) (op rd rs : Nat) (imm : W64)
  | alu (word : Bool) (op rd rs1 rs2 : Nat)
  | fence
  | csr (op rd src num : Nat)
  | amo (double : Bool) (op rd rs1 rs2 : Nat)
  deriving DecidableEq, Repr

/-- x, of w bits, with its sign extended. -/
def rvSext (w x : Nat) : W64 := BitVec.ofInt 64 (sextN w x)

/-- Bits of x put together, each part (from, width) above the one after it. -/
def rvBits (x : Nat) : List (Nat × Nat) → Nat
  | [] => 0
  | (lo, w) :: r => bitsN x lo w * 2 ^ ((r.map (·.2)).foldl (· + ·) 0) + rvBits x r

/-- Operations of the arithmetic unit: 0 to 7 as funct3 numbers them, 8 SUB, 13 SRA, 16 to 23 those of M. -/
def rvAlu (op : Nat) (a b : W64) (w : Nat) : W64 :=
  let sh := b.toNat % w
  let sa := sextN w a.toNat
  let sb := sextN w b.toNat
  let ua := a.toNat % 2 ^ w
  let ub := b.toNat % 2 ^ w
  match op with
  | 0 => a + b
  | 1 => a <<< sh
  | 2 => if sa < sb then 1 else 0
  | 3 => if ua < ub then 1 else 0
  | 4 => a ^^^ b
  | 5 => w64 (ua / 2 ^ sh)
  | 6 => a ||| b
  | 7 => a &&& b
  | 8 => a - b
  | 13 => BitVec.ofInt 64 (sa / 2 ^ sh)
  | 16 => BitVec.ofInt 64 (sa * sb)
  | 17 => BitVec.ofInt 64 (sa * sb / 2 ^ w)
  | 18 => BitVec.ofInt 64 (sa * ub / 2 ^ w)
  | 19 => w64 (ua * ub / 2 ^ w)
  | 20 => if ub = 0 then BitVec.allOnes 64 else BitVec.ofInt 64 (Int.tdiv sa sb)
  | 21 => if ub = 0 then BitVec.allOnes 64 else w64 (ua / ub)
  | 22 => if ub = 0 then a else BitVec.ofInt 64 (Int.tmod sa sb)
  | 23 => if ub = 0 then a else w64 (ua % ub)
  | _ => 0

/-- The operation on 64 bits, or on the low 32 with the sign of its result extended. -/
def rvAluOf (word : Bool) (op : Nat) (a b : W64) : W64 := if word then rvSext 32 (rvAlu op a b 32).toNat else rvAlu op a b 64

/-- The operation of an OP or OP-IMM encoding: funct3 with the funct7 that selects SUB, SRA or M. -/
def rvOpOf (f3 f7 : Nat) : Option Nat :=
  if f7 = 0 then some f3
  else if f7 = 0x20 ∧ (f3 = 0 ∨ f3 = 5) then some (8 + f3)
  else if f7 = 1 then some (16 + f3) else none

/-- An instruction of 32 bits. -/
def rvDecode (w : Nat) : Option Rv :=
  let rd := bitsN w 7 5
  let f3 := bitsN w 12 3
  let rs1 := bitsN w 15 5
  let rs2 := bitsN w 20 5
  let f7 := bitsN w 25 7
  let immI := rvSext 12 (bitsN w 20 12)
  match bitsN w 0 7 with
  | 0x37 => some (.lui rd (rvSext 32 (bitsN w 12 20 * 4096)))
  | 0x17 => some (.auipc rd (rvSext 32 (bitsN w 12 20 * 4096)))
  | 0x6F => some (.jal rd (rvSext 21 (2 * rvBits w [(31, 1), (12, 8), (20, 1), (21, 10)])))
  | 0x67 => if f3 = 0 then some (.jalr rd rs1 immI) else none
  | 0x63 => if f3 = 2 ∨ f3 = 3 then none
    else some (.branch f3 rs1 rs2 (rvSext 13 (2 * rvBits w [(31, 1), (7, 1), (25, 6), (8, 4)])))
  | 0x03 => if f3 = 7 then none else some (.load f3 rd rs1 immI)
  | 0x23 => if 3 < f3 then none else some (.store f3 rs1 rs2 (rvSext 12 (rvBits w [(25, 7), (7, 5)])))
  | 0x13 =>
    if f3 = 1 then (if f7 / 2 = 0 then some (.aluImm false 1 rd rs1 (w64 (bitsN w 20 6))) else none)
    else if f3 = 5 then
      (if f7 / 2 = 0 then some (.aluImm false 5 rd rs1 (w64 (bitsN w 20 6)))
       else if f7 / 2 = 16 then some (.aluImm false 13 rd rs1 (w64 (bitsN w 20 6))) else none)
    else some (.aluImm false f3 rd rs1 immI)
  | 0x1B =>
    if f3 = 0 then some (.aluImm true 0 rd rs1 immI)
    else if f3 = 1 ∧ f7 = 0 then some (.aluImm true 1 rd rs1 (w64 rs2))
    else if f3 = 5 ∧ f7 = 0 then some (.aluImm true 5 rd rs1 (w64 rs2))
    else if f3 = 5 ∧ f7 = 0x20 then some (.aluImm true 13 rd rs1 (w64 rs2)) else none
  | 0x33 => (rvOpOf f3 f7).map (fun o => .alu false o rd rs1 rs2)
  | 0x3B => if f7 = 1 ∧ (f3 = 1 ∨ f3 = 2 ∨ f3 = 3) ∨ f7 = 0 ∧ f3 ≠ 0 ∧ f3 ≠ 1 ∧ f3 ≠ 5 then none
    else (rvOpOf f3 f7).map (fun o => .alu true o rd rs1 rs2)
  | 0x0F => if f3 = 0 then some .fence else none
  | 0x73 => if f3 = 0 ∨ f3 = 4 then none else some (.csr f3 rd rs1 (bitsN w 20 12))
  | 0x2F =>
    let op := f7 / 4
    if (f3 = 2 ∨ f3 = 3) ∧ [0, 1, 2, 3, 4, 8, 12, 16, 20, 24, 28].contains op ∧ (op = 2 → rs2 = 0) then some (.amo (f3 == 3) op rd rs1 rs2)
    else none
  | _ => none

/-- An instruction of 16 bits. The forms of F and D, and the reserved ones, are none. -/
def rvDecodeC (h : Nat) : Option Rv :=
  let f3 := bitsN h 13 3
  let rd := bitsN h 7 5
  let rs2 := bitsN h 2 5
  let r1 := 8 + bitsN h 7 3
  let r2 := 8 + bitsN h 2 3
  let imm6 := rvSext 6 (rvBits h [(12, 1), (2, 5)])
  let shamt := w64 (rvBits h [(12, 1), (2, 5)])
  let offW := w64 (4 * rvBits h [(5, 1), (10, 3), (6, 1)])
  let offD := w64 (8 * rvBits h [(5, 2), (10, 3)])
  match h % 4, f3 with
  | 0, 0 => let n := 4 * rvBits h [(7, 4), (11, 2), (5, 1), (6, 1)]; if n = 0 then none else some (.aluImm false 0 r2 2 (w64 n))
  | 0, 2 => some (.load 2 r2 r1 offW)
  | 0, 3 => some (.load 3 r2 r1 offD)
  | 0, 6 => some (.store 2 r1 r2 offW)
  | 0, 7 => some (.store 3 r1 r2 offD)
  | 1, 0 => some (.aluImm false 0 rd rd imm6)
  | 1, 1 => if rd = 0 then none else some (.aluImm true 0 rd rd imm6)
  | 1, 2 => some (.aluImm false 0 rd 0 imm6)
  | 1, 3 =>
    if bitN h 12 = false ∧ bitsN h 2 5 = 0 then none
    else if rd = 2 then some (.aluImm false 0 2 2 (rvSext 10 (16 * rvBits h [(12, 1), (3, 2), (5, 1), (2, 1), (6, 1)])))
    else some (.lui rd (rvSext 18 (4096 * rvBits h [(12, 1), (2, 5)])))
  | 1, 4 =>
    (match bitsN h 10 2 with
      | 0 => some (.aluImm false 5 r1 r1 shamt)
      | 1 => some (.aluImm false 13 r1 r1 shamt)
      | 2 => some (.aluImm false 7 r1 r1 imm6)
      | _ => match bitN h 12, bitsN h 5 2 with
        | false, 0 => some (.alu false 8 r1 r1 r2)
        | false, 1 => some (.alu false 4 r1 r1 r2)
        | false, 2 => some (.alu false 6 r1 r1 r2)
        | false, _ => some (.alu false 7 r1 r1 r2)
        | true, 0 => some (.alu true 8 r1 r1 r2)
        | true, 1 => some (.alu true 0 r1 r1 r2)
        | true, _ => none)
  | 1, 5 => some (.jal 0 (rvSext 12 (2 * rvBits h [(12, 1), (8, 1), (9, 2), (6, 1), (7, 1), (2, 1), (11, 1), (3, 3)])))
  | 1, 6 => some (.branch 0 r1 0 (rvSext 9 (2 * rvBits h [(12, 1), (5, 2), (2, 1), (10, 2), (3, 2)])))
  | 1, 7 => some (.branch 1 r1 0 (rvSext 9 (2 * rvBits h [(12, 1), (5, 2), (2, 1), (10, 2), (3, 2)])))
  | 2, 0 => some (.aluImm false 1 rd rd shamt)
  | 2, 2 => if rd = 0 then none else some (.load 2 rd 2 (w64 (4 * rvBits h [(2, 2), (12, 1), (4, 3)])))
  | 2, 3 => if rd = 0 then none else some (.load 3 rd 2 (w64 (8 * rvBits h [(2, 3), (12, 1), (5, 2)])))
  | 2, 4 =>
    (match bitN h 12, decide (rs2 = 0) with
      | false, true => if rd = 0 then none else some (.jalr 0 rd 0)
      | false, false => some (.alu false 0 rd 0 rs2)
      | true, true => if rd = 0 then none else some (.jalr 1 rd 0)
      | true, false => some (.alu false 0 rd rd rs2))
  | 2, 6 => some (.store 2 2 rs2 (w64 (4 * rvBits h [(7, 2), (9, 4)])))
  | 2, 7 => some (.store 3 2 rs2 (w64 (8 * rvBits h [(7, 3), (10, 3)])))
  | _, _ => none

/-! ### The thread -/

/-- Where Scriptor's local memory lies for its threads: above every address of a context. -/
def scriptorBase : Nat := 2 ^ 52 * (1 + Config.scriptorBase % 4095)
/-- The lowest byte of a thread's prologue stack in that memory: a page of 4 KiB that no other thread has. -/
def stackBase (thread : Nat) : Nat := 4096 * (Config.prologueStacks % 97 + thread % 32)
/-- The address in the firmware to which a prologue returns. -/
def prologueReturn (thread : Nat) : Nat := scriptorBase + 0x80000 + 2 * (Config.prologueReturn thread % 2 ^ 30)

/-- A register of a thread; x0 reads 0. -/
def rvGet (s : State) (thread r : Nat) : W64 := if r = 0 then 0 else cget 0 s.threadReg (thread * 32 + r)

/-- Registers of a thread written. -/
def threadRegs (s : State) (thread : Nat) (l : List (Nat × W64)) : State :=
  { s with threadReg := l.foldl (fun m e => if 1 ≤ e.1 ∧ e.1 < 32 then cset 0 m (thread * 32 + e.1) e.2 else m) s.threadReg }

/-- The place in local memory of n bytes at an address, where they lie in the thread's stack. -/
def onStack (thread va n : Nat) : Option Nat :=
  let o := va - scriptorBase
  if scriptorBase ≤ va ∧ stackBase thread ≤ o ∧ o + n ≤ stackBase thread + 4096 then some o else none

/-- n bytes, aligned, that a thread reads: its stack, or memory through the context's translation. None where the access traps; consuming a
poisoned word does (01 R24). -/
def rvRead (s : State) (thread ctx : Nat) (acc : Acc) (va n : Nat) : State × Option Nat :=
  if va % n ≠ 0 then (s, none)
  else
    match onStack thread va n with
    | some o => (s, if poisonedIn s.scriptorPoison o n then none else some (ofLE ((List.range n).map (fun i => cget 0 s.scriptorMem (o + i)))))
    | none =>
      match readVa s (hubAgent ctx 5) acc va n with
      | (s, .ok (bs, none)) => (s, some (ofLE bs))
      | (s, _) => (s, none)

/-- Likewise written: whether it is. -/
def rvWrite (s : State) (thread ctx va n : Nat) (v : W64) : State × Bool :=
  if va % n ≠ 0 then (s, false)
  else
    match onStack thread va n with
    | some o =>
      ({ s with
        scriptorMem := ((List.range n).zip (leBytes n v.toNat)).foldl (fun m e => cset 0 m (o + e.1) e.2) s.scriptorMem,
        scriptorPoison := poisonAfter s.scriptorPoison o n false }, true)
    | none =>
      match writeVa s (hubAgent ctx 5) .store va (leBytes n v.toNat) with
      | (s, .ok ()) => (s, true)
      | (s, .error _) => (s, false)

/-- The instruction at an address, with its length; none where it cannot be fetched or is not one. -/
def rvFetch (s : State) (thread ctx pc : Nat) : State × Option (Rv × Nat) :=
  match rvRead s thread ctx .fetch pc 2 with
  | (s, none) => (s, none)
  | (s, some h) =>
    if h % 4 ≠ 3 then (s, (rvDecodeC h).map (·, 2))
    else
      match rvRead s thread ctx .fetch (pc + 2) 2 with
      | (s, none) => (s, none)
      | (s, some k) => (s, (rvDecode (h + 65536 * k)).map (·, 4))

/-- A branch is taken. -/
def rvTaken (cond : Nat) (a b : W64) : Bool :=
  let r := match cond / 2 with
    | 0 => a == b
    | 2 => decide (a.toInt < b.toInt)
    | _ => decide (a.toNat < b.toNat)
  if cond % 2 = 1 then !r else r

/-- What an atomic operation leaves in memory: old value m, operand v, both of w bits. -/
def rvAmo (op w : Nat) (m v : W64) : W64 :=
  let lt (signed : Bool) : Bool := if signed then decide (sextN w m.toNat < sextN w v.toNat) else decide (m.toNat % 2 ^ w < v.toNat % 2 ^ w)
  match op with
  | 0 => m + v
  | 4 => m ^^^ v
  | 8 => m ||| v
  | 12 => m &&& v
  | 16 => if lt true then m else v
  | 20 => if lt true then v else m
  | 24 => if lt false then m else v
  | 28 => if lt false then v else m
  | _ => v

/-- A thread in a prologue: the machine, the address of its next instruction, its reservation, and the cycles that the invocation has taken, with
those of them that the thread's counter holds already. A reservation ends where other agents may act in between (log 73). -/
structure RvState where
  s : State
  pc : Nat
  resv : Option Nat := none
  cycles : Nat := 0
  before : Nat := 0

/-- An instruction of n bytes executed: none where it traps. Its machine is left as it is where it does. -/
def rvExec (thread ctx : Nat) (x : RvState) (i : Rv) (n : Nat) : Option RvState :=
  let r (k : Nat) : W64 := rvGet x.s thread k
  let on : RvState := { x with pc := (x.pc + n) % 2 ^ 64 }
  let put (y : RvState) (rd : Nat) (v : W64) : RvState := { y with s := threadRegs y.s thread [(rd, v)] }
  let jump (off : W64) : Nat := (w64 x.pc + off).toNat
  match i with
  | .lui rd imm => some (put on rd imm)
  | .auipc rd imm => some (put on rd (w64 x.pc + imm))
  | .jal rd off => some { put on rd (w64 on.pc) with pc := jump off }
  | .jalr rd rs off => some { put on rd (w64 on.pc) with pc := (r rs + off).toNat / 2 * 2 }
  | .branch c a b off => some (if rvTaken c (r a) (r b) then { on with pc := jump off } else on)
  | .load f rd rs off =>
    let n := 2 ^ (f % 4)
    match rvRead x.s thread ctx .load (r rs + off).toNat n with
    | (s, some v) => some (put { on with s := s } rd (if f < 4 then rvSext (8 * n) v else w64 v))
    | (_, none) => none
  | .store f a b off =>
    match rvWrite x.s thread ctx (r a + off).toNat (2 ^ f) (r b) with
    | (s, true) => some { on with s := s }
    | (_, false) => none
  | .aluImm w op rd rs imm => some (put on rd (rvAluOf w op (r rs) imm))
  | .alu w op rd a b => some (put on rd (rvAluOf w op (r a) (r b)))
  | .fence => some on
  | .csr f rd src num =>
    if num = 0xC00 ∧ f % 4 ≠ 1 ∧ src = 0 then some (put on rd (w64 (cget 0 x.s.threadCycle thread + (x.cycles - x.before)))) else none
  | .amo d op rd a b =>
    let n := if d then 8 else 4
    let va := (r a).toNat
    if op = 3 then
      (if va % n ≠ 0 then none
       else if x.resv ≠ some va then some (put { on with resv := none } rd 1)
       else match rvWrite x.s thread ctx va n (r b) with
         | (s, true) => some (put { on with s := s, resv := none } rd 0)
         | (_, false) => none)
    else
      match rvRead x.s thread ctx (if op = 2 then .load else .atomic) va n with
      | (_, none) => none
      | (s, some m) =>
        let old := rvSext (8 * n) m
        if op = 2 then some (put { on with s := s, resv := some va } rd old)
        else match rvWrite s thread ctx va n (rvAmo op (8 * n) (w64 m) (r b)) with
          | (s, true) => some (put { on with s := s } rd old)
          | (_, false) => none

/-- How far a prologue has come: it goes on, has returned, has trapped, or has used up its budget. -/
inductive RvEnd where
  | going (x : RvState)
  | returned (x : RvState)
  | trapped (x : RvState)
  | stopped (x : RvState)

/-- A prologue's next instructions, one for each entry: the cycles that it waits beside the one that issues it. An instruction that would end beyond
the budget of 65,536 is not performed (R70). -/
def rvRun (thread ctx : Nat) : List Nat → RvState → RvEnd
  | [], x => .going x
  | w :: r, x =>
    if 65536 < x.cycles + 1 + w then .stopped { x with cycles := 65536 }
    else
      let x := { x with cycles := x.cycles + 1 + w }
      match rvFetch x.s thread ctx x.pc with
      | (_, none) => .trapped x
      | (s, some (i, n)) =>
        match rvExec thread ctx { x with s := s } i n with
        | none => .trapped { x with s := s }
        | some y => if y.pc = prologueReturn thread then .returned y else rvRun thread ctx r y

end Sys2Proof.Machine
end

