-- ==== Sys2Proof/Machine/Scriptor.lean ====
section
/-! DEFINITION. Scriptor: queues and doorbells (03 R59 to R66), the packets (R67 to R70), queue faults (R71, R72), and the sealing
and submission of graphs (05 R102 to R104). -/

namespace Sys2Proof.Machine

/-! ### Descriptors (R61, R62) -/

/-- The fields of a queue's descriptor, as they stand at its home memory. -/
structure QDesc where
  ring : Nat
  lsize : Nat
  prio : Nat
  ctl : Nat
  rptr : Nat
  wptr : Nat
  status : Nat
  bytes : List Byte
  deriving DecidableEq, Repr

def queueKey (ctx q : Nat) : Nat := ctx * 512 + q
def qVa (s : State) (ctx q off : Nat) : Nat := ((s.ctx ctx).qtblBase.toNat + 256 * q + off) % 2 ^ 64

/-- The descriptor read. DESIGN CHOICE: a prio byte above 3 is taken as 3 (log 114). -/
def qDesc (s : State) (ctx q : Nat) : State × Option QDesc :=
  match homeRead s ctx (qVa s ctx q 0) 256 with
  | (s, some r) => (s, some {
      ring := field r 0 8, lsize := field r 8 1, prio := min 3 (field r 9 1), ctl := field r 11 1, rptr := field r 16 4,
      wptr := field r 20 4, status := field r 24 1, bytes := r })
  | (s, none) => (s, none)

def qPut (s : State) (ctx q off : Nat) (bytes : List Byte) : State := homeWrite s ctx (qVa s ctx q off) bytes

/-- A queue's status, here and in its descriptor. -/
def qStatus (s : State) (ctx q st : Nat) : State :=
  if (s.queue (queueKey ctx q)).st = st then s
  else qPut (s.updQueue (queueKey ctx q) (fun k => { k with st := st })) ctx q 24 (leBytes 1 st)

/-- Four entries of a stack of n bytes each, the bottom first. -/
def stackBytes (n : Nat) (top : List Nat) : List Byte := (List.range 4).flatMap (fun i => leBytes n (top.reverse.getD i 0))

/-- The stacks written into the save field, and the bytes that the device holds for itself, whose layout is not the spec's (log 110): at +64 one more
than the invocation number, 0 for none; the others are free. -/
def qSave (s : State) (ctx q : Nat) : State :=
  let k := s.queue (queueKey ctx q)
  let (n, s) := s.draw
  let s := qPut s ctx q 64 (leBytes 8 (match k.prol with
    | some i => i + 1
    | none => 0) ++ (List.range 80).map (Config.saveByte n))
  let s := qPut (qPut s ctx q 240 ((List.range 4).map (fun i => Config.saveByte n (80 + i)))) ctx q 248
    ((List.range 8).map (fun i => Config.saveByte n (84 + i)))
  let outcomes := ((List.range 8).map (fun i => if k.conds.reverse.getD i false then 2 ^ (10 + i) else 0)).foldl (· + ·) 0
  let s := qPut s ctx q 152 (leBytes 8 k.fetch ++ stackBytes 8 k.calls ++ stackBytes 8 (k.loops.map (·.2)) ++ stackBytes 4 (k.loops.map (·.1)))
  qPut s ctx q 244 (leBytes 4 (k.loops.length + 8 * k.calls.length + 64 * k.conds.length + outcomes))

/-- The stacks and the invocation number as the save field holds them. -/
def qLoad (d : QDesc) (k : Queue) : Queue :=
  let r := d.bytes
  let n := field r 244 4
  { k with
    loops := ((List.range (min 4 (bitsN n 0 3))).map (fun i => (field r (224 + 4 * i) 4, field r (192 + 8 * i) 8))).reverse,
    calls := ((List.range (min 4 (bitsN n 3 3))).map (fun i => field r (160 + 8 * i) 8)).reverse,
    conds := ((List.range (min 8 (bitsN n 6 4))).map (fun i => bitN n (10 + i))).reverse,
    fetch := field r 152 8,
    prol := if field r 64 8 = 0 then none else some (field r 64 8 - 1) }

/-- A queue gives up its thread, with a status; its stacks are saved. -/
def qUnmap (s : State) (ctx q st : Nat) : State :=
  let key := queueKey ctx q
  let s := qSave s ctx q
  let s := match (s.queue key).thread with
    | some t => { s with threads := cset none s.threads t none }
    | none => s
  let (o, s) := s.tick
  let s := s.updQueue key (fun k => { k with
    thread := none, prol := none, used := none, blocked := false, watch := none, lineChanged := false, order := if st = 1 then o else k.order })
  qStatus s ctx q st

/-- A queue faults (R71), at the packet at read index `idx`, or the one at its present one. A LAUNCH.IND that is executed again begins with
invocation 0 (log 73). -/
def qFault (s : State) (ctx q code : Nat) (idx : Option Nat := none) : State :=
  let key := queueKey ctx q
  let (s, d) := qDesc s ctx q
  let r := idx.getD ((d.map (·.rptr)).getD 0)
  let s := s.updQueue key (fun k => { k with prol := none, used := none, scanIf := false })
  let s := if (s.queue key).thread.isSome then qUnmap s ctx q 4 else qPut (qStatus s ctx q 4) ctx q 64 (leBytes 8 0)
  let s := qPut s ctx q 25 (leBytes 1 code)
  let s := qPut s ctx q 28 (leBytes 4 r)
  let (s, k) := match placeVa s (hubAgent ctx 5) .engR (qVa s ctx q 16) with
    | (s, .ok (.phys k)) => (s, some k)
    | (s, _) => (s, none)
  raiseQueue (s.updQueue key (fun x => { x with rptrKey := k, rptrWritten := false })) ctx q

/-! ### Doorbells (R60, R63) -/

/-- Queues that exist on the device. -/
def queueCount (s : State) : Nat := (s.queues.filter (·.2.live)).length

/-- A queue becomes runnable. -/
def qRunnable (s : State) (ctx q prio : Nat) : State :=
  let (o, s) := s.tick
  qStatus (s.updQueue (queueKey ctx q) (fun k => { k with order := o, prio := prio })) ctx q 1

/-- A queue that does not exist comes into existence, with the status its descriptor has; or its creation finds the device
full. -/
def qCreate (s : State) (ctx q st : Nat) : State × Bool :=
  if 4096 ≤ queueCount s then (qFault s ctx q 0x0C, false)
  else (s.updQueue (queueKey ctx q) (fun k => { live := true, st := st, work := k.work, rptrKey := k.rptrKey, rptrWritten := k.rptrWritten }), true)

/-- A doorbell of a queue takes effect. DESIGN CHOICE: a queue that is created again after its release while faulted is still faulted, as its
descriptor's status says (log 113). -/
def bell (s : State) (ctx q : Nat) (value : W64) : State :=
  let new := value.toNat
  if 2 ^ 32 ≤ new ∨ (s.ctx ctx).qtblCount.toNat ≤ q then s
  else
    match qDesc s ctx q with
    | (_, none) => s
    | (s1, some d) =>
      let k := s.queue (queueKey ctx q)
      let st := if k.live then k.st else if d.status = 4 then 4 else 0
      let dist (x : Nat) : Nat := (x + 2 ^ 32 - d.rptr) % 2 ^ 32
      if !bitN d.ctl 0 || decide (dist new ≤ dist d.wptr) then s
      else if d.lsize < 8 ∨ 24 < d.lsize then qFault s1 ctx q 0x0B
      else if 2 ^ d.lsize < dist new then qFault s1 ctx q 0x06
      else
        let s := qPut s1 ctx q 20 (leBytes 4 new)
        let (s, ok) := if k.live then (s, true) else qCreate s ctx q st
        if ok && st == 0 then qRunnable s ctx q d.prio else s

/-- Doorbells of a context act on this endpoint (02 R37, R38). -/
def bellOpen (c : Ctx) (ep : Nat) : Bool := c.started && (c.twoLink || ep == c.lnk)

/-- DOORBELL_WRITE: held until the context starts, or until its link takes part. -/
def execDoorbellWrite (fn ep q : Nat) (value : W64) (s : State) : Host.Outcome State Fault Refusal :=
  .next (if hostFn s fn && decide (ep < 2 ∧ q < 512) && s.link ep then
      if bellOpen (s.ctx fn) ep then bell s fn q value
      else s.updCtx fn (fun c => { c with heldBells := c.heldBells ++ [(ep, q, value)] })
    else s)

/-- HQ_QRELEASE. -/
def execHqQrelease (fn q : Nat) (s : State) : Host.Outcome State Fault Refusal :=
  let k := s.queue (queueKey fn q)
  .next (if hostFn s fn && decide (q < 512) && k.live && (k.st == 0 || k.st == 4) then
      s.updQueue (queueKey fn q) (fun k => { work := k.work, rptrKey := k.rptrKey, rptrWritten := k.rptrWritten })
    else s)

/-- HQ_QRESUME (R72): the queue runs again, its stacks emptied when software has written its read index; the creation of a queue
that does not exist is tried again. DESIGN CHOICE: a creation that fails again is a fault like the first, with its vector and a new fault_idx (log 111);
a log2size that is still outside 8 to 24 faults BAD_DESC again (log 112). -/
def execHqQresume (fn q : Nat) (s : State) : Host.Outcome State Fault Refusal :=
  let key := queueKey fn q
  let k := s.queue key
  .next (if !hostFn s fn || decide (512 ≤ q ∨ (s.ctx fn).qtblCount.toNat ≤ q) then s
    else
      match qDesc s fn q with
      | (_, none) => s
      | (s1, some d) =>
        if (if k.live then k.st else d.status) ≠ 4 then s
        else if d.lsize < 8 ∨ 24 < d.lsize then qFault s1 fn q 0x0B
        else
          let (s, ok) := if k.live then (s1, true) else qCreate s1 fn q 4
          if !ok then s
          else
            let s := if k.rptrWritten then qPut (qPut s fn q 152 (List.replicate 88 0)) fn q 244 (leBytes 4 0) else s
            let s := s.updQueue key (fun k => { k with rptrKey := none, rptrWritten := false })
            qRunnable (qPut s fn q 25 (leBytes 1 0)) fn q d.prio)

/-! ### Mapping (R65) -/

/-- The HKC and Scriptor run: the device is powered, not frozen, and runs an image that has passed (01 R31). -/
def deviceOn (s : State) : Bool := s.freezing == 0 && !s.tripped && !s.recovery
def freeThread (s : State) : Option Nat := (List.range 32).find? (fun t => (cget none s.threads t).isNone)

/-- Runnable queues that wait for a thread: those of contexts that have started (02 R37) and run. -/
def waiters (s : State) : List (Nat × Queue) :=
  s.queues.filter (fun e => e.2.st == 1 && ctxRuns s (e.1 / 512) && (s.ctx (e.1 / 512)).started)
/-- Mapped queues. -/
def mappedQueues (s : State) : List (Nat × Queue) := s.queues.filter (·.2.thread.isSome)
/-- The waiter that is mapped first: the lowest priority number, then the one that became runnable first. -/
def firstWaiter (s : State) : Option (Nat × Queue) :=
  (waiters s).foldl (fun b e => match b with
    | some x => if e.2.prio < x.2.prio ∨ (e.2.prio = x.2.prio ∧ e.2.order < x.2.order) then some e else some x
    | none => some e) none

/-- A queue gets a thread; its stacks come from its save field. -/
def qMap (s : State) (ctx q thread : Nat) : State :=
  match qDesc s ctx q with
  | (_, none) => s
  | (s, some d) =>
    let key := queueKey ctx q
    let (o, s) := s.tick
    let s := { s with threads := cset none s.threads thread (some key) }
    qStatus (s.updQueue key (fun k => { qLoad d k with thread := some thread, since := o })) ctx q 2

/-- QUEUE_MAP. -/
def execQueueMap (ctx q : Nat) (s : State) : Host.Outcome State Fault Refusal :=
  .next (match freeThread s, firstWaiter s with
    | some t, some w => if w.1 = queueKey ctx q ∧ q < 512 then qMap s ctx q t else s
    | _, _ => s)

/-- Every thread is taken, and the queue is the one that gives its thread up to a waiter of a higher priority: the oldest-mapped of the lowest
priority. -/
def mustYield (s : State) (k : Queue) : Bool :=
  k.thread.isSome && (freeThread s).isNone &&
  match firstWaiter s with
  | some w => decide (w.2.prio < k.prio) &&
      (mappedQueues s).all (fun e => decide (e.2.prio < k.prio) || (e.2.prio == k.prio && decide (k.since ≤ e.2.since)))
  | none => false

/-- QUEUE_PRIORITY_UNMAP: every thread is taken, and the queue is the oldest of the lowest mapped priority, below that of a
waiter, which takes its thread. DESIGN CHOICE: a queue that waits for the ring in a forward scan may be unmapped, and scans again from the start when
it is mapped again (log 115). -/
def execQueuePriorityUnmap (ctx q : Nat) (s : State) : Host.Outcome State Fault Refusal :=
  let k := s.queue (queueKey ctx q)
  .next (match k.thread, firstWaiter s with
    | some t, some w =>
      if deviceOn s && decide (q < 512) && k.used.isNone && mustYield s k then qMap (qUnmap s ctx q 1) (w.1 / 512) (w.1 % 512) t else s
    | _, _ => s)

/-- QUEUE_FAIRNESS_UNMAP: its arrival is the end of 2^20 cycles for which the queue has held its thread while a waiter of its
priority waits, every thread is taken, and no mapped queue has a priority below it. -/
def execQueueFairnessUnmap (ctx q : Nat) (s : State) : Host.Outcome State Fault Refusal :=
  let k := s.queue (queueKey ctx q)
  .next (if deviceOn s && decide (q < 512) && k.thread.isSome && k.used.isNone && (freeThread s).isNone &&
      (waiters s).any (fun w => w.2.prio == k.prio) && (mappedQueues s).all (fun e => decide (e.2.prio ≤ k.prio))
    then qUnmap s ctx q 1 else s)

/-- QUEUE_IDLE_UNMAP: everything in the ring has been read, and nothing is left to fetch elsewhere. -/
def execQueueIdleUnmap (ctx q : Nat) (s : State) : Host.Outcome State Fault Refusal :=
  let k := s.queue (queueKey ctx q)
  .next (if deviceOn s && decide (q < 512) && k.thread.isSome && k.calls.isEmpty then
      match qDesc s ctx q with
      | (s1, some d) => if d.rptr = d.wptr then qUnmap s1 ctx q 0 else s
      | (_, none) => s
    else s)

/-! ### A packet begins (R64, R67) -/

/-- A packet's fixed length; 0 where any length will do. -/
def pktLength (op : Nat) : Nat :=
  match op with
  | 0x00 => 0
  | 0x01 => 17
  | 0x02 | 0x04 | 0x05 | 0x08 | 0x11 => 5
  | 0x06 => 2
  | 0x0B | 0x0D | 0x0F | 0x10 | 0x12 => 3
  | 0x0E => 7
  | _ => 1
/-- The flag bits a packet defines, SERIAL aside. -/
def pktFlags (op : Nat) : Nat :=
  match op with
  | 0x04 | 0x08 | 0x10 => 7
  | 0x05 => 0x3F03
  | 0x11 | 0x13 => 1
  | _ => 0
def pktReserved (op : Nat) : Bool := op == 3 || decide (0x14 ≤ op)
/-- A header's length is not its packet's. -/
def pktLengthBad (op len : Nat) : Bool := len == 0 || (pktLength op != 0 && len != pktLength op)

/-- n dwords at a position: a ring dword index, or an address in a called buffer. -/
def dwordsAt (s : State) (ctx : Nat) (d : QDesc) (ring : Bool) (pos n : Nat) : State × Option (List Byte) :=
  if ring then
    let a := pos % 2 ^ d.lsize
    let k := min n (2 ^ d.lsize - a)
    match hubRead s ctx (d.ring + 4 * a) (4 * k) with
    | (s, none) => (s, none)
    | (s, some x) =>
      match hubRead s ctx d.ring (4 * (n - k)) with
      | (s, none) => (s, none)
      | (s, some y) => (s, some (x ++ y))
  else hubRead s ctx pos (4 * n)

/-- A position n dwords on. -/
def posAdd (ring : Bool) (pos n : Nat) : Nat := if ring then (pos + n) % 2 ^ 32 else (pos + 4 * n) % 2 ^ 64

/-- A packet about to act: its queue, where it stands, and what it holds. -/
structure Pkt where
  s : State
  ctx : Nat
  q : Nat
  d : QDesc
  ring : Bool
  pos : Nat
  len : Nat
  flags : Nat
  body : List Byte

def Pkt.next (p : Pkt) : Nat := posAdd p.ring p.pos p.len
/-- An 8-byte field of the body. -/
def Pkt.w (p : Pkt) (k : Nat) : Nat := field p.body (8 * k) 8
def Pkt.queue (p : Pkt) (s : State) : Queue := s.queue (queueKey p.ctx p.q)
def Pkt.upd (p : Pkt) (s : State) (f : Queue → Queue) : State := s.updQueue (queueKey p.ctx p.q) f

/-- A queue may go on. At a packet boundary (R66) its thread changes first to another firmware image that it is to run (R74, R75), and a queue that must
yield its thread does so (R65); an invocation of a prologue in progress goes on, also while the context is being saved (04 R92). -/
def mayGoOn (s : State) (thread ctx : Nat) (k : Queue) (inside : Bool) : Bool :=
  if k.used.isSome then inside && (ctxRuns s ctx || (deviceOn s && (s.ctx ctx).pState == 1))
  else ctxRuns s ctx && !s.fwSwitch.contains thread && !mustYield s k && (inside || !(k.blocked || k.prol.isSome))

/-- The header at a thread's packet boundary, or inside a packet: the state, where it is, and the header; or the state that comes of looking. -/
def pktHeader (s : State) (thread : Nat) (inside : Bool) : Except State (Pkt × Nat) :=
  match cget none s.threads thread with
  | none => .error s
  | some key =>
    let ctx := key / 512
    let q := key % 512
    let k := s.queue key
    if !mayGoOn s thread ctx k inside then .error s
    else
      match qDesc s ctx q with
      | (_, none) => .error s
      | (s1, some d) =>
        let ring := k.calls.isEmpty
        let pos := if ring then d.rptr else k.fetch
        if ring && d.rptr == d.wptr then .error s
        else
          match dwordsAt s1 ctx d ring pos 1 with
          | (s2, none) => .error (qFault s2 ctx q 0x07)
          | (s2, some h) =>
            let h := ofLE h
            .ok ({ s := s2, ctx := ctx, q := q, d := d, ring := ring, pos := pos, len := bitsN h 16 8, flags := bitsN h 0 16, body := [] }, h / 2 ^ 24)

/-- A packet of an opcode begins at a thread: its length, that its dwords are there, its flags, its body, and, unless it is in
the middle of its action, the wait for earlier work. -/
def pktBegin (s : State) (thread op : Nat) (inside : Bool := false) : Except State Pkt :=
  match pktHeader s thread inside with
  | .error s => .error s
  | .ok (p, op') =>
    if op' ≠ op then .error s
    else if pktLengthBad op p.len then .error (qFault p.s p.ctx p.q 0x02)
    else if p.ring && decide ((p.d.wptr + 2 ^ 32 - p.d.rptr) % 2 ^ 32 < p.len) then .error (qStatus s p.ctx p.q 3)
    else if (p.flags % 2 ^ 15) ||| pktFlags op ≠ pktFlags op then .error (qFault p.s p.ctx p.q 0x03)
    else
      let n := if op = 0 ∨ (op = 0x11 ∧ bitN p.flags 0) then 0 else p.len - 1
      match dwordsAt p.s p.ctx p.d p.ring (posAdd p.ring p.pos 1) n with
      | (s, none) => .error (qFault s p.ctx p.q 0x07)
      | (s, some b) =>
        if (bitN p.flags 15 || op == 0x05 || op == 0x13) && !inside && !(p.queue s).work.isEmpty then .error (qStatus s p.ctx p.q 2)
        else .ok { p with s := s, body := b }

/-- The queue goes on at a position. -/
def pktTo (p : Pkt) (s : State) (pos : Nat) : State :=
  let s := p.upd s (fun k => { k with prol := none, used := none, scanIf := false, blocked := false, watch := none, lineChanged := false })
  let s := if (p.queue s).calls.isEmpty then qPut s p.ctx p.q 16 (leBytes 4 (pos % 2 ^ 32)) else p.upd s (fun k => { k with fetch := pos })
  qStatus s p.ctx p.q 2
/-- The packet is complete. -/
def pktDone (p : Pkt) (s : State) : State := pktTo p s p.next
def pktFault (p : Pkt) (s : State) (code : Nat) : State := qFault s p.ctx p.q code
/-- The packet has started a unit of work. -/
def pktWork (p : Pkt) (s : State) (w : Work) : State := p.upd s (fun k => { k with work := k.work ++ [w] })

/-- The cycle counter of a thread after a packet (R57). -/
def threadSpends (s : State) (thread : Nat) : State :=
  let (n, s) := s.draw
  { s with threadCycle := cset 0 s.threadCycle thread (cget 0 s.threadCycle thread + Config.packetCycles n + 1) }

/-- What a packet does once it may act, the cycles of its thread counted elsewhere. -/
def pktStep (s : State) (thread op : Nat) (act : Pkt → State) (inside : Bool := false) : Host.Outcome State Fault Refusal :=
  .next (match pktBegin s thread op inside with
    | .error s => s
    | .ok p => act p)

/-- What a packet does once it may act. -/
def pktRun (s : State) (thread op : Nat) (act : Pkt → State) (inside : Bool := false) : Host.Outcome State Fault Refusal :=
  .next (match pktBegin s thread op inside with
    | .error s => s
    | .ok p => threadSpends (act p) thread)

/-! ### Forward scans (R68) -/

inductive ScanEnd where
  | found (pos op : Nat)        -- the position after the matching packet, and which one it is
  | wait                        -- at a ring dword that is not covered yet
  | fault (code : Nat)
  deriving DecidableEq, Repr

/-- The packet that matches at this nesting: `close`, or `alt`; `opn` opens a level. -/
def scanFwd (ctx : Nat) (d : QDesc) (ring : Bool) (opn close : Nat) (alt : Option Nat) : Nat → State → Nat → Nat → State × ScanEnd
  | 0, s, _, _ => (s, .fault 0x04)
  | n + 1, s, pos, nest =>
    let dist (x : Nat) : Nat := (x + 2 ^ 32 - d.rptr) % 2 ^ 32
    if ring && decide (dist d.wptr ≤ dist pos) then (s, .wait)
    else
      match dwordsAt s ctx d ring pos 1 with
      | (s, none) => (s, .fault (if ring then 0x07 else 0x04))
      | (s, some h) =>
        let op := ofLE h / 2 ^ 24
        let len := bitsN (ofLE h) 16 8
        let next := posAdd ring pos len
        if pktReserved op then (s, .fault 0x01)
        else if pktLengthBad op len then (s, .fault 0x02)
        else if op = 0x0C then (s, .fault 0x04)
        else if nest = 0 ∧ (op = close ∨ alt = some op) then (s, .found next op)
        else scanFwd ctx d ring opn close alt n s next (if op = opn then nest + 1 else if op = close then nest - 1 else nest)

/-- A scan from behind a packet. -/
def pktScan (p : Pkt) (s : State) (opn close : Nat) (alt : Option Nat) : State × ScanEnd :=
  scanFwd p.ctx p.d p.ring opn close alt (2 ^ 50) s p.next 0

/-! ### Control packets -/

/-- PKT_NOP. -/
def execPktNop (thread : Nat) (s : State) : Host.Outcome State Fault Refusal := pktRun s thread 0x00 (fun p => pktDone p p.s)

/-- PKT_LOOP. -/
def execPktLoop (thread : Nat) (s : State) : Host.Outcome State Fault Refusal :=
  pktRun s thread 0x06 (fun p =>
    let n := field p.body 0 4
    if n = 0 then
      match pktScan p p.s 0x06 0x07 none with
      | (s, .found pos _) => pktTo p s pos
      | (s, .wait) => qStatus s p.ctx p.q 3
      | (s, .fault c) => pktFault p s c
    else if 4 ≤ (p.queue p.s).loops.length then pktFault p p.s 0x04
    else pktDone p (p.upd p.s (fun k => { k with loops := (n, p.next) :: k.loops })))

/-- PKT_ENDLOOP. -/
def execPktEndloop (thread : Nat) (s : State) : Host.Outcome State Fault Refusal :=
  pktRun s thread 0x07 (fun p =>
    match (p.queue p.s).loops with
    | [] => pktFault p p.s 0x04
    | (n, pos) :: r =>
      if 1 < n then pktTo p (p.upd p.s (fun k => { k with loops := (n - 1, pos) :: r })) pos
      else pktDone p (p.upd p.s (fun k => { k with loops := r })))

/-- The comparison of a WAITMEM or an IF: its outcome and the line that it read, none in host memory; or the fault. -/
def pktCond (p : Pkt) (s : State) : State × Except Nat (Bool × Option Nat) :=
  let n := if bitN p.flags 2 then 8 else 4
  if p.w 0 % n ≠ 0 then (s, .error 0x0D)
  else
    match placeVa s (hubAgent p.ctx 5) .engR (p.w 0) with
    | (s, .error _) => (s, .error 0x07)
    | (s, .ok pl) =>
      let v := ofLE (readPlace s pl n).1
      let r := p.w 1 % 2 ^ (8 * n)
      let out := match bitsN p.flags 0 2 with
        | 0 => v == r
        | 1 => v != r
        | 2 => decide (r ≤ v)
        | _ => decide (v < r)
      let line := match pl with
        | .phys k => if keyKind k = 2 then none else some pl.line
        | _ => some pl.line
      (s, .ok (out, line))

/-- PKT_IF: evaluated once; while its scan waits for the ring its outcome stands. -/
def execPktIf (thread : Nat) (s : State) : Host.Outcome State Fault Refusal :=
  pktRun s thread 0x08 (fun p =>
    let skip (s : State) : State :=
      match pktScan p s 0x08 0x0A (some 0x09) with
      | (s, .found pos op) => pktTo p (if op = 0x09 then p.upd s (fun k => { k with conds := false :: k.conds }) else s) pos
      | (s, .wait) => qStatus (p.upd s (fun k => { k with scanIf := true })) p.ctx p.q 3
      | (s, .fault c) => pktFault p s c
    if 8 ≤ (p.queue p.s).conds.length then pktFault p p.s 0x04
    else if (p.queue p.s).scanIf then skip p.s
    else
      match pktCond p p.s with
      | (s, .error c) => pktFault p s c
      | (s, .ok (true, _)) => pktDone p (p.upd s (fun k => { k with conds := true :: k.conds }))
      | (s, .ok (false, _)) => skip s)

/-- PKT_ELSE: reached on the true path only. -/
def execPktElse (thread : Nat) (s : State) : Host.Outcome State Fault Refusal :=
  pktRun s thread 0x09 (fun p =>
    match (p.queue p.s).conds with
    | true :: r =>
      (match pktScan p p.s 0x08 0x0A none with
        | (s, .found pos _) => pktTo p (p.upd s (fun k => { k with conds := r })) pos
        | (s, .wait) => qStatus s p.ctx p.q 3
        | (s, .fault c) => pktFault p s c)
    | _ => pktFault p p.s 0x04)

/-- PKT_ENDIF. -/
def execPktEndif (thread : Nat) (s : State) : Host.Outcome State Fault Refusal :=
  pktRun s thread 0x0A (fun p =>
    match (p.queue p.s).conds with
    | [] => pktFault p p.s 0x04
    | _ :: r => pktDone p (p.upd p.s (fun k => { k with conds := r })))

/-- PKT_CALL: a call from the ring leaves the read index behind the CALL. -/
def execPktCall (thread : Nat) (s : State) : Host.Outcome State Fault Refusal :=
  pktRun s thread 0x0B (fun p =>
    if 4 ≤ (p.queue p.s).calls.length then pktFault p p.s 0x04
    else (pktDone p p.s).updQueue (queueKey p.ctx p.q) (fun k => { k with calls := p.next :: k.calls, fetch := p.w 0 }))

/-- PKT_RETURN. -/
def execPktReturn (thread : Nat) (s : State) : Host.Outcome State Fault Refusal :=
  pktRun s thread 0x0C (fun p =>
    match (p.queue p.s).calls with
    | [] => pktFault p p.s 0x04
    | a :: r => pktTo p (p.upd p.s (fun k => { k with calls := r, fetch := 0 })) a)

/-- PKT_JUMP. -/
def execPktJump (thread : Nat) (s : State) : Host.Outcome State Fault Refusal :=
  pktRun s thread 0x0D (fun p => if p.ring then pktFault p p.s 0x05 else pktTo p p.s (p.w 0))

/-- PKT_RESERVED_OPCODE. -/
def execPktReservedOpcode (thread : Nat) (s : State) : Host.Outcome State Fault Refusal :=
  .next (match pktHeader s thread false with
    | .error s => s
    | .ok (p, op) => if pktReserved op then pktFault p p.s 0x01 else s)

/-! ### Waiting and signalling (R68, R69) -/

/-- A WAITMEM is satisfied: what it read, every agent sees from then on (R69). -/
def waitmemMet (p : Pkt) (s : State) : State :=
  match placeVa s (hubAgent p.ctx 5) .engR (p.w 0) with
  | (s, .ok pl) => pktDone p (s.unhide pl (if bitN p.flags 2 then 8 else 4))
  | (s, .error _) => pktDone p s

/-- PKT_WAITMEM. -/
def execPktWaitmem (thread : Nat) (s : State) : Host.Outcome State Fault Refusal :=
  pktRun s thread 0x04 (fun p =>
    match pktCond p p.s with
    | (s, .error c) => pktFault p s c
    | (s, .ok (true, _)) => waitmemMet p s
    | (s, .ok (false, line)) => qStatus (p.upd s (fun k => { k with blocked := true, watch := line, lineChanged := false })) p.ctx p.q 3)

/-- A blocked WAITMEM is evaluated again. -/
def waitmemAgain (s : State) (thread : Nat) : Host.Outcome State Fault Refusal :=
  pktRun s thread 0x04 (fun p =>
    match pktCond p p.s with
    | (s, .error c) => pktFault p s c
    | (s, .ok (true, _)) => waitmemMet p s
    | (s, .ok (false, line)) => p.upd s (fun k => { k with watch := line, lineChanged := false })) true

/-- The queue of a thread. -/
def threadQueue (s : State) (thread : Nat) : Queue := ((cget none s.threads thread).map s.queue).getD {}

/-- WAITMEM_LINE_CHANGE: the monitor's line has changed. -/
def execWaitmemLineChange (thread : Nat) (s : State) : Host.Outcome State Fault Refusal :=
  if (threadQueue s thread).blocked && (threadQueue s thread).lineChanged then waitmemAgain s thread else .next s

/-- WAITMEM_HOST_POLL: its arrival is the end of 4,096 cycles since the last evaluation. -/
def execWaitmemHostPoll (thread : Nat) (s : State) : Host.Outcome State Fault Refusal :=
  if (threadQueue s thread).blocked && (threadQueue s thread).watch.isNone then waitmemAgain s thread else .next s

/-- PKT_SIGNAL. -/
def execPktSignal (thread : Nat) (s : State) : Host.Outcome State Fault Refusal :=
  pktRun s thread 0x05 (fun p =>
    if p.w 0 % 8 ≠ 0 then pktFault p p.s 0x0D
    else
      match placeVa p.s (hubAgent p.ctx 5) (if bitN p.flags 1 then .fabA else .engW) (p.w 0) with
      | (s, .error _) => pktFault p s 0x07
      | (s, .ok pl) =>
        let s := s.flush p.ctx
        let s := match pl with
          | .phys k => if keyKind k = 2 then landCtx s p.ctx else s
          | _ => s
        let (old, bad) := readPlace s pl 8
        let v := if bitN p.flags 1 then (ofLE old + p.w 1) % 2 ^ 64 else p.w 1
        let s := shareWrite s 512 p.ctx pl (leBytes 8 v) (bitN p.flags 1 && bad)
        pktDone p (if bitN p.flags 0 then s.raise p.ctx (bitsN p.flags 8 6) else s))

/-- PKT_FENCE. -/
def execPktFence (thread : Nat) (s : State) : Host.Outcome State Fault Refusal :=
  pktRun s thread 0x13 (fun p => pktDone p (if bitN p.flags 0 then p.s.flush p.ctx else p.s))

/-! ### Launches (R68, R70) -/

/-- A launch of the queue is accepted; it is work of the queue while it has not completed. -/
def pktAccept (p : Pkt) (s : State) (r : List Byte) : State × Bool :=
  match acceptLaunch s p.ctx (lrecOf r) (.queue p.q) 0 with
  | (s, none) => (s, false)
  | (s, some id) => (if (s.launch id).live then pktWork p s (.launch id) else s, true)

/-- PKT_LAUNCH. -/
def execPktLaunch (thread : Nat) (s : State) : Host.Outcome State Fault Refusal :=
  pktRun s thread 0x01 (fun p =>
    match pktAccept p p.s p.body with
    | (s, true) => pktDone p s
    | (s, false) => pktFault p s 0x07)

/-- A prologue's invocation n begins: its registers (R70). -/
def prologueStart (p : Pkt) (thread n : Nat) : State :=
  threadRegs p.s thread
    [(10, w64 (p.w 1)), (11, w64 n), (12, w64 p.q), (2, w64 (scriptorBase + stackBase thread + 4096)), (1, w64 (prologueReturn thread))]

/-- An invocation has returned with a code: what comes of it. DESIGN CHOICE: a record whose VA is not 64-byte aligned is read and launched (log 116). -/
def prologueEnd (p : Pkt) (n : Nat) (code : W64) (s : State) : State :=
  if code = 1 then pktDone p s
  else if 2 < code.toNat then pktFault p s 0x09
  else
    match hubRead s p.ctx (p.w 1) 64 with
    | (s, none) => pktFault p s 0x07
    | (s, some r) =>
      match pktAccept p s r with
      | (s, false) => pktFault p s 0x07
      | (s, true) => if code = 0 then pktDone p s else p.upd s (fun k => { k with prol := some (n + 1), used := none })

/-- What a thread holds after part of an invocation. -/
def prologueLeaves (thread before : Nat) (x : RvState) : State :=
  { x.s with
    threadPc := cset 0 x.s.threadPc thread (w64 x.pc),
    threadCycle := cset 0 x.s.threadCycle thread (cget 0 x.s.threadCycle thread + (x.cycles - before)) }

/-- The thread as its invocation n begins or goes on, run for some instructions. -/
def prologueGo (p : Pkt) (thread n : Nat) (result : Prologue) : Nat × RvEnd :=
  match (p.queue p.s).used with
  | some c => (c, rvRun thread p.ctx result.waits { s := p.s, pc := (cget 0 p.s.threadPc thread).toNat, cycles := c, before := c })
  | none => (0, rvRun thread p.ctx result.waits { s := prologueStart p thread n, pc := p.w 0 })

/-- Instructions of invocation n of a prologue, and what comes of it. -/
def prologueRun (p : Pkt) (thread n : Nat) (result : Prologue) : State :=
  match prologueGo p thread n result with
  | (c, .going y) => p.upd (prologueLeaves thread c y) (fun k => { k with prol := some n, used := some y.cycles })
  | (c, .returned y) => prologueEnd p n (rvGet y.s thread 10) (prologueLeaves thread c y)
  | (c, .trapped y) => pktFault p (prologueLeaves thread c y) 0x0A
  | (c, .stopped y) => pktFault p (prologueLeaves thread c y) 0x08

/-- PKT_LAUNCH_IND: the first invocation begins. -/
def execPktLaunchInd (thread : Nat) (result : Prologue) (s : State) : Host.Outcome State Fault Refusal :=
  pktStep s thread 0x02 (fun p => prologueRun p thread 0 result)

/-- PROLOGUE_REINVOKE: an invocation in progress goes on, or the next one begins. -/
def execPrologueReinvoke (thread : Nat) (result : Prologue) (s : State) : Host.Outcome State Fault Refusal :=
  match (threadQueue s thread).prol with
  | some n => pktStep s thread 0x02 (fun p => prologueRun p thread n result) true
  | none => .next s

/-- PROLOGUE_BUDGET_EXPIRY: the invocation in progress uses up its 65,536 cycles; it is stopped, and what it has done stands. -/
def execPrologueBudgetExpiry (thread : Nat) (stopped : Prologue) (s : State) : Host.Outcome State Fault Refusal :=
  match (threadQueue s thread).prol with
  | some n => pktStep s thread 0x02 (fun p =>
      match prologueGo p thread n stopped with
      | (c, .stopped y) => pktFault p (prologueLeaves thread c y) 0x08
      | _ => p.s) true
  | none => .next s

/-! ### Copies -/

/-- PKT_COPY: every page is translated at acceptance. -/
def execPktCopy (thread : Nat) (s : State) : Host.Outcome State Fault Refusal :=
  pktRun s thread 0x0E (fun p =>
    let n := p.w 2
    if n = 0 then pktDone p p.s
    else
      match placesOf p.s (hubAgent p.ctx 5) .engR (piecesOf (p.w 0) n) with
      | (s, .error _) => pktFault p s 0x07
      | (s, .ok _) =>
        match placesOf s (hubAgent p.ctx 5) .engW (piecesOf (p.w 1) n) with
        | (s, .error _) => pktFault p s 0x07
        | (s, .ok _) => pktDone p (pktWork p s (.copy (p.w 0) (p.w 1) n p.d.rptr)))

/-- The first copy of a list of work takes another's place, or leaves. -/
def setCopy (w : Option Work) : List Work → List Work
  | [] => []
  | .copy .. :: r => (match w with
    | some w => w :: r
    | none => r)
  | x :: r => x :: setCopy w r

/-- n bytes copied, the poison with them; whether every byte had a place. -/
def copyBytes (s : State) (ctx src dst n : Nat) : State × Bool :=
  let a := hubAgent ctx 5
  match readVa s a .engR src n with
  | (s, .error _) => (s, false)
  | (s, .ok (bs, _)) =>
    match writeMarked s a .engW dst bs (poisonBytes s a .engR src n) with
    | (s, .error _) => (s, false)
    | (s, .ok ()) => (s, true)

/-- COPY_PACKET_COMPLETE: the first copy of a queue moves a free number of its bytes, and is complete once it has moved all.
Overlapping ranges leave the destination undefined. A page that has gone faults the queue, at the COPY (R71). -/
def execCopyPacketComplete (ctx q : Nat) (s : State) : Host.Outcome State Fault Refusal :=
  let key := queueKey ctx q
  .next (match (s.queue key).work.find? (fun w => match w with
      | .copy .. => true
      | _ => false) with
    | some (.copy src dst n idx) =>
      if !ctxRuns s ctx || 512 ≤ q then s
      else
        let (c, s) := s.draw
        let (s, ok, k) :=
          if src < dst + n ∧ dst < src + n then
            match writeVa s (hubAgent ctx 5) .engW dst ((List.range n).map (Config.undefByte c)) with
            | (s, .ok ()) => (s, true, n)
            | (s, .error _) => (s, false, n)
          else
            let k := Config.choice c % n + 1
            let (s, ok) := copyBytes s ctx src dst k
            (s, ok, k)
        let rest := if ok && decide (k < n) then some (Work.copy (src + k) (dst + k) (n - k) idx) else none
        let s := s.updQueue key (fun x => { x with work := setCopy rest x.work })
        if ok || (s.queue key).st == 4 || !(s.queue key).live then s else qFault s ctx q 0x07 (some idx)
    | _ => s)

/-! ### Other engines -/

/-- PKT_DX_RUN (06 R116). -/
def execPktDxRun (thread : Nat) (s : State) : Host.Outcome State Fault Refusal :=
  pktRun s thread 0x10 (fun p =>
    let va := p.w 0
    if va % 64 ≠ 0 then pktFault p p.s 0x07
    else
      match hubRead p.s p.ctx va 192 with
      | (s, none) => pktFault p s 0x07
      | (s, some bs) =>
        if !doneRecOk s p.ctx bs then pktFault p s 0x07
        else
          match freeHandle s p.ctx with
          | none => s
          | some h => pktDone p (pktWork p (dxStart s p.ctx h bs (bitsN p.flags 0 3) none) (.run h)))

/-- A held translation maps a page that a range of n bytes at va overlaps. -/
def Held.inRange (h : Held) (va n : Nat) : Bool :=
  let b := h.page * 65536 / 2 ^ h.bits * 2 ^ h.bits
  decide (b < va + n ∧ va < b + 2 ^ h.bits ∧ 0 < n)

/-- The translations of a context that are hit leave every register and cache (10 R200). -/
def invalidate (s : State) (ctx : Nat) (hit : Held → Bool) : State :=
  let keep (l : List Held) : List Held := l.filter (fun h => !(h.ctx == ctx && hit h))
  let prune (m : Cells (List Held)) : Cells (List Held) := (m.map (fun (e : Nat × List Held) => (e.1, keep e.2))).filter (fun e => e.2 != [])
  { s with
    teams := mapCells (fun _ t => if (s.crew t.crew).ctx = ctx then { t with lastPage := prune t.lastPage } else t) s.teams,
    cores := mapCells (fun _ k => { k with tlb := keep k.tlb, ptlb := prune k.ptlb }) s.cores }

/-- The translation that a drafted store was made with. -/
def Draft.held (ctx : Nat) : Draft → Option Held
  | .store va key _ _ bits _ => some { ctx := ctx, page := va / 65536, kind := keyKind key, home := keyDie key,
                                       frame := key % 2 ^ 52 / 65536 * 65536, perm := 7, bits := bits, dirty := true }
  | _ => none

/-- Every access of a context that was translated is performed (10 R200, 02 R42): its teams' loads, and the drafts of a crew of which one
was translated as `hit` says; such a crew stops being idempotent (log 101). -/
def performPending (s : State) (ctx : Nat) (hit : Held → Bool) : State :=
  let s := s.crews.foldl (fun s e =>
    if e.2.ctx == ctx && e.2.drafts.any (fun d => (d.held ctx).any hit) then endIdem s e.1 else s) s
  s.teams.foldl (fun s e => if (s.crew e.2.crew).ctx == ctx then closeLate s e.1 else s) s

/-- PKT_INVAL. -/
def execPktInval (thread : Nat) (s : State) : Host.Outcome State Fault Refusal :=
  pktRun s thread 0x11 (fun p =>
    let hit (h : Held) : Bool := bitN p.flags 0 || h.inRange (p.w 0) (p.w 1)
    pktDone p (performPending (invalidate p.s p.ctx hit) p.ctx hit))

/-- PKT_REPLAY. -/
def execPktReplay (thread : Nat) (s : State) : Host.Outcome State Fault Refusal :=
  pktRun s thread 0x12 (fun p => frReplay (pktDone p p.s) p.ctx (p.w 0))

/-! ### Graphs (05 R102 to R104) -/

/-- The records of an array. -/
def recordsOf (bs : List Byte) (n : Nat) : List (List Byte) := (List.range n).map (fun i => (bs.drop (64 * i)).take 64)

/-- A task's successor ids. -/
def recSucc (r : List Byte) : List Nat := (List.range (min 4 (field r 28 1))).map (fun k => field r (32 + 4 * k) 4)
def recOwn (r : List Byte) : Option Nat := if field r 24 4 = 0xFFFFFFFF then none else some (field r 24 4)

/-- References to a counter. -/
def refsTo (rs : List (List Byte)) (c : Nat) : Nat := ((rs.map (fun r => ((recSucc r).filter (· == c)).length)).foldl (· + ·) 0)

/-- The first task, in ascending index, that fails a check, and the error: its shape, its counters' range, a counter owned already, and
references to its counter by all tasks `rs`. DESIGN CHOICE: of the errors of one task the first in the order 4, 2, 5, 3 is reported (log 70). -/
def graphTaskErr (lim : Nat) (rs : List (List Byte)) : Nat → List Nat → List (List Byte) → Option (Nat × Nat)
  | _, _, [] => none
  | i, seen, r :: rest =>
    let own := (recOwn r).toList
    if !taskShapeOk r then some (i, 4)
    else if (own ++ recSucc r).any (fun c => decide (lim ≤ c)) then some (i, 2)
    else if own.any seen.contains then some (i, 5)
    else if own.any (fun c => decide (65535 < refsTo rs c)) then some (i, 3)
    else graphTaskErr lim rs (i + 1) (own ++ seen) rest

/-- One pass over the tasks: a task is ranked once all its internal successors are (R103). -/
def rankPass (rs : List (List Byte)) (ranks : List (Option Nat)) : List (Option Nat) :=
  let byOwn (c : Nat) : Option (Option Nat) := (rs.findIdx? (fun r => recOwn r == some c)).map (fun i => ranks.getD i none)
  (rs.zip ranks).map (fun (e : List Byte × Option Nat) => match e.2 with
    | some r => some r
    | none =>
      let l := (recSucc e.1).filterMap byOwn
      if l.any (·.isNone) then none else some (min 65535 (field e.1 29 1 + (l.filterMap id).foldl max 0)))

def ranksOf (rs : List (List Byte)) : Nat → List (Option Nat) → List (Option Nat)
  | 0, l => l
  | n + 1, l => if l.all (·.isSome) then l else ranksOf rs n (rankPass rs l)

/-- The outcome of sealing: the error and the index of its task, or each task's rank. -/
def sealOf (lim : Nat) (rs : List (List Byte)) : Except (Nat × Nat) (List Nat) :=
  match graphTaskErr lim rs 0 [] rs with
  | some e => .error e
  | none =>
    let l := ranksOf rs rs.length (rs.map (fun _ => none))
    match l.findIdx? (·.isNone) with
    | some i => .error (i, 1)
    | none => .ok (l.filterMap id)

/-- A sealed record. -/
def sealRecord (rs : List (List Byte)) (job i rank : Nat) (r : List Byte) : List Byte :=
  let init := ((recOwn r).map (refsTo rs)).getD 0
  setField (setField (setField (setField (setField r 30 2 rank) 48 4 job) 52 1 0) 54 2 init) 56 4 i

/-- A header's own fields are right (R102). -/
def graphHeadOk (h : List Byte) : Bool :=
  decide (1 ≤ field h 8 4 ∧ field h 8 4 ≤ 65536 ∧ field h 13 1 ≤ 3) && field h 24 40 == 0

/-- The job of a graph completes at once as BAD_GRAPH. -/
def badGraph (p : Pkt) (s : State) (job info : Nat) : State :=
  let s := s.updCtx p.ctx (fun c => { c with jobLastQ := cset none c.jobLastQ job (some p.q) })
  pktDone p (jobComplete (jobStatus s p.ctx job 1 info) p.ctx job)

/-- A graph is sealed: the header and the records as they then stand; none where it is bad, and its job is complete. -/
def sealGraph (p : Pkt) (s : State) (va : Nat) (h : List Byte) (rs : List (List Byte)) : Except State (State × List Byte × List (List Byte)) :=
  let job := field h 12 1
  let bad (err info : Nat) : Except State (State × List Byte × List (List Byte)) :=
    .error (badGraph p (hubWrite s p.ctx (va + 14) (leBytes 1 2 ++ leBytes 1 err)) job info)
  if !graphHeadOk h then bad 4 0xFFFFFFFF
  else
    match sealOf (256 * (s.ctx p.ctx).ctrCount) rs with
    | .error (i, e) => bad e i
    | .ok ranks =>
      let rs' := ((List.range rs.length).zip (ranks.zip rs)).map (fun (e : Nat × Nat × List Byte) => sealRecord rs job e.1 e.2.1 e.2.2)
      let owned := rs.filterMap recOwn
      let (n, s) := s.draw
      let (lo, hi) := match owned with
        | [] => (ofLE ((List.range 4).map (Config.undefByte n)), ofLE ((List.range 4).map (fun i => Config.undefByte n (4 + i))))
        | c :: r => (r.foldl min c, r.foldl max c)
      let h' := setField (setField (setField (setField h 16 4 lo) 20 4 hi) 15 1 0) 14 1 1
      let s := hubWrite s p.ctx (field h 0 8) rs'.flatten
      .ok (hubWrite s p.ctx va h', h', rs')

/-- A sealed graph is submitted, once no earlier submission of it and no graph with a counter in its range is in flight, and no counter that
is to gate a task of it still gates a task of an ENQ (log 108). -/
def submitGraph (p : Pkt) (s : State) (va : Nat) (h : List Byte) (rs : List (List Byte)) : State :=
  let job := field h 12 1
  let q := field h 13 1 % 4
  let ctx := p.ctx
  let ts := ((List.range rs.length).zip rs).map (fun (e : Nat × List Byte) => taskOf (field h 0 8 + 64 * e.1) q e.2)
  let gated (t : Task) : Bool := t.own != 0xFFFFFFFF && t.init != 0
  let busy := (s.ctx ctx).graphs.any (fun g => g.va == va || g.owned.any (fun c => decide (field h 16 4 ≤ c ∧ c ≤ field h 20 4))) ||
    ts.any (fun t => gated t && gateTaken s ctx t)
  if busy then s
  else
    let s := s.updCtx ctx (fun c => { c with
      jobLastQ := cset none c.jobLastQ job (some p.q), graphs := c.graphs ++ [{ va := va, job := job, owned := rs.filterMap recOwn }] })
    let s := jobAdd s ctx job rs.length
    let s := if (p.queue s).work.contains (.job job) then s else pktWork p s (.job job)
    let s := ts.foldl (fun s t =>
      let s := if t.own = 0xFFFFFFFF then s else depPut s ctx t.own t.init
      if gated t then parkTask s ctx t else s) s
    pktDone p ((ts.filter (fun t => !gated t)).foldl (fun s t => makeReady s ctx t) s)

/-- PKT_GRAPH_SUBMIT. -/
def execPktGraphSubmit (thread : Nat) (s : State) : Host.Outcome State Fault Refusal :=
  pktRun s thread 0x0F (fun p =>
    let va := p.w 0
    match hubRead p.s p.ctx va 64 with
    | (s, none) => pktFault p s 0x07
    | (s, some h) =>
      let job := field h 12 1
      let st := field h 14 1
      if st = 2 then badGraph p s job 0xFFFFFFFF
      else
        let n := if st = 0 && !graphHeadOk h then 0 else field h 8 4
        match hubRead s p.ctx (field h 0 8) (64 * n) with
        | (s, none) => pktFault p s 0x07
        | (s, some bs) =>
          let rs := recordsOf bs n
          if st ≠ 0 then submitGraph p s va h rs
          else
            match placesOf s (hubAgent p.ctx 5) .engW (piecesOf va 64 ++ piecesOf (field h 0 8) (64 * n)) with
            | (s, .error _) => pktFault p s 0x07
            | (s, .ok _) =>
              match sealGraph p s va h rs with
              | .error s => s
              | .ok (s, h, rs) => submitGraph p s va h rs)

end Sys2Proof.Machine
end

