-- ==== Sys2Proof/Machine/Sha.lean ====
section
/-! DEFINITION. SHA-384, by which the root of trust knows its key (01 R31) and an image is measured (02 R56). The spec names the function
and does not define it: it is that of FIPS 180-4 (log 123). -/

namespace Sys2Proof.Machine

/-- The integer part of the k-th root of n, in at most `bits` bits. -/
def rootFloor (k n : Nat) : Nat → Nat → Nat
  | 0, r => r
  | bits + 1, r => rootFloor k n bits (if (r + 2 ^ bits) ^ k ≤ n then r + 2 ^ bits else r)

/-- The first n primes. -/
def primesTo (n : Nat) : List Nat := ((List.range 420).filter (fun p => decide (2 ≤ p) && (span 2 (p - 2)).all (fun d => p % d != 0))).take n

/-- The constants: the first 64 bits of the fractional parts of the cube roots of the first 80 primes. -/
def shaK : List W64 := (primesTo 80).map (fun p => w64 (rootFloor 3 (p * 2 ^ 192) 68 0))
/-- The first hash value of SHA-384: likewise of the square roots of the ninth to sixteenth primes. -/
def shaInit : List W64 := ((primesTo 16).drop 8).map (fun p => w64 (rootFloor 2 (p * 2 ^ 128) 68 0))

/-- An integer of n bytes, its most significant byte first. -/
def beBytes (n v : Nat) : List Byte := (leBytes n v).reverse
def ofBE (l : List Byte) : Nat := ofLE l.reverse

/-- The message schedule, newest word first. -/
def shaSchedule : Nat → List W64 → List W64
  | 0, w => w
  | n + 1, w =>
    let a := w.getD 1 0
    let b := w.getD 14 0
    shaSchedule n ((((a.rotateRight 19) ^^^ (a.rotateRight 61) ^^^ (a >>> 6)) + w.getD 6 0 +
      ((b.rotateRight 1) ^^^ (b.rotateRight 8) ^^^ (b >>> 7)) + w.getD 15 0) :: w)

/-- One round, with its constant and its word. -/
def shaRound (v : List W64) (kw : W64 × W64) : List W64 :=
  let a := v.getD 0 0
  let e := v.getD 4 0
  let t1 := v.getD 7 0 + ((e.rotateRight 14) ^^^ (e.rotateRight 18) ^^^ (e.rotateRight 41)) + ((e &&& v.getD 5 0) ^^^ ((~~~e) &&& v.getD 6 0)) + kw.1 + kw.2
  let t2 := ((a.rotateRight 28) ^^^ (a.rotateRight 34) ^^^ (a.rotateRight 39)) + ((a &&& v.getD 1 0) ^^^ (a &&& v.getD 2 0) ^^^ (v.getD 1 0 &&& v.getD 2 0))
  [t1 + t2, a, v.getD 1 0, v.getD 2 0, v.getD 3 0 + t1, e, v.getD 5 0, v.getD 6 0]

/-- One block of 128 bytes. -/
def shaBlock (h : List W64) (b : List Byte) : List W64 :=
  let w := (List.range 16).map (fun i => w64 (ofBE ((b.drop (8 * i)).take 8)))
  let ws := (shaSchedule 64 w.reverse).reverse
  ((shaK.zip ws).foldl shaRound h).zipWith (· + ·) h

/-- Blocks, the message's first. -/
def shaBlocks : Nat → List W64 → List Byte → List W64
  | 0, h, _ => h
  | n + 1, h, b => shaBlocks n (shaBlock h (b.take 128)) (b.drop 128)

/-- SHA-384 of a message. -/
def sha384 (m : List Byte) : List Byte :=
  let z := (239 - m.length % 128) % 128
  let p := m ++ [0x80] ++ List.replicate z 0 ++ beBytes 16 (8 * m.length)
  ((shaBlocks (p.length / 128) shaInit p).take 6).flatMap (fun x => beBytes 8 x.toNat)

end Sys2Proof.Machine
end

