-- ==== Sys2Proof/Machine/Health.lean ====
section
/-! DEFINITION. The housekeeping controller's loops: the health log (01 R25), clocks, heat and the power brake (R15, R18 to R20),
soft errors and row tests (R21 to R24, 04 R85), ageing (R26), and boot and reset (R31 to R33). -/

namespace Sys2Proof.Machine

/-! ### The health log (R25) -/

/-- What an entry says. -/
structure Health where
  kind : Nat
  verdict : Nat := 0xFF
  struct : Nat := 0xFF
  die : Nat := 4
  core : Nat := 0xFFFF
  bit : Nat := 0xFFFF
  row : Nat := 0
  merged : Nat := 0

def Health.bytes (e : Health) (cycles seq : Nat) : List Byte :=
  leBytes 1 e.kind ++ leBytes 1 e.verdict ++ leBytes 1 e.struct ++ leBytes 1 e.die ++ leBytes 2 e.core ++ leBytes 2 e.bit ++
  leBytes 8 e.row ++ leBytes 8 cycles ++ leBytes 4 seq ++ leBytes 4 e.merged

/-- The place of entry i of the ring. -/
def elogKey (s : State) (i : Nat) : Nat :=
  let b := s.elogBase.toNat
  physKey (bitsN b 2 2) (bitsN b 0 2) (bitsN b 12 40 * 4096 + 32 * (i % s.elogSize))

/-- An entry is logged: its sequence number is taken, and it is written where the log is enabled. -/
def logEntry (s : State) (e : Health) : State :=
  let seq := (s.elogSeq + 1) % 2 ^ 32
  let (n, s) := s.draw
  let s := { s with elogSeq := seq }
  if s.elogBase = 0 then s
  else
    let s := homePut s (elogKey s s.elogHead) (e.bytes (Config.hkcCycles n) seq)
    let s := { s with elogHead := (s.elogHead + 1) % 2 ^ 32 }
    if bitN s.elogCtl.toNat 0 then s.raise 0 (bitsN s.elogCtl.toNat 8 6) else s

/-- An event that is logged without a kind of its own: the kind is free. -/
def logOther (s : State) : State :=
  let (n, s) := s.draw
  logEntry s { kind := (Config.undefByte n 0).toNat }

/-- The entries of the ring, the oldest first. -/
def elogEntries (s : State) : List (List Byte) :=
  if s.elogBase = 0 then []
  else
    let n := min s.elogHead s.elogSize
    (List.range n).map (fun i => s.homeBytes (elogKey s (s.elogHead - n + i)) 32)

/-! ### Clocks, heat and the power brake (R15, R18 to R20) -/

def dieCores (d : Nat) : List Nat := span (128 * d) 128

/-- The clock and the matrix budgets that the causes in force allow a die. -/
def dieLimits (s : State) (d : Nat) : State :=
  let cores := dieCores d
  let die := s.die d
  let hot100 := cores.any (fun c => decide (100 ≤ (s.core c).degC))
  let therm := if hot100 then die.thermMhz else 1000
  let mhz := if s.pwrbrk then 800 else therm
  let hot110 := mhz == 800 && cores.any (fun c => decide (110 ≤ (s.core c).degC))
  let cap := if s.pwrbrk || hot110 then 16 else 64
  let s := s.setDie d { die with mhz := mhz, thermMhz := therm, hot100 := hot100, hot110 := hot110 }
  -- a change of the cap takes effect from the next window (08 R176)
  cores.foldl (fun s c => s.updCore c (fun k => if k.govCap = cap then k else { govAt k (k.cycle / 64) with govCap := cap })) s

/-- The thermal trip: new launches stop, the alert is raised, the compute dies lose power, and the host and the peers lose
the chip. -/
def thermalTrip (s : State) : State :=
  let s := { s with
    tripped := true, alert := true, answers := s.answers ++ [(.i3c, .alert)],
    links := cset true (cset true s.links 0 false) 1 false,
    ports := mapCells (fun _ p => { p with up := false }) s.ports }
  (List.range 4).foldl (fun s d => s.setDie d { s.die d with powered := false }) s

/-- THERMAL_SENSOR_EVENT: a core's hotspot reads a temperature. -/
def execThermalSensorEvent (core degC : Nat) (s : State) : Host.Outcome State Fault Refusal :=
  let d := core / 128
  .next (if !deviceOn s || 512 ≤ core then s
    else
      let s := s.updCore core (fun k => { k with degC := degC, hot := decide (90 ≤ degC) })
      if 115 ≤ degC then thermalTrip (logEntry s { kind := 3, die := d, core := core })
      else
        let s := if degC < 100 then s
          else logEntry (s.setDie d { s.die d with thermMhz := max 800 ((s.die d).thermMhz - 50) }) { kind := 3, die := d, core := core }
        dieLimits s d)

/-- The HKC follows PWRBRK_N: it imposes the limits of an assertion, which is logged, and lifts them with the deassertion. -/
def brakeFollow (s : State) : State :=
  if !deviceOn s || s.brakePin == s.pwrbrk then s
  else (List.range 4).foldl dieLimits (if s.brakePin then logEntry { s with pwrbrk := true } { kind := 4 } else { s with pwrbrk := false })

/-- PWRBRK_N_ASSERT. -/
def execPwrbrkNAssert (s : State) : Host.Outcome State Fault Refusal := .next (brakeFollow { s with brakePin := true })

/-- PWRBRK_N_DEASSERT. -/
def execPwrbrkNDeassert (s : State) : Host.Outcome State Fault Refusal := .next (brakeFollow { s with brakePin := false })

/-- DROOP_DETECT: the die's cycles are stretched. -/
def execDroopDetect (die : Nat) (s : State) : Host.Outcome State Fault Refusal :=
  .next (if deviceOn s && decide (die < 4) then s.setDie die { s.die die with droop := true } else s)

/-- DROOP_END. -/
def execDroopEnd (die : Nat) (s : State) : Host.Outcome State Fault Refusal :=
  .next (if deviceOn s && decide (die < 4) then s.setDie die { s.die die with droop := false } else s)

/-- ADAPTIVE_VOLTAGE_ADJUST. -/
def execAdaptiveVoltageAdjust (die millivolt : Nat) (s : State) : Host.Outcome State Fault Refusal :=
  .next (if deviceOn s && decide (die < 4) then s.setDie die { s.die die with millivolt := millivolt } else s)

/-- LANE_RETRAIN: no flit is dropped; a low margin is logged, at a row that the spec does not number. -/
def execLaneRetrain (port lane : Nat) (marginLow : Bool) (s : State) : Host.Outcome State Fault Refusal :=
  .next (if deviceOn s && marginLow && decide (port < 16 ∧ lane < 8) then
      let (n, s) := s.draw
      logEntry s { kind := 5, row := Config.choice n % 2 ^ 64 }
    else s)

/-! ### Soft errors (R22 to R24) -/

/-- A structure that belongs to one core alone (04 R85). -/
def coreStruct (n : Nat) : Bool := n ≤ 4 || n == 9

/-- A core is retired, and that is logged. -/
def retireCore (s : State) (core : Nat) : State :=
  logEntry (s.updCore core (fun k => { k with retired := true })) { kind := 6, die := core / 128, core := core }

/-- The entry of a corrected error. -/
def correctedEntry (p : EccPlace) (bit verdict merged : Nat) : Health :=
  { kind := 0, verdict := verdict, struct := p.struct, die := p.die, core := p.core, bit := bit, row := p.row, merged := merged }

/-- ECC_CORRECTED_ERROR: the row is queued for its test; it is counted where it is queued already, and logged as untested where
16 are (R22, R23). One that the LPDDR-6 link ECC has corrected or retried on a channel is counted for the channel alone (R21). -/
def execEccCorrectedError (at_ : EccSite) (bit : Nat) (s : State) : Host.Outcome State Fault Refusal :=
  .next (if !deviceOn s then s
    else match at_ with
      | .channel c => { s with linkEcc := cset 0 s.linkEcc (c % 128) (cget 0 s.linkEcc (c % 128) + 1) }
      | .row p =>
        if s.tests.any (·.place == p) then
          { s with tests := s.tests.map (fun t => if t.place = p then { t with merged := t.merged + 1 } else t) }
        else if 16 ≤ s.tests.length then logEntry s (correctedEntry p bit 3 0)
        else { s with tests := s.tests ++ [{ place := p, bit := bit }] })

/-- ROW_TEST_COMPLETE: a queued row has had its test on a spare, which is released where the row passed and keeps its place
where it failed; with no spare free the row stays in service untested, and a core whose own structure it is of is retired
(R22, 04 R85). -/
def execRowTestComplete (row : Nat) (passed : Bool) (s : State) : Host.Outcome State Fault Refusal :=
  .next (match s.tests[row]? with
    | some t =>
      if !deviceOn s then s
      else
        let s := { s with tests := s.tests.eraseIdx row }
        if s.spares = 0 then
          let s := logEntry s (correctedEntry t.place t.bit 2 t.merged)
          if coreStruct t.place.struct && decide (t.place.core < 512) then retireCore s t.place.core else s
        else if passed then logEntry s (correctedEntry t.place t.bit 0 t.merged)
        else logEntry { s with spares := s.spares - 1 } (correctedEntry t.place t.bit 1 t.merged)
    | none => s)

/-- The forms that the L1s, or the margin caches, keep, with one's copy of a word poisoned. -/
def poisonForm (s : State) (l : List StaleWord) (i word : Nat) : List StaleWord × State :=
  let (n, s) := s.draw
  let e := (formOf l i word).getD (formNow s i (.phys (8 * word)) n)
  (l.filter (fun x => !(x.core == i && x.word == word)) ++ [{ e with bad := true }], s)

/-- A word becomes poisoned. -/
def poisonAt (s : State) : PoisonWord → State
  | .home kind die addr => { s with poison := poisonAfter s.poison (physKey kind die addr / 8 * 8) 8 true }
  | .scratch crew off => s.updCrew crew (fun c => { c with scratchPoison := poisonAfter c.scratchPoison (off / 8 * 8) 8 true })
  | .vreg team reg lane => s.updTeam team (fun t => { t with vPoison := insertNew t.vPoison (reg * 1024 + lane) })
  | .sreg team reg => s.updTeam team (fun t => { t with sPoison := insertNew t.sPoison reg })
  | .accRow crew row => s.updCrew crew (fun c => { c with accPoison := insertNew c.accPoison row })
  | .tile crew tile =>
    let (n, s) := s.draw
    s.updCrew crew (fun c => c.setTile tile { c.tile tile with
      poison := insertNew (c.tile tile).poison (8 * (Config.choice n % ((c.tile tile).size / 8 + 1))) })
  | .draft crew ix => s.updCrew crew (fun c => { c with drafts := match c.drafts[ix]? with
      | some (.store va key bytes _ bits hint) => listSet c.drafts ix (.store va key bytes true bits hint)
      | _ => c.drafts })
  | .l1 core word =>
    if holdsLine s.caches.l1 core (word / 8) then
      let (l, s) := poisonForm s s.caches.l1Old core word
      { s with caches := { s.caches with l1Old := l } }
    else s
  | .margin die word =>
    if holdsLine s.caches.margin die (word / 8) then
      let (l, s) := poisonForm s s.caches.marginOld die word
      { s with caches := { s.caches with marginOld := l } }
    else s
  | .queue team q ix lane => s.updTeam team (fun t =>
      let k := cget {} t.queues q
      { t with queues := cset {} t.queues q { k with entries := match k.entries[ix]? with
        | some e => listSet k.entries ix { e with poison := e.poison.orElse (fun _ => some (.data lane)) }
        | none => k.entries } })
  | .scriptor off => { s with scriptorPoison := poisonAfter s.scriptorPoison (off % 0x80000 / 8 * 8) 8 true }
  | .none => s

/-- ECC_UNCORRECTABLE_ERROR: logged, whether or not the word is ever consumed. -/
def execEccUncorrectableError (at_ : EccPlace) (word : PoisonWord) (s : State) : Host.Outcome State Fault Refusal :=
  .next (if deviceOn s then
      logEntry (poisonAt s word) { kind := 1, struct := at_.struct, die := at_.die, core := at_.core, row := at_.row }
    else s)

/-! ### Ageing (R26) -/

/-- A die's predicted life; below 8,760 hours it is logged, once. -/
def lifeIs (s : State) (e : Nat × Nat) : State :=
  let s := { s with lifeHours := cset none s.lifeHours e.1 (some e.2) }
  if e.2 < 8760 ∧ !s.lifeAlerted.contains e.1 then
    logEntry { s with lifeAlerted := s.lifeAlerted ++ [e.1] } { kind := 2, die := e.1 }
  else s
def livesAre (s : State) (hours : List Nat) : State := ((List.range 5).zip hours).foldl lifeIs s

/-- AGEING_FIRST_ESTIMATE: its arrival is the end of 2^40 cycles of operation. -/
def execAgeingFirstEstimate (hours : List Nat) (s : State) : Host.Outcome State Fault Refusal :=
  .next (if deviceOn s && !s.lifeStarted then livesAre { s with lifeStarted := true } hours else s)

/-- AGEING_UPDATE: its arrival is the end of 2^32 cycles; a figure reads 0xFFFF_FFFF until the first estimate. -/
def execAgeingUpdate (hours : List Nat) (s : State) : Host.Outcome State Fault Refusal :=
  .next (if deviceOn s && s.lifeStarted then livesAre s hours else s)

/-! ### Boot and reset (R31 to R33, 03 R75) -/

/-- A slot's image as the root of trust reads it. -/
def imageOf (s : State) (slot : Nat) : List Byte :=
  let f := cget {} s.fwSlots slot
  (List.range f.len).map (fun i => cget 0 f.bytes i)
def imageVersion (s : State) (slot : Nat) : Nat := Config.imageVersion (imageOf s slot)
/-- A slot holds an image, its signature is right, the key is the fused one's, and the version is not below the fuse. -/
def imageOk (s : State) (slot : Nat) : Bool :=
  !(imageOf s slot).isEmpty && Config.imageSigned (imageOf s slot) && sha384 (Config.imageKey (imageOf s slot)) == Config.fusedKeyHash &&
  decide (s.fwFuse ≤ imageVersion s slot)

/-- The root of trust boots the active slot, else the other one, which is logged, else enters recovery. -/
def boot (s : State) : State :=
  if imageOk s s.fwActive then { s with recovery := false }
  else if imageOk s (1 - s.fwActive) then logOther { s with fwActive := 1 - s.fwActive, recovery := false }
  else { s with recovery := true }

/-- The machine at a device reset: what memory, the firmware slots, the fuses and the inputs hold stays, and so does what has
gone out. After a thermal trip (R19) only the host's own memory does. -/
def atReset (s : State) : State :=
  let stays (k : Nat) : Bool := !s.tripped || keyKind k == 2
  { State.reset with
    mem := s.mem.filter (fun (e : Nat × Byte) => stays e.1), nearSeed := if s.tripped then [] else s.nearSeed,
    poison := s.poison.filter (fun w => stays (8 * w)), fused := s.fused, fwSlots := s.fwSlots, fwFuse := s.fwFuse,
    fwActive := if s.fwTrial then s.fwOld else s.fwActive, brakePin := s.brakePin, freezeN := s.freezeN,
    order := s.order, fresh := s.fresh, turn := s.turn, cur := s.cur, fabric := s.fabric, wire := s.wire, irqs := s.irqs, answers := s.answers, hostReads := s.hostReads }

/-- A die's L2 and margin cache are written back, and its near store, of another size, holds undefined bytes (01 R13). -/
def shareChange (s : State) (die share : Nat) : State :=
  let s := s.writeBack (fun k => keyDie k == die && keyKind k < 2)
  let s := { s with through := s.through.filter (fun e => keyDie (64 * e.2) != die),
                    caches := { s.caches with margin := cset [] s.caches.margin die [], l2 := cset [] s.caches.l2 die [],
                                              marginOld := s.caches.marginOld.filter (·.core != die) } }
  let (n, s) := s.draw
  let near (k : Nat) : Bool := keyKind k == 1 && keyDie k == die
  { s with
    dies := cset {} s.dies die { s.die die with share := share },
    mem := s.mem.filter (fun (e : Nat × Byte) => !near e.1), nearSeed := cset none s.nearSeed die (some n),
    poison := s.poison.filter (fun w => !near (8 * w)) }

/-- The near stores whose share a reset changes, of the shares before it. -/
def sharesReset (old : State) (s : State) : State :=
  ((List.range 4).filter (fun d => (old.die d).share != 0)).foldl (fun s d => shareChange s d 0) s

/-- DEVICE_RESET. -/
def execDeviceReset (s : State) : Host.Outcome State Fault Refusal :=
  .next (brakeFollow (boot ((List.range 4).foldl dieLimits (sharesReset s (atReset s)))))

end Sys2Proof.Machine
end

