-- ==== Sys2Proof/Machine/HostPort.lean ====
section
/-! DEFINITION. What the host does to the chip (02 R34 to R44): memory through BAR 4, AtomicOps, ATS, the links, binding, the
registers of BAR 0, pre-emption (04 R91 to R93), firmware (03 R73 to R75) and the recovery registers (R76). -/

namespace Sys2Proof.Machine

/-! ### Memory through BAR 4 (R36, 04 R96, 11 R232) -/

/-- Bytes of the host at a physical place: they go home, every cached copy of their lines is invalidated (11 R232), whole words lose their
poison, and watchers of the lines see them. In host memory they come after the device's writes to the same bytes that are on their way. -/
def hostPut (s : State) (k : Nat) (bytes : List Byte) : State :=
  let s := if s.posted.any (fun p => (List.range bytes.length).any (fun i => p.covers (k + i))) then landLink (landLink s 0) 1 else s
  homePut (dropLines (s.rewrites k bytes.length) k bytes.length) k bytes

/-- A host write, page by page; a page that does not translate takes nothing. -/
def hostWrite (s : State) (ctx : Nat) : List (Nat × Nat) → List Byte → State
  | [], _ => s
  | (va, n) :: r, bs =>
    let s := match placeVa s (hubAgent ctx 5) .engW va with
      | (s, .ok (.phys k)) => hostPut s k (bs.take n)
      | (s, _) => s
    hostWrite s ctx r (bs.drop n)

/-- A host read, page by page, from memory at home; what a page that does not translate returns is free. -/
def hostRead (s : State) (ctx : Nat) : List (Nat × Nat) → State × List Byte
  | [] => (s, [])
  | (va, n) :: r =>
    let (s, bs) := match placeVa s (hubAgent ctx 5) .engR va with
      | (s, .ok (.phys k)) => (s, s.homeBytes k n)
      | (s, _) =>
        let (c, s) := s.draw
        (s, (List.range n).map (Config.undefByte c))
    let (s, rest) := hostRead s ctx r
    (s, bs ++ rest)

/-- Addresses that a context's BAR 4 reaches. -/
def inBar4 (s : State) (fn va n : Nat) : Bool := decide (va + n ≤ 2 ^ (s.ctx fn).bar4)

/-- HOST_BAR4_WRITE. -/
def execHostBar4Write (fn va : Nat) (bytes : List Byte) (s : State) : Host.Outcome State Fault Refusal :=
  .next (if hostFn s fn && inBar4 s fn va bytes.length then hostWrite s fn (piecesOf va bytes.length) bytes else s)

/-- HOST_BAR4_READ. -/
def execHostBar4Read (fn va len : Nat) (s : State) : Host.Outcome State Fault Refusal :=
  .next (if hostFn s fn && inBar4 s fn va len then
      let (s, bs) := hostRead s fn (piecesOf va len)
      { s with hostReads := s.hostReads ++ [bs] }
    else s)

/-- HOST_ATOMICOP (11 R219): performed at the location's home; the old value is returned. -/
def execHostAtomicop (fn va : Nat) (op : HostAtomic) (wide : Bool) (operand compare : W64) (s : State) : Host.Outcome State Fault Refusal :=
  let n := if wide then 8 else 4
  .next (if hostFn s fn && inBar4 s fn va n && va % n == 0 then
      match placeVa s (hubAgent fn 5) .fabA va with
      | (s, .ok p) =>
        let (bs, bad) := readPlace s p n
        let old := ofLE bs
        let m := 2 ^ (8 * n)
        let new := match op with
          | .fetchAdd => (old + operand.toNat) % m
          | .swap => operand.toNat % m
          | .cas => if old = compare.toNat % m then operand.toNat % m else old
        let s := if bad then s else writePlace s fn p (leBytes n new) false
        { s with hostReads := s.hostReads ++ [bs] }
      | (s, .error _) => s
    else s)

/-- The host's translation, as it stands, of the 64 KiB of host addresses that a page of 4 KiB lies in: the frame. -/
def atsFrame (s : State) (fn page : Nat) : Nat :=
  Config.hostFrame (cget 0 (s.ctx fn).atsDrops (page / 16)) (Config.pasid fn).toNat (page / 16) % 2 ^ 36 * 65536

/-- ATS_INVALIDATION: no later access of the function uses a translation of the host page (of 4 KiB), where the request names the PASID of
its context or none; what was translated by it before, drafts too, is performed first. The next translation is the host's new one. -/
def execAtsInvalidation (fn : Nat) (request : AtsRequest) (s : State) : Host.Outcome State Fault Refusal :=
  .next (if hostFn s fn && (request.pasid.isNone || request.pasid == some (Config.pasid fn).toNat) then
      let hit (h : Held) : Bool := h.kind == 2 && h.iova / 65536 == request.page / 16
      let drafted (h : Held) : Bool := h.kind == 2 && h.frame == atsFrame s fn request.page
      let s := landCtx (performPending (invalidate s fn hit) fn drafted) fn
      s.updCtx fn (fun c => { c with atsDrops := cset 0 c.atsDrops (request.page / 16) (cget 0 c.atsDrops (request.page / 16) + 1) })
    else s)

/-! ### Binding and links (R37, R38, R44) -/

/-- Doorbells held for an endpoint that is open take effect, in the order received. -/
def releaseBells (s : State) (ctx : Nat) : State :=
  let c := s.ctx ctx
  let go := c.heldBells.filter (fun b => bellOpen c b.1)
  let s := s.setCtx ctx { c with heldBells := c.heldBells.filter (fun b => !bellOpen c b.1) }
  go.foldl (fun s b => bell s ctx b.2.1 b.2.2) s

/-- A context starts, or changes to two-link mode, when its bindings and the links allow it. Before its writes use a second link, those on
the first are in host memory (02 R38). -/
def ctxLinks (s : State) (ctx : Nat) : State :=
  let c := s.ctx ctx
  let both := c.bound0 && c.bound1 && s.link 0 && s.link 1
  if both && !(c.started && c.twoLink) then
    let s := if c.started then landCtx s ctx else s
    releaseBells (s.updCtx ctx (fun c => { c with started := true, twoLink := true })) ctx
  else if c.started then s
  else if c.bound0 && s.link 0 && !s.link 1 then releaseBells (s.setCtx ctx { c with started := true, lnk := 0 }) ctx
  else if c.bound1 && s.link 1 && !s.link 0 then releaseBells (s.setCtx ctx { c with started := true, lnk := 1 }) ctx
  else s

/-- The bound bit of an endpoint written. -/
def setBound (s : State) (ctx ep : Nat) (b : Bool) : State :=
  ctxLinks (s.updCtx ctx (fun c => if ep = 0 then { c with bound0 := b } else { c with bound1 := b })) ctx

/-- HQ_PAIR_BIND: bound is written 1. -/
def execHqPairBind (fn ep : Nat) (s : State) : Host.Outcome State Fault Refusal :=
  .next (if hostFn s fn && decide (ep < 2) && s.link ep then setBound s fn ep true else s)

/-- A context loses a link: it goes on over the other one, or, when that is down too, must be bound again to start (log 107); the
endpoint's bound reads 0 when the link is back. -/
def ctxLosesLink (k : Nat) (other : Bool) (c : Ctx) : Ctx :=
  let c := if k = 0 then { c with bound0 := false } else { c with bound1 := false }
  if !c.started then c
  else if !other then { c with started := false, twoLink := false }
  else if c.twoLink || c.lnk == k then { c with twoLink := false, lnk := 1 - k }
  else c

/-- Writes that a link was to carry go over the other one; with both down they are lost (02 R44). -/
def postedMove (s : State) (k : Nat) : State :=
  if s.link (1 - k) then { s with posted := s.posted.map (fun p => if p.link = k then { p with link := 1 - k } else p) }
  else postedLeft s []

/-- Both links are down: launches whose DMA to the host was under way, which are free, complete with an error. -/
def hostErrors (s : State) : State :=
  let (n, s) := s.draw
  { s with launches := mapCells (fun id l =>
      if l.live && l.status == 0 && bitN (Config.choice n) id then { l with status := 5 } else l) s.launches }

/-- A link that is up goes down: contexts move to the other one, and with both down DMA ends in errors. -/
def linkLost (s : State) (link : Nat) : State :=
  if !s.link link then s
  else
    let s := { s with links := cset true s.links link false }
    let s := { s with ctxs := mapCells (fun _ c => ctxLosesLink link (s.link (1 - link)) c) s.ctxs }
    let s := postedMove s link
    if s.link 0 || s.link 1 then s else hostErrors s

/-- PCIE_LINK_DOWN: logged, but in recovery. -/
def execPcieLinkDown (link : Nat) (s : State) : Host.Outcome State Fault Refusal :=
  .next (if !linksRun s || 2 ≤ link || !s.link link then s
    else (List.range 16).foldl (fun s k => releaseBells (ctxLinks s k) k) ((if s.recovery then id else logOther) (linkLost s link)))

/-- PCIE_LINK_UP: with it the host has sized BAR 4 of functions, from 256 MiB to 1 TiB (02 R36). -/
def execPcieLinkUp (link : LinkUp) (s : State) : Host.Outcome State Fault Refusal :=
  .next (if !linksRun s || 2 ≤ link.link then s
    else
      let s := link.bar4.foldl (fun s e => if e.1 < 16 ∧ 28 ≤ e.2 ∧ e.2 ≤ 40 then s.updCtx e.1 (fun c => { c with bar4 := e.2 }) else s) s
      (List.range 16).foldl ctxLinks { s with links := cset true s.links link.link true })

/-! ### Pre-emption (04 R91 to R93) -/

/-- The context that a write to HQ.PREEMPT or HQ.CTR_RANGE acts on: a VF its own. -/
def actsOn (fn field : Nat) : Nat := if fn = 0 then field else fn

/-- A context's crews stop where they are: the matrix command of each runs to its end, and its copy and gather engines to the end of their
descriptors (04 R92). An area that is unset or too small leaves the context running. DESIGN CHOICE: no register gives its size; it is too small
where HQ.SAVE_SIZE bytes from its base run into the windows (log 78). -/
def preemptRequest (s : State) (ctx : Nat) : State :=
  let c := s.ctx ctx
  if c.pState ≠ 0 then s
  else if saveArea c = 0 ∨ winLo < saveArea c + saveSize then s.updCtx ctx (fun c => { c with pError := 1 })
  else
    let s := ((s.crews.filter (fun e => e.2.resident && e.2.ctx == ctx)).map (·.1)).foldl (fun s ci => enginesFinish (matrixFinish s ci) ci) s
    s.updCtx ctx (fun c => { c with pState := 1, pError := 0 })

def preemptResume (s : State) (ctx : Nat) : State :=
  if (s.ctx ctx).pState = 2 then s.updCtx ctx (fun c => { c with pState := 3 }) else s

/-- A write to HQ.PREEMPT. -/
def preemptWrite (s : State) (fn : Nat) (value : W64) : State :=
  let v := value.toNat
  let ctx := actsOn fn (bitsN v 20 4)
  let s := s.updCtx fn (fun c => { c with pSel := bitsN v 20 4 })
  let st := (s.ctx ctx).pState
  let s := if bitN v 0 && st == 0 then preemptRequest s ctx else s
  if bitN v 1 && st == 2 then preemptResume s ctx else s

/-- HQ_PREEMPT_REQUEST. -/
def execHqPreemptRequest (fn : Nat) (value : W64) (s : State) : Host.Outcome State Fault Refusal :=
  .next (if hostFn s fn && bitN value.toNat 0 then preemptWrite s fn value else s)

/-- HQ_PREEMPT_RESUME. -/
def execHqPreemptResume (fn : Nat) (value : W64) (s : State) : Host.Outcome State Fault Refusal :=
  .next (if hostFn s fn && bitN value.toNat 1 && !bitN value.toNat 0 then preemptWrite s fn value else s)

/-- Every crew of a launch is killed, those not yet placed with the others; a drain reservation that it holds ends (R89). -/
def killLaunch (s : State) (id code : Nat) : State :=
  let crews := (s.crews.filter (fun e => e.2.launch == id && e.2.status != .none)).map (·.1)
  let s := crews.foldl (fun s c => killCrew s c code) s
  endGang (s.updLaunch id (fun l => { l with
    liveCrews := 0, stopped := true, requeued := [], nextIx := l.lrec.crews,
    info := if l.status = 0 then code + l.nextIx % 2 ^ 24 * 256 else l.info, status := if l.status = 0 then 4 else l.status })) id

/-- A fault on the save area kills every crew of the context (R92). -/
def saveFault (s : State) (ctx : Nat) : State :=
  let s := ((s.launches.filter (fun e => e.2.live && e.2.ctx == ctx)).map (·.1)).foldl (fun s id => killLaunch s id 0x0C) s
  let s := collKill (dxKillRuns s ctx) ctx
  s.updCtx ctx (fun c => { c with pState := 0, pError := 2 })

/-- The other chips of the quires that live launches of a context name. -/
def quirePeers (s : State) (ctx : Nat) : List (Nat × Nat) :=
  ((liveQuires s ctx).zip (bindingsOf s ctx (liveQuires s ctx)).2).flatMap (fun e =>
    ((e.2.filterMap (fun b => b.map (·.chip))).filter (· != s.chipId)).foldl insertNew [] |>.map (fun k => (k, e.1)))

/-- No prologue of a context is in an invocation: its queues are at packet boundaries (R92). -/
def atBoundaries (s : State) (ctx : Nat) : Bool := s.queues.all (fun e => e.1 / 512 != ctx || e.2.used.isNone)

/-- PREEMPT_SAVE_COMPLETE: everything of the context leaves its units, its state is written, the release flush is done, and the context is
saved; the members of its quires on other chips are told (06 R135, 07 R142). -/
def execPreemptSaveComplete (ctx : Nat) (s : State) : Host.Outcome State Fault Refusal :=
  .next (if !deviceOn s || (s.ctx ctx).pState ≠ 1 || !fabPerformed s ctx (fun _ => true) || !atBoundaries s ctx then s
    else
      match placesOf s (hubAgent ctx 5) .engW (piecesOf (saveArea (s.ctx ctx)) saveSize) with
      | (s, .error _) => saveFault s ctx
      | (s, .ok _) =>
        let s := ((s.crews.filter (fun e => e.2.resident && e.2.ctx == ctx)).map (·.1)).foldl (fun s c => swapOut s c (.saved false)) s
        let s := ((s.queues.filter (fun e => e.1 / 512 == ctx && e.2.thread.isSome)).map (·.1)).foldl (fun s k => qUnmap s ctx (k % 512) 1) s
        let s := (quirePeers s ctx).foldl (fun s e => s.send (.paused e.1 ctx e.2)) (writeSave s ctx)
        (landCtx (s.flush ctx) ctx).updCtx ctx (fun c => { c with pState := 2 }))

/-- The saved groups of a context, each by its first crew, in the order of their places (04 R84). -/
def savedInOrder (s : State) (ctx : Nat) : List Nat :=
  let l := (s.crews.filter (fun e => e.2.ctx == ctx && e.2.status == .saved false && groupWaits s e.1)).map (·.1)
  l.foldl (fun o c => o.takeWhile (fun x => !keyBefore ((Waiter.back c).key s) ((Waiter.back x).key s)) ++ c ::
    o.dropWhile (fun x => !keyBefore ((Waiter.back c).key s) ((Waiter.back x).key s))) []

/-- A saved crew, or its whole folio group, whose turn it is, is placed on a free choice of the cores that take it. -/
def restoreCrew (s : State) (ci : Nat) : State :=
  if !(groupWaits s ci && inTurn s (.back ci)) then s
  else
    let (n, s) := s.draw
    let p := Config.choice n / 512 % 4
    match ((List.range 512).map (fun i => (Config.choice n + i) % 512)).find? (fun k =>
        (List.range 4).any (fun j => groupReturns s ci k ((p + j) % 4))) with
    | none => s
    | some k =>
      match (List.range 4).find? (fun j => groupReturns s ci k ((p + j) % 4)) with
      | some j => groupBack s ci k ((p + j) % 4)
      | none => s

/-- PREEMPT_RESTORE_COMPLETE: saved crews are placed in the order of 04 R84, among the crews of all contexts that wait, and once all are, the
context runs. -/
def execPreemptRestoreComplete (ctx : Nat) (s : State) : Host.Outcome State Fault Refusal :=
  .next (if !deviceOn s || (s.ctx ctx).pState ≠ 3 then s
    else
      let s := (savedInOrder s ctx).foldl restoreCrew s
      if s.crews.any (fun e => e.2.ctx == ctx && e.2.status == .saved false) then s
      else grantGang (s.updCtx ctx (fun c => { c with pState := 0 })))

/-! ### Registers of the HQ block with effects of their own -/

/-- A block range of counters overlaps another context's. -/
def ctrOverlaps (s : State) (ctx base count : Nat) : Bool :=
  (List.range 16).any (fun k => k != ctx && decide (0 < count ∧ 0 < (s.ctx k).ctrCount ∧
    base < (s.ctx k).ctrBase + (s.ctx k).ctrCount ∧ (s.ctx k).ctrBase < base + count))
def ctrInFlight (c : Ctx) : Bool := !c.graphs.isEmpty || !c.parked.isEmpty || !c.ready.isEmpty || !c.held.isEmpty

/-- A write to HQ.CTR_RANGE (05 R99). -/
def ctrRangeWrite (s : State) (fn : Nat) (value : W64) : State :=
  let v := value.toNat
  let ctx := actsOn fn (bitsN v 48 4)
  let c := s.ctx ctx
  let base := if fn = 0 then bitsN v 16 8 else c.ctrBase
  let count := if fn = 0 then bitsN v 32 9 else c.ctrCount
  let bad := ctrOverlaps s ctx base count || decide (256 < base + count) || ctrInFlight c
  let s := s.updCtx fn (fun c => { c with ctrSel := ctx, ctrErr := bad })
  if bad then s
  else
    let s := { s with deps := s.deps.filter (fun (e : Nat × BitVec 16) => !decide (256 * base ≤ e.1 ∧ e.1 < 256 * (base + count))) }
    s.updCtx ctx (fun c => { c with ctrBase := base, ctrCount := count })

/-- HQ_CTR_RANGE_WRITE. -/
def execHqCtrRangeWrite (fn : Nat) (value : W64) (s : State) : Host.Outcome State Fault Refusal :=
  .next (if hostFn s fn then ctrRangeWrite s fn value else s)

/-- HQ_JOB_BASE_WRITE: the record of every job's queue is cleared (05 R105). -/
def execHqJobBaseWrite (fn : Nat) (value : W64) (s : State) : Host.Outcome State Fault Refusal :=
  .next (if hostFn s fn then s.updCtx fn (fun c => { c with jobBase := value, jobLastQ := [] }) else s)

/-- HQ_WDOG_WRITE: a value that is neither 0 nor 20 to 40 is ignored (10 R214). -/
def execHqWdogWrite (fn : Nat) (value : W64) (s : State) : Host.Outcome State Fault Refusal :=
  let n := bitsN value.toNat 0 6
  .next (if hostFn s fn && decide (n = 0 ∨ (20 ≤ n ∧ n ≤ 40)) then s.updCtx fn (fun c => { c with wdog := w64 n }) else s)

/-! ### The health log's registers (01 R25) -/

/-- HK_ELOG_BASE_WRITE. -/
def execHkElogBaseWrite (fn : Nat) (value : W64) (s : State) : Host.Outcome State Fault Refusal :=
  .next (if hostPf s fn then { s with elogBase := value &&& 0x000FFFFFFFFFF00F, elogHead := 0 } else s)

/-- HK_ELOG_SIZE_WRITE: a value that is no power of two from 64 to 65,536 is ignored. -/
def execHkElogSizeWrite (fn : Nat) (value : W64) (s : State) : Host.Outcome State Fault Refusal :=
  .next (if hostPf s fn && (span 6 11).any (fun k => value.toNat == 2 ^ k) then { s with elogSize := value.toNat, elogHead := 0 } else s)

/-! ### Firmware (03 R73 to R75) -/

/-- The key of HK.FW_CTL and RCV.CMD. -/
def keyed (value : W64) : Bool := bitsN value.toNat 8 8 == 0xC0

/-- FW_ACTIVATE: the inactive slot goes on trial, and every Scriptor thread changes at its next packet boundary. DESIGN CHOICE: of a write with both
activate and commit set, each of the two steps acts on its own bit alone (log 117). -/
def execFwActivate (fn : Nat) (value : W64) (s : State) : Host.Outcome State Fault Refusal :=
  .next (if !hostPf s fn || !keyed value || !bitN value.toNat 1 then s
    else if s.fwTrial then { s with fwResult := 4 }
    else if !imageOk s (1 - s.fwActive) then { s with fwResult := 2 }
    else { s with fwOld := s.fwActive, fwActive := 1 - s.fwActive, fwTrial := true, fwResult := 1, fwSwitch := List.range 32 })

/-- FW_COMMIT: the fuse rises to the image's version. -/
def execFwCommit (fn : Nat) (value : W64) (s : State) : Host.Outcome State Fault Refusal :=
  .next (if !hostPf s fn || !keyed value || !bitN value.toNat 0 then s
    else if s.fwTrial then { s with fwTrial := false, fwResult := 1, fwFuse := max s.fwFuse (imageVersion s s.fwActive) }
    else { s with fwResult := 3 })

/-- HK_FW_WINDOW_WRITE. -/
def execHkFwWindowWrite (fn : Nat) (value : W64) (s : State) : Host.Outcome State Fault Refusal :=
  .next (if hostPf s fn && !s.fwTrial then { s with fwWindow := value } else s)

/-- FW_TRIAL_EXPIRY: its arrival is the end of the window; the old slot is active again, and the reversion is logged. -/
def execFwTrialExpiry (s : State) : Host.Outcome State Fault Refusal :=
  .next (if deviceOn s && s.fwTrial then
      logOther { s with fwActive := s.fwOld, fwTrial := false, fwResult := 5, fwSwitch := List.range 32 }
    else s)

/-- FW_THREAD_SWITCH: a thread changes image at its queue's packet boundary. -/
def execFwThreadSwitch (thread : Nat) (s : State) : Host.Outcome State Fault Refusal :=
  .next (if deviceOn s && (threadQueue s thread).used.isNone then { s with fwSwitch := s.fwSwitch.filter (· != thread) } else s)

/-! ### Recovery (03 R76) -/

/-- The RCV block responds, in normal operation and in recovery. -/
def rcvOn (s : State) (fn : Nat) : Bool := linksRun s && (s.link 0 || s.link 1) && fn == 0 && s.rcvBusy.isNone

/-- A command as RCV.CMD takes it: the key is right and no other bit is set. -/
def rcvCmd (value : W64) : Option Nat := if value.toNat / 2 ^ 16 = 0 ∧ keyed value ∧ bitsN value.toNat 3 5 = 0 then some (bitsN value.toNat 0 3) else none

/-- A command on the target slot: refused where that is the active slot, which the slot on trial is too, or where the offset is
no multiple of 2,048; otherwise begun. DESIGN CHOICE: of the two results that a command on the active slot with a bad offset may have, it is 3
(log 118). -/
def rcvStart (s : State) (cmd : Nat) (useOff : Bool) : State :=
  if !s.recovery && s.rcvSlot == s.fwActive then { s with rcvResult := 3 }
  else if useOff && s.rcvOffset % 2048 != 0 then { s with rcvResult := 2 }
  else { s with rcvBusy := some cmd }

/-- RCV_ERASE. -/
def execRcvErase (fn : Nat) (value : W64) (s : State) : Host.Outcome State Fault Refusal :=
  .next (if rcvOn s fn && rcvCmd value == some 1 then rcvStart s 1 false else s)

/-- RCV_PROGRAM. -/
def execRcvProgram (fn : Nat) (value : W64) (s : State) : Host.Outcome State Fault Refusal :=
  .next (if rcvOn s fn && rcvCmd value == some 2 then rcvStart s 2 true else s)

/-- RCV_SEAL. -/
def execRcvSeal (fn : Nat) (value : W64) (s : State) : Host.Outcome State Fault Refusal :=
  .next (if rcvOn s fn && rcvCmd value == some 3 then rcvStart s 3 true else s)

/-- RCV_REBOOT: in recovery the root of trust starts again; elsewhere it is refused. -/
def execRcvReboot (fn : Nat) (value : W64) (s : State) : Host.Outcome State Fault Refusal :=
  .next (if !(rcvOn s fn && rcvCmd value == some 4) then s
    else if s.recovery then brakeFollow (boot { s with rcvResult := 1 }) else { s with rcvResult := 2 })

/-- RCV_CMD_REFUSED: a reserved command, a wrong key, or a bit that must be 0. -/
def execRcvCmdRefused (fn : Nat) (value : W64) (s : State) : Host.Outcome State Fault Refusal :=
  .next (if rcvOn s fn && (match rcvCmd value with
      | some c => c == 0 || 4 < c
      | none => true) then { s with rcvResult := 2 } else s)

/-- The slot's bytes with a window of 2 KiB at an offset. -/
def slotWindow (b : Cells Byte) (off : Nat) (f : Nat → Byte) : Cells Byte :=
  (List.range 2048).foldl (fun b i => cset 0 b (off + i) (f i)) b

/-- RCV_CMD_COMPLETE: the command in progress ends; after a storage error of a PROGRAM what its window's place holds is
undefined. -/
def execRcvCmdComplete (storageError : Bool) (s : State) : Host.Outcome State Fault Refusal :=
  .next (match s.rcvBusy with
    | none => s
    | some c =>
      if !linksRun s then s
      else
        let f := cget {} s.fwSlots s.rcvSlot
        let (n, s) := s.draw
        let f := if c = 2 then { f with bytes := slotWindow f.bytes s.rcvOffset (fun i =>
                    if storageError then Config.undefByte n i else cget 0 s.rcvWindow i) }
          else if storageError then f
          else if c = 1 then {} else { f with len := s.rcvOffset }
        { s with fwSlots := cset {} s.fwSlots s.rcvSlot f, rcvBusy := none, rcvResult := if storageError then 4 else 1 })

/-! ### Plain registers (00 R7, R8) -/

/-- A write to an RW register of the HQ block. -/
def hqWrite (off : Nat) (v : W64) (c : Ctx) : Ctx :=
  match off with
  | 0x0010 => { c with qtblBase := v }
  | 0x0018 => { c with qtblCount := v }
  | 0x0028 => { c with qdirBase := v }
  | 0x0030 => { c with qdirCount := v }
  | 0x0040 => { c with saveBase := v }
  | 0x0060 => { c with rubricCfg := v &&& 0xFF }
  | 0x0068 => { c with elaBase := v &&& 0x000FFFFFFFFF0000 }
  | 0x0070 => { c with ptBase := v &&& 0x000FFFFFFFFFF00F }
  | 0x0100 => { c with taskHandler := v &&& 0x000FFFFFFFFFFFFC }
  | 0x0108 => { c with errVec := v &&& 0xBF }
  | 0x4000 => { c with frBase := v &&& 0x000FFFFFFFFFF00F }
  | _ =>
    if 0x2000 ≤ off ∧ off < 0x2400 ∧ off % 8 = 0 then
      let k := off / 8 - 0x400
      let c := { c with msix := cset (msixReset k) c.msix k v }
      { c with msixPend := c.msixPend.filter (fun e => msixMasked c e.1) }
    else c

/-- A write to a register of a first-touch pool (10 R207), which only a PF has. -/
def poolWrite (s : State) (off : Nat) (v : W64) : State :=
  let d := (off - 0x0080) / 32
  let die := s.die d
  match (off - 0x0080) % 32 with
  | 0 => s.setDie d { die with ftBase := v &&& 0x000FFFFFFFFFF000 }
  | 8 => s.setDie d { die with ftProd := v.toNat % 2 ^ 32 }
  | _ => s

/-- A write to a register of the RCV block. -/
def rcvWrite (s : State) (off : Nat) (v : W64) : State :=
  if off = 0x8008 then { s with rcvSlot := v.toNat % 2 }
  else if off = 0x8010 then { s with rcvOffset := v.toNat % 2 ^ 26 }
  else if 0x8800 ≤ off ∧ off < 0x9000 ∧ off % 8 = 0 then
    { s with rcvWindow := ((List.range 8).zip (leBytes 8 v.toNat)).foldl (fun (m : Cells Byte) (e : Nat × Byte) => cset 0 m (off - 0x8800 + e.1) e.2) s.rcvWindow }
  else s

/-- REG_WRITE: 8 bytes to a register of BAR 0 whose write has no step of its own. Writes to registers that are read only,
reserved or absent are ignored, and so are those of a VF to what only a PF has. -/
def execRegWrite (fn ep off : Nat) (value : W64) (s : State) : Host.Outcome State Fault Refusal :=
  .next (if 0x8000 ≤ off ∧ off < 0x9000 then (if rcvOn s fn then rcvWrite s off value else s)
    else if !hostFn s fn || 2 ≤ ep || !s.link ep then s
    else if off = 0x0008 then setBound s fn ep (bitN value.toNat 2)
    else if off = 0x0038 then preemptWrite s fn value
    else if 0x0080 ≤ off ∧ off < 0x0100 then (if fn = 0 then poolWrite s off value else s)
    else if off = 0x1018 then (if fn = 0 then { s with elogCtl := value &&& 0x3F01 } else s)
    else s.updCtx fn (hqWrite off value))

/-! ### What BAR 0 reads as (02 R36, 00 R7, R8) -/

/-- The bits of 64 cores that are disabled (04 R85). -/
def coreDis (s : State) (w : Nat) : Nat :=
  (List.range 64).foldl (fun v b => if coreUsable s (64 * w + b) then v else v + 2 ^ b) 0

/-- HQ.PAIR as an endpoint reads it (02 R37). -/
def pairValue (s : State) (fn ep : Nat) : Nat :=
  let c := s.ctx fn
  Config.moduleSerial.toNat * 2 ^ 32 + (if (if ep = 0 then c.bound0 else c.bound1) then 4 else 0) + 2 * (ep % 2) + (if s.link (1 - ep) then 1 else 0)

/-- HQ.PREEMPT: the field that was last written, with the state and the error of the context that it acts on (04 R91). -/
def preemptValue (s : State) (fn : Nat) : Nat :=
  let k := actsOn fn (s.ctx fn).pSel
  (s.ctx fn).pSel * 2 ^ 20 + (s.ctx k).pError * 2 ^ 8 + (s.ctx k).pState * 2 ^ 4

/-- HQ.CTR_RANGE (05 R99). -/
def ctrRangeValue (s : State) (fn : Nat) : Nat :=
  let k := actsOn fn (s.ctx fn).ctrSel
  k * 2 ^ 48 + (s.ctx k).ctrCount * 2 ^ 32 + (s.ctx k).ctrBase * 2 ^ 16 + (if (s.ctx fn).ctrErr then 1 else 0)

/-- The registers of the HQ block. -/
def hqRead (s : State) (fn ep off : Nat) : Nat :=
  let c := s.ctx fn
  match off with
  | 0x0008 => pairValue s fn ep
  | 0x0010 => c.qtblBase.toNat
  | 0x0018 => c.qtblCount.toNat
  | 0x0028 => c.qdirBase.toNat
  | 0x0030 => c.qdirCount.toNat
  | 0x0038 => preemptValue s fn
  | 0x0040 => c.saveBase.toNat
  | 0x0048 => saveSize
  | 0x0050 => ctrRangeValue s fn
  | 0x0058 => c.jobBase.toNat
  | 0x0060 => c.rubricCfg.toNat
  | 0x0068 => c.elaBase.toNat
  | 0x0070 => c.ptBase.toNat
  | 0x0078 => c.wdog.toNat
  | 0x0100 => c.taskHandler.toNat
  | 0x0108 => c.errVec.toNat
  | _ =>
    if 0x0080 ≤ off ∧ off < 0x0100 then
      (if fn ≠ 0 then 0
      else
        let d := s.die ((off - 0x0080) / 32)
        match off % 32 with
        | 0 => d.ftBase.toNat
        | 8 => d.ftProd
        | 16 => d.ftCons
        | _ => 0)
    else if 0x0180 ≤ off ∧ off < 0x01C0 then coreDis s ((off - 0x0180) / 8)
    else 0

/-- The registers of the HK block, which a PF has. -/
def hkRead (s : State) (off : Nat) : Nat :=
  match off with
  | 0x1000 => s.elogBase.toNat
  | 0x1008 => s.elogSize
  | 0x1010 => s.elogHead
  | 0x1018 => s.elogCtl.toNat
  | 0x1108 => s.fwActive + (if s.fwTrial then 4 else 0) + 16 * s.fwResult
  | 0x1110 => s.fwWindow.toNat
  | _ => 0

/-- The registers of the FR block (10 R202). -/
def frRead (c : Ctx) (off : Nat) : Nat :=
  match off with
  | 0x4000 => c.frBase.toNat
  | 0x4008 => c.frCtl.toNat
  | 0x4010 => c.frHead
  | 0x4018 => c.frTail
  | 0x4020 => c.frSeq
  | 0x4028 => (if c.frFull then 1 else 0) + (if c.frPool then 2 else 0)
  | _ => 0

/-- The registers of the RCV block (03 R76). -/
def rcvRead (s : State) (off : Nat) : Nat :=
  match off with
  | 0x8000 => (if s.recovery then 1 else 0) + (if s.rcvBusy.isSome then 2 else 0) + 16 * s.rcvResult + 2 ^ 32 * (cget {} s.fwSlots s.rcvSlot).len
  | 0x8008 => s.rcvSlot
  | 0x8010 => s.rcvOffset
  | _ => if 0x8800 ≤ off ∧ off < 0x9000 then ofLE ((List.range 8).map (fun i => cget 0 s.rcvWindow (off / 8 * 8 - 0x8800 + i))) else 0

/-- What a read of 8 bytes of BAR 0 of function fn through an endpoint returns: registers that software may only write, reserved ones, and in
a VF those that only a PF has, read 0. In recovery the RCV block alone answers. A read changes nothing. -/
def regRead (s : State) (fn ep off : Nat) : Nat :=
  if 0x8000 ≤ off ∧ off < 0x9000 then (if fn = 0 then rcvRead s off else 0)
  else if !hostFn s fn || off % 8 != 0 then 0
  else if off < 0x1000 then hqRead s fn ep off
  else if off < 0x2000 then (if fn = 0 then hkRead s off else 0)
  else if off < 0x2400 then (cget (msixReset (off / 8 - 0x400)) (s.ctx fn).msix (off / 8 - 0x400)).toNat
  else if off = 0x3000 then (List.range 64).foldl (fun v b => if cget false (s.ctx fn).msixPend b then v + 2 ^ b else v) 0
  else if 0x4000 ≤ off ∧ off < 0x5000 then frRead (s.ctx fn) off
  else 0

end Sys2Proof.Machine
end

