-- ==== Sys2Proof/Machine/LaneOps.lean ====
section
/-! DEFINITION. Opcodes 0x60 to 0x78: lane operations and predicate operations (17 R338 to R344), and the fixed tree of
13 R268. -/

namespace Sys2Proof.Machine

/-! ### The tree (13 R268) -/

/-- The flags and LFSRs that a tree carries along. -/
structure TreeSt where
  flags : Nat := 0
  lf : Cells W32

/-- Combine neighbours: entry 0 begins at lane l, and a pair spans w lanes. -/
def pairUp {α : Type} (op : Nat → α → α → TreeSt → α × TreeSt) (w : Nat) : Nat → List α → TreeSt → List α × TreeSt
  | l, x :: y :: r, st =>
    let (v, st) := op l x y st
    let (vs, st) := pairUp op w (l + w) r st
    (v :: vs, st)
  | _, _, st => ([], st)

/-- The aligned blocks of 1, 2, 4, … lanes. -/
def treeLevels {α : Type} (op : Nat → α → α → TreeSt → α × TreeSt) : Nat → Nat → List α → TreeSt → List (List α) × TreeSt
  | 0, _, v, st => ([v], st)
  | k + 1, w, v, st =>
    let (u, st) := pairUp op (2 * w) 0 v st
    let (r, st) := treeLevels op k (2 * w) u st
    (v :: r, st)

/-- The aligned blocks that cover lanes 0 to n - 1, greatest first, as (level, index). -/
def coverBlocks (n : Nat) : Nat → Nat → List (Nat × Nat)
  | 0, p => if n % 2 = 1 then [(0, p)] else []
  | j + 1, p => if n.testBit (j + 1) then (j + 1, p / 2 ^ (j + 1)) :: coverBlocks n j (p + 2 ^ (j + 1)) else coverBlocks n j p

/-- The left fold of blocks, formed for lane l. -/
def foldBlocks {α : Type} (op : Nat → α → α → TreeSt → α × TreeSt) (l : Nat) (acc : Option α) : List α → TreeSt → Option α × TreeSt
  | [], st => (acc, st)
  | b :: r, st =>
    match acc with
    | none => foldBlocks op l (some b) r st
    | some a => let (v, st) := op l a b st; foldBlocks op l (some v) r st

/-- The tree's value, delivered to each of the given lanes, or with `scan` each lane's inclusive prefix. A prefix that no
step has formed, lane 0's, is delivered as `lone` gives it: a result like any other (13 R255, R260). -/
def treeDeliver {α : Type} (op : Nat → α → α → TreeSt → α × TreeSt) (lone : α → α × Nat) (scan : Bool) (k : Nat)
    (lv : List (List α)) (dflt : α) : List Nat → TreeSt → List (Nat × α) × TreeSt
  | [], st => ([], st)
  | l :: r, st =>
    if scan then
      let bs := (coverBlocks (l + 1) k 0).map (fun b => (lv.getD b.1 []).getD b.2 dflt)
      let (v, st) := foldBlocks op l none bs st
      let v := if l = 0 then lone (v.getD dflt) else (v.getD dflt, 0)
      let (vs, st) := treeDeliver op lone scan k lv dflt r { st with flags := st.flags ||| v.2 }
      ((l, v.1) :: vs, st)
    else
      let (vs, st) := treeDeliver op lone scan k lv dflt r st
      ((l, (lv.getD k []).getD 0 dflt) :: vs, st)

/-- One element position: lanes without C(l) contribute the identity. -/
def treeElem {α : Type} (op : Nat → α → α → TreeSt → α × TreeSt) (lone : α → α × Nat) (scan : Bool) (ident : α) (k : Nat) (x : Nat → α)
    (cond : Nat → Bool) (st : TreeSt) : List (Nat × α) × TreeSt :=
  let lanes := List.range (2 ^ k)
  let (lv, st) := treeLevels op k 1 (lanes.map (fun l => if cond l then x l else ident)) st
  treeDeliver op lone scan k lv ident (lanes.filter cond) st

/-- Results of one element position laid beside those of the positions below it. -/
def joinElem (w k : Nat) (vals : List (Nat × Nat)) (new : List (Nat × Nat)) : List (Nat × Nat) :=
  if k = 0 then new.map (fun v => (v.1, v.2 % 2 ^ w))
  else (vals.zip new).map (fun v => (v.1.1, v.1.2 + v.2.2 % 2 ^ w * 2 ^ (k * w)))

/-- Every element position, in ascending order (R343). -/
def treeAll (w : Nat) (one : Nat → TreeSt → List (Nat × Nat) × TreeSt) : Nat → Nat → List (Nat × Nat) → TreeSt → List (Nat × Nat) × TreeSt
  | _, 0, vals, st => (vals, st)
  | e, n + 1, vals, st =>
    let (r, st) := one e st
    treeAll w one (e + 1) n (joinElem w e vals r) st

/-- A reduction or scan: the element as α, its combination, its identity, and the result's bits. -/
def treeOp {α : Type} (scan : Bool) (into : Nat → α) (lone : α → α × Nat) (op : Nat → α → α → TreeSt → α × TreeSt) (ident : α) (out : α → Nat)
    (i : WideIn) : WideOut :=
  let w := tyWidth (mrType i.mr)
  let k := Nat.log2 i.lanes
  let one (e : Nat) (st : TreeSt) : List (Nat × Nat) × TreeSt :=
    let (r, st) := treeElem op lone scan ident k (fun l => into (bitsN (i.a l) (e * w) w)) i.cond st
    (r.map (fun v => (v.1, out v.2)), st)
  let (vals, st) := treeAll w one 0 (elemCount (mrType i.mr)) [] { lf := i.lf }
  { vals := vals, flags := st.flags, lf := st.lf }

/-- ADD: exact integers, brought into range at the end; floats rounded at each step (13 R268). -/
def treeAdd (scan : Bool) (i : WideIn) : WideOut :=
  let m := i.mr
  if tyFltB8 (mrType m) then
    let f := mrFmt m
    treeOp scan id (fun x => f.roundV 0 (mrSat m) (fzoOf m (mrType m)) 0 (fltIn m x)) (fun l x y st =>
      let z := zGet st.lf l
      let r := addElem m z x y 0
      (r.val, { flags := st.flags ||| r.flags, lf := zSet st.lf l (zStep m z) })) (f.encode true 0 0) id i
  else treeOp scan (elemInt (mrType m)) (fun x => (x, 0)) (fun _ x y st => (x + y, st)) 0 (rangeStep (mrType m) (mrSat m)) i

/-- MIN and MAX, under the rules of R322. -/
def treeSel (isMax : Bool) (i : WideIn) : WideOut :=
  let m := i.mr
  let ty := mrType m
  let ident := if tyFltB8 ty then (mrFmt m).nanCode else wrapN (tyWidth ty) (if isMax then tyMin ty else tyMax ty)
  treeOp false id (fun x => (x, 0)) (fun _ x y st => (selElem m isMax false x y, st)) ident id i

def treeBits (op : Nat → Nat → Nat) (ident : Nat) (i : WideIn) : WideOut :=
  treeOp false id (fun x => (x, 0)) (fun _ x y st => (op x y, st)) ident id i

/-! ### Shapes -/

def tyAny (t : Team) : Bool := mrTyValid t.mr

/-- Lanes of C(l) among all lanes. -/
def WideIn.part (i : WideIn) : List Nat := (List.range i.lanes).filter i.cond

/-- An operation of Pa into Vd. -/
def predToV (op : Nat) (f : WideIn → Nat → Nat) (d a b : Opnd) (s : State) : Host.Outcome State Fault Refusal :=
  runInstr s (fun ti t => wideOp s ti t
    { op := op, word := wordF3 op d a b, fields := [fld d (dstOk s t), fld a okP, fld b okZero], tyOk := tyAny t,
      dst := (d, mrWords t.mr), srcs := [(a, 1)], f := fun i => { vals := i.part.map (fun l => (l, f i l)), lf := i.lf } })

/-- An operation of Pa into Sd, written once whatever the mask. -/
def predToS (op : Nat) (f : WideIn → Nat) (d a b : Opnd) (s : State) : Host.Outcome State Fault Refusal :=
  runInstr s (fun ti t => wideOp s ti t
    { op := op, word := wordF3 op d a b, fields := [fld d okS, fld a okP, fld b okZero], tyOk := tyAny t,
      dst := (d, 1), srcs := [(a, 1)], f := fun i => { sval := f i, lf := i.lf } })

/-- A combination of every lane of Va into Vd. -/
def treeForm (op : Nat) (tys rnds : Nat → Bool) (f : WideIn → WideOut) (d a b : Opnd) (s : State) : Host.Outcome State Fault Refusal :=
  runInstr s (fun ti t => wideOp s ti t
    { op := op, word := wordF3 op d a b, fields := [fld d (dstOk s t), fld a (srcOk t), fld b okZero],
      tyOk := tyCheck t.mr tys rnds, dst := (d, mrWords t.mr), srcs := [(a, mrWords t.mr)], f := f })

/-- MATCH (R342). -/
def matchForm (op : Nat) (f : List Nat → Nat → Nat) (d a b : Opnd) (s : State) : Host.Outcome State Fault Refusal :=
  runInstr s (fun ti t => wideOp s ti t
    { op := op, word := wordF3 op d a b, fields := [fld d (dstOk s t), fld a (srcOk t), fld b okZero],
      tyOk := tyAny t, dst := (d, mrWords t.mr), srcs := [(a, mrWords t.mr)],
      f := fun i => { vals := i.part.map (fun l => (l, f (i.part.filter (fun j => i.a j == i.a l)) l)), lf := i.lf } })

/-- A source lane, if it is one of the team. -/
def laneIn (n : Nat) (j : Int) : Option Nat := if 0 ≤ j ∧ j < n then some j.toNat else none

/-- A shuffle (R340): `j` gives each lane's source lane. -/
def shuffleOut (j : WideIn → Nat → Int) (i : WideIn) : WideOut :=
  { vals := i.part.map (fun l => (l, match laneIn i.lanes (j i l) with
      | some k => i.a k
      | none => 0)), lf := i.lf }

def shuffleForm (op : Nat) (withS : Bool) (j : WideIn → Nat → Int) (d a b : Opnd) (s : State) : Host.Outcome State Fault Refusal :=
  runInstr s (fun ti t => wideOp s ti t
    { op := op, word := wordF3 op d a b,
      fields := [fld d (dstOk s t), fld a (srcOk t), fld b (if withS then okS else srcOk t)], tyOk := tyAny t,
      dst := (d, mrWords t.mr),
      srcs := if withS then [(a, mrWords t.mr)] else [(a, mrWords t.mr), (b, mrWords t.mr)],
      sregs := if withS then [b] else [], near := false,
      far := fun i => i.part.filterMap (fun l => laneIn i.lanes (j i l)), f := shuffleOut j })

/-- A predicate operation of lanes with C(l) (R344). -/
def predForm (op : Nat) (f : Nat → Nat → Nat) (d a b : Opnd) (two : Bool) (s : State) : Host.Outcome State Fault Refusal :=
  runInstr s (fun ti t => wideOp s ti t
    { op := op, word := wordF3 op d a b, fields := [fld d okP, fld a okP, fld b (if two then okP else okZero)], tyOk := tyAny t,
      dst := (d, 1), srcs := if two then [(a, 1), (b, 1)] else [(a, 1)],
      f := fun i => { vals := i.part.map (fun l => (l, f (i.a l) (i.b l))), lf := i.lf } })

/-! ### The operations -/

/-- BALLOT (R339). -/
def execBallot (d a b : Opnd) (s : State) : Host.Outcome State Fault Refusal :=
  predToV 0x60 (fun i l => if l < i.lanes / 32 then
    ((span (32 * l) 32).filter (fun j => i.cond j && i.a j == 1)).foldl (fun r j => r + 2 ^ (j - 32 * l)) 0 else 0) d a b s
def execPcnt (d a b : Opnd) (s : State) : Host.Outcome State Fault Refusal :=
  predToS 0x61 (fun i => (i.part.filter (fun j => i.a j == 1)).length) d a b s
def execPrank (d a b : Opnd) (s : State) : Host.Outcome State Fault Refusal :=
  predToV 0x62 (fun i l => (i.part.filter (fun j => decide (j < l) && i.a j == 1)).length) d a b s

def execShfl (d a b : Opnd) (s : State) : Host.Outcome State Fault Refusal :=
  shuffleForm 0x63 false (fun i l => ((i.b l % 2 ^ 32 : Nat) : Int)) d a b s
def execShflX (d a b : Opnd) (s : State) : Host.Outcome State Fault Refusal :=
  shuffleForm 0x64 true (fun i l => ((l ^^^ i.x : Nat) : Int)) d a b s
def execShflUp (d a b : Opnd) (s : State) : Host.Outcome State Fault Refusal :=
  shuffleForm 0x65 true (fun i l => (l : Int) - i.x) d a b s
def execShflDn (d a b : Opnd) (s : State) : Host.Outcome State Fault Refusal :=
  shuffleForm 0x66 true (fun i l => (l : Int) + i.x) d a b s

/-- RDLANE (R341). -/
def execRdlane (d a b : Opnd) (s : State) : Host.Outcome State Fault Refusal :=
  runInstr s (fun ti t => wideOp s ti t
    { op := 0x67, word := wordF3 0x67 d a b, fields := [fld d okS, fld a (srcOk t), fld b okS], tyOk := tyAny t,
      dst := (d, 1), srcs := [(a, mrWords t.mr)], sregs := [b], near := false,
      far := fun i => if i.x < i.lanes then [i.x] else [],
      f := fun i => { sval := if i.x < i.lanes then i.a i.x else 0, lf := i.lf } })

/-- WRLANE (R341). -/
def execWrlane (d a b : Opnd) (s : State) : Host.Outcome State Fault Refusal :=
  runInstr s (fun ti t => wideOp s ti t
    { op := 0x68, word := wordF3 0x68 d a b, fields := [fld d (dstOk s t), fld a okS, fld b okS], tyOk := tyAny t,
      dst := (d, mrWords t.mr), srcs := [], sregs := [a, b],
      f := fun i => { vals := if i.y < i.lanes ∧ i.cond i.y then [(i.y, i.x % 2 ^ (32 * mrWords i.mr))] else [], lf := i.lf } })

def execMatchN (d a b : Opnd) (s : State) : Host.Outcome State Fault Refusal :=
  matchForm 0x69 (fun js l => (js.filter (· < l)).length) d a b s
def execMatchB (d a b : Opnd) (s : State) : Host.Outcome State Fault Refusal :=
  matchForm 0x6A (fun js l => js.headD l) d a b s

def execTredAdd (d a b : Opnd) (s : State) : Host.Outcome State Fault Refusal := treeForm 0x6B tyNotX rndFlt (treeAdd false) d a b s
def execTredMin (d a b : Opnd) (s : State) : Host.Outcome State Fault Refusal := treeForm 0x6C tyNotX rndNever (treeSel false) d a b s
def execTredMax (d a b : Opnd) (s : State) : Host.Outcome State Fault Refusal := treeForm 0x6D tyNotX rndNever (treeSel true) d a b s
def execTredAnd (d a b : Opnd) (s : State) : Host.Outcome State Fault Refusal :=
  treeForm 0x6E tyInt rndNever (fun i => treeBits (· &&& ·) (2 ^ tyWidth (mrType i.mr) - 1) i) d a b s
def execTredOr (d a b : Opnd) (s : State) : Host.Outcome State Fault Refusal :=
  treeForm 0x6F tyInt rndNever (treeBits (· ||| ·) 0) d a b s
def execTscanAdd (d a b : Opnd) (s : State) : Host.Outcome State Fault Refusal := treeForm 0x70 tyNotX rndFlt (treeAdd true) d a b s

def execPand (d a b : Opnd) (s : State) : Host.Outcome State Fault Refusal := predForm 0x71 (fun x y => x &&& y) d a b true s
def execPor (d a b : Opnd) (s : State) : Host.Outcome State Fault Refusal := predForm 0x72 (fun x y => x ||| y) d a b true s
def execPxor (d a b : Opnd) (s : State) : Host.Outcome State Fault Refusal := predForm 0x73 (fun x y => x ^^^ y) d a b true s
def execPnot (d a b : Opnd) (s : State) : Host.Outcome State Fault Refusal := predForm 0x74 (fun x _ => 1 - x) d a b false s

/-- PNZ (R344): any of the r bits. -/
def execPnz (d a b : Opnd) (s : State) : Host.Outcome State Fault Refusal :=
  runInstr s (fun ti t => wideOp s ti t
    { op := 0x75, word := wordF3 0x75 d a b, fields := [fld d okP, fld a (srcOk t), fld b okZero], tyOk := tyAny t,
      dst := (d, 1), srcs := [(a, mrWords t.mr)],
      f := fun i => { vals := i.part.map (fun l => (l, if i.a l = 0 then 0 else 1)), lf := i.lf } })
def execPval (d a b : Opnd) (s : State) : Host.Outcome State Fault Refusal := predToV 0x76 (fun i l => i.a l) d a b s
def execAny (d a b : Opnd) (s : State) : Host.Outcome State Fault Refusal :=
  predToS 0x77 (fun i => if i.part.any (fun j => i.a j == 1) then 1 else 0) d a b s
def execAll (d a b : Opnd) (s : State) : Host.Outcome State Fault Refusal :=
  predToS 0x78 (fun i => if i.part.all (fun j => i.a j == 1) then 1 else 0) d a b s

end Sys2Proof.Machine
end

