-- ==== Sys2Proof/Machine/Manage.lean ====
section
/-! DEFINITION. Freeze and readout (01 R27 to R30), the management commands (02 R54 to R56), and the Ligature ports
(R46 to R53) as they receive. -/

namespace Sys2Proof.Machine

/-! ### Freeze (01 R27 to R30) -/

/-- A freeze begins, and the readout record with it; during a freeze a further request has no effect. -/
def freezeBegin (s : State) : State := if s.freezing = 0 then { s with freezing := 1, scanned := [] } else s

/-- FREEZE_N_ASSERT. -/
def execFreezeNAssert (s : State) : Host.Outcome State Fault Refusal := .next (freezeBegin { s with freezeN := true })

/-- FREEZE_N_DEASSERT. -/
def execFreezeNDeassert (s : State) : Host.Outcome State Fault Refusal := .next { s with freezeN := false }

/-- FREEZE_CLOCKS_STOP: every clock but the test clock stops, and with them the links, which the host sees go down (02 R44); the device reports
FROZEN. -/
def execFreezeClocksStop (s : State) : Host.Outcome State Fault Refusal :=
  .next (if s.freezing = 1 then { linkLost (linkLost s 0) 1 with freezing := 2, answers := s.answers ++ [(.i3c, .frozen)] } else s)

/-! ### Management requests (02 R54 to R56) -/

/-- The path of a request is up. -/
def pathUp (s : State) (via : Transport) : Bool :=
  match via with
  | .i3c => true
  | .vdm0 => s.freezing != 2 && s.link 0
  | .vdm1 => s.freezing != 2 && s.link 1
  | .vc7 _ => s.freezing != 2 && (List.range 16).any (fun p => (s.port p).up)

/-- An answer on the path of its request. -/
def answer (s : State) (via : Transport) (a : Answer) : State :=
  let s := { s with answers := s.answers ++ [(via, a)] }
  match via with
  | .vc7 chip => s.send (.management chip)
  | _ => s

/-- A request that the freeze responder refuses with FROZEN, and that the HKC carries out otherwise. -/
def request (s : State) (via : Transport) (act : State → State) : Host.Outcome State Fault Refusal :=
  .next (if !pathUp s via then s else if s.freezing = 2 then answer s via .frozen else act s)

/-- FREEZE. -/
def execFreeze (via : Transport) (s : State) : Host.Outcome State Fault Refusal :=
  .next (if pathUp s via then answer (freezeBegin s) via .ok else s)

/-- A byte of a word that an SRAM holds. -/
def sramByte (s : State) : PoisonWord → Nat → Option Byte
  | .home kind die addr, b => some (s.devByte (physKey kind die addr / 8 * 8 + b % 8))
  | .scratch crew off, b => cget none (s.crew crew).scratch (off / 8 * 8 + b % 8)
  | .vreg team reg lane, b => (leBytes 4 (cget 0 (s.team team).v (reg * 1024 + lane)).toNat)[b % 4]?
  | .sreg team reg, b => (leBytes 8 (cget 0 (s.team team).s reg).toNat)[b % 8]?
  | .accRow crew row, b => (leBytes 8 (cget 0 (s.crew crew).acc (row * 64 + b / 8)).toNat)[b % 8]?
  | .tile crew tile, b => some (cget 0 ((s.crew crew).tile tile).img b)
  | .draft crew ix, b => match (s.crew crew).drafts[ix]? with
    | some (.store _ _ bytes _ _ _) => bytes[b]?
    | _ => none
  | .l1 core word, b => ((coreForm s core (.phys (8 * word))).map (·.bytes)).elim (some (s.devByte (8 * word + b % 8))) (·[b % 8]?)
  | .margin die word, b => ((formOf s.caches.marginOld die word).map (·.bytes)).elim (some (s.devByte (8 * word + b % 8))) (·[b % 8]?)
  | .queue team q ix lane, b => (((cget {} (s.team team).queues q).entries[ix]?).map (fun e => leBytes 4 (cget 0 e.vals lane).toNat)).bind (·[b % 4]?)
  | .scriptor off, b => some (cget 0 s.scriptorMem (off % 0x80000 / 8 * 8 + b % 8))
  | .none, _ => none

/-- The bytes of a team's flip-flops; none of an entry that a stack does not hold. -/
def teamBytes (t : Team) : TeamCell → List Byte
  | .pc => leBytes 8 t.pc.toNat
  | .mr => leBytes 8 t.mr.toNat
  | .mask => leBytes 128 t.mask.toNat
  | .fsr => leBytes 8 t.fsr.toNat
  | .ufc => leBytes 8 t.ufc.toNat
  | .trapCode => leBytes 8 t.trapCode.toNat
  | .trapPc => leBytes 8 t.trapPc.toNat
  | .trapInfo0 => leBytes 8 t.trapInfo0.toNat
  | .trapInfo1 => leBytes 8 t.trapInfo1.toNat
  | .trapLane => leBytes 8 t.trapLane.toNat
  | .inHandler => leBytes 1 t.inHandler.toNat
  | .savedMr => leBytes 8 t.savedMr.toNat
  | .savedMask => leBytes 128 t.savedMask.toNat
  | .handler => leBytes 8 t.handler.toNat
  | .x r l => leBytes 2 (cget 0 t.x (r * 1024 + l)).toNat
  | .p r => leBytes 128 (cget 0 t.p r).toNat
  | .call i => (t.cstack[i]?).elim [] (fun a => leBytes 8 a.toNat)
  | .stackAddr i => (t.rstack[i]?).elim [] (fun e => leBytes 8 e.addr.toNat)
  | .stackMask i => (t.rstack[i]?).elim [] (fun e => leBytes 128 e.mask.toNat)
  | .stackMr i => (t.rstack[i]?).elim [] (fun e => leBytes 8 e.mr.toNat)

/-- A byte that a readout shifts out. -/
def scanByte (s : State) : ScanCell → Nat → Option Byte
  | .word w, b => sramByte s w b
  | .team i c, b => (teamBytes (s.team i) c)[b]?
  | .cycles k, b => (leBytes 8 (s.core k).cycle)[b]?
  | .dep k, b => (leBytes 2 (cget 0 s.deps k).toNat)[b]?
  | .fabric ctx k, b => (leBytes 8 ((s.ctx ctx).counter k))[b]?
  | .threadPc th, b => (leBytes 8 (cget 0 s.threadPc th).toNat)[b]?
  | .threadReg th r, b => (leBytes 8 (rvGet s th r).toNat)[b]?

/-- What a scan chain or SRAM range shifts out: which byte comes where is not specified, and what is not one of the cells above is free
(log 45). -/
def scanOut (s : State) (n unit : Nat) : List Byte :=
  (List.range (Config.scanLength unit)).map (fun i => ((Config.scanCell unit i).bind (fun w => scanByte s w.1 w.2)).getD (Config.undefByte n i))

/-- SCAN: one chain or SRAM range is read out, and that is recorded. -/
def execScan (via : Transport) (chain : Nat) (s : State) : Host.Outcome State Fault Refusal :=
  .next (if !pathUp s via then s
    else if s.freezing ≠ 2 then answer s via .notFrozen
    else
      let (n, s) := s.draw
      answer { s with scanned := insertNew s.scanned chain } via (.chain chain (scanOut s n chain)))

/-- Every chain and every SRAM has been read since the freeze began. -/
def readoutDone (s : State) : Bool := (List.range Config.scanUnits).all s.scanned.contains

/-- THAW: after a complete readout, with FREEZE_N deasserted, the clocks restart and the links retrain. -/
def execThaw (via : Transport) (s : State) : Host.Outcome State Fault Refusal :=
  .next (if !pathUp s via then s
    else if s.freezing = 2 ∧ readoutDone s ∧ !s.freezeN then
      answer (brakeFollow { s with
        freezing := 0, links := cset true (cset true s.links 0 false) 1 false,
        ports := mapCells (fun _ p => { p with up := false, training := true }) s.ports }) via .ok
    else answer s via .notRead)

/-- HEALTH: the entries from a sequence number on. -/
def execHealth (via : Transport) (fromSeq : Nat) (s : State) : Host.Outcome State Fault Refusal :=
  request s via (fun s => answer s via (.entries ((elogEntries s).filter (fun e => decide (fromSeq ≤ field e 24 4)))))

/-- LIFE. -/
def execLife (via : Transport) (s : State) : Host.Outcome State Fault Refusal :=
  request s via (fun s => answer s via (.lives ((List.range 5).map (fun d => (cget none s.lifeHours d).getD 0xFFFFFFFF))))

/-- Some context is active. -/
def anyActive (s : State) : Bool := (List.range 16).any (ctxActive s)

/-- L2SHARE: share k is 0.5 GiB times k + 1. -/
def execL2share (via : Transport) (die share : Nat) (s : State) : Host.Outcome State Fault Refusal :=
  request s via (fun s =>
    if anyActive s then answer s via .busy
    else if die < 4 ∧ share < 5 then answer (shareChange s die share) via .ok
    else answer s via .unsupported)

/-- IDSET. -/
def execIdset (via : Transport) (chip : Nat) (s : State) : Host.Outcome State Fault Refusal :=
  request s via (fun s => if anyActive s then answer s via .busy else answer { s with chipId := chip % 4096 } via .ok)

/-- MCTP_UNSUPPORTED: any other message. -/
def execMctpUnsupported (via : Transport) (s : State) : Host.Outcome State Fault Refusal :=
  .next (if pathUp s via then answer s via .unsupported else s)

/-- An SPDM request: answered with ERROR, code Busy, while the device is frozen. -/
def spdm (s : State) (via : Transport) (r : Spdm) : Host.Outcome State Fault Refusal :=
  .next (if !pathUp s via then s else answer s via (if s.freezing = 2 then .spdmBusy else .spdm r))

/-- GET_VERSION: SPDM 1.3. -/
def execGetVersion (via : Transport) (s : State) : Host.Outcome State Fault Refusal := spdm s via (.version 1 3)
/-- GET_CAPABILITIES. -/
def execGetCapabilities (via : Transport) (s : State) : Host.Outcome State Fault Refusal := spdm s via (.capabilities true true true)
/-- NEGOTIATE_ALGORITHMS. -/
def execNegotiateAlgorithms (via : Transport) (s : State) : Host.Outcome State Fault Refusal := spdm s via (.algorithms .sha384 .slhDsaSha2_128s)
/-- GET_DIGESTS: of the certificate chain. -/
def execGetDigests (via : Transport) (s : State) : Host.Outcome State Fault Refusal := spdm s via (.digests [sha384 Config.certificate])
/-- GET_CERTIFICATE. -/
def execGetCertificate (via : Transport) (s : State) : Host.Outcome State Fault Refusal := spdm s via (.certificate Config.certificate)
/-- An SPDM answer signed by the chip's key. -/
def signed (n : Nat) (bytes : List Byte) : List Byte := Config.signature Config.signingKey (Config.transcript n ++ bytes)

/-- CHALLENGE: signed over the certificate chain's digest. -/
def execChallenge (via : Transport) (s : State) : Host.Outcome State Fault Refusal :=
  let (n, s) := s.draw
  spdm s via (.challenge (signed n (sha384 Config.certificate)))

/-- The measurement blocks of R56. -/
def measurements (s : State) : List (List Nat) :=
  [(sha384 (imageOf s s.fwActive)).map (·.toNat), [imageVersion s s.fwActive, s.fwFuse], [s.fwActive, if s.fwTrial then 1 else 0],
   (List.range 4).map (fun d => (s.die d).share) ++ [s.chipId]]

/-- GET_MEASUREMENTS: signed over the blocks. -/
def execGetMeasurements (via : Transport) (s : State) : Host.Outcome State Fault Refusal :=
  let (n, s) := s.draw
  spdm s via (.measurements (measurements s) (signed n ((measurements s).flatten.flatMap (leBytes 8))))

/-! ### What a port receives (R46 to R50) -/

/-- A port's links run. -/
def portOn (s : State) (p : Nat) : Bool := linksRun s && decide (p < 16)

/-- A receiver asks for the number it expects, and discards until that arrives. -/
def portNak (s : State) (p : Nat) (q : Port) : State := s.setPort p { q with discarding := true, naks := q.naks ++ [q.expSeq] }

/-- One flit arrives at a port: a CRC error, and a kind 7, is counted; a gap in the sequence is asked for; a flit for this chip or for another goes
into the receive buffer of its VC, for which its sender has held a credit. -/
def flitIn (port : Nat) (s : State) (f : Flit) : State :=
  let q := s.port port
  let h := f.header
  if f.payload.length != 120 then s
  else if hdrCrc h ≠ flitCrc h f.payload ∨ hdrKind h = 7 then portNak s port { q with crcErrors := q.crcErrors + 1 }
  else if hdrSeq h ≠ q.expSeq then (if q.discarding then s else portNak s port q)
  else if hdrKind h < 5 ∧ cget 0 q.given (hdrVc h) = 0 then s
  else
    let c := hdrCrvc h
    let q := { q with expSeq := (q.expSeq + 1) % 1024, discarding := false, credits := credit q.credits c (· + hdrCrcnt h),
                      given := if hdrKind h < 5 then credit q.given (hdrVc h) (· - 1) else q.given }
    s.setPort port (if 5 ≤ hdrKind h then q
      else if hdrDst h = s.chipId then { q with rx := q.rx ++ [f] }
      else { q with fwd := q.fwd ++ [f] })

/-- FLIT_RECEIVE: flits arrive in two interleaved codewords with so many wrong symbols each; those of a codeword that cannot be corrected are
discarded. -/
def execFlitReceive (port errorsA errorsB : Nat) (flits : List RxFlit) (s : State) : Host.Outcome State Fault Refusal :=
  .next (if !portOn s port || !(s.port port).up then s
    else (((flits.filter (fecPasses [errorsA, errorsB])).map (fun f => (⟨f.header, f.payload⟩ : Flit))).foldl (flitIn port) s).pump)

/-- NAK_RECEIVE: the flits before the number are acknowledged, and the sender replays from it on. -/
def execNakReceive (port seq : Nat) (s : State) : Host.Outcome State Fault Refusal :=
  let q := s.port port
  .next (if !portOn s port || !q.up then s
    else
      let rest := q.retry.dropWhile (fun f => hdrSeq f.header != seq)
      if rest.isEmpty && seq != q.nextSeq then s
      else
        let same := !q.retry.isEmpty && rest.length == q.retry.length
        let s := s.setPort port { q with retry := rest, replays := if rest.isEmpty then 0 else if same then q.replays + 1 else 1 }
        ({ s with wire := s.wire ++ rest.map (fun f => (port, f)) }).pump)

/-- What no path reaches any more ends as UNREACHABLE (R53). -/
def peersLost (s : State) : State := fabPeersLost (collPeersLost (dxPeersLost s))

/-- A port is down, and is retrained. -/
def portDown (s : State) (p : Nat) : State :=
  peersLost (s.setPort p { s.port p with up := false, training := true, replays := 0, discarding := false })

/-- PORT_REPLAY_LIMIT: 16 replays of one flit have not succeeded. -/
def execPortReplayLimit (port : Nat) (s : State) : Host.Outcome State Fault Refusal :=
  .next (if portOn s port && (s.port port).up && decide (16 ≤ (s.port port).replays) then portDown s port else s)

/-- PORT_IDLE_TIMEOUT: its arrival is the end of 2^20 link cycles without a flit. -/
def execPortIdleTimeout (port : Nat) (s : State) : Host.Outcome State Fault Refusal :=
  .next (if portOn s port && (s.port port).up then portDown s port else s)

/-- Credits by VC. -/
def creditsOf (l : List Nat) : Cells Nat :=
  ((List.range 8).zip l).foldl (fun m e => cset 0 m e.1 e.2) []

/-- PORT_TRAINING_COMPLETE: the port is up, with the credits that the peer advertises for each VC and, in a direct mesh, the chip at the other end; it
advertises what its own receive buffers have room for, so that it owes no more. DESIGN CHOICE: sequence numbers, the retry buffer and what the receive
buffers hold stay as they were (log 140). -/
def execPortTrainingComplete (port : Nat) (training : Training) (s : State) : Host.Outcome State Fault Refusal :=
  let q := s.port port
  .next (if !portOn s port || q.up then s
    else (s.setPort port { q with
      up := true, training := false, credits := creditsOf training.credits, peer := training.peer,
      owed := [], given := creditsOf ((List.range 8).map (rxFree port q)) }).pump)

/-- ROUTE_SWITCH (R53): the chips that have a live port to a destination are known anew, and a flow whose port is down changes to its best live path,
once every flit that it has sent on the old one is acknowledged. -/
def execRouteSwitch (flow : FlowId) (live : List Nat) (s : State) : Host.Outcome State Fault Refusal :=
  let k := flow.dst * 8 + flow.vc % 8
  .next (if !fabricUp s then s
    else
      let s := peersLost { s with meshLive := cset none s.meshLive flow.dst (some live) }
      match cget none s.flows k with
      | some p =>
        if (s.port p).up || (s.port p).retry.any (fun f => hdrDst f.header == flow.dst && hdrVc f.header == flow.vc % 8) then s
        else match bestPath s flow.dst with
          | some p' => ({ s with flows := cset none s.flows k (some p') }).pump
          | none => s
      | none => s)

end Sys2Proof.Machine
end

