-- ==== Sys2Proof/Machine/Dispatch.lean ====
section
/-! DEFINITION. One arm for each row of the opcode table. -/

namespace Sys2Proof.Machine

def exec (i : Instr) (s : State) : Host.Outcome State Fault Refusal :=
  match i with
  | .nop d a b => Sys2Proof.Machine.execNop d a b s
  | .bra off => Sys2Proof.Machine.execBra off s
  | .brg off => Sys2Proof.Machine.execBrg off s
  | .brz d imm => Sys2Proof.Machine.execBrz d imm s
  | .brnz d imm => Sys2Proof.Machine.execBrnz d imm s
  | .call off => Sys2Proof.Machine.execCall off s
  | .ret d a b => Sys2Proof.Machine.execRet d a b s
  | .rcv off => Sys2Proof.Machine.execRcv off s
  | .join d a b => Sys2Proof.Machine.execJoin d a b s
  | .yield d a b => Sys2Proof.Machine.execYield d a b s
  | .bri d a b => Sys2Proof.Machine.execBri d a b s
  | .modeSet d a b => Sys2Proof.Machine.execModeSet d a b s
  | .modeGet d a b => Sys2Proof.Machine.execModeGet d a b s
  | .modeGuard d imm => Sys2Proof.Machine.execModeGuard d imm s
  | .modeType d imm => Sys2Proof.Machine.execModeType d imm s
  | .modeRnd d imm => Sys2Proof.Machine.execModeRnd d imm s
  | .sadd d a b => Sys2Proof.Machine.execSadd d a b s
  | .ssub d a b => Sys2Proof.Machine.execSsub d a b s
  | .smul d a b => Sys2Proof.Machine.execSmul d a b s
  | .slih d imm => Sys2Proof.Machine.execSlih d imm s
  | .sdiv d a b => Sys2Proof.Machine.execSdiv d a b s
  | .modeSrc d imm => Sys2Proof.Machine.execModeSrc d imm s
  | .sand d a b => Sys2Proof.Machine.execSand d a b s
  | .sor d a b => Sys2Proof.Machine.execSor d a b s
  | .sxor d a b => Sys2Proof.Machine.execSxor d a b s
  | .sshl d a b => Sys2Proof.Machine.execSshl d a b s
  | .sshr d a b => Sys2Proof.Machine.execSshr d a b s
  | .ssra d a b => Sys2Proof.Machine.execSsra d a b s
  | .sslt d a b => Sys2Proof.Machine.execSslt d a b s
  | .ssltn d a b => Sys2Proof.Machine.execSsltn d a b s
  | .saddi d imm => Sys2Proof.Machine.execSaddi d imm s
  | .sli d imm => Sys2Proof.Machine.execSli d imm s
  | .add d a b => Sys2Proof.Machine.execAdd d a b s
  | .sub d a b => Sys2Proof.Machine.execSub d a b s
  | .mul d a b => Sys2Proof.Machine.execMul d a b s
  | .mulh d a b => Sys2Proof.Machine.execMulh d a b s
  | .mad d a b => Sys2Proof.Machine.execMad d a b s
  | .min d a b => Sys2Proof.Machine.execMin d a b s
  | .max d a b => Sys2Proof.Machine.execMax d a b s
  | .abs d a b => Sys2Proof.Machine.execAbs d a b s
  | .neg d a b => Sys2Proof.Machine.execNeg d a b s
  | .and d a b => Sys2Proof.Machine.execAnd d a b s
  | .or d a b => Sys2Proof.Machine.execOr d a b s
  | .xor d a b => Sys2Proof.Machine.execXor d a b s
  | .not d a b => Sys2Proof.Machine.execNot d a b s
  | .shl d a b => Sys2Proof.Machine.execShl d a b s
  | .shr d a b => Sys2Proof.Machine.execShr d a b s
  | .rot d a b => Sys2Proof.Machine.execRot d a b s
  | .clz d a b => Sys2Proof.Machine.execClz d a b s
  | .popc d a b => Sys2Proof.Machine.execPopc d a b s
  | .brev d a b => Sys2Proof.Machine.execBrev d a b s
  | .addi d imm => Sys2Proof.Machine.execAddi d imm s
  | .mov d a b => Sys2Proof.Machine.execMov d a b s
  | .movi d imm => Sys2Proof.Machine.execMovi d imm s
  | .sel d a b => Sys2Proof.Machine.execSel d a b s
  | .cmpEq d a b => Sys2Proof.Machine.execCmpEq d a b s
  | .cmpNe d a b => Sys2Proof.Machine.execCmpNe d a b s
  | .cmpLt d a b => Sys2Proof.Machine.execCmpLt d a b s
  | .cmpLe d a b => Sys2Proof.Machine.execCmpLe d a b s
  | .cmpUn d a b => Sys2Proof.Machine.execCmpUn d a b s
  | .div d a b => Sys2Proof.Machine.execDiv d a b s
  | .rem d a b => Sys2Proof.Machine.execRem d a b s
  | .li32 d a b lit => Sys2Proof.Machine.execLi32 d a b lit s
  | .clamp d a b => Sys2Proof.Machine.execClamp d a b s
  | .sqrt d a b => Sys2Proof.Machine.execSqrt d a b s
  | .rsq d a b => Sys2Proof.Machine.execRsq d a b s
  | .rcp d a b => Sys2Proof.Machine.execRcp d a b s
  | .exp2 d a b => Sys2Proof.Machine.execExp2 d a b s
  | .log2 d a b => Sys2Proof.Machine.execLog2 d a b s
  | .sin d a b => Sys2Proof.Machine.execSin d a b s
  | .cos d a b => Sys2Proof.Machine.execCos d a b s
  | .tanh d a b => Sys2Proof.Machine.execTanh d a b s
  | .sigm d a b => Sys2Proof.Machine.execSigm d a b s
  | .erf d a b => Sys2Proof.Machine.execErf d a b s
  | .floor d a b => Sys2Proof.Machine.execFloor d a b s
  | .ceil d a b => Sys2Proof.Machine.execCeil d a b s
  | .trunc d a b => Sys2Proof.Machine.execTrunc d a b s
  | .rint d a b => Sys2Proof.Machine.execRint d a b s
  | .fclass d a b => Sys2Proof.Machine.execFclass d a b s
  | .scalb d a b => Sys2Proof.Machine.execScalb d a b s
  | .cvt d a b => Sys2Proof.Machine.execCvt d a b s
  | .cvtp d a b => Sys2Proof.Machine.execCvtp d a b s
  | .qnt d a b => Sys2Proof.Machine.execQnt d a b s
  | .dqnt d a b => Sys2Proof.Machine.execDqnt d a b s
  | .dot4 d a b => Sys2Proof.Machine.execDot4 d a b s
  | .minp d a b => Sys2Proof.Machine.execMinp d a b s
  | .maxp d a b => Sys2Proof.Machine.execMaxp d a b s
  | .ballot d a b => Sys2Proof.Machine.execBallot d a b s
  | .pcnt d a b => Sys2Proof.Machine.execPcnt d a b s
  | .prank d a b => Sys2Proof.Machine.execPrank d a b s
  | .shfl d a b => Sys2Proof.Machine.execShfl d a b s
  | .shflX d a b => Sys2Proof.Machine.execShflX d a b s
  | .shflUp d a b => Sys2Proof.Machine.execShflUp d a b s
  | .shflDn d a b => Sys2Proof.Machine.execShflDn d a b s
  | .rdlane d a b => Sys2Proof.Machine.execRdlane d a b s
  | .wrlane d a b => Sys2Proof.Machine.execWrlane d a b s
  | .matchN d a b => Sys2Proof.Machine.execMatchN d a b s
  | .matchB d a b => Sys2Proof.Machine.execMatchB d a b s
  | .tredAdd d a b => Sys2Proof.Machine.execTredAdd d a b s
  | .tredMin d a b => Sys2Proof.Machine.execTredMin d a b s
  | .tredMax d a b => Sys2Proof.Machine.execTredMax d a b s
  | .tredAnd d a b => Sys2Proof.Machine.execTredAnd d a b s
  | .tredOr d a b => Sys2Proof.Machine.execTredOr d a b s
  | .tscanAdd d a b => Sys2Proof.Machine.execTscanAdd d a b s
  | .pand d a b => Sys2Proof.Machine.execPand d a b s
  | .por d a b => Sys2Proof.Machine.execPor d a b s
  | .pxor d a b => Sys2Proof.Machine.execPxor d a b s
  | .pnot d a b => Sys2Proof.Machine.execPnot d a b s
  | .pnz d a b => Sys2Proof.Machine.execPnz d a b s
  | .pval d a b => Sys2Proof.Machine.execPval d a b s
  | .any d a b => Sys2Proof.Machine.execAny d a b s
  | .all d a b => Sys2Proof.Machine.execAll d a b s
  | .ld d a off => Sys2Proof.Machine.execLd d a off s
  | .ldS d a off => Sys2Proof.Machine.execLdS d a off s
  | .ldK d a off => Sys2Proof.Machine.execLdK d a off s
  | .ldB d a off => Sys2Proof.Machine.execLdB d a off s
  | .st d a off => Sys2Proof.Machine.execSt d a off s
  | .stS d a off => Sys2Proof.Machine.execStS d a off s
  | .stK d a off => Sys2Proof.Machine.execStK d a off s
  | .stB d a off => Sys2Proof.Machine.execStB d a off s
  | .ldx d a b => Sys2Proof.Machine.execLdx d a b s
  | .ldxS d a b => Sys2Proof.Machine.execLdxS d a b s
  | .ldxK d a b => Sys2Proof.Machine.execLdxK d a b s
  | .ldxB d a b => Sys2Proof.Machine.execLdxB d a b s
  | .stx d a b => Sys2Proof.Machine.execStx d a b s
  | .stxS d a b => Sys2Proof.Machine.execStxS d a b s
  | .stxK d a b => Sys2Proof.Machine.execStxK d a b s
  | .stxB d a b => Sys2Proof.Machine.execStxB d a b s
  | .ldn d a off => Sys2Proof.Machine.execLdn d a off s
  | .stn d a off => Sys2Proof.Machine.execStn d a off s
  | .ldAcq d a off => Sys2Proof.Machine.execLdAcq d a off s
  | .stRel d a off => Sys2Proof.Machine.execStRel d a off s
  | .atomAdd d a b => Sys2Proof.Machine.execAtomAdd d a b s
  | .atomMin d a b => Sys2Proof.Machine.execAtomMin d a b s
  | .atomMax d a b => Sys2Proof.Machine.execAtomMax d a b s
  | .atomAnd d a b => Sys2Proof.Machine.execAtomAnd d a b s
  | .atomOr d a b => Sys2Proof.Machine.execAtomOr d a b s
  | .atomXor d a b => Sys2Proof.Machine.execAtomXor d a b s
  | .atomXchg d a b => Sys2Proof.Machine.execAtomXchg d a b s
  | .atomCas d a b => Sys2Proof.Machine.execAtomCas d a b s
  | .atomDecp d a b => Sys2Proof.Machine.execAtomDecp d a b s
  | .atomIncw d a b => Sys2Proof.Machine.execAtomIncw d a b s
  | .waita d a b => Sys2Proof.Machine.execWaita d a b s
  | .wake d a b => Sys2Proof.Machine.execWake d a b s
  | .fence d imm => Sys2Proof.Machine.execFence d imm s
  | .waito d imm => Sys2Proof.Machine.execWaito d imm s
  | .barCrew d imm => Sys2Proof.Machine.execBarCrew d imm s
  | .barFolio d imm => Sys2Proof.Machine.execBarFolio d imm s
  | .barQuire d a b => Sys2Proof.Machine.execBarQuire d a b s
  | .slotWait d a b => Sys2Proof.Machine.execSlotWait d a b s
  | .slotFree d a b => Sys2Proof.Machine.execSlotFree d a b s
  | .ringEos d a b => Sys2Proof.Machine.execRingEos d a b s
  | .donate d a b => Sys2Proof.Machine.execDonate d a b s
  | .tcfg t a b => Sys2Proof.Machine.execTcfg t a b s
  | .ldt t a b => Sys2Proof.Machine.execLdt t a b s
  | .tmov t a b => Sys2Proof.Machine.execTmov t a b s
  | .mma d x y => Sys2Proof.Machine.execMma d x y s
  | .mmaZ d x y => Sys2Proof.Machine.execMmaZ d x y s
  | .accCfg d a b => Sys2Proof.Machine.execAccCfg d a b s
  | .drain d a b => Sys2Proof.Machine.execDrain d a b s
  | .accSt d a b => Sys2Proof.Machine.execAccSt d a b s
  | .accLd d a b => Sys2Proof.Machine.execAccLd d a b s
  | .cpy d a b => Sys2Proof.Machine.execCpy d a b s
  | .wprd d a b => Sys2Proof.Machine.execWprd d a b s
  | .gth d a b => Sys2Proof.Machine.execGth d a b s
  | .srecLd t a b => Sys2Proof.Machine.execSrecLd t a b s
  | .srecGo t a b => Sys2Proof.Machine.execSrecGo t a b s
  | .srecStop t a b => Sys2Proof.Machine.execSrecStop t a b s
  | .qstat d a b => Sys2Proof.Machine.execQstat d a b s
  | .sysRd d imm => Sys2Proof.Machine.execSysRd d imm s
  | .sysWr d imm => Sys2Proof.Machine.execSysWr d imm s
  | .trap d imm => Sys2Proof.Machine.execTrap d imm s
  | .brk d a b => Sys2Proof.Machine.execBrk d a b s
  | .endTeam d a b => Sys2Proof.Machine.execEndTeam d a b s
  | .fork d a b => Sys2Proof.Machine.execFork d a b s
  | .enq d a b => Sys2Proof.Machine.execEnq d a b s
  | .depDec d a b => Sys2Proof.Machine.execDepDec d a b s
  | .depSet d a b => Sys2Proof.Machine.execDepSet d a b s
  | .tblLd d a b => Sys2Proof.Machine.execTblLd d a b s
  | .dxRun d a b => Sys2Proof.Machine.execDxRun d a b s
  | .dxQry d a b => Sys2Proof.Machine.execDxQry d a b s
  | .dxStat d a b => Sys2Proof.Machine.execDxStat d a b s
  | .putr d a b => Sys2Proof.Machine.execPutr d a b s
  | .getr d a b => Sys2Proof.Machine.execGetr d a b s
  | .rredAdd d a b => Sys2Proof.Machine.execRredAdd d a b s
  | .rredMax d a b => Sys2Proof.Machine.execRredMax d a b s
  | .xsend d a b => Sys2Proof.Machine.execXsend d a b s
  | .ctrAdd d a b => Sys2Proof.Machine.execCtrAdd d a b s
  | .ctrRd d a b => Sys2Proof.Machine.execCtrRd d a b s
  | .cav d a b => Sys2Proof.Machine.execCav d a b s
  | .repart d a b => Sys2Proof.Machine.execRepart d a b s
  | .collSt d a b => Sys2Proof.Machine.execCollSt d a b s
  | .role d a b => Sys2Proof.Machine.execRole d a b s
  | .tret d a b => Sys2Proof.Machine.execTret d a b s
  | .unassignedOpcode word => Sys2Proof.Machine.execUnassignedOpcode word s
  | .deviceReset => Sys2Proof.Machine.execDeviceReset s
  | .freezeNAssert => Sys2Proof.Machine.execFreezeNAssert s
  | .freezeClocksStop => Sys2Proof.Machine.execFreezeClocksStop s
  | .freezeNDeassert => Sys2Proof.Machine.execFreezeNDeassert s
  | .pwrbrkNAssert => Sys2Proof.Machine.execPwrbrkNAssert s
  | .pwrbrkNDeassert => Sys2Proof.Machine.execPwrbrkNDeassert s
  | .thermalSensorEvent core degC => Sys2Proof.Machine.execThermalSensorEvent core degC s
  | .droopDetect die => Sys2Proof.Machine.execDroopDetect die s
  | .droopEnd die => Sys2Proof.Machine.execDroopEnd die s
  | .adaptiveVoltageAdjust die millivolt => Sys2Proof.Machine.execAdaptiveVoltageAdjust die millivolt s
  | .laneRetrain port lane marginLow => Sys2Proof.Machine.execLaneRetrain port lane marginLow s
  | .eccCorrectedError at_ bit => Sys2Proof.Machine.execEccCorrectedError at_ bit s
  | .rowTestComplete row passed => Sys2Proof.Machine.execRowTestComplete row passed s
  | .eccUncorrectableError at_ word => Sys2Proof.Machine.execEccUncorrectableError at_ word s
  | .ageingUpdate hours => Sys2Proof.Machine.execAgeingUpdate hours s
  | .ageingFirstEstimate hours => Sys2Proof.Machine.execAgeingFirstEstimate hours s
  | .pcieLinkDown link => Sys2Proof.Machine.execPcieLinkDown link s
  | .pcieLinkUp link => Sys2Proof.Machine.execPcieLinkUp link s
  | .hostBar4Write fn va bytes => Sys2Proof.Machine.execHostBar4Write fn va bytes s
  | .hostBar4Read fn va len => Sys2Proof.Machine.execHostBar4Read fn va len s
  | .hostAtomicop fn va op wide operand compare => Sys2Proof.Machine.execHostAtomicop fn va op wide operand compare s
  | .atsInvalidation fn request => Sys2Proof.Machine.execAtsInvalidation fn request s
  | .doorbellWrite fn ep q value => Sys2Proof.Machine.execDoorbellWrite fn ep q value s
  | .hqPairBind fn ep => Sys2Proof.Machine.execHqPairBind fn ep s
  | .hqQrelease fn q => Sys2Proof.Machine.execHqQrelease fn q s
  | .hqQresume fn q => Sys2Proof.Machine.execHqQresume fn q s
  | .hqPreemptRequest fn value => Sys2Proof.Machine.execHqPreemptRequest fn value s
  | .preemptSaveComplete ctx => Sys2Proof.Machine.execPreemptSaveComplete ctx s
  | .hqPreemptResume fn value => Sys2Proof.Machine.execHqPreemptResume fn value s
  | .preemptRestoreComplete ctx => Sys2Proof.Machine.execPreemptRestoreComplete ctx s
  | .hqCtrRangeWrite fn value => Sys2Proof.Machine.execHqCtrRangeWrite fn value s
  | .hqJobBaseWrite fn value => Sys2Proof.Machine.execHqJobBaseWrite fn value s
  | .hkElogBaseWrite fn value => Sys2Proof.Machine.execHkElogBaseWrite fn value s
  | .hkElogSizeWrite fn value => Sys2Proof.Machine.execHkElogSizeWrite fn value s
  | .fwActivate fn value => Sys2Proof.Machine.execFwActivate fn value s
  | .fwCommit fn value => Sys2Proof.Machine.execFwCommit fn value s
  | .hkFwWindowWrite fn value => Sys2Proof.Machine.execHkFwWindowWrite fn value s
  | .fwTrialExpiry => Sys2Proof.Machine.execFwTrialExpiry s
  | .fwThreadSwitch thread => Sys2Proof.Machine.execFwThreadSwitch thread s
  | .rcvErase fn value => Sys2Proof.Machine.execRcvErase fn value s
  | .rcvProgram fn value => Sys2Proof.Machine.execRcvProgram fn value s
  | .rcvSeal fn value => Sys2Proof.Machine.execRcvSeal fn value s
  | .rcvReboot fn value => Sys2Proof.Machine.execRcvReboot fn value s
  | .rcvCmdRefused fn value => Sys2Proof.Machine.execRcvCmdRefused fn value s
  | .rcvCmdComplete storageError => Sys2Proof.Machine.execRcvCmdComplete storageError s
  | .frReplay fn value => Sys2Proof.Machine.execFrReplay fn value s
  | .frDeny fn value => Sys2Proof.Machine.execFrDeny fn value s
  | .frCtlWrite fn value => Sys2Proof.Machine.execFrCtlWrite fn value s
  | .frTailWrite fn value => Sys2Proof.Machine.execFrTailWrite fn value s
  | .frStatusPoolClear fn value => Sys2Proof.Machine.execFrStatusPoolClear fn value s
  | .faultRecordHeldWrite ctx => Sys2Proof.Machine.execFaultRecordHeldWrite ctx s
  | .hqWdogWrite fn value => Sys2Proof.Machine.execHqWdogWrite fn value s
  | .regWrite fn ep off value => Sys2Proof.Machine.execRegWrite fn ep off value s
  | .freeze via => Sys2Proof.Machine.execFreeze via s
  | .scan via chain => Sys2Proof.Machine.execScan via chain s
  | .thaw via => Sys2Proof.Machine.execThaw via s
  | .health via fromSeq => Sys2Proof.Machine.execHealth via fromSeq s
  | .life via => Sys2Proof.Machine.execLife via s
  | .l2share via die share => Sys2Proof.Machine.execL2share via die share s
  | .idset via chip => Sys2Proof.Machine.execIdset via chip s
  | .mctpUnsupported via => Sys2Proof.Machine.execMctpUnsupported via s
  | .getVersion via => Sys2Proof.Machine.execGetVersion via s
  | .getCapabilities via => Sys2Proof.Machine.execGetCapabilities via s
  | .negotiateAlgorithms via => Sys2Proof.Machine.execNegotiateAlgorithms via s
  | .getDigests via => Sys2Proof.Machine.execGetDigests via s
  | .getCertificate via => Sys2Proof.Machine.execGetCertificate via s
  | .challenge via => Sys2Proof.Machine.execChallenge via s
  | .getMeasurements via => Sys2Proof.Machine.execGetMeasurements via s
  | .flitReceive port errorsA errorsB flits => Sys2Proof.Machine.execFlitReceive port errorsA errorsB flits s
  | .nakReceive port seq => Sys2Proof.Machine.execNakReceive port seq s
  | .portReplayLimit port => Sys2Proof.Machine.execPortReplayLimit port s
  | .portIdleTimeout port => Sys2Proof.Machine.execPortIdleTimeout port s
  | .portTrainingComplete port training => Sys2Proof.Machine.execPortTrainingComplete port training s
  | .routeSwitch flow live => Sys2Proof.Machine.execRouteSwitch flow live s
  | .queueMap ctx q => Sys2Proof.Machine.execQueueMap ctx q s
  | .queuePriorityUnmap ctx q => Sys2Proof.Machine.execQueuePriorityUnmap ctx q s
  | .queueFairnessUnmap ctx q => Sys2Proof.Machine.execQueueFairnessUnmap ctx q s
  | .queueIdleUnmap ctx q => Sys2Proof.Machine.execQueueIdleUnmap ctx q s
  | .pktNop thread => Sys2Proof.Machine.execPktNop thread s
  | .pktLaunch thread => Sys2Proof.Machine.execPktLaunch thread s
  | .pktLaunchInd thread result => Sys2Proof.Machine.execPktLaunchInd thread result s
  | .prologueReinvoke thread result => Sys2Proof.Machine.execPrologueReinvoke thread result s
  | .prologueBudgetExpiry thread stopped => Sys2Proof.Machine.execPrologueBudgetExpiry thread stopped s
  | .pktWaitmem thread => Sys2Proof.Machine.execPktWaitmem thread s
  | .waitmemLineChange thread => Sys2Proof.Machine.execWaitmemLineChange thread s
  | .waitmemHostPoll thread => Sys2Proof.Machine.execWaitmemHostPoll thread s
  | .pktSignal thread => Sys2Proof.Machine.execPktSignal thread s
  | .pktLoop thread => Sys2Proof.Machine.execPktLoop thread s
  | .pktEndloop thread => Sys2Proof.Machine.execPktEndloop thread s
  | .pktIf thread => Sys2Proof.Machine.execPktIf thread s
  | .pktElse thread => Sys2Proof.Machine.execPktElse thread s
  | .pktEndif thread => Sys2Proof.Machine.execPktEndif thread s
  | .pktCall thread => Sys2Proof.Machine.execPktCall thread s
  | .pktReturn thread => Sys2Proof.Machine.execPktReturn thread s
  | .pktJump thread => Sys2Proof.Machine.execPktJump thread s
  | .pktCopy thread => Sys2Proof.Machine.execPktCopy thread s
  | .pktGraphSubmit thread => Sys2Proof.Machine.execPktGraphSubmit thread s
  | .pktDxRun thread => Sys2Proof.Machine.execPktDxRun thread s
  | .pktInval thread => Sys2Proof.Machine.execPktInval thread s
  | .pktReplay thread => Sys2Proof.Machine.execPktReplay thread s
  | .pktFence thread => Sys2Proof.Machine.execPktFence thread s
  | .crewPlace launch core partition => Sys2Proof.Machine.execCrewPlace launch core partition s
  | .folioGroupPlace launch group folio partitions => Sys2Proof.Machine.execFolioGroupPlace launch group folio partitions s
  | .gangReservationTimeout launch => Sys2Proof.Machine.execGangReservationTimeout launch s
  | .gangStarvedTimeout launch => Sys2Proof.Machine.execGangStarvedTimeout launch s
  | .launchComplete launch => Sys2Proof.Machine.execLaunchComplete launch s
  | .forkParentResume crew core partition => Sys2Proof.Machine.execForkParentResume crew core partition s
  | .enqSwapOut crew => Sys2Proof.Machine.execEnqSwapOut crew s
  | .enqSwappedResume crew core partition => Sys2Proof.Machine.execEnqSwappedResume crew core partition s
  | .taskDispatch ctx queue => Sys2Proof.Machine.execTaskDispatch ctx queue s
  | .heldTaskInsert ctx queue => Sys2Proof.Machine.execHeldTaskInsert ctx queue s
  | .taskComplete crews => Sys2Proof.Machine.execTaskComplete crews s
  | .remoteEnqArrival ctx src token queue depth record => Sys2Proof.Machine.execRemoteEnqArrival ctx src token queue depth record s
  | .enqAckReceive ctx token code => Sys2Proof.Machine.execEnqAckReceive ctx token code s
  | .dxStageForm ctx handle => Sys2Proof.Machine.execDxStageForm ctx handle s
  | .dxEvalComplete ctx handle => Sys2Proof.Machine.execDxEvalComplete ctx handle s
  | .dxJacobianComplete ctx handle => Sys2Proof.Machine.execDxJacobianComplete ctx handle s
  | .dxEventEvalComplete ctx handle => Sys2Proof.Machine.execDxEventEvalComplete ctx handle s
  | .dxRunComplete ctx handle => Sys2Proof.Machine.execDxRunComplete ctx handle s
  | .dxStartExchange ctx handle role n digest => Sys2Proof.Machine.execDxStartExchange ctx handle role n digest s
  | .quiresyncArrival ctx handle role msg => Sys2Proof.Machine.execQuiresyncArrival ctx handle role msg s
  | .dxMemberStartTimeout ctx handle => Sys2Proof.Machine.execDxMemberStartTimeout ctx handle s
  | .dxPeerSilentTimeout ctx handle role => Sys2Proof.Machine.execDxPeerSilentTimeout ctx handle role s
  | .collAnnounceReceive ctx handle role ann => Sys2Proof.Machine.execCollAnnounceReceive ctx handle role ann s
  | .collOpenTimeout ctx handle => Sys2Proof.Machine.execCollOpenTimeout ctx handle s
  | .collChunkReceive ctx handle role first bytes => Sys2Proof.Machine.execCollChunkReceive ctx handle role first bytes s
  | .earlyLandingArrival ctx quire tag role first bytes => Sys2Proof.Machine.execEarlyLandingArrival ctx quire tag role first bytes s
  | .repartHistogramPass ctx handle => Sys2Proof.Machine.execRepartHistogramPass ctx handle s
  | .repartRecordChunk ctx handle => Sys2Proof.Machine.execRepartRecordChunk ctx handle s
  | .collMemberComplete ctx handle => Sys2Proof.Machine.execCollMemberComplete ctx handle s
  | .barQuireArrivalMsg ctx quire tag chip crew team => Sys2Proof.Machine.execBarQuireArrivalMsg ctx quire tag chip crew team s
  | .putrArrival ctx src token size lanes ctr => Sys2Proof.Machine.execPutrArrival ctx src token size lanes ctr s
  | .rredArrival ctx src token ty isMax lanes ctr => Sys2Proof.Machine.execRredArrival ctx src token ty isMax lanes ctr s
  | .getrRequestArrival ctx src token size lanes => Sys2Proof.Machine.execGetrRequestArrival ctx src token size lanes s
  | .getrResponse ctx src token lanes denied => Sys2Proof.Machine.execGetrResponse ctx src token lanes denied s
  | .remoteWriteAck ctx src token lanes denied => Sys2Proof.Machine.execRemoteWriteAck ctx src token lanes denied s
  | .triggeredSendFire ctx idx => Sys2Proof.Machine.execTriggeredSendFire ctx idx s
  | .triggeredSendArrival ctx src token dstva bytes poison ctr => Sys2Proof.Machine.execTriggeredSendArrival ctx src token dstva bytes poison ctr s
  | .govWindowStart core => Sys2Proof.Machine.execGovWindowStart core s
  | .watchdogExpiry team => Sys2Proof.Machine.execWatchdogExpiry team s
  | .waitaWakeReturn team => Sys2Proof.Machine.execWaitaWakeReturn team s
  | .deferredEngineTrap team => Sys2Proof.Machine.execDeferredEngineTrap team s
  | .memResponseReturn team idx => Sys2Proof.Machine.execMemResponseReturn team idx s
  | .cpyTransferStart core chan => Sys2Proof.Machine.execCpyTransferStart core chan s
  | .cpyTransferComplete core chan => Sys2Proof.Machine.execCpyTransferComplete core chan s
  | .gthCommandComplete core => Sys2Proof.Machine.execGthCommandComplete core s
  | .matrixCommandStart crew => Sys2Proof.Machine.execMatrixCommandStart crew s
  | .matrixCommandComplete crew => Sys2Proof.Machine.execMatrixCommandComplete crew s
  | .feedEntryFill team stream => Sys2Proof.Machine.execFeedEntryFill team stream s
  | .ringSlotFilled crew ring slot => Sys2Proof.Machine.execRingSlotFilled crew ring slot s
  | .ringProducerClose crew ring prod => Sys2Proof.Machine.execRingProducerClose crew ring prod s
  | .pktReservedOpcode thread => Sys2Proof.Machine.execPktReservedOpcode thread s
  | .copyPacketComplete ctx q => Sys2Proof.Machine.execCopyPacketComplete ctx q s

end Sys2Proof.Machine
end

