-- ==== Sys2Proof/Machine/Place.lean ====
section
/-! DEFINITION. What memory does between two steps, and a program put in place by hand. -/

namespace Sys2Proof.Machine

/-- A word comes to core c as the writes of it stand; or a margin cache, c = 512 + die, takes it from its home; or the L1 of a core, c = 1024 + core,
takes the form that stands beyond it. A poisoned form of a cache stays (01 R24). -/
def settleWord (s : State) (c w : Nat) : State :=
  let out (i : Nat) (l : List StaleWord) : List StaleWord := l.filter (fun e => !(e.core == i && e.word == w))
  if c < 512 then { s with stale := out c s.stale }
  else if c < 1024 then
    if (formOf s.caches.marginOld (c - 512) w).any (·.bad) then s
    else { s with stale := s.stale.filter (fun e => !(e.core / 128 == c - 512 && e.word == w)),
                  caches := { s.caches with marginOld := out (c - 512) s.caches.marginOld } }
  else
    match formOf s.caches.l1Old (c - 1024) w with
    | some e =>
      if e.bad then s
      else { s with caches := { s.caches with
        l1Old := out (c - 1024) s.caches.l1Old ++
          ((engineForm s (c - 1024) (.phys (8 * w))).map (fun e => { e with core := c - 1024 })).toList } }
    | none => s

/-- The lines that have left an L2 are written to their home (09 R180). -/
def writeOut (s : State) : State :=
  if s.caches.out.isEmpty then s
  else let t := s.caches.out.foldl State.evict s; { t with caches := { t.caches with out := [] } }

/-- What memory does by itself between two steps of the device: lines that have left an L2 go to their home; an L2 or a margin cache may write
a line to its home, a write may reach the host, and a write may reach a core that it had not reached, or a cache that holds an older form. -/
def drift (s : State) (n : Nat) : State :=
  let s := writeOut s
  let s := match Config.evicts n with
    | some line => s.evict line
    | none => s
  let s := match Config.lands n with
    | some i => landAt s i
    | none => s
  match Config.settles n with
  | some (c, w) => settleWord s c w
  | none => s

/-- Bytes written at home from a physical address on, on die 0 of LPDDR-6. -/
def pokeLpddr (s : State) (addr : Nat) (bytes : List Byte) : State := s.putHomeBytes (physKey 0 0 addr) bytes

/-- One launch, crew and team on core 0 of context 0 at virtual address 2^34 (an identity-mapped 16 GiB page, RWX), the
octet of code there holding the instruction in slot 1 and its second word in slot 2, with a pace word of 0. -/
def placeWord (s : State) (nbits w : Nat) : State :=
  let v := w % 2 ^ nbits
  let s := pokeLpddr s 0x1000 (leBytes 8 (0x2000 + 1))                        -- level 0, entry 0: the table at 0x2000
  let s := pokeLpddr s (0x2000 + 8) (leBytes 8 (2 ^ 54 + 2 ^ 34 + 0x7D))       -- level 1, entry 1: a leaf, V A D R W X
  let s := pokeLpddr s (2 ^ 34) (leBytes 4 0 ++ leBytes 4 (v % 2 ^ 32) ++ leBytes 4 (v / 2 ^ 32))
  let s := s.updCtx 0 (fun c => { c with ptBase := 0x1000 })
  let lrec : LRec := { entry := 2 ^ 34, regs := 128, flags := 0x10, scratch := 4096 }
  let s := s.setLaunch 0 { live := true, lrec := lrec, liveCrews := 1, nextIx := 1, codeMem := s.mem, codeL2 := s.l2 }
  let s := s.setCrew 0 { status := .resident, teams := [0], scratchSize := 4096 }
  let s := s.setTeam 0 { status := .run, nregs := 128, pc := w64 (2 ^ 34 + 4), mask := fullMask 5 }
  { s with recovery := false, cur := 0, turn := none, nextTeam := max s.nextTeam 1, nextCrew := max s.nextCrew 1, nextLaunch := max s.nextLaunch 1 }

end Sys2Proof.Machine
end

