-- ==== Sys2Proof/Machine/Schedule.lean ====
section
/-! DEFINITION. Which team issues next on a core (08 R158, R162, R163, R175), and what moves between two steps: cores, which have no
common clock, in a free order, and device events. -/

namespace Sys2Proof.Machine

/-! ### Selection on a core -/

/-- What a team of a core would do next: the port at which it is ready, if it takes one, the cycle in which that port can select it,
its age there, and its slot. -/
structure Bid where
  team : Nat
  port : Option Nat             -- partition * 4 + port
  start : Nat
  age : Nat
  slot : Nat
  deriving DecidableEq, Repr

/-- The step that the team would make were it its turn. -/
def stepOf (s : State) (ti : Nat) : State :=
  match fetch { s with cur := ti, turn := none } with
  | (s', some i) => (match exec i s' with
    | .next t => t
    | _ => s')
  | (s', none) => s'

/-- What the team would do: nothing while it is not ready (R162); otherwise its next pass, or a step that takes no port: a trap at
decode, a suspension, a block, the end of a wait, an attempt at an object. -/
def bidOf (s : State) (ti : Nat) : Option Bid :=
  let old := s.team ti
  let new := (stepOf s ti).team ti
  if new.status == old.status && new.pc == old.pc && new.nIssued == old.nIssued && new.passes.length == old.passes.length &&
      new.inHandler == old.inHandler && new.tries == old.tries then none
  else
    let passed := !old.parted && (new.nIssued != old.nIssued || decide (old.passes.length < new.passes.length) || new.parted)
    let start := if passed then new.issued.2 else max (s.core (s.crew old.crew).core).cycle old.nextIssue
    some { team := ti, port := if passed then some (old.partition * 4 + new.issued.1) else none, start := start,
           age := start - cget 0 old.portLast new.issued.1, slot := old.slot }

/-- The better of two bids of one port that can be selected in the same cycle: the greater age, on a tie the lower slot (R163). -/
def Bid.beats (x y : Bid) : Bool := decide (y.age < x.age) || (x.age == y.age && decide (x.slot < y.slot))

/-- The bid that a list of bids for one port and cycle selects. -/
def bestBid : List Bid → Option Bid
  | [] => none
  | x :: r => match bestBid r with
    | some y => some (if y.beats x then y else x)
    | none => some x

/-- The bids of a core. -/
def coreBids (s : State) (core : Nat) : List Bid := s.teams.filterMap (fun e => if (s.crew e.2.crew).core = core then bidOf s e.1 else none)

/-- The least cycle of a list of bids. -/
def firstStart : List Bid → Option Nat
  | [] => none
  | b :: r => match firstStart r with
    | some c => some (min b.start c)
    | none => some b.start

/-- The governor blocks a team of the core, and its window ends before any team can go on (08 R176). -/
def windowEnds (s : State) (core : Nat) (bids : List Bid) : Bool :=
  s.teams.any (fun e => e.2.status == .wait 4 && (s.crew e.2.crew).core == core && (s.crew e.2.crew).resident && !bids.any (·.team == e.1)) &&
  (match firstStart bids with
    | some c => decide (windowEnd (s.core core) ≤ c)
    | none => true)

/-- Which of the bids of a core goes next. Time passes to the least cycle in which a port can select a team or a team can go on without one; each
port selects among the teams ready there in that cycle, and the order of what happens in one cycle is free. -/
def selected (s : State) (bids : List Bid) : Option Nat :=
  let bids := bids.filter (fun b => some b.start == firstStart bids)
  let ports := (bids.map (·.port)).foldl insertNew []
  let port := (ports[Config.choice s.fresh % ports.length]?).getD none
  (bestBid (bids.filter (fun b => b.port == port))).map (·.team)

/-- A team of a core whose sleep has ended goes on (18 R358), or takes the trap of an engine that awaits it (10 R206), if there is one. -/
def dueTeam (s : State) (core : Nat) : State :=
  match s.teams.find? (fun e => (s.crew e.2.crew).core == core && (s.crew e.2.crew).resident && (match e.2.status with
      | .sleep m => m.woken
      | .run => !e.2.engTraps.isEmpty
      | _ => false)) with
  | some e => engineTrap (wakeReturn s e.1) e.1
  | none => s

/-! ### The schedule (log 4) -/

/-- A cycle of a core passes in which no team issues. -/
def idleCycle (s : State) (core : Nat) : State :=
  if s.freezing == 0 && !s.tripped then s.updCore core (fun c => { c with cycle := c.cycle + 1 }) else s

/-- The turn goes to a core: its governor's window ends, or its selected team moves; with none ready, a cycle passes. -/
def coreTurn (s : State) (core : Nat) : State :=
  let bids := coreBids s core
  let s := { s with cur := s.nextTeam, turn := none }
  if windowEnds s core bids then nextWindow s core
  else match selected s bids with
    | some t => { s with cur := t }
    | none => idleCycle s core

/-- The links count their own cycles, unless every clock has stopped (00 R2, 01 R27). -/
def linksRunOn (s : State) (n : Nat) : State :=
  { s with linkCycle := if s.freezing = 2 then s.linkCycle
    else (List.range 18).foldl (fun m k => cset 0 m k (cget 0 m k + Config.linkCycles n k)) s.linkCycle }

/-- What moves after a step: a device event or a core, as the schedule, which is free, says. After a free number of such choices the
next core in rotation has its turn whatever the schedule says, so that a ready team issues (R163, R175). -/
def scheduleNext (s : State) : State :=
  let n := s.fresh
  let s := tellEnded (linksRunOn (drift { s with fresh := n + 1 } n) n)
  if s.fairIn = 0 then
    coreTurn (dueTeam { s with fairIn := Config.fair n, fairCore := (s.fairCore + 1) % 512 } s.fairCore) s.fairCore
  else
    let s := { s with fairIn := s.fairIn - 1 }
    match (Config.schedule n).2 with
    | some e => { s with turn := some e }
    | none => coreTurn s (Config.schedule n).1

/-- A next state with the schedule's choice in it. -/
def scheduled (o : Host.Outcome State Fault Refusal) : Host.Outcome State Fault Refusal :=
  match o with
  | .next s => .next (scheduleNext s)
  | .fault r => .fault r
  | .refused r => .refused r

end Sys2Proof.Machine
end

