-- ==== Sys2Proof/Machine/Step.lean ====
section
/-! DEFINITION. One step of the chip: the device event whose turn it is, or the next instruction of the team `cur`. -/

namespace Sys2Proof.Machine

/-- One step. A device event takes place, or the team `cur` fetches an instruction and runs it; then the schedule, which is
free, says what moves next. -/
def step (s : State) : Host.Outcome State Fault Refusal :=
  match s.turn with
  | some e => scheduled (exec e s)
  | none =>
    match fetch s with
    | (s', some i) => scheduled (exec i s')
    | (s', none) => scheduled (.next s')

/-- The state s with one launch of one crew of one team of 32 lanes placed on core 0, its code mapped, and the instruction
of nbits bits w at its PC, its turn next (log 6). -/
def State.withFetchWord (s : State) (nbits w : Nat) : State := placeWord s nbits w

end Sys2Proof.Machine
end

