-- ==== Sys2Proof/Safety.lean ====
section
/-! DEFINITION. The terms the statements use: a team ready to issue, what an instruction leaves when it completes, what it
leaves alone, and the canonical form of memory. -/

namespace Sys2Proof.Machine

/-! ### A team ready to issue -/

/-- The team whose turn it is. -/
def State.me (s : State) : Team := s.team s.cur

/-- The team `cur` may issue its instruction at once (08 R161 to R168): it runs on a core of a running context, no result of
an earlier instruction is outstanding, no register of it is poisoned, its octet's pace word is legal or already checked, no pass of
the instruction has been issued and its passes do not issue one by one (R163), and its lane count is one that a launch may declare
(04 R80). -/
def ready (s : State) : Bool :=
  canIssue s s.cur && !(s.me.enter && paceBad s.me.octet) && s.me.pend.isEmpty && s.me.flight.isEmpty &&
  s.me.vPoison.isEmpty && s.me.sPoison.isEmpty && s.me.passes.isEmpty && !s.me.onePass && decide (5 ≤ s.me.lanesLog ∧ s.me.lanesLog ≤ 10)

/-! ### What an instruction leaves -/

/-- A team without the bookkeeping of issue: when it may issue next, what it counts for traps and retries. -/
def Team.untimed (t : Team) : Team :=
  { t with wordReady := [], nextIssue := 0, portLast := [], holdId := none, nIssued := 0, lastPc := 0, status := .run,
           replayed := false, faultPages := [], doneLanes := 0, doneReads := [], tries := 0, passes := [], issued := (0, 0), enter := true,
           octetLate := false }

/-- A core without its clock and its issue ports. -/
def Core.untimed (c : Core) : Core := { c with cycle := 0, portFree := [] }

/-- The machine once the writes of the issuing team's registers that are due have been performed, when there is none. -/
def State.settled (s : State) : State := s.setTeam s.cur s.me

/-- The chip without its teams and cores. -/
def State.rest (s : State) : State := { s with teams := [], cores := [] }

/-- From s to t, nothing changed but team ti and the clocks of cores: memory, every other team, and everything else of the
chip are as they were. -/
def OnlyTeam (ti : Nat) (s t : State) : Prop :=
  t.rest = s.rest ∧
  (∀ j, j ≠ ti → t.team j = s.team j) ∧ (∀ c, (t.core c).untimed = (s.core c).untimed)

/-- The instruction i completes at s: a next state in which the issuing team runs on and holds what u holds, the bookkeeping
of issue apart, and nothing else has changed. -/
def RunsTo (i : Instr) (s : State) (u : Team) : Prop :=
  ∃ t, exec i s = .next t ∧ t.me.untimed = u.untimed ∧ t.me.status = .run ∧ OnlyTeam s.cur s t

/-- From s to t the issuing team has gone on to what u holds, and nothing else has changed but the clocks of cores and what the caches hold, which
an access uses on its way (09 R181). -/
def RunsCached (s t : State) (u : Team) : Prop :=
  t.me.untimed = u.untimed ∧ t.me.status = .run ∧ OnlyTeam s.cur { s with caches := t.caches, stale := t.stale } t

/-- Likewise, where the instruction first orders the accesses of its team: nothing has changed from s0, the state after that. -/
def RunsFrom (i : Instr) (s s0 : State) (u : Team) : Prop :=
  ∃ t, exec i s = .next t ∧ t.me.untimed = u.untimed ∧ t.me.status = .run ∧ OnlyTeam s.cur s0 t

/-- A team after one instruction of one word. -/
def Team.stepped (t : Team) : Team := { t with pc := nextPc t.pc 1 }

/-- The write of an S result due in a cycle: ZR discards it (14 R273). -/
def sWrite (t : Team) (d : Opnd) (v : W64) (due : Nat) : List PendWrite :=
  match d with
  | .s n => [{ reg := .s n.val, lane := 0, val := v, due := due, pc := t.pc }]
  | _ => []

/-- What an S operand reads: ZR reads 0. -/
def sVal (t : Team) (o : Opnd) : W64 :=
  match o with
  | .s n => cget 0 t.s n.val
  | _ => 0

/-- An S operand written at once. -/
def Team.putS (t : Team) (d : Opnd) (v : W64) : Team :=
  match d with
  | .s n => t.put (.s n.val) 0 v
  | _ => t

/-- The instruction i completes at s with v in d, L cycles after its pass (08 R165), and everything else as it was. -/
def GivesS (i : Instr) (s : State) (d : Opnd) (v : W64) (latency : Nat) : Prop :=
  ∃ c, (s.core (s.crew s.me.crew).core).cycle ≤ c ∧
    RunsTo i s { s.me.stepped with pend := sWrite s.me d v (c + latency) }

/-- The instruction i traps at s: a next state in which the team has taken the trap x (10 R210 to R212). -/
def Traps (i : Instr) (s : State) (code info0 info1 : Nat) (lane : Option Nat := none) : Prop :=
  exec i s = .next (stopped s s.cur (trapAt code info0 info1 lane))

/-- An address that a branch may go to (16 R298): not at a pace word, and below the windows. -/
def targetOk (v : W64) : Bool := v.toNat % 32 != 0 && decide (v.toNat < winLo)

/-! ### Lane-wise instructions (17 R315) -/

/-- An operand that is neither a queue nor the drain port. -/
def plainOpnd : Opnd → Bool
  | .q _ | .dq => false
  | _ => true

/-- The lanes in which an instruction has an effect: active, and passing the guard (14 R276). -/
def takesPart (t : Team) (l : Nat) : Bool := t.active l && t.guard 0 l

/-- The lanes of the team in which an instruction writes: those that take part, or every active lane for SEL (17 R327). -/
def writesLane (t : Team) (all : Bool) (l : Nat) : Prop := l < t.lanes ∧ t.active l = true ∧ (all = true ∨ t.guard 0 l = true)

/-- Every register that the operands name lies within the declared count (08 R171), V[Xn] in every active lane; none of the
operands is a queue or the drain port. -/
def inRange (t : Team) (ops : List (Opnd × Nat)) : Bool :=
  ops.all (fun x => plainOpnd x.1 && (vRange t x.1 x.2).isNone) &&
  (activeLanes t).all (fun l => ops.all (fun x => match x.1 with
    | .vx k => decide (vxIndex t 0 k.val l + x.2 ≤ t.nregs)
    | _ => true))

/-- What lane l computes from, with the values of its operands. -/
def laneOf (t : Team) (l a b d : Nat) : LaneIn :=
  { mr := t.mr, guard := t.guard 0 l, lane := l, z := zGet t.lfsr l, a := a, b := b, d := d }

/-- The value of an operand of n registers in lane l, no write being outstanding. -/
def opVal (t : Team) (n : Nat) (o : Opnd) (l : Nat) : Nat := readGrp t 0 n o l

/-- The instruction i completes at s with, in each lane it writes, the result `out` of that lane outstanding for d, and no
write of any other lane or register; its flags are ORed into FSR (13 R256), and the LFSRs of other lanes stay (R259). -/
def GivesLanes (i : Instr) (s : State) (words : Nat) (d : Opnd × Nat) (all : Bool) (out : Nat → LaneOut) : Prop :=
  ∃ (W : List PendWrite) (lf : Cells W32) (fl : Nat),
    RunsTo i s { s.me with pc := nextPc s.me.pc words, pend := W, fsr := s.me.fsr ||| w64 (fl % 32), lfsr := lf } ∧
    (∀ r l v, (∃ w ∈ W, w.reg = r ∧ w.lane = l ∧ w.val = v) ↔
      ∃ k, writesLane s.me all k ∧ (r, l, v) ∈ grpWrites s.me d.2 d.1 0 k (out k).val) ∧
    (∀ n, fl.testBit n = true ↔ ∃ l, writesLane s.me all l ∧ (out l).flags.testBit n = true) ∧
    (∀ l, ¬ writesLane s.me all l → zGet lf l = zGet s.me.lfsr l)

/-! ### Lane operations (17 R338) -/

/-- The lanes of C(l): active, and passing the guard. -/
def parts (t : Team) : List Nat := (List.range t.lanes).filter (takesPart t)

/-- What a lane operation computes from, its sources being registers: a and b by lane, and its S operands. -/
def wideOf (t : Team) (a b : Nat → Nat) (x y : Nat) : WideIn :=
  { mr := t.mr, lanes := t.lanes, cond := takesPart t, a := a, b := b, x := x, y := y, lf := t.lfsr }

/-- V[Xn] of the operands is within the declared count in every lane of the team, and no operand is a queue or the drain. -/
def inRangeAll (t : Team) (ops : List (Opnd × Nat)) : Bool :=
  inRange t ops && (List.range t.lanes).all (fun l => ops.all (fun x => match x.1 with
    | .vx k => decide (vxIndex t 0 k.val l + x.2 ≤ t.nregs)
    | _ => true))

/-- The writes of values by lane into a group of n registers, all due in one cycle. -/
def laneWrites (t : Team) (n : Nat) (d : Opnd) (vals : List (Nat × Nat)) (due : Nat) : List PendWrite :=
  vals.flatMap (fun v => (grpWrites t n d 0 v.1 v.2).map (fun w =>
    ({ reg := w.1, lane := w.2.1, val := w.2.2, due := due, pc := t.pc } : PendWrite)))

/-- The instruction i completes at s with the given values outstanding for d, in lanes; flags and LFSRs as given. -/
def GivesWide (i : Instr) (s : State) (n : Nat) (d : Opnd) (latency : Nat) (o : WideOut) : Prop :=
  ∃ c, (s.core (s.crew s.me.crew).core).cycle ≤ c ∧
    RunsTo i s { s.me.stepped with
      pend := laneWrites s.me n d o.vals (c + latency), fsr := s.me.fsr ||| w64 (o.flags % 32), lfsr := o.lf }

/-- Likewise for one value in the lanes of C(l), and no flag. -/
def GivesParts (i : Instr) (s : State) (n : Nat) (d : Opnd) (latency : Nat) (v : Nat → Nat) : Prop :=
  GivesWide i s n d latency { vals := (parts s.me).map (fun l => (l, v l)), lf := s.me.lfsr }

/-- A lane-wise instruction of one shape: its constructor, the types it accepts and those in which it rounds, and what it makes
of the elements of a, b and d. -/
structure LaneRow where
  con : Opnd → Opnd → Opnd → Instr
  tys : Nat → Bool
  rnds : Nat → Bool
  f : W64 → Nat → Nat → Nat → Nat → ElemOut

/-! ### A team's accesses (18 R348) -/

/-- The n bytes at a physical key exist (01 R12), and can be reached: host memory while a link is up (02 R44). -/
def reaches (s : State) (k n : Nat) : Bool := (keyKind k != 2 || hostUp s) && (span k n).all s.present

/-- Likewise for a place; scratch always can. -/
def placeReached (s : State) (p : Place) (n : Nat) : Bool :=
  match p with
  | .scratch .. => true
  | .phys k => reaches s k n
  | _ => false

/-- Where lane l's access of e bytes at va goes, when no walk is needed: in a scratch window that its crew may use, or in a page
that the lane's last-page register holds with the permission, whose memory can be reached; aligned to the element. -/
def spot (s : State) (acc : Acc) (e l va : Nat) : Option Place :=
  let a := teamAgent s s.cur none
  if va % e ≠ 0 ∨ 2 ^ 52 ≤ va then none
  else if va < winLo then
    match (cget [] s.me.lastPage l).find? (·.serves a.ctx acc va) with
    | some h => if reaches s (h.key va) e then some (.phys (h.key va)) else none
    | none => none
  else if windowPlace s a va = .prot ∨ windowPlace s a (va + e - 1) = .prot then none
  else some (windowPlace s a va)

/-- The issuing team's core has room for one memory request of each of its lanes (00 R1). -/
def requestsFit (s : State) : Bool := decide (outstanding s (s.crew s.me.crew).core + s.me.lanes ≤ 1024)

/-- addr[l] of LD, ST and their like: the base plus the scaled offset (18 R348). -/
def addrFm (t : Team) (e : Nat) (a : Opnd) (off : BitVec 8) (l : Nat) : Nat := wrapN 64 (readGrp t 0 2 a l + off.toInt * e)
/-- addr[l] of LDX, STX and the atomics: the base plus the scaled 32-bit index. -/
def addrX (t : Team) (e : Nat) (a b : Opnd) (l : Nat) : Nat := wrapN 64 (readGrp t 0 2 a l + sextN 32 (readGrp t 0 1 b l) * e)

/-- The bytes that an access of e bytes at a place covers, and the one at an offset from its start. -/
def Place.covers (p : Place) (e : Nat) (q : Place) : Option Nat :=
  match p, q with
  | .phys k, .phys j => if k ≤ j ∧ j < k + e then some (j - k) else none
  | .scratch c o, .scratch c' o' => if c = c' ∧ o ≤ o' ∧ o' < o + e then some (o' - o) else none
  | _, _ => none

/-- One byte at a place, as the device sees it. -/
def byteAt (s : State) : Place → Byte
  | .phys k => s.devByte k
  | .scratch c o => scratchAt (s.crew c) o
  | _ => 0

/-- The instruction i completes at s as a store of the issuing team: the team goes on with nothing else of it changed; the byte
at each place is the one of the highest lane that stored there, and otherwise what it was. -/
def Stores (i : Instr) (s : State) (e : Nat) (ls : List Nat) (p : Nat → Place) (v : Nat → Nat) : Prop :=
  ∃ t, exec i s = .next t ∧ t.me.untimed = s.me.stepped.untimed ∧ t.me.status = .run ∧
    (∀ q, byteAt t q = match ls.reverse.findSome? (fun l => ((p l).covers e q).map (fun o => (leBytes e (v l)).getD o 0)) with
      | some b => b
      | none => byteAt s q) ∧
    (∀ j, j ≠ s.cur → t.team j = s.team j ∨ t.team j = (s.team j).wake)

/-- An atomic of one shape: its constructor, opcode and types, how many operands Vd holds, and the new value of a location from its
old one and those operands. -/
structure AtomRow where
  con : Opnd → Opnd → Opnd → Instr
  op : Nat
  tys : Nat → Bool
  k : Nat
  new : Nat → Nat → Nat → Nat

/-! ### Memory -/

/-- Memory at home is in canonical form: keys strictly rising, and no entry equal to what an unlisted byte reads as. -/
def memWf (s : State) : Bool := s.mem.all (fun e => e.2 != s.blank e.1) && decide (s.mem.Pairwise (fun a b => a.1 < b.1))

/-- The bytes newer than at home, likewise, each where memory is. -/
def l2Wf (s : State) : Bool := s.l2.all (fun e => e.2 != none && s.present e.1) && decide (s.l2.Pairwise (fun a b => a.1 < b.1))

/-- Both are in canonical form. -/
def Memory.wf (s : State) : Bool := memWf s && l2Wf s

end Sys2Proof.Machine
end

