-- ==== Sys2Proof/WellFormed.lean ====
section
/-! DEFINITION. The instructions that words of memory hold (14 R271, 15 R288, R291): every instruction of the opcode grid with
any operand codes, and every word whose opcode is not assigned. A device event is no instruction of a program, and a word
of an assigned opcode is no unassigned one. -/

namespace Sys2Proof

/-- The instruction has an encoding: it is no device event. -/
def Instr.encoded (i : Instr) : Bool := !(encode i).isEmpty

/-- A word carries an opcode that the grid leaves unassigned (R291): decoding finds no instruction of the grid in it. -/
def unassignedWord (w : W32) : Bool := decodeWord w 0 == .unassignedOpcode w

/-- The word of an unassigned instruction holds an unassigned opcode. -/
def Instr.opcodeFits : Instr → Bool
  | .unassignedOpcode w => unassignedWord w
  | _ => true

/-- Well-formed: words of memory hold it, and decoding them finds it. -/
def Instr.wellFormed (i : Instr) : Bool := i.encoded && i.opcodeFits

end Sys2Proof
end

