-- ==== Sys2Proof/Certificates/Slice0/Obligations.lean ====
section
/-! DEFINITION. The statements for the provers. Each holds of every state that meets its premises; what a premise asks is the
condition under which the spec has the instruction execute normally. -/

section

open Sys2Proof Sys2Proof.Machine

/-! ### Decoding, and one step -/

/-- Decoding is right on words of the spec's own examples and encoding tables: R272 to R274, and the Word columns of 16, 17,
18, 19 and 20. -/
def Obligations.DecodesExampleWords : Prop :=
  decodeTableWord 32 0x00000000 = some (.nop (.v 0) (.v 0) (.v 0)) ∧
  decodeTableWord 32 0x01000003 = some (.bra 3) ∧
  decodeTableWord 32 0x03850006 = some (.brz (.s 5) 6) ∧
  decodeTableWord 32 0x0481FFFE = some (.brnz (.s 1) 0xFFFE) ∧
  decodeTableWord 32 0x0A00BF00 = some (.bri (.v 0) (.s 63) (.v 0)) ∧
  decodeTableWord 32 0x10838182 = some (.sadd (.s 3) (.s 1) (.s 2)) ∧
  decodeTableWord 32 0x1E81FFFF = some (.saddi (.s 1) 0xFFFF) ∧
  decodeTableWord 64 0x000000643E03C9C9 = some (.li32 (.v 3) .zr .zr 0x64) ∧
  decodeTableWord 32 0x2001CA03 = some (.add (.v 1) .lid (.v 3)) ∧
  decodeTableWord 32 0x39E1CA02 = some (.cmpLt (.p 1) .lid (.v 2)) ∧
  decodeTableWord 32 0x8C0184CA = some (.stx (.v 1) (.s 4) .lid) ∧
  decodeTableWord 32 0x90848000 = some (.ldn (.s 4) (.s 0) 0) ∧
  decodeTableWord 32 0xE4000000 = some (.endTeam (.v 0) (.v 0) (.v 0)) ∧
  decodeTableWord 32 0xD0000000 = some (.unassignedOpcode 0xD0000000)

/-- Every word has one meaning: what a list of words decodes to is well-formed, its own words are those decoded, and the words
after them are left (15 R288, R291; the other direction is the family RoundTrip). -/
def Obligations.DecodingIsExact : Prop :=
  ∀ (w lit : W32) (rest : List W32), ∃ i rest', decode (w :: lit :: rest) = .ok (i, rest') ∧ i.wellFormed = true ∧
    encode i ++ rest' = w :: lit :: rest

/-- A step of a team runs the instruction at its PC. Where it is the turn of the team `cur`, which runs, has a PC that code may
lie at, and whose fetch translates to the place k, and the eight words of the octet there decode at the PC's slot to i, the step
is exec of i, in the state in which the octet is latched, the translation made, and whether another team shares the team's ports noted
(08 R163), and then the schedule's choice of what moves next; the words are those of memory where every store to the code was visible when
the launch was accepted and none has been made since (11 R233). Where it is a device event's turn, the step is that event (spec/95), and then the schedule's choice. -/
def Obligations.StepRunsTheInstructionAtPc : Prop :=
  (∀ (s s' : State) (k : Nat) (i : Instr), s.turn = none → canIssue s s.cur = true → s.me.status = .run → s.me.pc.toNat < winLo →
    translate s (teamAgent s s.cur none) .fetch s.me.pc.toNat = (s', .ok k) →
    (decode ((octetWords (fetchBytes s' s.cur (k - s.me.pc.toNat % 32) 32)).drop (slotOf s.me.pc) ++ [0, 0])).toOption.map (·.1) = some i →
    i.wellFormed = true →
    step s = scheduled (exec i (s'.updTeam s.cur
      (fun t => { t with octet := octetWords (fetchBytes s' s.cur (k - s.me.pc.toNat % 32) 32), onePass := sharesPort s s.cur })))) ∧
  (∀ (s : State) (ti k n : Nat) (l : Launch), l = s.launch (s.crew (s.team ti).crew).launch → l.codeOld = [] → (keyKind k ≠ 2 ∨ hostUp s = true) →
    ({ s with mem := l.codeMem, l2 := l.codeL2 } : State).devBytes k n = s.devBytes k n → fetchBytes s ti k n = s.devBytes k n) ∧
  (∀ (s : State) (e : Instr), s.turn = some e → step s = scheduled (exec e s))

/-- What the spec gives for reset and for a team's start that the model holds in constants: no team runs, the fault ring is
empty, every dependency counter is 0, the clocks run at 1 GHz, MR's start value is 0x4000_0140 (14 R275), and with no image in either
slot the chip is in recovery mode (01 R31, R32); and what is the model's own: memory is in canonical form, what is present reads 0 and
no byte waits to reach home (logs 1, 2, 124). -/
def Obligations.ResetLeavesTheChipIdle : Prop :=
  Memory.wf State.reset = true ∧ (∀ i, (State.reset.team i).status = .free ∧ (State.reset.team i).mr = 0x40000140) ∧
  (∀ k, State.reset.present k = true → State.reset.homeByte k = 0 ∧ State.reset.devByte k = 0) ∧
  (∀ c, (State.reset.ctx c).frHead = 0 ∧ (State.reset.ctx c).frTail = 0 ∧ (State.reset.ctx c).bound0 = false) ∧
  (∀ d, (State.reset.die d).mhz = 1000) ∧ State.reset.freezing = 0 ∧ State.reset.recovery = true ∧ State.reset.l2 = [] ∧
  (∀ k, cget 0 State.reset.deps k = 0)

/-! ### Control (16 R297 to R308) -/

/-- NOP goes on to the next slot and has no other effect (R301). BRA, BRZ, BRNZ and BRI (R302, R303): where the target may be gone to, a taken branch continues there and one that is not
taken at the next slot; nothing else changes. A target of BRI that is misaligned, at a pace word, above the address space or in the
windows traps with the target in INFO0, and so does one of BRA at a pace word (R298, R303). -/
def Obligations.NopAndBranches : Prop :=
  ∀ (s : State) (off : BitVec 24) (imm : BitVec 16) (d a : Opnd), ready s = true → okS d = true → okS a = true →
    RunsTo (.nop (.v 0) (.v 0) (.v 0)) s s.me.stepped ∧
    (targetOk (targetOf s.me.pc off.toInt) = true → RunsTo (.bra off) s { s.me with pc := targetOf s.me.pc off.toInt }) ∧
    (sVal s.me d = 0 → targetOk (targetOf s.me.pc imm.toInt) = true →
      RunsTo (.brz d imm) s { s.me with pc := targetOf s.me.pc imm.toInt }) ∧
    (sVal s.me d ≠ 0 → RunsTo (.brz d imm) s s.me.stepped) ∧
    (sVal s.me d ≠ 0 → targetOk (targetOf s.me.pc imm.toInt) = true →
      RunsTo (.brnz d imm) s { s.me with pc := targetOf s.me.pc imm.toInt }) ∧
    (sVal s.me d = 0 → RunsTo (.brnz d imm) s s.me.stepped) ∧
    ((sVal s.me a).toNat % 4 = 0 → targetOk (sVal s.me a) = true →
      RunsTo (.bri (.v 0) a (.v 0)) s { s.me with pc := sVal s.me a }) ∧
    ((targetOf s.me.pc off.toInt).toNat % 32 = 0 → Traps (.bra off) s 0x05 (targetOf s.me.pc off.toInt).toNat 0) ∧
    (∀ v, v = (sVal s.me a).toNat → (v % 4 ≠ 0 → Traps (.bri (.v 0) a (.v 0)) s 0x0B v 0) ∧
      (v % 32 = 0 → Traps (.bri (.v 0) a (.v 0)) s 0x05 v 0) ∧
      (v % 4 = 0 → v % 32 ≠ 0 → 2 ^ 52 ≤ v → Traps (.bri (.v 0) a (.v 0)) s 0x0C v 0) ∧
      (v % 4 = 0 → v % 32 ≠ 0 → winLo ≤ v → v < 2 ^ 52 → Traps (.bri (.v 0) a (.v 0)) s 0x0D v 0))

/-- CALL and RET (R304): CALL pushes S63, puts the address after itself there and goes to its target; RET goes to S63 and pops
into it; a full stack at CALL and an empty one at RET trap STACK_OVERFLOW with INFO0 2 and 3. RCV, JOIN and YIELD (R305, R306),
with the traps of a full and an empty reconvergence stack. BRG (R306): with no lane passing the guard it falls through; with every
lane it goes to its target; otherwise it pushes the other lanes as a pending path and goes to its target with those that pass. -/
def Obligations.ControlStacks : Prop :=
  (∀ (s : State) (off : BitVec 24), ready s = true →
    (s.me.cstack.length < 16 → targetOk (targetOf s.me.pc off.toInt) = true →
      RunsTo (.call off) s { s.me.putS (.s 63) (nextPc s.me.pc 1) with
        cstack := sVal s.me (.s 63) :: s.me.cstack, pc := targetOf s.me.pc off.toInt }) ∧
    (16 ≤ s.me.cstack.length → Traps (.call off) s 0x10 2 0) ∧
    (∀ link rest, s.me.cstack = link :: rest → targetOk (sVal s.me (.s 63)) = true →
      RunsTo (.ret (.v 0) (.v 0) (.v 0)) s { s.me.putS (.s 63) link with cstack := rest, pc := sVal s.me (.s 63) }) ∧
    (s.me.cstack = [] → Traps (.ret (.v 0) (.v 0) (.v 0)) s 0x10 3 0)) ∧
  (∀ (s : State) (off : BitVec 24), ready s = true →
    (s.me.rstack.length < 32 → RunsTo (.rcv off) s { s.me.stepped with
      rstack := { pending := false, addr := targetOf s.me.pc off.toInt, mask := s.me.mask, mr := s.me.mr } :: s.me.rstack }) ∧
    (32 ≤ s.me.rstack.length → Traps (.rcv off) s 0x10 0 0) ∧
    (∀ e rest, s.me.rstack = e :: rest → e.pending = true →
      RunsTo (.join (.v 0) (.v 0) (.v 0)) s { s.me with rstack := rest, pc := e.addr, mask := e.mask, mr := e.mr } ∧
      RunsTo (.yield (.v 0) (.v 0) (.v 0)) s { s.me with
        rstack := { pending := true, addr := nextPc s.me.pc 1, mask := s.me.mask, mr := s.me.mr } :: rest,
        pc := e.addr, mask := e.mask, mr := e.mr }) ∧
    (∀ e rest, s.me.rstack = e :: rest → e.pending = false →
      RunsTo (.join (.v 0) (.v 0) (.v 0)) s { s.me.stepped with rstack := rest, mask := e.mask, mr := e.mr } ∧
      RunsTo (.yield (.v 0) (.v 0) (.v 0)) s s.me.stepped) ∧
    (s.me.rstack = [] → Traps (.join (.v 0) (.v 0) (.v 0)) s 0x10 1 0 ∧
      RunsTo (.yield (.v 0) (.v 0) (.v 0)) s s.me.stepped)) ∧
  (∀ (s : State) (off : BitVec 24), ready s = true → ∃ yes : LaneMask,
    (∀ l, yes.getLsbD l = (decide (l < s.me.lanes) && takesPart s.me l)) ∧
    (yes = 0 → RunsTo (.brg off) s s.me.stepped) ∧
    (yes ≠ 0 → s.me.mask &&& ~~~yes = 0 → targetOk (targetOf s.me.pc off.toInt) = true →
      RunsTo (.brg off) s { s.me with pc := targetOf s.me.pc off.toInt }) ∧
    (yes ≠ 0 → s.me.mask &&& ~~~yes ≠ 0 → s.me.rstack.length < 32 → targetOk (targetOf s.me.pc off.toInt) = true →
      RunsTo (.brg off) s { s.me with
        rstack := { pending := true, addr := nextPc s.me.pc 1, mask := s.me.mask &&& ~~~yes, mr := s.me.mr } :: s.me.rstack,
        mask := yes, pc := targetOf s.me.pc off.toInt }) ∧
    (yes ≠ 0 → s.me.mask &&& ~~~yes ≠ 0 → 32 ≤ s.me.rstack.length → Traps (.brg off) s 0x10 0 0))

/-! ### The mode register (16 R309, R310) -/

/-- The four immediate forms replace one span of MR and keep every other bit (R309): GUARD bits 0 to 4, TYPE 5 to 19, RND 20 to
30, SRC 32 to 46; an immediate with a bit above its span traps ILLEGAL_OPERAND. MODE.SET loads all of MR from an S register whose
bits 31 and 63 to 47 are 0, and traps otherwise; MODE.GET gives MR (R310). -/
def Obligations.ModeRegister : Prop :=
  (∀ (s : State) (imm : BitVec 16), ready s = true →
    ∀ e ∈ [(Instr.modeGuard (.v 0) imm, 0, 5), (Instr.modeType (.v 0) imm, 5, 15), (Instr.modeRnd (.v 0) imm, 20, 11),
        (Instr.modeSrc (.v 0) imm, 32, 15)],
      (imm.toNat < 2 ^ e.2.2 → ∃ m : W64, RunsTo e.1 s { s.me.stepped with mr := m } ∧
        ∀ k < 64, m.getLsbD k = if e.2.1 ≤ k ∧ k < e.2.1 + e.2.2 then imm.getLsbD (k - e.2.1) else s.me.mr.getLsbD k) ∧
      (2 ^ e.2.2 ≤ imm.toNat → ∃ w : W32, Traps e.1 s 0x02 imm.toNat w.toNat)) ∧
  (∀ (s : State) (a d : Opnd), ready s = true → okS a = true → okS d = true →
    ((sVal s.me a).getLsbD 31 = false → (sVal s.me a).toNat < 2 ^ 47 →
      RunsTo (.modeSet (.v 0) a (.v 0)) s { s.me.stepped with mr := sVal s.me a }) ∧
    ((sVal s.me a).getLsbD 31 = true ∨ 2 ^ 47 ≤ (sVal s.me a).toNat →
      ∃ w : W32, Traps (.modeSet (.v 0) a (.v 0)) s 0x02 (sVal s.me a).toNat w.toNat) ∧
    GivesS (.modeGet d (.v 0) (.v 0)) s d s.me.mr 4)

/-! ### Scalar integers (16 R312 to R314) -/

/-- The scalar operations of R312, on the 64-bit values of Sa and Sb, with their latency; everything else is unchanged. SDIV (R313) by
zero gives −1, otherwise the quotient truncated toward zero. SLI, SLIH and SADDI (R314). -/
def Obligations.ScalarResults : Prop :=
  ∀ (s : State) (d a b : Opnd) (imm : BitVec 16), ready s = true → okS d = true → okS a = true → okS b = true →
    ∀ x y, x = sVal s.me a → y = sVal s.me b →
    GivesS (.sadd d a b) s d (x + y) 4 ∧ GivesS (.ssub d a b) s d (x - y) 4 ∧ GivesS (.smul d a b) s d (x * y) 4 ∧
    GivesS (.sand d a b) s d (x &&& y) 4 ∧ GivesS (.sor d a b) s d (x ||| y) 4 ∧ GivesS (.sxor d a b) s d (x ^^^ y) 4 ∧
    GivesS (.sshl d a b) s d (x <<< (y.toNat % 64)) 4 ∧ GivesS (.sshr d a b) s d (x >>> (y.toNat % 64)) 4 ∧
    GivesS (.ssra d a b) s d (x.sshiftRight (y.toNat % 64)) 4 ∧
    GivesS (.sslt d a b) s d (if x.slt y then 1 else 0) 4 ∧ GivesS (.ssltn d a b) s d (if x.ult y then 1 else 0) 4 ∧
    GivesS (.sdiv d a b) s d (if y = 0 then -1 else x.sdiv y) 12 ∧ GivesS (.sli d imm) s d (imm.signExtend 64) 4 ∧
    GivesS (.slih d imm) s d ((sVal s.me d <<< 16) ||| imm.setWidth 64) 4 ∧
    GivesS (.saddi d imm) s d (sVal s.me d + imm.signExtend 64) 4

/-- A field of a scalar operation that names no S register and not ZR traps ILLEGAL_OPERAND before anything else happens, with its code
and the instruction's word; the lowest such field in the order d, a, b is the one reported (15 R293, R296). -/
def Obligations.ScalarOperandsAreChecked : Prop :=
  ∀ (s : State) (d a b : Opnd), ready s = true →
    ∀ e ∈ [(Instr.sadd, 0x10), (.ssub, 0x11), (.smul, 0x12), (.sdiv, 0x14), (.sand, 0x16), (.sor, 0x17), (.sxor, 0x18), (.sshl, 0x19),
      (.sshr, 0x1A), (.ssra, 0x1B), (.sslt, 0x1C), (.ssltn, 0x1D)], ∀ w : W32, w = wordF3 e.2 d a b →
    (okS d = false → Traps (e.1 d a b) s 0x02 d.code w.toNat) ∧
    (okS d = true → okS a = false → Traps (e.1 d a b) s 0x02 a.code w.toNat) ∧
    (okS d = true → okS a = true → okS b = false → Traps (e.1 d a b) s 0x02 b.code w.toNat)

/-! ### Lane-wise instructions (17 R315 to R337) -/

/-- The two-source instructions of R320 to R325 and R332. -/
def Sys2Proof.Claims.binaryRows : List LaneRow :=
  [⟨.add, tyNotX, rndFlt, addElem⟩, ⟨.sub, tyNotX, rndFlt, subElem⟩, ⟨.mul, tyNotX, rndMul, mulElem⟩,
   ⟨.mulh, tyInt, rndNever, mulhElem⟩, ⟨.min, tyNotX, rndNever, fun m _ a b _ => { val := selElem m false false a b }⟩,
   ⟨.max, tyNotX, rndNever, fun m _ a b _ => { val := selElem m true false a b }⟩,
   ⟨.minp, tyFltB8, rndNever, fun m _ a b _ => { val := selElem m false true a b }⟩,
   ⟨.maxp, tyFltB8, rndNever, fun m _ a b _ => { val := selElem m true true a b }⟩,
   ⟨.and, tyNotX, rndNever, fun _ _ a b _ => { val := a &&& b }⟩, ⟨.or, tyNotX, rndNever, fun _ _ a b _ => { val := a ||| b }⟩,
   ⟨.xor, tyNotX, rndNever, fun _ _ a b _ => { val := a ^^^ b }⟩, ⟨.shl, tyInt, rndNever, shlElem⟩,
   ⟨.shr, tyInt, rndNever, shrElem⟩, ⟨.rot, tyInt, rndNever, rotElem⟩, ⟨.div, tyNotX, rndMul, divElem⟩,
   ⟨.rem, tyInt, rndNever, remElem⟩, ⟨.scalb, tyFlt, rndFlt, scalbElem⟩]

/-- The one-source instructions of R323, R325 and R329 to R331. -/
def Sys2Proof.Claims.unaryRows : List LaneRow :=
  [⟨.abs, tyNotX, rndNever, absElem⟩, ⟨.neg, tyNotX, rndNever, negElem⟩,
   ⟨.not, tyNotX, rndNever, fun m _ a _ _ => { val := 2 ^ tyWidth (mrType m) - 1 - a }⟩, ⟨.clz, tyInt, rndNever, clzElem⟩,
   ⟨.popc, tyInt, rndNever, popcElem⟩, ⟨.brev, tyInt, rndNever, brevElem⟩, ⟨.sqrt, tyFlt, rndFlt, sqrtElem⟩,
   ⟨.rsq, tyFlt, rndFun, funElem 0x41 1 funRsq⟩, ⟨.rcp, tyFlt, rndFun, funElem 0x42 1 funRcp⟩,
   ⟨.exp2, tyFun, rndFun, funElem 0x43 1 funExp2⟩, ⟨.log2, tyFun, rndFun, funElem 0x44 1 funLog2⟩,
   ⟨.sin, tyFun, rndFun, funElem 0x45 2 funSin⟩, ⟨.cos, tyFun, rndFun, funElem 0x46 2 funCos⟩,
   ⟨.tanh, tyFun, rndFun, funElem 0x47 2 funTanh⟩, ⟨.sigm, tyFun, rndFun, funElem 0x48 2 funSigm⟩,
   ⟨.erf, tyFun, rndFun, funElem 0x49 2 funErf⟩, ⟨.floor, tyFltB8, rndNever, integralElem (fun _ => 2) false⟩,
   ⟨.ceil, tyFltB8, rndNever, integralElem (fun _ => 3) false⟩, ⟨.trunc, tyFltB8, rndNever, integralElem (fun _ => 1) false⟩,
   ⟨.rint, tyFltB8, rndFlt, integralElem mrRnd true⟩, ⟨.fclass, tyFlt, rndNever, fclassElem⟩]

/-- The instructions that read Vd too (R320, R322). -/
def Sys2Proof.Claims.ternaryRows : List LaneRow :=
  [⟨.mad, tyNotX, rndMul, madElem⟩,
   ⟨.clamp, tyNotX, rndNever, fun m _ a b d => { val := selElem m false false (selElem m true false d a) b }⟩]

/-- A two-source instruction writes, in each lane that takes part, its elements' results in d, the latency later, and nothing
else (R315, R317): operands that are registers, ZR, LID, X or V[Xn]. -/
def Obligations.LaneBinaryResults : Prop :=
  ∀ e ∈ Sys2Proof.Claims.binaryRows, ∀ (s : State) (d a b : Opnd), ready s = true →
    tyCheck s.me.mr e.tys e.rnds = true → okDst (mr64 s.me.mr) d = true → okSrc (mr64 s.me.mr) a = true →
    okSrc (mr64 s.me.mr) b = true → ∀ n, n = mrWords s.me.mr → inRange s.me [(d, n), (a, n), (b, n)] = true →
    GivesLanes (e.con d a b) s 1 (d, n) false
      (fun l => elemWise (e.f s.me.mr) (laneOf s.me l (opVal s.me n a l) (opVal s.me n b l) 0))

/-- A one-source instruction, likewise; its b field is 0x00. -/
def Obligations.LaneUnaryResults : Prop :=
  ∀ e ∈ Sys2Proof.Claims.unaryRows, ∀ (s : State) (d a : Opnd), ready s = true →
    tyCheck s.me.mr e.tys e.rnds = true → okDst (mr64 s.me.mr) d = true → okSrc (mr64 s.me.mr) a = true →
    ∀ n, n = mrWords s.me.mr → inRange s.me [(d, n), (a, n)] = true →
    GivesLanes (e.con d a (.v 0)) s 1 (d, n) false
      (fun l => elemWise (e.f s.me.mr) (laneOf s.me l (opVal s.me n a l) 0 0))

/-- MAD and CLAMP, which read Vd too, and ADDI, which adds its immediate to Vd (R320, R322, R326). -/
def Obligations.LaneTernaryResults : Prop :=
  ∀ (s : State) (d a b : Opnd) (imm : BitVec 16), ready s = true → okRdDst (mr64 s.me.mr) d = true →
    okSrc (mr64 s.me.mr) a = true → okSrc (mr64 s.me.mr) b = true → ∀ n, n = mrWords s.me.mr →
    inRange s.me [(d, n), (a, n), (b, n)] = true →
    (∀ e ∈ Sys2Proof.Claims.ternaryRows, tyCheck s.me.mr e.tys e.rnds = true →
      GivesLanes (e.con d a b) s 1 (d, n) false
        (fun l => elemWise (e.f s.me.mr) (laneOf s.me l (opVal s.me n a l) (opVal s.me n b l) (opVal s.me n d l)))) ∧
    (tyCheck s.me.mr tyNotX rndFlt = true →
      GivesLanes (.addi d imm) s 1 (d, n) false
        (fun l => elemWise (addiElem imm s.me.mr) (laneOf s.me l 0 0 (opVal s.me n d l))))

/-- The moves (R326, R327): MOV copies its source, MOVI and LI32 write their immediates, SEL writes every active lane from a
where the guard passes and from b where it does not. -/
def Obligations.LaneMoves : Prop :=
  ∀ (s : State) (d a b : Opnd) (imm : BitVec 16) (lit : W32), ready s = true → okDst (mr64 s.me.mr) d = true →
    okSrc (mr64 s.me.mr) a = true → okSrc (mr64 s.me.mr) b = true → mrTyValid s.me.mr = true → ∀ n, n = mrWords s.me.mr →
    inRange s.me [(d, n), (a, n), (b, n)] = true →
    GivesLanes (.mov d a (.v 0)) s 1 (d, n) false (fun l => { val := opVal s.me n a l, z := zGet s.me.lfsr l }) ∧
    GivesLanes (.sel d a b) s 1 (d, n) true
      (fun l => { val := if s.me.guard 0 l then opVal s.me n a l else opVal s.me n b l, z := zGet s.me.lfsr l }) ∧
    GivesLanes (.li32 d .zr .zr lit) s 2 (d, n) false (fun l => { val := li32Value s.me.mr lit, z := zGet s.me.lfsr l }) ∧
    (tyCheck s.me.mr tyNotX rndFlt = true →
      GivesLanes (.movi d imm) s 1 (d, n) false (fun l => elemWise (moviElem imm s.me.mr) (laneOf s.me l 0 0 0)))

/-- The compares write one bit of Pd in each lane that takes part (R328). -/
def Obligations.LaneCompares : Prop :=
  ∀ (s : State) (d a b : Opnd), ready s = true → okP d = true → okSrc (mr64 s.me.mr) a = true → okSrc (mr64 s.me.mr) b = true →
    tyCheck s.me.mr (fun ty => (tyInt ty && decide (4 ≤ ty)) || ty == 10 || ty == 11 || ty == 15) rndNever = true →
    ∀ n, n = mrWords s.me.mr → inRange s.me [(d, 1), (a, n), (b, n)] = true →
    ∀ c : Nat → Bool × Bool × Bool, (∀ l, c l = cmpElem s.me.mr (opVal s.me n a l) (opVal s.me n b l)) →
    ∀ e ∈ [(Instr.cmpEq d a b, fun x : Bool × Bool × Bool => x.2.1), (Instr.cmpNe d a b, fun x => !x.2.1),
        (Instr.cmpLt d a b, fun x => x.1), (Instr.cmpLe d a b, fun x => x.1 || x.2.1), (Instr.cmpUn d a b, fun x => x.2.2)],
      GivesLanes e.1 s 1 (d, 1) false (fun l => { val := if e.2 (c l) then 1 else 0, z := zGet s.me.lfsr l })

/-- CVT, CVTP and DOT4 (R334, R335, R337): their groups of registers, and the elements they make of them. An X register as CVT's source traps
ILLEGAL_OPERAND under a 64-bit operating type (14 R273, 15 R293). -/
def Obligations.LaneConversions : Prop :=
  ∀ (s : State) (d a b : Opnd), ready s = true →
    (∀ ws wd n ns nd, ws = tyWidth (mrSrcType s.me.mr) → wd = tyWidth (mrType s.me.mr) → n = max 1 (32 / min ws wd) →
      ns = n * ws / 32 → nd = n * wd / 32 → mrTyValid s.me.mr = true → mrSrcValid s.me.mr = true → mrType s.me.mr ≠ 13 →
      mrSrcType s.me.mr ≠ 13 → mrRnd s.me.mr ≠ 7 → okDst (mr64 s.me.mr) d = true → okSrc (tyIs64 (mrSrcType s.me.mr)) a = true →
      (ns = 1 ∨ a ≠ .lid) → (mr64 s.me.mr = true → ∀ x, a ≠ .x x) →
      inRange s.me [(d, nd), (a, ns)] = true → GivesLanes (.cvt d a (.v 0)) s 1 (d, nd) false
        (fun l => cvtLoop s.me.mr ws wd (opVal s.me ns a l) 0 n (zGet s.me.lfsr l))) ∧
    (mr64 s.me.mr = true → okDst true d = true → ∀ x, Traps (.cvt d (.x x) b) s 0x02 (Opnd.x x).code (wordF3 0x50 d (.x x) b).toNat) ∧
    (mrTyValid s.me.mr = true → mrSrcValid s.me.mr = true → cvtpOk (mrType s.me.mr) (mrSrcType s.me.mr) = true →
      mrRnd s.me.mr ≠ 7 → okDst false d = true → okSrc false a = true → okSrc false b = true →
      inRange s.me [(d, 1), (a, 1), (b, 1)] = true →
      GivesLanes (.cvtp d a b) s 1 (d, 1) false
        (fun l => cvtpLoop s.me.mr (tyWidth (mrSrcType s.me.mr)) (tyWidth (mrType s.me.mr))
          (opVal s.me 1 a l % 2 ^ 32 + 2 ^ 32 * opVal s.me 1 b l) 0 (64 / tyWidth (mrSrcType s.me.mr)) (zGet s.me.lfsr l))) ∧
    (tyCheck s.me.mr (fun ty => ty == 0 || ty == 1 || ty == 12) (· == 12) = true → okRdDst false d = true →
      okSrc false a = true → okSrc false b = true → inRange s.me [(d, 1), (a, 1), (b, 1)] = true →
      GivesLanes (.dot4 d a b) s 1 (d, 1) false
        (fun l => dot4 (laneOf s.me l (opVal s.me 1 a l) (opVal s.me 1 b l) (opVal s.me 1 d l))))

/-- A queue as the destination of a lane-wise instruction (09 R191): with room, MOV's results become entries at the tail of the
queue it feeds, one lane's value in each lane that takes part, and no register is written. As a source (R192): MOV pops one entry and its results
are interlocked; with no entry the team waits, or traps QUEUE_ORPHAN where its producer has ended, or QUEUE_DRAINED where its stream
is consumed (10 R212). -/
def Obligations.LaneQueues : Prop :=
  (∀ (s : State) (k : Fin 8) (a : Opnd) (p : Nat), ready s = true → mrTyValid s.me.mr = true → mr64 s.me.mr = false →
    qWritable s s.me (.q k) = true → okSrc false a = true → inRange s.me [(a, 1)] = true → p ≠ s.cur →
    crewTeam s s.me.crew (bindPeer (s.me.q k.val).bind) = some p →
    ∀ j, j = bindPq (s.me.q k.val).bind → ((s.team p).q j).entries.length < 8 →
    ∃ t e, exec (.mov (.q k) a (.v 0)) s = .next t ∧ t.me.untimed = s.me.stepped.untimed ∧
      ((t.team p).q j).entries = ((s.team p).q j).entries ++ [e] ∧ e.poison = none ∧
      (∀ l, writesLane s.me false l → (cget 0 e.vals l).toNat = opVal s.me 1 a l % 2 ^ 32) ∧
      (∀ l, ¬ writesLane s.me false l → cget 0 e.vals l = 0)) ∧
  (∀ (s : State) (d : Fin 128) (k : Fin 8), ready s = true → mrTyValid s.me.mr = true → mr64 s.me.mr = false →
    qReadable s.me (.q k) = true → d.val < s.me.nregs →
    (∀ e es, (s.me.q k.val).entries = e :: es → e.poison = none →
      ∃ t W, exec (.mov (.v d) (.q k) (.v 0)) s = .next t ∧
        t.me.untimed = { s.me.stepped.setQ k.val { s.me.q k.val with entries := es } with pend := W }.untimed ∧
        ∀ r l v, (∃ w ∈ W, w.reg = r ∧ w.lane = l ∧ w.val = v ∧ w.il = true) ↔
          writesLane s.me false l ∧ r = .v d.val ∧ v = (cget 0 e.vals l).setWidth 64) ∧
    ((s.me.q k.val).entries = [] → streamConsumed s.me k.val = true → Traps (.mov (.v d) (.q k) (.v 0)) s 0x09 k.val 0) ∧
    ((s.me.q k.val).entries = [] → streamConsumed s.me k.val = false → producerEnded s s.me k.val = true →
      Traps (.mov (.v d) (.q k) (.v 0)) s 0x08 k.val 0) ∧
    ((s.me.q k.val).entries = [] → streamConsumed s.me k.val = false → producerEnded s s.me k.val = false →
      ∃ t, exec (.mov (.v d) (.q k) (.v 0)) s = .next t ∧ t.me.status = .wait 0 ∧ t.me.pc = s.me.pc))

/-! ### What elements compute (13 R261, 17 R320 to R325) -/

/-- A type of 32-bit integers, as MR holds it. -/
def Sys2Proof.Claims.isI32 (m : W64) (signed : Bool) : Prop := mrType m = (if signed then 4 else 5)

/-- Without saturation, 32-bit integer arithmetic is that of 32-bit words, the same signed and unsigned but for MULH, MIN, MAX and
SHR (R320 to R323, R325); division truncates toward zero, and by zero gives all ones and the dividend as remainder (R324). With
saturation, a sum, difference or product out of the type's range becomes the nearest value in it (13 R261). -/
def Obligations.IntegerElements : Prop :=
  (∀ (m : W64) (sg : Bool) (z : Nat) (a b d : BitVec 32), Sys2Proof.Claims.isI32 m sg → mrSat m = false →
    (addElem m z a.toNat b.toNat 0).val = (a + b).toNat ∧ (subElem m z a.toNat b.toNat 0).val = (a - b).toNat ∧
    (mulElem m z a.toNat b.toNat 0).val = (a * b).toNat ∧ (madElem m z a.toNat b.toNat d.toNat).val = (a * b + d).toNat ∧
    (mulhElem m z a.toNat b.toNat 0).val =
      (if sg then ((a.signExtend 64 * b.signExtend 64) >>> 32).setWidth 32 else ((a.setWidth 64 * b.setWidth 64) >>> 32).setWidth 32 : BitVec 32).toNat ∧
    selElem m false false a.toNat b.toNat = (if (if sg then b.slt a else b.ult a) then b else a).toNat ∧
    selElem m true false a.toNat b.toNat = (if (if sg then a.slt b else a.ult b) then b else a).toNat ∧
    (negElem m z a.toNat 0 0).val = (-a).toNat ∧ (absElem m z a.toNat 0 0).val = (if sg && a.slt 0 then -a else a).toNat ∧
    (shlElem m z a.toNat b.toNat 0).val = (a <<< (b.toNat % 32)).toNat ∧
    (shrElem m z a.toNat b.toNat 0).val = (if sg then a.sshiftRight (b.toNat % 32) else a >>> (b.toNat % 32)).toNat ∧
    (rotElem m z a.toNat b.toNat 0).val = (a.rotateLeft (b.toNat % 32)).toNat ∧
    (divElem m z a.toNat b.toNat 0).val = (if b = 0 then -1 else if sg then a.sdiv b else a / b).toNat ∧
    (remElem m z a.toNat b.toNat 0).val = (if b = 0 then a else if sg then a.srem b else a % b).toNat) ∧
  (∀ (m : W64) (z : Nat) (a b : BitVec 32), Sys2Proof.Claims.isI32 m true → mrSat m = true →
    (addElem m z a.toNat b.toNat 0).val = (BitVec.ofInt 32 (max (-2 ^ 31) (min (2 ^ 31 - 1) (a.toInt + b.toInt)))).toNat ∧
    (subElem m z a.toNat b.toNat 0).val = (BitVec.ofInt 32 (max (-2 ^ 31) (min (2 ^ 31 - 1) (a.toInt - b.toInt)))).toNat ∧
    (mulElem m z a.toNat b.toNat 0).val = (BitVec.ofInt 32 (max (-2 ^ 31) (min (2 ^ 31 - 1) (a.toInt * b.toInt)))).toNat)

/-! ### Lane operations and predicates (17 R338 to R344) -/

/-- The operations of one predicate or register into lanes or an S register (R339, R341, R344): BALLOT gives lane l < n/32 the
word of votes of lanes 32l to 32l + 31, PCNT counts the votes, PRANK counts those of lower lanes, ANY and ALL ask whether one or
each of the lanes of C(l) votes, PVAL gives the predicate, PNZ asks whether the operand is not 0. The predicate operations change
Pd in the lanes of C(l) and no other (R344). -/
def Obligations.VotesAndPredicates : Prop :=
  (∀ (s : State) (d a : Opnd) (p q : Fin 16) (sd : Opnd) (n : Nat), ready s = true → mrTyValid s.me.mr = true →
    okDst (mr64 s.me.mr) d = true → okSrc (mr64 s.me.mr) a = true → okS sd = true → n = mrWords s.me.mr →
    inRange s.me [(d, n), (a, n)] = true → ∀ vote : Nat → Bool, (∀ l, vote l = (opVal s.me 1 (.p p) l == 1)) →
    GivesParts (.ballot d (.p p) (.v 0)) s n d 6 (fun l => if l < s.me.lanes / 32 then
      ((span (32 * l) 32).filter (fun j => takesPart s.me j && vote j)).foldl (fun r j => r + 2 ^ (j - 32 * l)) 0 else 0) ∧
    GivesParts (.prank d (.p p) (.v 0)) s n d 6 (fun l => ((parts s.me).filter (fun j => decide (j < l) && vote j)).length) ∧
    GivesParts (.pval d (.p p) (.v 0)) s n d 6 (fun l => if vote l then 1 else 0) ∧
    GivesParts (.pnz (.p q) a (.v 0)) s 1 (.p q) 6 (fun l => if opVal s.me n a l = 0 then 0 else 1) ∧
    GivesS (.pcnt sd (.p p) (.v 0)) s sd (w64 ((parts s.me).filter vote).length) 6 ∧
    GivesS (.any sd (.p p) (.v 0)) s sd (if (parts s.me).any vote then 1 else 0) 6 ∧
    GivesS (.all sd (.p p) (.v 0)) s sd (if (parts s.me).all vote then 1 else 0) 6) ∧
  (∀ (s : State) (d a b : Fin 16), ready s = true → mrTyValid s.me.mr = true →
    ∀ x y : Nat → Nat, (∀ l, x l = opVal s.me 1 (.p a) l) → (∀ l, y l = opVal s.me 1 (.p b) l) →
    GivesParts (.pand (.p d) (.p a) (.p b)) s 1 (.p d) 4 (fun l => x l &&& y l) ∧
    GivesParts (.por (.p d) (.p a) (.p b)) s 1 (.p d) 4 (fun l => x l ||| y l) ∧
    GivesParts (.pxor (.p d) (.p a) (.p b)) s 1 (.p d) 4 (fun l => x l ^^^ y l) ∧
    GivesParts (.pnot (.p d) (.p a) (.v 0)) s 1 (.p d) 4 (fun l => 1 - x l))

/-- Values exchanged between lanes (R340 to R342): SHFL takes the lane that Vb names, SHFL.X, SHFL.UP and SHFL.DN the lane
l XOR Sb, l − Sb and l + Sb, a lane outside the team giving 0 and the source lane's own mask and guard not asked; RDLANE reads
one lane into Sd, WRLANE writes one lane of C(l); MATCH.N counts the lower lanes of C(l) with the lane's value, MATCH.B gives
the lowest of them. -/
def Obligations.LaneExchanges : Prop :=
  ∀ (s : State) (d a b sa sb sd : Opnd) (n : Nat), ready s = true → mrTyValid s.me.mr = true →
    okDst (mr64 s.me.mr) d = true → okSrc (mr64 s.me.mr) a = true → okSrc (mr64 s.me.mr) b = true → okS sa = true →
    okS sb = true → okS sd = true → n = mrWords s.me.mr → inRangeAll s.me [(d, n), (a, n), (b, n)] = true →
    ∀ x, x = (sVal s.me sb).toNat → ∀ from_ : Int → Nat,
    (∀ j, from_ j = if 0 ≤ j ∧ j < s.me.lanes then opVal s.me n a j.toNat else 0) →
    GivesParts (.shfl d a b) s n d 6 (fun l => from_ (opVal s.me n b l % 2 ^ 32 : Nat)) ∧
    GivesParts (.shflX d a sb) s n d 6 (fun l => from_ (l ^^^ x : Nat)) ∧
    GivesParts (.shflUp d a sb) s n d 6 (fun l => from_ ((l : Int) - x)) ∧
    GivesParts (.shflDn d a sb) s n d 6 (fun l => from_ ((l : Int) + x)) ∧
    GivesS (.rdlane sd a sb) s sd (w64 (from_ x)) 6 ∧
    GivesWide (.wrlane d sa sb) s n d 6
      { vals := if x < s.me.lanes ∧ takesPart s.me x = true then [(x, (sVal s.me sa).toNat % 2 ^ (32 * n))] else [], lf := s.me.lfsr } ∧
    GivesParts (.matchN d a (.v 0)) s n d 6
      (fun l => ((parts s.me).filter (fun j => decide (j < l) && opVal s.me n a j == opVal s.me n a l)).length) ∧
    GivesParts (.matchB d a (.v 0)) s n d 6
      (fun l => (((parts s.me).find? (fun j => opVal s.me n a j == opVal s.me n a l)).getD l))

/-- The reductions and the scan (R343): each is the fixed tree of 13 R268 over the lanes of C(l), in the lanes of C(l). -/
def Obligations.LaneReductions : Prop :=
  ∀ (s : State) (d a : Opnd) (n : Nat), ready s = true → okDst (mr64 s.me.mr) d = true → okSrc (mr64 s.me.mr) a = true →
    n = mrWords s.me.mr → inRange s.me [(d, n), (a, n)] = true → ∀ i : WideIn, i = wideOf s.me (opVal s.me n a) (fun _ => 0) 0 0 →
    (tyCheck s.me.mr tyNotX rndFlt = true → GivesWide (.tredAdd d a (.v 0)) s n d 6 (treeAdd false i) ∧
      GivesWide (.tscanAdd d a (.v 0)) s n d 6 (treeAdd true i)) ∧
    (tyCheck s.me.mr tyNotX rndNever = true → GivesWide (.tredMin d a (.v 0)) s n d 6 (treeSel false i) ∧
      GivesWide (.tredMax d a (.v 0)) s n d 6 (treeSel true i)) ∧
    (tyCheck s.me.mr tyInt rndNever = true →
      GivesWide (.tredAnd d a (.v 0)) s n d 6 (treeBits (· &&& ·) (2 ^ tyWidth (mrType s.me.mr) - 1) i) ∧
      GivesWide (.tredOr d a (.v 0)) s n d 6 (treeBits (· ||| ·) 0 i))

/-- In 32-bit integers the sum that TRED.ADD delivers to every lane of C(l) is the sum of those lanes' values modulo 2^32, whatever
the tree (13 R268, R343). -/
def Obligations.IntegerReductionIsTheSum : Prop :=
  ∀ (i : WideIn) (k : Nat), Sys2Proof.Claims.isI32 i.mr false → mrSat i.mr = false → i.lanes = 2 ^ k → k ≤ 10 →
    (treeAdd false i).flags = 0 ∧ (treeAdd false i).vals.map (·.1) = i.part ∧
    ∀ v ∈ (treeAdd false i).vals, v.2 = ((i.part.map (fun l => i.a l % 2 ^ 32)).foldl (· + ·) 0) % 2 ^ 32

/-- The groups of eight lanes whose leader takes part, in rising order, each with what `f` makes of it and of the LFSRs so far. -/
def Sys2Proof.Claims.groups {α : Type} (f : Nat → Cells W32 → α × Cells W32) : List Nat → Cells W32 → List (Nat × α) × Cells W32
  | [], lf => ([], lf)
  | l :: r, lf =>
    let o := f l lf
    let rest := Sys2Proof.Claims.groups f r o.2
    ((l, o.1) :: rest.1, rest.2)

/-- QNT and DQNT (R336, 13 R265, R266): each group of eight lanes whose leader takes part is quantised from four registers into two,
its 32 codes four to a lane and its scale and count in the leader's second register, or expanded from two into four. -/
def Obligations.GroupQuantisation : Prop :=
  ∀ (s : State) (d a : Fin 128) (sb : Opnd), ready s = true → okS sb = true →
    ∀ ls, ls = (parts s.me).filter (fun l => l % 8 == 0) →
    (tyCheck s.me.mr (· == 13) (fun _ => true) = true → d.val + 2 ≤ s.me.nregs → a.val + 4 ≤ s.me.nregs →
      ∀ q : List (Nat × QntOut) × Cells W32, q = Sys2Proof.Claims.groups (fun l lf =>
        let o := qntGroup s.me.mr (sVal s.me sb).toNat l
          ((List.range 32).map (fun e => opVal s.me 1 (.v (Fin.ofNat 128 (a.val + e % 4))) (l + e / 4))) lf
        (o, o.lf)) ls s.me.lfsr →
      ∃ W, RunsTo (.qnt (.v d) (.v a) sb) s { s.me.stepped with
          pend := W, fsr := s.me.fsr ||| w64 (orFlags (q.1.map (·.2.flags)) % 32),
          ufc := s.me.ufc + w64 ((q.1.map (·.2.u)).foldl (· + ·) 0), lfsr := q.2 } ∧
        ∀ r l v, (∃ w ∈ W, w.reg = r ∧ w.lane = l ∧ w.val = v) ↔ ∃ g ∈ q.1, ∃ k < 8, l = g.1 + k ∧
          ((r = .v d.val ∧ v = w64 (packBytes ((g.2.codes.drop (4 * k)).take 4))) ∨
           (r = .v (d.val + 1) ∧ v = if k = 0 then w64 (g.2.g % 256 + 256 * (g.2.u % 256)) else 0))) ∧
    (mrTyValid s.me.mr = true → mrSrcValid s.me.mr = true → mrType s.me.mr = 10 → mrSrcType s.me.mr = 13 → mrRnd s.me.mr ≠ 7 →
      d.val + 4 ≤ s.me.nregs → a.val + 2 ≤ s.me.nregs →
      ∀ q : List (Nat × (List Nat × Nat)) × Cells W32, q = Sys2Proof.Claims.groups (fun l lf =>
        let o := dqntCodes s.me.mr (byteOf (opVal s.me 1 (.v (Fin.ofNat 128 (a.val + 1))) l) 0) l 0
          ((List.range 32).map (fun e => byteOf (opVal s.me 1 (.v a) (l + e / 4)) (e % 4))) lf
        ((o.1, o.2.1), o.2.2)) ls s.me.lfsr →
      ∃ W, RunsTo (.dqnt (.v d) (.v a) (.v 0)) s { s.me.stepped with
          pend := W, fsr := s.me.fsr ||| w64 (orFlags (q.1.map (·.2.2)) % 32), lfsr := q.2 } ∧
        ∀ r l v, (∃ w ∈ W, w.reg = r ∧ w.lane = l ∧ w.val = v) ↔ ∃ g ∈ q.1, ∃ e < 32, l = g.1 + e / 4 ∧
          r = .v (d.val + e % 4) ∧ v = w64 (g.2.1.getD e 0))

/-! ### Loads, stores and atomics (18 R346 to R355) -/

/-- What the lanes of a load leave outstanding: each lane's value for d, interlocked, as a write to be performed where it comes from
scratch of the team's core, and as a response awaited otherwise (18 R352, 08 R167); nothing else changes but what the caches hold
(09 R181). An acquiring load has then emptied the L1 of its core, from FOLIO scope on, and the margin cache of its die from DIE on (09 R180). -/
def Sys2Proof.Claims.Loads (i : Instr) (s : State) (acquires : Bool) (n : Nat) (d : Opnd) (p : Nat → Place) (v : Nat → Nat) : Prop :=
  ∃ (t : State) (W : List PendWrite) (F : List InFlight), exec i s = .next t ∧ RunsCached s t { s.me.stepped with pend := W, flight := F } ∧
    (∀ w ∈ W, w.il = true) ∧ (∀ f ∈ F, f.kind = .mem ∧ f.id = s.me.nIssued) ∧
    (∀ r l x, (∃ w ∈ W, w.reg = r ∧ w.lane = l ∧ w.val = x) ↔ ∃ k, writesLane s.me false k ∧ quickPlace s s.cur (p k) = true ∧
      (r, l, x) ∈ grpWrites s.me n d 0 k (v k)) ∧
    (∀ r l x, (∃ f ∈ F, (r, l, x) ∈ f.writes) ↔ ∃ k, writesLane s.me false k ∧ quickPlace s s.cur (p k) = false ∧
      (r, l, x) ∈ grpWrites s.me n d 0 k (v k)) ∧
    (acquires = true → ∀ core, core = (s.crew s.me.crew).core →
      (2 ≤ mrScope s.me.mr → cget [] t.caches.l1 core = [] ∧ ∀ e ∈ t.caches.l1Old, e.core ≠ core) ∧
      (3 ≤ mrScope s.me.mr → cget [] t.caches.margin (core / 128) = [] ∧ ∀ e ∈ t.caches.marginOld, e.core ≠ core / 128))

/-- Likewise for a load whose destination is a queue (09 R191): one entry for each of its n words comes to the tail of the queue it feeds, each
lane's word in the lanes that take part, and 0 in the others. -/
def Sys2Proof.Claims.LoadsQueue (i : Instr) (s : State) (n : Nat) (k : Fin 8) (v : Nat → Nat) : Prop :=
  ∀ p j, crewTeam s s.me.crew (bindPeer (s.me.q k.val).bind) = some p → j = bindPq (s.me.q k.val).bind → p ≠ s.cur →
    ((s.team p).q j).entries.length + n ≤ 8 →
    ∃ t es, exec i s = .next t ∧ t.me.untimed = s.me.stepped.untimed ∧ t.me.status = .run ∧ es.length = n ∧
      ((t.team p).q j).entries = ((s.team p).q j).entries ++ es ∧
      ∀ w < n, ∀ l, (cget 0 (es.getD w {}).vals l).toNat = if s.me.active l = true ∧ s.me.guard 0 l = true ∧ l < s.me.lanes then v l / 2 ^ (32 * w) % 2 ^ 32 else 0

/-- Loads (R346, R349, R351): each lane that takes part reads the element at its address as its core sees it, the crew's own drafts
seen; the retention suffixes change what the caches hold and nothing else (09 R181); LD.ACQ does the same, and acquires at MR's scope once
its lanes have read (11 R223; what a core sees is the model's form of R225, log 5). Into registers, into ZR, or into a queue with room; the
core has room for the lanes' requests (00 R1; what counts as one is log 129). -/
def Obligations.LoadsReadTheirAddresses : Prop :=
  ∀ (s : State) (d a b : Opnd) (off : BitVec 8) (n e : Nat), ready s = true → mrTyValid s.me.mr = true →
    n = mrWords s.me.mr → e = tySize (mrType s.me.mr) → s.me.doneLanes = 0 → s.me.doneReads = [] → requestsFit s = true →
    okLdD s s.me d = true → ∀ v : Nat → Nat,
    (okBase a = true → ∀ p : Nat → Place, (∀ l, writesLane s.me false l → spot s .load e l (addrFm s.me e a off l) = some (p l) ∧
        (loadRead s s.me.crew (p l) e).2 = false) → (∀ l, v l = ofLE (loadRead s s.me.crew (p l) e).1) →
      (inRange s.me [(d, n), (a, 2)] = true →
        (∀ i ∈ [Instr.ld d a off, .ldS d a off, .ldK d a off, .ldB d a off], Sys2Proof.Claims.Loads i s false n d p v) ∧
        (mrScope s.me.mr ≠ 7 → Sys2Proof.Claims.Loads (.ldAcq d a off) s true n d p v)) ∧
      (∀ k : Fin 8, d = .q k → inRange s.me [(a, 2)] = true →
        (∀ i ∈ [Instr.ld d a off, .ldS d a off, .ldK d a off, .ldB d a off], Sys2Proof.Claims.LoadsQueue i s n k v) ∧
        (mrScope s.me.mr ≠ 7 → Sys2Proof.Claims.LoadsQueue (.ldAcq d a off) s n k v))) ∧
    (okS a = true → okIdx b = true → ∀ p : Nat → Place, (∀ l, writesLane s.me false l → spot s .load e l (addrX s.me e a b l) = some (p l) ∧
        (loadRead s s.me.crew (p l) e).2 = false) → (∀ l, v l = ofLE (loadRead s s.me.crew (p l) e).1) →
      ∀ i ∈ [Instr.ldx d a b, .ldxS d a b, .ldxK d a b, .ldxB d a b],
      (inRange s.me [(d, n), (a, 1), (b, 1)] = true → Sys2Proof.Claims.Loads i s false n d p v) ∧
      (∀ k : Fin 8, d = .q k → inRange s.me [(a, 1), (b, 1)] = true → Sys2Proof.Claims.LoadsQueue i s n k v))

/-- Stores of a crew that does not draft (R346, R349, R351): each lane that takes part writes the low bytes of its element at its
address, lanes in rising order; every other byte of memory and of scratch reads as before. The core has room for the lanes' requests
(00 R1; what counts as one is log 129). -/
def Obligations.StoresWriteTheirAddresses : Prop :=
  ∀ (s : State) (d a b : Opnd) (off : BitVec 8) (n e : Nat), ready s = true → mrTyValid s.me.mr = true →
    n = mrWords s.me.mr → e = tySize (mrType s.me.mr) → s.me.doneLanes = 0 → okStD s.me d = true →
    (s.crew s.me.crew).drafting = false → requestsFit s = true →
    (okBase a = true → inRange s.me [(d, n), (a, 2)] = true → ∀ p : Nat → Place,
      (∀ l, writesLane s.me false l → spot s .store e l (addrFm s.me e a off l) = some (p l)) →
      (∀ i ∈ [Instr.st d a off, .stS d a off, .stK d a off, .stB d a off], Stores i s e (parts s.me) p (opVal s.me n d)) ∧
      (mrScope s.me.mr ≠ 7 → Stores (.stRel d a off) s e (parts s.me) p (opVal s.me n d))) ∧
    (okS a = true → okIdx b = true → inRange s.me [(d, n), (a, 1), (b, 1)] = true → ∀ p : Nat → Place,
      (∀ l, writesLane s.me false l → spot s .store e l (addrX s.me e a b l) = some (p l)) →
      ∀ i ∈ [Instr.stx d a b, .stxS d a b, .stxK d a b, .stxB d a b], Stores i s e (parts s.me) p (opVal s.me n d))

/-- An address that is not aligned to the element traps MISALIGNED with the address and its lane, before anything is
accessed: the trap's state is the state before the instruction with the trap taken (R348). -/
def Obligations.MisalignedAccessesTrap : Prop :=
  ∀ (s : State) (d a : Opnd) (off : BitVec 8) (e l : Nat), ready s = true → mrTyValid s.me.mr = true →
    e = tySize (mrType s.me.mr) → s.me.doneLanes = 0 → okBase a = true → inRange s.me [(d, mrWords s.me.mr), (a, 2)] = true →
    (parts s.me).find? (fun l => addrFm s.me e a off l % e != 0) = some l →
    (okLdD s s.me d = true → Traps (.ld d a off) s 0x0B (addrFm s.me e a off l) 0 (some l)) ∧
    (okStD s.me d = true → Traps (.st d a off) s 0x0B (addrFm s.me e a off l) 0 (some l))

/-- LDN and STN (R350): one 64-bit access at Sa plus eight times the offset, by the team as a whole. MEM_RESPONSE_RETURN (R352): a
memory result in flight becomes a write to be performed, waited for by its readers, with the value read at issue or, where the access
is still open, the one that the core sees by then (11 R225), and nothing else of the chip changes. -/
def Obligations.UniformAccessesAndResponses : Prop :=
  (∀ (s s' : State) (d : Fin 64) (sd a : Opnd) (off : BitVec 8) (va : Nat) (p : Place), ready s = true → okS a = true → okS sd = true →
    va = wrapN 64 ((sVal s.me a).toNat + off.toInt * 8) → va % 8 = 0 → va < 2 ^ 52 →
    (winLo ≤ va → windowPlace s (teamAgent s s.cur none) va ≠ .prot ∧ windowPlace s (teamAgent s s.cur none) (va + 7) ≠ .prot) →
    placeReached s p 8 = true → requestsFit s = true →
    (place s.settled (teamAgent s s.cur none) .load va = (s', p) → (loadRead s' s.me.crew p 8).2 = false →
      ∃ t, exec (.ldn (.s d) a off) s = .next t ∧ t.me.pc = nextPc s.me.pc 1 ∧ t.me.status = .run ∧
        (∃ w, (w = (Reg.s d.val, 0, w64 (ofLE (loadRead s' s.me.crew p 8).1))) ∧
          ((∃ x ∈ t.me.pend, x.il = true ∧ (x.reg, x.lane, x.val) = w) ∨ (∃ f ∈ t.me.flight, w ∈ f.writes))) ∧
        (∀ q, byteAt t q = byteAt s' q)) ∧
    (place s.settled (teamAgent s s.cur none) .store va = (s', p) → (s'.crew s.me.crew).drafting = false →
      ∃ t, exec (.stn sd a off) s = .next t ∧ t.me.pc = nextPc s.me.pc 1 ∧ t.me.status = .run ∧ t.me.pend = [] ∧
        (∀ q, byteAt t q = match p.covers 8 q with
          | some o => (leBytes 8 (sVal s.me sd).toNat).getD o 0
          | none => byteAt s' q))) ∧
  (∀ (s : State) (ti : Nat) (f : InFlight), (s.team ti).flight = [f] → f.kind = .mem →
    ∃ t due ws, exec (.memResponseReturn ti 0) s = .next t ∧ (t.team ti).flight = [] ∧
      (ws = f.writes ∨ f.late ≠ [] ∧ ws = lateWrites s (s.team ti).crew f) ∧
      (t.team ti).pend = (s.team ti).pend ++ ws.map (fun w =>
        ({ reg := w.1, lane := w.2.1, val := w.2.2, due := due, pc := (s.team ti).pc, il := true } : PendWrite)) ∧
      (∀ j, j ≠ ti → t.team j = s.team j) ∧ t.mem = s.mem ∧ t.l2 = s.l2)

/-- One lane's atomic after another, in rising lane order: the state, and the old values. -/
def Sys2Proof.Claims.atomics (core ctx e : Nat) (p : Nat → Place) (new : Nat → Nat → Nat) : List Nat → State → State × List (Nat × Nat)
  | [], s => (s, [])
  | l :: r, s =>
    let m := ofLE (readPlace s (p l) e).1
    let rest := Sys2Proof.Claims.atomics core ctx e p new r (writePlace s ctx (p l) (leBytes e (new m l)) false core)
    (rest.1, (l, m) :: rest.2)

/-- The atomics of R354. -/
def Sys2Proof.Claims.atomRows : List (Nat → AtomRow) :=
  [fun ty => ⟨.atomAdd, 0xA0, tyAtomAdd, 1, fun m v _ => (addElem (tyOnly ty) 0 m v 0).val⟩,
   fun ty => ⟨.atomMin, 0xA1, tyAtomAdd, 1, fun m v _ => selElem (tyOnly ty) false false m v⟩,
   fun ty => ⟨.atomMax, 0xA2, tyAtomAdd, 1, fun m v _ => selElem (tyOnly ty) true false m v⟩,
   fun _ => ⟨.atomAnd, 0xA3, tyAtomBits, 1, fun m v _ => m &&& v⟩, fun _ => ⟨.atomOr, 0xA4, tyAtomBits, 1, fun m v _ => m ||| v⟩,
   fun _ => ⟨.atomXor, 0xA5, tyAtomBits, 1, fun m v _ => m ^^^ v⟩, fun _ => ⟨.atomXchg, 0xA6, tyAtomAny, 1, fun _ v _ => v⟩,
   fun _ => ⟨.atomCas, 0xA7, tyAtomAny, 2, fun m v c => if m = c then v else m⟩,
   fun _ => ⟨.atomDecp, 0xA8, tyAtomN, 1, fun m v _ => if v ≤ m then m - v else m⟩,
   fun _ => ⟨.atomIncw, 0xA9, tyAtomN, 1, fun m v _ => if v ≤ m then 0 else m + 1⟩]

/-- The atomics (R353 to R356): lane by lane in rising order, each lane's location takes its new value and d its old one; with no
poisoned word among them, in a crew that does not draft, where the core has room for the lanes' requests (00 R1), and in host memory only
those that R356 performs there. -/
def Obligations.AtomicsExchangeOldForNew : Prop :=
  ∀ (s : State) (d : Fin 128) (a b : Opnd) (ty e n : Nat), ready s = true → mrTyValid s.me.mr = true → ty = mrType s.me.mr →
    e = tySize ty → n = mrWords s.me.mr → s.me.doneLanes = 0 → okS a = true → okIdx b = true →
    (mr64 s.me.mr = true → d.val % 2 = 0) → (s.crew s.me.crew).drafting = false → s.poison = [] →
    (∀ c, (s.crew c).scratchPoison = []) → requestsFit s = true → ∀ mk ∈ Sys2Proof.Claims.atomRows, ∀ row : AtomRow, row = mk ty → ∀ p : Nat → Place,
    (∀ l, writesLane s.me false l →
      spot s .atomic e l (addrX s.me e a b l) = some (p l) ∧ hostRefused row.op ty (p l) = false) →
    row.tys ty = true → inRange s.me [(.v d, row.k * n), (a, 1), (b, 1)] = true →
    ∀ r : State × List (Nat × Nat), r = Sys2Proof.Claims.atomics (s.crew s.me.crew).core (s.crew s.me.crew).ctx e p (fun m l =>
        let v := opVal s.me (row.k * n) (.v d) l
        row.new m (v % 2 ^ (8 * e)) (v / 2 ^ (32 * n) % 2 ^ (8 * e))) (parts s.me) s →
    ∃ t, exec (row.con (.v d) a b) s = .next t ∧ t.me.pc = nextPc s.me.pc 1 ∧ t.me.status = .run ∧
      (∀ q, byteAt t q = byteAt r.1 q) ∧
      ∀ x, ((∃ w ∈ t.me.pend, w.il = true ∧ (w.reg, w.lane, w.val) = x) ∨ (∃ f ∈ t.me.flight, x ∈ f.writes)) ↔
        ∃ o ∈ r.2, x ∈ grpWrites s.me n (.v d) 0 o.1 o.2

/-! ### Sleeping, fences, barriers, rings and registers handed over (18 R357 to R370) -/

/-- The S register that an operand names holds v; ZR discards it. -/
def Sys2Proof.Claims.holdsS (t : Team) (d : Opnd) (v : Nat) : Prop := ∀ n, d = .s n → cget 0 t.s n.val = w64 v

/-- WAITA (R357, R358): where the word differs from the low bits of Sb, Sd := 1 at once; where it is equal and the place is host
memory or no monitor is free, Sd := 2; otherwise the team sleeps on the line. When the sleep of a resident team has ended,
WAITA_WAKE_RETURN writes Sd := 0 and the team goes on. WAKE (R360)
ends the sleeps of its context on the line of Sa, in the order of their arming, all of them or as many as Sd says, and gives their number;
on host memory it ends none and gives 0. -/
def Obligations.SleepsAndWakes : Prop :=
  (∀ (s s' : State) (d a b : Opnd) (e va m : Nat) (p : Place), ready s = true → okS d = true → okS a = true → okS b = true →
    mrType s.me.mr < 16 → mrScope s.me.mr ≠ 7 → e = (if mr64 s.me.mr then 8 else 4) → va = (sVal s.me a).toNat → va % e = 0 →
    va < 2 ^ 52 → (s.crew s.me.crew).drafting = false →
    place s.settled (teamAgent s s.cur none) .load va = (s', p) →
    (∃ k, p = .phys k) ∨ ((∃ c o, p = .scratch c o) ∧ windowPlace s (teamAgent s s.cur none) (va + e - 1) ≠ .prot) →
    (teamRead s' s.me.crew p e).2 = false → m = ofLE (teamRead s' s.me.crew p e).1 →
    (m ≠ (sVal s.me b).toNat % 2 ^ (8 * e) → ∃ t, exec (.waita d a b) s = .next t ∧ t.me.pc = nextPc s.me.pc 1 ∧
      t.me.status = .run ∧ Sys2Proof.Claims.holdsS t.me d 1) ∧
    (m = (sVal s.me b).toNat % 2 ^ (8 * e) → p.host = true ∨ monqFree s' s.me.crew = 0 →
      ∃ t, exec (.waita d a b) s = .next t ∧ t.me.pc = nextPc s.me.pc 1 ∧ t.me.status = .run ∧ Sys2Proof.Claims.holdsS t.me d 2) ∧
    (m = (sVal s.me b).toNat % 2 ^ (8 * e) → p.host = false → monqFree s' s.me.crew ≠ 0 →
      ∃ t, exec (.waita d a b) s = .next t ∧ t.me.pc = s.me.pc ∧
        t.me.status = .sleep { line := p.line, order := s'.order, woken := false })) ∧
  (∀ (s : State) (ti : Nat) (d a b : Opnd) (m : Monitor), okS d = true → (s.team ti).status = .sleep m → m.woken = true →
    decodeAt (s.team ti).octet (s.team ti).pc.toNat = some (.waita d a b) → (s.crew (s.team ti).crew).resident = true →
    ctxRuns s (s.crew (s.team ti).crew).ctx = true →
    ∃ t, exec (.waitaWakeReturn ti) s = .next t ∧ (t.team ti).pc = nextPc (s.team ti).pc 1 ∧ (t.team ti).status = .run ∧
      Sys2Proof.Claims.holdsS (t.team ti) d 0 ∧ ∀ j, j ≠ ti → t.team j = s.team j) ∧
  (∀ (s s' : State) (d a : Opnd) (va : Nat) (p : Place), ready s = true → okS d = true → okS a = true → mrScope s.me.mr ≠ 7 →
    va = (sVal s.me a).toNat → va < 2 ^ 52 → (s.crew s.me.crew).drafting = false →
    place s.settled (teamAgent s s.cur none) .load va = (s', p) →
    (∃ k, p = .phys k) ∨ (∃ c o, p = .scratch c o) →
    (p.host = true → ∃ t, exec (.wake d a (.v 0)) s = .next t ∧ t.me.pc = nextPc s.me.pc 1 ∧ t.me.status = .run ∧
      Sys2Proof.Claims.holdsS t.me d 0 ∧ ∀ j, j ≠ s.cur → t.team j = s'.team j) ∧
    (p.host = false → ∀ w : List (Nat × Nat), w = (if sVal s.me d = 0 then sleepersOn s' (s.crew s.me.crew).ctx p.line
      else (sleepersOn s' (s.crew s.me.crew).ctx p.line).take (sVal s.me d).toNat) →
    ∃ t, exec (.wake d a (.v 0)) s = .next t ∧ t.me.pc = nextPc s.me.pc 1 ∧ t.me.status = .run ∧
      Sys2Proof.Claims.holdsS t.me d w.length ∧
      (∀ j, j ≠ s.cur → t.team j = if (w.map (·.2)).contains j then (s'.team j).wake else s'.team j)))

/-- FENCE and WAITO (R361, R362): a fence goes on when no command of the classes it names is outstanding, WAITO when no more than
its bound are; otherwise the team waits at the instruction. Both let the team's core see what completed commands of those classes have
written (11 R228), and then a fence releases, acquires, or does both, at its scope (11 R224); neither changes anything else. A core sees
what its own teams store (11 R217). After a release by one crew and then an acquire by another, each at a scope that reaches the other's
core, the second core sees as they stand all bytes that the first did (11 R221, R223); at FOLIO scope, where the two share a margin cache,
if that holds no older form. What a core sees is the model's form of R225 (log 5). -/
def Obligations.FencesOrderAccesses : Prop :=
  (∀ (s : State) (core ctx : Nat) (p : Place) (bytes : List Byte), placeReached s p bytes.length = true → core < 512 →
    (viewPlace (shareWrite s core ctx p bytes false) core p bytes.length).1 = bytes) ∧
  (∀ (s t : State) (ci cj S S' : Nat) (p : Place) (n : Nat), Memory.wf s = true → (s.crew ci).core ≠ (s.crew cj).core →
    inScope s ci S (s.crew cj).core = true → inScope s cj S' (s.crew ci).core = true →
    (∀ w ∈ p.words n, ∀ e ∈ behind s (s.crew ci).core, e.word ≠ w.word) →
    (S' < 3 → ∀ w ∈ p.words n, ∀ e ∈ s.caches.marginOld, e.core = (s.crew cj).core / 128 → e.word ≠ w.word) →
    t = acquireAt (releaseAt s ci S) cj S' → viewPlace t (s.crew cj).core p n = readPlace s p n) ∧
  ∀ (s s1 : State) (imm : BitVec 16), ready s = true →
    (imm.toNat < 1024 → imm.toNat % 4 ≠ 0 → bitsN imm.toNat 2 3 ≠ 7 →
      (s1 = seeDone s s.cur (fun c => imm.getLsbD (5 + c)) → (∀ c < 5, imm.getLsbD (5 + c) = true → s.me.opCount c = 0) →
        RunsFrom (.fence (.v 0) imm) s (fenceAt s1 s.cur (imm.toNat % 4) (bitsN imm.toNat 2 3)) s1.me.stepped) ∧
      (∀ c < 5, imm.getLsbD (5 + c) = true → s.me.opCount c ≠ 0 →
        ∃ t, exec (.fence (.v 0) imm) s = .next t ∧ t.me.status = .wait 3 ∧ t.me.pc = s.me.pc)) ∧
    (imm.toNat < 2048 → imm.toNat % 8 ≤ 4 →
      (s1 = seeDone s s.cur (· == imm.toNat % 8) → s.me.opCount (imm.toNat % 8) ≤ bitsN imm.toNat 3 8 →
        RunsFrom (.waito (.v 0) imm) s s1 s1.me.stepped) ∧
      (bitsN imm.toNat 3 8 < s.me.opCount (imm.toNat % 8) →
        ∃ t, exec (.waito (.v 0) imm) s = .next t ∧ t.me.status = .wait 3 ∧ t.me.pc = s.me.pc))

/-- The teams of ps that wait with status st go on, and so does the team `cur`. -/
def Sys2Proof.Claims.Departs (i : Instr) (s : State) (st : TStatus) (ps : List Nat) : Prop :=
  ∃ t, exec i s = .next t ∧ t.me.pc = nextPc s.me.pc 1 ∧ t.me.status = .run ∧
    ∀ p ∈ ps, p ≠ s.cur → (s.team p).status = st → (t.team p).pc = nextPc (s.team p).pc 1 ∧ (t.team p).status = .run

/-- BAR.CREW, BAR.FOLIO and BAR.QUIRE (R363, R365): where every other party waits at the barrier or has ended, all of them go on;
otherwise the team waits there, and so it does while a crew of its folio group is to be dispatched afresh after an abort (05 R110). A party of
a quire is a crew on this chip, or one on another whose arrivals have been recorded; a crew without a role, and a quire with a chip that cannot be
reached, trap COLLECTIVE. BAR_QUIRE_ARRIVAL_MSG records a remote party's arrival. That a member chip has arrived when as many teams as a crew of
the local launch has have (log 23), and the news that a team has ended, or runs after all (log 131), are the model's. -/
def Obligations.BarriersWaitForEveryParty : Prop :=
  ∀ (s : State) (imm : BitVec 16), ready s = true →
    (imm.toNat < 16 → ∀ ps, ps = (s.crew s.me.crew).teams → ps.Nodup →
      ((∀ p ∈ ps, p = s.cur ∨ (s.team p).status = .barCrew imm.toNat ∨ partyGone s p = true) →
        Sys2Proof.Claims.Departs (.barCrew (.v 0) imm) s (.barCrew imm.toNat) ps) ∧
      (∀ p ∈ ps, p ≠ s.cur → (s.team p).status ≠ .barCrew imm.toNat → partyGone s p = false →
        ∃ t, exec (.barCrew (.v 0) imm) s = .next t ∧ t.me.status = .barCrew imm.toNat ∧ t.me.pc = s.me.pc)) ∧
    (imm.toNat < 16 → (s.crewRec s.me.crew).folio = true → ∀ ps, ps = folioTeams s s.me.crew → ps.Nodup →
      (folioAborted s s.me.crew = false → (∀ p ∈ ps, p = s.cur ∨ (s.team p).status = .barFolio imm.toNat ∨ partyGone s p = true) →
        Sys2Proof.Claims.Departs (.barFolio (.v 0) imm) s (.barFolio imm.toNat) ps) ∧
      ((folioAborted s s.me.crew = true ∨ ∃ p ∈ ps, p ≠ s.cur ∧ (s.team p).status ≠ .barFolio imm.toNat ∧ partyGone s p = false) →
        ∃ t, exec (.barFolio (.v 0) imm) s = .next t ∧ t.me.status = .barFolio imm.toNat ∧ t.me.pc = s.me.pc)) ∧
    (∀ (a : Opnd) (s1 : State) (bs : List (Option Binding)), okS a = true → (sVal s.me a).toNat < 65536 →
      hubBindings s.settled (s.crew s.me.crew).ctx (s.crewRec s.me.crew).quire = (s1, bs) →
      ((s.crew s.me.crew).role = 0xFFFFFFFF → Traps (.barQuire (.v 0) a (.v 0)) s 0x14 3 0) ∧
      ((s.crew s.me.crew).role ≠ 0xFFFFFFFF → (∃ b ∈ bs.filterMap id, s1.reach b.chip = false) → Traps (.barQuire (.v 0) a (.v 0)) s 0x14 4 0) ∧
      ((s.crew s.me.crew).role ≠ 0xFFFFFFFF → (∀ b ∈ bs.filterMap id, s1.reach b.chip = true) →
        ∃ t, exec (.barQuire (.v 0) a (.v 0)) s = .next t ∧
          if (bs.filterMap id).all (memberArrived s1 (s.crew s.me.crew).ctx (sVal s.me a).toNat (s.crewRec s.me.crew).quire
            (s1.crewRec s.me.crew).teams s.cur) = true then t.me.pc = nextPc s.me.pc 1 ∧ t.me.status = .run
          else t.me.pc = s.me.pc ∧ t.me.status = .barQuire (sVal s.me a).toNat)) ∧
    (∀ ctx quire tag chip crew team, fabricUp s = true → ∃ t, exec (.barQuireArrivalMsg ctx quire tag chip crew team) s = .next t ∧ t.teams = s.teams ∧
      (tag ≠ tagRuns → (remoteArrived t ctx quire tag).contains (chip, crew, team) = true) ∧
      (tag = tagRuns → (remoteArrived t ctx quire tagEnded).contains (chip, crew, team) = false))

/-- Stage rings (R366 to R369, 09 R188, R189): SLOT.WAIT gives the address of a filled slot, all ones at the end of a closed ring,
and otherwise waits; SLOT.FREE advances the tail; RING.EOS asks for the producer's close, once; RING_PRODUCER_CLOSE records it when
nothing of the producer is outstanding. -/
def Obligations.StageRings : Prop :=
  (∀ (s : State) (d a b : Opnd) (r : Ring) (c : Nat), ready s = true → okS d = true → okS a = true → okS b = true →
    ringChecks s s.me.crew (sVal s.me a).toNat 20 (.ok ()) = .ok r → c = (sVal s.me b).toNat % 2 ^ 32 →
    (c + 2 ^ 32 - r.tail) % 2 ^ 32 < r.nslots →
    (r.filled c = true → ∃ t, exec (.slotWait d a b) s = .next t ∧ t.me.pc = nextPc s.me.pc 1 ∧
      Sys2Proof.Claims.holdsS t.me d (winLo + r.base + c % r.nslots * 2 ^ r.lsize)) ∧
    (r.filled c = false → r.closed = r.prods → c = r.head → (s.crew s.me.crew).ringClaims.any (fun x => x.1 == r.off) = false →
      ∃ t, exec (.slotWait d a b) s = .next t ∧ t.me.pc = nextPc s.me.pc 1 ∧ Sys2Proof.Claims.holdsS t.me d (2 ^ 64 - 1)) ∧
    (r.filled c = false → r.closed ≠ r.prods ∨ c ≠ r.head ∨ (s.crew s.me.crew).ringClaims.any (fun x => x.1 == r.off) = true → ∃ t, exec (.slotWait d a b) s = .next t ∧ t.me.pc = s.me.pc ∧ t.me.status = .wait 2)) ∧
  (∀ (s : State) (a b : Opnd) (r : Ring), ready s = true → okS a = true → okS b = true →
    ringChecks s s.me.crew (sVal s.me a).toNat 20 (.ok ()) = .ok r → sVal s.me b ≠ 0 → (sVal s.me b).toNat ≤ r.used →
    ∃ t, exec (.slotFree (.v 0) a b) s = .next t ∧ t.me.pc = nextPc s.me.pc 1 ∧
      (ringAt (t.crew s.me.crew) r.off).tail = (r.tail + (sVal s.me b).toNat) % 2 ^ 32) ∧
  (∀ (s : State) (a : Opnd) (r : Ring) (k : Nat), ready s = true → okS a = true →
    ringChecks s s.me.crew (sVal s.me a).toNat 23 (.ok ()) = .ok r → k = bitsN (sVal s.me a).toNat 20 3 → bitN r.prods k = true →
    bitN r.closed k = false → (s.crew s.me.crew).ringEos = [] →
    ∃ t, exec (.ringEos (.v 0) a (.v 0)) s = .next t ∧ t.me.pc = nextPc s.me.pc 1 ∧
      (t.crew s.me.crew).ringEos = [(r.off, k, s.cur, s.order)]) ∧
  (∀ (s : State) (ci off k ti o : Nat), (s.crew ci).ringEos = [(off, k, ti, o)] → (s.crew ci).resident = true →
    ctxRuns s (s.crew ci).ctx = true → ringPending s ci off k ti o = false → (s.crew ci).ringClaims = [] → k < 8 →
    ∃ t, exec (.ringProducerClose ci off k) s = .next t ∧ (t.crew ci).ringEos = [] ∧
      (ringAt (t.crew ci) off).closed = ((ringAt (s.crew ci) off).closed ||| 2 ^ k) % 256)

/-- DONATE (R370, 08 R172): two teams of a partition that name each other with opposite changes, each within its bounds, go on with
their register counts changed; a team whose partner has not arrived waits; a partner that the crew does not have traps. -/
def Obligations.DonateMovesRegisters : Prop :=
  ∀ (s : State) (a b : Opnd), ready s = true → okS a = true → okS b = true → (sVal s.me a).toNat < 16 →
    (sVal s.me b).toNat < 65536 → ∀ g least, g = sextN 8 ((sVal s.me b).toNat % 256) → least = (sVal s.me b).toNat / 256 →
    (crewTeam s s.me.crew (sVal s.me a).toNat = none → Traps (.donate (.v 0) a b) s 0x16 (sVal s.me a).toNat 0) ∧
    (∀ p, crewTeam s s.me.crew (sVal s.me a).toNat = some p → p ≠ s.cur → partyGone s p = false →
      (∀ pg pl, (s.team p).status = .donate s.me.id pg pl → pg + g = 0 → grantOk s.me g least = true →
        grantOk (s.team p) pg pl = true → s.me.id % 4 = (sVal s.me a).toNat % 4 →
        ∃ t, exec (.donate (.v 0) a b) s = .next t ∧ t.me.pc = nextPc s.me.pc 1 ∧ (t.team p).pc = nextPc (s.team p).pc 1 ∧
          (t.me.nregs : Int) = s.me.nregs + 8 * g ∧ ((t.team p).nregs : Int) = (s.team p).nregs + 8 * pg) ∧
      ((s.team p).status = .run → ∃ t, exec (.donate (.v 0) a b) s = .next t ∧ t.me.pc = s.me.pc ∧
        t.me.status = .donate (sVal s.me a).toNat g least))

/-! ### Tiles and the matrix queue (19 R372 to R384, 08 R176) -/

/-- The instruction i completes at s as a command: the team goes on at the next slot, its V, P and X registers, its mode and its mask as
they were; other teams and every byte are as in s1, which is s after the records that i reads at issue. -/
def Sys2Proof.Claims.Commands (i : Instr) (s s1 : State) (eff : State → Prop) : Prop :=
  ∃ t, exec i s = .next t ∧ t.me.pc = nextPc s.me.pc 1 ∧ t.me.status = .run ∧ t.me.mr = s.me.mr ∧ t.me.mask = s.me.mask ∧
    t.me.v = s.me.v ∧ t.me.p = s.me.p ∧ t.me.x = s.me.x ∧
    (∀ j, j ≠ s.cur → t.team j = s1.team j) ∧ (∀ q, byteAt t q = byteAt s1 q) ∧ eff t

/-- In t a command of engine class c with number id has been added to those of the team of s. -/
def Sys2Proof.Claims.Added (s t : State) (c id : Nat) : Prop :=
  t.me.ops c = s.me.ops c ++ [(id, false)] ∧ ∀ k, k ≠ c → t.me.ops k = s.me.ops k

/-- Likewise, and the command is the last of its class. -/
def Sys2Proof.Claims.Issues (i : Instr) (s s1 : State) (c : Nat) (eff : State → Nat → Prop) : Prop :=
  Sys2Proof.Claims.Commands i s s1 (fun t => ∃ id, Sys2Proof.Claims.Added s t c id ∧ eff t id)

/-- Likewise for a command that enters its crew's matrix queue; f is what it does to the crew at issue. It goes to the queue's end, before
commands of the same cycle from higher partitions (R384); where the queue holds a place for it (10 R204), it takes that place. -/
def Sys2Proof.Claims.Queues (i : Instr) (s s1 : State) (op : MmaOp) (f : Crew → Crew) : Prop :=
  Sys2Proof.Claims.Commands i s s1 (fun t => t.me.s = s.me.s ∧ ∀ c mine, c = s1.crew s.me.crew →
    mine = (fun m : MmaCmd => decide (m.team = s.cur ∧ m.op = .reading)) →
    (c.mmq.any mine = false → ∃ id at_, Sys2Proof.Claims.Added s t 2 id ∧ (s.core c.core).cycle ≤ at_ ∧ t.crew s.me.crew = { f c with
      mmq := mmqInsert { op := op, team := s.cur, id := id, at_ := at_, part := s.me.partition } c.mmq }) ∧
    (c.mmq.any mine = true → (∀ k, t.me.ops k = s.me.ops k) ∧ t.crew s.me.crew = { f c with
      mmq := c.mmq.map (fun m => if mine m then { m with op := op } else m) }))

/-- The commands of the matrix queue at issue (R372 to R378, R380, R382, R383): what each takes with it, and the configuration that
holds from issue on. MMA takes one issue of the core's budget (08 R176). -/
def Obligations.MatrixCommandsEnterTheQueue : Prop :=
  ∀ (s : State) (t x y : BitVec 8) (d a b : Opnd), ready s = true → (s.crewRec s.me.crew).tiles = true → s.me.opCount 2 < 255 →
    t.toNat < 16 → x.toNat < 16 → y.toNat < 16 → okS d = true → okS a = true → okS b = true →
    ∀ u v w, u = (sVal s.me d).toNat → v = (sVal s.me a).toNat → w = (sVal s.me b).toNat → ∀ c, c = s.crew s.me.crew →
    (∀ k : Tile, k = { c.tile t.toNat with cfg := true, rows := bitsN v 0 8, cols := bitsN v 8 8, ty := bitsN v 16 5, b8 := bitsN v 21 5 } →
      v < 2 ^ 26 → 1 ≤ k.rows → k.rows ≤ 128 → 1 ≤ k.cols → k.cols ≤ 128 → tileTy k.ty = true → tileB8 k.ty k.b8 = true →
      (k.ty = 13 → k.cols % 32 = 0) → k.size ≤ 8192 →
      Sys2Proof.Claims.Queues (.tcfg t a (.v 0)) s s (.tcfg t.toNat) (fun c => c.setTile t.toNat k)) ∧
    (∀ (s1 s2 : State) (o : Obj) (xs : List (List Byte × Bool)) (tr : Bool), w < 64 → w % 16 ≤ 5 → v % 64 = 0 → tr = bitN w 5 →
      (c.tile t.toNat).cfg = true → objHeader s.settled s.cur 0 v = .ok (s1, o) → dataOk s (engAgent s s.cur 4) [(v, 64)] = .ok () → o.layout ≤ 5 →
      (o.layout = w % 16 ∨ bitN w 4 = true ∧ o.layout ≠ 5 ∧ w % 16 ≠ 5) → o.ty = (c.tile t.toNat).ty → o.b8 = (c.tile t.toNat).b8 →
      o.rows = (if tr then (c.tile t.toNat).cols else (c.tile t.toNat).rows) →
      o.cols = (if tr then (c.tile t.toNat).rows else (c.tile t.toNat).cols) → (o.ty = 13 → tr = false ∧ o.layout = 5) →
      objPieces s1 s.cur 0 o (objPlan o tr) = .ok (s2, xs) →
      Sys2Proof.Claims.Queues (.ldt t a b) s s2 (.setTile t.toNat (xs.flatMap (·.1)) (poisonWords 0 xs)) id) ∧
    (∀ (r : Fin 128) (k : Tile) (img : List Byte), k = c.tile t.toNat → k.cfg = true →
      r.val + (k.size + 4 * s.me.lanes - 1) / (4 * s.me.lanes) ≤ s.me.nregs → img.length = k.size →
      (∀ j < k.size, img.getD j 0 = BitVec.ofNat 8 (opVal s.me 1 (.v (Fin.ofNat 128 (r.val + j / (4 * s.me.lanes)))) (j / 4 % s.me.lanes) / 2 ^ (8 * (j % 4)))) →
      Sys2Proof.Claims.Queues (.tmov t (.v r) (.v 0)) s s (.setTile t.toNat img []) id) ∧
    (v < 2 → Sys2Proof.Claims.Queues (.accCfg (.v 0) a (.v 0)) s s (.accCfg (v == 1)) (fun c => { c with accF64 := v == 1 })) ∧
    (∀ k l : Tile, k = c.tile x.toNat → l = c.tile y.toNat → (s.core c.core).govUsed < (s.core c.core).govCur → 1 ≤ (s.core c.core).govCap →
      u < 4096 → k.cfg = true → l.cfg = true → k.cols = l.cols → k.ty = l.ty → c.accF64 = (k.ty == 11) → l.rows ≤ accCap c.accF64 →
      u + k.rows ≤ 3072 → ∀ op : Bool → MmaOp, (∀ z, op z = .mma z u x.toNat y.toNat k.rows l.rows k.cols k.ty k.b8 l.ty l.b8 c.accF64
        (bitsN s.me.mr.toNat 24 4)) →
      Sys2Proof.Claims.Queues (.mma d x y) s s (op false) id ∧ Sys2Proof.Claims.Queues (.mmaZ d x y) s s (op true) id) ∧
    (∀ r : Drain, r = { first := bitsN v 0 12, nrows := bitsN v 12 12, col := bitsN w 0 7, ncols := bitsN w 8 7, f64 := c.accF64 } →
      v < 2 ^ 24 → w < 2 ^ 15 → bitN w 7 = false → r.nrows ≠ 0 → r.ncols ≠ 0 → r.first + r.nrows ≤ 3072 →
      r.col + r.ncols ≤ accCap c.accF64 →
      Sys2Proof.Claims.Queues (.drain (.v 0) a b) s s (.drain s.cur r) id ∧
      ∀ z, exec (.drain (.v 0) a b) s = .next z → z.me.drain = none) ∧
    (w < 2 ^ 48 → v % 64 = 0 → c.drafting = false → tileTy (stTy w) = true → stTy w ≠ 13 → tileB8 (stTy w) (stB8 w) = true →
      stLayout w ≤ 4 → stRows w ≠ 0 → stCols w ≠ 0 → bitsN w 0 12 + stRows w ≤ 3072 → stCols w ≤ accCap c.accF64 →
      (2 ≤ stLayout w → stCols w * tySize (stTy w) % (32 * 2 ^ (stLayout w - 2)) = 0) →
      (stAon w = true → stRows w * (stCols w * tySize (stTy w)) ≤ 65536) → dataOk s (engAgent s s.cur 4) [(v, stSize w)] = .ok () →
      Sys2Proof.Claims.Queues (.accSt (.v 0) a b) s s (.accSt v (w64 w) c.accF64) id) ∧
    (∀ (s1 s2 : State) (o : Obj) (xs : List (List Byte × Bool)) (vals : List W64), w < 2 ^ 17 → bitsN w 12 4 ≤ 5 →
      v % 64 = 0 → objHeader s.settled s.cur 0 v = .ok (s1, o) → dataOk s (engAgent s s.cur 4) [(v, 64)] = .ok () → o.layout ≤ 5 →
      (o.layout = bitsN w 12 4 ∨ bitN w 16 = true) → tileTy o.ty = true → tileB8 o.ty o.b8 = true → bitsN w 0 12 + o.rows ≤ 3072 →
      o.cols ≤ accCap c.accF64 → (o.ty = 13 → o.layout = 5 ∧ bitsN w 12 4 = 5) → objPieces s1 s.cur 0 o (objPlan o false) = .ok (s2, xs) →
      (∀ z ∈ xs, z.2 = false) → vals.length = o.rows * o.cols →
      (∀ k < o.rows * o.cols, vals.getD k 0 = accLdElem o c.accF64 (ofLE (xs.getD k ([], false)).1)
        (ofLE (xs.getD (o.rows * o.cols + k / 32) ([], false)).1)) →
      Sys2Proof.Claims.Queues (.accLd (.v 0) a b) s s2 (.accLd c.accF64 (bitsN w 0 12) o.rows o.cols vals []) id)

/-- MATRIX_COMMAND_START and _COMPLETE (R379, R380, R384): the head of a crew's queue takes effect once the engine is free and no
undelivered element of a drain is overwritten, and then leaves the queue; memory stays but for ACC.ST. A place that a faulted command
holds is no command yet. -/
def Obligations.MatrixCommandsTakeEffectInOrder : Prop :=
  ∀ (s : State) (ci : Nat) (m : MmaCmd) (rest : List MmaCmd) (c : Crew), c = s.crew ci → c.mmq = m :: rest → c.resident = true →
    ctxRuns s c.ctx = true → m.wait = none → mmaBusy s c.core ci = false → m.op ≠ .reading →
    (m.started = false → (∀ r, mmaRegion m.op = some r → drainHolds s c r = false) → mmaEarlier s c.core ci m.id = false → mmaTies s c m = false →
      (∀ va w f64, m.op ≠ .accSt va w f64) →
      ∃ t, exec (.matrixCommandStart ci) s = .next t ∧ (∀ q, byteAt t q = byteAt s q) ∧ ∀ c', c' = t.crew ci →
        c'.mmq = { m with started := true } :: rest ∧
        (∀ k, m.op = .tcfg k → c'.tile k = { c.tile k with img := [], poison := [] }) ∧
        (∀ k img bad, m.op = .setTile k img bad → (c'.tile k).poison = bad ∧ ∀ o, cget 0 (c'.tile k).img o = img.getD o 0) ∧
        (∀ z base ta tb M N K tyA b8A tyB b8B f64 fl, m.op = .mma z base ta tb M N K tyA b8A tyB b8B f64 fl → N ≤ 64 → ∀ i j, j < 64 →
          cget 0 c'.acc ((base + i) * 64 + j) = if i < M ∧ j < N then
              w64 (mmaElem f64 fl ((List.range ((K + chunkOf tyA - 1) / chunkOf tyA)).map
                (fun k => chunkValue (c.tile ta) (c.tile tb) M N K tyA b8A tyB b8B fl i j (k * chunkOf tyA)))
                (if z then 0 else (cget 0 c.acc ((base + i) * 64 + j)).toNat))
            else cget 0 c.acc ((base + i) * 64 + j)) ∧
        (∀ f64, m.op = .accCfg f64 → ∀ k, cget 0 c'.acc k = 0) ∧
        (∀ ti d, m.op = .drain ti d → (∀ x ∈ rest, ∀ e, x.op ≠ .drain ti e) → (t.team ti).drain = some { d with armed := true }) ∧
        (∀ f64 first rows cols vals bad, m.op = .accLd f64 first rows cols vals bad → cols ≤ 64 → ∀ i j, j < 64 →
          cget 0 c'.acc ((first + i) * 64 + j) = if i < rows ∧ j < cols then vals.getD (i * cols + j) 0
            else cget 0 c.acc ((first + i) * 64 + j))) ∧
    (m.started = true → (∀ va w f64, m.op ≠ .accSt va w f64) →
      ∃ t, exec (.matrixCommandComplete ci) s = .next t ∧ (t.crew ci).mmq = rest ∧ (∀ q, byteAt t q = byteAt s q) ∧
        ((s.team m.team).ops 2 = [(m.id, false)] → (t.team m.team).ops 2 = []))

/-- ACC.ST (R382, 09 R186, R187): an odd version first, then the header and the elements in order, and at the end the even version that
follows it, after a release at DEV scope (09 R180); with AON every byte at once, in a form that is whole. The model's choices: one event writes one
part, elements in row-major order (log 27), and the version is read and then translated for writing (log 30). -/
def Obligations.AccumulatorStoresGoInVersions : Prop :=
  ∀ (s : State) (ci va w : Nat) (f64 : Bool) (m : MmaCmd) (rest : List MmaCmd) (a : Agent) (c : Crew), c = s.crew ci → c.mmq = m :: rest →
    c.resident = true → ctxRuns s c.ctx = true → m.wait = none → mmaBusy s c.core ci = false →
    m.op = .accSt va (w64 w) f64 → w < 2 ^ 48 → a = engAgent s m.team 4 →
    (m.started = false → mmaEarlier s c.core ci m.id = false → mmaTies s c m = false → ∀ s1 vb _pz ver,
      engRead s a ci va 4 = (s1, .ok (vb, _pz)) → ver = (if ofLE vb % 2 = 0 then ofLE vb + 1 else ofLE vb + 2) % 2 ^ 32 →
      (stAon w = false → ∀ s2, stWrite a c va w f64 ver s1 [0] = (s2, .ok ()) →
        ∃ t, exec (.matrixCommandStart ci) s = .next t ∧ (∀ q, byteAt t q = byteAt s2 q) ∧
          (t.crew ci).mmq = { m with started := true, done := 1, ver := ver, again := none } :: rest) ∧
      (stAon w = true → ∀ s2 ps s3, placesOf s1 a .engW (piecesOf va (64 + stRows w * stCols w * tySize (stTy w))) = (s2, .ok ps) →
        stWrite a c va w f64 ((ver + 1) % 2 ^ 32) (releaseAt s2 ci 4) (List.range (stParts w)) = (s3, .ok ()) →
        ∃ t, exec (.matrixCommandStart ci) s = .next t ∧ (∀ q, byteAt t q = byteAt s3 q) ∧
          (t.crew ci).mmq = { m with started := true, done := stParts w, ver := ver, again := none } :: rest)) ∧
    (m.started = true → m.done < stParts w → ∀ s2, stWrite a c va w f64 m.ver s [m.done] = (s2, .ok ()) →
      ∃ t, exec (.matrixCommandStart ci) s = .next t ∧ (∀ q, byteAt t q = byteAt s2 q) ∧
        (t.crew ci).mmq = { m with done := m.done + 1, again := none } :: rest) ∧
    (m.started = true → stParts w ≤ m.done →
      (stAon w = false → ∀ s2, writeVa (showVa (releaseAt s ci 4) a va (stSize w)) a .engW va (leBytes 4 ((m.ver + 1) % 2 ^ 32)) false = (s2, .ok ()) →
        ∃ t, exec (.matrixCommandComplete ci) s = .next t ∧ (∀ q, byteAt t q = byteAt s2 q) ∧ (t.crew ci).mmq = rest) ∧
      (stAon w = true → ∃ t, exec (.matrixCommandComplete ci) s = .next t ∧ (∀ q, byteAt t q = byteAt s q) ∧ (t.crew ci).mmq = rest))

/-! ### Copies, gathers, streams and the issue budget (19 R385 to R393, 09 R182, R189, R193, 08 R176) -/

/-- CPY, GTH, SREC.LD and SREC.GO (R385, R388, R390, R391): where the record r at Sa is well-formed, and of CPY and GTH its data ranges can be
accessed (R395, log 130), CPY gives the WP at which its
transfer begins and appends it to its channel, GTH queues a gather, SREC.LD loads a stream record, and SREC.GO starts one. -/
def Obligations.RecordsStartTheEngines : Prop :=
  ∀ (s s1 : State) (d a : Opnd) (t : BitVec 8) (va : Nat) (r : List Byte), ready s = true → okS d = true → okS a = true → t.toNat < 16 →
    va = (sVal s.me a).toNat → (s.crew s.me.crew).drafting = false → ∀ core, core = (s.crew s.me.crew).core →
    (∀ (k flags w0 : Nat) (rg : Option (Nat × Nat)), s.me.opCount 0 < 255 → va % 32 = 0 →
      issueRead s.settled s.cur va 32 = .ok (s1, r) → field r 28 4 = 0 → field r 23 1 = 0 → flags = field r 21 1 →
      flags < 16 → k = field r 20 1 → k ≤ 7 →
      (bitN flags 1 = false ∧ rg = none ∨ bitN flags 1 = true ∧ rg = some (field r 24 4, field r 22 1) ∧ field r 22 1 ≤ 7 ∧
        ∃ g, ringFor s1 s.me.crew (field r 24 4) = some g ∧ bitN g.prods (field r 22 1) = true) →
      dataOk s1 (engAgent s1 s.cur 1) ((field r 0 8, field r 16 4) :: (if bitN flags 1 then [] else [(field r 8 8, field r 16 4)])) = .ok () →
      w0 = (if bitN flags 0 then 0 else (s1.chan core k).sum) →
      Sys2Proof.Claims.Issues (.cpy d a (.v 0)) s s1 0 (fun z id => z.me.s = (s.me.putS d (w64 w0)).s ∧
        z.chan core k = { s1.chan core k with sum := (w0 + field r 16 4) % 2 ^ 64, q := (s1.chan core k).q ++
          [{ team := s.cur, crew := s.me.crew, src := field r 0 8, dst := field r 8 8, bytes := field r 16 4, reset := bitN flags 0, hint := bitsN flags 2 2,
             ring := rg, order := id }] })) ∧
    (∀ (lsz al : Nat), s.me.opCount 1 < 255 → va % 64 = 0 → issueRead s.settled s.cur va 48 = .ok (s1, r) →
      field r 36 12 = 0 → field r 30 2 = 0 → field r 29 1 < 8 → lsz = field r 28 1 → lsz ≤ 6 → al = min (2 ^ lsz) 8 →
      field r 8 8 % 4 = 0 → field r 0 8 % al = 0 → field r 8 8 % al = 0 → field r 16 8 % al = 0 →
      dataOk s1 (engAgent s1 s.cur 2) [(field r 8 8, 4 * field r 24 4), (field r 16 8, field r 24 4 * 2 ^ lsz)] = .ok () →
      Sys2Proof.Claims.Issues (.gth d a (.v 0)) s s1 1 (fun z id => (z.core core).gth = (s1.core core).gth ++
        [{ team := s.cur, id := id, crew := s.me.crew, base := field r 0 8, idx := field r 8 8, dst := field r 16 8, count := field r 24 4,
           lsz := lsz, bound := field r 32 4, signed := bitN (field r 29 1) 0, hint := bitsN (field r 29 1) 1 2,
           sd := match d with
             | .s n => some n.val
             | _ => none }])) ∧
    (∀ (f ez : Nat) (x : Stream), f = t.toNat → va % 64 = 0 → issueRead s.settled s.cur va 64 = .ok (s1, r) →
      field r 28 36 = 0 → ez = field r 12 1 → ez < 8 → ez % 4 ≠ 3 → field r 15 1 < 4 → field r 8 4 ≠ 0 → field r 13 1 ≤ 1 →
      field r 0 8 % 2 ^ (ez % 4) = 0 → field r 16 8 % 2 ^ (ez % 4) = 0 → x = s.me.stream (field r 14 1) →
      (field r 13 1 = 1 → field r 14 1 ≠ f ∧ field r 14 1 ≤ 15 ∧ x.loaded = true ∧ x.indirect = false ∧ x.esz = 4) →
      (s.me.stream f).running = false → indexesRunning s.me f = false →
      ∃ z, exec (.srecLd t a (.v 0)) s = .next z ∧ z.me.pc = nextPc s.me.pc 1 ∧ z.me.status = .run ∧ (∀ q, byteAt z q = byteAt s1 q) ∧
        (∀ g, g ≠ f → z.me.stream g = s.me.stream g) ∧ z.me.stream f =
          { loaded := true, base := field r 0 8,
            stride := sextN 64 (field r 16 8), length := field r 8 4, esz := 2 ^ (ez % 4), signed := bitN ez 2,
            indirect := field r 13 1 == 1, ixs := field r 14 1 % 16, hint := field r 15 1, bound := field r 24 4 }) ∧
    (∀ (f : Nat) (x : Stream), f = t.toNat → va < 2 ^ 27 → x = s.me.stream f → x.loaded = true → x.running = false →
      (bitN va 0 = false ∧ bitsN va 4 20 = 0 ∧ bindDir (s.me.q (bitsN va 1 3)).bind = false ∧
          bindSrc (s.me.q (bitsN va 1 3)).bind = 1 ∧ bindStrm (s.me.q (bitsN va 1 3)).bind = f ∨
        bitN va 0 = true ∧ bitsN va 1 3 = 0 ∧ ∃ g, ringFor s s.me.crew (bitsN va 4 20) = some g ∧ bitN g.prods (bitsN va 24 3) = true) →
      ∃ z o, exec (.srecGo t a (.v 0)) s = .next z ∧ z.me.pc = nextPc s.me.pc 1 ∧ z.me.status = .run ∧ (∀ q, byteAt z q = byteAt s q) ∧
        (∀ g, g ≠ f → z.me.stream g = s.me.stream g) ∧ z.me.stream f =
        { x with running := true, short := false, pos := 0,
                 ring := bitN va 0, q := bitsN va 1 3, ringOff := bitsN va 4 20, prod := bitsN va 24 3, slot := none, slotFill := 0, order := o,
                 ahead := [], halt := none, again := none, wait := none })

/-- WPRD and QSTAT give their results as interlocked ones, and SREC.STOP ends a stream short (R387, R392, R393): QSTAT of an incoming
queue gives its entries in bits [3:0], whether its stream has delivered all in [5], whether its producer has ended in [6], whether the
head is poisoned in [7] and the elements not yet delivered in [63:32]; of an outgoing one, the entries of the queue it feeds. -/
def Obligations.EngineStatusReads : Prop :=
  ∀ (s : State) (d a : Opnd) (k : Fin 8) (t : BitVec 8), ready s = true → okS d = true → okS a = true → t.toNat < 16 →
    ∀ Gives : Instr → W64 → Prop, (∀ i v, Gives i v ↔ ∃ c, RunsTo i s { s.me.stepped with
        pend := (sWrite s.me d v c).map (fun w => { w with il := true }) }) →
    ((sVal s.me a).toNat < 8 → Gives (.wprd d a (.v 0)) (w64 (s.chan (s.crew s.me.crew).core (sVal s.me a).toNat).wp)) ∧
    (bindDir (s.me.q k.val).bind = false → (s.me.q k.val).entries.length ≤ 8 → ∃ v, Gives (.qstat d (.q k) (.v 0)) (w64 v) ∧
      ∀ x, x = s.me.stream (bindStrm (s.me.q k.val).bind) → ∀ mine, mine = (bindSrc (s.me.q k.val).bind == 1 && x.loaded) →
      bitsN v 0 4 = (s.me.q k.val).entries.length ∧ bitN v 4 = false ∧ bitN v 5 = (mine && decide (x.length ≤ x.pos)) ∧
      bitN v 6 = (bindSrc (s.me.q k.val).bind != 0 && producerEnded s s.me k.val) ∧
      bitN v 7 = (match (s.me.q k.val).entries.head? with
        | some e => e.poison.isSome
        | none => false) ∧
      v / 2 ^ 32 = (if mine then x.length - x.pos else 0)) ∧
    (∀ p, bindDir (s.me.q k.val).bind = true → crewTeam s s.me.crew (bindPeer (s.me.q k.val).bind) = some p →
      Gives (.qstat d (.q k) (.v 0)) (w64 (16 + ((s.team p).q (bindPq (s.me.q k.val).bind)).entries.length))) ∧
    (∃ z, exec (.srecStop t (.v 0) (.v 0)) s = .next z ∧ z.me.pc = nextPc s.me.pc 1 ∧ z.me.status = .run ∧
      (z.me.stream t.toNat).running = false ∧ (∀ g, g ≠ t.toNat → z.me.stream g = s.me.stream g) ∧
      ((s.me.stream t.toNat).running = true → (z.me.stream t.toNat).short = true) ∧
      ((s.me.stream t.toNat).ring = false → ∀ q, byteAt z q = byteAt s q))

/-- A transfer of a copy channel (R386, 09 R182): it starts, clearing WP where it says so; each unit read at the source is written at
the destination, and WP counts its bytes; with every byte delivered it leaves the channel. A gather (R389): each element, of any index, is copied
from base + index · 2^lsz, or zeroed where its index is out of range, which adds 1 to the count; after the last one the command retires and Sd
receives the count. That one event moves a word or a byte of a transfer, and as many elements of a gather as a free choice says, is the model's
choice (log 27). -/
def Obligations.CopiesAndGathers : Prop :=
  (∀ (s : State) (core k : Nat) (x : CpyXfer) (rest : List CpyXfer), (s.chan core k).q = x :: rest → cpyLive s x = true → x.ring = none →
    (x.started = false → ∃ t, exec (.cpyTransferStart core k) s = .next t ∧ (t.chan core k).q = { x with started := true } :: rest ∧
      (t.chan core k).wp = (if x.reset then 0 else (s.chan core k).wp) ∧ (∀ q, byteAt t q = byteAt s q)) ∧
    (x.started = true → x.done < x.bytes → x.overlaps = false → ∀ src dst n s1 bs bad s2, src = wrapN 64 (x.src + x.done : Nat) →
      dst = wrapN 64 (x.dst + x.done : Nat) → n = (if src % 8 = 0 ∧ dst % 8 = 0 ∧ 8 ≤ x.bytes - x.done then 8 else 1) →
      engRead s (engAgent s x.team 1) x.crew src n x.hint = (s1, .ok (bs, bad)) →
      writeVa s1.draw.2 (engAgent s x.team 1) .engW dst bs bad x.hint = (s2, .ok ()) →
      ∃ t, exec (.cpyTransferStart core k) s = .next t ∧ (∀ q, byteAt t q = byteAt s2 q) ∧
        (t.chan core k).wp = ((s2.chan core k).wp + n) % 2 ^ 64) ∧
    (x.started = true → x.done = x.bytes → ∃ t, exec (.cpyTransferComplete core k) s = .next t ∧ (t.chan core k).q = rest ∧
      (∀ q, byteAt t q = byteAt s q) ∧ ((s.team x.team).ops 0 = [(x.order, false)] → (t.team x.team).ops 0 = []))) ∧
  (∀ (s : State) (core : Nat) (g : GthCmd) (rest : List GthCmd), (s.core core).gth = g :: rest → (s.crew g.crew).resident = true →
    ctxRuns s (s.crew g.crew).ctx = true → g.wait = none →
    (g.done < g.count → ∀ s1 ib ibad, engRead s.draw.2 (engAgent s g.team 2) g.crew (wrapN 64 (g.idx + 4 * g.done : Nat)) 4 g.hint = (s1, .ok (ib, ibad)) →
      ∀ (j : Int) (n : Nat), j = (if g.signed then sextN 32 (ofLE ib) else (ofLE ib : Int)) → n = 2 ^ g.lsz → ∀ s2 bs bad,
      (j < 0 ∨ (g.bound : Int) ≤ j) ∧ s2 = s1 ∧ bs = List.replicate n 0 ∧ bad = false ∨
        0 ≤ j ∧ j < g.bound ∧ engRead s1 (engAgent s g.team 2) g.crew (wrapN 64 (g.base + j * n)) n g.hint = (s2, .ok (bs, bad)) →
      ∀ s3, writeVa s2 (engAgent s g.team 2) .engW (wrapN 64 (g.dst + g.done * n : Nat)) bs (bad || ibad) g.hint = (s3, .ok ()) →
      (s3.core core).gth = g :: rest →
      ∃ t, (∀ q, byteAt t q = byteAt s3 q) ∧
        (t.core core).gth = { g with done := g.done + 1, bad := g.bad + (if j < 0 ∨ (g.bound : Int) ≤ j then 1 else 0), again := none } :: rest ∧
        ((∃ k, exec (.gthCommandComplete core) s = .next (gthRun core k t)) ∨ exec (.gthCommandComplete core) s = .next (gthFinish core t)) ∧
        (g.done + 1 = g.count → exec (.gthCommandComplete core) s = .next (gthFinish core t) ∧
          (∀ q, byteAt (gthFinish core t) q = byteAt t q) ∧ ((gthFinish core t).core core).gth = rest)) ∧
    (g.count ≤ g.done → ∃ t, exec (.gthCommandComplete core) s = .next t ∧ (t.core core).gth = rest ∧ (∀ q, byteAt t q = byteAt s q) ∧
      ((s.team g.team).ops 1 = [(g.id, false)] → (t.team g.team).ops 1 = []) ∧
      ∀ r f, g.sd = some r → (s.team g.team).flight = [f] → f.kind = .gth → f.writes = [] → (t.team g.team).flight = [] ∧
        ∃ w, (t.team g.team).pend = (s.team g.team).pend ++ [w] ∧ w.reg = .s r ∧ w.val = w64 g.bad ∧ w.il = true))

/-- The Feed, the ring slots and the budget (09 R193, R189, 08 R176): an entry of a stream's next elements goes to the tail of its
queue, or the element goes into the slot that the stream fills; a slot that is filled becomes visible by its phase bit; a window of 64
cycles begins with the budget doubled after a window with an issue, and 1 otherwise, where no team of the core could issue before (08 R163). -/
def Obligations.FeedsRingsAndBudget : Prop :=
  (∀ (s s1 : State) (ti f : Nat) (x : Stream) (e : QEntry), x = (s.team ti).stream f → x.running = true →
    (s.crew (s.team ti).crew).resident = true → ctxRuns s (s.crew (s.team ti).crew).ctx = true → partyGone s ti = false → x.ring = false →
    (x.indirect = true → x.pos + min (s.team ti).lanes (x.length - x.pos) ≤ ((s.team ti).stream x.ixs).length) →
    ((s.team ti).q x.q).entries.length < 8 → feedEntry s ti f (x.pos / (s.team ti).lanes) x.ahead = (s1, e, false) →
    ∃ t, exec (.feedEntryFill ti f) s = .next t ∧ ((t.team ti).q x.q).entries = ((s1.team ti).q x.q).entries ++ [e] ∧
      ((t.team ti).stream f).pos = x.pos + min (s.team ti).lanes (x.length - x.pos) ∧ (∀ q, byteAt t q = byteAt s1 q)) ∧
  (∀ (s s1 : State) (ti f i : Nat) (x : Stream) (r : Ring) (bs : List Byte) (bad : Bool), x = (s.team ti).stream f → x.running = true →
    (s.crew (s.team ti).crew).resident = true → ctxRuns s (s.crew (s.team ti).crew).ctx = true → partyGone s ti = false → x.ring = true →
    x.wait = none → x.slot = some i → x.ahead = [] → x.pos + 1 = x.length → r = ringAt (s.crew (s.team ti).crew) x.ringOff →
    x.slotFill + x.esz = 2 ^ r.lsize → streamElem s ti false f x.pos = (s1, .ok bs bad) →
    ∃ t, exec (.feedEntryFill ti f) s = .next t ∧ ((t.team ti).stream f).running = false ∧ ((t.team ti).stream f).slot = none ∧
      ∀ q, byteAt t q = byteAt (writePlace s1 (s.crew (s.team ti).crew).ctx (.scratch (s.team ti).crew (r.slot i + x.slotFill)) bs bad) q) ∧
  (∀ (s : State) (ci off idx prod : Nat) (r : Ring), (s.crew ci).ringClaims = [(off, idx, prod)] → r = ringAt (s.crew ci) off →
    ringHeld s ci (off, idx, prod) = false → (s.crew ci).resident = true → ctxRuns s (s.crew ci).ctx = true → 2 ≤ r.nslots → r.nslots ≤ 32 →
    ∃ t, exec (.ringSlotFilled ci off (idx % r.nslots)) s = .next t ∧ (t.crew ci).ringClaims = [] ∧
      (ringAt (t.crew ci) off).filled idx = true ∧ ∀ j < 32, j ≠ idx % r.nslots → bitN (ringAt (t.crew ci) off).phase j = bitN r.phase j) ∧
  (∀ (s : State) (core : Nat) (c : Core), c = s.core core → s.freezing = 0 → s.tripped = false → c.cycle / 64 ≤ c.govWindow → coreIdle s core = true →
    ∃ t, exec (.govWindowStart core) s = .next t ∧ (t.core core).govWindow = c.govWindow + 1 ∧ (t.core core).govUsed = 0 ∧
      (t.core core).govCur = (if c.govUsed ≠ 0 then min c.govCap (2 * c.govCur) else 1) ∧ (t.core core).cycle = 64 * (c.govWindow + 1) ∧
      (∀ j, j ≠ core → t.core j = s.core j) ∧ (∀ j, t.team j = s.team j) ∧ (∀ q, byteAt t q = byteAt s q))

/-! ### System registers, traps and the end of a team (20 R397 to R401, R413, R415, R416, 10 R206, R210 to R214) -/

/-- SYS.RD and SYS.WR (R398, R399), CTR.ADD and CTR.RD (R413), and ROLE of a crew that names no quire (R415): every listed register is read
into Sd at once, CYCLES and the governor's registers as of the cycle of the pass; FSR, UFC, TRAP.PC and the queue bindings take a write, a binding
that R190 does not allow traps, and a write to another register is discarded; a write to the governor's registers, and numbers from 0x100 on, are
privileged, and other numbers are illegal operands. -/
def Obligations.SystemRegisters : Prop :=
  ∀ (s : State) (d a b : Opnd) (n : BitVec 16), ready s = true → okS d = true → okS a = true → okS b = true → ∀ c, c = s.crew s.me.crew →
    (∀ e ∈ [(0x00, s.me.id), (0x01, 2 ^ s.me.lanesLog), (0x02, s.me.nregs), (0x03, c.ix), (0x04, c.ix % (s.crewRec s.me.crew).gx),
        (0x05, c.ix / (s.crewRec s.me.crew).gx % (s.crewRec s.me.crew).gy),
        (0x06, c.ix / ((s.crewRec s.me.crew).gx * (s.crewRec s.me.crew).gy)), (0x07, c.core), (0x08, c.core / 128), (0x09, s.chipId),
        (0x0A, c.rank), (0x0B, c.role), (0x0C, (s.launch c.launch).depth), (0x11, s.me.fsr.toNat), (0x12, s.me.ufc.toNat),
        (0x15, (s.core c.core).specDrop), (0x30, s.me.trapCode.toNat), (0x31, s.me.trapPc.toNat), (0x32, s.me.trapInfo0.toNat),
        (0x33, s.me.trapInfo1.toNat), (0x34, s.me.trapLane.toNat), (0x40, s.me.opCount 0), (0x41, s.me.opCount 1), (0x42, s.me.opCount 2),
        (0x43, s.me.opCount 3), (0x44, s.me.opCount 4), (0x60, monqFree s s.me.crew)] ++ (List.range 8).map (fun k => (0x50 + k, (s.me.q k).bind.toNat)),
      n.toNat = e.1 → RunsTo (.sysRd d n) s { s.me.putS d (w64 e.2) with pc := nextPc s.me.pc 1 }) ∧
    (∃ k, (s.core c.core).cycle ≤ k ∧ ∀ g, g = govAt (s.core c.core) (k / 64) →
      ∀ e ∈ [(0x10, k), (0x13, (g.govStall + g.govFrom.elim 0 (k - ·)) % 2 ^ 64), (0x14, g.govCur % 256 * 256 + g.govCap % 256)],
        n.toNat = e.1 → RunsTo (.sysRd d n) s { s.me.putS d (w64 e.2) with pc := nextPc s.me.pc 1 }) ∧
    (∀ v, v = (sVal s.me d).toNat → (n.toNat = 0x11 → RunsTo (.sysWr d n) s { s.me.stepped with fsr := w64 (v % 32) }) ∧
      (n.toNat = 0x12 → RunsTo (.sysWr d n) s { s.me.stepped with ufc := w64 v }) ∧
      (n.toNat = 0x31 → RunsTo (.sysWr d n) s { s.me.stepped with trapPc := w64 v, trapNext := none }) ∧
      (∀ k < 8, n.toNat = 0x50 + k → bindOk s s.me k v = true →
        RunsTo (.sysWr d n) s (s.me.stepped.setQ k { s.me.q k with bind := w64 v })) ∧
      (n.toNat ≤ 0x0C ∨ n.toNat = 0x10 ∨ n.toNat = 0x15 ∨ n.toNat = 0x30 ∨ 0x32 ≤ n.toNat ∧ n.toNat ≤ 0x34 ∨ 0x40 ≤ n.toNat ∧ n.toNat ≤ 0x44 ∨
        n.toNat = 0x60 → RunsTo (.sysWr d n) s s.me.stepped)) ∧
    (0x100 ≤ n.toNat → Traps (.sysRd d n) s 0x15 n.toNat 0 ∧ Traps (.sysWr d n) s 0x15 n.toNat 0) ∧
    (n.toNat = 0x13 ∨ n.toNat = 0x14 → Traps (.sysWr d n) s 0x15 n.toNat 0) ∧
    (n.toNat < 0x100 → sysListed n.toNat = false → Traps (.sysRd d n) s 0x02 n.toNat (wordFI 0xE0 d n).toNat ∧
      Traps (.sysWr d n) s 0x02 n.toNat (wordFI 0xE1 d n).toNat) ∧
    (∀ k < 8, n.toNat = 0x50 + k → bindOk s s.me k (sVal s.me d).toNat = false → ∃ i1, Traps (.sysWr d n) s 0x02 n.toNat i1) ∧
    (∀ k, k = (sVal s.me a).toNat → k < 256 → c.drafting = false →
      (∃ t, exec (.ctrAdd (.v 0) a b) s = .next t ∧ t.me.untimed = s.me.stepped.untimed ∧ t.me.status = .run ∧
        (t.ctx c.ctx).counter k = ((s.ctx c.ctx).counter k + (sVal s.me b).toNat) % 2 ^ 64 ∧
        ∀ j, j ≠ k → (t.ctx c.ctx).counter j = (s.ctx c.ctx).counter j) ∧
      RunsFrom (.ctrRd d a (.v 0)) s (s.acquire s.cur 5) { s.me.putS d (w64 ((s.ctx c.ctx).counter k)) with pc := nextPc s.me.pc 1 }) ∧
    ((s.crewRec s.me.crew).quire = 0xFFFF →
      RunsTo (.role d a (.v 0)) s { s.me.putS d (w64 (2 ^ 64 - 1)) with pc := nextPc s.me.pc 1 })

/-- TRAP, BRK and an unassigned opcode take their traps (R400, 15 R291); taking a trap in a team with a handler saves PC, MR, the mask
and what the trap reports, and goes to the handler with MR at its start value, every pending write performed first
(10 R210, R211), and of the rest of the chip only the place that an LDT or ACC.LD of the team holds in the matrix queue goes (R206);
without a handler, or within one, the crew is killed. TRET (R416, R213) takes MR and the mask back and goes on at the
instruction for the codes that resume there, and after it otherwise. -/
def Obligations.TrapsAreTakenAndReturnedFrom : Prop :=
  (∀ (s : State) (imm : BitVec 16) (w : W32), ready s = true →
    Traps (.trap (.v 0) imm) s 0x17 imm.toNat 0 ∧ Traps (.brk (.v 0) (.v 0) (.v 0)) s 0x18 0 0 ∧
    Traps (.unassignedOpcode w) s 0x01 w.toNat 0 ∧
    (s.me.inHandler = false → Traps (.tret (.v 0) (.v 0) (.v 0)) s 0x01 (wordF3 0xF8 (.v 0) (.v 0) (.v 0)).toNat 0)) ∧
  (∀ (s : State) (pc : W64) (x : TrapInfo) (t : State), s.me.inHandler = false → s.me.handler ≠ 0 → s.me.handler.toNat % 32 ≠ 0 →
    t = takeTrap s s.cur pc x →
    t.me.trapCode = w64 x.code ∧ t.me.trapPc = pc ∧ t.me.trapInfo0 = x.info0 ∧ t.me.trapInfo1 = x.info1 ∧ t.me.trapLane = x.lane ∧
    t.me.savedMr = s.me.mr ∧ t.me.savedMask = s.me.mask ∧ t.me.mr = 0x40000140 ∧ t.me.mask = s.me.mask ∧ t.me.pc = s.me.handler ∧
    t.me.inHandler = true ∧ t.me.status = .run ∧ t.me.pend = [] ∧ t.me.v = s.me.commitAll.v ∧ t.me.s = s.me.commitAll.s ∧
    t.me.rstack = s.me.rstack ∧ t.me.cstack = s.me.cstack ∧ t.rest = (dropReading s s.cur).rest ∧ ∀ j, j ≠ s.cur → t.team j = s.team j) ∧
  (∀ (s : State) (pc : W64) (x : TrapInfo) (t : State), s.me.inHandler = true ∨ s.me.handler = 0 → (s.crew s.me.crew).status = .resident →
    t = takeTrap s s.cur pc x →
    (t.crew s.me.crew).status = .ended ∧ (t.crew s.me.crew).killed = some x.code ∧
    (∀ j ∈ (s.crew s.me.crew).teams, (t.team j).status = .killed ∨ (t.team j).status = .ended) ∧ ∀ q, byteAt t q = byteAt s q) ∧
  (∀ s : State, ready s = true → s.me.inHandler = true →
    (resumesAtFault s.me.trapCode.toNat = true → RunsTo (.tret (.v 0) (.v 0) (.v 0)) s
      { s.me with mr := s.me.savedMr, mask := s.me.savedMask, inHandler := false, pc := s.me.trapPc }) ∧
    (resumesAtFault s.me.trapCode.toNat = false → ∀ pc, s.me.trapNext = some pc → RunsTo (.tret (.v 0) (.v 0) (.v 0)) s
      { s.me with mr := s.me.savedMr, mask := s.me.savedMask, inHandler := false, pc := pc })) ∧
  (∀ code : Nat, resumesAtFault code = true ↔ code = 0x04 ∨ code = 0x06 ∨ code = 0x19 ∨ code = 0x1A)

/-- DEFERRED_ENGINE_TRAP and WATCHDOG_EXPIRY (10 R206, R214): a trap of an engine names the last instruction issued, and the handler
returns to where the team stood; the watchdog's trap names the blocked instruction. END (R401): with nothing outstanding the team ends,
and with its last team the crew; otherwise it waits. -/
def Obligations.TeamsEnd : Prop :=
  (∀ (s : State) (x : TrapInfo) (r : List TrapInfo), s.me.engTraps = x :: r → s.me.status = .run → s.me.replayed = false → s.me.passes = [] →
    (s.crew s.me.crew).resident = true → ctxRuns s (s.crew s.me.crew).ctx = true → s.me.inHandler = false → s.me.handler ≠ 0 →
    s.me.handler.toNat % 32 ≠ 0 →
    ∃ t, exec (.deferredEngineTrap s.cur) s = .next t ∧ t.me.engTraps = r ∧ t.me.trapCode = w64 x.code ∧ t.me.trapPc = s.me.lastPc ∧
      t.me.trapNext = some s.me.pc ∧ t.me.pc = s.me.handler ∧ t.me.inHandler = true ∧ (∀ q, byteAt t q = byteAt s q)) ∧
  (∀ (s : State) (n : Nat), n = (s.ctx (s.crew s.me.crew).ctx).wdog.toNat → n ≠ 0 → s.me.status.watched = true → s.me.status ≠ .wait 1 →
    s.me.enqTask = none → (s.crew s.me.crew).resident = true → ctxRuns s (s.crew s.me.crew).ctx = true → s.me.inHandler = false →
    s.me.handler ≠ 0 → s.me.handler.toNat % 32 ≠ 0 →
    ∃ t, exec (.watchdogExpiry s.cur) s = .next t ∧ t.me.trapCode = 0x19 ∧ t.me.trapInfo0 = w64 (2 ^ n) ∧ t.me.trapPc = s.me.pc ∧
      t.me.pc = s.me.handler ∧ t.me.status = .run) ∧
  (∀ s : State, ready s = true →
    ((∀ c < 5, s.me.opCount c = 0) → s.me.enqWait = 0 → (∀ f < 16, (s.me.stream f).running = false) →
      ∃ t, exec (.endTeam (.v 0) (.v 0) (.v 0)) s = .next t ∧ t.me.status = .ended ∧
        ((∃ j ∈ (s.crew s.me.crew).teams, j ≠ s.cur ∧ partyGone s j = false) → t.crew s.me.crew = s.crew s.me.crew ∧ ∀ q, byteAt t q = byteAt s q) ∧
        ((∀ j ∈ (s.crew s.me.crew).teams, j = s.cur ∨ partyGone s j = true) → (s.crew s.me.crew).drafting = false →
          (t.crew s.me.crew).status = .ended ∧ (∀ q, byteAt t q = byteAt s q) ∧
          (t.launch (s.crew s.me.crew).launch).liveCrews = (s.launch (s.crew s.me.crew).launch).liveCrews - 1)) ∧
    ((∃ c < 5, s.me.opCount c ≠ 0) ∨ s.me.enqWait ≠ 0 →
      ∃ t, exec (.endTeam (.v 0) (.v 0) (.v 0)) s = .next t ∧ t.me.status = .wait 3 ∧ t.me.pc = s.me.pc))

/-! ### Launches, placement and FORK (04 R77 to R90, 20 R402) -/

/-- The step i at s has the outcome P. -/
def Sys2Proof.Claims.To (i : Instr) (s : State) (P : State → Prop) : Prop := ∃ t, exec i s = .next t ∧ P t

/-- Crew ix of launch l is resident on a core: its teams start at the entry with S0 the argument, full mask and MR at its start value. -/
def Sys2Proof.Claims.Placed (t : State) (l : Launch) (ci t0 ix core p : Nat) : Prop :=
  (t.crew ci).status = .resident ∧ (t.crew ci).ix = ix ∧ (t.crew ci).core = core ∧ (t.crew ci).teams = span t0 l.lrec.teams ∧
  (t.crew ci).scratch = [] ∧ (t.crew ci).monq = l.lrec.monq ∧ ∀ i < l.lrec.teams, ∀ m, m = t.team (t0 + i) →
    m.status = .run ∧ m.crew = ci ∧ m.id = i ∧ m.lanesLog = l.lrec.lanes ∧ m.nregs = l.lrec.regs ∧ m.partition = (p + i) % 4 ∧
    m.pc = w64 (l.lrec.entry + 4) ∧ m.mask = fullMask l.lrec.lanes ∧ m.mr = 0x40000140 ∧ m.handler = w64 l.lrec.handler ∧
    cget 0 m.s 0 = w64 (match l.origin with
      | .dx handle .. => handle
      | _ => l.lrec.args) ∧ m.pend = [] ∧ m.inHandler = false

/-- The launch unit (R80, R81, R84, R89): a record whose fields or sizes fail completes with BAD_RECORD or BAD_SHAPE, and a good one is
live with all its crews to place; crews and folio groups are placed in order where they fit; a launch whose last crew has ended, with no
remote ENQ left to be acknowledged, writes its completion block, releases its stores, and decrements its count (R81, R95, R96); a gang
that waits reserves a folio, unless 16 are reserved, and then ends as starved; that its status then takes the place of an earlier one is the model's
choice (log 104). -/
def Obligations.LaunchesPlaceTheirCrews : Prop :=
  (∀ (s s1 s2 : State) (ctx depth st : Nat) (r : LRec) (o : Origin) (roles : List (Nat × Nat)), counterOk s ctx r.counter = (s1, true) →
    recordStatus s1 ctx r = (s2, st, roles) →
    (r.fieldsOk = false → st = 1) ∧ (r.fieldsOk = true → r.sizesOk = false → st = 2) ∧
    (st = 0 → ∃ t, acceptLaunch s ctx r o depth = (t, some s2.nextLaunch) ∧ ∀ l, l = t.launch s2.nextLaunch →
      l.live = true ∧ l.ctx = ctx ∧ l.lrec = r ∧ l.origin = o ∧ l.depth = depth ∧ l.liveCrews = r.crews ∧ l.nextIx = 0 ∧ l.roles = roles)) ∧
  (∀ (s : State) (id ix core p : Nat) (l : Launch), l = s.launch id → l.nextCrew = some ix → l.live = true → ctxRuns s l.ctx = true →
    inTurn s (.crew id ix) = true → l.lrec.teams ≤ 16 →
    l.lrec.folio = false ∧ mayPlace s l.lrec core (p % 4) = true ∨ l.lrec.folio = true ∧ folioCrewFits s id ix core (p % 4) = true →
    Sys2Proof.Claims.To (.crewPlace id core p) s (fun t => Sys2Proof.Claims.Placed t l s.nextCrew s.nextTeam ix core (p % 4) ∧
      (l.requeued = [] → (t.launch id).nextIx = l.nextIx + 1) ∧ (∀ j < s.nextTeam, t.team j = s.team j) ∧ t.mem = s.mem ∧ t.l2 = s.l2)) ∧
  (∀ (s : State) (id g f : Nat) (ps : List Nat) (l : Launch), l = s.launch id → l.live = true → l.lrec.folio = true → l.stopped = false →
    ctxRuns s l.ctx = true → l.nextGroup = some g → inTurn s (.group id g) = true → groupFits s id f = true →
    (∀ k < 8, fitsAt s l.lrec (8 * f + k) (ps.getD k 0 % 4) = true) → l.lrec.teams ≤ 16 →
    Sys2Proof.Claims.To (.folioGroupPlace id g f ps) s (fun t => (t.launch id).groupsPlaced = l.groupsPlaced ++ [g] ∧
      (t.launch id).reservation = none ∧ ∀ k < 8, Sys2Proof.Claims.Placed t l (s.nextCrew + k) (s.nextTeam + k * l.lrec.teams)
        (l.lrec.member g k) (8 * f + k) (ps.getD k 0 % 4))) ∧
  (∀ (s s1 s2 s3 s4 : State) (id : Nat) (l : Launch) (q n : Nat), l = s.launch id → l.origin = .queue q → l.live = true → l.liveCrews = 0 →
    ctxRuns s l.ctx = true → l.status = 0 → Memory.wf s = true → n = l.lrec.counter →
    (∀ e ∈ launchCrews s id, (e.2.killed ≠ none ∨ enqsAcked s e.1 = true) ∧ ∀ j ∈ e.2.teams, (s.team j).enqTask = none) →
    s1 = (if n = 0 then s else hubWrite (beforeRecord s l.ctx n) l.ctx (n + 8) (leBytes 4 l.status ++ leBytes 4 l.info)) →
    s2 = launchRelease s1 id →
    s3 = (if l.lrec.flush = true ∨ n ≠ 0 ∧ kindOfVa s2 l.ctx n = some 2 then s2.flush l.ctx else s2) →
    s4 = (if n = 0 then s3 else decrementAt (beforeRecord s3 l.ctx n) l.ctx n) →
    Sys2Proof.Claims.To (.launchComplete id) s (fun t =>
      t.launch id = (if l.lrec.quire = 0xFFFF then {} else { lrec := l.lrec, ctx := l.ctx }) ∧
      (∀ k, (t.queue k).work = if k / 512 = l.ctx then (s.queue k).work.filter (· != .launch id) else (s.queue k).work) ∧
      ∀ k, t.devByte k = s4.devByte k)) ∧
  (∀ (s : State) (id : Nat) (l : Launch), l = s.launch id → gangWaits s id = true →
    (l.reservation = none → l.gangDue = false →
      (∀ f, (reserved s).length < 16 → drainChoice s = some f → (∀ e ∈ s.launches, e.2.gangDue = false) →
        Sys2Proof.Claims.To (.gangReservationTimeout id) s (fun t =>
          t.launch id = { l with reservation := some f, gangDue := true } ∧ t.teams = s.teams ∧ t.mem = s.mem)) ∧
      (16 ≤ (reserved s).length → Sys2Proof.Claims.To (.gangReservationTimeout id) s (fun t =>
        t.launch id = { l with gangDue := true } ∧ t.teams = s.teams ∧ t.mem = s.mem))) ∧
    (∀ f, l.reservation = some f → Sys2Proof.Claims.To (.gangStarvedTimeout id) s (fun t => (t.launch id).stopped = true ∧
      (t.launch id).status = 3 ∧ (t.launch id).info = 0 ∧ (t.launch id).reservation = none ∧ t.teams = s.teams ∧ t.mem = s.mem)))

/-- FORK (R402, R90): it is requested and the team waits; tried again, once the crew's remote accesses have been performed (11 R235), the crew leaves its core with the team after the FORK; once its
children have completed, FORK_PARENT_RESUME places it again. A count of 0 or above 64, a misaligned array and a depth of 8 trap. -/
def Obligations.ForksSwapTheParent : Prop :=
  ∀ s : State, (∀ a b : Opnd, ready s = true → okS a = true → okS b = true → ∀ va n, va = (sVal s.me a).toNat → n = (sVal s.me b).toNat →
    (va % 64 ≠ 0 → s.me.status = .run → Traps (.fork (.v 0) a b) s 0x0B va 0) ∧
    (va % 64 = 0 → n = 0 ∨ 64 < n → s.me.status = .run → ∃ i1, Traps (.fork (.v 0) a b) s 0x02 n i1) ∧
    (va % 64 = 0 → 1 ≤ n → n ≤ 64 → s.me.status = .run → 8 ≤ (s.launch (s.crew s.me.crew).launch).depth →
      Traps (.fork (.v 0) a b) s 0x10 0 0) ∧
    (va % 64 = 0 → 1 ≤ n → n ≤ 64 → s.me.status = .run → (s.launch (s.crew s.me.crew).launch).depth < 8 →
      (s.crew s.me.crew).drafting = false → Sys2Proof.Claims.To (.fork (.v 0) a b) s (fun t => t.me.status = .wait 5 ∧ t.me.pc = s.me.pc ∧
        (t.crew s.me.crew).forkReqs = (s.crew s.me.crew).forkReqs ++ [(va, n)] ∧ ∀ q, byteAt t q = byteAt s q)) ∧
    (s.me.status = .wait 5 → (s.crewRec s.me.crew).folio = false → (∀ e ∈ s.crews, e.2.launch < s.nextLaunch) →
      (s.crew s.me.crew).teams = [s.cur] → groupPerformed s s.me.crew = true → (s.crew s.me.crew).mmq = [] → (s.crew s.me.crew).drafting = false → (s.crew s.me.crew).resident = true →
      Sys2Proof.Claims.To (.fork (.v 0) a b) s (fun t => t.me.status = .run ∧ t.me.pc = nextPc s.me.pc 1 ∧
        (t.crew s.me.crew).status = .forking ∧ (t.crew s.me.crew).forkReqs = []))) ∧
  (∀ ci core p : Nat, (s.crew ci).status = .forking → ctxRuns s (s.crew ci).ctx = true → (s.crew ci).childrenLeft = 0 →
    (s.crewRec ci).folio = false → mayPlace s (s.crewRec ci) core (p % 4) = true → inTurn s (.back ci) = true →
    Sys2Proof.Claims.To (.forkParentResume ci core p) s (fun t => (t.crew ci).status = .resident ∧ (t.crew ci).core = core ∧
      (t.crew ci).p0 = p % 4 ∧ (t.crew ci).teams = (s.crew ci).teams ∧ (t.crew ci).scratch = (s.crew ci).scratch ∧
      ∀ j ∈ (s.crew ci).teams, (t.team j).pc = (s.team j).pc ∧ (t.team j).v = (s.team j).v ∧ (t.team j).s = (s.team j).s))

/-! ### Tasks (05 R97 to R109, 20 R403, R404) -/

/-- ENQ, DEP.DEC and DEP.SET on this chip, in a crew that does not draft (R403, R404, R100, R108); an ENQ that has waited for room ends
when its task is in. -/
def Obligations.TasksAndDependencies : Prop :=
  ∀ (s : State) (d a b : Opnd), ready s = true → okS d = true → okS a = true → okS b = true → (s.crew s.me.crew).drafting = false →
    ∀ ctx va w, ctx = (s.crew s.me.crew).ctx → va = (sVal s.me a).toNat → w = (sVal s.me b).toNat →
    (∀ (s1 : State) (r : List Byte) (k : Task), s.me.status = .run → w < 4 → va % 64 = 0 → issueRead s.settled s.cur va 64 = .ok (s1, r) →
      (s.launch (s.crew s.me.crew).launch).depth < 8 → taskShapeOk r = true → field r 48 4 ≤ 255 →
      k = { taskOf va w r with depth := (s.launch (s.crew s.me.crew).launch).depth + 1 } →
      (k.own = 0xFFFFFFFF ∨ (ctrPhys (s1.ctx ctx) k.own).isSome = true) → gateTaken s1 ctx k = false →
      (∀ s2, enqInsert (jobAdd s1 ctx k.job 1) ctx k = some s2 → Sys2Proof.Claims.To (.enq d a b) s (fun t =>
        t.me.pc = nextPc s.me.pc 1 ∧ t.me.status = .run ∧ Sys2Proof.Claims.holdsS t.me d 0 ∧ t.ctx ctx = s2.ctx ctx ∧
        (∀ q, byteAt t q = byteAt s2 q))) ∧
      (enqInsert (jobAdd s1 ctx k.job 1) ctx k = none → Sys2Proof.Claims.To (.enq d a b) s (fun t =>
        t.me.pc = s.me.pc ∧ t.me.status = .wait 1 ∧ t.me.enqTask = some k))) ∧
    (s.me.status = .wait 1 → ∀ s1, (s.me.enqTask = none ∧ s1 = s ∨ ∃ k, s.me.enqTask = some k ∧ enqReady s.settled ctx k = some s1) →
      Sys2Proof.Claims.To (.enq d a b) s (fun t => t.me.pc = nextPc s.me.pc 1 ∧ t.me.status = .run ∧ t.me.enqTask = none ∧
        Sys2Proof.Claims.holdsS t.me d 0 ∧ t.ctx ctx = s1.ctx ctx)) ∧
    (va < 2 ^ 32 → ∀ ph, ctrPhys (s.ctx ctx) va = some ph → ∀ v, v = depValue s ctx va →
      (w < 2 ^ 16 → w ≤ v → Sys2Proof.Claims.To (.depDec (.v 0) a b) s (fun t => t.me.untimed = s.me.stepped.untimed ∧
        (cget none (s.ctx ctx).parked va = none → depValue t ctx va = v - w ∧ t.ctx ctx = s.ctx ctx) ∧
        (∀ k, cget none (s.ctx ctx).parked va = some k → (v = w → v ≠ 0 → cget none (t.ctx ctx).parked va = none) ∧
          (v ≠ w → t.ctx ctx = s.ctx ctx)))) ∧
      (w < 2 ^ 16 → v < w → ∃ t s1, exec (.depDec (.v 0) a b) s = .next t ∧ depValue s1 ctx va = 0 ∧
        t = stopped s1 s.cur (trapAt 0x11 va (s.crewTaskId s.me.crew))) ∧
      (w < 2 ^ 16 → Sys2Proof.Claims.To (.depSet (.v 0) a b) s (fun t =>
        t.me.untimed = s.me.stepped.untimed ∧ depValue t ctx va = w)) ∧
      (2 ^ 16 ≤ w → ∃ t s1, exec (.depSet (.v 0) a b) s = .next t ∧ depValue s1 ctx va = v ∧
        t = stopped s1 s.cur (trapAt 0x12 va (s.crewTaskId s.me.crew)))) ∧
    (va < 2 ^ 32 → ctrPhys (s.ctx ctx) va = none →
      (w < 2 ^ 16 → ∃ s1, exec (.depDec (.v 0) a b) s = .next (stopped s1 s.cur (trapAt 0x0D va 0))) ∧
      ∃ s1, exec (.depSet (.v 0) a b) s = .next (stopped s1 s.cur (trapAt 0x0D va 0)))

/-- Rubric's steps (R98, R105 to R109): a ready task becomes a crew of its own, with its task number in S1; a held task enters its
queue; a task that ends decrements its successors and its job's count; a remote ENQ is parked or inserted and acknowledged, and its
acknowledgement writes Sd; a crew blocked in ENQ leaves its core and comes back. -/
def Obligations.TaskEvents : Prop :=
  (∀ (s : State) (ctx q core p : Nat) (e : ReadyEntry) (r : LRec), readyFirst s ctx q = some e → ctxRuns s ctx = true → (s.ctx ctx).started = true →
    jobCancelled s ctx e.task = false → inTurn s (.task ctx q e.order (taskLaunchRec e.task)) = true →
    r = { taskLaunchRec e.task with handler := bitsN (s.ctx ctx).taskHandler.toNat 2 50 * 4 } → pickCore s.draw.2 r (Config.choice s.draw.1) = some (core, p) →
    r.teams ≤ 16 →
    Sys2Proof.Claims.To (.taskDispatch ctx q) s (fun t => Sys2Proof.Claims.Placed t { lrec := r } s.nextCrew s.nextTeam 0 core p ∧
      (t.launch s.nextLaunch).origin = .task e.task ∧ (t.launch s.nextLaunch).ctx = ctx ∧ (t.launch s.nextLaunch).depth = e.task.depth ∧
      (∀ i < r.teams, cget 0 (t.team (s.nextTeam + i)).s 1 = w64 e.task.taskId) ∧ readyList t ctx q = (readyList s ctx q).erase e)) ∧
  (∀ (s : State) (ctx q slot : Nat) (h : HeldTask), heldNext s ctx q = some (h, slot) → ctxRuns s ctx = true →
    (s.ctx ctx).cancelled.contains h.task.job = false →
    Sys2Proof.Claims.To (.heldTaskInsert ctx q) s (fun t => (t.ctx ctx).held = (s.ctx ctx).held.erase h ∧
      (readyList t ctx q).length = (readyList s ctx q).length + 1 ∧ { task := h.task, slot := slot, order := s.order } ∈ readyList t ctx q)) ∧
  (∀ (s s1 : State) (ci : Nat) (k : Task), taskEnded s ci = some k → bitN k.flags 5 = false →
    ((s.crew ci).killed = none → (s.crew ci).drafting = false → enqsAcked s ci = true →
      s1 = k.succ.foldl (fun x id => recordDec x (s.crew ci).ctx (some k.job) id 1) s → s1.crew ci = s.crew ci →
      exec (.taskComplete [ci]) s = .next (jobAdd (closeLaunch s1 (s.crew ci).launch) (s.crew ci).ctx k.job (-1))) ∧
    ((s.crew ci).killed ≠ none → (taskKilled s ci k).crew ci = {} →
      exec (.taskComplete [ci]) s = .next (taskKilled s ci k))) ∧
  (∀ (s s1 : State) (ctx src token queue depth : Nat) (record : List Byte) (k : Task), k = { taskOf 0 (queue % 4) record with depth := depth } →
    fabricUp s = true → (s.ctx ctx).started = true → takeOwn s src (.enq s.chipId ctx token queue depth record) = some s1 →
    ((k.own ≠ 0xFFFFFFFF ∧ ctrPhys (s1.ctx ctx) k.own = none) ∨ gateTaken s1 ctx k = true →
      exec (.remoteEnqArrival ctx src token queue depth record) s = .next (s1.send (.enqAck src ctx token 2))) ∧
    (k.own = 0xFFFFFFFF ∨ (ctrPhys (s1.ctx ctx) k.own).isSome = true → gateTaken s1 ctx k = false →
      ∀ s2, enqInsert (jobAdd s1 ctx k.job 1) ctx k = some s2 →
      exec (.remoteEnqArrival ctx src token queue depth record) s = .next (s2.send (.enqAck src ctx token 0)))) ∧
  (∀ (s s1 : State) (ctx token code : Nat) (f : FabCmd), fabFind s ctx token = some f → f.kind = 4 → f.job = none → (s.team f.team).status ≠ .free →
    fabricUp s = true → (if f.left.any (·.1 == s.chipId) then takeOwn s s.chipId (.enqAck s.chipId ctx token code) else some s) = some s1 →
    Sys2Proof.Claims.To (.enqAckReceive ctx token code) s (fun t => fabFind t ctx token = none ∧
      (t.team f.team).enqWait = (s.team f.team).enqWait - 1 ∧
      ∀ r x, (s.team f.team).flight = [x] → x.kind = .enq token → x.regs = [r] → x.writes = [] →
        (t.team f.team).flight = [] ∧ ∃ w, (t.team f.team).pend = (s.team f.team).pend ++ [w] ∧ w.reg = r ∧
          w.val = (if code = 2 then 2 else 0) ∧ w.il = true)) ∧
  (∀ (s : State) (ci core p : Nat), (s.crewRec ci).folio = false → ctxRuns s (s.crew ci).ctx = true →
    ((s.crew ci).resident = true → (s.crew ci).drafting = false → groupPerformed s ci = true → (∃ j ∈ (s.crew ci).teams, enqBlocked (s.team j) = true) →
      someoneFits (swapOut s ci .enqSwapped) (s.crew ci).core ci = true →
      Sys2Proof.Claims.To (.enqSwapOut ci) s (fun t => t = swapOut s ci .enqSwapped ∧ (t.crew ci).status = .enqSwapped)) ∧
    ((s.crew ci).status = .enqSwapped → (∀ j ∈ (s.crew ci).teams, (s.team j).enqTask = none) → mayPlace s (s.crewRec ci) core (p % 4) = true →
      inTurn s (.back ci) = true →
      Sys2Proof.Claims.To (.enqSwappedResume ci core p) s (fun t => (t.crew ci).status = .resident ∧ (t.crew ci).core = core)))

/-! ### The fabric (20 R408 to R412, 07 R155, R156) -/

/-- The message m carries the lane x of a remote instruction to a chip. -/
def Sys2Proof.Claims.carries (kind chip ctx ty : Nat) (ctr : Option Nat) (x : RemoteLane) (m : FabMsg) : Prop :=
  ∃ id ls, m = laneMsg kind chip ctx id ty ctr ls ∧ x ∈ ls

/-- PUTR, GETR and RRED (R408 to R410): where every lane's address may be a remote one and its role is bound to a chip that is reached,
the command is counted, each lane goes to its role's chip in some packet and nothing else is sent; GETR's registers await the answers. -/
def Obligations.RemoteAccessesAreSent : Prop :=
  ∀ (s s1 : State) (d a : Opnd) (b : Fin 128) (n e ty ctl : Nat) (peers : List (RemoteLane × Option Nat)), ready s = true →
    okS a = true → mrTyValid s.me.mr = true → ty = mrType s.me.mr → n = mrWords s.me.mr → e = tySize ty →
    (∃ k : Fin 128, d = .v k ∧ (mr64 s.me.mr = true → k.val % 2 = 0)) ∨ (∃ k, d = .vx k) ∨ d = .zr ∨ d = .lid →
    inRange s.me [(d, n), (a, 2), (.v b, 2)] = true → s.me.opCount 3 < 255 → parts s.me ≠ [] → (s.crewRec s.me.crew).quire ≠ 0xFFFF → (s.crew s.me.crew).drafting = false →
    ctl = (sVal s.me a).toNat → ctl < 2 ^ 61 →
    ∀ ls : Bool → List (RemoteLane × Nat), (∀ get, ls get = (parts s.me).map (fun l =>
      ({ lane := l, va := wrapN 64 ((ctl % 2 ^ 52 : Nat) + sextN 32 (opVal s.me 2 (.v b) l / 2 ^ 32) * e),
         data := w64 (if get then 0 else opVal s.me n d l % 2 ^ (8 * e)), poison := false }, opVal s.me 2 (.v b) l % 2 ^ 32))) →
    (∀ x ∈ ls true, x.1.va % e = 0 ∧ x.1.va < winLo) →
    ∀ row ∈ [(Instr.putr d a (.v b), 0), (.getr d a (.v b), 1), (.rredAdd d a (.v b), 2), (.rredMax d a (.v b), 3)],
    (row.2 = 1 → bitN ctl 52 = false ∧ d ≠ .lid) → (2 ≤ row.2 → tyAtomAdd ty = true) →
    lanePeers s.settled s.cur (ls (row.2 == 1)) = .ok (s1, peers) →
    (∀ x ∈ peers, ∃ k, x.2 = some k ∧ s1.reach k = true) →
    ∃ t id ms, exec row.1 s = .next t ∧ t.me.pc = nextPc s.me.pc 1 ∧ t.me.status = .run ∧ t.me.v = s.me.v ∧ t.me.s = s.me.s ∧
      t.me.ops 3 = s.me.ops 3 ++ [(id, false)] ∧ t.fabric = s1.fabric ++ ms ∧ (∀ q, byteAt t q = byteAt s1 q) ∧
      (∀ x k, (∃ m ∈ ms, Sys2Proof.Claims.carries row.2 k (s.crew s.me.crew).ctx ty (if bitN ctl 52 then some (bitsN ctl 53 8) else none) x m) ↔
        (x, some k) ∈ peers) ∧
      (row.2 = 1 → d ≠ .zr → ∃ f ∈ t.me.flight, f.kind = .getr id ∧ ∀ r l, (∃ v, (r, l, v) ∈ f.writes) ↔
        ∃ k, writesLane s.me false k ∧ ∃ v, (r, l, v) ∈ grpWrites s.me n d 0 k 0)

/-- A lane at its destination (R409, R411): a PUTR's lane is written, a GETR's is read and answered, a RRED's is combined with the
location; each is acknowledged, and the counter that the packet names counts its bytes. A triggered send is written whole. What this chip
has sent to itself is taken in the order of its VC, and does not arrive before its turn (log 56, the model's reading of 02 R50). The lane waits
for no lower lane of its instruction that a fault holds. -/
def Obligations.RemoteAccessesArrive : Prop :=
  ∀ (s s0 s1 : State) (ctx src token size ty : Nat) (x : RemoteLane) (p : Place) (ctr : Option Nat), fabricUp s = true →
    (takeOwn s src (.putr s.chipId ctx token size [x] ctr) = some s0 → (∀ y ∈ (s.ctx ctx).remoteHeld, y.src ≠ src ∨ y.token ≠ token) → placeVa s0.tick.2 (fabricAgent ctx) .fabW x.va = (s1, .ok p) →
      Sys2Proof.Claims.To (.putrArrival ctx src token size [x] ctr) s (fun t => t.fabric = s1.fabric ++ [.writeAck src ctx token 1] ∧
        (∀ q, byteAt t q = byteAt (writePlace s1 ctx p (leBytes size x.data.toNat) x.poison) q) ∧
        ∀ k < 256, ctr = some k → (t.ctx ctx).counter k = ((s1.ctx ctx).counter k + size) % 2 ^ 64)) ∧
    (takeOwn s src (.getr s.chipId ctx token size [x]) = some s0 → placeVa s0.tick.2 (fabricAgent ctx) .fabR x.va = (s1, .ok p) →
      Sys2Proof.Claims.To (.getrRequestArrival ctx src token size [x]) s (fun t => t.fabric = s1.fabric ++
        [.getrReply src ctx token [{ x with data := w64 (ofLE (readPlace s1 p size).1), poison := (readPlace s1 p size).2 }]] ∧
        (∀ q, byteAt t q = byteAt s1 q))) ∧
    (∀ isMax m v, takeOwn s src (.rred s.chipId ctx token ty isMax [x] ctr) = some s0 → (∀ y ∈ (s.ctx ctx).remoteHeld, y.src ≠ src ∨ y.token ≠ token) →
      placeVa s0.tick.2 (fabricAgent ctx) .fabA x.va = (s1, .ok p) → tyAtomAdd ty = true → (readPlace s1 p (tySize ty)).2 = false →
      m = ofLE (readPlace s1 p (tySize ty)).1 → v = x.data.toNat % 2 ^ (8 * tySize ty) →
      Sys2Proof.Claims.To (.rredArrival ctx src token ty isMax [x] ctr) s (fun t => t.fabric = s1.fabric ++ [.writeAck src ctx token 1] ∧
        (∀ q, byteAt t q = byteAt (writePlace s1 ctx p (leBytes (tySize ty)
          (if isMax then selElem (tyOnly ty) true false m v else (addElem (tyOnly ty) 0 m v 0).val)) x.poison) q) ∧
        ∀ k < 256, ctr = some k → (t.ctx ctx).counter k = ((s1.ctx ctx).counter k + tySize ty) % 2 ^ 64)) ∧
    (∀ isMax va bytes, ∀ e ∈ [(Instr.putrArrival ctx src token size [x] ctr, FabMsg.putr s.chipId ctx token size [x] ctr),
        (.getrRequestArrival ctx src token size [x], .getr s.chipId ctx token size [x]),
        (.rredArrival ctx src token ty isMax [x] ctr, .rred s.chipId ctx token ty isMax [x] ctr),
        (.triggeredSendArrival ctx src token va bytes [] ctr, .send s.chipId ctx token va bytes [] ctr)],
      src = s.chipId → s.fabric.find? (fun y => y.chip == s.chipId && y.vc == e.2.vc) ≠ some e.2 → exec e.1 s = .next s) ∧
    (∀ va bytes, takeOwn s src (.send s.chipId ctx token va bytes [] ctr) = some s0 →
      writeVa s0 (fabricAgent ctx) .fabW va bytes = (s1, .ok ()) →
      Sys2Proof.Claims.To (.triggeredSendArrival ctx src token va bytes [] ctr) s (fun t =>
        t.fabric = s1.fabric ++ [.writeAck src ctx token 1] ∧ (∀ q, byteAt t q = byteAt s1 q) ∧
        ∀ k < 256, ctr = some k → (t.ctx ctx).counter k = ((s1.ctx ctx).counter k + bytes.length) % 2 ^ 64))

/-- Answers at the issuing chip (R410, R411), and triggered sends (R412, 07 R156): the last acknowledgement retires a command; a GETR's
answer goes to its registers; XSEND arms a send, which is due from when its counter has reached its threshold, be it at its arming or by a
later addition; it goes when no due send armed earlier on that counter waits, and stays until then. -/
def Obligations.RemoteCommandsComplete : Prop :=
  (∀ (s s0 : State) (ctx src token n : Nat) (f : FabCmd) (va : Nat), fabFind s ctx token = some f → fabricUp s = true →
    takeOwn s src (.writeAck s.chipId ctx token n) = some s0 →
    f.left = [(src, n, va)] → f.traps = [] → n ≠ 0 → (s.team f.team).flight = [] → f.kind ≠ 1 → f.kind ≠ 4 →
    Sys2Proof.Claims.To (.remoteWriteAck ctx src token n []) s (fun t => fabFind t ctx f.token = none ∧
      ((s.team f.team).ops 3 = [(f.id, false)] → (t.team f.team).ops 3 = []) ∧ ∀ q, byteAt t q = byteAt s q)) ∧
  (∀ (s s0 : State) (ctx src token : Nat) (f : FabCmd) (va : Nat) (x : RemoteLane) (g : InFlight) (r : Reg), fabFind s ctx token = some f →
    fabricUp s = true → takeOwn s src (.getrReply s.chipId ctx token [x]) = some s0 →
    f.left = [(src, 1, va)] → f.traps = [] → f.kind = 1 → f.got = [] → (s.team f.team).flight = [g] →
    g.kind = .getr f.token → g.poison = none → g.writes = [(r, x.lane, 0)] → x.poison = false → f.token = token →
    Sys2Proof.Claims.To (.getrResponse ctx src token [x] []) s (fun t => fabFind t ctx f.token = none ∧ (t.team f.team).flight = [] ∧
      ∃ w, (t.team f.team).pend = (s.team f.team).pend ++ [w] ∧ w.reg = r ∧ w.lane = x.lane ∧ w.val = (x.data &&& 0xFFFFFFFF) ∧ w.il = true)) ∧
  (∀ (s s1 s2 : State) (a b : Opnd) (r : List Byte) (n : Option Nat) (e : Binding) (va ctx : Nat), ready s = true → okS a = true → okS b = true →
    va = (sVal s.me a).toNat → va % 8 = 0 → s.me.opCount 3 < 255 → (s.crewRec s.me.crew).quire ≠ 0xFFFF → (s.crew s.me.crew).drafting = false →
    ctx = (s.crew s.me.crew).ctx → issueRead s.settled s.cur va 32 = .ok (s1, r) →
    issueBinding s1 s.cur (field r 16 4) = .ok (s2, n, some e) → (s2.ctx ctx).armed.length < 256 →
    Sys2Proof.Claims.Issues (.xsend (.v 0) a b) s s2 3 (fun t id => t.me.s = s.me.s ∧ (t.ctx ctx).armed = (s2.ctx ctx).armed ++
      [{ team := s.cur, src := field r 0 8, dstva := field r 8 8, chip := e.chip, bytes := field r 20 4, ctr := field r 24 1,
         dstCtr := field r 25 1, threshold := sVal s.me b, id := id,
         met := decide ((sVal s.me b).toNat ≤ (s2.ctx ctx).counter (field r 24 1)) }])) ∧
  (∀ (s : State) (ctx k n : Nat) (x : ArmedSend), x ∈ (s.ctx ctx).armed → x.ctr = k →
    x.threshold.toNat ≤ ((s.ctx ctx).counter k + n) % 2 ^ 64 → { x with met := true } ∈ ((ctrAdd s ctx k n).ctx ctx).armed) ∧
  (∀ (s s1 : State) (ctx i : Nat) (x : ArmedSend) (a : Agent) (bs : List Byte) (bad : Option Nat), (s.ctx ctx).armed[i]? = some x →
    x.met = true → x.wait = none → ctxRuns s ctx = true →
    (∀ y ∈ (s.ctx ctx).armed.take i, y.ctr ≠ x.ctr ∨ y.met = false) → s.reach x.chip = true →
    a = (if (s.team x.team).status == .free then fabricAgent ctx else engAgent s x.team 6) → readVa s a .engR x.src x.bytes = (s1, .ok (bs, bad)) →
    Sys2Proof.Claims.To (.triggeredSendFire ctx i) s (fun t => (t.ctx ctx).armed = (s1.ctx ctx).armed.eraseIdx i ∧
      ∃ poison, t.fabric = s1.fabric ++ [.send x.chip ctx x.id x.dstva bs poison (if x.dstCtr = 0xFF then none else some x.dstCtr)])) ∧
  (∀ (s : State) (ctx i : Nat) (x : ArmedSend), (s.ctx ctx).armed[i]? = some x →
    x.met = false ∨ (∃ y ∈ (s.ctx ctx).armed.take i, y.ctr = x.ctr ∧ y.met = true) → exec (.triggeredSendFire ctx i) s = .next s)

/-! ### Ductus (20 R405 to R407, 06 R113, R116 to R119, R124, R132 to R136) -/

/-- TBL.LD, DX.RUN, DX.QRY and DX.STAT (R405 to R407, R113, R116, R127, R132): a sound tableau fills its slot and an unsound one empties
it and traps; DX.RUN gives the lowest free handle, −1 when none is free and −2 where the record cannot be used; a query is answered with
its status; DX.STAT gives the accepted steps, the Newton iteration, the stage and the phase of an active run, 0 of another handle below
64 and −1 above. -/
def Obligations.TimeLoopInstructions : Prop :=
  ∀ (s s1 : State) (d a b : Opnd) (va w ctx : Nat) (r : List Byte), ready s = true → okS d = true → okS a = true → okS b = true →
    va = (sVal s.me a).toNat → w = (sVal s.me b).toNat → ctx = (s.crew s.me.crew).ctx → (s.crew s.me.crew).drafting = false →
    (∀ s2 h, va % 8 = 0 → issueRead s.settled s.cur va 8 = .ok (s2, h) → field h 0 1 ≤ 2 → 1 ≤ field h 1 1 → field h 1 1 ≤ 16 →
      field h 4 1 ≤ 8 → issueRead s2 s.cur va (tabLen (field h 0 1) (field h 1 1) (field h 4 1)) = .ok (s1, r) → w < 8 →
      (tabCheck r = none → Sys2Proof.Claims.To (.tblLd (.v 0) a b) s (fun t => t.me.pc = nextPc s.me.pc 1 ∧ t.me.status = .run ∧
        cget none (t.ctx ctx).tableaux w = some (tabOf r) ∧ ∀ k, k ≠ w → cget none (t.ctx ctx).tableaux k = cget none (s1.ctx ctx).tableaux k)) ∧
      (∀ why off, tabCheck r = some (why, off) → ∃ t z, exec (.tblLd (.v 0) a b) s = .next t ∧ cget none (z.ctx ctx).tableaux w = none ∧
        t = stopped z s.cur (trapAt 0x02 why off))) ∧
    (s.me.opCount 4 < 255 → w < 8 →
      (va % 64 ≠ 0 → Sys2Proof.Claims.To (.dxRun d a b) s (fun t => t.me.pc = nextPc s.me.pc 1 ∧ Sys2Proof.Claims.holdsS t.me d (2 ^ 64 - 2) ∧ t.runs = s.runs)) ∧
      (va % 64 = 0 → engRead s.settled (hubAgent ctx 5) s.me.crew va 192 = (s1, .ok (r, false)) → doneRecOk s1 ctx r = true →
        ((∀ h < 64, (s1.run (ctx * 64 + h)).active = true) → Sys2Proof.Claims.To (.dxRun d a b) s (fun t =>
          t.me.pc = nextPc s.me.pc 1 ∧ Sys2Proof.Claims.holdsS t.me d (2 ^ 64 - 1) ∧ t.runs = s1.runs)) ∧
        (∀ h < 64, (s1.run (ctx * 64 + h)).active = false → (∀ k < h, (s1.run (ctx * 64 + k)).active = true) →
          Sys2Proof.Claims.To (.dxRun d a b) s (fun t => t.me.pc = nextPc s.me.pc 1 ∧ Sys2Proof.Claims.holdsS t.me d h ∧
            (t.run (ctx * 64 + h)).active = true ∧ (t.run (ctx * 64 + h)).irec = r ∧ (t.run (ctx * 64 + h)).t = field r 24 8 ∧
            ((t.run (ctx * 64 + h)).todo = .form ∨ (t.run (ctx * 64 + h)).todo = .begin ∨
              (t.run (ctx * 64 + h)).todo = .finish ∧ ((t.run (ctx * 64 + h)).status = 6 ∨ (t.run (ctx * 64 + h)).status = 7)))))) ∧
    (∀ s2 st, s.me.opCount 4 < 255 → w % 8 = 0 → issueRead s.settled s.cur w 32 = .ok (s1, r) → st = queryStatus s1 ctx va (field r 0 8) →
      st ≠ 0 → (∀ o, o = s1.tick.2.updTeam s.cur (fun t => { t with opc := cset [] t.opc 4 (t.ops 4 ++ [(s1.order, false)]) }) →
        writeVa o (engAgent o s.cur 5) .engW (w + 16) (leBytes 4 st) = (s2, .ok ())) →
      Sys2Proof.Claims.To (.dxQry (.v 0) a b) s (fun t => t.me.pc = nextPc s.me.pc 1 ∧ t.me.status = .run ∧ (∀ q, byteAt t q = byteAt s2 q))) ∧
    (∀ x v, x = s.run (ctx * 64 + va) → v = (if 63 < va then 2 ^ 64 - 1 else if x.active then
        x.accepted % 2 ^ 32 * 2 ^ 32 + x.newton % 256 * 2 ^ 16 + x.stage % 256 * 2 ^ 8 + x.phase else 0) →
      ∃ c, RunsTo (.dxStat d a (.v 0)) s { s.me.stepped with pend := (sWrite s.me d (w64 v) c).map (fun x => { x with il := true }) })

/-- The sequencer's steps (R117 to R119, R124, R133 to R138), each when it is the run's turn: the run ends with 0 at t1, goes on when its
crews have ended, or ends with the trap that killed one; its completion writes the record and frees the handle. Members that differ, are
silent or do not start end it; a member's start that comes early is held, and so is a pause announced early; a member that has announced one is
awaited without limit. Crews have ended once their remote ENQs are acknowledged too (05 R109). -/
def Obligations.TimeLoopEvents : Prop :=
  (∀ (s : State) (ctx h role : Nat), h < 64 → ctx < 16 → fabricUp s = true → (s.run (ctx * 64 + h)).active = false →
    Sys2Proof.Claims.To (.quiresyncArrival ctx h role .paused) s (fun t => (t.ctx ctx).dxPauses.contains (h, role) = true ∧ t.runs = s.runs)) ∧
  ∀ (s : State) (ctx h : Nat) (r : DxRun), h < 64 → r = s.run (ctx * 64 + h) → r.active = true →
    (ctxRuns s ctx = true → dxTurn s ctx = some h → r.todo = .form → r.pt = .next → r.took = true → le64 (r.f 32 8) r.t = true → r.evLoc = [] →
      Sys2Proof.Claims.To (.dxStageForm ctx h) s (fun t => (t.run (ctx * 64 + h)).todo = .finish ∧ (t.run (ctx * 64 + h)).status = 0 ∧
        (t.run (ctx * 64 + h)).t = r.t ∧ ∀ q, byteAt t q = byteAt s q)) ∧
    (ctxRuns s ctx = true → dxTurn s ctx = some h → r.todo = .form → r.pt = .next → r.took = false → r.failed = false → lt64 r.hNew (r.f 48 8) = true →
      Sys2Proof.Claims.To (.dxStageForm ctx h) s (fun t => (t.run (ctx * 64 + h)).todo = .finish ∧ (t.run (ctx * 64 + h)).status = 3)) ∧
    (∀ id, ctxRuns s ctx = true → dxTurn s ctx = some h → r.todo = .crews → r.evalLaunch = some id → (s.launch id).liveCrews = 0 → launchAcked s id = true →
      ∀ e ∈ [(Instr.dxEvalComplete ctx h, 0), (.dxJacobianComplete ctx h, 1), (.dxEventEvalComplete ctx h, 2)], r.evKind = e.2 →
      ((s.launch id).status ≠ 0 → Sys2Proof.Claims.To e.1 s (fun t => (t.run (ctx * 64 + h)).todo = .finish ∧
        (t.run (ctx * 64 + h)).status = 5 ∧ (t.run (ctx * 64 + h)).trap = (s.launch id).info % 256)) ∧
      ((s.launch id).status = 0 → exec e.1 s = .next (dxWork ((closeLaunch (s.updCtx ctx (fun c => { c with dxTurn := h })) id).setRun (ctx * 64 + h)
        { r with evalLaunch := none, todo := .form }) (ctx * 64 + h)))) ∧
    (∀ s1 s2 d, ctxRuns s ctx = true → r.todo = .finish → r.evalLaunch = none → r.f 184 4 = 0xFFFFFFFF → d = r.f 120 8 →
      s1 = hubWrite (beforeRecord s ctx d) ctx (d + 8) (dxRecord r) →
      s2 = (if kindOfVa s1 ctx d = some 2 then landCtx (s1.flush ctx) ctx else s1) →
      Sys2Proof.Claims.To (.dxRunComplete ctx h) s (fun t => (t.run (ctx * 64 + h)).active = false ∧
        (∀ k, t.devByte k = (decrementAt s2 ctx d).devByte k) ∧ ∀ k, k ≠ ctx * 64 + h → t.run k = s.run k)) ∧
    (∀ role n digest, ctx < 16 → fabricUp s = true →
      (r.todo = .begin → role < r.chips.length → r.peers.any (·.1 == role) = false →
        Sys2Proof.Claims.To (.dxStartExchange ctx h role n digest) s (fun t => ∀ x, x = t.run (ctx * 64 + h) →
          (digest ≠ dxDigest r → x.todo = .finish ∧ x.status = 7 ∧ x.hNew = 0) ∧
          ((∀ p ∈ r.peers, p.2.2 = dxDigest r) → digest = dxDigest r → x.peers = r.peers ++ [(role, n, digest)] ∧
            x.todo = if r.peers.length + 1 = r.chips.length then .form else .begin))) ∧
      (r.todo ≠ .begin → (s.ctx ctx).dxStarts.any (fun e => e.1 == h && e.2.1 == role) = false →
        Sys2Proof.Claims.To (.dxStartExchange ctx h role n digest) s (fun t =>
          (t.ctx ctx).dxStarts = (s.ctx ctx).dxStarts ++ [(h, role, n, digest)] ∧ t.runs = s.runs))) ∧
    (∀ role vals, ctx < 16 → fabricUp s = true → role < r.chips.length → role ≠ r.role →
      (r.role < r.chips.length → r.todo ≠ .form → r.syncVals.any (·.1 == r.role) = false →
        Sys2Proof.Claims.To (.quiresyncArrival ctx h role (.arrived vals)) s (fun t =>
          (t.run (ctx * 64 + h)).syncVals = r.syncVals ++ [(role, vals.map (·.toNat))] ∧ (t.run (ctx * 64 + h)).todo = r.todo ∧
          (t.ctx ctx).peersPaused.contains (r.f 188 2, role) = false)) ∧
      Sys2Proof.Claims.To (.quiresyncArrival ctx h role .paused) s (fun t =>
        (t.ctx ctx).peersPaused.contains (r.f 188 2, role) = true ∧ t.runs = s.runs)) ∧
    (r.todo = .begin → Sys2Proof.Claims.To (.dxMemberStartTimeout ctx h) s (fun t =>
      (t.run (ctx * 64 + h)).todo = .finish ∧ (t.run (ctx * 64 + h)).status = 6 ∧ t.mem = s.mem)) ∧
    (∀ role, r.todo = .sync → role < r.chips.length → r.syncVals.any (·.1 == role) = false →
      ((s.ctx ctx).peersPaused.contains (r.f 188 2, role) = false → Sys2Proof.Claims.To (.dxPeerSilentTimeout ctx h role) s (fun t =>
        (t.run (ctx * 64 + h)).todo = .finish ∧ (t.run (ctx * 64 + h)).status = 6 ∧ t.mem = s.mem)) ∧
      ((s.ctx ctx).peersPaused.contains (r.f 188 2, role) = true → exec (.dxPeerSilentTimeout ctx h role) s = .next s))

/-! ### Collectives (20 R414, 07 R139 to R157) -/

/-- CAV, REPART and COLL.ST (R414, R140, R145), and the events of an instance (R141 to R144, R148, R152, R154, R157): a member opens
with the lowest free handle and announces itself; members that differ end with 1, one that fails with 5 and the others with 3; a member
that has not opened ends the others, unless it has announced a pause; the histograms go out, the records received are written, and
completion writes the block and frees the handle. Data that comes early lands in its quire's area, where there is room. -/
def Obligations.CollectivesOpenAndComplete : Prop :=
  (∀ (s s1 : State) (d a : Opnd) (va : Nat) (r : List Byte) (cr : Crew), ready s = true → okS d = true → okS a = true → va = (sVal s.me a).toNat →
    s.me.opCount 3 < 255 → cr = s.crew s.me.crew → cr.drafting = false →
    (∀ x v, x = s.coll (cr.ctx * 64 + va) → v = (if 63 < va then 2 ^ 64 - 1 else if x.active then
        x.chunks % 2 ^ 32 * 2 ^ 32 + x.tag * 2 ^ 16 + x.kind * 2 ^ 8 + (if x.wait.isSome then 6 else x.phase) else 0) →
      ∃ c, RunsTo (.collSt d a (.v 0)) s { s.me.stepped with pend := (sWrite s.me d (w64 v) c).map (fun x => { x with il := true }) }) ∧
    ∀ e ∈ [(Instr.cav d a (.v 0), 1, 64), (.repart d a (.v 0), 2, 96)],
      (cr.role = 0xFFFFFFFF → Sys2Proof.Claims.To e.1 s (fun t => t.me.pc = nextPc s.me.pc 1 ∧ Sys2Proof.Claims.holdsS t.me d (2 ^ 64 - 3) ∧ t.colls = s.colls)) ∧
      (cr.role ≠ 0xFFFFFFFF → va % 64 ≠ 0 → Sys2Proof.Claims.To e.1 s (fun t => t.me.pc = nextPc s.me.pc 1 ∧
        Sys2Proof.Claims.holdsS t.me d (2 ^ 64 - 2) ∧ t.colls = s.colls)) ∧
      (cr.role ≠ 0xFFFFFFFF → va % 64 = 0 → engRead s.settled (hubAgent cr.ctx 6) s.me.crew va e.2.2 = (s1, .ok (r, false)) →
        ∀ c : Coll, c =
          { active := true, kind := e.2.1, ctx := cr.ctx, quire := (s.crewRec s.me.crew).quire, role := cr.role, desc := r, team := s.cur,
            crewNo := cr.ix, teamNo := s.me.id, tag := if e.2.1 = 1 then field r 42 2 else field r 30 2 } →
        (placeVa s1 { hubAgent cr.ctx 6 with spec := true } .engW c.done).2.toOption.isSome = true → c.done % 16 = 0 →
        ((∀ h < 64, (s1.coll (cr.ctx * 64 + h)).active = true) → Sys2Proof.Claims.To e.1 s (fun t =>
          t.me.pc = nextPc s.me.pc 1 ∧ Sys2Proof.Claims.holdsS t.me d (2 ^ 64 - 1) ∧ t.colls = s1.colls)) ∧
        (∀ h < 64, (s1.coll (cr.ctx * 64 + h)).active = false → (∀ k < h, (s1.coll (cr.ctx * 64 + k)).active = true) →
          Sys2Proof.Claims.To e.1 s (fun t => t.me.pc = nextPc s.me.pc 1 ∧ t.me.status = .run ∧ Sys2Proof.Claims.holdsS t.me d h ∧
            (∃ id, t.me.ops 3 = s.me.ops 3 ++ [(id, false)]) ∧ (t.coll (cr.ctx * 64 + h)).active = true ∧
            (t.coll (cr.ctx * 64 + h)).desc = r ∧ (t.coll (cr.ctx * 64 + h)).kind = e.2.1)))) ∧
  (∀ (s : State) (ctx h : Nat) (c : Coll), h < 64 → c = s.coll (ctx * 64 + h) → c.active = true →
    (c.cav = false → c.phase = 3 → c.wait = none → c.gathered = true → ctxRuns s ctx = true →
      Sys2Proof.Claims.To (.repartHistogramPass ctx h) s (fun t => (t.coll (ctx * 64 + h)).phase = 4 ∧
        t.fabric = s.fabric ++ (collChips s c).map (fun k => .hist k c.ctx c.quire c.tag c.role 1 (c.buckets 1)))) ∧
    (∀ n s1, c.cav = false → c.phase = 5 → c.wait = none → ctxRuns s ctx = true → n = c.per * c.esz →
      writeVa s (hubAgent c.ctx 6) .engW (c.f 8 8 + c.chunks * n) ((c.owned.drop (c.chunks * n)).take n) = (s1, .ok ()) →
      c.owned.length ≤ c.chunks * n + ((c.owned.drop (c.chunks * n)).take n).length →
      Sys2Proof.Claims.To (.repartRecordChunk ctx h) s (fun t => (t.coll (ctx * 64 + h)).phase = 7 ∧ (t.coll (ctx * 64 + h)).status = 0 ∧
        (t.coll (ctx * 64 + h)).info = c.owned.length / max 1 c.esz ∧ ∀ q, byteAt t q = byteAt s1 q)) ∧
    (∀ role first bytes, c.cav = false → c.second = false → c.phase = 3 → c.wait = none → ctxRuns s ctx = true → role ≠ c.role →
      role < c.chips.length → c.chips.getD role none ≠ some s.chipId → c.bytesOf role = [] → first = 0 → bytes ≠ [] →
      (∃ x, c.anns.find? (·.1 == role) = some (role, x) ∧ x.contributes = true ∧ bytes.length = min (c.per * c.esz) (x.count * c.esz)) →
      Sys2Proof.Claims.To (.collChunkReceive ctx h role first bytes) s (fun t => (t.coll (ctx * 64 + h)).bytesOf role = bytes ∧
        ∀ q, byteAt t q = byteAt s q)) ∧
    (∀ role x, fabricUp s = true → role < c.chips.length → c.chips.getD role none ≠ some s.chipId →
      (x.paused = true → Sys2Proof.Claims.To (.collAnnounceReceive ctx h role x) s (fun t => t.colls = s.colls ∧
        (t.ctx ctx).peersPaused.contains (c.quire, role) = true)) ∧
      (x.paused = false → c.second = false → c.phase ≠ 7 → c.anns.any (·.1 == role) = false →
        Sys2Proof.Claims.To (.collAnnounceReceive ctx h role x) s (fun t => ∀ y, y = t.coll (ctx * 64 + h) →
          (x.ok = false → role ≠ c.role → y.phase = 7 ∧ y.status = 3) ∧
          (x.ok = true → (∃ z ∈ c.anns, z.2.ok = true ∧ (z.2.kind ≠ x.kind ∨ z.2.shape ≠ x.shape)) → y.phase = 7 ∧ y.status = 1) ∧
          (x.ok = true → (∀ z ∈ c.anns, z.2.ok = true → z.2.kind = x.kind ∧ z.2.shape = x.shape) → y.anns = c.anns ++ [(role, x)] ∧
            y.phase = if c.anns.length + 1 = c.chips.length then (if c.cav then 2 else 3) else c.phase)))) ∧
    (c.phase = 1 → c.second = false → ctxRuns s ctx = true →
      ((∃ r < c.chips.length, c.anns.any (·.1 == r) = false ∧ (s.ctx ctx).peersPaused.contains (c.quire, r) = false) →
        Sys2Proof.Claims.To (.collOpenTimeout ctx h) s (fun t => (t.coll (ctx * 64 + h)).phase = 7 ∧
          (t.coll (ctx * 64 + h)).status = 3 ∧ t.mem = s.mem)) ∧
      ((∀ r < c.chips.length, c.anns.any (·.1 == r) = true ∨ (s.ctx ctx).peersPaused.contains (c.quire, r) = true) →
        exec (.collOpenTimeout ctx h) s = .next s)) ∧
    (∀ s1 s2, c.phase = 7 → ctxRuns s ctx = true → c.undef = false → c.second = true ∨ c.status ≠ 0 ∨ c.clash = [] → c.ctrFlag = false →
      s1 = hubWrite (beforeRecord s ctx c.done) ctx (c.done + 8) (leBytes 4 (c.status + (if c.status = 0 then c.flags else 0)) ++ leBytes 4 c.info) →
      s2 = (if kindOfVa s1 ctx c.done = some 2 then landCtx (s1.flush ctx) ctx else s1) →
      Sys2Proof.Claims.To (.collMemberComplete ctx h) s (fun t => t.coll (ctx * 64 + h) = {} ∧
        (∀ k, t.devByte k = (decrementAt s2 ctx c.done).devByte k) ∧
        ((s.team c.team).ops 3 = [(c.id, false)] → (t.team c.team).ops 3 = [])))) ∧
  (∀ (s : State) (ctx quire tag role first area : Nat) (bytes : List Byte), fabricUp s = true → elaArea (s.ctx ctx) quire = some area →
    s.colls.any (fun e => e.2.active && e.2.ctx == ctx && e.2.quire == quire && e.2.tag == tag) = false →
    elaUsed (s.ctx ctx) quire + bytes.length ≤ 262144 →
    Sys2Proof.Claims.To (.earlyLandingArrival ctx quire tag role first bytes) s (fun t => (t.ctx ctx).early = (s.ctx ctx).early ++
      [{ quire := quire, tag := tag, role := role, first := first, bytes := bytes }]))

/-! ### The fault ring (10 R202 to R206) -/

/-- FR.REPLAY retries what waits on records up to its number, once all of an access's records are covered; FR.DENY traps the access that waits on one, with its address and number;
FR.CTL, FR.TAIL and FR.STATUS take their writes; a fault's record takes the next number and goes to the ring's head, to its home or, of a ring in
host memory, as the hub die's write to it (02 R39), or is held while the ring has no room, and is written once it has. -/
def Obligations.FaultRing : Prop :=
  (∀ (s : State) (fn : Nat) (v : W64), hostFn s fn = true → (s.ctx fn).queries = [] → (s.ctx fn).remoteHeld = [] →
    Sys2Proof.Claims.To (.frReplay fn v) s (fun t => t.mem = s.mem ∧ ∀ ti recs, (s.team ti).status = .susp recs →
      ((s.crew (s.team ti).crew).ctx = fn → (s.crew (s.team ti).crew).status ≠ .none →
        ((∀ r ∈ recs, r.seq ≤ v.toNat ∨ r.covered = true) → (t.team ti).status = .run ∧ (t.team ti).replayed = true ∧ (t.team ti).pc = (s.team ti).pc ∧
          (t.team ti).doneLanes = (s.team ti).doneLanes) ∧
        ((∃ r ∈ recs, v.toNat < r.seq ∧ r.covered = false) → (t.team ti).status = .susp (recs.map (fun r =>
          if r.seq ≤ v.toNat then { r with covered := true } else r)))) ∧
      ((s.crew (s.team ti).crew).ctx ≠ fn → t.team ti = s.team ti))) ∧
  (∀ (s : State) (fn : Nat) (v : W64), hostFn s fn = true → exec (.frReplay fn v) s = .next (frReplay s fn v.toNat) ∧
    exec (.frDeny fn v) s = .next (frDeny s fn v.toNat)) ∧
  (∀ (s : State) (ti q : Nat) (recs : List FaultRef) (r : FaultRef), (s.team ti).status = .susp recs → recs.find? (·.seq == q) = some r →
    (s.team ti).inHandler = false → (s.team ti).handler ≠ 0 → (s.team ti).handler.toNat % 32 ≠ 0 →
    ∀ m, m = (denyTeam s ti q).team ti → m.trapCode = (if r.cause = 1 then 0x0D else 0x0C) ∧ m.trapInfo0 = w64 r.va ∧ m.trapInfo1 = w64 q ∧
      m.trapLane = w64 r.lane ∧ m.trapPc = (s.team ti).pc ∧ m.pc = (s.team ti).handler ∧ m.status = .run) ∧
  (∀ (s : State) (fn : Nat) (v : W64), hostFn s fn = true →
    (6 ≤ bitsN v.toNat 1 5 → bitsN v.toNat 1 5 ≤ 16 → Sys2Proof.Claims.To (.frCtlWrite fn v) s (fun t =>
      t.ctx fn = { s.ctx fn with frCtl := v &&& 0x3F3F } ∧ t.teams = s.teams ∧ t.mem = s.mem)) ∧
    (bitsN v.toNat 1 5 < 6 ∨ 16 < bitsN v.toNat 1 5 → exec (.frCtlWrite fn v) s = .next s) ∧
    Sys2Proof.Claims.To (.frTailWrite fn v) s (fun t => (t.ctx fn).frTail = v.toNat % 2 ^ 32 ∧ (t.ctx fn).frSince = true ∧
      ((s.ctx fn).frFull = false → (t.ctx fn).frFull = false) ∧ t.teams = s.teams ∧ t.mem = s.mem) ∧
    (v.getLsbD 1 = true → Sys2Proof.Claims.To (.frStatusPoolClear fn v) s (fun t => t.ctx fn = { s.ctx fn with frPool := false } ∧ t.mem = s.mem))) ∧
  (∀ (s : State) (ctx : Nat) (r : FaultRec) (rest : List FaultRec), (s.ctx ctx).frHeld = r :: rest → s.freezing = 0 → s.tripped = false →
    frRoom (s.ctx ctx) = true → (∀ i < 32, s.present (frKey (s.ctx ctx) + 32 * ((s.ctx ctx).frHead % frEntries (s.ctx ctx)) + i) = true) →
    Sys2Proof.Claims.To (.faultRecordHeldWrite ctx) s (fun t => (t.ctx ctx).frHeld = rest ∧
      (t.ctx ctx).frHead = ((s.ctx ctx).frHead + 1) % 2 ^ 32 ∧
      ∀ cell : (State → Nat → Byte), (keyKind (frKey (s.ctx ctx) + 32 * ((s.ctx ctx).frHead % frEntries (s.ctx ctx))) ≠ 2 ∧ cell = State.homeByte ∨
          keyKind (frKey (s.ctx ctx) + 32 * ((s.ctx ctx).frHead % frEntries (s.ctx ctx))) = 2 ∧ cell = State.devByte ∧ (s.link 0 = true ∨ s.link 1 = true)) →
        ∀ k, cell t k = match (List.range 32).find? (fun i => frKey (s.ctx ctx) + 32 * ((s.ctx ctx).frHead % frEntries (s.ctx ctx)) + i == k) with
          | some i => (frBytes ctx r).getD i 0
          | none => cell s k)) ∧
  (∀ (s : State) (ctx : Nat) (r : FaultRec), (faultRecord s ctx r).1 = (s.ctx ctx).frSeq + 1 ∧
    ((faultRecord s ctx r).2.ctx ctx).frSeq = (s.ctx ctx).frSeq + 1 ∧
    (frRoom (s.ctx ctx) = false → ((faultRecord s ctx r).2.ctx ctx).frHeld = (s.ctx ctx).frHeld ++ [{ r with seq := (s.ctx ctx).frSeq + 1 }] ∧
      (faultRecord s ctx r).2.mem = s.mem))

/-! ### Scriptor (03 R59 to R72) -/

/-- Doorbells and threads (R60 to R65, R72): a doorbell of a started context makes an idle queue runnable, and one of a context that has not
started is held; the first waiter gets a free thread, or that of the lowest priority mapped when none is free; a queue that has read
everything, or whose turn is over, gives its thread up, unless it is in an invocation of a prologue; an idle or faulted queue is released; a
faulted one is resumed. -/
def Obligations.QueuesGetThreads : Prop :=
  (∀ (s : State) (fn ep q : Nat) (v : W64), hostFn s fn = true → ep < 2 → q < 512 → s.link ep = true →
    (bellOpen (s.ctx fn) ep = false → Sys2Proof.Claims.To (.doorbellWrite fn ep q v) s (fun t =>
      t.ctx fn = { s.ctx fn with heldBells := (s.ctx fn).heldBells ++ [(ep, q, v)] } ∧ t.mem = s.mem ∧ t.queues = s.queues)) ∧
    (∀ s1 d, bellOpen (s.ctx fn) ep = true → v.toNat < 2 ^ 32 → q < (s.ctx fn).qtblCount.toNat → qDesc s fn q = (s1, some d) → bitN d.ctl 0 = true →
      8 ≤ d.lsize → d.lsize ≤ 24 → (d.wptr + 2 ^ 32 - d.rptr) % 2 ^ 32 < (v.toNat + 2 ^ 32 - d.rptr) % 2 ^ 32 →
      (v.toNat + 2 ^ 32 - d.rptr) % 2 ^ 32 ≤ 2 ^ d.lsize →
      ((s.queue (queueKey fn q)).live = true ∧ (s.queue (queueKey fn q)).st = 0 ∨
        (s.queue (queueKey fn q)).live = false ∧ d.status ≠ 4 ∧ queueCount s < 4096) →
      Sys2Proof.Claims.To (.doorbellWrite fn ep q v) s (fun t => (t.queue (queueKey fn q)).st = 1 ∧ (t.queue (queueKey fn q)).prio = d.prio ∧
        (t.queue (queueKey fn q)).live = true ∧ ∃ s2, t = qPut s2 fn q 24 (leBytes 1 1) ∧ s2.mem = (qPut s1 fn q 20 (leBytes 4 v.toNat)).mem)) ∧
    ((s.queue (queueKey fn q)).live = true → (s.queue (queueKey fn q)).st = 0 ∨ (s.queue (queueKey fn q)).st = 4 →
      Sys2Proof.Claims.To (.hqQrelease fn q) s (fun t => (t.queue (queueKey fn q)).live = false ∧ t.mem = s.mem ∧
        ∀ k, k ≠ queueKey fn q → t.queue k = s.queue k)) ∧
    (∀ s1 d, q < (s.ctx fn).qtblCount.toNat → qDesc s fn q = (s1, some d) → (s.queue (queueKey fn q)).live = true → (s.queue (queueKey fn q)).st = 4 →
      8 ≤ d.lsize → d.lsize ≤ 24 → Sys2Proof.Claims.To (.hqQresume fn q) s (fun t => (t.queue (queueKey fn q)).st = 1 ∧
        (t.queue (queueKey fn q)).prio = d.prio))) ∧
  (∀ (s s1 : State) (ctx q th : Nat) (d : QDesc) (w : Nat × Queue), freeThread s = some th → firstWaiter s = some w → w.1 = queueKey ctx q → q < 512 →
    qDesc s ctx q = (s1, some d) → Sys2Proof.Claims.To (.queueMap ctx q) s (fun t => cget none t.threads th = some (queueKey ctx q) ∧
      (t.queue (queueKey ctx q)).thread = some th ∧ (t.queue (queueKey ctx q)).st = 2 ∧
      (∀ k, k ≠ th → cget none t.threads k = cget none s.threads k))) ∧
  (∀ (s : State) (ctx q th : Nat) (k : Queue), k = s.queue (queueKey ctx q) → deviceOn s = true → q < 512 → k.thread = some th →
    (∀ s1 d, k.calls = [] → qDesc s ctx q = (s1, some d) → d.rptr = d.wptr → Sys2Proof.Claims.To (.queueIdleUnmap ctx q) s (fun t =>
      (t.queue (queueKey ctx q)).st = 0 ∧ (t.queue (queueKey ctx q)).thread = none ∧ cget none t.threads th = none)) ∧
    (freeThread s = none → k.used = none → (∃ w ∈ waiters s, w.2.prio = k.prio) → (∀ e ∈ mappedQueues s, e.2.prio ≤ k.prio) →
      Sys2Proof.Claims.To (.queueFairnessUnmap ctx q) s (fun t => (t.queue (queueKey ctx q)).st = 1 ∧
        (t.queue (queueKey ctx q)).thread = none ∧ cget none t.threads th = none)) ∧
    (∀ w s1 d, freeThread s = none → k.used = none → firstWaiter s = some w → w.2.prio < k.prio → w.1 ≠ queueKey ctx q →
      (∀ e ∈ mappedQueues s, e.2.prio < k.prio ∨ e.2.prio = k.prio ∧ k.since ≤ e.2.since) →
      qDesc (qUnmap s ctx q 1) (w.1 / 512) (w.1 % 512) = (s1, some d) → Sys2Proof.Claims.To (.queuePriorityUnmap ctx q) s (fun t =>
        (t.queue (queueKey ctx q)).st = 1 ∧ (t.queue (queueKey ctx q)).thread = none ∧ cget none t.threads th = some w.1 ∧
        (t.queue w.1).thread = some th ∧ (t.queue w.1).st = 2)))

/-- Where a prologue stands before its next instructions: in the middle of invocation n, or at its start, with a0 the record's VA, a1 the invocation, a2
the queue, sp the top of the thread's stack and ra its return (R70). -/
def Sys2Proof.Claims.Stands (p : Pkt) (th n : Nat) (x : RvState) : Prop :=
  (∃ c, (p.queue p.s).used = some c ∧ x = { s := p.s, pc := (cget 0 p.s.threadPc th).toNat, cycles := c, before := c }) ∨
  ((p.queue p.s).used = none ∧ x = { s := threadRegs p.s th [(10, w64 (p.w 1)), (11, w64 n), (12, w64 p.q),
    (2, w64 (scriptorBase + stackBase th + 4096)), (1, w64 (prologueReturn th))], pc := p.w 0 })

/-- Packets (R64, R67 to R70): each acts where its header, its dwords and its flags are right and earlier work does not hold it, and the
queue then goes on behind it, at the loop's start, in the called buffer or behind a forward scan's match; a WAITMEM or an IF compares a
word of memory, and everyone sees what satisfied it; SIGNAL writes or adds; units of work join the queue's list; a reserved opcode faults the queue.
A LAUNCH.IND runs its routine's instructions, some at a time, within 65,536 cycles for an invocation (R70). The model's choices: a COPY goes in parts,
and an overlap is free bytes at once (logs 27, 28); how the routine's instructions run (log 73); an INVAL performs what is pending (log 101); a packet
takes a free number of its thread's cycles (log 126). -/
def Obligations.PacketsActInOrder : Prop :=
  (∀ (p : Pkt) (s : State) (pos : Nat) (k : Queue), k = (pktTo p s pos).queue (queueKey p.ctx p.q) →
    k.st = 2 ∧ k.prol = none ∧ k.used = none ∧ k.blocked = false ∧ k.loops = (p.queue s).loops ∧ k.calls = (p.queue s).calls ∧ k.conds = (p.queue s).conds ∧
    k.work = (p.queue s).work ∧ ((p.queue s).calls ≠ [] → k.fetch = pos)) ∧
  (∀ (s : State) (th : Nat) (p : Pkt) (k : Queue), k = p.queue p.s →
    (pktBegin s th 0x00 = .ok p → exec (.pktNop th) s = .next (threadSpends (pktTo p p.s p.next) th)) ∧
    (pktBegin s th 0x06 = .ok p → ∀ n, n = field p.body 0 4 →
      (n ≠ 0 → k.loops.length < 4 → exec (.pktLoop th) s = .next (threadSpends (pktTo p (p.upd p.s (fun k => { k with loops := (n, p.next) :: k.loops })) p.next) th)) ∧
      (∀ s1 pos op, n = 0 → pktScan p p.s 0x06 0x07 none = (s1, .found pos op) → exec (.pktLoop th) s = .next (threadSpends (pktTo p s1 pos) th))) ∧
    (pktBegin s th 0x07 = .ok p → ∀ n pos r, k.loops = (n, pos) :: r →
      (1 < n → exec (.pktEndloop th) s = .next (threadSpends (pktTo p (p.upd p.s (fun k => { k with loops := (n - 1, pos) :: r })) pos) th)) ∧
      (n ≤ 1 → exec (.pktEndloop th) s = .next (threadSpends (pktTo p (p.upd p.s (fun k => { k with loops := r })) p.next) th))) ∧
    (pktBegin s th 0x08 = .ok p → k.conds.length < 8 → k.scanIf = false → ∀ s1 line,
      (pktCond p p.s = (s1, .ok (true, line)) → exec (.pktIf th) s = .next (threadSpends (pktTo p (p.upd s1 (fun k => { k with conds := true :: k.conds })) p.next) th)) ∧
      (∀ s2 pos, pktCond p p.s = (s1, .ok (false, line)) → pktScan p s1 0x08 0x0A (some 0x09) = (s2, .found pos 0x0A) →
        exec (.pktIf th) s = .next (threadSpends (pktTo p s2 pos) th)) ∧
      (∀ s2 pos, pktCond p p.s = (s1, .ok (false, line)) → pktScan p s1 0x08 0x0A (some 0x09) = (s2, .found pos 0x09) →
        exec (.pktIf th) s = .next (threadSpends (pktTo p (p.upd s2 (fun k => { k with conds := false :: k.conds })) pos) th))) ∧
    (pktBegin s th 0x09 = .ok p → ∀ r s1 pos op, k.conds = true :: r → pktScan p p.s 0x08 0x0A none = (s1, .found pos op) →
      exec (.pktElse th) s = .next (threadSpends (pktTo p (p.upd s1 (fun k => { k with conds := r })) pos) th)) ∧
    (pktBegin s th 0x0A = .ok p → ∀ c r, k.conds = c :: r → exec (.pktEndif th) s = .next (threadSpends (pktTo p (p.upd p.s (fun k => { k with conds := r })) p.next) th)) ∧
    (pktBegin s th 0x0B = .ok p → k.calls.length < 4 → Sys2Proof.Claims.To (.pktCall th) s (fun t =>
      (p.queue t).calls = p.next :: k.calls ∧ (p.queue t).fetch = p.w 0 ∧ (p.queue t).st = 2)) ∧
    (pktBegin s th 0x0C = .ok p → ∀ a r, k.calls = a :: r → exec (.pktReturn th) s = .next (threadSpends (pktTo p (p.upd p.s (fun k => { k with calls := r, fetch := 0 })) a) th)) ∧
    (pktBegin s th 0x0D = .ok p → p.ring = false → exec (.pktJump th) s = .next (threadSpends (pktTo p p.s (p.w 0)) th)) ∧
    (pktBegin s th 0x0D = .ok p → p.ring = true → exec (.pktJump th) s = .next (threadSpends (qFault p.s p.ctx p.q 0x05) th)) ∧
    (∀ op, pktHeader s th false = .ok (p, op) → op = 3 ∨ 0x14 ≤ op → exec (.pktReservedOpcode th) s = .next (qFault p.s p.ctx p.q 0x01)) ∧
    (pktBegin s th 0x04 = .ok p → ∀ s1 line,
      (∀ s2 pl, pktCond p p.s = (s1, .ok (true, line)) → placeVa s1 (hubAgent p.ctx 5) .engR (p.w 0) = (s2, .ok pl) → exec (.pktWaitmem th) s =
        .next (threadSpends (pktTo p (s2.unhide pl (if bitN p.flags 2 then 8 else 4)) p.next) th)) ∧
      (pktCond p p.s = (s1, .ok (false, line)) → Sys2Proof.Claims.To (.pktWaitmem th) s (fun t =>
        (p.queue t).blocked = true ∧ (p.queue t).watch = line ∧ (p.queue t).st = 3))) ∧
    (pktBegin s th 0x04 true = .ok p → (threadQueue s th).blocked = true → ∀ s1 s2 pl line, pktCond p p.s = (s1, .ok (true, line)) →
      placeVa s1 (hubAgent p.ctx 5) .engR (p.w 0) = (s2, .ok pl) → ∀ i ∈ [(Instr.waitmemLineChange th, true), (.waitmemHostPoll th, false)],
      (if i.2 then (threadQueue s th).lineChanged = true else (threadQueue s th).watch = none) →
      exec i.1 s = .next (threadSpends (pktTo p (s2.unhide pl (if bitN p.flags 2 then 8 else 4)) p.next) th)) ∧
    (pktBegin s th 0x05 = .ok p → p.w 0 % 8 = 0 → ∀ s1 pl,
      placeVa p.s (hubAgent p.ctx 5) (if bitN p.flags 1 then .fabA else .engW) (p.w 0) = (s1, .ok pl) → ∀ f g,
      f = (if pl.host = true then landCtx (s1.flush p.ctx) p.ctx else s1.flush p.ctx) →
      g = shareWrite f 512 p.ctx pl (leBytes 8 (if bitN p.flags 1 then (ofLE (readPlace f pl 8).1 + p.w 1) % 2 ^ 64 else p.w 1))
        (bitN p.flags 1 && (readPlace f pl 8).2) →
      exec (.pktSignal th) s = .next (threadSpends (pktTo p (if bitN p.flags 0 then g.raise p.ctx (bitsN p.flags 8 6) else g) p.next) th)) ∧
    (pktBegin s th 0x13 = .ok p → exec (.pktFence th) s =
      .next (threadSpends (pktTo p (if bitN p.flags 0 then p.s.flush p.ctx else p.s) p.next) th)) ∧
    (pktBegin s th 0x01 = .ok p → ∀ s1 id, acceptLaunch p.s p.ctx (lrecOf p.body) (.queue p.q) 0 = (s1, some id) →
      exec (.pktLaunch th) s = .next (threadSpends (pktTo p (if (s1.launch id).live then
        p.upd s1 (fun k => { k with work := k.work ++ [.launch id] }) else s1) p.next) th)) ∧
    (∀ inside n (i : Prologue → Instr), inside = false ∧ n = 0 ∧ i = .pktLaunchInd th ∨
        inside = true ∧ (threadQueue s th).prol = some n ∧ i = .prologueReinvoke th →
      pktBegin s th 0x02 inside = .ok p → ∀ x y waits, Sys2Proof.Claims.Stands p th n x →
      (rvRun th p.ctx waits x = .going y → exec (i ⟨waits⟩) s =
        .next (p.upd (prologueLeaves th x.before y) (fun k => { k with prol := some n, used := some y.cycles }))) ∧
      (rvRun th p.ctx waits x = .returned y → cget 0 y.s.threadReg (th * 32 + 10) = 1 →
        exec (i ⟨waits⟩) s = .next (pktTo p (prologueLeaves th x.before y) p.next)) ∧
      (∀ code s4 r s5 id s6, rvRun th p.ctx waits x = .returned y → code = cget 0 y.s.threadReg (th * 32 + 10) → code = 0 ∨ code = 2 →
        hubRead (prologueLeaves th x.before y) p.ctx (p.w 1) 64 = (s4, some r) →
        acceptLaunch s4 p.ctx (lrecOf r) (.queue p.q) 0 = (s5, some id) →
        s6 = (if (s5.launch id).live then p.upd s5 (fun k => { k with work := k.work ++ [.launch id] }) else s5) →
        exec (i ⟨waits⟩) s = .next (if code = 0 then pktTo p s6 p.next
          else p.upd s6 (fun k => { k with prol := some (n + 1), used := none }))) ∧
      (rvRun th p.ctx waits x = .returned y → 2 < (cget 0 y.s.threadReg (th * 32 + 10)).toNat →
        exec (i ⟨waits⟩) s = .next (qFault (prologueLeaves th x.before y) p.ctx p.q 0x09)) ∧
      (rvRun th p.ctx waits x = .trapped y → exec (i ⟨waits⟩) s = .next (qFault (prologueLeaves th x.before y) p.ctx p.q 0x0A)) ∧
      (rvRun th p.ctx waits x = .stopped y → exec (i ⟨waits⟩) s = .next (qFault (prologueLeaves th x.before y) p.ctx p.q 0x08) ∧
        y.cycles = 65536)) ∧
    (∀ n x y waits, (threadQueue s th).prol = some n → pktBegin s th 0x02 true = .ok p → Sys2Proof.Claims.Stands p th n x →
      rvRun th p.ctx waits x = .stopped y →
      exec (.prologueBudgetExpiry th ⟨waits⟩) s = .next (qFault (prologueLeaves th x.before y) p.ctx p.q 0x08)) ∧
    (pktBegin s th 0x0E = .ok p → (p.w 2 = 0 → exec (.pktCopy th) s = .next (threadSpends (pktTo p p.s p.next) th)) ∧
      ∀ s1 s2 a b, p.w 2 ≠ 0 → placesOf p.s (hubAgent p.ctx 5) .engR (piecesOf (p.w 0) (p.w 2)) = (s1, .ok a) →
      placesOf s1 (hubAgent p.ctx 5) .engW (piecesOf (p.w 1) (p.w 2)) = (s2, .ok b) → exec (.pktCopy th) s = .next (threadSpends (pktTo p
        (p.upd s2 (fun k => { k with work := k.work ++ [.copy (p.w 0) (p.w 1) (p.w 2) p.d.rptr] })) p.next) th)) ∧
    (pktBegin s th 0x10 = .ok p → ∀ s1 bs h, p.w 0 % 64 = 0 → hubRead p.s p.ctx (p.w 0) 192 = (s1, some bs) → doneRecOk s1 p.ctx bs = true →
      freeHandle s1 p.ctx = some h → exec (.pktDxRun th) s = .next (threadSpends (pktTo p (p.upd (dxStart s1 p.ctx h bs (bitsN p.flags 0 3) none)
        (fun k => { k with work := k.work ++ [.run h] })) p.next) th)) ∧
    (pktBegin s th 0x11 = .ok p → ∀ hit : Held → Bool, hit = (fun h => bitN p.flags 0 || h.inRange (p.w 0) (p.w 1)) → exec (.pktInval th) s =
      .next (threadSpends (pktTo p (performPending (invalidate p.s p.ctx hit) p.ctx hit) p.next) th)) ∧
    (pktBegin s th 0x12 = .ok p → exec (.pktReplay th) s = .next (threadSpends (frReplay (pktTo p p.s p.next) p.ctx (p.w 0)) th)) ∧
    (pktBegin s th 0x0F = .ok p → ∀ s1 s2 h bs, hubRead p.s p.ctx (p.w 0) 64 = (s1, some h) → field h 14 1 = 1 →
      hubRead s1 p.ctx (field h 0 8) (64 * field h 8 4) = (s2, some bs) →
      exec (.pktGraphSubmit th) s = .next (threadSpends (submitGraph p s2 (p.w 0) h (recordsOf bs (field h 8 4))) th))) ∧
  (∀ (s : State) (ctx q src dst n idx : Nat) (rest : List Work), (s.queue (queueKey ctx q)).work = .copy src dst n idx :: rest → ctxRuns s ctx = true → q < 512 →
    (n ≠ 0 → ¬ (src < dst + n ∧ dst < src + n) → ∃ k, 1 ≤ k ∧ k ≤ n ∧ ∀ s1, copyBytes s.draw.2 ctx src dst k = (s1, true) →
      (s1.queue (queueKey ctx q)).work = .copy src dst n idx :: rest →
      Sys2Proof.Claims.To (.copyPacketComplete ctx q) s (fun t => (∀ x, byteAt t x = byteAt s1 x) ∧ (t.queue (queueKey ctx q)).work =
        if k < n then .copy (src + k) (dst + k) (n - k) idx :: rest else rest)) ∧
    (src < dst + n → dst < src + n → ∀ s1, writeVa s.draw.2 (hubAgent ctx 5) .engW dst ((List.range n).map (Config.undefByte s.draw.1)) =
        (s1, .ok ()) → (s1.queue (queueKey ctx q)).work = .copy src dst n idx :: rest →
      Sys2Proof.Claims.To (.copyPacketComplete ctx q) s (fun t => (∀ x, byteAt t x = byteAt s1 x) ∧ (t.queue (queueKey ctx q)).work = rest)))

/-- Sealing a graph (05 R103): every task's rank is its weight plus the largest rank of its internal successors, at most 65535; where the
checks of the tasks and of their counts pass and the internal successors have a cycle, sealing fails with error 1. -/
def Obligations.GraphsAreRankedBySuccessors : Prop :=
  (∀ (lim : Nat) (rs : List (List Byte)) (ranks : List Nat), sealOf lim rs = .ok ranks → ranks.length = rs.length ∧
    ∀ i < rs.length, ∀ r, r = rs.getD i [] → ranks.getD i 0 = min 65535 (field r 29 1 +
      (((recSucc r).filterMap (fun c => rs.findIdx? (fun x => recOwn x == some c))).map (ranks.getD · 0)).foldl max 0)) ∧
  (∀ (lim : Nat) (rs : List (List Byte)) (f : Nat → Nat), graphTaskErr lim rs 0 [] rs = none →
    (∀ n, f n < rs.length ∧ ∃ c ∈ recSucc (rs.getD (f n) []), recOwn (rs.getD (f (n + 1)) []) = some c) →
    ∃ i, sealOf lim rs = .error (i, 1))

/-! ### Health, clocks, heat and reset (01 R15 to R26, R31 to R33) -/

/-- The health log (R25): an entry takes the next sequence number and goes to the ring's head, where the log is enabled. Temperatures, the
power brake, droops and voltages move the clocks and the matrix budgets as R18 to R20 say; a corrected row waits for its test on a spare, is
merged with one that waits, or is logged untested or unspared, and an uncorrectable word is poisoned (R22 to R24); predictions below 8,760
hours are logged once (R26); a reset ends everything that runs and boots the active slot, the other one, or recovery (R31 to R33). The model's choices:
one step of 50 MHz for a reading (log 38), what acts after a trip (log 39), that a device reset keeps memory (log 40), and that a row's test is one
event, with no spare free at it a lasting error (log 41). -/
def Obligations.HealthIsWatched : Prop :=
  (∀ (s : State) (e : Health), (logEntry s e).elogSeq = (s.elogSeq + 1) % 2 ^ 32 ∧ (s.elogBase = 0 → (logEntry s e).mem = s.mem) ∧
    (s.elogBase ≠ 0 → (∀ i < 32, s.present (elogKey s s.elogHead + i) = true) → (logEntry s e).elogHead = (s.elogHead + 1) % 2 ^ 32 ∧ ∃ cycles, ∀ k, (logEntry s e).homeByte k =
      match (List.range 32).find? (fun i => elogKey s s.elogHead + i == k) with
      | some i => (e.bytes cycles ((s.elogSeq + 1) % 2 ^ 32)).getD i 0
      | none => s.homeByte k)) ∧
  (∀ (s : State), deviceOn s = true →
    (∀ core degC, core < 512 →
      (degC < 100 → Sys2Proof.Claims.To (.thermalSensorEvent core degC) s (fun t => (t.core core).degC = degC ∧
        (t.core core).hot = decide (90 ≤ degC) ∧ t.elogSeq = s.elogSeq ∧ t.mem = s.mem ∧ t.teams = s.teams ∧
        ((∀ c < 512, c / 128 = core / 128 → c ≠ core → (s.core c).degC < 100) → (t.die (core / 128)).mhz = if s.pwrbrk then 800 else 1000))) ∧
      (100 ≤ degC → degC < 115 → Sys2Proof.Claims.To (.thermalSensorEvent core degC) s (fun t => (t.core core).degC = degC ∧
        (t.core core).hot = true ∧ t.elogSeq = (s.elogSeq + 1) % 2 ^ 32 ∧
        (t.die (core / 128)).thermMhz = max 800 ((s.die (core / 128)).thermMhz - 50))) ∧
      (115 ≤ degC → Sys2Proof.Claims.To (.thermalSensorEvent core degC) s (fun t => t.tripped = true ∧ t.alert = true ∧
        t.answers = s.answers ++ [(.i3c, .alert)] ∧ (∀ d < 4, (t.die d).powered = false) ∧ t.link 0 = false ∧ t.link 1 = false ∧
        (∀ p, (t.port p).up = false) ∧ t.elogSeq = (s.elogSeq + 1) % 2 ^ 32))) ∧
    (s.pwrbrk = true → exec .pwrbrkNAssert s = .next { s with brakePin := true }) ∧
    (s.pwrbrk = false → exec .pwrbrkNDeassert s = .next { s with brakePin := false }) ∧
    (s.pwrbrk = false → Sys2Proof.Claims.To .pwrbrkNAssert s (fun t => t.pwrbrk = true ∧ t.brakePin = true ∧ (∀ d < 4, (t.die d).mhz = 800) ∧
      (∀ c < 512, (t.core c).govCap = 16) ∧ t.elogSeq = (s.elogSeq + 1) % 2 ^ 32)) ∧
    (s.pwrbrk = true → (∀ c < 512, (s.core c).degC < 100) → Sys2Proof.Claims.To .pwrbrkNDeassert s (fun t => t.pwrbrk = false ∧ t.brakePin = false ∧
      (∀ d < 4, (t.die d).mhz = 1000) ∧ (∀ c < 512, (t.core c).govCap = 64) ∧ t.mem = s.mem)) ∧
    (∀ die < 4, Sys2Proof.Claims.To (.droopDetect die) s (fun t => t.die die = { s.die die with droop := true } ∧
        (∀ d, d ≠ die → t.die d = s.die d) ∧ t.mem = s.mem ∧ t.teams = s.teams) ∧
      Sys2Proof.Claims.To (.droopEnd die) s (fun t => t.die die = { s.die die with droop := false } ∧
        (∀ d, d ≠ die → t.die d = s.die d) ∧ t.mem = s.mem ∧ t.teams = s.teams) ∧
      ∀ mv, Sys2Proof.Claims.To (.adaptiveVoltageAdjust die mv) s (fun t => t.die die = { s.die die with millivolt := mv } ∧
        (∀ d, d ≠ die → t.die d = s.die d) ∧ t.mem = s.mem ∧ t.teams = s.teams)) ∧
    (∀ port lane, port < 16 → lane < 8 → exec (.laneRetrain port lane false) s = .next s ∧
      Sys2Proof.Claims.To (.laneRetrain port lane true) s (fun t => t.elogSeq = (s.elogSeq + 1) % 2 ^ 32 ∧ t.ports = s.ports)) ∧
    (∀ (p : EccPlace) (bit : Nat),
      (∀ c < 128, Sys2Proof.Claims.To (.eccCorrectedError (.channel c) bit) s (fun t => t = { s with linkEcc := t.linkEcc } ∧
        ∀ k, cget 0 t.linkEcc k = if k = c then cget 0 s.linkEcc c + 1 else cget 0 s.linkEcc k)) ∧
      (s.tests.any (·.place == p) = true → Sys2Proof.Claims.To (.eccCorrectedError (.row p) bit) s (fun t => t.elogSeq = s.elogSeq ∧
        t.spares = s.spares ∧ t.tests = s.tests.map (fun x => if x.place = p then { x with merged := x.merged + 1 } else x))) ∧
      (s.tests.any (·.place == p) = false → 16 ≤ s.tests.length →
        exec (.eccCorrectedError (.row p) bit) s = .next (logEntry s (correctedEntry p bit 3 0))) ∧
      (s.tests.any (·.place == p) = false → s.tests.length < 16 → Sys2Proof.Claims.To (.eccCorrectedError (.row p) bit) s (fun t =>
        t.spares = s.spares ∧ t.tests = s.tests ++ [{ place := p, bit := bit }] ∧ t.mem = s.mem ∧ t.elogSeq = s.elogSeq)) ∧
      ∀ row x, s.tests[row]? = some x →
        (s.spares ≠ 0 →
          exec (.rowTestComplete row true) s = .next (logEntry { s with tests := s.tests.eraseIdx row }
            (correctedEntry x.place x.bit 0 x.merged)) ∧
          exec (.rowTestComplete row false) s = .next (logEntry { s with tests := s.tests.eraseIdx row, spares := s.spares - 1 }
            (correctedEntry x.place x.bit 1 x.merged))) ∧
        (s.spares = 0 → x.place.struct ≤ 4 ∨ x.place.struct = 9 → x.place.core < 512 → ∀ passed,
          Sys2Proof.Claims.To (.rowTestComplete row passed) s (fun t => t.elogSeq = ((s.elogSeq + 1) % 2 ^ 32 + 1) % 2 ^ 32 ∧
            (t.core x.place.core).retired = true ∧ t.spares = 0 ∧ t.tests = s.tests.eraseIdx row))) ∧
    (∀ (p : EccPlace) (w : PoisonWord) (apart : Nat → Prop),
      (∀ k, apart k ↔ s.elogBase = 0 ∨ ∀ i < 32, (elogKey s s.elogHead + i) / 8 ≠ k) → Sys2Proof.Claims.To (.eccUncorrectableError p w) s (fun t => t.elogSeq = (s.elogSeq + 1) % 2 ^ 32 ∧
      (∀ kind die addr, w = .home kind die addr → apart (physKey kind die addr / 8) → physKey kind die addr / 8 ∈ t.poison) ∧
      (∀ core word, w = .l1 core word → holdsLine s.caches.l1 core (word / 8) = true → apart word →
        ∃ e ∈ t.caches.l1Old, e.core = core ∧ e.word = word ∧ e.bad = true) ∧
      (∀ die word, w = .margin die word → holdsLine s.caches.margin die (word / 8) = true → apart word →
        ∃ e ∈ t.caches.marginOld, e.core = die ∧ e.word = word ∧ e.bad = true) ∧
      (∀ crew ix va key bytes bad bits hint, w = .draft crew ix → (s.crew crew).drafts[ix]? = some (.store va key bytes bad bits hint) →
        (t.crew crew).drafts[ix]? = some (.store va key bytes true bits hint)) ∧
      (∀ off, w = .scriptor off → off % 0x80000 / 8 ∈ t.scriptorPoison) ∧
      (∀ team q ix lane e, w = .queue team q ix lane → ((s.team team).q q).entries[ix]? = some e →
        ∃ e', ((t.team team).q q).entries[ix]? = some e' ∧ e'.vals = e.vals ∧ e'.poison ≠ none) ∧
      (∀ crew off, w = .scratch crew off → off / 8 ∈ (t.crew crew).scratchPoison) ∧
      (∀ team reg lane, w = .vreg team reg lane → reg * 1024 + lane ∈ (t.team team).vPoison) ∧
      (∀ team reg, w = .sreg team reg → reg ∈ (t.team team).sPoison) ∧
      (∀ crew row, w = .accRow crew row → row ∈ (t.crew crew).accPoison) ∧
      (∀ crew tile, w = .tile crew tile → ((t.crew crew).tile tile).poison ≠ []))) ∧
    (∀ hours : List Nat, hours.length ≤ 5 → ∀ e ∈ [(Instr.ageingFirstEstimate hours, false), (.ageingUpdate hours, true)], s.lifeStarted = e.2 →
      Sys2Proof.Claims.To e.1 s (fun t => t.lifeStarted = true ∧ (∀ d < hours.length, cget none t.lifeHours d = hours[d]?) ∧
        (∀ d, hours.length ≤ d → cget none t.lifeHours d = cget none s.lifeHours d) ∧
        (∀ d < hours.length, hours.getD d 0 < 8760 → d ∈ t.lifeAlerted) ∧
        ((∀ h ∈ hours, 8760 ≤ h) → t.elogSeq = s.elogSeq ∧ t.lifeAlerted = s.lifeAlerted)))) ∧
  (∀ (s : State), deviceOn s = false → exec .pwrbrkNAssert s = .next { s with brakePin := true } ∧
    exec .pwrbrkNDeassert s = .next { s with brakePin := false }) ∧
  (∀ (s : State) (slot : Nat), slot = (if s.fwTrial then s.fwOld else s.fwActive) → Sys2Proof.Claims.To .deviceReset s (fun t =>
    (∀ k, s.tripped = false ∧ keyKind k ≠ 1 ∨ keyKind k = 2 → t.homeByte k = s.homeByte k) ∧ t.l2 = [] ∧ (∀ i, (t.team i).status = .free) ∧ t.launches = [] ∧ t.queues = [] ∧ t.runs = [] ∧
    t.colls = [] ∧ t.freezing = 0 ∧ t.tripped = false ∧ t.fwTrial = false ∧ t.fwFuse = s.fwFuse ∧ t.fwSlots = s.fwSlots ∧
    (imageOk s slot = true → t.fwActive = slot ∧ t.recovery = false ∧ t.pwrbrk = s.brakePin ∧ ∀ d < 4, (t.die d).mhz = if s.brakePin then 800 else 1000) ∧
    (imageOk s slot = false → imageOk s (1 - slot) = true → t.fwActive = 1 - slot ∧ t.recovery = false) ∧
    (imageOk s slot = false → imageOk s (1 - slot) = false → t.recovery = true)))

/-! ### The host (02 R34 to R44, 03 R73 to R76, 04 R91 to R93, 05 R99) -/

/-- BAR 4, AtomicOps and ATS (R36, 11 R219), binding and the links (R37, R38, R44), pre-emption (04 R91 to R93), HQ.CTR_RANGE,
HQ.JOB_BASE and HQ.WDOG, the health log's registers, firmware (03 R73 to R75), recovery (03 R76) and plain registers: a write does what its
register says, and one that the spec has ignored or refused changes no more than the result it reports. The model's choices: the MSI-X table's words
and the pending bits (logs 98, 105), an invalidation's page and PASID (log 77), a context that has lost both links (log 107), FW_CTL with both bits
(log 117), and result 3 before 2 (log 118). -/
def Obligations.HostWritesTakeEffect : Prop :=
  (∀ (s : State) (fn : Nat), hostFn s fn = true →
    (∀ va (bytes : List Byte), inBar4 s fn va bytes.length = true →
      exec (.hostBar4Write fn va bytes) s = .next (hostWrite s fn (piecesOf va bytes.length) bytes)) ∧
    (∀ va k s1 s2 (bytes : List Byte), inBar4 s fn va bytes.length = true → bytes ≠ [] → piecesOf va bytes.length = [(va, bytes.length)] →
      placeVa s (hubAgent fn 5) .engW va = (s1, .ok (.phys k)) → (∀ i < bytes.length, s1.present (k + i) = true) →
      s2 = (if s1.posted.any (fun p => (List.range bytes.length).any (fun i => p.covers (k + i))) then landLink (landLink s1 0) 1 else s1) →
      Sys2Proof.Claims.To (.hostBar4Write fn va bytes) s (fun t =>
        ∀ j, t.homeByte j = (if k ≤ j ∧ j < k + bytes.length then bytes.getD (j - k) 0 else s2.homeByte j) ∧
          t.devByte j = (if k ≤ j ∧ j < k + bytes.length then bytes.getD (j - k) 0 else s2.devByte j))) ∧
    (∀ va n s1 bs, inBar4 s fn va n = true → hostRead s fn (piecesOf va n) = (s1, bs) →
      exec (.hostBar4Read fn va n) s = .next { s1 with hostReads := s1.hostReads ++ [bs] }) ∧
    (∀ va n k s1, inBar4 s fn va n = true → piecesOf va n = [(va, n)] → placeVa s (hubAgent fn 5) .engR va = (s1, .ok (.phys k)) →
      Sys2Proof.Claims.To (.hostBar4Read fn va n) s (fun t => t.hostReads = s.hostReads ++ [s1.homeBytes k n] ∧ t.mem = s1.mem)) ∧
    (∀ va n k s1 wide old (x c : W64), n = (if wide then 8 else 4) → inBar4 s fn va n = true → va % n = 0 →
      placeVa s (hubAgent fn 5) .fabA va = (s1, .ok (.phys k)) → reaches s1 k n = true → poisonedIn s1.poison k n = false → old = ofLE (s1.devBytes k n) →
      ∀ e ∈ [(HostAtomic.fetchAdd, (old + x.toNat) % 2 ^ (8 * n)), (.swap, x.toNat % 2 ^ (8 * n)),
        (.cas, if old = c.toNat % 2 ^ (8 * n) then x.toNat % 2 ^ (8 * n) else old)],
      Sys2Proof.Claims.To (.hostAtomicop fn va e.1 wide x c) s (fun t => t.hostReads = s.hostReads ++ [s1.devBytes k n] ∧
        ∀ j, t.devByte j = if k ≤ j ∧ j < k + n then (leBytes n e.2).getD (j - k) 0 else s1.devByte j)) ∧
    (∀ pasid page, ((∃ k, pasid = some k ∧ k ≠ (Config.pasid fn).toNat) → exec (.atsInvalidation fn ⟨pasid, page⟩) s = .next s) ∧
      (pasid = none ∨ pasid = some (Config.pasid fn).toNat → ∀ (hit drafted : Held → Bool) (s1 : State),
        (∀ h, hit h = true ↔ h.kind = 2 ∧ h.iova / 65536 = page / 16) → (∀ h, drafted h = true ↔ h.kind = 2 ∧ h.frame = atsFrame s fn page) →
        s1 = landCtx (performPending (invalidate s fn hit) fn drafted) fn →
        exec (.atsInvalidation fn ⟨pasid, page⟩) s = .next (s1.setCtx fn { s1.ctx fn with
          atsDrops := cset 0 (s1.ctx fn).atsDrops (page / 16) (cget 0 (s1.ctx fn).atsDrops (page / 16) + 1) }) ∧
        (invalidate s fn hit).mem = s.mem ∧ (∀ ti l h, (s.crew (s.team ti).crew).ctx = fn →
          h ∈ cget [] ((invalidate s fn hit).team ti).lastPage l → h.ctx = fn → hit h = false))) ∧
    (∀ c, c = s.ctx fn → c.started = false → c.twoLink = false → c.bound1 = false → s.link 0 = true → s.link 1 = false →
      exec (.hqPairBind fn 0) s = .next ((c.heldBells.filter (fun b => b.1 == 0)).foldl (fun s b => bell s fn b.2.1 b.2.2)
        (s.setCtx fn { c with bound0 := true, started := true, lnk := 0, heldBells := c.heldBells.filter (fun b => !(b.1 == 0)) }))) ∧
    (∀ c, c = s.ctx fn → c.heldBells = [] → c.started = false → c.twoLink = false → s.link 0 = true → s.link 1 = true → c.bound0 = true →
      Sys2Proof.Claims.To (.hqPairBind fn 1) s (fun t => t.ctx fn = { c with bound1 := true, started := true, twoLink := true } ∧
        (∀ k, k ≠ fn → t.ctx k = s.ctx k) ∧ t.mem = s.mem)) ∧
    (∀ c, c = s.ctx fn → c.heldBells = [] → c.started = true → c.twoLink = false → s.link 0 = true → s.link 1 = true → c.bound0 = true →
      Sys2Proof.Claims.To (.hqPairBind fn 1) s (fun t => t.ctx fn = { c with bound1 := true, twoLink := true } ∧
        (∀ k, k ≠ fn → t.ctx k = s.ctx k) ∧ ∀ p ∈ t.posted, p.ctx ≠ fn)) ∧
    (∀ (v : W64) ctx c, ctx = (if fn = 0 then bitsN v.toNat 20 4 else fn) → c = s.ctx ctx →
      (v.getLsbD 0 = true → c.pState = 0 → saveArea c ≠ 0 → saveArea c + saveSize ≤ winLo → Sys2Proof.Claims.To (.hqPreemptRequest fn v) s (fun t =>
        (t.ctx ctx).pState = 1 ∧ (t.ctx ctx).pError = 0)) ∧
      (v.getLsbD 0 = true → c.pState ≠ 0 → v.getLsbD 1 = false ∨ c.pState ≠ 2 →
        exec (.hqPreemptRequest fn v) s = .next (s.updCtx fn (fun c => { c with pSel := bitsN v.toNat 20 4 }))) ∧
      (v.getLsbD 0 = true → c.pState = 0 → saveArea c = 0 ∨ winLo < saveArea c + saveSize → Sys2Proof.Claims.To (.hqPreemptRequest fn v) s (fun t =>
        (t.ctx ctx).pState = 0 ∧ (t.ctx ctx).pError = 1 ∧ t.crews = s.crews)) ∧
      (v.getLsbD 0 = false → v.getLsbD 1 = true → c.pState = 2 → Sys2Proof.Claims.To (.hqPreemptResume fn v) s (fun t =>
        (t.ctx ctx).pState = 3 ∧ t.crews = s.crews ∧ t.mem = s.mem))) ∧
    (∀ (v : W64) ctx base count, ctx = (if fn = 0 then bitsN v.toNat 48 4 else fn) → base = (if fn = 0 then bitsN v.toNat 16 8 else (s.ctx fn).ctrBase) →
      count = (if fn = 0 then bitsN v.toNat 32 9 else (s.ctx fn).ctrCount) →
      ((ctrOverlaps s ctx base count = true ∨ 256 < base + count ∨ ctrInFlight (s.ctx ctx) = true) →
        Sys2Proof.Claims.To (.hqCtrRangeWrite fn v) s (fun t => (t.ctx fn).ctrErr = true ∧ t.deps = s.deps ∧
          ∀ k, (t.ctx k).ctrBase = (s.ctx k).ctrBase ∧ (t.ctx k).ctrCount = (s.ctx k).ctrCount)) ∧
      (ctrOverlaps s ctx base count = false → base + count ≤ 256 → ctrInFlight (s.ctx ctx) = false →
        Sys2Proof.Claims.To (.hqCtrRangeWrite fn v) s (fun t => (t.ctx fn).ctrErr = false ∧ (t.ctx ctx).ctrBase = base ∧ (t.ctx ctx).ctrCount = count ∧
          (∀ i, 256 * base ≤ i → i < 256 * (base + count) → cget 0 t.deps i = 0) ∧ t.mem = s.mem))) ∧
    (∀ v : W64, Sys2Proof.Claims.To (.hqJobBaseWrite fn v) s (fun t => t.ctx fn = { s.ctx fn with jobBase := v, jobLastQ := [] } ∧
        (∀ k, k ≠ fn → t.ctx k = s.ctx k) ∧ t.mem = s.mem) ∧
      ((bitsN v.toNat 0 6 = 0 ∨ 20 ≤ bitsN v.toNat 0 6 ∧ bitsN v.toNat 0 6 ≤ 40) → Sys2Proof.Claims.To (.hqWdogWrite fn v) s (fun t =>
        t.ctx fn = { s.ctx fn with wdog := w64 (bitsN v.toNat 0 6) } ∧ (∀ k, k ≠ fn → t.ctx k = s.ctx k) ∧ t.mem = s.mem)) ∧
      (¬ (bitsN v.toNat 0 6 = 0 ∨ 20 ≤ bitsN v.toNat 0 6 ∧ bitsN v.toNat 0 6 ≤ 40) → exec (.hqWdogWrite fn v) s = .next s)) ∧
    (∀ ep < 2, s.link ep = true → ∀ v : W64,
      (∀ e ∈ [(0x0010, { s.ctx fn with qtblBase := v }), (0x0018, { s.ctx fn with qtblCount := v }), (0x0028, { s.ctx fn with qdirBase := v }),
        (0x0030, { s.ctx fn with qdirCount := v }), (0x0040, { s.ctx fn with saveBase := v }), (0x0060, { s.ctx fn with rubricCfg := v &&& 0xFF }),
        (0x0068, { s.ctx fn with elaBase := v &&& 0x000FFFFFFFFF0000 }), (0x0070, { s.ctx fn with ptBase := v &&& 0x000FFFFFFFFFF00F }),
        (0x0100, { s.ctx fn with taskHandler := v &&& 0x000FFFFFFFFFFFFC }), (0x0108, { s.ctx fn with errVec := v &&& 0xBF }),
        (0x4000, { s.ctx fn with frBase := v &&& 0x000FFFFFFFFFF00F }), (0x0020, s.ctx fn), (0x4018, s.ctx fn)], Sys2Proof.Claims.To (.regWrite fn ep e.1 v) s (fun t => t.ctx fn = e.2 ∧
          (∀ k, k ≠ fn → t.ctx k = s.ctx k) ∧ t.mem = s.mem ∧ t.teams = s.teams)) ∧
      (∀ k < 128, Sys2Proof.Claims.To (.regWrite fn ep (0x2000 + 8 * k) v) s (fun t => t.ctx fn = { s.ctx fn with
          msix := cset (msixReset k) (s.ctx fn).msix k v, msixPend := (t.ctx fn).msixPend } ∧ (∀ i, i ≠ fn → t.ctx i = s.ctx i) ∧
        ∀ x, x ∈ (t.ctx fn).msixPend ↔ x ∈ (s.ctx fn).msixPend ∧ msixMasked (t.ctx fn) x.1 = true)) ∧
      (v.getLsbD 0 = false → v.getLsbD 1 = false → exec (.regWrite fn ep 0x0038 v) s = .next (s.updCtx fn (fun c =>
        { c with pSel := bitsN v.toNat 20 4 }))) ∧
      (v.getLsbD 2 = false → (s.ctx fn).started = true → Sys2Proof.Claims.To (.regWrite fn ep 0x0008 v) s (fun t => t.mem = s.mem ∧
        t.ctx fn = if ep = 0 then { s.ctx fn with bound0 := false } else { s.ctx fn with bound1 := false })) ∧
      (∀ d < 4, fn ≠ 0 → exec (.regWrite fn ep (0x80 + 32 * d) v) s = .next s) ∧
      (∀ d < 4, fn = 0 → Sys2Proof.Claims.To (.regWrite fn ep (0x88 + 32 * d) v) s (fun t =>
        t.die d = { s.die d with ftProd := v.toNat % 2 ^ 32 } ∧ (∀ k, k ≠ d → t.die k = s.die k))))) ∧
  (∀ (s : State) (link : Nat), linksRun s = true → link < 2 → (∀ c, (s.ctx c).heldBells = []) →
    (s.link link = true → Sys2Proof.Claims.To (.pcieLinkDown link) s (fun t => t.link link = false ∧ t.link (1 - link) = s.link (1 - link) ∧
      ∀ c < 16, (if link = 0 then (t.ctx c).bound0 else (t.ctx c).bound1) = false ∧
        ((s.ctx c).started = true → (s.ctx c).twoLink = true → s.link (1 - link) = true →
          (t.ctx c).started = true ∧ (t.ctx c).twoLink = false ∧ (t.ctx c).lnk = 1 - link) ∧
        (s.link (1 - link) = false → (t.ctx c).started = false))) ∧
    (∀ fn k, fn < 16 → 28 ≤ k → k ≤ 40 → Sys2Proof.Claims.To (.pcieLinkUp ⟨link, [(fn, k)]⟩) s (fun t => (t.ctx fn).bar4 = k ∧
      ∀ c, c ≠ fn → (t.ctx c).bar4 = (s.ctx c).bar4)) ∧
    ∀ bar4, Sys2Proof.Claims.To (.pcieLinkUp ⟨link, bar4⟩) s (fun t => t.link link = true ∧ t.link (1 - link) = s.link (1 - link) ∧
      ∀ c, (t.ctx c).bound0 = (s.ctx c).bound0 ∧ (t.ctx c).bound1 = (s.ctx c).bound1)) ∧
  (∀ (s : State) (ctx : Nat), deviceOn s = true →
    (∀ s1 e, (s.ctx ctx).pState = 1 → fabPerformed s ctx (fun _ => true) = true → atBoundaries s ctx = true → placesOf s (hubAgent ctx 5) .engW (piecesOf (saveArea (s.ctx ctx)) saveSize) =
      (s1, .error e) → Sys2Proof.Claims.To (.preemptSaveComplete ctx) s (fun t => (t.ctx ctx).pState = 0 ∧ (t.ctx ctx).pError = 2)) ∧
    ((s.ctx ctx).pState = 1 → fabPerformed s ctx (fun _ => true) = false ∨ atBoundaries s ctx = false → exec (.preemptSaveComplete ctx) s = .next s) ∧
    (∀ s1 ps, (s.ctx ctx).pState = 1 → fabPerformed s ctx (fun _ => true) = true → atBoundaries s ctx = true →
      placesOf s (hubAgent ctx 5) .engW (piecesOf (saveArea (s.ctx ctx)) saveSize) = (s1, .ok ps) →
      Sys2Proof.Claims.To (.preemptSaveComplete ctx) s (fun t => (t.ctx ctx).pState = 2 ∧
        (∀ c, (s.crew c).ctx = ctx → (t.crew c).resident = false) ∧
        ((∀ c, (s.crew c).drafting = false) → ∀ c, (s.crew c).status = .resident → (s.crew c).ctx = ctx → (t.crew c).status = .saved false))) ∧
    ((s.ctx ctx).pState = 3 → Sys2Proof.Claims.To (.preemptRestoreComplete ctx) s (fun t =>
      (t.ctx ctx).pState = (if t.crews.any (fun e => e.2.ctx == ctx && e.2.status == .saved false) then 3 else 0)))) ∧
  (∀ (s : State) (v : W64), hostPf s 0 = true →
    Sys2Proof.Claims.To (.hkElogBaseWrite 0 v) s (fun t => t.elogBase = v &&& 0x000FFFFFFFFFF00F ∧ t.elogHead = 0 ∧ t.mem = s.mem) ∧
    (∀ k, 6 ≤ k → k ≤ 16 → v.toNat = 2 ^ k → Sys2Proof.Claims.To (.hkElogSizeWrite 0 v) s (fun t => t.elogSize = 2 ^ k ∧ t.elogHead = 0 ∧ t.mem = s.mem)) ∧
    ((∀ k, 6 ≤ k → k ≤ 16 → v.toNat ≠ 2 ^ k) → exec (.hkElogSizeWrite 0 v) s = .next s) ∧
    (keyed v = true → v.getLsbD 1 = true →
      (s.fwTrial = true → exec (.fwActivate 0 v) s = .next { s with fwResult := 4 }) ∧
      (s.fwTrial = false → imageOk s (1 - s.fwActive) = false → exec (.fwActivate 0 v) s = .next { s with fwResult := 2 }) ∧
      (s.fwTrial = false → imageOk s (1 - s.fwActive) = true → Sys2Proof.Claims.To (.fwActivate 0 v) s (fun t =>
        t.fwActive = 1 - s.fwActive ∧ t.fwOld = s.fwActive ∧ t.fwTrial = true ∧ (∀ k, k ∈ t.fwSwitch ↔ k < 32) ∧ t.fwFuse = s.fwFuse))) ∧
    (keyed v = true → v.getLsbD 0 = true →
      (s.fwTrial = false → exec (.fwCommit 0 v) s = .next { s with fwResult := 3 }) ∧
      (s.fwTrial = true → Sys2Proof.Claims.To (.fwCommit 0 v) s (fun t => t.fwTrial = false ∧ t.fwActive = s.fwActive ∧
        t.fwFuse = max s.fwFuse (imageVersion s s.fwActive) ∧ t.fwResult = 1))) ∧
    (keyed v = false → exec (.fwActivate 0 v) s = .next s ∧ exec (.fwCommit 0 v) s = .next s) ∧
    (s.fwTrial = false → Sys2Proof.Claims.To (.hkFwWindowWrite 0 v) s (fun t => t.fwWindow = v ∧ t.mem = s.mem)) ∧
    (s.fwTrial = true → exec (.hkFwWindowWrite 0 v) s = .next s)) ∧
  (∀ (s : State), deviceOn s = true →
    (s.fwTrial = true → Sys2Proof.Claims.To .fwTrialExpiry s (fun t => t.fwActive = s.fwOld ∧ t.fwTrial = false ∧ t.fwResult = 5 ∧
      t.fwFuse = s.fwFuse ∧ (∀ k, k ∈ t.fwSwitch ↔ k < 32) ∧ t.elogSeq = (s.elogSeq + 1) % 2 ^ 32)) ∧
    (∀ th p, th ∈ s.fwSwitch → pktHeader s th false ≠ .ok p) ∧
    (∀ th, ((threadQueue s th).used = none → Sys2Proof.Claims.To (.fwThreadSwitch th) s (fun t =>
        ∀ k, k ∈ t.fwSwitch ↔ k ∈ s.fwSwitch ∧ k ≠ th)) ∧
      ((threadQueue s th).used ≠ none → exec (.fwThreadSwitch th) s = .next s))) ∧
  (∀ (s : State), linksRun s = true →
    (∀ c bad f, s.rcvBusy = some c → f = cget {} s.fwSlots s.rcvSlot → Sys2Proof.Claims.To (.rcvCmdComplete bad) s (fun t =>
      t.rcvBusy = none ∧ t.rcvResult = (if bad then 4 else 1) ∧ (∀ k, k ≠ s.rcvSlot → cget {} t.fwSlots k = cget {} s.fwSlots k) ∧
      ∀ g, g = cget {} t.fwSlots s.rcvSlot →
        (c = 1 → bad = false → g = {}) ∧ (c ≠ 2 → bad = true → g = f) ∧ (c = 3 → bad = false → g.bytes = f.bytes ∧ g.len = s.rcvOffset) ∧
        (c = 2 → g.len = f.len ∧ (∀ i, i < s.rcvOffset ∨ s.rcvOffset + 2048 ≤ i → cget 0 g.bytes i = cget 0 f.bytes i) ∧
          (bad = false → ∀ i < 2048, cget 0 g.bytes (s.rcvOffset + i) = cget 0 s.rcvWindow i)))) ∧
    (rcvOn s 0 = true → ∀ v : W64,
      (∀ e ∈ [(Instr.rcvErase 0 v, 1, false), (.rcvProgram 0 v, 2, true), (.rcvSeal 0 v, 3, true)], rcvCmd v = some e.2.1 →
        (s.recovery = false → s.rcvSlot = s.fwActive → exec e.1 s = .next { s with rcvResult := 3 }) ∧
        (s.recovery = true ∨ s.rcvSlot ≠ s.fwActive → e.2.2 = true → s.rcvOffset % 2048 ≠ 0 → exec e.1 s = .next { s with rcvResult := 2 }) ∧
        (s.recovery = true ∨ s.rcvSlot ≠ s.fwActive → e.2.2 = false ∨ s.rcvOffset % 2048 = 0 →
          exec e.1 s = .next { s with rcvBusy := some e.2.1 })) ∧
      (rcvCmd v = some 4 → (s.recovery = false → exec (.rcvReboot 0 v) s = .next { s with rcvResult := 2 }) ∧
        (s.recovery = true → imageOk s s.fwActive = true → exec (.rcvReboot 0 v) s = .next (brakeFollow { s with rcvResult := 1, recovery := false }))) ∧
      (rcvCmd v = none ∨ rcvCmd v = some 0 ∨ (∃ c, rcvCmd v = some c ∧ 4 < c) → exec (.rcvCmdRefused 0 v) s = .next { s with rcvResult := 2 }) ∧
      exec (.regWrite 0 0 0x8008 v) s = .next { s with rcvSlot := v.toNat % 2 } ∧
      exec (.regWrite 0 0 0x8010 v) s = .next { s with rcvOffset := v.toNat % 2 ^ 26 } ∧
      ∀ w < 256, Sys2Proof.Claims.To (.regWrite 0 0 (0x8800 + 8 * w) v) s (fun t =>
        ∀ i, cget 0 t.rcvWindow i = if 8 * w ≤ i ∧ i < 8 * w + 8 then (leBytes 8 v.toNat).getD (i - 8 * w) 0 else cget 0 s.rcvWindow i)))

/-! ### Freeze, management and the ports (01 R27 to R30, 02 R46 to R56) -/

/-- Nothing waits to be sent: no flit is in a receive buffer, no NAK or credit is owed, and no flit of the chip's own is formed. -/
def Sys2Proof.Claims.Quiet (s : State) : Prop :=
  (∀ p, (s.port p).fwd = [] ∧ (s.port p).rx = [] ∧ (s.port p).naks = [] ∧ ∀ v < 8, cget 0 (s.port p).owed v = 0) ∧ s.own = []

/-- The port p sends one flit, with a header of its own: the next link sequence number, n credits of VC v, and the CRC (R46). -/
def Sys2Proof.Claims.flitSent (s : State) (p v n : Nat) (f : Flit) : Flit :=
  { header := reheader f.header (s.port p).nextSeq v n f.payload, payload := f.payload }

/-- Freeze and readout, the management requests (each is answered on its path; while frozen FROZEN, or SPDM's Busy), and the ports: a flit
comes through where its codewords can be corrected; one with a wrong CRC, or out of order, is asked for again; one in order is received, gives
its credits, or is sent on where its flow has a port with a credit; a place that is free again gives the peer its credit; a NAK replays; a port
goes down, is trained again, and a flow changes its port. The model's choices: a NAK alone clears the retry buffer (log 49), NAKs and idle flits take
sequence numbers and retry places (log 122), THAW's one refusal and a request for what L2SHARE lacks (log 46), which port a flow takes (log 50), and
what a port keeps when it is trained again (log 140). -/
def Obligations.ManagementAndPorts : Prop :=
  (∀ (s : State), (s.freezing = 0 → Sys2Proof.Claims.To .freezeNAssert s (fun t =>
      t.freezeN = true ∧ t.freezing = 1 ∧ t.scanned = [] ∧ t.mem = s.mem ∧ t.teams = s.teams)) ∧
    (s.freezing ≠ 0 → exec .freezeNAssert s = .next { s with freezeN := true }) ∧
    exec .freezeNDeassert s = .next { s with freezeN := false } ∧
    (s.freezing = 1 → Sys2Proof.Claims.To .freezeClocksStop s (fun t => t.freezing = 2 ∧ t.answers = s.answers ++ [(.i3c, .frozen)] ∧
      t.link 0 = false ∧ t.link 1 = false ∧ t.teams = s.teams ∧ t.ports = s.ports ∧
      (s.link 0 = false → s.link 1 = false → t = { s with freezing := 2, answers := t.answers })))) ∧
  (∀ (s : State) (via : Transport) (a : Answer), (answer s via a).answers = s.answers ++ [(via, a)] ∧ (answer s via a).teams = s.teams ∧
    (answer s via a).mem = s.mem ∧ (∀ chip, via = .vc7 chip → (answer s via a).fabric = s.fabric ++ [.management chip]) ∧
    ((∀ chip, via ≠ .vc7 chip) → answer s via a = { s with answers := s.answers ++ [(via, a)] })) ∧
  (∀ (s : State) (via : Transport), pathUp s via = true →
    (s.freezing = 0 → Sys2Proof.Claims.To (.freeze via) s (fun t => t.freezing = 1 ∧ t.scanned = [] ∧ t.answers = s.answers ++ [(via, .ok)])) ∧
    (s.freezing ≠ 0 → exec (.freeze via) s = .next (answer s via .ok)) ∧
    (∀ chain, (s.freezing ≠ 2 → exec (.scan via chain) s = .next (answer s via .notFrozen)) ∧
      (s.freezing = 2 → Sys2Proof.Claims.To (.scan via chain) s (fun t => (∀ k, k ∈ t.scanned ↔ k = chain ∨ k ∈ s.scanned) ∧ ∃ bytes,
        t.answers = s.answers ++ [(via, .chain chain bytes)] ∧ bytes.length = Config.scanLength chain ∧ ∀ i w b x, i < Config.scanLength chain →
          Config.scanCell chain i = some (w, b) → scanByte s w b = some x → bytes[i]? = some x))) ∧
    (∀ team, scanByte s (.team team .pc) 0 = some ((s.team team).pc.extractLsb' 0 8) ∧
      (∀ i e, (s.team team).rstack[i]? = some e → scanByte s (.team team (.stackAddr i)) 0 = some (e.addr.extractLsb' 0 8))) ∧
    (s.freezing = 2 → (∀ k < Config.scanUnits, k ∈ s.scanned) → s.freezeN = false → Sys2Proof.Claims.To (.thaw via) s (fun t => t.freezing = 0 ∧
      t.answers = s.answers ++ [(via, .ok)] ∧ t.link 0 = false ∧ t.link 1 = false ∧ (∀ p, (t.port p).up = false) ∧
      (s.brakePin = s.pwrbrk → t.teams = s.teams ∧ t.mem = s.mem) ∧ (s.tripped = false → s.recovery = false → t.pwrbrk = s.brakePin))) ∧
    (s.freezing ≠ 2 ∨ s.freezeN = true ∨ (∃ k < Config.scanUnits, k ∉ s.scanned) → exec (.thaw via) s = .next (answer s via .notRead)) ∧
    (s.freezing = 2 → ∀ n d k, ∀ i ∈ [Instr.health via n, .life via, .l2share via d k, .idset via n], exec i s = .next (answer s via .frozen)) ∧
    (s.freezing ≠ 2 →
      (∀ n, exec (.health via n) s = .next (answer s via (.entries ((elogEntries s).filter (fun e => decide (n ≤ field e 24 4)))))) ∧
      exec (.life via) s = .next (answer s via (.lives ((List.range 5).map (fun d => (cget none s.lifeHours d).getD 0xFFFFFFFF)))) ∧
      ((∃ c < 16, ctxActive s c = true) → ∀ d k, exec (.l2share via d k) s = .next (answer s via .busy) ∧
        exec (.idset via k) s = .next (answer s via .busy)) ∧
      ((∀ c < 16, ctxActive s c = false) → (∀ k, exec (.idset via k) s = .next (answer { s with chipId := k % 4096 } via .ok)) ∧
        ∀ d k, (4 ≤ d ∨ 5 ≤ k → exec (.l2share via d k) s = .next (answer s via .unsupported)) ∧
          (d < 4 → k < 5 → Memory.wf s = true → Sys2Proof.Claims.To (.l2share via d k) s (fun t => (t.die d).share = k ∧ t.answers = s.answers ++ [(via, .ok)] ∧
            (∀ c, ¬ (keyKind c = 1 ∧ keyDie c = d) → t.devByte c = s.devByte c) ∧
            ∀ c, keyKind c = 0 → keyDie c = d → t.homeByte c = s.devByte c)))) ∧
    exec (.mctpUnsupported via) s = .next (answer s via .unsupported) ∧
    (∀ e ∈ [(Instr.getVersion via, Spdm.version 1 3), (.getCapabilities via, .capabilities true true true),
        (.negotiateAlgorithms via, .algorithms .sha384 .slhDsaSha2_128s), (.getDigests via, .digests [sha384 Config.certificate]),
        (.getCertificate via, .certificate Config.certificate)],
      exec e.1 s = .next (answer s via (if s.freezing = 2 then .spdmBusy else .spdm e.2))) ∧
    (∀ e ∈ [(Instr.challenge via, Spdm.challenge (Config.signature Config.signingKey (Config.transcript s.draw.1 ++ sha384 Config.certificate))),
        (.getMeasurements via, .measurements (measurements s)
          (Config.signature Config.signingKey (Config.transcript s.draw.1 ++ (measurements s).flatten.flatMap (leBytes 8))))],
      exec e.1 s = .next (answer s.draw.2 via (if s.freezing = 2 then .spdmBusy else .spdm e.2)))) ∧
  (∀ (errors : List Nat) (f : RxFlit), fecPasses errors f = true ↔ ∀ w ∈ f.words, errors.getD (w % 2) 0 ≤ 15) ∧
  (∀ (s : State) (port : Nat) (q : Port), linksRun s = true → port < 16 → q = s.port port → q.up = true →
    ∀ (a b : Nat) (flits : List RxFlit), exec (.flitReceive port a b flits) s = .next
      (((flits.filter (fecPasses [a, b])).map (fun f => (⟨f.header, f.payload⟩ : Flit))).foldl (flitIn port) s).pump) ∧
  (∀ (s : State) (port : Nat) (q : Port), linksRun s = true → port < 16 → q = s.port port → Sys2Proof.Claims.Quiet s →
    (∀ (h : W64) (pl : List Byte) (f : Flit) (words : List Nat) (i : Instr), q.up = true → pl.length = 120 → f = { header := h, payload := pl } →
      i = .flitReceive port 0 0 [{ header := h, payload := pl, words := words }] →
      (∀ naks g, naks = (if hdrCrc h ≠ flitCrc h pl ∨ hdrKind h = 7 then q.crcErrors + 1 else q.crcErrors) →
        g = Sys2Proof.Claims.flitSent s port 0 0 (linkFlit s port 6 ((List.range 120).map (Config.nakByte q.expSeq))) →
        (hdrCrc h ≠ flitCrc h pl ∨ hdrKind h = 7) ∨ hdrSeq h ≠ q.expSeq ∧ q.discarding = false →
        Sys2Proof.Claims.To i s (fun t => (t.port port).crcErrors = naks ∧ (t.port port).discarding = true ∧ (t.port port).expSeq = q.expSeq ∧
          (q.retry.length < 512 → (t.port port).naks = [] ∧ (t.port port).retry = q.retry ++ [g] ∧ t.wire = s.wire ++ [(port, g)]) ∧
          (512 ≤ q.retry.length → (t.port port).naks = [q.expSeq] ∧ t.wire = s.wire))) ∧
      (hdrCrc h = flitCrc h pl → hdrKind h ≠ 7 → hdrSeq h ≠ q.expSeq → q.discarding = true →
        Sys2Proof.Claims.To i s (fun t => t.wire = s.wire ∧ ∀ p, t.port p = s.port p)) ∧
      (hdrCrc h = flitCrc h pl → hdrSeq h = q.expSeq → ∀ credits, credits = cset 0 q.credits (hdrCrvc h) (cget 0 q.credits (hdrCrvc h) + hdrCrcnt h) →
        (hdrKind h = 5 ∨ hdrKind h = 6 → Sys2Proof.Claims.To i s (fun t => t.wire = s.wire ∧
          t.port port = { q with expSeq := (q.expSeq + 1) % 1024, discarding := false, credits := credits })) ∧
        (hdrKind h < 5 → cget 0 q.given (hdrVc h) = 0 → Sys2Proof.Claims.To i s (fun t => t.wire = s.wire ∧ ∀ p, t.port p = s.port p)) ∧
        (∀ idle gv, hdrKind h < 5 → 0 < cget 0 q.given (hdrVc h) → gv = credit q.given (hdrVc h) (· - 1) → hdrDst h = s.chipId → idle = Sys2Proof.Claims.flitSent s port (hdrVc h) 1 (linkFlit s port 5 ((List.range 120).map Config.idleByte)) →
          (rxHolds s f = true → Sys2Proof.Claims.To i s (fun t => t.wire = s.wire ∧
            t.port port = { q with expSeq := (q.expSeq + 1) % 1024, discarding := false, credits := credits, given := gv, rx := [f] })) ∧
          (rxHolds s f = false → Sys2Proof.Claims.To i s (fun t => (t.port port).received = q.received ++ [f] ∧ (t.port port).rx = [] ∧
            (t.port port).expSeq = (q.expSeq + 1) % 1024 ∧ (t.port port).discarding = false ∧ (t.port port).credits = credits ∧
            (q.retry.length < 512 → t.wire = s.wire ++ [(port, idle)] ∧ cget 0 (t.port port).owed (hdrVc h) = 0 ∧
              cget 0 (t.port port).given (hdrVc h) = cget 0 q.given (hdrVc h)) ∧
            (512 ≤ q.retry.length → t.wire = s.wire ∧ cget 0 (t.port port).owed (hdrVc h) = 1 ∧ (t.port port).given = gv)))) ∧
        (∀ p g idle, hdrKind h < 5 → 0 < cget 0 q.given (hdrVc h) → hdrDst h ≠ s.chipId → cget none s.flows (hdrDst h * 8 + hdrVc h) = none → bestPath s (hdrDst h) = some p → p ≠ port →
          g = Sys2Proof.Claims.flitSent s p 0 0 f →
          idle = Sys2Proof.Claims.flitSent s port (hdrVc h) 1 (linkFlit s port 5 ((List.range 120).map Config.idleByte)) →
          (cget 0 (s.port p).credits (hdrVc h) = 0 ∨ 512 ≤ (s.port p).retry.length → Sys2Proof.Claims.To i s (fun t => t.wire = s.wire ∧
            t.port port = { q with
              expSeq := (q.expSeq + 1) % 1024, discarding := false, credits := credits, given := credit q.given (hdrVc h) (· - 1), fwd := [f] })) ∧
          (cget 0 (s.port p).credits (hdrVc h) ≠ 0 → (s.port p).retry.length < 512 → Sys2Proof.Claims.To i s (fun t =>
            (t.port port).fwd = [] ∧ (t.port port).expSeq = (q.expSeq + 1) % 1024 ∧ (t.port p).nextSeq = ((s.port p).nextSeq + 1) % 1024 ∧
            cget 0 (t.port p).credits (hdrVc h) = cget 0 (s.port p).credits (hdrVc h) - 1 ∧ (t.port p).retry = (s.port p).retry ++ [g] ∧
            cget none t.flows (hdrDst h * 8 + hdrVc h) = some p ∧ (∀ k, k ≠ hdrDst h * 8 + hdrVc h → cget none t.flows k = cget none s.flows k) ∧
            t.wire = s.wire ++ (p, g) :: (if q.retry.length < 512 then [(port, idle)] else [])))))) ∧
    (∀ seq rest, q.up = true → rest = q.retry.dropWhile (fun f => hdrSeq f.header != seq) →
      (rest ≠ [] → Sys2Proof.Claims.To (.nakReceive port seq) s (fun t => (t.port port).retry = rest ∧
        (t.port port).replays = (if rest.length = q.retry.length then q.replays + 1 else 1) ∧ t.wire = s.wire ++ rest.map (fun f => (port, f)))) ∧
      (rest = [] → seq = q.nextSeq → Sys2Proof.Claims.To (.nakReceive port seq) s (fun t => (t.port port).retry = [] ∧ (t.port port).replays = 0 ∧
        t.wire = s.wire)) ∧
      (rest = [] → seq ≠ q.nextSeq → exec (.nakReceive port seq) s = .next s)) ∧
    (s.runs = [] → s.colls = [] → (∀ e ∈ s.ctxs, e.2.fab = []) → q.up = true →
      (16 ≤ q.replays → Sys2Proof.Claims.To (.portReplayLimit port) s (fun t =>
        t.port port = { q with up := false, training := true, replays := 0, discarding := false } ∧ ∀ p, p ≠ port → t.port p = s.port p)) ∧
      (q.replays < 16 → exec (.portReplayLimit port) s = .next s) ∧
      Sys2Proof.Claims.To (.portIdleTimeout port) s (fun t =>
        t.port port = { q with up := false, training := true, replays := 0, discarding := false } ∧ ∀ p, p ≠ port → t.port p = s.port p)) ∧
    (∀ (adv : List Nat) peer, q.up = false → Sys2Proof.Claims.To (.portTrainingComplete port ⟨adv, peer⟩) s (fun t => (t.port port).up = true ∧
      (t.port port).training = false ∧ (t.port port).peer = peer ∧ (t.port port).retry = q.retry ∧ (t.port port).expSeq = q.expSeq ∧ ∀ vc < 8,
        cget 0 (t.port port).credits vc = adv.getD vc 0 ∧ cget 0 (t.port port).given vc = Config.rxBuffer port vc)) ∧
    (∀ dst vc p live, vc < 8 → fabricUp s = true → s.runs = [] → s.colls = [] → (∀ e ∈ s.ctxs, e.2.fab = []) →
      cget none s.flows (dst * 8 + vc) = some port → q.up = false →
      q.retry.any (fun f => hdrDst f.header == dst && hdrVc f.header == vc) = false →
      bestPath { s with meshLive := cset none s.meshLive dst (some live) } dst = some p →
      Sys2Proof.Claims.To (.routeSwitch ⟨dst, vc⟩ live) s (fun t => cget none t.flows (dst * 8 + vc) = some p ∧ t.wire = s.wire ∧
        ∀ k, k ≠ dst * 8 + vc → cget none t.flows k = cget none s.flows k)))

/-! ### An invariant of every step -/

/-- Every step, of every instruction and event, has a next state, and keeps memory in its canonical form: addresses strictly rising, and no
entry equal to what an unlisted address reads as (the model's own; that it holds at reset is part of ResetLeavesTheChipIdle). -/
def Obligations.EveryStepGoesOnWithMemoryCanonical : Prop :=
  ∀ (s : State), ∃ t, step s = .next t ∧ (Memory.wf s = true → Memory.wf t = true)

end
end

