-- ==== Sys2Proof/Laws/Cells.lean ====
section
/-! SUPPORT. The laws of a table of `Cells`: what is read after a write, and the canonical form. -/

namespace Sys2Proof.Machine

variable {α : Type} [DecidableEq α] (d : α)

omit [DecidableEq α] in
theorem cget_dropWhile_self (m : Cells α) (k : Nat) : cget d (m.dropWhile (fun e => decide (e.1 ≤ k))) k = d := by
  induction m with
  | nil => rfl
  | cons e r ih =>
    obtain ⟨a, w⟩ := e
    by_cases h : a ≤ k
    · simpa [List.dropWhile, h] using ih
    · have h1 : a ≠ k := by omega
      have h2 : k < a := by omega
      simp [List.dropWhile, h, cget, h1, h2]

/-- The key written reads the value written. -/
@[simp] theorem cget_cset_self (m : Cells α) (k : Nat) (v : α) : cget d (cset d m k v) k = v := by
  induction m with
  | nil => by_cases h : v = d <;> simp [cset, cget, h]
  | cons e r ih =>
    obtain ⟨a, w⟩ := e
    by_cases h1 : k < a
    · have h3 : a ≠ k := by omega
      by_cases h : v = d <;> simp [cset, cget, h, h1, h3]
    · by_cases h2 : k = a
      · subst h2
        by_cases h : v = d
        · subst h; simpa [cset] using cget_dropWhile_self v r k
        · simp [cset, cget, h]
      · have h3 : a ≠ k := by omega
        simp [cset, cget, h1, h2, h3, ih]

omit [DecidableEq α] in
theorem cget_dropWhile_gt (m : Cells α) (k j : Nat) (hj : k < j) :
    cget d (m.dropWhile (fun e => decide (e.1 ≤ k))) j = cget d m j := by
  induction m with
  | nil => rfl
  | cons e r ih =>
    obtain ⟨a, w⟩ := e
    by_cases h : a ≤ k
    · have h1 : a ≠ j := by omega
      have h2 : ¬ j < a := by omega
      simpa [List.dropWhile, h, cget, h1, h2] using ih
    · simp [List.dropWhile, h]

omit [DecidableEq α] in
theorem cget_dropWhile_lt (m : Cells α) (k j : Nat) (hj : j < k) :
    cget d (m.dropWhile (fun e => decide (e.1 ≤ k))) j = d := by
  induction m with
  | nil => rfl
  | cons e r ih =>
    obtain ⟨a, w⟩ := e
    by_cases h : a ≤ k
    · simpa [List.dropWhile, h] using ih
    · have h1 : a ≠ j := by omega
      have h2 : j < a := by omega
      simp [List.dropWhile, h, cget, h1, h2]

/-- Every other key reads what it did. -/
@[simp] theorem cget_cset_ne (m : Cells α) (k j : Nat) (v : α) (h : j ≠ k) : cget d (cset d m k v) j = cget d m j := by
  induction m with
  | nil =>
    by_cases hv : v = d
    · simp [cset, hv]
    · have : k ≠ j := fun e => h e.symm
      simp [cset, cget, hv, this]
  | cons e r ih =>
    obtain ⟨a, w⟩ := e
    by_cases h1 : k < a
    · by_cases hv : v = d
      · simp [cset, h1, hv]
      · have h3 : k ≠ j := fun e => h e.symm
        by_cases h4 : j < k
        · have h5 : a ≠ j := by omega
          have h6 : j < a := by omega
          simp [cset, cget, h1, hv, h3, h4, h5, h6]
        · simp [cset, cget, h1, hv, h3, h4]
    · by_cases h2 : k = a
      · subst h2
        have h3 : k ≠ j := fun e => h e.symm
        by_cases hv : v = d
        · subst hv
          rcases Nat.lt_or_gt_of_ne h with h4 | h4
          · simpa [cset, cget, h3, h4] using cget_dropWhile_lt v r k j h4
          · have h5 : ¬ j < k := by omega
            simpa [cset, cget, h3, h5] using cget_dropWhile_gt v r k j h4
        · simp [cset, cget, hv, h3]
      · simp only [cset, cget, h1, h2, if_false]
        by_cases h7 : a = j
        · simp [h7]
        · by_cases h8 : j < a
          · simp [h7, h8]
          · simp [h7, h8, ih]

theorem cget_cset (m : Cells α) (k j : Nat) (v : α) : cget d (cset d m k v) j = if j = k then v else cget d m j := by
  by_cases h : j = k
  · subst h; simp
  · simp [h]

/-- An entry after a write is an old one or the one written, which differs from the default. -/
theorem mem_cset (m : Cells α) (k : Nat) (v : α) (e : Nat × α) (h : e ∈ cset d m k v) : e ∈ m ∨ (e = (k, v) ∧ v ≠ d) := by
  induction m with
  | nil =>
    by_cases hv : v = d
    · simp [cset, hv] at h
    · right; simpa [cset, hv] using h
  | cons x r ih =>
    obtain ⟨a, w⟩ := x
    by_cases h1 : k < a
    · by_cases hv : v = d
      · left; simpa [cset, h1, hv] using h
      · simp only [cset, h1, hv, if_true, if_false, List.mem_cons] at h
        rcases h with h | h
        · exact .inr ⟨h, hv⟩
        · exact .inl (by simpa using h)
    · by_cases h2 : k = a
      · subst h2
        by_cases hv : v = d
        · simp only [cset, h1, hv, if_true, if_false] at h
          exact .inl (List.mem_cons_of_mem _ (List.dropWhile_sublist _ |>.subset h))
        · simp only [cset, h1, hv, if_true, if_false, List.mem_cons] at h
          rcases h with h | h
          · exact .inr ⟨h, hv⟩
          · exact .inl (List.mem_cons_of_mem _ h)
      · simp only [cset, h1, h2, if_false, List.mem_cons] at h
        rcases h with h | h
        · exact .inl (by simp [h])
        · rcases ih h with h | h
          · exact .inl (List.mem_cons_of_mem _ h)
          · exact .inr h

/-- A write keeps the keys strictly rising. -/
theorem cset_sorted (m : Cells α) (k : Nat) (v : α) (h : m.Pairwise (fun a b => a.1 < b.1)) :
    (cset d m k v).Pairwise (fun a b => a.1 < b.1) := by
  induction m with
  | nil => by_cases hv : v = d <;> simp [cset, hv]
  | cons x r ih =>
    obtain ⟨a, w⟩ := x
    have hr := (List.pairwise_cons.1 h).2
    have ha := (List.pairwise_cons.1 h).1
    by_cases h1 : k < a
    · by_cases hv : v = d
      · simpa [cset, h1, hv] using h
      · simp only [cset, h1, hv, if_true, if_false]
        refine List.pairwise_cons.2 ⟨fun e he => ?_, h⟩
        rcases List.mem_cons.1 he with he | he
        · simp [he, h1]
        · have := ha e he; simp at this ⊢; omega
    · by_cases h2 : k = a
      · subst h2
        by_cases hv : v = d
        · simp only [cset, h1, hv, if_true, if_false]
          exact hr.sublist (List.dropWhile_sublist _)
        · simp only [cset, h1, hv, if_true, if_false]
          exact List.pairwise_cons.2 ⟨fun e he => by simpa using ha e he, hr⟩
      · simp only [cset, h1, h2, if_false]
        refine List.pairwise_cons.2 ⟨fun e he => ?_, ih hr⟩
        rcases mem_cset d r k v e he with he | ⟨he, -⟩
        · exact ha e he
        · simp [he]; omega

end Sys2Proof.Machine
end

