-- ==== Sys2Proof/Laws/Encoding.lean ====
section
/-! SUPPORT. The fields of the words of each format read back what was put into them (14 R271 to R273). -/

namespace Sys2Proof.Laws

theorem code_lt (o : Opnd) : o.code < 256 := by
  cases o <;> simp only [Opnd.code] <;> omega

theorem ofCode_code (o : Opnd) : Opnd.ofCode (BitVec.ofNat 8 o.code) = o := by
  cases o with
  | v n => revert n; decide
  | s n => revert n; decide
  | q n => revert n; decide
  | rsvLo n => revert n; decide
  | vx n => revert n; decide
  | x n => revert n; decide
  | p n => revert n; decide
  | rsvHi n => revert n; decide
  | _ => decide

theorem code_ofCode (c : BitVec 8) : BitVec.ofNat 8 (Opnd.ofCode c).code = c := by
  revert c; decide

@[simp] theorem opcodeOf_wordF3 (op : Nat) (d a b : Opnd) (ho : op < 256) : opcodeOf (wordF3 op d a b) = op := by
  have := code_lt d; have := code_lt a; have := code_lt b
  simp only [opcodeOf, wordF3, BitVec.toNat_ofNat]; omega
@[simp] theorem opcodeOf_wordFI (op : Nat) (d : Opnd) (i : BitVec 16) (ho : op < 256) : opcodeOf (wordFI op d i) = op := by
  have := code_lt d; have := i.isLt
  simp only [opcodeOf, wordFI, BitVec.toNat_ofNat]; omega
@[simp] theorem opcodeOf_wordFM (op : Nat) (d a : Opnd) (i : BitVec 8) (ho : op < 256) : opcodeOf (wordFM op d a i) = op := by
  have := code_lt d; have := code_lt a; have := i.isLt
  simp only [opcodeOf, wordFM, BitVec.toNat_ofNat]; omega
@[simp] theorem opcodeOf_wordFB (op : Nat) (i : BitVec 24) (ho : op < 256) : opcodeOf (wordFB op i) = op := by
  have := i.isLt
  simp only [opcodeOf, wordFB, BitVec.toNat_ofNat]; omega
@[simp] theorem opcodeOf_wordT3 (op : Nat) (t : BitVec 8) (a b : Opnd) (ho : op < 256) : opcodeOf (wordT3 op t a b) = op := by
  have := t.isLt; have := code_lt a; have := code_lt b
  simp only [opcodeOf, wordT3, BitVec.toNat_ofNat]; omega
@[simp] theorem opcodeOf_wordM3 (op : Nat) (d : Opnd) (x y : BitVec 8) (ho : op < 256) : opcodeOf (wordM3 op d x y) = op := by
  have := code_lt d; have := x.isLt; have := y.isLt
  simp only [opcodeOf, wordM3, BitVec.toNat_ofNat]; omega

theorem opnd_of_nat (o : Opnd) (n : Nat) (h : n % 256 = o.code) : Opnd.ofCode (BitVec.ofNat 8 n) = o := by
  have := code_lt o
  have e : BitVec.ofNat 8 n = BitVec.ofNat 8 o.code := by
    apply BitVec.eq_of_toNat_eq; simp only [BitVec.toNat_ofNat]; omega
  rw [e, ofCode_code]

theorem bits8_of_nat (x : BitVec 8) (n : Nat) (h : n % 256 = x.toNat) : BitVec.ofNat 8 n = x := by
  apply BitVec.eq_of_toNat_eq; simp only [BitVec.toNat_ofNat]; omega

@[simp] theorem opndD_wordF3 (op : Nat) (d a b : Opnd) : opndD (wordF3 op d a b) = d := by
  have := code_lt d; have := code_lt a; have := code_lt b
  exact opnd_of_nat _ _ (by simp only [wordF3, BitVec.toNat_ofNat]; omega)
@[simp] theorem opndA_wordF3 (op : Nat) (d a b : Opnd) : opndA (wordF3 op d a b) = a := by
  have := code_lt d; have := code_lt a; have := code_lt b
  exact opnd_of_nat _ _ (by simp only [wordF3, BitVec.toNat_ofNat]; omega)
@[simp] theorem opndB_wordF3 (op : Nat) (d a b : Opnd) : opndB (wordF3 op d a b) = b := by
  have := code_lt d; have := code_lt a; have := code_lt b
  exact opnd_of_nat _ _ (by simp only [wordF3, BitVec.toNat_ofNat]; omega)
@[simp] theorem opndD_wordFI (op : Nat) (d : Opnd) (i : BitVec 16) : opndD (wordFI op d i) = d := by
  have := code_lt d; have := i.isLt
  exact opnd_of_nat _ _ (by simp only [wordFI, BitVec.toNat_ofNat]; omega)
@[simp] theorem fieldI_wordFI (op : Nat) (d : Opnd) (i : BitVec 16) : fieldI (wordFI op d i) = i := by
  have := code_lt d; have := i.isLt
  apply BitVec.eq_of_toNat_eq; simp only [fieldI, wordFI, BitVec.toNat_ofNat]; omega
@[simp] theorem opndD_wordFM (op : Nat) (d a : Opnd) (i : BitVec 8) : opndD (wordFM op d a i) = d := by
  have := code_lt d; have := code_lt a; have := i.isLt
  exact opnd_of_nat _ _ (by simp only [wordFM, BitVec.toNat_ofNat]; omega)
@[simp] theorem opndA_wordFM (op : Nat) (d a : Opnd) (i : BitVec 8) : opndA (wordFM op d a i) = a := by
  have := code_lt d; have := code_lt a; have := i.isLt
  exact opnd_of_nat _ _ (by simp only [wordFM, BitVec.toNat_ofNat]; omega)
@[simp] theorem fieldB_wordFM (op : Nat) (d a : Opnd) (i : BitVec 8) : fieldB (wordFM op d a i) = i := by
  have := code_lt d; have := code_lt a; have := i.isLt
  exact bits8_of_nat _ _ (by simp only [wordFM, BitVec.toNat_ofNat]; omega)
@[simp] theorem fieldO_wordFB (op : Nat) (i : BitVec 24) : fieldO (wordFB op i) = i := by
  have := i.isLt
  apply BitVec.eq_of_toNat_eq; simp only [fieldO, wordFB, BitVec.toNat_ofNat]; omega
@[simp] theorem fieldD_wordT3 (op : Nat) (t : BitVec 8) (a b : Opnd) : fieldD (wordT3 op t a b) = t := by
  have := t.isLt; have := code_lt a; have := code_lt b
  exact bits8_of_nat _ _ (by simp only [wordT3, BitVec.toNat_ofNat]; omega)
@[simp] theorem opndA_wordT3 (op : Nat) (t : BitVec 8) (a b : Opnd) : opndA (wordT3 op t a b) = a := by
  have := t.isLt; have := code_lt a; have := code_lt b
  exact opnd_of_nat _ _ (by simp only [wordT3, BitVec.toNat_ofNat]; omega)
@[simp] theorem opndB_wordT3 (op : Nat) (t : BitVec 8) (a b : Opnd) : opndB (wordT3 op t a b) = b := by
  have := t.isLt; have := code_lt a; have := code_lt b
  exact opnd_of_nat _ _ (by simp only [wordT3, BitVec.toNat_ofNat]; omega)
@[simp] theorem opndD_wordM3 (op : Nat) (d : Opnd) (x y : BitVec 8) : opndD (wordM3 op d x y) = d := by
  have := code_lt d; have := x.isLt; have := y.isLt
  exact opnd_of_nat _ _ (by simp only [wordM3, BitVec.toNat_ofNat]; omega)
@[simp] theorem fieldA_wordM3 (op : Nat) (d : Opnd) (x y : BitVec 8) : fieldA (wordM3 op d x y) = x := by
  have := code_lt d; have := x.isLt; have := y.isLt
  exact bits8_of_nat _ _ (by simp only [wordM3, BitVec.toNat_ofNat]; omega)
@[simp] theorem fieldB_wordM3 (op : Nat) (d : Opnd) (x y : BitVec 8) : fieldB (wordM3 op d x y) = y := by
  have := code_lt d; have := x.isLt; have := y.isLt
  exact bits8_of_nat _ _ (by simp only [wordM3, BitVec.toNat_ofNat]; omega)

/-- One word whose opcode is not LI32's decodes to the instruction of that word. -/
theorem decode_one (w : W32) (rest : List W32) (h : opcodeOf w ≠ 0x3E) : decode (w :: rest) = .ok (decodeWord w 0, rest) := by
  simp only [decode, h, if_false]

/-- An unassigned word decodes to itself whatever follows it. -/
theorem decodeWord_unassigned (w : W32) (h : unassignedWord w = true) : decodeWord w 0 = .unassignedOpcode w := by
  simpa [unassignedWord] using h

end Sys2Proof.Laws
end

