-- ==== Sys2Proof/Laws/State.lean ====
section
/-! SUPPORT. What each update of the state changes, field by field: the entry written reads back, every other entry and
every other field stays. -/

namespace Sys2Proof.Machine

set_option Elab.async false

/-! ### setTeam -/

@[simp] theorem setTeam_team (s : State) (i : Nat) (v : Team) : (s.setTeam i v).team i = v := cget_cset_self _ _ _ _
@[simp] theorem setTeam_team_ne (s : State) (i j : Nat) (v : Team) (h : j ≠ i) : (s.setTeam i v).team j = s.team j := cget_cset_ne _ _ _ _ _ h
@[simp] theorem setTeam_crew (s : State) (i j : Nat) (v : Team) : (s.setTeam i v).crew j = s.crew j := rfl
@[simp] theorem setTeam_launch (s : State) (i j : Nat) (v : Team) : (s.setTeam i v).launch j = s.launch j := rfl
@[simp] theorem setTeam_core (s : State) (i j : Nat) (v : Team) : (s.setTeam i v).core j = s.core j := rfl
@[simp] theorem setTeam_ctx (s : State) (i j : Nat) (v : Team) : (s.setTeam i v).ctx j = s.ctx j := rfl
@[simp] theorem setTeam_queue (s : State) (i j : Nat) (v : Team) : (s.setTeam i v).queue j = s.queue j := rfl
@[simp] theorem setTeam_run (s : State) (i j : Nat) (v : Team) : (s.setTeam i v).run j = s.run j := rfl
@[simp] theorem setTeam_coll (s : State) (i j : Nat) (v : Team) : (s.setTeam i v).coll j = s.coll j := rfl
@[simp] theorem setTeam_die (s : State) (i j : Nat) (v : Team) : (s.setTeam i v).die j = s.die j := rfl
@[simp] theorem setTeam_port (s : State) (i j : Nat) (v : Team) : (s.setTeam i v).port j = s.port j := rfl
@[simp] theorem setTeam_cur_field (s : State) (i : Nat) (v : Team) : (s.setTeam i v).cur = s.cur := rfl
@[simp] theorem setTeam_turn_field (s : State) (i : Nat) (v : Team) : (s.setTeam i v).turn = s.turn := rfl
@[simp] theorem setTeam_fresh_field (s : State) (i : Nat) (v : Team) : (s.setTeam i v).fresh = s.fresh := rfl
@[simp] theorem setTeam_order_field (s : State) (i : Nat) (v : Team) : (s.setTeam i v).order = s.order := rfl
@[simp] theorem setTeam_mem_field (s : State) (i : Nat) (v : Team) : (s.setTeam i v).mem = s.mem := rfl
@[simp] theorem setTeam_l2_field (s : State) (i : Nat) (v : Team) : (s.setTeam i v).l2 = s.l2 := rfl
@[simp] theorem setTeam_nearSeed_field (s : State) (i : Nat) (v : Team) : (s.setTeam i v).nearSeed = s.nearSeed := rfl
@[simp] theorem setTeam_poison_field (s : State) (i : Nat) (v : Team) : (s.setTeam i v).poison = s.poison := rfl
@[simp] theorem setTeam_deps_field (s : State) (i : Nat) (v : Team) : (s.setTeam i v).deps = s.deps := rfl
@[simp] theorem setTeam_freezing_field (s : State) (i : Nat) (v : Team) : (s.setTeam i v).freezing = s.freezing := rfl
@[simp] theorem setTeam_tripped_field (s : State) (i : Nat) (v : Team) : (s.setTeam i v).tripped = s.tripped := rfl
@[simp] theorem setTeam_chipId_field (s : State) (i : Nat) (v : Team) : (s.setTeam i v).chipId = s.chipId := rfl
@[simp] theorem setTeam_fabric_field (s : State) (i : Nat) (v : Team) : (s.setTeam i v).fabric = s.fabric := rfl
@[simp] theorem setTeam_irqs_field (s : State) (i : Nat) (v : Team) : (s.setTeam i v).irqs = s.irqs := rfl
@[simp] theorem setTeam_through_field (s : State) (i : Nat) (v : Team) : (s.setTeam i v).through = s.through := rfl
@[simp] theorem setTeam_posted_field (s : State) (i : Nat) (v : Team) : (s.setTeam i v).posted = s.posted := rfl
@[simp] theorem setTeam_stale_field (s : State) (i : Nat) (v : Team) : (s.setTeam i v).stale = s.stale := rfl
@[simp] theorem setTeam_caches_field (s : State) (i : Nat) (v : Team) : (s.setTeam i v).caches = s.caches := rfl
@[simp] theorem setTeam_dies_field (s : State) (i : Nat) (v : Team) : (s.setTeam i v).dies = s.dies := rfl
@[simp] theorem setTeam_links_field (s : State) (i : Nat) (v : Team) : (s.setTeam i v).links = s.links := rfl
@[simp] theorem setTeam_own_field (s : State) (i : Nat) (v : Team) : (s.setTeam i v).own = s.own := rfl
@[simp] theorem setTeam_wire_field (s : State) (i : Nat) (v : Team) : (s.setTeam i v).wire = s.wire := rfl
@[simp] theorem setTeam_linkCycle_field (s : State) (i : Nat) (v : Team) : (s.setTeam i v).linkCycle = s.linkCycle := rfl
@[simp] theorem setTeam_recovery_field (s : State) (i : Nat) (v : Team) : (s.setTeam i v).recovery = s.recovery := rfl
@[simp] theorem setTeam_threadPc_field (s : State) (i : Nat) (v : Team) : (s.setTeam i v).threadPc = s.threadPc := rfl
@[simp] theorem setTeam_scriptorPoison_field (s : State) (i : Nat) (v : Team) : (s.setTeam i v).scriptorPoison = s.scriptorPoison := rfl

/-! ### setCrew -/

@[simp] theorem setCrew_team (s : State) (i j : Nat) (v : Crew) : (s.setCrew i v).team j = s.team j := rfl
@[simp] theorem setCrew_crew (s : State) (i : Nat) (v : Crew) : (s.setCrew i v).crew i = v := cget_cset_self _ _ _ _
@[simp] theorem setCrew_crew_ne (s : State) (i j : Nat) (v : Crew) (h : j ≠ i) : (s.setCrew i v).crew j = s.crew j := cget_cset_ne _ _ _ _ _ h
@[simp] theorem setCrew_launch (s : State) (i j : Nat) (v : Crew) : (s.setCrew i v).launch j = s.launch j := rfl
@[simp] theorem setCrew_core (s : State) (i j : Nat) (v : Crew) : (s.setCrew i v).core j = s.core j := rfl
@[simp] theorem setCrew_ctx (s : State) (i j : Nat) (v : Crew) : (s.setCrew i v).ctx j = s.ctx j := rfl
@[simp] theorem setCrew_queue (s : State) (i j : Nat) (v : Crew) : (s.setCrew i v).queue j = s.queue j := rfl
@[simp] theorem setCrew_run (s : State) (i j : Nat) (v : Crew) : (s.setCrew i v).run j = s.run j := rfl
@[simp] theorem setCrew_coll (s : State) (i j : Nat) (v : Crew) : (s.setCrew i v).coll j = s.coll j := rfl
@[simp] theorem setCrew_die (s : State) (i j : Nat) (v : Crew) : (s.setCrew i v).die j = s.die j := rfl
@[simp] theorem setCrew_port (s : State) (i j : Nat) (v : Crew) : (s.setCrew i v).port j = s.port j := rfl
@[simp] theorem setCrew_cur_field (s : State) (i : Nat) (v : Crew) : (s.setCrew i v).cur = s.cur := rfl
@[simp] theorem setCrew_turn_field (s : State) (i : Nat) (v : Crew) : (s.setCrew i v).turn = s.turn := rfl
@[simp] theorem setCrew_fresh_field (s : State) (i : Nat) (v : Crew) : (s.setCrew i v).fresh = s.fresh := rfl
@[simp] theorem setCrew_order_field (s : State) (i : Nat) (v : Crew) : (s.setCrew i v).order = s.order := rfl
@[simp] theorem setCrew_mem_field (s : State) (i : Nat) (v : Crew) : (s.setCrew i v).mem = s.mem := rfl
@[simp] theorem setCrew_l2_field (s : State) (i : Nat) (v : Crew) : (s.setCrew i v).l2 = s.l2 := rfl
@[simp] theorem setCrew_nearSeed_field (s : State) (i : Nat) (v : Crew) : (s.setCrew i v).nearSeed = s.nearSeed := rfl
@[simp] theorem setCrew_poison_field (s : State) (i : Nat) (v : Crew) : (s.setCrew i v).poison = s.poison := rfl
@[simp] theorem setCrew_deps_field (s : State) (i : Nat) (v : Crew) : (s.setCrew i v).deps = s.deps := rfl
@[simp] theorem setCrew_freezing_field (s : State) (i : Nat) (v : Crew) : (s.setCrew i v).freezing = s.freezing := rfl
@[simp] theorem setCrew_tripped_field (s : State) (i : Nat) (v : Crew) : (s.setCrew i v).tripped = s.tripped := rfl
@[simp] theorem setCrew_chipId_field (s : State) (i : Nat) (v : Crew) : (s.setCrew i v).chipId = s.chipId := rfl
@[simp] theorem setCrew_fabric_field (s : State) (i : Nat) (v : Crew) : (s.setCrew i v).fabric = s.fabric := rfl
@[simp] theorem setCrew_irqs_field (s : State) (i : Nat) (v : Crew) : (s.setCrew i v).irqs = s.irqs := rfl
@[simp] theorem setCrew_through_field (s : State) (i : Nat) (v : Crew) : (s.setCrew i v).through = s.through := rfl
@[simp] theorem setCrew_posted_field (s : State) (i : Nat) (v : Crew) : (s.setCrew i v).posted = s.posted := rfl
@[simp] theorem setCrew_stale_field (s : State) (i : Nat) (v : Crew) : (s.setCrew i v).stale = s.stale := rfl
@[simp] theorem setCrew_caches_field (s : State) (i : Nat) (v : Crew) : (s.setCrew i v).caches = s.caches := rfl
@[simp] theorem setCrew_dies_field (s : State) (i : Nat) (v : Crew) : (s.setCrew i v).dies = s.dies := rfl
@[simp] theorem setCrew_links_field (s : State) (i : Nat) (v : Crew) : (s.setCrew i v).links = s.links := rfl
@[simp] theorem setCrew_own_field (s : State) (i : Nat) (v : Crew) : (s.setCrew i v).own = s.own := rfl
@[simp] theorem setCrew_wire_field (s : State) (i : Nat) (v : Crew) : (s.setCrew i v).wire = s.wire := rfl
@[simp] theorem setCrew_linkCycle_field (s : State) (i : Nat) (v : Crew) : (s.setCrew i v).linkCycle = s.linkCycle := rfl
@[simp] theorem setCrew_recovery_field (s : State) (i : Nat) (v : Crew) : (s.setCrew i v).recovery = s.recovery := rfl
@[simp] theorem setCrew_threadPc_field (s : State) (i : Nat) (v : Crew) : (s.setCrew i v).threadPc = s.threadPc := rfl
@[simp] theorem setCrew_scriptorPoison_field (s : State) (i : Nat) (v : Crew) : (s.setCrew i v).scriptorPoison = s.scriptorPoison := rfl

/-! ### setLaunch -/

@[simp] theorem setLaunch_team (s : State) (i j : Nat) (v : Launch) : (s.setLaunch i v).team j = s.team j := rfl
@[simp] theorem setLaunch_crew (s : State) (i j : Nat) (v : Launch) : (s.setLaunch i v).crew j = s.crew j := rfl
@[simp] theorem setLaunch_launch (s : State) (i : Nat) (v : Launch) : (s.setLaunch i v).launch i = v := cget_cset_self _ _ _ _
@[simp] theorem setLaunch_launch_ne (s : State) (i j : Nat) (v : Launch) (h : j ≠ i) : (s.setLaunch i v).launch j = s.launch j := cget_cset_ne _ _ _ _ _ h
@[simp] theorem setLaunch_core (s : State) (i j : Nat) (v : Launch) : (s.setLaunch i v).core j = s.core j := rfl
@[simp] theorem setLaunch_ctx (s : State) (i j : Nat) (v : Launch) : (s.setLaunch i v).ctx j = s.ctx j := rfl
@[simp] theorem setLaunch_queue (s : State) (i j : Nat) (v : Launch) : (s.setLaunch i v).queue j = s.queue j := rfl
@[simp] theorem setLaunch_run (s : State) (i j : Nat) (v : Launch) : (s.setLaunch i v).run j = s.run j := rfl
@[simp] theorem setLaunch_coll (s : State) (i j : Nat) (v : Launch) : (s.setLaunch i v).coll j = s.coll j := rfl
@[simp] theorem setLaunch_die (s : State) (i j : Nat) (v : Launch) : (s.setLaunch i v).die j = s.die j := rfl
@[simp] theorem setLaunch_port (s : State) (i j : Nat) (v : Launch) : (s.setLaunch i v).port j = s.port j := rfl
@[simp] theorem setLaunch_cur_field (s : State) (i : Nat) (v : Launch) : (s.setLaunch i v).cur = s.cur := rfl
@[simp] theorem setLaunch_turn_field (s : State) (i : Nat) (v : Launch) : (s.setLaunch i v).turn = s.turn := rfl
@[simp] theorem setLaunch_fresh_field (s : State) (i : Nat) (v : Launch) : (s.setLaunch i v).fresh = s.fresh := rfl
@[simp] theorem setLaunch_order_field (s : State) (i : Nat) (v : Launch) : (s.setLaunch i v).order = s.order := rfl
@[simp] theorem setLaunch_mem_field (s : State) (i : Nat) (v : Launch) : (s.setLaunch i v).mem = s.mem := rfl
@[simp] theorem setLaunch_l2_field (s : State) (i : Nat) (v : Launch) : (s.setLaunch i v).l2 = s.l2 := rfl
@[simp] theorem setLaunch_nearSeed_field (s : State) (i : Nat) (v : Launch) : (s.setLaunch i v).nearSeed = s.nearSeed := rfl
@[simp] theorem setLaunch_poison_field (s : State) (i : Nat) (v : Launch) : (s.setLaunch i v).poison = s.poison := rfl
@[simp] theorem setLaunch_deps_field (s : State) (i : Nat) (v : Launch) : (s.setLaunch i v).deps = s.deps := rfl
@[simp] theorem setLaunch_freezing_field (s : State) (i : Nat) (v : Launch) : (s.setLaunch i v).freezing = s.freezing := rfl
@[simp] theorem setLaunch_tripped_field (s : State) (i : Nat) (v : Launch) : (s.setLaunch i v).tripped = s.tripped := rfl
@[simp] theorem setLaunch_chipId_field (s : State) (i : Nat) (v : Launch) : (s.setLaunch i v).chipId = s.chipId := rfl
@[simp] theorem setLaunch_fabric_field (s : State) (i : Nat) (v : Launch) : (s.setLaunch i v).fabric = s.fabric := rfl
@[simp] theorem setLaunch_irqs_field (s : State) (i : Nat) (v : Launch) : (s.setLaunch i v).irqs = s.irqs := rfl
@[simp] theorem setLaunch_through_field (s : State) (i : Nat) (v : Launch) : (s.setLaunch i v).through = s.through := rfl
@[simp] theorem setLaunch_posted_field (s : State) (i : Nat) (v : Launch) : (s.setLaunch i v).posted = s.posted := rfl
@[simp] theorem setLaunch_stale_field (s : State) (i : Nat) (v : Launch) : (s.setLaunch i v).stale = s.stale := rfl
@[simp] theorem setLaunch_caches_field (s : State) (i : Nat) (v : Launch) : (s.setLaunch i v).caches = s.caches := rfl
@[simp] theorem setLaunch_dies_field (s : State) (i : Nat) (v : Launch) : (s.setLaunch i v).dies = s.dies := rfl
@[simp] theorem setLaunch_links_field (s : State) (i : Nat) (v : Launch) : (s.setLaunch i v).links = s.links := rfl
@[simp] theorem setLaunch_own_field (s : State) (i : Nat) (v : Launch) : (s.setLaunch i v).own = s.own := rfl
@[simp] theorem setLaunch_wire_field (s : State) (i : Nat) (v : Launch) : (s.setLaunch i v).wire = s.wire := rfl
@[simp] theorem setLaunch_linkCycle_field (s : State) (i : Nat) (v : Launch) : (s.setLaunch i v).linkCycle = s.linkCycle := rfl
@[simp] theorem setLaunch_recovery_field (s : State) (i : Nat) (v : Launch) : (s.setLaunch i v).recovery = s.recovery := rfl
@[simp] theorem setLaunch_threadPc_field (s : State) (i : Nat) (v : Launch) : (s.setLaunch i v).threadPc = s.threadPc := rfl
@[simp] theorem setLaunch_scriptorPoison_field (s : State) (i : Nat) (v : Launch) : (s.setLaunch i v).scriptorPoison = s.scriptorPoison := rfl

/-! ### setCore -/

@[simp] theorem setCore_team (s : State) (i j : Nat) (v : Core) : (s.setCore i v).team j = s.team j := rfl
@[simp] theorem setCore_crew (s : State) (i j : Nat) (v : Core) : (s.setCore i v).crew j = s.crew j := rfl
@[simp] theorem setCore_launch (s : State) (i j : Nat) (v : Core) : (s.setCore i v).launch j = s.launch j := rfl
@[simp] theorem setCore_core (s : State) (i : Nat) (v : Core) : (s.setCore i v).core i = v := cget_cset_self _ _ _ _
@[simp] theorem setCore_core_ne (s : State) (i j : Nat) (v : Core) (h : j ≠ i) : (s.setCore i v).core j = s.core j := cget_cset_ne _ _ _ _ _ h
@[simp] theorem setCore_ctx (s : State) (i j : Nat) (v : Core) : (s.setCore i v).ctx j = s.ctx j := rfl
@[simp] theorem setCore_queue (s : State) (i j : Nat) (v : Core) : (s.setCore i v).queue j = s.queue j := rfl
@[simp] theorem setCore_run (s : State) (i j : Nat) (v : Core) : (s.setCore i v).run j = s.run j := rfl
@[simp] theorem setCore_coll (s : State) (i j : Nat) (v : Core) : (s.setCore i v).coll j = s.coll j := rfl
@[simp] theorem setCore_die (s : State) (i j : Nat) (v : Core) : (s.setCore i v).die j = s.die j := rfl
@[simp] theorem setCore_port (s : State) (i j : Nat) (v : Core) : (s.setCore i v).port j = s.port j := rfl
@[simp] theorem setCore_cur_field (s : State) (i : Nat) (v : Core) : (s.setCore i v).cur = s.cur := rfl
@[simp] theorem setCore_turn_field (s : State) (i : Nat) (v : Core) : (s.setCore i v).turn = s.turn := rfl
@[simp] theorem setCore_fresh_field (s : State) (i : Nat) (v : Core) : (s.setCore i v).fresh = s.fresh := rfl
@[simp] theorem setCore_order_field (s : State) (i : Nat) (v : Core) : (s.setCore i v).order = s.order := rfl
@[simp] theorem setCore_mem_field (s : State) (i : Nat) (v : Core) : (s.setCore i v).mem = s.mem := rfl
@[simp] theorem setCore_l2_field (s : State) (i : Nat) (v : Core) : (s.setCore i v).l2 = s.l2 := rfl
@[simp] theorem setCore_nearSeed_field (s : State) (i : Nat) (v : Core) : (s.setCore i v).nearSeed = s.nearSeed := rfl
@[simp] theorem setCore_poison_field (s : State) (i : Nat) (v : Core) : (s.setCore i v).poison = s.poison := rfl
@[simp] theorem setCore_deps_field (s : State) (i : Nat) (v : Core) : (s.setCore i v).deps = s.deps := rfl
@[simp] theorem setCore_freezing_field (s : State) (i : Nat) (v : Core) : (s.setCore i v).freezing = s.freezing := rfl
@[simp] theorem setCore_tripped_field (s : State) (i : Nat) (v : Core) : (s.setCore i v).tripped = s.tripped := rfl
@[simp] theorem setCore_chipId_field (s : State) (i : Nat) (v : Core) : (s.setCore i v).chipId = s.chipId := rfl
@[simp] theorem setCore_fabric_field (s : State) (i : Nat) (v : Core) : (s.setCore i v).fabric = s.fabric := rfl
@[simp] theorem setCore_irqs_field (s : State) (i : Nat) (v : Core) : (s.setCore i v).irqs = s.irqs := rfl
@[simp] theorem setCore_through_field (s : State) (i : Nat) (v : Core) : (s.setCore i v).through = s.through := rfl
@[simp] theorem setCore_posted_field (s : State) (i : Nat) (v : Core) : (s.setCore i v).posted = s.posted := rfl
@[simp] theorem setCore_stale_field (s : State) (i : Nat) (v : Core) : (s.setCore i v).stale = s.stale := rfl
@[simp] theorem setCore_caches_field (s : State) (i : Nat) (v : Core) : (s.setCore i v).caches = s.caches := rfl
@[simp] theorem setCore_dies_field (s : State) (i : Nat) (v : Core) : (s.setCore i v).dies = s.dies := rfl
@[simp] theorem setCore_links_field (s : State) (i : Nat) (v : Core) : (s.setCore i v).links = s.links := rfl
@[simp] theorem setCore_own_field (s : State) (i : Nat) (v : Core) : (s.setCore i v).own = s.own := rfl
@[simp] theorem setCore_wire_field (s : State) (i : Nat) (v : Core) : (s.setCore i v).wire = s.wire := rfl
@[simp] theorem setCore_linkCycle_field (s : State) (i : Nat) (v : Core) : (s.setCore i v).linkCycle = s.linkCycle := rfl
@[simp] theorem setCore_recovery_field (s : State) (i : Nat) (v : Core) : (s.setCore i v).recovery = s.recovery := rfl
@[simp] theorem setCore_threadPc_field (s : State) (i : Nat) (v : Core) : (s.setCore i v).threadPc = s.threadPc := rfl
@[simp] theorem setCore_scriptorPoison_field (s : State) (i : Nat) (v : Core) : (s.setCore i v).scriptorPoison = s.scriptorPoison := rfl

/-! ### setCtx -/

@[simp] theorem setCtx_team (s : State) (i j : Nat) (v : Ctx) : (s.setCtx i v).team j = s.team j := rfl
@[simp] theorem setCtx_crew (s : State) (i j : Nat) (v : Ctx) : (s.setCtx i v).crew j = s.crew j := rfl
@[simp] theorem setCtx_launch (s : State) (i j : Nat) (v : Ctx) : (s.setCtx i v).launch j = s.launch j := rfl
@[simp] theorem setCtx_core (s : State) (i j : Nat) (v : Ctx) : (s.setCtx i v).core j = s.core j := rfl
@[simp] theorem setCtx_ctx (s : State) (i : Nat) (v : Ctx) : (s.setCtx i v).ctx i = v := cget_cset_self _ _ _ _
@[simp] theorem setCtx_ctx_ne (s : State) (i j : Nat) (v : Ctx) (h : j ≠ i) : (s.setCtx i v).ctx j = s.ctx j := cget_cset_ne _ _ _ _ _ h
@[simp] theorem setCtx_queue (s : State) (i j : Nat) (v : Ctx) : (s.setCtx i v).queue j = s.queue j := rfl
@[simp] theorem setCtx_run (s : State) (i j : Nat) (v : Ctx) : (s.setCtx i v).run j = s.run j := rfl
@[simp] theorem setCtx_coll (s : State) (i j : Nat) (v : Ctx) : (s.setCtx i v).coll j = s.coll j := rfl
@[simp] theorem setCtx_die (s : State) (i j : Nat) (v : Ctx) : (s.setCtx i v).die j = s.die j := rfl
@[simp] theorem setCtx_port (s : State) (i j : Nat) (v : Ctx) : (s.setCtx i v).port j = s.port j := rfl
@[simp] theorem setCtx_cur_field (s : State) (i : Nat) (v : Ctx) : (s.setCtx i v).cur = s.cur := rfl
@[simp] theorem setCtx_turn_field (s : State) (i : Nat) (v : Ctx) : (s.setCtx i v).turn = s.turn := rfl
@[simp] theorem setCtx_fresh_field (s : State) (i : Nat) (v : Ctx) : (s.setCtx i v).fresh = s.fresh := rfl
@[simp] theorem setCtx_order_field (s : State) (i : Nat) (v : Ctx) : (s.setCtx i v).order = s.order := rfl
@[simp] theorem setCtx_mem_field (s : State) (i : Nat) (v : Ctx) : (s.setCtx i v).mem = s.mem := rfl
@[simp] theorem setCtx_l2_field (s : State) (i : Nat) (v : Ctx) : (s.setCtx i v).l2 = s.l2 := rfl
@[simp] theorem setCtx_nearSeed_field (s : State) (i : Nat) (v : Ctx) : (s.setCtx i v).nearSeed = s.nearSeed := rfl
@[simp] theorem setCtx_poison_field (s : State) (i : Nat) (v : Ctx) : (s.setCtx i v).poison = s.poison := rfl
@[simp] theorem setCtx_deps_field (s : State) (i : Nat) (v : Ctx) : (s.setCtx i v).deps = s.deps := rfl
@[simp] theorem setCtx_freezing_field (s : State) (i : Nat) (v : Ctx) : (s.setCtx i v).freezing = s.freezing := rfl
@[simp] theorem setCtx_tripped_field (s : State) (i : Nat) (v : Ctx) : (s.setCtx i v).tripped = s.tripped := rfl
@[simp] theorem setCtx_chipId_field (s : State) (i : Nat) (v : Ctx) : (s.setCtx i v).chipId = s.chipId := rfl
@[simp] theorem setCtx_fabric_field (s : State) (i : Nat) (v : Ctx) : (s.setCtx i v).fabric = s.fabric := rfl
@[simp] theorem setCtx_irqs_field (s : State) (i : Nat) (v : Ctx) : (s.setCtx i v).irqs = s.irqs := rfl
@[simp] theorem setCtx_through_field (s : State) (i : Nat) (v : Ctx) : (s.setCtx i v).through = s.through := rfl
@[simp] theorem setCtx_posted_field (s : State) (i : Nat) (v : Ctx) : (s.setCtx i v).posted = s.posted := rfl
@[simp] theorem setCtx_stale_field (s : State) (i : Nat) (v : Ctx) : (s.setCtx i v).stale = s.stale := rfl
@[simp] theorem setCtx_caches_field (s : State) (i : Nat) (v : Ctx) : (s.setCtx i v).caches = s.caches := rfl
@[simp] theorem setCtx_dies_field (s : State) (i : Nat) (v : Ctx) : (s.setCtx i v).dies = s.dies := rfl
@[simp] theorem setCtx_links_field (s : State) (i : Nat) (v : Ctx) : (s.setCtx i v).links = s.links := rfl
@[simp] theorem setCtx_own_field (s : State) (i : Nat) (v : Ctx) : (s.setCtx i v).own = s.own := rfl
@[simp] theorem setCtx_wire_field (s : State) (i : Nat) (v : Ctx) : (s.setCtx i v).wire = s.wire := rfl
@[simp] theorem setCtx_linkCycle_field (s : State) (i : Nat) (v : Ctx) : (s.setCtx i v).linkCycle = s.linkCycle := rfl
@[simp] theorem setCtx_recovery_field (s : State) (i : Nat) (v : Ctx) : (s.setCtx i v).recovery = s.recovery := rfl
@[simp] theorem setCtx_threadPc_field (s : State) (i : Nat) (v : Ctx) : (s.setCtx i v).threadPc = s.threadPc := rfl
@[simp] theorem setCtx_scriptorPoison_field (s : State) (i : Nat) (v : Ctx) : (s.setCtx i v).scriptorPoison = s.scriptorPoison := rfl

/-! ### setQueue -/

@[simp] theorem setQueue_team (s : State) (i j : Nat) (v : Queue) : (s.setQueue i v).team j = s.team j := rfl
@[simp] theorem setQueue_crew (s : State) (i j : Nat) (v : Queue) : (s.setQueue i v).crew j = s.crew j := rfl
@[simp] theorem setQueue_launch (s : State) (i j : Nat) (v : Queue) : (s.setQueue i v).launch j = s.launch j := rfl
@[simp] theorem setQueue_core (s : State) (i j : Nat) (v : Queue) : (s.setQueue i v).core j = s.core j := rfl
@[simp] theorem setQueue_ctx (s : State) (i j : Nat) (v : Queue) : (s.setQueue i v).ctx j = s.ctx j := rfl
@[simp] theorem setQueue_queue (s : State) (i : Nat) (v : Queue) : (s.setQueue i v).queue i = v := cget_cset_self _ _ _ _
@[simp] theorem setQueue_queue_ne (s : State) (i j : Nat) (v : Queue) (h : j ≠ i) : (s.setQueue i v).queue j = s.queue j := cget_cset_ne _ _ _ _ _ h
@[simp] theorem setQueue_run (s : State) (i j : Nat) (v : Queue) : (s.setQueue i v).run j = s.run j := rfl
@[simp] theorem setQueue_coll (s : State) (i j : Nat) (v : Queue) : (s.setQueue i v).coll j = s.coll j := rfl
@[simp] theorem setQueue_die (s : State) (i j : Nat) (v : Queue) : (s.setQueue i v).die j = s.die j := rfl
@[simp] theorem setQueue_port (s : State) (i j : Nat) (v : Queue) : (s.setQueue i v).port j = s.port j := rfl
@[simp] theorem setQueue_cur_field (s : State) (i : Nat) (v : Queue) : (s.setQueue i v).cur = s.cur := rfl
@[simp] theorem setQueue_turn_field (s : State) (i : Nat) (v : Queue) : (s.setQueue i v).turn = s.turn := rfl
@[simp] theorem setQueue_fresh_field (s : State) (i : Nat) (v : Queue) : (s.setQueue i v).fresh = s.fresh := rfl
@[simp] theorem setQueue_order_field (s : State) (i : Nat) (v : Queue) : (s.setQueue i v).order = s.order := rfl
@[simp] theorem setQueue_mem_field (s : State) (i : Nat) (v : Queue) : (s.setQueue i v).mem = s.mem := rfl
@[simp] theorem setQueue_l2_field (s : State) (i : Nat) (v : Queue) : (s.setQueue i v).l2 = s.l2 := rfl
@[simp] theorem setQueue_nearSeed_field (s : State) (i : Nat) (v : Queue) : (s.setQueue i v).nearSeed = s.nearSeed := rfl
@[simp] theorem setQueue_poison_field (s : State) (i : Nat) (v : Queue) : (s.setQueue i v).poison = s.poison := rfl
@[simp] theorem setQueue_deps_field (s : State) (i : Nat) (v : Queue) : (s.setQueue i v).deps = s.deps := rfl
@[simp] theorem setQueue_freezing_field (s : State) (i : Nat) (v : Queue) : (s.setQueue i v).freezing = s.freezing := rfl
@[simp] theorem setQueue_tripped_field (s : State) (i : Nat) (v : Queue) : (s.setQueue i v).tripped = s.tripped := rfl
@[simp] theorem setQueue_chipId_field (s : State) (i : Nat) (v : Queue) : (s.setQueue i v).chipId = s.chipId := rfl
@[simp] theorem setQueue_fabric_field (s : State) (i : Nat) (v : Queue) : (s.setQueue i v).fabric = s.fabric := rfl
@[simp] theorem setQueue_irqs_field (s : State) (i : Nat) (v : Queue) : (s.setQueue i v).irqs = s.irqs := rfl
@[simp] theorem setQueue_through_field (s : State) (i : Nat) (v : Queue) : (s.setQueue i v).through = s.through := rfl
@[simp] theorem setQueue_posted_field (s : State) (i : Nat) (v : Queue) : (s.setQueue i v).posted = s.posted := rfl
@[simp] theorem setQueue_stale_field (s : State) (i : Nat) (v : Queue) : (s.setQueue i v).stale = s.stale := rfl
@[simp] theorem setQueue_caches_field (s : State) (i : Nat) (v : Queue) : (s.setQueue i v).caches = s.caches := rfl
@[simp] theorem setQueue_dies_field (s : State) (i : Nat) (v : Queue) : (s.setQueue i v).dies = s.dies := rfl
@[simp] theorem setQueue_links_field (s : State) (i : Nat) (v : Queue) : (s.setQueue i v).links = s.links := rfl
@[simp] theorem setQueue_own_field (s : State) (i : Nat) (v : Queue) : (s.setQueue i v).own = s.own := rfl
@[simp] theorem setQueue_wire_field (s : State) (i : Nat) (v : Queue) : (s.setQueue i v).wire = s.wire := rfl
@[simp] theorem setQueue_linkCycle_field (s : State) (i : Nat) (v : Queue) : (s.setQueue i v).linkCycle = s.linkCycle := rfl
@[simp] theorem setQueue_recovery_field (s : State) (i : Nat) (v : Queue) : (s.setQueue i v).recovery = s.recovery := rfl
@[simp] theorem setQueue_threadPc_field (s : State) (i : Nat) (v : Queue) : (s.setQueue i v).threadPc = s.threadPc := rfl
@[simp] theorem setQueue_scriptorPoison_field (s : State) (i : Nat) (v : Queue) : (s.setQueue i v).scriptorPoison = s.scriptorPoison := rfl

/-! ### setRun -/

@[simp] theorem setRun_team (s : State) (i j : Nat) (v : DxRun) : (s.setRun i v).team j = s.team j := rfl
@[simp] theorem setRun_crew (s : State) (i j : Nat) (v : DxRun) : (s.setRun i v).crew j = s.crew j := rfl
@[simp] theorem setRun_launch (s : State) (i j : Nat) (v : DxRun) : (s.setRun i v).launch j = s.launch j := rfl
@[simp] theorem setRun_core (s : State) (i j : Nat) (v : DxRun) : (s.setRun i v).core j = s.core j := rfl
@[simp] theorem setRun_ctx (s : State) (i j : Nat) (v : DxRun) : (s.setRun i v).ctx j = s.ctx j := rfl
@[simp] theorem setRun_queue (s : State) (i j : Nat) (v : DxRun) : (s.setRun i v).queue j = s.queue j := rfl
@[simp] theorem setRun_run (s : State) (i : Nat) (v : DxRun) : (s.setRun i v).run i = v := cget_cset_self _ _ _ _
@[simp] theorem setRun_run_ne (s : State) (i j : Nat) (v : DxRun) (h : j ≠ i) : (s.setRun i v).run j = s.run j := cget_cset_ne _ _ _ _ _ h
@[simp] theorem setRun_coll (s : State) (i j : Nat) (v : DxRun) : (s.setRun i v).coll j = s.coll j := rfl
@[simp] theorem setRun_die (s : State) (i j : Nat) (v : DxRun) : (s.setRun i v).die j = s.die j := rfl
@[simp] theorem setRun_port (s : State) (i j : Nat) (v : DxRun) : (s.setRun i v).port j = s.port j := rfl
@[simp] theorem setRun_cur_field (s : State) (i : Nat) (v : DxRun) : (s.setRun i v).cur = s.cur := rfl
@[simp] theorem setRun_turn_field (s : State) (i : Nat) (v : DxRun) : (s.setRun i v).turn = s.turn := rfl
@[simp] theorem setRun_fresh_field (s : State) (i : Nat) (v : DxRun) : (s.setRun i v).fresh = s.fresh := rfl
@[simp] theorem setRun_order_field (s : State) (i : Nat) (v : DxRun) : (s.setRun i v).order = s.order := rfl
@[simp] theorem setRun_mem_field (s : State) (i : Nat) (v : DxRun) : (s.setRun i v).mem = s.mem := rfl
@[simp] theorem setRun_l2_field (s : State) (i : Nat) (v : DxRun) : (s.setRun i v).l2 = s.l2 := rfl
@[simp] theorem setRun_nearSeed_field (s : State) (i : Nat) (v : DxRun) : (s.setRun i v).nearSeed = s.nearSeed := rfl
@[simp] theorem setRun_poison_field (s : State) (i : Nat) (v : DxRun) : (s.setRun i v).poison = s.poison := rfl
@[simp] theorem setRun_deps_field (s : State) (i : Nat) (v : DxRun) : (s.setRun i v).deps = s.deps := rfl
@[simp] theorem setRun_freezing_field (s : State) (i : Nat) (v : DxRun) : (s.setRun i v).freezing = s.freezing := rfl
@[simp] theorem setRun_tripped_field (s : State) (i : Nat) (v : DxRun) : (s.setRun i v).tripped = s.tripped := rfl
@[simp] theorem setRun_chipId_field (s : State) (i : Nat) (v : DxRun) : (s.setRun i v).chipId = s.chipId := rfl
@[simp] theorem setRun_fabric_field (s : State) (i : Nat) (v : DxRun) : (s.setRun i v).fabric = s.fabric := rfl
@[simp] theorem setRun_irqs_field (s : State) (i : Nat) (v : DxRun) : (s.setRun i v).irqs = s.irqs := rfl
@[simp] theorem setRun_through_field (s : State) (i : Nat) (v : DxRun) : (s.setRun i v).through = s.through := rfl
@[simp] theorem setRun_posted_field (s : State) (i : Nat) (v : DxRun) : (s.setRun i v).posted = s.posted := rfl
@[simp] theorem setRun_stale_field (s : State) (i : Nat) (v : DxRun) : (s.setRun i v).stale = s.stale := rfl
@[simp] theorem setRun_caches_field (s : State) (i : Nat) (v : DxRun) : (s.setRun i v).caches = s.caches := rfl
@[simp] theorem setRun_dies_field (s : State) (i : Nat) (v : DxRun) : (s.setRun i v).dies = s.dies := rfl
@[simp] theorem setRun_links_field (s : State) (i : Nat) (v : DxRun) : (s.setRun i v).links = s.links := rfl
@[simp] theorem setRun_own_field (s : State) (i : Nat) (v : DxRun) : (s.setRun i v).own = s.own := rfl
@[simp] theorem setRun_wire_field (s : State) (i : Nat) (v : DxRun) : (s.setRun i v).wire = s.wire := rfl
@[simp] theorem setRun_linkCycle_field (s : State) (i : Nat) (v : DxRun) : (s.setRun i v).linkCycle = s.linkCycle := rfl
@[simp] theorem setRun_recovery_field (s : State) (i : Nat) (v : DxRun) : (s.setRun i v).recovery = s.recovery := rfl
@[simp] theorem setRun_threadPc_field (s : State) (i : Nat) (v : DxRun) : (s.setRun i v).threadPc = s.threadPc := rfl
@[simp] theorem setRun_scriptorPoison_field (s : State) (i : Nat) (v : DxRun) : (s.setRun i v).scriptorPoison = s.scriptorPoison := rfl

/-! ### setColl -/

@[simp] theorem setColl_team (s : State) (i j : Nat) (v : Coll) : (s.setColl i v).team j = s.team j := rfl
@[simp] theorem setColl_crew (s : State) (i j : Nat) (v : Coll) : (s.setColl i v).crew j = s.crew j := rfl
@[simp] theorem setColl_launch (s : State) (i j : Nat) (v : Coll) : (s.setColl i v).launch j = s.launch j := rfl
@[simp] theorem setColl_core (s : State) (i j : Nat) (v : Coll) : (s.setColl i v).core j = s.core j := rfl
@[simp] theorem setColl_ctx (s : State) (i j : Nat) (v : Coll) : (s.setColl i v).ctx j = s.ctx j := rfl
@[simp] theorem setColl_queue (s : State) (i j : Nat) (v : Coll) : (s.setColl i v).queue j = s.queue j := rfl
@[simp] theorem setColl_run (s : State) (i j : Nat) (v : Coll) : (s.setColl i v).run j = s.run j := rfl
@[simp] theorem setColl_coll (s : State) (i : Nat) (v : Coll) : (s.setColl i v).coll i = v := cget_cset_self _ _ _ _
@[simp] theorem setColl_coll_ne (s : State) (i j : Nat) (v : Coll) (h : j ≠ i) : (s.setColl i v).coll j = s.coll j := cget_cset_ne _ _ _ _ _ h
@[simp] theorem setColl_die (s : State) (i j : Nat) (v : Coll) : (s.setColl i v).die j = s.die j := rfl
@[simp] theorem setColl_port (s : State) (i j : Nat) (v : Coll) : (s.setColl i v).port j = s.port j := rfl
@[simp] theorem setColl_cur_field (s : State) (i : Nat) (v : Coll) : (s.setColl i v).cur = s.cur := rfl
@[simp] theorem setColl_turn_field (s : State) (i : Nat) (v : Coll) : (s.setColl i v).turn = s.turn := rfl
@[simp] theorem setColl_fresh_field (s : State) (i : Nat) (v : Coll) : (s.setColl i v).fresh = s.fresh := rfl
@[simp] theorem setColl_order_field (s : State) (i : Nat) (v : Coll) : (s.setColl i v).order = s.order := rfl
@[simp] theorem setColl_mem_field (s : State) (i : Nat) (v : Coll) : (s.setColl i v).mem = s.mem := rfl
@[simp] theorem setColl_l2_field (s : State) (i : Nat) (v : Coll) : (s.setColl i v).l2 = s.l2 := rfl
@[simp] theorem setColl_nearSeed_field (s : State) (i : Nat) (v : Coll) : (s.setColl i v).nearSeed = s.nearSeed := rfl
@[simp] theorem setColl_poison_field (s : State) (i : Nat) (v : Coll) : (s.setColl i v).poison = s.poison := rfl
@[simp] theorem setColl_deps_field (s : State) (i : Nat) (v : Coll) : (s.setColl i v).deps = s.deps := rfl
@[simp] theorem setColl_freezing_field (s : State) (i : Nat) (v : Coll) : (s.setColl i v).freezing = s.freezing := rfl
@[simp] theorem setColl_tripped_field (s : State) (i : Nat) (v : Coll) : (s.setColl i v).tripped = s.tripped := rfl
@[simp] theorem setColl_chipId_field (s : State) (i : Nat) (v : Coll) : (s.setColl i v).chipId = s.chipId := rfl
@[simp] theorem setColl_fabric_field (s : State) (i : Nat) (v : Coll) : (s.setColl i v).fabric = s.fabric := rfl
@[simp] theorem setColl_irqs_field (s : State) (i : Nat) (v : Coll) : (s.setColl i v).irqs = s.irqs := rfl
@[simp] theorem setColl_through_field (s : State) (i : Nat) (v : Coll) : (s.setColl i v).through = s.through := rfl
@[simp] theorem setColl_posted_field (s : State) (i : Nat) (v : Coll) : (s.setColl i v).posted = s.posted := rfl
@[simp] theorem setColl_stale_field (s : State) (i : Nat) (v : Coll) : (s.setColl i v).stale = s.stale := rfl
@[simp] theorem setColl_caches_field (s : State) (i : Nat) (v : Coll) : (s.setColl i v).caches = s.caches := rfl
@[simp] theorem setColl_dies_field (s : State) (i : Nat) (v : Coll) : (s.setColl i v).dies = s.dies := rfl
@[simp] theorem setColl_links_field (s : State) (i : Nat) (v : Coll) : (s.setColl i v).links = s.links := rfl
@[simp] theorem setColl_own_field (s : State) (i : Nat) (v : Coll) : (s.setColl i v).own = s.own := rfl
@[simp] theorem setColl_wire_field (s : State) (i : Nat) (v : Coll) : (s.setColl i v).wire = s.wire := rfl
@[simp] theorem setColl_linkCycle_field (s : State) (i : Nat) (v : Coll) : (s.setColl i v).linkCycle = s.linkCycle := rfl
@[simp] theorem setColl_recovery_field (s : State) (i : Nat) (v : Coll) : (s.setColl i v).recovery = s.recovery := rfl
@[simp] theorem setColl_threadPc_field (s : State) (i : Nat) (v : Coll) : (s.setColl i v).threadPc = s.threadPc := rfl
@[simp] theorem setColl_scriptorPoison_field (s : State) (i : Nat) (v : Coll) : (s.setColl i v).scriptorPoison = s.scriptorPoison := rfl

/-! ### setDie -/

@[simp] theorem setDie_team (s : State) (i j : Nat) (v : Die) : (s.setDie i v).team j = s.team j := rfl
@[simp] theorem setDie_crew (s : State) (i j : Nat) (v : Die) : (s.setDie i v).crew j = s.crew j := rfl
@[simp] theorem setDie_launch (s : State) (i j : Nat) (v : Die) : (s.setDie i v).launch j = s.launch j := rfl
@[simp] theorem setDie_core (s : State) (i j : Nat) (v : Die) : (s.setDie i v).core j = s.core j := rfl
@[simp] theorem setDie_ctx (s : State) (i j : Nat) (v : Die) : (s.setDie i v).ctx j = s.ctx j := rfl
@[simp] theorem setDie_queue (s : State) (i j : Nat) (v : Die) : (s.setDie i v).queue j = s.queue j := rfl
@[simp] theorem setDie_run (s : State) (i j : Nat) (v : Die) : (s.setDie i v).run j = s.run j := rfl
@[simp] theorem setDie_coll (s : State) (i j : Nat) (v : Die) : (s.setDie i v).coll j = s.coll j := rfl
@[simp] theorem setDie_die (s : State) (i : Nat) (v : Die) : (s.setDie i v).die i = v := cget_cset_self _ _ _ _
@[simp] theorem setDie_die_ne (s : State) (i j : Nat) (v : Die) (h : j ≠ i) : (s.setDie i v).die j = s.die j := cget_cset_ne _ _ _ _ _ h
@[simp] theorem setDie_port (s : State) (i j : Nat) (v : Die) : (s.setDie i v).port j = s.port j := rfl
@[simp] theorem setDie_cur_field (s : State) (i : Nat) (v : Die) : (s.setDie i v).cur = s.cur := rfl
@[simp] theorem setDie_turn_field (s : State) (i : Nat) (v : Die) : (s.setDie i v).turn = s.turn := rfl
@[simp] theorem setDie_fresh_field (s : State) (i : Nat) (v : Die) : (s.setDie i v).fresh = s.fresh := rfl
@[simp] theorem setDie_order_field (s : State) (i : Nat) (v : Die) : (s.setDie i v).order = s.order := rfl
@[simp] theorem setDie_mem_field (s : State) (i : Nat) (v : Die) : (s.setDie i v).mem = s.mem := rfl
@[simp] theorem setDie_l2_field (s : State) (i : Nat) (v : Die) : (s.setDie i v).l2 = s.l2 := rfl
@[simp] theorem setDie_nearSeed_field (s : State) (i : Nat) (v : Die) : (s.setDie i v).nearSeed = s.nearSeed := rfl
@[simp] theorem setDie_poison_field (s : State) (i : Nat) (v : Die) : (s.setDie i v).poison = s.poison := rfl
@[simp] theorem setDie_deps_field (s : State) (i : Nat) (v : Die) : (s.setDie i v).deps = s.deps := rfl
@[simp] theorem setDie_freezing_field (s : State) (i : Nat) (v : Die) : (s.setDie i v).freezing = s.freezing := rfl
@[simp] theorem setDie_tripped_field (s : State) (i : Nat) (v : Die) : (s.setDie i v).tripped = s.tripped := rfl
@[simp] theorem setDie_chipId_field (s : State) (i : Nat) (v : Die) : (s.setDie i v).chipId = s.chipId := rfl
@[simp] theorem setDie_fabric_field (s : State) (i : Nat) (v : Die) : (s.setDie i v).fabric = s.fabric := rfl
@[simp] theorem setDie_irqs_field (s : State) (i : Nat) (v : Die) : (s.setDie i v).irqs = s.irqs := rfl
@[simp] theorem setDie_through_field (s : State) (i : Nat) (v : Die) : (s.setDie i v).through = s.through := rfl
@[simp] theorem setDie_posted_field (s : State) (i : Nat) (v : Die) : (s.setDie i v).posted = s.posted := rfl
@[simp] theorem setDie_stale_field (s : State) (i : Nat) (v : Die) : (s.setDie i v).stale = s.stale := rfl
@[simp] theorem setDie_caches_field (s : State) (i : Nat) (v : Die) : (s.setDie i v).caches = s.caches := rfl
@[simp] theorem setDie_links_field (s : State) (i : Nat) (v : Die) : (s.setDie i v).links = s.links := rfl
@[simp] theorem setDie_own_field (s : State) (i : Nat) (v : Die) : (s.setDie i v).own = s.own := rfl
@[simp] theorem setDie_wire_field (s : State) (i : Nat) (v : Die) : (s.setDie i v).wire = s.wire := rfl
@[simp] theorem setDie_linkCycle_field (s : State) (i : Nat) (v : Die) : (s.setDie i v).linkCycle = s.linkCycle := rfl
@[simp] theorem setDie_recovery_field (s : State) (i : Nat) (v : Die) : (s.setDie i v).recovery = s.recovery := rfl
@[simp] theorem setDie_threadPc_field (s : State) (i : Nat) (v : Die) : (s.setDie i v).threadPc = s.threadPc := rfl
@[simp] theorem setDie_scriptorPoison_field (s : State) (i : Nat) (v : Die) : (s.setDie i v).scriptorPoison = s.scriptorPoison := rfl

/-! ### setPort -/

@[simp] theorem setPort_team (s : State) (i j : Nat) (v : Port) : (s.setPort i v).team j = s.team j := rfl
@[simp] theorem setPort_crew (s : State) (i j : Nat) (v : Port) : (s.setPort i v).crew j = s.crew j := rfl
@[simp] theorem setPort_launch (s : State) (i j : Nat) (v : Port) : (s.setPort i v).launch j = s.launch j := rfl
@[simp] theorem setPort_core (s : State) (i j : Nat) (v : Port) : (s.setPort i v).core j = s.core j := rfl
@[simp] theorem setPort_ctx (s : State) (i j : Nat) (v : Port) : (s.setPort i v).ctx j = s.ctx j := rfl
@[simp] theorem setPort_queue (s : State) (i j : Nat) (v : Port) : (s.setPort i v).queue j = s.queue j := rfl
@[simp] theorem setPort_run (s : State) (i j : Nat) (v : Port) : (s.setPort i v).run j = s.run j := rfl
@[simp] theorem setPort_coll (s : State) (i j : Nat) (v : Port) : (s.setPort i v).coll j = s.coll j := rfl
@[simp] theorem setPort_die (s : State) (i j : Nat) (v : Port) : (s.setPort i v).die j = s.die j := rfl
@[simp] theorem setPort_port (s : State) (i : Nat) (v : Port) : (s.setPort i v).port i = v := cget_cset_self _ _ _ _
@[simp] theorem setPort_port_ne (s : State) (i j : Nat) (v : Port) (h : j ≠ i) : (s.setPort i v).port j = s.port j := cget_cset_ne _ _ _ _ _ h
@[simp] theorem setPort_cur_field (s : State) (i : Nat) (v : Port) : (s.setPort i v).cur = s.cur := rfl
@[simp] theorem setPort_turn_field (s : State) (i : Nat) (v : Port) : (s.setPort i v).turn = s.turn := rfl
@[simp] theorem setPort_fresh_field (s : State) (i : Nat) (v : Port) : (s.setPort i v).fresh = s.fresh := rfl
@[simp] theorem setPort_order_field (s : State) (i : Nat) (v : Port) : (s.setPort i v).order = s.order := rfl
@[simp] theorem setPort_mem_field (s : State) (i : Nat) (v : Port) : (s.setPort i v).mem = s.mem := rfl
@[simp] theorem setPort_l2_field (s : State) (i : Nat) (v : Port) : (s.setPort i v).l2 = s.l2 := rfl
@[simp] theorem setPort_nearSeed_field (s : State) (i : Nat) (v : Port) : (s.setPort i v).nearSeed = s.nearSeed := rfl
@[simp] theorem setPort_poison_field (s : State) (i : Nat) (v : Port) : (s.setPort i v).poison = s.poison := rfl
@[simp] theorem setPort_deps_field (s : State) (i : Nat) (v : Port) : (s.setPort i v).deps = s.deps := rfl
@[simp] theorem setPort_freezing_field (s : State) (i : Nat) (v : Port) : (s.setPort i v).freezing = s.freezing := rfl
@[simp] theorem setPort_tripped_field (s : State) (i : Nat) (v : Port) : (s.setPort i v).tripped = s.tripped := rfl
@[simp] theorem setPort_chipId_field (s : State) (i : Nat) (v : Port) : (s.setPort i v).chipId = s.chipId := rfl
@[simp] theorem setPort_fabric_field (s : State) (i : Nat) (v : Port) : (s.setPort i v).fabric = s.fabric := rfl
@[simp] theorem setPort_irqs_field (s : State) (i : Nat) (v : Port) : (s.setPort i v).irqs = s.irqs := rfl
@[simp] theorem setPort_through_field (s : State) (i : Nat) (v : Port) : (s.setPort i v).through = s.through := rfl
@[simp] theorem setPort_posted_field (s : State) (i : Nat) (v : Port) : (s.setPort i v).posted = s.posted := rfl
@[simp] theorem setPort_stale_field (s : State) (i : Nat) (v : Port) : (s.setPort i v).stale = s.stale := rfl
@[simp] theorem setPort_caches_field (s : State) (i : Nat) (v : Port) : (s.setPort i v).caches = s.caches := rfl
@[simp] theorem setPort_dies_field (s : State) (i : Nat) (v : Port) : (s.setPort i v).dies = s.dies := rfl
@[simp] theorem setPort_links_field (s : State) (i : Nat) (v : Port) : (s.setPort i v).links = s.links := rfl
@[simp] theorem setPort_own_field (s : State) (i : Nat) (v : Port) : (s.setPort i v).own = s.own := rfl
@[simp] theorem setPort_wire_field (s : State) (i : Nat) (v : Port) : (s.setPort i v).wire = s.wire := rfl
@[simp] theorem setPort_linkCycle_field (s : State) (i : Nat) (v : Port) : (s.setPort i v).linkCycle = s.linkCycle := rfl
@[simp] theorem setPort_recovery_field (s : State) (i : Nat) (v : Port) : (s.setPort i v).recovery = s.recovery := rfl
@[simp] theorem setPort_threadPc_field (s : State) (i : Nat) (v : Port) : (s.setPort i v).threadPc = s.threadPc := rfl
@[simp] theorem setPort_scriptorPoison_field (s : State) (i : Nat) (v : Port) : (s.setPort i v).scriptorPoison = s.scriptorPoison := rfl

/-! ### A register put -/

@[simp] theorem put_pc (t : Team) (r : Reg) (l : Nat) (v : W64) : (t.put r l v).pc = t.pc := by
  cases r <;> first | rfl | (simp only [Team.put]; split <;> rfl)
@[simp] theorem put_mr (t : Team) (r : Reg) (l : Nat) (v : W64) : (t.put r l v).mr = t.mr := by
  cases r <;> first | rfl | (simp only [Team.put]; split <;> rfl)
@[simp] theorem put_mask (t : Team) (r : Reg) (l : Nat) (v : W64) : (t.put r l v).mask = t.mask := by
  cases r <;> first | rfl | (simp only [Team.put]; split <;> rfl)
@[simp] theorem put_rstack (t : Team) (r : Reg) (l : Nat) (v : W64) : (t.put r l v).rstack = t.rstack := by
  cases r <;> first | rfl | (simp only [Team.put]; split <;> rfl)
@[simp] theorem put_cstack (t : Team) (r : Reg) (l : Nat) (v : W64) : (t.put r l v).cstack = t.cstack := by
  cases r <;> first | rfl | (simp only [Team.put]; split <;> rfl)
@[simp] theorem put_fsr (t : Team) (r : Reg) (l : Nat) (v : W64) : (t.put r l v).fsr = t.fsr := by
  cases r <;> first | rfl | (simp only [Team.put]; split <;> rfl)
@[simp] theorem put_ufc (t : Team) (r : Reg) (l : Nat) (v : W64) : (t.put r l v).ufc = t.ufc := by
  cases r <;> first | rfl | (simp only [Team.put]; split <;> rfl)
@[simp] theorem put_pend (t : Team) (r : Reg) (l : Nat) (v : W64) : (t.put r l v).pend = t.pend := by
  cases r <;> first | rfl | (simp only [Team.put]; split <;> rfl)
@[simp] theorem put_flight (t : Team) (r : Reg) (l : Nat) (v : W64) : (t.put r l v).flight = t.flight := by
  cases r <;> first | rfl | (simp only [Team.put]; split <;> rfl)
@[simp] theorem put_queues (t : Team) (r : Reg) (l : Nat) (v : W64) : (t.put r l v).queues = t.queues := by
  cases r <;> first | rfl | (simp only [Team.put]; split <;> rfl)
@[simp] theorem put_streams (t : Team) (r : Reg) (l : Nat) (v : W64) : (t.put r l v).streams = t.streams := by
  cases r <;> first | rfl | (simp only [Team.put]; split <;> rfl)
@[simp] theorem put_opc (t : Team) (r : Reg) (l : Nat) (v : W64) : (t.put r l v).opc = t.opc := by
  cases r <;> first | rfl | (simp only [Team.put]; split <;> rfl)
@[simp] theorem put_lfsr (t : Team) (r : Reg) (l : Nat) (v : W64) : (t.put r l v).lfsr = t.lfsr := by
  cases r <;> first | rfl | (simp only [Team.put]; split <;> rfl)
@[simp] theorem put_inHandler (t : Team) (r : Reg) (l : Nat) (v : W64) : (t.put r l v).inHandler = t.inHandler := by
  cases r <;> first | rfl | (simp only [Team.put]; split <;> rfl)
@[simp] theorem put_handler (t : Team) (r : Reg) (l : Nat) (v : W64) : (t.put r l v).handler = t.handler := by
  cases r <;> first | rfl | (simp only [Team.put]; split <;> rfl)
@[simp] theorem put_savedMr (t : Team) (r : Reg) (l : Nat) (v : W64) : (t.put r l v).savedMr = t.savedMr := by
  cases r <;> first | rfl | (simp only [Team.put]; split <;> rfl)
@[simp] theorem put_savedMask (t : Team) (r : Reg) (l : Nat) (v : W64) : (t.put r l v).savedMask = t.savedMask := by
  cases r <;> first | rfl | (simp only [Team.put]; split <;> rfl)
@[simp] theorem put_trapCode (t : Team) (r : Reg) (l : Nat) (v : W64) : (t.put r l v).trapCode = t.trapCode := by
  cases r <;> first | rfl | (simp only [Team.put]; split <;> rfl)
@[simp] theorem put_trapPc (t : Team) (r : Reg) (l : Nat) (v : W64) : (t.put r l v).trapPc = t.trapPc := by
  cases r <;> first | rfl | (simp only [Team.put]; split <;> rfl)
@[simp] theorem put_crew (t : Team) (r : Reg) (l : Nat) (v : W64) : (t.put r l v).crew = t.crew := by
  cases r <;> first | rfl | (simp only [Team.put]; split <;> rfl)
@[simp] theorem put_id (t : Team) (r : Reg) (l : Nat) (v : W64) : (t.put r l v).id = t.id := by
  cases r <;> first | rfl | (simp only [Team.put]; split <;> rfl)
@[simp] theorem put_lanesLog (t : Team) (r : Reg) (l : Nat) (v : W64) : (t.put r l v).lanesLog = t.lanesLog := by
  cases r <;> first | rfl | (simp only [Team.put]; split <;> rfl)
@[simp] theorem put_nregs (t : Team) (r : Reg) (l : Nat) (v : W64) : (t.put r l v).nregs = t.nregs := by
  cases r <;> first | rfl | (simp only [Team.put]; split <;> rfl)
@[simp] theorem put_status (t : Team) (r : Reg) (l : Nat) (v : W64) : (t.put r l v).status = t.status := by
  cases r <;> first | rfl | (simp only [Team.put]; split <;> rfl)
@[simp] theorem put_enter (t : Team) (r : Reg) (l : Nat) (v : W64) : (t.put r l v).enter = t.enter := by
  cases r <;> first | rfl | (simp only [Team.put]; split <;> rfl)
@[simp] theorem put_octet (t : Team) (r : Reg) (l : Nat) (v : W64) : (t.put r l v).octet = t.octet := by
  cases r <;> first | rfl | (simp only [Team.put]; split <;> rfl)
@[simp] theorem put_engTraps (t : Team) (r : Reg) (l : Nat) (v : W64) : (t.put r l v).engTraps = t.engTraps := by
  cases r <;> first | rfl | (simp only [Team.put]; split <;> rfl)

@[simp] theorem put_s_self (t : Team) (n l : Nat) (v : W64) : cget 0 (t.put (.s n) l v).s n = v := cget_cset_self _ _ _ _
theorem put_s_ne (t : Team) (n m l : Nat) (v : W64) (h : m ≠ n) : cget 0 (t.put (.s n) l v).s m = cget 0 t.s m :=
  cget_cset_ne _ _ _ _ _ h

/-! ### Changing a team's entry -/

@[simp] theorem updTeam_team (s : State) (i : Nat) (f : Team → Team) : (s.updTeam i f).team i = f (s.team i) := cget_cset_self _ _ _ _
@[simp] theorem updTeam_team_ne (s : State) (i j : Nat) (f : Team → Team) (h : j ≠ i) : (s.updTeam i f).team j = s.team j :=
  cget_cset_ne _ _ _ _ _ h

end Sys2Proof.Machine
end

