-- ==== Sys2Proof/Laws/Issue.lean ====
section
/-! SUPPORT. What issuing and retiring an instruction does, once for all instructions: at a ready team every check but the
instruction's own passes, and retiring moves the team on and changes nothing else but clocks. -/

namespace Sys2Proof.Machine

/-! ### Nothing else changes -/

theorem OnlyTeam.rfl {ti : Nat} {s : State} : OnlyTeam ti s s := ⟨Eq.refl _, fun _ _ => Eq.refl _, fun _ => Eq.refl _⟩

theorem OnlyTeam.trans {ti : Nat} {s t u : State} (h : OnlyTeam ti s t) (k : OnlyTeam ti t u) : OnlyTeam ti s u :=
  ⟨k.1.trans h.1, fun j hj => (k.2.1 j hj).trans (h.2.1 j hj), fun c => (k.2.2 c).trans (h.2.2 c)⟩

theorem onlyTeam_setTeam (s : State) (ti : Nat) (t : Team) : OnlyTeam ti s (s.setTeam ti t) :=
  ⟨Eq.refl _, fun j hj => setTeam_team_ne s ti j t hj, fun _ => Eq.refl _⟩

theorem onlyTeam_updTeam (s : State) (ti : Nat) (f : Team → Team) : OnlyTeam ti s (s.updTeam ti f) := onlyTeam_setTeam _ _ _

theorem onlyTeam_setCore (s : State) (ti ci : Nat) (c : Core) (h : c.untimed = (s.core ci).untimed) :
    OnlyTeam ti s (s.setCore ci c) := by
  refine ⟨Eq.refl _, fun j _ => Eq.refl _, fun k => ?_⟩
  by_cases hk : k = ci
  · subst hk; simpa using h
  · simp [hk]

theorem OnlyTeam.cur {ti : Nat} {s t : State} (h : OnlyTeam ti s t) : t.cur = s.cur := by
  have := congrArg State.cur h.1; exact this
theorem OnlyTeam.crews {ti : Nat} {s t : State} (h : OnlyTeam ti s t) : t.crews = s.crews := by
  have := congrArg State.crews h.1; exact this
theorem OnlyTeam.launches {ti : Nat} {s t : State} (h : OnlyTeam ti s t) : t.launches = s.launches := by
  have := congrArg State.launches h.1; exact this
theorem OnlyTeam.ctxs {ti : Nat} {s t : State} (h : OnlyTeam ti s t) : t.ctxs = s.ctxs := by
  have := congrArg State.ctxs h.1; exact this
theorem OnlyTeam.mem {ti : Nat} {s t : State} (h : OnlyTeam ti s t) : t.mem = s.mem := by
  have := congrArg State.mem h.1; exact this
theorem OnlyTeam.l2 {ti : Nat} {s t : State} (h : OnlyTeam ti s t) : t.l2 = s.l2 := by
  have := congrArg State.l2 h.1; exact this

/-! ### A ready team -/

/-- What a ready team is, part by part. -/
theorem ready_iff (s : State) : ready s = true ↔ canIssue s s.cur = true ∧ (s.me.enter && paceBad s.me.octet) = false ∧
    s.me.pend = [] ∧ s.me.flight = [] ∧ s.me.vPoison = [] ∧ s.me.sPoison = [] ∧ s.me.passes = [] ∧ s.me.onePass = false ∧
    5 ≤ s.me.lanesLog ∧ s.me.lanesLog ≤ 10 := by
  simp only [ready, Bool.and_eq_true, Bool.not_eq_true', List.isEmpty_iff, decide_eq_true_eq, and_assoc]

theorem ready_issue {s : State} (h : ready s = true) : canIssue s s.cur = true := ((ready_iff s).1 h).1
theorem ready_pace {s : State} (h : ready s = true) : (s.me.enter && paceBad s.me.octet) = false := ((ready_iff s).1 h).2.1
theorem ready_pend {s : State} (h : ready s = true) : s.me.pend = [] := ((ready_iff s).1 h).2.2.1
theorem ready_flight {s : State} (h : ready s = true) : s.me.flight = [] := ((ready_iff s).1 h).2.2.2.1
theorem ready_vPoison {s : State} (h : ready s = true) : s.me.vPoison = [] := ((ready_iff s).1 h).2.2.2.2.1
theorem ready_sPoison {s : State} (h : ready s = true) : s.me.sPoison = [] := ((ready_iff s).1 h).2.2.2.2.2.1
theorem ready_passes {s : State} (h : ready s = true) : s.me.passes = [] := ((ready_iff s).1 h).2.2.2.2.2.2.1
theorem ready_onePass {s : State} (h : ready s = true) : s.me.onePass = false := ((ready_iff s).1 h).2.2.2.2.2.2.2.1
theorem ready_lanes {s : State} (h : ready s = true) : 5 ≤ s.me.lanesLog ∧ s.me.lanesLog ≤ 10 := ((ready_iff s).1 h).2.2.2.2.2.2.2.2

theorem passHeld_nil (t : Team) (uses : List Use) (p : Pass) (h : t.flight = []) : passHeld t uses p = false := by simp [passHeld, h]
theorem stallHeld_nil (t : Team) (h : t.flight = []) : stallHeld t = false := by simp [stallHeld, h]

theorem undersized_nil (chk : Bool) (t : Team) (ps : List Pass) (us : List Use) (acts : Nat → Nat → Bool) (h : t.pend = []) :
    undersized chk t ps us acts = .ok () := by simp [undersized, h]

theorem sPoisoned_nil (t : Team) (rs : List Opnd) (h : t.sPoison = []) : sPoisoned t rs = false := by
  simp only [sPoisoned, h, List.any_eq_false]
  intro o _
  cases o <;> simp

theorem decodeChecks_ok (t : Team) (word : W32) (fields : List (Nat × Bool)) (hp : (t.enter && paceBad t.octet) = false)
    (hf : fields.all (·.2) = true) : decodeChecks t word false fields true = .ok () := by
  have h : fields.find? (fun f => !f.2) = none := by
    rw [List.find?_eq_none]
    intro f hm
    simpa using List.all_eq_true.1 hf f hm
  simp [decodeChecks, hp, h]

theorem commit_nil (t : Team) (c : Nat) (h : t.pend = []) : t.commit c = t := by
  cases t
  simp only at h
  subst h
  rfl

@[simp] theorem settle_team (s : State) (ti c : Nat) (h : (s.team ti).pend = []) : (settle s ti c).team ti = s.team ti := by
  simp [settle, commit_nil _ _ h]

theorem settle_onlyTeam (s : State) (ti c : Nat) : OnlyTeam ti s (settle s ti c) := onlyTeam_updTeam _ _ _

/-- The registers of a team with no write outstanding read what they hold, in every cycle. -/
theorem read_nil (t : Team) (c : Nat) (r : Reg) (l : Nat) (h : t.pend = []) : t.read c r l = t.held r l := by
  simp [Team.read, h, pendLatest]

/-! ### Passes -/

theorem passCycle_ge (occ ready : Nat → Nat) (free : Nat) : ∀ n c, c ≤ passCycle occ ready free n c := by
  intro n
  induction n with
  | zero => exact fun c => Nat.le_refl c
  | succ n ih =>
    intro c
    have h : c ≤ max (max c (free + occ c - 1)) (ready c) := by omega
    simp only [passCycle]
    split
    · exact Nat.le_refl c
    · exact Nat.le_trans h (ih _)

theorem schedule_length (occ ready : Nat → Nat → Nat → Nat) (ws : List (Nat × Nat)) : ∀ free,
    (schedule occ ready free ws).map (fun p => (p.lo, p.n)) = ws := by
  induction ws with
  | nil => exact fun _ => rfl
  | cons w r ih => intro free; obtain ⟨lo, n⟩ := w; simp [schedule, ih]

theorem firstCycle_ge (s : State) (ti port : Nat) : (s.core (s.crew (s.team ti).crew).core).cycle ≤ firstCycle s ti port := by
  simp only [firstCycle]
  split <;> omega

/-- The passes of an instruction whose team has none issued and none outstanding, and issues them at once: those scheduled. -/
theorem passesOf_ok (s : State) (ti op : Nat) (ws : List (Nat × Nat)) (vr vx : List Nat) (uses : List Use)
    (hf : (s.team ti).flight = []) (hp : (s.team ti).passes = []) (h1 : (s.team ti).onePass = false) :
    passesOf s ti op ws vr vx uses = .ok (schedule (occupancy (s.team ti) vr vx) (passReady (s.team ti) uses) (firstCycle s ti (portOf op)) ws) := by
  have h : ∀ l : List Pass, l.any (passHeld (s.team ti) uses) = false := by
    intro l
    simp [List.any_eq_false, passHeld_nil _ _ _ hf]
  simp [passesOf, stallHeld_nil _ hf, hp, h1, h]

/-- The one pass of a uniform instruction. -/
theorem passesOf_one (s : State) (ti op : Nat) (uses : List Use)
    (hf : (s.team ti).flight = []) (hp : (s.team ti).passes = []) (h1 : (s.team ti).onePass = false) :
    ∃ c o, (s.core (s.crew (s.team ti).crew).core).cycle ≤ c ∧
      passesOf s ti op [(0, 0)] [] [] uses = .ok [{ lo := 0, n := 0, at_ := c, occ := o }] :=
  ⟨_, _, Nat.le_trans (firstCycle_ge s ti (portOf op)) (passCycle_ge _ _ _ _ _), passesOf_ok s ti op _ _ _ uses hf hp h1⟩

/-! ### Retiring -/

theorem claimPort_onlyTeam (s : State) (ti port : Nat) (p : Pass) (next : Nat) : OnlyTeam ti s (claimPort s ti port p next) :=
  (onlyTeam_updTeam s ti _).trans (onlyTeam_setCore _ ti _ _ (by simp [Core.untimed]))

theorem updCore_team (s : State) (c j : Nat) (f : Core → Core) : (s.updCore c f).team j = s.team j := rfl

theorem claimPort_me (s : State) (ti port : Nat) (p : Pass) (next : Nat) :
    ((claimPort s ti port p next).team ti).untimed = (s.team ti).untimed := by
  simp [claimPort, updCore_team, Team.untimed]

theorem retireTiming_status (s : State) (ti op : Nat) (ps : List Pass) (u : Bool) (dues : List Nat) :
    ((retireTiming s ti op ps u dues).team ti).status = .run := by
  simp [retireTiming]

theorem retireTiming_me (s : State) (ti op : Nat) (ps : List Pass) (u : Bool) (dues : List Nat) :
    ((retireTiming s ti op ps u dues).team ti).untimed = (s.team ti).untimed := by
  have h := claimPort_me s ti (portOf op) (ps.getD (s.team ti).passes.length { lo := 0, n := 0, at_ := lastPass ps }) (lastPass ps)
  simp only [retireTiming, updTeam_team]
  split
  · simp [updCore_team, Team.untimed]
  · simpa only [Team.untimed, Team.mk.injEq] using h

theorem retireTiming_onlyTeam (s : State) (ti op : Nat) (ps : List Pass) (u : Bool) (dues : List Nat) :
    OnlyTeam ti s (retireTiming s ti op ps u dues) := by
  simp only [retireTiming]
  split
  · exact (onlyTeam_setCore s ti _ _ (by simp [Core.untimed])).trans (onlyTeam_updTeam _ _ _)
  · exact (claimPort_onlyTeam _ _ _ _ _).trans (onlyTeam_updTeam _ _ _)

/-- Retiring: the team goes on after the instruction's words, with its writes outstanding. -/
theorem retire_me (s : State) (ti op words : Nat) (ps : List Pass) (u : Bool) (ws : List PendWrite) :
    ((retire s ti op words ps u ws).team ti).untimed =
      { s.team ti with pc := nextPc (s.team ti).pc words, pend := (s.team ti).pend ++ ws }.untimed := by
  have h := retireTiming_me s ti op ps u (ws.map (·.due))
  simp only [retire, updTeam_team, goTo, Team.untimed] at h ⊢
  simp only [Team.mk.injEq] at h ⊢
  simp [h]

theorem retire_status (s : State) (ti op words : Nat) (ps : List Pass) (u : Bool) (ws : List PendWrite) :
    ((retire s ti op words ps u ws).team ti).status = .run := by
  have h := retireTiming_status s ti op ps u (ws.map (·.due))
  simp [retire, goTo, h]

theorem retire_onlyTeam (s : State) (ti op words : Nat) (ps : List Pass) (u : Bool) (ws : List PendWrite) :
    OnlyTeam ti s (retire s ti op words ps u ws) :=
  (retireTiming_onlyTeam _ _ _ _ _ _).trans (onlyTeam_updTeam _ _ _)

/-- Retiring elsewhere: the team goes on at an address. -/
theorem branch_me (u : UCtx) (s : State) (pc : W64) (r : Bool) :
    ((u.branch s pc r).team u.ti).untimed = { s.team u.ti with pc := pc }.untimed := by
  have h := retireTiming_me s u.ti u.op u.ps true []
  simp only [UCtx.branch, updTeam_team, goTo, Team.untimed] at h ⊢
  simp only [Team.mk.injEq] at h ⊢
  simp [h]

theorem branch_status (u : UCtx) (s : State) (pc : W64) (r : Bool) : ((u.branch s pc r).team u.ti).status = .run := by
  have h := retireTiming_status s u.ti u.op u.ps true []
  simp [UCtx.branch, goTo, h]

theorem branch_onlyTeam (u : UCtx) (s : State) (pc : W64) (r : Bool) : OnlyTeam u.ti s (u.branch s pc r) :=
  (retireTiming_onlyTeam _ _ _ _ _ _).trans (onlyTeam_updTeam _ _ _)

/-! ### Uniform instructions -/

/-- At a ready team a uniform instruction reaches its own part, once its fields and its type are accepted. -/
theorem uniform_ready (s : State) (op : Nat) (word : W32) (fields : List (Nat × Bool)) (reads writes : List Opnd)
    (body : UCtx → Except Stop State) (late : Bool) (h : ready s = true) (hf : fields.all (·.2) = true) :
    ∃ c o, (s.core (s.crew s.me.crew).core).cycle ≤ c ∧
      uniform s s.cur s.me op word false fields true reads writes body late =
        body { s := settle s s.cur c, ti := s.cur, t := s.me, c := c, ps := [{ lo := 0, n := 0, at_ := c, occ := o }], op := op } := by
  obtain ⟨c, o, hc, hp⟩ := passesOf_one s s.cur op ((reads ++ writes).map (useOf s.me false)) (ready_flight h) (ready_passes h) (ready_onePass h)
  refine ⟨c, o, hc, ?_⟩
  have h1 := decodeChecks_ok s.me word fields (ready_pace h) hf
  have h3 := sPoisoned_nil s.me reads (ready_sPoison h)
  have h4 := undersized_nil (s.crewRec s.me.crew).chk s.me [{ lo := 0, n := 0, at_ := c, occ := o }]
    ((reads ++ writes).map (useOf s.me false)) (fun _ _ => true) (ready_pend h)
  have h5 : (settle s s.cur c).team s.cur = s.me := settle_team s s.cur c (ready_pend h)
  have hl : lastPass [{ lo := 0, n := 0, at_ := c, occ := o }] = c := by simp [lastPass]
  unfold uniform
  simp only [h1, hp, bind, Except.bind, hl, h5, h3, h4, UCtx.poison]
  cases late <;> rfl

/-- An instruction whose body answers a state answers that state. -/
theorem runInstr_ok (s t : State) (body : Nat → Team → Except Stop State) (h : ready s = true) (hb : body s.cur s.me = .ok t) :
    runInstr s body = .next t := by
  have hb' : body s.cur (s.team s.cur) = .ok t := hb
  simp [runInstr, ready_issue h, hb']

/-- An instruction whose body stops leaves what the stop makes of the machine. -/
theorem runInstr_stop (s : State) (x : Stop) (body : Nat → Team → Except Stop State) (h : ready s = true)
    (hb : body s.cur s.me = .error x) : runInstr s body = .next (stopped s s.cur x) := by
  have hb' : body s.cur (s.team s.cur) = .error x := hb
  simp [runInstr, ready_issue h, hb']

/-- The writes with which a uniform instruction of team t ends. -/
def doneWrites (t : Team) (c lat : Nat) (il : Bool) (ws : List (Opnd × Nat)) : List PendWrite :=
  ws.flatMap (fun (w : Opnd × Nat) => (dstWrites t true w.1 c 0 w.2).map (fun (x : Reg × Nat × W64) =>
    ({ reg := x.1, lane := x.2.1, val := x.2.2, due := c + lat, pc := t.pc, il := il } : PendWrite)))

theorem done_eq (u : UCtx) (s : State) (ws : List (Opnd × Nat)) (lat : Nat) (il : Bool) :
    u.done s ws lat il = retire s u.ti u.op 1 u.ps true (doneWrites u.t u.c lat il ws) := rfl

/-- How a completion is shown: the answer, what it leaves alone, and what the issuing team holds. -/
theorem runsTo_of (i : Instr) (s t : State) (v : Team) (he : exec i s = .next t) (ho : OnlyTeam s.cur s t)
    (hm : (t.team s.cur).untimed = v.untimed) (hs : (t.team s.cur).status = .run) : RunsTo i s v := by
  refine ⟨t, he, ?_, ?_, ho⟩
  · rw [State.me, ho.cur]; exact hm
  · rw [State.me, ho.cur]; exact hs

/-- A uniform instruction that ends with fixed-latency writes. -/
theorem done_runsTo (i : Instr) (s : State) (u : UCtx) (s' : State) (ws : List (Opnd × Nat)) (lat : Nat) (v : Team)
    (he : exec i s = .next (u.done s' ws lat)) (hti : u.ti = s.cur) (ho : OnlyTeam s.cur s s')
    (hv : v.untimed = { s'.team s.cur with
      pc := nextPc (s'.team s.cur).pc 1, pend := (s'.team s.cur).pend ++ doneWrites u.t u.c lat false ws }.untimed) :
    RunsTo i s v := by
  rw [done_eq, hti] at he
  exact runsTo_of i s _ v he (ho.trans (retire_onlyTeam _ _ _ _ _ _ _)) (by rw [hv]; exact retire_me _ _ _ _ _ _ _) (retire_status _ _ _ _ _ _ _)

/-- A uniform instruction that goes on elsewhere. -/
theorem branch_runsTo (i : Instr) (s : State) (u : UCtx) (s' : State) (pc : W64) (r : Bool) (v : Team)
    (he : exec i s = .next (u.branch s' pc r)) (hti : u.ti = s.cur) (ho : OnlyTeam s.cur s s')
    (hv : v.untimed = { s'.team s.cur with pc := pc }.untimed) : RunsTo i s v := by
  have hm := branch_me u s' pc r
  have hs := branch_status u s' pc r
  have hb := branch_onlyTeam u s' pc r
  rw [hti] at hm hs hb
  exact runsTo_of i s _ v he (ho.trans hb) (by rw [hv]; exact hm) hs

end Sys2Proof.Machine
end

