-- ==== Sys2Proof/Laws/Memory.lean ====
section
/-! SUPPORT. Memory: what a byte reads as after a write, and the canonical form, which every memory operation keeps. -/

namespace Sys2Proof.Machine

theorem memWf_iff (s : State) : memWf s = true ↔
    (∀ e ∈ s.mem, e.2 ≠ s.blank e.1) ∧ s.mem.Pairwise (fun a b => a.1 < b.1) := by
  simp [memWf, List.all_eq_true]

theorem l2Wf_iff (s : State) : l2Wf s = true ↔
    (∀ e ∈ s.l2, e.2 ≠ none ∧ s.present e.1 = true) ∧ s.l2.Pairwise (fun a b => a.1 < b.1) := by
  simp [l2Wf, List.all_eq_true]

theorem wf_iff (s : State) : Memory.wf s = true ↔ memWf s = true ∧ l2Wf s = true := by simp [Memory.wf]

/-- The form depends on the bytes at home, those newer, the near stores' seeds and the dies' shares alone. -/
theorem wf_congr (s t : State) (hm : t.mem = s.mem) (hl : t.l2 = s.l2) (hn : t.nearSeed = s.nearSeed) (hd : t.dies = s.dies) :
    Memory.wf t = Memory.wf s := by
  have hp : t.present = s.present := by funext k; unfold State.present State.die; rw [hd]
  have hb : t.blank = s.blank := by funext k; simp only [State.blank, hp, hn]
  simp only [Memory.wf, memWf, l2Wf, hm, hl, hb, hp]

theorem reset_memory_wf : Memory.wf State.reset = true := rfl

/-! ### One byte -/

@[simp] theorem putMem_nearSeed (s : State) (k : Nat) (b : Byte) : (s.putMem k b).nearSeed = s.nearSeed := by
  unfold State.putMem; split <;> rfl
@[simp] theorem putMem_dies (s : State) (k : Nat) (b : Byte) : (s.putMem k b).dies = s.dies := by
  unfold State.putMem; split <;> rfl
@[simp] theorem putMem_l2 (s : State) (k : Nat) (b : Byte) : (s.putMem k b).l2 = s.l2 := by
  unfold State.putMem; split <;> rfl
@[simp] theorem putHome_nearSeed (s : State) (k : Nat) (b : Byte) : (s.putHome k b).nearSeed = s.nearSeed := putMem_nearSeed s k b
@[simp] theorem putHome_dies (s : State) (k : Nat) (b : Byte) : (s.putHome k b).dies = s.dies := putMem_dies s k b
@[simp] theorem putHome_mem (s : State) (k : Nat) (b : Byte) : (s.putHome k b).mem = (s.putMem k b).mem := rfl
@[simp] theorem putHome_l2 (s : State) (k : Nat) (b : Byte) : (s.putHome k b).l2 = cset none s.l2 k none := by
  simp [State.putHome]
@[simp] theorem putOver_nearSeed (s : State) (k : Nat) (b : Byte) : (s.putOver k b).nearSeed = s.nearSeed := by
  unfold State.putOver; split <;> rfl
@[simp] theorem putOver_dies (s : State) (k : Nat) (b : Byte) : (s.putOver k b).dies = s.dies := by
  unfold State.putOver; split <;> rfl
@[simp] theorem putOver_mem (s : State) (k : Nat) (b : Byte) : (s.putOver k b).mem = s.mem := by
  unfold State.putOver; split <;> rfl

/-- Which bytes exist, and what an unlisted byte reads as, depend on the dies and the near stores' seeds alone. -/
theorem present_congr (s t : State) (hd : t.dies = s.dies) : t.present = s.present := by
  funext k; unfold State.present State.die; rw [hd]
theorem blank_congr (s t : State) (hd : t.dies = s.dies) (hn : t.nearSeed = s.nearSeed) : t.blank = s.blank := by
  funext k; simp only [State.blank, present_congr s t hd, hn]

/-- A byte of memory itself keeps the form. -/
theorem putMem_wf (s : State) (k : Nat) (b : Byte) (h : Memory.wf s = true) : Memory.wf (s.putMem k b) = true := by
  unfold State.putMem
  split
  · rw [wf_iff, memWf_iff, l2Wf_iff] at h ⊢
    obtain ⟨⟨h1, h2⟩, h34⟩ := h
    refine ⟨⟨fun e he => ?_, cset_sorted _ _ _ _ h2⟩, h34⟩
    rcases mem_cset _ _ _ _ _ he with he | ⟨he, hb⟩
    · exact h1 e he
    · subst he; exact hb
  · exact h

/-- A byte written at home keeps the form. -/
theorem putHome_wf (s : State) (k : Nat) (b : Byte) (h : Memory.wf s = true) : Memory.wf (s.putHome k b) = true := by
  have h' := putMem_wf s k b h
  rw [wf_iff, l2Wf_iff] at h'
  rw [wf_iff, l2Wf_iff]
  obtain ⟨h12, h3, h4⟩ := h'
  refine ⟨h12, fun e he => ?_, cset_sorted _ _ _ _ h4⟩
  rcases mem_cset _ _ _ _ _ he with he | ⟨-, hb⟩
  · exact h3 e he
  · exact absurd rfl hb

/-- A byte that home does not hold yet keeps the form. -/
theorem putOver_wf (s : State) (k : Nat) (b : Byte) (h : Memory.wf s = true) : Memory.wf (s.putOver k b) = true := by
  unfold State.putOver
  split
  · next hk =>
    rw [wf_iff, l2Wf_iff] at h ⊢
    obtain ⟨h12, h3, h4⟩ := h
    refine ⟨h12, fun e he => ?_, cset_sorted _ _ _ _ h4⟩
    rcases mem_cset _ _ _ _ _ he with he | ⟨he, hb⟩
    · exact h3 e he
    · subst he; exact ⟨hb, hk⟩
  · exact h

theorem putMemBytes_wf (bs : List Byte) : ∀ (s : State) (k : Nat), Memory.wf s = true → Memory.wf (s.putMemBytes k bs) = true := by
  induction bs with
  | nil => exact fun s _ h => h
  | cons b r ih => exact fun s k h => ih _ _ (putMem_wf s k b h)

theorem putHomeBytes_wf (bs : List Byte) : ∀ (s : State) (k : Nat), Memory.wf s = true → Memory.wf (s.putHomeBytes k bs) = true := by
  induction bs with
  | nil => exact fun s _ h => h
  | cons b r ih => exact fun s k h => ih _ _ (putHome_wf s k b h)

theorem putOverBytes_wf (bs : List Byte) : ∀ (s : State) (k : Nat), Memory.wf s = true → Memory.wf (s.putOverBytes k bs) = true := by
  induction bs with
  | nil => exact fun s _ h => h
  | cons b r ih => exact fun s k h => ih _ _ (putOver_wf s k b h)

/-- What a predicate keeps of the bytes newer than home keeps the form. -/
theorem filterL2_wf (s : State) (p : Nat × Option Byte → Bool) (h : Memory.wf s = true) :
    Memory.wf { s with l2 := s.l2.filter p } = true := by
  rw [wf_iff, l2Wf_iff] at h ⊢
  obtain ⟨h12, h3, h4⟩ := h
  exact ⟨h12, fun e he => h3 e (List.mem_filter.1 he).1, h4.filter _⟩

/-! ### A fold that leaves a part of the state alone -/

theorem foldl_keeps {α β γ : Type} (f : β → α → β) (g : β → γ) (hf : ∀ b a, g (f b a) = g b) (l : List α) (b : β) :
    g (l.foldl f b) = g b := by
  induction l generalizing b with
  | nil => rfl
  | cons a r ih => rw [List.foldl_cons, ih, hf]

theorem foldl_invariant {α β : Type} (f : β → α → β) (P : β → Prop) (hf : ∀ b a, P b → P (f b a)) (l : List α) (b : β) (h : P b) :
    P (l.foldl f b) := by
  induction l generalizing b with
  | nil => exact h
  | cons a r ih => exact ih _ (hf _ _ h)

/-- Waking sleepers and the monitors of queues changes nothing but teams and queues. -/
theorem touch_only (s : State) (line : Nat) :
    { s.touch line with teams := [], queues := [] } = { s with teams := [], queues := [] } := by
  have fold : ∀ (l : Cells Team) (s0 : State),
      { l.foldl (fun s e => if e.2.sleepsOn line then s.updTeam e.1 (·.wake) else s) s0 with teams := [], queues := [] } =
        { s0 with teams := [], queues := [] } :=
    fun l s0 => foldl_keeps _ (fun s : State => { s with teams := [], queues := [] }) (fun b a => by split <;> rfl) l s0
  unfold State.touch
  dsimp only
  split <;> split
  all_goals first
    | rfl
    | exact fold _ _

theorem touch_wf (s : State) (line : Nat) : Memory.wf (s.touch line) = Memory.wf s := by
  have h := touch_only s line
  have hm := congrArg State.mem h
  have hl := congrArg State.l2 h
  have hn := congrArg State.nearSeed h
  have hd := congrArg State.dies h
  exact wf_congr _ _ hm hl hn hd

theorem touchLines_wf (ls : List Nat) : ∀ s : State, Memory.wf (ls.foldl State.touch s) = Memory.wf s := by
  intro s
  exact foldl_keeps State.touch Memory.wf touch_wf ls s

theorem touchKey_wf (s : State) (k n : Nat) : Memory.wf (s.touchKey k n) = Memory.wf s := by
  exact touchLines_wf _ s

theorem rewrites_wf (s : State) (k n : Nat) : Memory.wf (s.rewrites k n) = Memory.wf s := by
  unfold State.rewrites
  dsimp only
  split <;> rfl

/-- Bytes at home, those newer, the seeds and the dies' shares are the same. -/
def SameBytes (s t : State) : Prop := t.mem = s.mem ∧ t.l2 = s.l2 ∧ t.nearSeed = s.nearSeed ∧ t.dies = s.dies

theorem SameBytes.refl (s : State) : SameBytes s s := ⟨rfl, rfl, rfl, rfl⟩
theorem SameBytes.trans {s t u : State} (h : SameBytes s t) (g : SameBytes t u) : SameBytes s u :=
  ⟨g.1.trans h.1, g.2.1.trans h.2.1, g.2.2.1.trans h.2.2.1, g.2.2.2.trans h.2.2.2⟩
theorem SameBytes.foldl {α : Type} (f : State → α → State) (hf : ∀ s a, SameBytes s (f s a)) (l : List α) :
    ∀ s, SameBytes s (l.foldl f s) := by
  induction l with
  | nil => exact SameBytes.refl
  | cons a r ih => exact fun s => (hf s a).trans (ih _)
theorem SameBytes.wf {s t : State} (h : SameBytes s t) : Memory.wf t = Memory.wf s := wf_congr s t h.1 h.2.1 h.2.2.1 h.2.2.2

theorem dirtyDie_same (s : State) (ctx die : Nat) : SameBytes s (s.dirtyDie ctx die) := by
  unfold State.dirtyDie
  split <;> exact ⟨rfl, rfl, rfl, rfl⟩
theorem useL2_same (s : State) (line hint : Nat) : SameBytes s (useL2 s line hint) := by
  unfold useL2
  split <;> exact ⟨rfl, rfl, rfl, rfl⟩
theorem storeMargin_same (s : State) (d : Nat) (ls : List Nat) : SameBytes s (storeMargin s d ls) := ⟨rfl, rfl, rfl, rfl⟩

/-- What agents see has no part in the form. -/
theorem unhide_wf (s : State) (p : Place) (n : Nat) : Memory.wf (s.unhide p n) = Memory.wf s := by
  unfold State.unhide
  split <;> rfl

/-- Bytes on their way to the host keep the form. -/
theorem post_wf (s : State) (w ctx k : Nat) (bytes : List Byte) (h : Memory.wf s = true) : Memory.wf (s.post w ctx k bytes) = true := by
  unfold State.post
  split
  · exact (wf_congr _ _ rfl rfl rfl rfl).trans (putOverBytes_wf bytes s k h)
  · exact h

/-- What the caches hold of a write before it is laid down: no byte is another. -/
theorem putDev_first_same (s : State) (ctx d : Nat) (b : Bool) (ls : List Nat) :
    SameBytes s (if b then storeMargin (s.dirtyDie ctx d) d ls else s) := by
  cases b
  · exact SameBytes.refl s
  · exact (dirtyDie_same s ctx d).trans (storeMargin_same _ _ _)
theorem putDev_l2_same (s : State) (ctx d hint : Nat) (ls : List Nat) :
    SameBytes s (ls.foldl (fun s l => useL2 s l hint) (s.dirtyDie ctx d)) :=
  (dirtyDie_same s ctx d).trans (SameBytes.foldl _ (fun s l => useL2_same s l hint) ls _)

/-- Bytes written by the device keep the form. -/
theorem putDevBytes_wf (s : State) (w ctx k : Nat) (bytes : List Byte) (hint : Nat) (h : Memory.wf s = true) :
    Memory.wf (s.putDevBytes w ctx k bytes hint) = true := by
  unfold State.putDevBytes
  dsimp only
  split
  · exact post_wf s w ctx k bytes h
  · generalize hs : (if decide (w < 512 ∧ w / 128 ≠ keyDie k) = true then
      storeMargin (s.dirtyDie ctx (w / 128)) (w / 128) (keyLines k bytes.length) else s) = s1
    have h1 : Memory.wf s1 = true := by rw [← hs, (putDev_first_same s ctx _ _ _).wf]; exact h
    split
    · exact putOverBytes_wf bytes _ k ((putDev_l2_same s1 ctx _ _ _).wf.trans h1)
    · split
      · exact (wf_congr _ _ rfl rfl rfl rfl).trans (putOverBytes_wf bytes _ k h1)
      · exact putHomeBytes_wf bytes _ k h1

/-- Writing at a place keeps the form. -/
theorem putPlace_wf (s : State) (w ctx : Nat) (p : Place) (bytes : List Byte) (bad : Bool) (hint : Nat) (h : Memory.wf s = true) :
    Memory.wf (putPlace s w ctx p bytes bad hint) = true := by
  unfold putPlace
  dsimp only
  rw [touchLines_wf]
  split
  · exact h
  · exact (wf_congr _ _ rfl rfl rfl rfl).trans (putDevBytes_wf _ w ctx _ bytes hint ((rewrites_wf _ _ _).trans h))
  · exact h

theorem writePlace_wf (s : State) (ctx : Nat) (p : Place) (bytes : List Byte) (bad : Bool) (w : Nat) (h : Memory.wf s = true) :
    Memory.wf (writePlace s ctx p bytes bad w) = true :=
  putPlace_wf _ w ctx p bytes bad 0 ((unhide_wf s p bytes.length).trans h)

theorem seenBy_wf (s : State) (core : Nat) (p : Place) (n : Nat) : Memory.wf (seenBy s core p n) = Memory.wf s := by
  unfold seenBy seeWords
  split <;> rfl

theorem storeBad_wf (s : State) (core : Nat) (p : Place) (bytes : List Byte) : Memory.wf (storeBad s core p bytes) = Memory.wf s := by
  unfold storeBad
  split <;> rfl

/-- A write that other agents may see later keeps the form. -/
theorem shareWrite_wf (s : State) (w ctx : Nat) (p : Place) (bytes : List Byte) (bad : Bool) (hint : Nat) (h : Memory.wf s = true) :
    Memory.wf (shareWrite s w ctx p bytes bad hint) = true := by
  unfold shareWrite
  dsimp only
  have hf (s : State) (n : Nat) (l : List Place) (h : Memory.wf s = true) :
      Memory.wf (l.foldl (fun s x => keepForm s n w x) s) = true :=
    foldl_invariant (fun b a => keepForm b n w a) (fun s => Memory.wf s = true) (fun b a hb => hb) l s h
  refine putPlace_wf _ w ctx p bytes bad hint ?_
  split <;> split
  · exact hf _ _ _ ((storeBad_wf _ _ _ _).trans ((seenBy_wf _ _ _ _).trans h))
  · exact (storeBad_wf _ _ _ _).trans ((seenBy_wf _ _ _ _).trans h)
  · exact hf _ _ _ h
  · exact h

/-- Writing at home, past every cache, keeps the form. -/
theorem homePut_wf (s : State) (k : Nat) (bytes : List Byte) (h : Memory.wf s = true) : Memory.wf (homePut s k bytes) = true := by
  unfold homePut
  dsimp only
  rw [touchKey_wf]
  exact (wf_congr _ _ rfl rfl rfl rfl).trans (putHomeBytes_wf bytes _ k ((unhide_wf _ _ _).trans h))

/-- Writing back keeps the form. -/
theorem writeBack_wf (s : State) (out : Nat → Bool) (h : Memory.wf s = true) : Memory.wf (s.writeBack out) = true := by
  refine foldl_invariant _ (fun s => Memory.wf s = true) (fun b a hb => ?_) _ _ h
  cases a.2 with
  | none => exact hb
  | some v => exact putHome_wf b a.1 v hb

/-- Eviction keeps the form. -/
theorem evict_wf (s : State) (line : Nat) (h : Memory.wf s = true) : Memory.wf (s.evict line) = true :=
  (wf_congr _ _ rfl rfl rfl rfl).trans (writeBack_wf s _ h)

/-- The release flush keeps the form. -/
theorem flush_wf (s : State) (ctx : Nat) (h : Memory.wf s = true) : Memory.wf (s.flush ctx) = true :=
  (wf_congr _ _ rfl rfl rfl rfl).trans (writeBack_wf s _ h)

/-- The arrival of what a link carries keeps the form. -/
theorem landLink_wf (s : State) (l : Nat) (h : Memory.wf s = true) : Memory.wf (landLink s l) = true := by
  unfold landLink
  split
  · exact h
  · refine (wf_congr _ _ rfl rfl rfl rfl).trans (filterL2_wf _ _ (foldl_invariant _ (fun s => Memory.wf s = true) (fun b a hb => ?_) _ _ h))
    exact putMemBytes_wf a.bytes b a.key hb

theorem landAt_wf (s : State) (i : Nat) (h : Memory.wf s = true) : Memory.wf (landAt s i) = true := by
  unfold landAt
  split
  · next p _ =>
    split
    · exact (wf_congr _ _ rfl rfl rfl rfl).trans (filterL2_wf _ _ (putMemBytes_wf p.bytes s p.key h))
    · exact h
  · exact h

/-! ### Reading after writing -/

/-- A table with an entry written under one default, read elsewhere under another. -/
theorem cget_cset_other {α : Type} [DecidableEq α] (d d' : α) (m : Cells α) (k j : Nat) (b : α) (h : j ≠ k) :
    cget d (cset d' m k b) j = cget d m j := by
  induction m with
  | nil =>
    have : k ≠ j := fun e => h e.symm
    by_cases hb : b = d' <;> simp [cset, cget, hb, this]
  | cons e r ih =>
    obtain ⟨a, w⟩ := e
    have hk : k ≠ j := fun e => h e.symm
    by_cases h1 : k < a
    · by_cases hb : b = d'
      · simp [cset, h1, hb]
      · by_cases h4 : j < k
        · have h5 : a ≠ j := by omega
          have h6 : j < a := by omega
          simp [cset, cget, h1, hb, hk, h4, h5, h6]
        · simp [cset, cget, h1, hb, hk, h4]
    · by_cases h2 : k = a
      · subst h2
        by_cases hb : b = d'
        · rcases Nat.lt_or_gt_of_ne h with h4 | h4
          · simpa [cset, cget, hb, hk, h4] using cget_dropWhile_lt (d) r k j h4
          · have h5 : ¬ j < k := by omega
            simpa [cset, cget, hb, hk, h5] using cget_dropWhile_gt (d) r k j h4
        · simp [cset, cget, hb, hk]
      · simp only [cset, cget, h1, h2, if_false]
        by_cases h7 : a = j
        · simp [h7]
        · by_cases h8 : j < a
          · simp [h7, h8]
          · simp [h7, h8, ih]


/-- A byte written where memory is reads back there. -/
theorem putMem_homeByte_self (s : State) (k : Nat) (b : Byte) (h : s.present k = true) : (s.putMem k b).homeByte k = b := by
  have hb := blank_congr s (s.putMem k b) (by simp) (by simp)
  simp only [State.homeByte, hb]
  simp [State.putMem, h]
theorem putMem_homeByte_ne (s : State) (k j : Nat) (b : Byte) (h : j ≠ k) : (s.putMem k b).homeByte j = s.homeByte j := by
  have hb := blank_congr s (s.putMem k b) (by simp) (by simp)
  simp only [State.homeByte, hb]
  unfold State.putMem
  split
  · exact cget_cset_other _ _ _ _ _ _ h
  · rfl

/-- A byte written at home is read there by everyone. -/
theorem putHome_homeByte_self (s : State) (k : Nat) (b : Byte) (h : s.present k = true) : (s.putHome k b).homeByte k = b :=
  putMem_homeByte_self s k b h
theorem putHome_homeByte_ne (s : State) (k j : Nat) (b : Byte) (h : j ≠ k) : (s.putHome k b).homeByte j = s.homeByte j :=
  putMem_homeByte_ne s k j b h
theorem putHome_devByte_self (s : State) (k : Nat) (b : Byte) (h : s.present k = true) : (s.putHome k b).devByte k = b := by
  simp [State.devByte, putHome_homeByte_self s k b h]
theorem putHome_devByte_ne (s : State) (k j : Nat) (b : Byte) (h : j ≠ k) : (s.putHome k b).devByte j = s.devByte j := by
  simp [State.devByte, putHome_homeByte_ne s k j b h, h]

/-- A byte that home does not hold yet is what the device reads there. -/
theorem putOver_devByte_self (s : State) (k : Nat) (b : Byte) (h : s.present k = true) : (s.putOver k b).devByte k = b := by
  simp [State.devByte, State.putOver, h]
theorem putOver_homeByte (s : State) (k j : Nat) (b : Byte) : (s.putOver k b).homeByte j = s.homeByte j := by
  simp [State.homeByte, blank_congr s (s.putOver k b) (by simp) (by simp)]
theorem putOver_devByte_ne (s : State) (k j : Nat) (b : Byte) (h : j ≠ k) : (s.putOver k b).devByte j = s.devByte j := by
  simp only [State.devByte, putOver_homeByte]
  unfold State.putOver
  split
  · simp [h]
  · rfl

/-- What a write of one byte does to what the device reads gives what a write of bytes does: they are read back one for one, where memory is,
and bytes outside the range stay. -/
theorem bytes_devByte (put : State → Nat → Byte → State) (puts : State → Nat → List Byte → State)
    (hnil : ∀ s k, puts s k [] = s) (hcons : ∀ s k b r, puts s k (b :: r) = puts (put s k b) (k + 1) r)
    (hp : ∀ s k b, (put s k b).present = s.present)
    (hself : ∀ s k b, s.present k = true → (put s k b).devByte k = b)
    (hne : ∀ s k j b, j ≠ k → (put s k b).devByte j = s.devByte j) (bs : List Byte) : ∀ (s : State) (k j : Nat),
    (∀ i < bs.length, s.present (k + i) = true) →
    (puts s k bs).devByte j = if k ≤ j ∧ j < k + bs.length then bs.getD (j - k) 0 else s.devByte j := by
  induction bs with
  | nil => intro s k j _; simp [hnil] <;> (intro h1 h2; omega)
  | cons b r ih =>
    intro s k j hall
    have hr : ∀ i < r.length, (put s k b).present (k + 1 + i) = true := by
      intro i hi
      rw [hp, show k + 1 + i = k + (i + 1) by omega]
      exact hall (i + 1) (by simpa using hi)
    rw [hcons, ih _ _ _ hr]
    by_cases h1 : j = k
    · subst h1
      have h2 : ¬ (j + 1 ≤ j ∧ j < j + 1 + r.length) := by omega
      rw [if_neg h2, hself _ _ _ (by simpa using hall 0 (by simp)), if_pos (by simp)]
      simp
    · rw [hne _ _ _ _ h1]
      by_cases h2 : k + 1 ≤ j ∧ j < k + 1 + r.length
      · rw [if_pos h2, if_pos (by simp only [List.length_cons]; omega)]
        obtain ⟨n, hn⟩ : ∃ n, j - k = n + 1 := ⟨j - k - 1, by omega⟩
        have h3 : j - (k + 1) = n := by omega
        rw [h3, hn, List.getD_cons_succ]
      · rw [if_neg h2, if_neg (by simp only [List.length_cons]; omega)]

theorem putHomeBytes_devByte (bs : List Byte) (s : State) (k j : Nat) (h : ∀ i < bs.length, s.present (k + i) = true) :
    (s.putHomeBytes k bs).devByte j = if k ≤ j ∧ j < k + bs.length then bs.getD (j - k) 0 else s.devByte j :=
  bytes_devByte State.putHome State.putHomeBytes (fun _ _ => rfl) (fun _ _ _ _ => rfl) (fun s k b => present_congr _ _ (by simp))
    putHome_devByte_self putHome_devByte_ne bs s k j h

theorem putOverBytes_devByte (bs : List Byte) (s : State) (k j : Nat) (h : ∀ i < bs.length, s.present (k + i) = true) :
    (s.putOverBytes k bs).devByte j = if k ≤ j ∧ j < k + bs.length then bs.getD (j - k) 0 else s.devByte j :=
  bytes_devByte State.putOver State.putOverBytes (fun _ _ => rfl) (fun _ _ _ _ => rfl) (fun s k b => present_congr _ _ (by simp))
    putOver_devByte_self putOver_devByte_ne bs s k j h

theorem present_of {s t : State} (hd : t.dies = s.dies) {k n : Nat} (h : ∀ i < n, s.present (k + i) = true) :
    ∀ i < n, t.present (k + i) = true := fun i hi => by rw [present_congr s t hd]; exact h i hi

/-- What the device reads depends on the bytes at home, those newer, the seeds and the dies' shares alone. -/
theorem devByte_congr (s t : State) (hm : t.mem = s.mem) (hl : t.l2 = s.l2) (hn : t.nearSeed = s.nearSeed) (hd : t.dies = s.dies) :
    t.devByte = s.devByte := by
  funext k
  simp only [State.devByte, State.homeByte, hm, hl, blank_congr s t hd hn]

/-- What the device writes where memory is, to the host with a link up, is read back byte for byte; bytes outside the range stay. -/
theorem putDevBytes_devByte (s : State) (w ctx k : Nat) (bs : List Byte) (hint j : Nat) (h : ∀ i < bs.length, s.present (k + i) = true)
    (hu : keyKind k = 2 → hostUp s = true) :
    (s.putDevBytes w ctx k bs hint).devByte j = if k ≤ j ∧ j < k + bs.length then bs.getD (j - k) 0 else s.devByte j := by
  have put (t : State) (ht : SameBytes s t) :
      (t.putOverBytes k bs).devByte j = if k ≤ j ∧ j < k + bs.length then bs.getD (j - k) 0 else s.devByte j := by
    rw [putOverBytes_devByte bs _ k j (present_of ht.2.2.2 h), devByte_congr s t ht.1 ht.2.1 ht.2.2.1 ht.2.2.2]
  unfold State.putDevBytes
  dsimp only
  split
  · next h2 =>
    unfold State.post
    rw [if_pos (hu h2)]
    exact (congrFun (devByte_congr (s.putOverBytes k bs) _ rfl rfl rfl rfl) j).trans (put s (SameBytes.refl s))
  · generalize hs : (if decide (w < 512 ∧ w / 128 ≠ keyDie k) = true then
      storeMargin (s.dirtyDie ctx (w / 128)) (w / 128) (keyLines k bs.length) else s) = s1
    have h1 : SameBytes s s1 := by rw [← hs]; exact putDev_first_same s ctx _ _ _
    split
    · exact put _ (h1.trans (putDev_l2_same s1 ctx _ _ _))
    · split
      · exact (congrFun (devByte_congr (s1.putOverBytes k bs) _ rfl rfl rfl rfl) j).trans (put s1 h1)
      · rw [putHomeBytes_devByte bs _ k j (present_of h1.2.2.2 h), devByte_congr s s1 h1.1 h1.2.1 h1.2.2.1 h1.2.2.2]

/-! ### An access by address of a unit of the hub die leaves Scriptor's registers alone -/

theorem touchKey_threadReg (s : State) (k n : Nat) : (s.touchKey k n).threadReg = s.threadReg :=
  foldl_keeps State.touch State.threadReg (fun b a => (congrArg State.threadReg (touch_only b a) :)) _ s

theorem putMem_threadReg (s : State) (k : Nat) (b : Byte) : (s.putMem k b).threadReg = s.threadReg := by
  unfold State.putMem; split <;> rfl

theorem putHomeBytes_threadReg (bs : List Byte) : ∀ (s : State) (k : Nat), (s.putHomeBytes k bs).threadReg = s.threadReg := by
  induction bs with
  | nil => exact fun _ _ => rfl
  | cons b r ih => exact fun s k => (ih _ _).trans (putMem_threadReg s k b)

theorem homePut_threadReg (s : State) (k : Nat) (bs : List Byte) : (homePut s k bs).threadReg = s.threadReg := by
  unfold homePut
  refine (touchKey_threadReg _ _ _).trans ((putHomeBytes_threadReg _ _ _).trans ?_)
  unfold State.unhide; split <;> rfl

theorem setBits_threadReg (s : State) (key set : Nat) : (setBits s key set).threadReg = s.threadReg := by
  unfold setBits
  dsimp only
  split
  · rfl
  · exact (touchKey_threadReg _ _ _).trans (putMem_threadReg _ _ _)

theorem walk_threadReg (s : State) (ctx : Nat) (spec : Bool) (acc : Acc) (va : Nat) : (walk s ctx spec acc va).1.threadReg = s.threadReg := by
  unfold walk
  split
  · rfl
  · dsimp only
    split
    · rfl
    · exact setBits_threadReg _ _ _
  · have h : ∀ e k w, (firstTouch s ctx e k w).1.threadReg = s.threadReg := by
      intro e k w
      unfold firstTouch; dsimp only
      split
      · rfl
      · exact homePut_threadReg _ _ _
    split <;> next e => exact (congrArg (fun x => x.1.threadReg) e).symm.trans (h _ _ _)

theorem hubTranslate_threadReg (s : State) (ctx n : Nat) (acc : Acc) (va : Nat) :
    (translate s (hubAgent ctx n) acc va).1.threadReg = s.threadReg := by
  have h := walk_threadReg s (hubAgent ctx n).ctx (hubAgent ctx n).spec acc va
  simp only [translate, hubAgent, Option.map_none, List.find?_nil]
  split <;> next e => exact (congrArg (fun x => x.1.threadReg) e).symm.trans h

theorem hubPlaceVa_threadReg (s : State) (ctx n : Nat) (acc : Acc) (va : Nat) : (placeVa s (hubAgent ctx n) acc va).1.threadReg = s.threadReg := by
  have h : (place s (hubAgent ctx n) acc va).1.threadReg = s.threadReg := by
    unfold place
    split
    · rfl
    · have ht := hubTranslate_threadReg s ctx n acc va
      split <;> next e => 
        rw [e] at ht
        first
        | exact ht
        | refine Eq.trans ?_ ht
          unfold hostLost
          split
          · split <;> rfl
          · rfl
  unfold placeVa
  split <;> next e => exact (congrArg (fun x => x.1.threadReg) e).symm.trans h

/-- A read by address changes no register of Scriptor. -/
theorem hubReadVa_threadReg (s : State) (ctx m : Nat) (acc : Acc) (va n : Nat) : (readVa s (hubAgent ctx m) acc va n).1.threadReg = s.threadReg := by
  have h : ∀ (l : List (Nat × Nat)) (s : State), (placesOf s (hubAgent ctx m) acc l).1.threadReg = s.threadReg := by
    intro l
    induction l with
    | nil => exact fun _ => rfl
    | cons e r ih =>
      intro s
      obtain ⟨va, n⟩ := e
      have hp := hubPlaceVa_threadReg s ctx m acc va
      unfold placesOf
      split
      · next e => rw [e] at hp; exact hp
      · next s1 p e =>
        rw [e] at hp
        split
        · exact hp
        · have hi := ih s1
          split <;> next e => exact ((congrArg (fun x => x.1.threadReg) e).symm.trans hi).trans hp
  unfold readVa
  split <;> next e => exact (congrArg (fun x => x.1.threadReg) e).symm.trans (h _ _)
/-- An address of a context lies below Scriptor's local memory. -/
theorem onStack_low (th va n : Nat) (h : va < 2 ^ 52) : onStack th va n = none := by
  have : ¬ scriptorBase ≤ va := by
    unfold scriptorBase
    generalize Config.scriptorBase % 4095 = a
    omega
  simp [onStack, this]

/-- A prologue returns to an even address above every address of a context. -/
theorem prologueReturn_range (th : Nat) : 2 ^ 52 ≤ prologueReturn th ∧ prologueReturn th < 2 ^ 64 ∧ prologueReturn th % 2 = 0 := by
  have ha : Config.scriptorBase % 4095 < 4095 := Nat.mod_lt _ (by decide)
  have hb : Config.prologueReturn th % 2 ^ 30 < 2 ^ 30 := Nat.mod_lt _ (by decide)
  unfold prologueReturn scriptorBase
  generalize Config.scriptorBase % 4095 = a at ha ⊢
  generalize Config.prologueReturn th % 2 ^ 30 = b at hb ⊢
  omega

end Sys2Proof.Machine
end

