-- ==== Sys2Proof/Laws/PerInstr.lean ====
section
/-! SUPPORT. Decoding and encoding agree, instruction by instruction (14 R271, 15 R288): the words of a well-formed instruction,
with any words after them, decode to it and to those words. -/

namespace Sys2Proof.Laws.RoundTrip

set_option Elab.async false

/-- The words of a well-formed instruction decode to it, whatever follows them. -/
def Statement (i : Instr) : Prop := i.wellFormed = true → ∀ rest, decode (encode i ++ rest) = .ok (i, rest)

theorem nop (d a b : Opnd) : Statement (.nop d a b) := fun _ rest => by simp [encode, decode, decodeWord, decodeRow0]
theorem bra (off : BitVec 24) : Statement (.bra off) := fun _ rest => by simp [encode, decode, decodeWord, decodeRow0]
theorem brg (off : BitVec 24) : Statement (.brg off) := fun _ rest => by simp [encode, decode, decodeWord, decodeRow0]
theorem brz (d : Opnd) (imm : BitVec 16) : Statement (.brz d imm) := fun _ rest => by simp [encode, decode, decodeWord, decodeRow0]
theorem brnz (d : Opnd) (imm : BitVec 16) : Statement (.brnz d imm) := fun _ rest => by simp [encode, decode, decodeWord, decodeRow0]
theorem call (off : BitVec 24) : Statement (.call off) := fun _ rest => by simp [encode, decode, decodeWord, decodeRow0]
theorem ret (d a b : Opnd) : Statement (.ret d a b) := fun _ rest => by simp [encode, decode, decodeWord, decodeRow0]
theorem rcv (off : BitVec 24) : Statement (.rcv off) := fun _ rest => by simp [encode, decode, decodeWord, decodeRow0]
theorem join (d a b : Opnd) : Statement (.join d a b) := fun _ rest => by simp [encode, decode, decodeWord, decodeRow0]
theorem yield (d a b : Opnd) : Statement (.yield d a b) := fun _ rest => by simp [encode, decode, decodeWord, decodeRow0]
theorem bri (d a b : Opnd) : Statement (.bri d a b) := fun _ rest => by simp [encode, decode, decodeWord, decodeRow0]
theorem modeSet (d a b : Opnd) : Statement (.modeSet d a b) := fun _ rest => by simp [encode, decode, decodeWord, decodeRow0]
theorem modeGet (d a b : Opnd) : Statement (.modeGet d a b) := fun _ rest => by simp [encode, decode, decodeWord, decodeRow0]
theorem modeGuard (d : Opnd) (imm : BitVec 16) : Statement (.modeGuard d imm) := fun _ rest => by simp [encode, decode, decodeWord, decodeRow0]
theorem modeType (d : Opnd) (imm : BitVec 16) : Statement (.modeType d imm) := fun _ rest => by simp [encode, decode, decodeWord, decodeRow0]
theorem modeRnd (d : Opnd) (imm : BitVec 16) : Statement (.modeRnd d imm) := fun _ rest => by simp [encode, decode, decodeWord, decodeRow0]
theorem sadd (d a b : Opnd) : Statement (.sadd d a b) := fun _ rest => by simp [encode, decode, decodeWord, decodeRow1]
theorem ssub (d a b : Opnd) : Statement (.ssub d a b) := fun _ rest => by simp [encode, decode, decodeWord, decodeRow1]
theorem smul (d a b : Opnd) : Statement (.smul d a b) := fun _ rest => by simp [encode, decode, decodeWord, decodeRow1]
theorem slih (d : Opnd) (imm : BitVec 16) : Statement (.slih d imm) := fun _ rest => by simp [encode, decode, decodeWord, decodeRow1]
theorem sdiv (d a b : Opnd) : Statement (.sdiv d a b) := fun _ rest => by simp [encode, decode, decodeWord, decodeRow1]
theorem modeSrc (d : Opnd) (imm : BitVec 16) : Statement (.modeSrc d imm) := fun _ rest => by simp [encode, decode, decodeWord, decodeRow1]
theorem sand (d a b : Opnd) : Statement (.sand d a b) := fun _ rest => by simp [encode, decode, decodeWord, decodeRow1]
theorem sor (d a b : Opnd) : Statement (.sor d a b) := fun _ rest => by simp [encode, decode, decodeWord, decodeRow1]
theorem sxor (d a b : Opnd) : Statement (.sxor d a b) := fun _ rest => by simp [encode, decode, decodeWord, decodeRow1]
theorem sshl (d a b : Opnd) : Statement (.sshl d a b) := fun _ rest => by simp [encode, decode, decodeWord, decodeRow1]
theorem sshr (d a b : Opnd) : Statement (.sshr d a b) := fun _ rest => by simp [encode, decode, decodeWord, decodeRow1]
theorem ssra (d a b : Opnd) : Statement (.ssra d a b) := fun _ rest => by simp [encode, decode, decodeWord, decodeRow1]
theorem sslt (d a b : Opnd) : Statement (.sslt d a b) := fun _ rest => by simp [encode, decode, decodeWord, decodeRow1]
theorem ssltn (d a b : Opnd) : Statement (.ssltn d a b) := fun _ rest => by simp [encode, decode, decodeWord, decodeRow1]
theorem saddi (d : Opnd) (imm : BitVec 16) : Statement (.saddi d imm) := fun _ rest => by simp [encode, decode, decodeWord, decodeRow1]
theorem sli (d : Opnd) (imm : BitVec 16) : Statement (.sli d imm) := fun _ rest => by simp [encode, decode, decodeWord, decodeRow1]
theorem add (d a b : Opnd) : Statement (.add d a b) := fun _ rest => by simp [encode, decode, decodeWord, decodeRow2]
theorem sub (d a b : Opnd) : Statement (.sub d a b) := fun _ rest => by simp [encode, decode, decodeWord, decodeRow2]
theorem mul (d a b : Opnd) : Statement (.mul d a b) := fun _ rest => by simp [encode, decode, decodeWord, decodeRow2]
theorem mulh (d a b : Opnd) : Statement (.mulh d a b) := fun _ rest => by simp [encode, decode, decodeWord, decodeRow2]
theorem mad (d a b : Opnd) : Statement (.mad d a b) := fun _ rest => by simp [encode, decode, decodeWord, decodeRow2]
theorem min (d a b : Opnd) : Statement (.min d a b) := fun _ rest => by simp [encode, decode, decodeWord, decodeRow2]
theorem max (d a b : Opnd) : Statement (.max d a b) := fun _ rest => by simp [encode, decode, decodeWord, decodeRow2]
theorem abs (d a b : Opnd) : Statement (.abs d a b) := fun _ rest => by simp [encode, decode, decodeWord, decodeRow2]
theorem neg (d a b : Opnd) : Statement (.neg d a b) := fun _ rest => by simp [encode, decode, decodeWord, decodeRow2]
theorem and (d a b : Opnd) : Statement (.and d a b) := fun _ rest => by simp [encode, decode, decodeWord, decodeRow2]
theorem or (d a b : Opnd) : Statement (.or d a b) := fun _ rest => by simp [encode, decode, decodeWord, decodeRow2]
theorem xor (d a b : Opnd) : Statement (.xor d a b) := fun _ rest => by simp [encode, decode, decodeWord, decodeRow2]
theorem not (d a b : Opnd) : Statement (.not d a b) := fun _ rest => by simp [encode, decode, decodeWord, decodeRow2]
theorem shl (d a b : Opnd) : Statement (.shl d a b) := fun _ rest => by simp [encode, decode, decodeWord, decodeRow2]
theorem shr (d a b : Opnd) : Statement (.shr d a b) := fun _ rest => by simp [encode, decode, decodeWord, decodeRow2]
theorem rot (d a b : Opnd) : Statement (.rot d a b) := fun _ rest => by simp [encode, decode, decodeWord, decodeRow2]
theorem clz (d a b : Opnd) : Statement (.clz d a b) := fun _ rest => by simp [encode, decode, decodeWord, decodeRow3]
theorem popc (d a b : Opnd) : Statement (.popc d a b) := fun _ rest => by simp [encode, decode, decodeWord, decodeRow3]
theorem brev (d a b : Opnd) : Statement (.brev d a b) := fun _ rest => by simp [encode, decode, decodeWord, decodeRow3]
theorem addi (d : Opnd) (imm : BitVec 16) : Statement (.addi d imm) := fun _ rest => by simp [encode, decode, decodeWord, decodeRow3]
theorem mov (d a b : Opnd) : Statement (.mov d a b) := fun _ rest => by simp [encode, decode, decodeWord, decodeRow3]
theorem movi (d : Opnd) (imm : BitVec 16) : Statement (.movi d imm) := fun _ rest => by simp [encode, decode, decodeWord, decodeRow3]
theorem sel (d a b : Opnd) : Statement (.sel d a b) := fun _ rest => by simp [encode, decode, decodeWord, decodeRow3]
theorem cmpEq (d a b : Opnd) : Statement (.cmpEq d a b) := fun _ rest => by simp [encode, decode, decodeWord, decodeRow3]
theorem cmpNe (d a b : Opnd) : Statement (.cmpNe d a b) := fun _ rest => by simp [encode, decode, decodeWord, decodeRow3]
theorem cmpLt (d a b : Opnd) : Statement (.cmpLt d a b) := fun _ rest => by simp [encode, decode, decodeWord, decodeRow3]
theorem cmpLe (d a b : Opnd) : Statement (.cmpLe d a b) := fun _ rest => by simp [encode, decode, decodeWord, decodeRow3]
theorem cmpUn (d a b : Opnd) : Statement (.cmpUn d a b) := fun _ rest => by simp [encode, decode, decodeWord, decodeRow3]
theorem div (d a b : Opnd) : Statement (.div d a b) := fun _ rest => by simp [encode, decode, decodeWord, decodeRow3]
theorem rem (d a b : Opnd) : Statement (.rem d a b) := fun _ rest => by simp [encode, decode, decodeWord, decodeRow3]
theorem li32 (d a b : Opnd) (lit : W32) : Statement (.li32 d a b lit) := fun _ rest => by simp [encode, decode, decodeWord, decodeRow3]
theorem clamp (d a b : Opnd) : Statement (.clamp d a b) := fun _ rest => by simp [encode, decode, decodeWord, decodeRow3]
theorem sqrt (d a b : Opnd) : Statement (.sqrt d a b) := fun _ rest => by simp [encode, decode, decodeWord, decodeRow4]
theorem rsq (d a b : Opnd) : Statement (.rsq d a b) := fun _ rest => by simp [encode, decode, decodeWord, decodeRow4]
theorem rcp (d a b : Opnd) : Statement (.rcp d a b) := fun _ rest => by simp [encode, decode, decodeWord, decodeRow4]
theorem exp2 (d a b : Opnd) : Statement (.exp2 d a b) := fun _ rest => by simp [encode, decode, decodeWord, decodeRow4]
theorem log2 (d a b : Opnd) : Statement (.log2 d a b) := fun _ rest => by simp [encode, decode, decodeWord, decodeRow4]
theorem sin (d a b : Opnd) : Statement (.sin d a b) := fun _ rest => by simp [encode, decode, decodeWord, decodeRow4]
theorem cos (d a b : Opnd) : Statement (.cos d a b) := fun _ rest => by simp [encode, decode, decodeWord, decodeRow4]
theorem tanh (d a b : Opnd) : Statement (.tanh d a b) := fun _ rest => by simp [encode, decode, decodeWord, decodeRow4]
theorem sigm (d a b : Opnd) : Statement (.sigm d a b) := fun _ rest => by simp [encode, decode, decodeWord, decodeRow4]
theorem erf (d a b : Opnd) : Statement (.erf d a b) := fun _ rest => by simp [encode, decode, decodeWord, decodeRow4]
theorem floor (d a b : Opnd) : Statement (.floor d a b) := fun _ rest => by simp [encode, decode, decodeWord, decodeRow4]
theorem ceil (d a b : Opnd) : Statement (.ceil d a b) := fun _ rest => by simp [encode, decode, decodeWord, decodeRow4]
theorem trunc (d a b : Opnd) : Statement (.trunc d a b) := fun _ rest => by simp [encode, decode, decodeWord, decodeRow4]
theorem rint (d a b : Opnd) : Statement (.rint d a b) := fun _ rest => by simp [encode, decode, decodeWord, decodeRow4]
theorem fclass (d a b : Opnd) : Statement (.fclass d a b) := fun _ rest => by simp [encode, decode, decodeWord, decodeRow4]
theorem scalb (d a b : Opnd) : Statement (.scalb d a b) := fun _ rest => by simp [encode, decode, decodeWord, decodeRow4]
theorem cvt (d a b : Opnd) : Statement (.cvt d a b) := fun _ rest => by simp [encode, decode, decodeWord, decodeRow5]
theorem cvtp (d a b : Opnd) : Statement (.cvtp d a b) := fun _ rest => by simp [encode, decode, decodeWord, decodeRow5]
theorem qnt (d a b : Opnd) : Statement (.qnt d a b) := fun _ rest => by simp [encode, decode, decodeWord, decodeRow5]
theorem dqnt (d a b : Opnd) : Statement (.dqnt d a b) := fun _ rest => by simp [encode, decode, decodeWord, decodeRow5]
theorem dot4 (d a b : Opnd) : Statement (.dot4 d a b) := fun _ rest => by simp [encode, decode, decodeWord, decodeRow5]
theorem minp (d a b : Opnd) : Statement (.minp d a b) := fun _ rest => by simp [encode, decode, decodeWord, decodeRow5]
theorem maxp (d a b : Opnd) : Statement (.maxp d a b) := fun _ rest => by simp [encode, decode, decodeWord, decodeRow5]
theorem ballot (d a b : Opnd) : Statement (.ballot d a b) := fun _ rest => by simp [encode, decode, decodeWord, decodeRow6]
theorem pcnt (d a b : Opnd) : Statement (.pcnt d a b) := fun _ rest => by simp [encode, decode, decodeWord, decodeRow6]
theorem prank (d a b : Opnd) : Statement (.prank d a b) := fun _ rest => by simp [encode, decode, decodeWord, decodeRow6]
theorem shfl (d a b : Opnd) : Statement (.shfl d a b) := fun _ rest => by simp [encode, decode, decodeWord, decodeRow6]
theorem shflX (d a b : Opnd) : Statement (.shflX d a b) := fun _ rest => by simp [encode, decode, decodeWord, decodeRow6]
theorem shflUp (d a b : Opnd) : Statement (.shflUp d a b) := fun _ rest => by simp [encode, decode, decodeWord, decodeRow6]
theorem shflDn (d a b : Opnd) : Statement (.shflDn d a b) := fun _ rest => by simp [encode, decode, decodeWord, decodeRow6]
theorem rdlane (d a b : Opnd) : Statement (.rdlane d a b) := fun _ rest => by simp [encode, decode, decodeWord, decodeRow6]
theorem wrlane (d a b : Opnd) : Statement (.wrlane d a b) := fun _ rest => by simp [encode, decode, decodeWord, decodeRow6]
theorem matchN (d a b : Opnd) : Statement (.matchN d a b) := fun _ rest => by simp [encode, decode, decodeWord, decodeRow6]
theorem matchB (d a b : Opnd) : Statement (.matchB d a b) := fun _ rest => by simp [encode, decode, decodeWord, decodeRow6]
theorem tredAdd (d a b : Opnd) : Statement (.tredAdd d a b) := fun _ rest => by simp [encode, decode, decodeWord, decodeRow6]
theorem tredMin (d a b : Opnd) : Statement (.tredMin d a b) := fun _ rest => by simp [encode, decode, decodeWord, decodeRow6]
theorem tredMax (d a b : Opnd) : Statement (.tredMax d a b) := fun _ rest => by simp [encode, decode, decodeWord, decodeRow6]
theorem tredAnd (d a b : Opnd) : Statement (.tredAnd d a b) := fun _ rest => by simp [encode, decode, decodeWord, decodeRow6]
theorem tredOr (d a b : Opnd) : Statement (.tredOr d a b) := fun _ rest => by simp [encode, decode, decodeWord, decodeRow6]
theorem tscanAdd (d a b : Opnd) : Statement (.tscanAdd d a b) := fun _ rest => by simp [encode, decode, decodeWord, decodeRow7]
theorem pand (d a b : Opnd) : Statement (.pand d a b) := fun _ rest => by simp [encode, decode, decodeWord, decodeRow7]
theorem por (d a b : Opnd) : Statement (.por d a b) := fun _ rest => by simp [encode, decode, decodeWord, decodeRow7]
theorem pxor (d a b : Opnd) : Statement (.pxor d a b) := fun _ rest => by simp [encode, decode, decodeWord, decodeRow7]
theorem pnot (d a b : Opnd) : Statement (.pnot d a b) := fun _ rest => by simp [encode, decode, decodeWord, decodeRow7]
theorem pnz (d a b : Opnd) : Statement (.pnz d a b) := fun _ rest => by simp [encode, decode, decodeWord, decodeRow7]
theorem pval (d a b : Opnd) : Statement (.pval d a b) := fun _ rest => by simp [encode, decode, decodeWord, decodeRow7]
theorem any (d a b : Opnd) : Statement (.any d a b) := fun _ rest => by simp [encode, decode, decodeWord, decodeRow7]
theorem all (d a b : Opnd) : Statement (.all d a b) := fun _ rest => by simp [encode, decode, decodeWord, decodeRow7]
theorem ld (d a : Opnd) (off : BitVec 8) : Statement (.ld d a off) := fun _ rest => by simp [encode, decode, decodeWord, decodeRow8]
theorem ldS (d a : Opnd) (off : BitVec 8) : Statement (.ldS d a off) := fun _ rest => by simp [encode, decode, decodeWord, decodeRow8]
theorem ldK (d a : Opnd) (off : BitVec 8) : Statement (.ldK d a off) := fun _ rest => by simp [encode, decode, decodeWord, decodeRow8]
theorem ldB (d a : Opnd) (off : BitVec 8) : Statement (.ldB d a off) := fun _ rest => by simp [encode, decode, decodeWord, decodeRow8]
theorem st (d a : Opnd) (off : BitVec 8) : Statement (.st d a off) := fun _ rest => by simp [encode, decode, decodeWord, decodeRow8]
theorem stS (d a : Opnd) (off : BitVec 8) : Statement (.stS d a off) := fun _ rest => by simp [encode, decode, decodeWord, decodeRow8]
theorem stK (d a : Opnd) (off : BitVec 8) : Statement (.stK d a off) := fun _ rest => by simp [encode, decode, decodeWord, decodeRow8]
theorem stB (d a : Opnd) (off : BitVec 8) : Statement (.stB d a off) := fun _ rest => by simp [encode, decode, decodeWord, decodeRow8]
theorem ldx (d a b : Opnd) : Statement (.ldx d a b) := fun _ rest => by simp [encode, decode, decodeWord, decodeRow8]
theorem ldxS (d a b : Opnd) : Statement (.ldxS d a b) := fun _ rest => by simp [encode, decode, decodeWord, decodeRow8]
theorem ldxK (d a b : Opnd) : Statement (.ldxK d a b) := fun _ rest => by simp [encode, decode, decodeWord, decodeRow8]
theorem ldxB (d a b : Opnd) : Statement (.ldxB d a b) := fun _ rest => by simp [encode, decode, decodeWord, decodeRow8]
theorem stx (d a b : Opnd) : Statement (.stx d a b) := fun _ rest => by simp [encode, decode, decodeWord, decodeRow8]
theorem stxS (d a b : Opnd) : Statement (.stxS d a b) := fun _ rest => by simp [encode, decode, decodeWord, decodeRow8]
theorem stxK (d a b : Opnd) : Statement (.stxK d a b) := fun _ rest => by simp [encode, decode, decodeWord, decodeRow8]
theorem stxB (d a b : Opnd) : Statement (.stxB d a b) := fun _ rest => by simp [encode, decode, decodeWord, decodeRow8]
theorem ldn (d a : Opnd) (off : BitVec 8) : Statement (.ldn d a off) := fun _ rest => by simp [encode, decode, decodeWord, decodeRow9]
theorem stn (d a : Opnd) (off : BitVec 8) : Statement (.stn d a off) := fun _ rest => by simp [encode, decode, decodeWord, decodeRow9]
theorem ldAcq (d a : Opnd) (off : BitVec 8) : Statement (.ldAcq d a off) := fun _ rest => by simp [encode, decode, decodeWord, decodeRow9]
theorem stRel (d a : Opnd) (off : BitVec 8) : Statement (.stRel d a off) := fun _ rest => by simp [encode, decode, decodeWord, decodeRow9]
theorem atomAdd (d a b : Opnd) : Statement (.atomAdd d a b) := fun _ rest => by simp [encode, decode, decodeWord, decodeRowA]
theorem atomMin (d a b : Opnd) : Statement (.atomMin d a b) := fun _ rest => by simp [encode, decode, decodeWord, decodeRowA]
theorem atomMax (d a b : Opnd) : Statement (.atomMax d a b) := fun _ rest => by simp [encode, decode, decodeWord, decodeRowA]
theorem atomAnd (d a b : Opnd) : Statement (.atomAnd d a b) := fun _ rest => by simp [encode, decode, decodeWord, decodeRowA]
theorem atomOr (d a b : Opnd) : Statement (.atomOr d a b) := fun _ rest => by simp [encode, decode, decodeWord, decodeRowA]
theorem atomXor (d a b : Opnd) : Statement (.atomXor d a b) := fun _ rest => by simp [encode, decode, decodeWord, decodeRowA]
theorem atomXchg (d a b : Opnd) : Statement (.atomXchg d a b) := fun _ rest => by simp [encode, decode, decodeWord, decodeRowA]
theorem atomCas (d a b : Opnd) : Statement (.atomCas d a b) := fun _ rest => by simp [encode, decode, decodeWord, decodeRowA]
theorem atomDecp (d a b : Opnd) : Statement (.atomDecp d a b) := fun _ rest => by simp [encode, decode, decodeWord, decodeRowA]
theorem atomIncw (d a b : Opnd) : Statement (.atomIncw d a b) := fun _ rest => by simp [encode, decode, decodeWord, decodeRowA]
theorem waita (d a b : Opnd) : Statement (.waita d a b) := fun _ rest => by simp [encode, decode, decodeWord, decodeRowA]
theorem wake (d a b : Opnd) : Statement (.wake d a b) := fun _ rest => by simp [encode, decode, decodeWord, decodeRowA]
theorem fence (d : Opnd) (imm : BitVec 16) : Statement (.fence d imm) := fun _ rest => by simp [encode, decode, decodeWord, decodeRowA]
theorem waito (d : Opnd) (imm : BitVec 16) : Statement (.waito d imm) := fun _ rest => by simp [encode, decode, decodeWord, decodeRowA]
theorem barCrew (d : Opnd) (imm : BitVec 16) : Statement (.barCrew d imm) := fun _ rest => by simp [encode, decode, decodeWord, decodeRowA]
theorem barFolio (d : Opnd) (imm : BitVec 16) : Statement (.barFolio d imm) := fun _ rest => by simp [encode, decode, decodeWord, decodeRowA]
theorem barQuire (d a b : Opnd) : Statement (.barQuire d a b) := fun _ rest => by simp [encode, decode, decodeWord, decodeRowB]
theorem slotWait (d a b : Opnd) : Statement (.slotWait d a b) := fun _ rest => by simp [encode, decode, decodeWord, decodeRowB]
theorem slotFree (d a b : Opnd) : Statement (.slotFree d a b) := fun _ rest => by simp [encode, decode, decodeWord, decodeRowB]
theorem ringEos (d a b : Opnd) : Statement (.ringEos d a b) := fun _ rest => by simp [encode, decode, decodeWord, decodeRowB]
theorem donate (d a b : Opnd) : Statement (.donate d a b) := fun _ rest => by simp [encode, decode, decodeWord, decodeRowB]
theorem tcfg (t : BitVec 8) (a b : Opnd) : Statement (.tcfg t a b) := fun _ rest => by simp [encode, decode, decodeWord, decodeRowC]
theorem ldt (t : BitVec 8) (a b : Opnd) : Statement (.ldt t a b) := fun _ rest => by simp [encode, decode, decodeWord, decodeRowC]
theorem tmov (t : BitVec 8) (a b : Opnd) : Statement (.tmov t a b) := fun _ rest => by simp [encode, decode, decodeWord, decodeRowC]
theorem mma (d : Opnd) (x y : BitVec 8) : Statement (.mma d x y) := fun _ rest => by simp [encode, decode, decodeWord, decodeRowC]
theorem mmaZ (d : Opnd) (x y : BitVec 8) : Statement (.mmaZ d x y) := fun _ rest => by simp [encode, decode, decodeWord, decodeRowC]
theorem accCfg (d a b : Opnd) : Statement (.accCfg d a b) := fun _ rest => by simp [encode, decode, decodeWord, decodeRowC]
theorem drain (d a b : Opnd) : Statement (.drain d a b) := fun _ rest => by simp [encode, decode, decodeWord, decodeRowC]
theorem accSt (d a b : Opnd) : Statement (.accSt d a b) := fun _ rest => by simp [encode, decode, decodeWord, decodeRowC]
theorem accLd (d a b : Opnd) : Statement (.accLd d a b) := fun _ rest => by simp [encode, decode, decodeWord, decodeRowC]
theorem cpy (d a b : Opnd) : Statement (.cpy d a b) := fun _ rest => by simp [encode, decode, decodeWord, decodeRowC]
theorem wprd (d a b : Opnd) : Statement (.wprd d a b) := fun _ rest => by simp [encode, decode, decodeWord, decodeRowC]
theorem gth (d a b : Opnd) : Statement (.gth d a b) := fun _ rest => by simp [encode, decode, decodeWord, decodeRowC]
theorem srecLd (t : BitVec 8) (a b : Opnd) : Statement (.srecLd t a b) := fun _ rest => by simp [encode, decode, decodeWord, decodeRowC]
theorem srecGo (t : BitVec 8) (a b : Opnd) : Statement (.srecGo t a b) := fun _ rest => by simp [encode, decode, decodeWord, decodeRowC]
theorem srecStop (t : BitVec 8) (a b : Opnd) : Statement (.srecStop t a b) := fun _ rest => by simp [encode, decode, decodeWord, decodeRowC]
theorem qstat (d a b : Opnd) : Statement (.qstat d a b) := fun _ rest => by simp [encode, decode, decodeWord, decodeRowC]
theorem sysRd (d : Opnd) (imm : BitVec 16) : Statement (.sysRd d imm) := fun _ rest => by simp [encode, decode, decodeWord, decodeRowE]
theorem sysWr (d : Opnd) (imm : BitVec 16) : Statement (.sysWr d imm) := fun _ rest => by simp [encode, decode, decodeWord, decodeRowE]
theorem trap (d : Opnd) (imm : BitVec 16) : Statement (.trap d imm) := fun _ rest => by simp [encode, decode, decodeWord, decodeRowE]
theorem brk (d a b : Opnd) : Statement (.brk d a b) := fun _ rest => by simp [encode, decode, decodeWord, decodeRowE]
theorem endTeam (d a b : Opnd) : Statement (.endTeam d a b) := fun _ rest => by simp [encode, decode, decodeWord, decodeRowE]
theorem fork (d a b : Opnd) : Statement (.fork d a b) := fun _ rest => by simp [encode, decode, decodeWord, decodeRowE]
theorem enq (d a b : Opnd) : Statement (.enq d a b) := fun _ rest => by simp [encode, decode, decodeWord, decodeRowE]
theorem depDec (d a b : Opnd) : Statement (.depDec d a b) := fun _ rest => by simp [encode, decode, decodeWord, decodeRowE]
theorem depSet (d a b : Opnd) : Statement (.depSet d a b) := fun _ rest => by simp [encode, decode, decodeWord, decodeRowE]
theorem tblLd (d a b : Opnd) : Statement (.tblLd d a b) := fun _ rest => by simp [encode, decode, decodeWord, decodeRowE]
theorem dxRun (d a b : Opnd) : Statement (.dxRun d a b) := fun _ rest => by simp [encode, decode, decodeWord, decodeRowE]
theorem dxQry (d a b : Opnd) : Statement (.dxQry d a b) := fun _ rest => by simp [encode, decode, decodeWord, decodeRowE]
theorem dxStat (d a b : Opnd) : Statement (.dxStat d a b) := fun _ rest => by simp [encode, decode, decodeWord, decodeRowE]
theorem putr (d a b : Opnd) : Statement (.putr d a b) := fun _ rest => by simp [encode, decode, decodeWord, decodeRowE]
theorem getr (d a b : Opnd) : Statement (.getr d a b) := fun _ rest => by simp [encode, decode, decodeWord, decodeRowE]
theorem rredAdd (d a b : Opnd) : Statement (.rredAdd d a b) := fun _ rest => by simp [encode, decode, decodeWord, decodeRowE]
theorem rredMax (d a b : Opnd) : Statement (.rredMax d a b) := fun _ rest => by simp [encode, decode, decodeWord, decodeRowF]
theorem xsend (d a b : Opnd) : Statement (.xsend d a b) := fun _ rest => by simp [encode, decode, decodeWord, decodeRowF]
theorem ctrAdd (d a b : Opnd) : Statement (.ctrAdd d a b) := fun _ rest => by simp [encode, decode, decodeWord, decodeRowF]
theorem ctrRd (d a b : Opnd) : Statement (.ctrRd d a b) := fun _ rest => by simp [encode, decode, decodeWord, decodeRowF]
theorem cav (d a b : Opnd) : Statement (.cav d a b) := fun _ rest => by simp [encode, decode, decodeWord, decodeRowF]
theorem repart (d a b : Opnd) : Statement (.repart d a b) := fun _ rest => by simp [encode, decode, decodeWord, decodeRowF]
theorem collSt (d a b : Opnd) : Statement (.collSt d a b) := fun _ rest => by simp [encode, decode, decodeWord, decodeRowF]
theorem role (d a b : Opnd) : Statement (.role d a b) := fun _ rest => by simp [encode, decode, decodeWord, decodeRowF]
theorem tret (d a b : Opnd) : Statement (.tret d a b) := fun _ rest => by simp [encode, decode, decodeWord, decodeRowF]
theorem unassignedOpcode (word : W32) : Statement (.unassignedOpcode word) := by
  intro h rest
  have hw : unassignedWord word = true := by simpa [Instr.wellFormed, Instr.encoded, encode, Instr.opcodeFits] using h
  have hd := decodeWord_unassigned word hw
  have hn : opcodeOf word ≠ 0x3E := by
    intro e
    simp [decodeWord, e, decodeRow3] at hd
  have e := decode_one word rest hn
  rw [decodeWord_unassigned word hw] at e
  exact e
theorem deviceReset : Statement (.deviceReset) := fun h => nomatch h
theorem freezeNAssert : Statement (.freezeNAssert) := fun h => nomatch h
theorem freezeClocksStop : Statement (.freezeClocksStop) := fun h => nomatch h
theorem freezeNDeassert : Statement (.freezeNDeassert) := fun h => nomatch h
theorem pwrbrkNAssert : Statement (.pwrbrkNAssert) := fun h => nomatch h
theorem pwrbrkNDeassert : Statement (.pwrbrkNDeassert) := fun h => nomatch h
theorem thermalSensorEvent (core degC : Nat) : Statement (.thermalSensorEvent core degC) := fun h => nomatch h
theorem droopDetect (die : Nat) : Statement (.droopDetect die) := fun h => nomatch h
theorem droopEnd (die : Nat) : Statement (.droopEnd die) := fun h => nomatch h
theorem adaptiveVoltageAdjust (die millivolt : Nat) : Statement (.adaptiveVoltageAdjust die millivolt) := fun h => nomatch h
theorem laneRetrain (port lane : Nat) (marginLow : Bool) : Statement (.laneRetrain port lane marginLow) := fun h => nomatch h
theorem eccCorrectedError (at_ : EccSite) (bit : Nat) : Statement (.eccCorrectedError at_ bit) := fun h => nomatch h
theorem rowTestComplete (row : Nat) (passed : Bool) : Statement (.rowTestComplete row passed) := fun h => nomatch h
theorem eccUncorrectableError (at_ : EccPlace) (word : PoisonWord) : Statement (.eccUncorrectableError at_ word) := fun h => nomatch h
theorem ageingUpdate (hours : List Nat) : Statement (.ageingUpdate hours) := fun h => nomatch h
theorem ageingFirstEstimate (hours : List Nat) : Statement (.ageingFirstEstimate hours) := fun h => nomatch h
theorem pcieLinkDown (link : Nat) : Statement (.pcieLinkDown link) := fun h => nomatch h
theorem pcieLinkUp (link : LinkUp) : Statement (.pcieLinkUp link) := fun h => nomatch h
theorem hostBar4Write (fn va : Nat) (bytes : List Byte) : Statement (.hostBar4Write fn va bytes) := fun h => nomatch h
theorem hostBar4Read (fn va len : Nat) : Statement (.hostBar4Read fn va len) := fun h => nomatch h
theorem hostAtomicop (fn va : Nat) (op : HostAtomic) (wide : Bool) (operand compare : W64) : Statement (.hostAtomicop fn va op wide operand compare) := fun h => nomatch h
theorem atsInvalidation (fn : Nat) (request : AtsRequest) : Statement (.atsInvalidation fn request) := fun h => nomatch h
theorem doorbellWrite (fn ep q : Nat) (value : W64) : Statement (.doorbellWrite fn ep q value) := fun h => nomatch h
theorem hqPairBind (fn ep : Nat) : Statement (.hqPairBind fn ep) := fun h => nomatch h
theorem hqQrelease (fn q : Nat) : Statement (.hqQrelease fn q) := fun h => nomatch h
theorem hqQresume (fn q : Nat) : Statement (.hqQresume fn q) := fun h => nomatch h
theorem hqPreemptRequest (fn : Nat) (value : W64) : Statement (.hqPreemptRequest fn value) := fun h => nomatch h
theorem preemptSaveComplete (ctx : Nat) : Statement (.preemptSaveComplete ctx) := fun h => nomatch h
theorem hqPreemptResume (fn : Nat) (value : W64) : Statement (.hqPreemptResume fn value) := fun h => nomatch h
theorem preemptRestoreComplete (ctx : Nat) : Statement (.preemptRestoreComplete ctx) := fun h => nomatch h
theorem hqCtrRangeWrite (fn : Nat) (value : W64) : Statement (.hqCtrRangeWrite fn value) := fun h => nomatch h
theorem hqJobBaseWrite (fn : Nat) (value : W64) : Statement (.hqJobBaseWrite fn value) := fun h => nomatch h
theorem hkElogBaseWrite (fn : Nat) (value : W64) : Statement (.hkElogBaseWrite fn value) := fun h => nomatch h
theorem hkElogSizeWrite (fn : Nat) (value : W64) : Statement (.hkElogSizeWrite fn value) := fun h => nomatch h
theorem fwActivate (fn : Nat) (value : W64) : Statement (.fwActivate fn value) := fun h => nomatch h
theorem fwCommit (fn : Nat) (value : W64) : Statement (.fwCommit fn value) := fun h => nomatch h
theorem hkFwWindowWrite (fn : Nat) (value : W64) : Statement (.hkFwWindowWrite fn value) := fun h => nomatch h
theorem fwTrialExpiry : Statement (.fwTrialExpiry) := fun h => nomatch h
theorem fwThreadSwitch (thread : Nat) : Statement (.fwThreadSwitch thread) := fun h => nomatch h
theorem rcvErase (fn : Nat) (value : W64) : Statement (.rcvErase fn value) := fun h => nomatch h
theorem rcvProgram (fn : Nat) (value : W64) : Statement (.rcvProgram fn value) := fun h => nomatch h
theorem rcvSeal (fn : Nat) (value : W64) : Statement (.rcvSeal fn value) := fun h => nomatch h
theorem rcvReboot (fn : Nat) (value : W64) : Statement (.rcvReboot fn value) := fun h => nomatch h
theorem rcvCmdRefused (fn : Nat) (value : W64) : Statement (.rcvCmdRefused fn value) := fun h => nomatch h
theorem rcvCmdComplete (storageError : Bool) : Statement (.rcvCmdComplete storageError) := fun h => nomatch h
theorem frReplay (fn : Nat) (value : W64) : Statement (.frReplay fn value) := fun h => nomatch h
theorem frDeny (fn : Nat) (value : W64) : Statement (.frDeny fn value) := fun h => nomatch h
theorem frCtlWrite (fn : Nat) (value : W64) : Statement (.frCtlWrite fn value) := fun h => nomatch h
theorem frTailWrite (fn : Nat) (value : W64) : Statement (.frTailWrite fn value) := fun h => nomatch h
theorem frStatusPoolClear (fn : Nat) (value : W64) : Statement (.frStatusPoolClear fn value) := fun h => nomatch h
theorem faultRecordHeldWrite (ctx : Nat) : Statement (.faultRecordHeldWrite ctx) := fun h => nomatch h
theorem hqWdogWrite (fn : Nat) (value : W64) : Statement (.hqWdogWrite fn value) := fun h => nomatch h
theorem regWrite (fn ep off : Nat) (value : W64) : Statement (.regWrite fn ep off value) := fun h => nomatch h
theorem freeze (via : Transport) : Statement (.freeze via) := fun h => nomatch h
theorem scan (via : Transport) (chain : Nat) : Statement (.scan via chain) := fun h => nomatch h
theorem thaw (via : Transport) : Statement (.thaw via) := fun h => nomatch h
theorem health (via : Transport) (fromSeq : Nat) : Statement (.health via fromSeq) := fun h => nomatch h
theorem life (via : Transport) : Statement (.life via) := fun h => nomatch h
theorem l2share (via : Transport) (die share : Nat) : Statement (.l2share via die share) := fun h => nomatch h
theorem idset (via : Transport) (chip : Nat) : Statement (.idset via chip) := fun h => nomatch h
theorem mctpUnsupported (via : Transport) : Statement (.mctpUnsupported via) := fun h => nomatch h
theorem getVersion (via : Transport) : Statement (.getVersion via) := fun h => nomatch h
theorem getCapabilities (via : Transport) : Statement (.getCapabilities via) := fun h => nomatch h
theorem negotiateAlgorithms (via : Transport) : Statement (.negotiateAlgorithms via) := fun h => nomatch h
theorem getDigests (via : Transport) : Statement (.getDigests via) := fun h => nomatch h
theorem getCertificate (via : Transport) : Statement (.getCertificate via) := fun h => nomatch h
theorem challenge (via : Transport) : Statement (.challenge via) := fun h => nomatch h
theorem getMeasurements (via : Transport) : Statement (.getMeasurements via) := fun h => nomatch h
theorem flitReceive (port errorsA errorsB : Nat) (flits : List RxFlit) : Statement (.flitReceive port errorsA errorsB flits) := fun h => nomatch h
theorem nakReceive (port seq : Nat) : Statement (.nakReceive port seq) := fun h => nomatch h
theorem portReplayLimit (port : Nat) : Statement (.portReplayLimit port) := fun h => nomatch h
theorem portIdleTimeout (port : Nat) : Statement (.portIdleTimeout port) := fun h => nomatch h
theorem portTrainingComplete (port : Nat) (training : Training) : Statement (.portTrainingComplete port training) := fun h => nomatch h
theorem routeSwitch (flow : FlowId) (live : List Nat) : Statement (.routeSwitch flow live) := fun h => nomatch h
theorem queueMap (ctx q : Nat) : Statement (.queueMap ctx q) := fun h => nomatch h
theorem queuePriorityUnmap (ctx q : Nat) : Statement (.queuePriorityUnmap ctx q) := fun h => nomatch h
theorem queueFairnessUnmap (ctx q : Nat) : Statement (.queueFairnessUnmap ctx q) := fun h => nomatch h
theorem queueIdleUnmap (ctx q : Nat) : Statement (.queueIdleUnmap ctx q) := fun h => nomatch h
theorem pktNop (thread : Nat) : Statement (.pktNop thread) := fun h => nomatch h
theorem pktLaunch (thread : Nat) : Statement (.pktLaunch thread) := fun h => nomatch h
theorem pktLaunchInd (thread : Nat) (result : Prologue) : Statement (.pktLaunchInd thread result) := fun h => nomatch h
theorem prologueReinvoke (thread : Nat) (result : Prologue) : Statement (.prologueReinvoke thread result) := fun h => nomatch h
theorem prologueBudgetExpiry (thread : Nat) (stopped : Prologue) : Statement (.prologueBudgetExpiry thread stopped) := fun h => nomatch h
theorem pktWaitmem (thread : Nat) : Statement (.pktWaitmem thread) := fun h => nomatch h
theorem waitmemLineChange (thread : Nat) : Statement (.waitmemLineChange thread) := fun h => nomatch h
theorem waitmemHostPoll (thread : Nat) : Statement (.waitmemHostPoll thread) := fun h => nomatch h
theorem pktSignal (thread : Nat) : Statement (.pktSignal thread) := fun h => nomatch h
theorem pktLoop (thread : Nat) : Statement (.pktLoop thread) := fun h => nomatch h
theorem pktEndloop (thread : Nat) : Statement (.pktEndloop thread) := fun h => nomatch h
theorem pktIf (thread : Nat) : Statement (.pktIf thread) := fun h => nomatch h
theorem pktElse (thread : Nat) : Statement (.pktElse thread) := fun h => nomatch h
theorem pktEndif (thread : Nat) : Statement (.pktEndif thread) := fun h => nomatch h
theorem pktCall (thread : Nat) : Statement (.pktCall thread) := fun h => nomatch h
theorem pktReturn (thread : Nat) : Statement (.pktReturn thread) := fun h => nomatch h
theorem pktJump (thread : Nat) : Statement (.pktJump thread) := fun h => nomatch h
theorem pktCopy (thread : Nat) : Statement (.pktCopy thread) := fun h => nomatch h
theorem pktGraphSubmit (thread : Nat) : Statement (.pktGraphSubmit thread) := fun h => nomatch h
theorem pktDxRun (thread : Nat) : Statement (.pktDxRun thread) := fun h => nomatch h
theorem pktInval (thread : Nat) : Statement (.pktInval thread) := fun h => nomatch h
theorem pktReplay (thread : Nat) : Statement (.pktReplay thread) := fun h => nomatch h
theorem pktFence (thread : Nat) : Statement (.pktFence thread) := fun h => nomatch h
theorem crewPlace (launch core partition : Nat) : Statement (.crewPlace launch core partition) := fun h => nomatch h
theorem folioGroupPlace (launch group folio : Nat) (partitions : List Nat) : Statement (.folioGroupPlace launch group folio partitions) := fun h => nomatch h
theorem gangReservationTimeout (launch : Nat) : Statement (.gangReservationTimeout launch) := fun h => nomatch h
theorem gangStarvedTimeout (launch : Nat) : Statement (.gangStarvedTimeout launch) := fun h => nomatch h
theorem launchComplete (launch : Nat) : Statement (.launchComplete launch) := fun h => nomatch h
theorem forkParentResume (crew core partition : Nat) : Statement (.forkParentResume crew core partition) := fun h => nomatch h
theorem enqSwapOut (crew : Nat) : Statement (.enqSwapOut crew) := fun h => nomatch h
theorem enqSwappedResume (crew core partition : Nat) : Statement (.enqSwappedResume crew core partition) := fun h => nomatch h
theorem taskDispatch (ctx queue : Nat) : Statement (.taskDispatch ctx queue) := fun h => nomatch h
theorem heldTaskInsert (ctx queue : Nat) : Statement (.heldTaskInsert ctx queue) := fun h => nomatch h
theorem taskComplete (crews : List Nat) : Statement (.taskComplete crews) := fun h => nomatch h
theorem remoteEnqArrival (ctx src token queue depth : Nat) (record : List Byte) : Statement (.remoteEnqArrival ctx src token queue depth record) := fun h => nomatch h
theorem enqAckReceive (ctx token code : Nat) : Statement (.enqAckReceive ctx token code) := fun h => nomatch h
theorem dxStageForm (ctx handle : Nat) : Statement (.dxStageForm ctx handle) := fun h => nomatch h
theorem dxEvalComplete (ctx handle : Nat) : Statement (.dxEvalComplete ctx handle) := fun h => nomatch h
theorem dxJacobianComplete (ctx handle : Nat) : Statement (.dxJacobianComplete ctx handle) := fun h => nomatch h
theorem dxEventEvalComplete (ctx handle : Nat) : Statement (.dxEventEvalComplete ctx handle) := fun h => nomatch h
theorem dxRunComplete (ctx handle : Nat) : Statement (.dxRunComplete ctx handle) := fun h => nomatch h
theorem dxStartExchange (ctx handle role n : Nat) (digest : List Byte) : Statement (.dxStartExchange ctx handle role n digest) := fun h => nomatch h
theorem quiresyncArrival (ctx handle role : Nat) (msg : SyncMsg) : Statement (.quiresyncArrival ctx handle role msg) := fun h => nomatch h
theorem dxMemberStartTimeout (ctx handle : Nat) : Statement (.dxMemberStartTimeout ctx handle) := fun h => nomatch h
theorem dxPeerSilentTimeout (ctx handle role : Nat) : Statement (.dxPeerSilentTimeout ctx handle role) := fun h => nomatch h
theorem collAnnounceReceive (ctx handle role : Nat) (ann : Announce) : Statement (.collAnnounceReceive ctx handle role ann) := fun h => nomatch h
theorem collOpenTimeout (ctx handle : Nat) : Statement (.collOpenTimeout ctx handle) := fun h => nomatch h
theorem collChunkReceive (ctx handle role first : Nat) (bytes : List Byte) : Statement (.collChunkReceive ctx handle role first bytes) := fun h => nomatch h
theorem earlyLandingArrival (ctx quire tag role first : Nat) (bytes : List Byte) : Statement (.earlyLandingArrival ctx quire tag role first bytes) := fun h => nomatch h
theorem repartHistogramPass (ctx handle : Nat) : Statement (.repartHistogramPass ctx handle) := fun h => nomatch h
theorem repartRecordChunk (ctx handle : Nat) : Statement (.repartRecordChunk ctx handle) := fun h => nomatch h
theorem collMemberComplete (ctx handle : Nat) : Statement (.collMemberComplete ctx handle) := fun h => nomatch h
theorem barQuireArrivalMsg (ctx quire tag chip crew team : Nat) : Statement (.barQuireArrivalMsg ctx quire tag chip crew team) := fun h => nomatch h
theorem putrArrival (ctx src token size : Nat) (lanes : List RemoteLane) (ctr : Option Nat) : Statement (.putrArrival ctx src token size lanes ctr) := fun h => nomatch h
theorem rredArrival (ctx src token ty : Nat) (isMax : Bool) (lanes : List RemoteLane) (ctr : Option Nat) : Statement (.rredArrival ctx src token ty isMax lanes ctr) := fun h => nomatch h
theorem getrRequestArrival (ctx src token size : Nat) (lanes : List RemoteLane) : Statement (.getrRequestArrival ctx src token size lanes) := fun h => nomatch h
theorem getrResponse (ctx src token : Nat) (lanes : List RemoteLane) (denied : List (Nat × RemoteLane)) : Statement (.getrResponse ctx src token lanes denied) := fun h => nomatch h
theorem remoteWriteAck (ctx src token lanes : Nat) (denied : List (Nat × RemoteLane)) : Statement (.remoteWriteAck ctx src token lanes denied) := fun h => nomatch h
theorem triggeredSendFire (ctx idx : Nat) : Statement (.triggeredSendFire ctx idx) := fun h => nomatch h
theorem triggeredSendArrival (ctx src token dstva : Nat) (bytes : List Byte) (poison : List Nat) (ctr : Option Nat) : Statement (.triggeredSendArrival ctx src token dstva bytes poison ctr) := fun h => nomatch h
theorem govWindowStart (core : Nat) : Statement (.govWindowStart core) := fun h => nomatch h
theorem watchdogExpiry (team : Nat) : Statement (.watchdogExpiry team) := fun h => nomatch h
theorem waitaWakeReturn (team : Nat) : Statement (.waitaWakeReturn team) := fun h => nomatch h
theorem deferredEngineTrap (team : Nat) : Statement (.deferredEngineTrap team) := fun h => nomatch h
theorem memResponseReturn (team idx : Nat) : Statement (.memResponseReturn team idx) := fun h => nomatch h
theorem cpyTransferStart (core chan : Nat) : Statement (.cpyTransferStart core chan) := fun h => nomatch h
theorem cpyTransferComplete (core chan : Nat) : Statement (.cpyTransferComplete core chan) := fun h => nomatch h
theorem gthCommandComplete (core : Nat) : Statement (.gthCommandComplete core) := fun h => nomatch h
theorem matrixCommandStart (crew : Nat) : Statement (.matrixCommandStart crew) := fun h => nomatch h
theorem matrixCommandComplete (crew : Nat) : Statement (.matrixCommandComplete crew) := fun h => nomatch h
theorem feedEntryFill (team stream : Nat) : Statement (.feedEntryFill team stream) := fun h => nomatch h
theorem ringSlotFilled (crew ring slot : Nat) : Statement (.ringSlotFilled crew ring slot) := fun h => nomatch h
theorem ringProducerClose (crew ring prod : Nat) : Statement (.ringProducerClose crew ring prod) := fun h => nomatch h
theorem pktReservedOpcode (thread : Nat) : Statement (.pktReservedOpcode thread) := fun h => nomatch h
theorem copyPacketComplete (ctx q : Nat) : Statement (.copyPacketComplete ctx q) := fun h => nomatch h

end Sys2Proof.Laws.RoundTrip
end

