-- ==== Sys2Proof/Laws/Scalar.lean ====
section
/-! SUPPORT. Uniform instructions over S registers: what they read, and what they leave. -/

namespace Sys2Proof.Machine

theorem okS_cases (o : Opnd) (h : okS o = true) : (∃ n, o = .s n) ∨ o = .zr := by cases o <;> simp_all [okS]

/-- What an S operand gives once every result is written. -/
theorem rdS (t : Team) (c : Nat) (o : Opnd) (ht : t.pend = []) (h : okS o = true) : readOp t c true o 0 = (sVal t o).toNat := by
  rcases okS_cases o h with ⟨n, rfl⟩ | rfl
  · simp [readOp, read_nil _ _ _ _ ht, Team.held, sVal]
  · simp [readOp, sVal]

/-- The one write of an S result. -/
theorem doneWritesS (t : Team) (c lat : Nat) (d : Opnd) (v : Nat) (h : okS d = true) :
    doneWrites t c lat false [(d, v)] = sWrite t d (w64 v) (c + lat) := by
  rcases okS_cases d h with ⟨n, rfl⟩ | rfl
  · simp [doneWrites, dstWrites, sWrite]
  · simp [doneWrites, dstWrites, sWrite]

/-- An F3 scalar gives its function of Sa and Sb (16 R312). -/
theorem scalar3_givesS (i : Instr) (s : State) (op : Nat) (f : Nat → Nat → Nat) (d a b : Opnd) (h : ready s = true)
    (hd : okS d = true) (ha : okS a = true) (hb : okS b = true) (he : exec i s = scalar3 op f d a b s) :
    GivesS i s d (w64 (f (sVal s.me a).toNat (sVal s.me b).toNat % 2 ^ 64)) (latencyOf op) := by
  obtain ⟨c, _, hc, hu⟩ := uniform_ready s op (wordF3 op d a b) [fld d okS, fld a okS, fld b okS] [a, b] [d]
    (fun u => .ok (u.done u.s [(d, f (u.rd a) (u.rd b) % 2 ^ 64)] (latencyOf op))) false h (by simp [fld, hd, ha, hb])
  refine ⟨c, hc, ?_⟩
  have hx := runInstr_ok s _ (fun ti t => uniform s ti t op (wordF3 op d a b) false [fld d okS, fld a okS, fld b okS] true [a, b] [d] (fun u =>
    .ok (u.done u.s [(d, f (u.rd a) (u.rd b) % 2 ^ 64)] (latencyOf op)))) h hu
  refine done_runsTo i s _ _ _ _ _ (he.trans hx) rfl (settle_onlyTeam _ _ _) ?_
  have hp := ready_pend h
  rw [settle_team s s.cur c hp, doneWritesS _ _ _ _ _ hd]
  simp [UCtx.rd, rdS _ _ _ hp ha, rdS _ _ _ hp hb, Team.stepped]
  have : (s.team s.cur).pend = [] := hp
  simp [State.me, this]

end Sys2Proof.Machine
end

