-- ==== Sys2Proof/Tests/Slice0.lean ====
section
/-! SUPPORT. Tests: the spec's example words decode, ill-formed instructions are refused, single steps give what the spec's tables
and pseudocode give, and each statement's premises are met (the theorems `witness_…`). -/

set_option Elab.async false

namespace Sys2Proof.Tests

open Sys2Proof Sys2Proof.Machine

/-! ### Small states -/

/-- One crew of one team of 32 lanes, ready at a NOP on core 0. -/
def base : State := State.reset.withFetchWord 32 0
/-- Its team changed. -/
def team0 (f : Team → Team) : State := base.updTeam 0 f
/-- S registers given. -/
def withS (l : List (Nat × W64)) : State := team0 (fun t => { t with s := l })
/-- The state after an instruction. -/
def after (i : Instr) (s : State) : State :=
  match exec i s with
  | .next t => t
  | _ => s
/-- The results outstanding after an instruction. -/
def gives (i : Instr) (s : State) : List (Reg × Nat × W64) := (after i s).me.pend.map (fun w => (w.reg, w.lane, w.val))
/-- What a translation or a placement answered. -/
def okOf {ε α : Type} (x : Except ε α) : Option α := x.toOption

/-- MR with a type, rounding to the nearest. -/
def withTy (ty : Nat) : State := team0 (fun t => { t with mr := w64 (32 * ty), nregs := 128 })

/-- Bytes at virtual addresses of the page at 2^34. -/
def poke (l : List (Nat × List Byte)) (s : State) : State := l.foldl (fun s e => pokeLpddr s (2 ^ 34 + e.1) e.2) s
/-- A ring of four slots of 64 bytes at 0x100 of the crew's scratch, its descriptor at 0. -/
def ring0 (closed phase head tail : Nat) (s : State) : State :=
  writePlace s 0 (.scratch 0 0) (leBytes 1 4 ++ leBytes 1 6 ++ leBytes 1 closed ++ leBytes 1 1 ++ leBytes 4 phase ++ leBytes 4 head ++
    leBytes 4 tail ++ leBytes 4 0x100 ++ List.replicate 44 0) false
/-- The crew changed. -/
def crew0 (f : Crew → Crew) (s : State) : State := s.setCrew 0 (f (s.crew 0))
/-- An answer that meets a test. -/
def okAnd {ε α : Type} (x : Except ε α) (p : α → Bool) : Bool :=
  match x with
  | .ok a => p a
  | .error _ => false

/-! ### Decoding -/

/-- The example words of 16, control, scalars and mode. -/
theorem test_decode_words_16 : (List.all [
    (0x00000000, Instr.nop (.v 0) (.v 0) (.v 0)), (0x0A00BF00, Instr.bri (.v 0) (.s 63) (.v 0)),
    (0x06000000, Instr.ret (.v 0) (.v 0) (.v 0)), (0x08000000, Instr.join (.v 0) (.v 0) (.v 0)),
    (0x09000000, Instr.yield (.v 0) (.v 0) (.v 0)), (0x0B008200, Instr.modeSet (.v 0) (.s 2) (.v 0)),
    (0x0C820000, Instr.modeGet (.s 2) (.v 0) (.v 0)), (0x0D000013, Instr.modeGuard (.v 0) 0x0013),
    (0x0E000004, Instr.modeType (.v 0) 0x0004), (0x1500000A, Instr.modeSrc (.v 0) 0x000A), (0x10838182, Instr.sadd (.s 3) (.s 1) (.s 2)),
    (0x1F851234, Instr.sli (.s 5) 0x1234), (0x13840003, Instr.slih (.s 4) 0x0003), (0x1E81FFFF, Instr.saddi (.s 1) 0xFFFF)] (fun e => decodeTableWord 32 e.1 == some e.2)) = true := by decide

/-- The example words of 17, vector and lane. -/
theorem test_decode_words_17 : (List.all [
    (0x21040203, Instr.sub (.v 4) (.v 2) (.v 3)), (0x23040203, Instr.mulh (.v 4) (.v 2) (.v 3)),
    (0x24040203, Instr.mad (.v 4) (.v 2) (.v 3)), (0x26040203, Instr.max (.v 4) (.v 2) (.v 3)),
    (0x28040200, Instr.neg (.v 4) (.v 2) (.v 0)), (0x2B040203, Instr.xor (.v 4) (.v 2) (.v 3)),
    (0x2C040200, Instr.not (.v 4) (.v 2) (.v 0)), (0x2E040203, Instr.shr (.v 4) (.v 2) (.v 3)),
    (0x31040200, Instr.popc (.v 4) (.v 2) (.v 0)), (0x3304FFFF, Instr.addi (.v 4) 0xFFFF), (0x34040200, Instr.mov (.v 4) (.v 2) (.v 0)),
    (0x35053C00, Instr.movi (.v 5) 0x3C00), (0x36040203, Instr.sel (.v 4) (.v 2) (.v 3)), (0x37E30809, Instr.cmpEq (.p 3) (.v 8) (.v 9)),
    (0x3D040203, Instr.rem (.v 4) (.v 2) (.v 3)), (0x3F040203, Instr.clamp (.v 4) (.v 2) (.v 3)),
    (0x55040203, Instr.minp (.v 4) (.v 2) (.v 3)), (0x4F040203, Instr.scalb (.v 4) (.v 2) (.v 3)),
    (0x50040800, Instr.cvt (.v 4) (.v 8) (.v 0)), (0x51040203, Instr.cvtp (.v 4) (.v 2) (.v 3)),
    (0x52080086, Instr.qnt (.v 8) (.v 0) (.s 6)), (0x53000800, Instr.dqnt (.v 0) (.v 8) (.v 0)),
    (0x54040203, Instr.dot4 (.v 4) (.v 2) (.v 3)), (0x6009E200, Instr.ballot (.v 9) (.p 2) (.v 0)),
    (0x6184E200, Instr.pcnt (.s 4) (.p 2) (.v 0)), (0x6208E200, Instr.prank (.v 8) (.p 2) (.v 0)),
    (0x63040203, Instr.shfl (.v 4) (.v 2) (.v 3)), (0x65040283, Instr.shflUp (.v 4) (.v 2) (.s 3)),
    (0x67840283, Instr.rdlane (.s 4) (.v 2) (.s 3)), (0x68048283, Instr.wrlane (.v 4) (.s 2) (.s 3)),
    (0x69060200, Instr.matchN (.v 6) (.v 2) (.v 0)), (0x6D040200, Instr.tredMax (.v 4) (.v 2) (.v 0)),
    (0x70040200, Instr.tscanAdd (.v 4) (.v 2) (.v 0)), (0x71E3E1E2, Instr.pand (.p 3) (.p 1) (.p 2)),
    (0x74E3E100, Instr.pnot (.p 3) (.p 1) (.v 0)), (0x75E10400, Instr.pnz (.p 1) (.v 4) (.v 0)),
    (0x7604E100, Instr.pval (.v 4) (.p 1) (.v 0)), (0x7784E100, Instr.any (.s 4) (.p 1) (.v 0))] (fun e => decodeTableWord 32 e.1 == some e.2)) = true := by decide

/-- The example words of 18, memory and synchronisation. -/
theorem test_decode_words_18 : (List.all [
    (0x80048A00, Instr.ld (.v 4) (.s 10) 0), (0x84028A00, Instr.st (.v 2) (.s 10) 0), (0x88058407, Instr.ldx (.v 5) (.s 4) (.v 7)),
    (0x8D0184CA, Instr.stxS (.v 1) (.s 4) .lid), (0x90848000, Instr.ldn (.s 4) (.s 0) 0), (0x91828410, Instr.stn (.s 2) (.s 4) 16),
    (0x92048B00, Instr.ldAcq (.v 4) (.s 11) 0), (0x93028B00, Instr.stRel (.v 2) (.s 11) 0),
    (0xA0068A00, Instr.atomAdd (.v 6) (.s 10) (.v 0)), (0xAA838586, Instr.waita (.s 3) (.s 5) (.s 6)),
    (0xAB838500, Instr.wake (.s 3) (.s 5) (.v 0)), (0xAC000013, Instr.fence (.v 0) 0x0013), (0xAE000000, Instr.barCrew (.v 0) 0x0000),
    (0xAF000001, Instr.barFolio (.v 0) 0x0001), (0xB0008700, Instr.barQuire (.v 0) (.s 7) (.v 0)),
    (0xB188898A, Instr.slotWait (.s 8) (.s 9) (.s 10)), (0xB200898B, Instr.slotFree (.v 0) (.s 9) (.s 11)),
    (0xB3008C00, Instr.ringEos (.v 0) (.s 12) (.v 0)), (0xB4008283, Instr.donate (.v 0) (.s 2) (.s 3))] (fun e => decodeTableWord 32 e.1 == some e.2)) = true := by decide

/-- The example words of 19, matrix and engines. -/
theorem test_decode_words_19 : (List.all [
    (0xC0018400, Instr.tcfg 1 (.s 4) (.v 0)), (0xC1018A85, Instr.ldt 1 (.s 10) (.s 5)), (0xC2031000, Instr.tmov 3 (.v 16) (.v 0)),
    (0xC3870102, Instr.mma (.s 7) 1 2), (0xC4C90102, Instr.mmaZ .zr 1 2), (0xC500C900, Instr.accCfg (.v 0) .zr (.v 0)),
    (0xC6008687, Instr.drain (.v 0) (.s 6) (.s 7)), (0xC7008C8D, Instr.accSt (.v 0) (.s 12) (.s 13)),
    (0xC8008C8E, Instr.accLd (.v 0) (.s 12) (.s 14)), (0xC9959400, Instr.cpy (.s 21) (.s 20) (.v 0)),
    (0xCA838400, Instr.wprd (.s 3) (.s 4) (.v 0)), (0xCB838400, Instr.gth (.s 3) (.s 4) (.v 0)),
    (0xCC018400, Instr.srecLd 1 (.s 4) (.v 0)), (0xCD018500, Instr.srecGo 1 (.s 5) (.v 0)), (0xCE010000, Instr.srecStop 1 (.v 0) (.v 0)),
    (0xCF83C000, Instr.qstat (.s 3) (.q 0) (.v 0))] (fun e => decodeTableWord 32 e.1 == some e.2)) = true := by decide

/-- The example words of 20, system, Ductus and fabric. -/
theorem test_decode_words_20 : (List.all [
    (0xE0830010, Instr.sysRd (.s 3) 0x0010), (0xE1C90011, Instr.sysWr .zr 0x0011), (0xE200002A, Instr.trap (.v 0) 0x002A),
    (0xE3000000, Instr.brk (.v 0) (.v 0) (.v 0)), (0xE4000000, Instr.endTeam (.v 0) (.v 0) (.v 0)),
    (0xE5008485, Instr.fork (.v 0) (.s 4) (.s 5)), (0xE6838485, Instr.enq (.s 3) (.s 4) (.s 5)),
    (0xE7008687, Instr.depDec (.v 0) (.s 6) (.s 7)), (0xE80086C9, Instr.depSet (.v 0) (.s 6) .zr),
    (0xE9008485, Instr.tblLd (.v 0) (.s 4) (.s 5)), (0xEA838485, Instr.dxRun (.s 3) (.s 4) (.s 5)),
    (0xEB008384, Instr.dxQry (.v 0) (.s 3) (.s 4)), (0xEC858300, Instr.dxStat (.s 5) (.s 3) (.v 0)),
    (0xED048A06, Instr.putr (.v 4) (.s 10) (.v 6)), (0xEE088A06, Instr.getr (.v 8) (.s 10) (.v 6)),
    (0xEF048A06, Instr.rredAdd (.v 4) (.s 10) (.v 6)), (0xF0048A06, Instr.rredMax (.v 4) (.s 10) (.v 6)),
    (0xF1008C8D, Instr.xsend (.v 0) (.s 12) (.s 13)), (0xF2008283, Instr.ctrAdd (.v 0) (.s 2) (.s 3)),
    (0xF3848200, Instr.ctrRd (.s 4) (.s 2) (.v 0)), (0xF4838400, Instr.cav (.s 3) (.s 4) (.v 0)),
    (0xF5838400, Instr.repart (.s 3) (.s 4) (.v 0)), (0xF6858300, Instr.collSt (.s 5) (.s 3) (.v 0)),
    (0xF7858600, Instr.role (.s 5) (.s 6) (.v 0)), (0xF8000000, Instr.tret (.v 0) (.v 0) (.v 0))] (fun e => decodeTableWord 32 e.1 == some e.2)) = true := by decide

/-- The opcodes without an example line: the opcode of R289 in bits 31 to 24, and the fields of its format (R271) at their codes (R273). -/
theorem test_decode_opcodes_1 : (List.all [
    (0x01FFFFFD, Instr.bra 0xFFFFFD), (0x02FFFFFD, Instr.brg 0xFFFFFD), (0x03811234, Instr.brz (.s 1) 0x1234),
    (0x04811234, Instr.brnz (.s 1) 0x1234), (0x05FFFFFD, Instr.call 0xFFFFFD), (0x07FFFFFD, Instr.rcv 0xFFFFFD),
    (0x0F811234, Instr.modeRnd (.s 1) 0x1234), (0x117FBFC9, Instr.ssub (.v 127) (.s 63) .zr),
    (0x127FBFC9, Instr.smul (.v 127) (.s 63) .zr), (0x147FBFC9, Instr.sdiv (.v 127) (.s 63) .zr),
    (0x167FBFC9, Instr.sand (.v 127) (.s 63) .zr), (0x177FBFC9, Instr.sor (.v 127) (.s 63) .zr),
    (0x187FBFC9, Instr.sxor (.v 127) (.s 63) .zr), (0x197FBFC9, Instr.sshl (.v 127) (.s 63) .zr),
    (0x1A7FBFC9, Instr.sshr (.v 127) (.s 63) .zr), (0x1B7FBFC9, Instr.ssra (.v 127) (.s 63) .zr),
    (0x1C7FBFC9, Instr.sslt (.v 127) (.s 63) .zr), (0x1D7FBFC9, Instr.ssltn (.v 127) (.s 63) .zr),
    (0x207FBFC9, Instr.add (.v 127) (.s 63) .zr), (0x227FBFC9, Instr.mul (.v 127) (.s 63) .zr),
    (0x257FBFC9, Instr.min (.v 127) (.s 63) .zr), (0x277FBFC9, Instr.abs (.v 127) (.s 63) .zr),
    (0x297FBFC9, Instr.and (.v 127) (.s 63) .zr), (0x2A7FBFC9, Instr.or (.v 127) (.s 63) .zr),
    (0x2D7FBFC9, Instr.shl (.v 127) (.s 63) .zr), (0x2F7FBFC9, Instr.rot (.v 127) (.s 63) .zr),
    (0x307FBFC9, Instr.clz (.v 127) (.s 63) .zr), (0x327FBFC9, Instr.brev (.v 127) (.s 63) .zr),
    (0x387FBFC9, Instr.cmpNe (.v 127) (.s 63) .zr), (0x397FBFC9, Instr.cmpLt (.v 127) (.s 63) .zr),
    (0x3A7FBFC9, Instr.cmpLe (.v 127) (.s 63) .zr), (0x3B7FBFC9, Instr.cmpUn (.v 127) (.s 63) .zr),
    (0x3C7FBFC9, Instr.div (.v 127) (.s 63) .zr), (0x407FBFC9, Instr.sqrt (.v 127) (.s 63) .zr),
    (0x417FBFC9, Instr.rsq (.v 127) (.s 63) .zr), (0x427FBFC9, Instr.rcp (.v 127) (.s 63) .zr),
    (0x437FBFC9, Instr.exp2 (.v 127) (.s 63) .zr), (0x447FBFC9, Instr.log2 (.v 127) (.s 63) .zr),
    (0x457FBFC9, Instr.sin (.v 127) (.s 63) .zr), (0x467FBFC9, Instr.cos (.v 127) (.s 63) .zr),
    (0x477FBFC9, Instr.tanh (.v 127) (.s 63) .zr), (0x487FBFC9, Instr.sigm (.v 127) (.s 63) .zr),
    (0x497FBFC9, Instr.erf (.v 127) (.s 63) .zr), (0x4A7FBFC9, Instr.floor (.v 127) (.s 63) .zr),
    (0x4B7FBFC9, Instr.ceil (.v 127) (.s 63) .zr)] (fun e => decodeTableWord 32 e.1 == some e.2)) = true := by decide

/-- The opcodes without an example line: the opcode of R289 in bits 31 to 24, and the fields of its format (R271) at their codes (R273). -/
theorem test_decode_opcodes_2 : (List.all [
    (0x4C7FBFC9, Instr.trunc (.v 127) (.s 63) .zr), (0x4D7FBFC9, Instr.rint (.v 127) (.s 63) .zr),
    (0x4E7FBFC9, Instr.fclass (.v 127) (.s 63) .zr), (0x567FBFC9, Instr.maxp (.v 127) (.s 63) .zr),
    (0x647FBFC9, Instr.shflX (.v 127) (.s 63) .zr), (0x667FBFC9, Instr.shflDn (.v 127) (.s 63) .zr),
    (0x6A7FBFC9, Instr.matchB (.v 127) (.s 63) .zr), (0x6B7FBFC9, Instr.tredAdd (.v 127) (.s 63) .zr),
    (0x6C7FBFC9, Instr.tredMin (.v 127) (.s 63) .zr), (0x6E7FBFC9, Instr.tredAnd (.v 127) (.s 63) .zr),
    (0x6F7FBFC9, Instr.tredOr (.v 127) (.s 63) .zr), (0x727FBFC9, Instr.por (.v 127) (.s 63) .zr),
    (0x737FBFC9, Instr.pxor (.v 127) (.s 63) .zr), (0x787FBFC9, Instr.all (.v 127) (.s 63) .zr),
    (0x81058AFD, Instr.ldS (.v 5) (.s 10) 0xFD), (0x82058AFD, Instr.ldK (.v 5) (.s 10) 0xFD),
    (0x83058AFD, Instr.ldB (.v 5) (.s 10) 0xFD), (0x85058AFD, Instr.stS (.v 5) (.s 10) 0xFD),
    (0x86058AFD, Instr.stK (.v 5) (.s 10) 0xFD), (0x87058AFD, Instr.stB (.v 5) (.s 10) 0xFD),
    (0x897FBFC9, Instr.ldxS (.v 127) (.s 63) .zr), (0x8A7FBFC9, Instr.ldxK (.v 127) (.s 63) .zr),
    (0x8B7FBFC9, Instr.ldxB (.v 127) (.s 63) .zr), (0x8C7FBFC9, Instr.stx (.v 127) (.s 63) .zr),
    (0x8E7FBFC9, Instr.stxK (.v 127) (.s 63) .zr), (0x8F7FBFC9, Instr.stxB (.v 127) (.s 63) .zr),
    (0xA17FBFC9, Instr.atomMin (.v 127) (.s 63) .zr), (0xA27FBFC9, Instr.atomMax (.v 127) (.s 63) .zr),
    (0xA37FBFC9, Instr.atomAnd (.v 127) (.s 63) .zr), (0xA47FBFC9, Instr.atomOr (.v 127) (.s 63) .zr),
    (0xA57FBFC9, Instr.atomXor (.v 127) (.s 63) .zr), (0xA67FBFC9, Instr.atomXchg (.v 127) (.s 63) .zr),
    (0xA77FBFC9, Instr.atomCas (.v 127) (.s 63) .zr), (0xA87FBFC9, Instr.atomDecp (.v 127) (.s 63) .zr),
    (0xA97FBFC9, Instr.atomIncw (.v 127) (.s 63) .zr), (0xAD811234, Instr.waito (.s 1) 0x1234)] (fun e => decodeTableWord 32 e.1 == some e.2)) = true := by decide

theorem test_decode_li32 : decodeTableWord 64 0x000000643E03C9C9 = some (.li32 (.v 3) .zr .zr 0x64) := by decide +kernel
theorem test_decode_unassigned : decodeTableWord 32 0xD0000000 = some (.unassignedOpcode 0xD0000000) := by decide +kernel

/-! ### Well-formed instructions -/

theorem test_event_is_ill_formed : Instr.deviceReset.wellFormed = false := by decide +kernel
theorem test_assigned_word_is_ill_formed : (Instr.unassignedOpcode 0x00000000).wellFormed = false := by decide +kernel
theorem test_unassigned_word_is_well_formed : (Instr.unassignedOpcode 0xD0000000).wellFormed = true := by decide +kernel
theorem test_add_is_well_formed : (Instr.add (.v 1) .lid (.v 3)).wellFormed = true := by decide +kernel

/-! ### Premises: decoding, steps, control -/

theorem witness_StepRunsTheInstructionAtPc : base.turn = none ∧ canIssue base base.cur = true ∧ base.me.status = .run ∧
    base.me.pc.toNat < winLo ∧ (match translate base (teamAgent base base.cur none) .fetch base.me.pc.toNat with
      | (s', .ok k) => (decode ((octetWords (fetchBytes s' base.cur (k - base.me.pc.toNat % 32) 32)).drop (slotOf base.me.pc) ++ [0, 0])).toOption.map
          (·.1) == some (.nop (.v 0) (.v 0) (.v 0))
      | _ => false) = true ∧ (Instr.nop (.v 0) (.v 0) (.v 0)).wellFormed = true := by decide +kernel
theorem witness_StepRunsTheEvent : ({ base with turn := some .pwrbrkNAssert } : State).turn = some .pwrbrkNAssert := by decide +kernel

/-- BRI's targets: at a multiple of 4, misaligned, at a pace word, too high, in the windows. -/
theorem witness_NopAndBranches : ready (withS [(1, 0x44)]) = true ∧ okS (.s 0) = true ∧ okS (.s 1) = true ∧ sVal (withS [(1, 0x44)]).me (.s 0) = 0 ∧
    sVal (withS [(1, 0x44)]).me (.s 1) ≠ 0 ∧ targetOk (targetOf base.me.pc 1) = true ∧ targetOk 0x44 = true ∧
    (sVal (withS [(1, 0x44)]).me (.s 1)).toNat % 4 = 0 ∧ (targetOf base.me.pc 7).toNat % 32 = 0 ∧
    [(0x46 : W64), 0x40, 0x10000000000004, 0xFFFF000000004, 0xFFFFFFFFFFFFC].all (fun v => ready (withS [(1, v)])) = true := by decide +kernel

theorem witness_ControlStacks : ready base = true ∧ base.me.cstack.length < 16 ∧ targetOk (targetOf base.me.pc 1) = true ∧
    (∀ n ∈ [15, 16], ready (team0 (fun t => { t with cstack := List.replicate n 0x44, s := [(63, 0x44)] })) = true) ∧
    targetOk (sVal (withS [(63, 0x44)]).me (.s 63)) = true ∧ base.me.cstack = [] ∧
    (∀ n ∈ [31, 32], ∀ p ∈ [true, false], ready (team0 (fun t => { t with
      rstack := List.replicate n { pending := p, addr := 0x44, mask := 1, mr := 0x40000140 } })) = true) ∧ base.me.rstack = [] ∧
    [(0 : W64), 0xFFFFFFFF, 0x0F].all (fun m => ready (team0 (fun t => { t with p := [(1, BitVec.setWidth 1024 m)], mr := 0x40000141 }))) = true := by decide +kernel

theorem witness_ModeRegister : ready (withS [(1, 0x7FFFFFFF), (2, 0x80000000), (3, 0x800000000000)]) = true ∧ (31 : Nat) < 2 ^ 5 ∧ 2 ^ 5 ≤ (32 : Nat) ∧
    sVal (withS [(1, 0x7FFFFFFF), (2, 0x80000000), (3, 0x800000000000)]).me (.s 1) = 0x7FFFFFFF ∧
    (sVal (withS [(2, 0x80000000)]).me (.s 2)).getLsbD 31 = true ∧ 2 ^ 47 ≤ (sVal (withS [(3, 0x800000000000)]).me (.s 3)).toNat := by decide +kernel

theorem witness_ScalarResults : ready (withS [(1, 5)]) = true ∧ okS (.s 1) = true ∧ okS .zr = true ∧ sVal (withS [(1, 5)]).me (.s 1) = 5 ∧
    sVal (withS [(1, 5)]).me .zr = 0 := by decide +kernel
theorem witness_ScalarOperandsAreChecked : ready base = true ∧ okS (.v 1) = false ∧ okS (.s 1) = true ∧ okS .lid = false ∧ okS (.p 1) = false := by decide +kernel

/-! ### Premises: lane-wise instructions -/


theorem witness_LaneBinaryResults : ∀ e ∈ Sys2Proof.Claims.binaryRows, ∀ ty ∈ [4, 10], (e.tys ty = true →
    tyCheck (withTy ty).me.mr e.tys e.rnds = true ∧ ready (withTy ty) = true ∧
      inRange (withTy ty).me [(.v 127, 1), (.lid, 1), (.zr, 1)] = true) ∧ (e.tys 4 = true ∨ e.tys 10 = true) := by decide +kernel
theorem witness_LaneBinaryOperands : okDst false (.v 127) = true ∧ okSrc false .lid = true ∧ okSrc false (.vx 1) = true ∧ okDst true (.v 126) = true ∧
    inRange (withTy 6).me [(.v 126, 2), (.v 0, 2), (.zr, 2)] = true ∧ ready (withTy 6) = true ∧
    inRange (team0 (fun t => { t with x := [(1, 127)] })).me [(.v 0, 1), (.vx 1, 1), (.v 1, 1)] = true := by decide +kernel
theorem witness_LaneUnaryResults : ∀ e ∈ Sys2Proof.Claims.unaryRows, ∀ ty ∈ [4, 10], (e.tys ty = true →
    tyCheck (withTy ty).me.mr e.tys e.rnds = true ∧ ready (withTy ty) = true ∧ inRange (withTy ty).me [(.v 127, 1), (.v 0, 1)] = true) ∧
    (e.tys 4 = true ∨ e.tys 10 = true) := by decide +kernel
theorem witness_LaneTernaryResults : ready (withTy 4) = true ∧ okRdDst false (.v 1) = true ∧ okSrc false (.v 2) = true ∧
    inRange (withTy 4).me [(.v 1, 1), (.v 2, 1), (.v 3, 1)] = true ∧ tyCheck (withTy 4).me.mr tyNotX rndFlt = true ∧
    ∀ e ∈ Sys2Proof.Claims.ternaryRows, tyCheck (withTy 4).me.mr e.tys e.rnds = true := by decide +kernel
theorem witness_LaneMoves : ready (withTy 10) = true ∧ okDst false (.v 1) = true ∧ okSrc false (.v 2) = true ∧ okSrc false (.v 3) = true ∧
    mrTyValid (withTy 10).me.mr = true ∧ mrWords (withTy 10).me.mr = 1 ∧ inRange (withTy 10).me [(.v 1, 1), (.v 2, 1), (.v 3, 1)] = true ∧
    tyCheck (withTy 10).me.mr tyNotX rndFlt = true := by decide +kernel
theorem witness_LaneCompares : okP (.p 15) = true ∧ ∀ ty ∈ [4, 5, 10], ready (withTy ty) = true ∧ okSrc false (.v 2) = true ∧
    tyCheck (withTy ty).me.mr (fun ty => (tyInt ty && decide (4 ≤ ty)) || ty == 10 || ty == 11 || ty == 15) rndNever = true ∧
    inRange (withTy ty).me [(.p 15, 1), (.v 2, 1), (.v 3, 1)] = true := by decide +kernel
theorem witness_LaneConversions :
    (∀ ws ∈ [0, 10], ∀ s : State, s = team0 (fun t => { t with mr := w64 (32 * 10 + 2 ^ 32 * ws) }) → ready s = true ∧ mrTyValid s.me.mr = true ∧
      mrSrcValid s.me.mr = true ∧ mrType s.me.mr = 10 ∧ mrSrcType s.me.mr = ws ∧ mrRnd s.me.mr ≠ 7 ∧ okDst (mr64 s.me.mr) (.v 4) = true ∧
      okSrc (tyIs64 (mrSrcType s.me.mr)) (.v 8) = true ∧ inRange s.me [(.v 4, 4), (.v 8, 4)] = true) ∧
    (∃ s, s = team0 (fun t => { t with mr := w64 (32 * 2 + 2 ^ 32 * 10) }) ∧ ready s = true ∧ mrTyValid s.me.mr = true ∧ mrSrcValid s.me.mr = true ∧
      cvtpOk (mrType s.me.mr) (mrSrcType s.me.mr) = true ∧ inRange s.me [(.v 4, 1), (.v 2, 1), (.v 3, 1)] = true) ∧
    (∃ s, s = withTy 0 ∧ ready s = true ∧ tyCheck s.me.mr (fun ty => ty == 0 || ty == 1 || ty == 12) (· == 12) = true ∧ okRdDst false (.v 4) = true) := by
  refine ⟨?_, ⟨_, rfl, ?_⟩, ⟨_, rfl, ?_⟩⟩
  · intro ws h s hs
    subst hs
    revert ws
    decide +kernel
  · decide +kernel
  · decide +kernel

/-- Team 0 feeds queue 2 of team 1. -/
def twoTeams (entries : Nat) : State :=
  let s := base.setCrew 0 { base.crew 0 with teams := [0, 1] }
  let s := s.updTeam 0 (fun t => { t with mr := w64 (32 * 4), queues := [(1, { bind := w64 (1 + 2 * 2 + 256 + 2 * 2 ^ 12) })] })
  s.setTeam 1 { s.team 0 with id := 1, queues := [(2, { bind := w64 (2 * 2), entries := List.replicate entries {} })] }
theorem witness_LaneQueues_out : ∀ n ∈ [0, 7], ready (twoTeams n) = true ∧ qWritable (twoTeams n) (twoTeams n).me (.q 1) = true ∧
    crewTeam (twoTeams n) (twoTeams n).me.crew (bindPeer ((twoTeams n).me.q 1).bind) = some 1 ∧ bindPq ((twoTeams n).me.q 1).bind = 2 ∧
    (((twoTeams n).team 1).q 2).entries.length < 8 ∧ inRange (twoTeams n).me [(.v 0, 1)] = true := by decide +kernel
/-- The other way: team 0 reads queue 0, fed by a stream or by team 1. -/
def reader (src n : Nat) (st : TStatus) (x : Stream) : State :=
  let s := base.setCrew 0 { base.crew 0 with teams := [0, 1] }
  let s := s.setTeam 1 { s.team 0 with id := 1, status := st }
  s.updTeam 0 (fun t => { t with mr := w64 (32 * 4), queues := [(0, { bind := w64 (2 * src + 256), entries := List.replicate n {} })], streams := [(0, x)] })
theorem witness_LaneQueues_in :
    ([reader 2 8 .run {}, reader 2 0 .ended {}, reader 2 0 .run {}, reader 1 0 .run { loaded := true, length := 4, pos := 4 }].all (fun s =>
      ready s && qReadable s.me (.q 0))) = true ∧ ((reader 2 8 .run {}).me.q 0).entries.head? = some {} ∧
    streamConsumed (reader 1 0 .run { loaded := true, length := 4, pos := 4 }).me 0 = true ∧
    producerEnded (reader 2 0 .ended {}) (reader 2 0 .ended {}).me 0 = true ∧ producerEnded (reader 2 0 .run {}) (reader 2 0 .run {}).me 0 = false := by
  decide +kernel

theorem witness_IntegerElements : mrType (w64 (32 * 4)) = 4 ∧ mrType (w64 (32 * 5)) = 5 ∧ mrSat (w64 (32 * 4)) = false ∧
    mrType (w64 (32 * 4 + 2 ^ 23)) = 4 ∧ mrSat (w64 (32 * 4 + 2 ^ 23)) = true := by decide +kernel
theorem witness_VotesAndPredicates : ready (withTy 4) = true ∧ mrTyValid (withTy 4).me.mr = true ∧ okDst false (.v 127) = true ∧ okSrc false (.v 2) = true ∧
    okS (.s 4) = true ∧ inRange (withTy 4).me [(.v 127, 1), (.v 2, 1)] = true := by decide +kernel
theorem witness_LaneExchanges : ready (withTy 4) = true ∧ okDst (mr64 (withTy 4).me.mr) (.v 4) = true ∧ okSrc (mr64 (withTy 4).me.mr) (.v 2) = true ∧
    mrTyValid (withTy 4).me.mr = true ∧ inRangeAll (withTy 4).me [(.v 4, 1), (.v 2, 1), (.v 3, 1)] = true := by decide +kernel
theorem witness_LaneReductions : ready (withTy 4) = true ∧ tyCheck (withTy 4).me.mr tyNotX rndFlt = true ∧ tyCheck (withTy 4).me.mr tyNotX rndNever = true ∧
    tyCheck (withTy 4).me.mr tyInt rndNever = true ∧ inRange (withTy 4).me [(.v 4, 1), (.v 2, 1)] = true := by decide +kernel
theorem witness_IntegerReductionIsTheSum : ∃ i : WideIn, i = wideOf (withTy 5).me (opVal (withTy 5).me 1 .lid) (fun _ => 0) 0 0 ∧
    mrType i.mr = 5 ∧ mrSat i.mr = false ∧ i.lanes = 2 ^ 5 := ⟨_, rfl, by decide +kernel⟩
theorem witness_GroupQuantisation :
    (∃ s, s = team0 (fun t => { t with mr := w64 (32 * 13 + 4 * 2 ^ 10) }) ∧ ready s = true ∧ tyCheck s.me.mr (· == 13) (fun _ => true) = true ∧
      124 + 4 ≤ s.me.nregs) ∧
    (∃ s, s = team0 (fun t => { t with mr := w64 (32 * 10 + 2 ^ 32 * 13 + 4 * 2 ^ 37) }) ∧ ready s = true ∧ mrTyValid s.me.mr = true ∧
      mrSrcValid s.me.mr = true ∧ mrType s.me.mr = 10 ∧ mrSrcType s.me.mr = 13 ∧ mrRnd s.me.mr ≠ 7 ∧ 124 + 4 ≤ s.me.nregs) :=
  ⟨⟨_, rfl, by decide +kernel⟩, _, rfl, by decide +kernel⟩

/-! ### Premises: memory -/

/-- The start of the crew's scratch window in S4, a type of 32-bit integers. -/
def scratchBase : State := team0 (fun t => { t with s := [(4, w64 winLo)], mr := w64 (32 * 5) })
theorem witness_LoadsAndStores : ready scratchBase = true ∧ mrTyValid scratchBase.me.mr = true ∧ mrScope scratchBase.me.mr ≠ 7 ∧ okBase (.s 4) = true ∧
    okS (.s 4) = true ∧ okIdx .lid = true ∧ okLdD scratchBase scratchBase.me (.v 1) = true ∧ okStD scratchBase.me (.v 1) = true ∧
    inRange scratchBase.me [(.v 1, 1), (.s 4, 2)] = true ∧ inRange scratchBase.me [(.v 1, 1), (.s 4, 1), (.lid, 1)] = true ∧
    (scratchBase.crew scratchBase.me.crew).drafting = false ∧ scratchBase.me.doneReads = [] ∧ requestsFit scratchBase = true ∧
    Memory.wf scratchBase = true ∧
    (∀ l < 32, spot scratchBase .load 4 l (addrFm scratchBase.me 4 (.s 4) 127 l) = some (.scratch 0 508) ∧
      spot scratchBase .store 4 l (addrX scratchBase.me 4 (.s 4) .lid l) = some (.scratch 0 (4 * l)) ∧
      (loadRead scratchBase scratchBase.me.crew (.scratch 0 508) 4).2 = false) := by decide +kernel
theorem witness_LoadsIntoZrAndQueues : okLdD scratchBase scratchBase.me .zr = true ∧ (∀ s, s = (twoTeams 7).updTeam 0 (fun t => { t with s := [(4, w64 winLo)], mr := w64 (32 * 5) }) →
    ready s = true ∧ okLdD s s.me (.q 1) = true ∧ requestsFit s = true ∧ crewTeam s s.me.crew (bindPeer (s.me.q 1).bind) = some 1 ∧
    ((s.team 1).q (bindPq (s.me.q 1).bind)).entries.length + 1 ≤ 8 ∧ inRange s.me [(.s 4, 2)] = true ∧ inRange s.me [(.s 4, 1), (.lid, 1)] = true ∧
    (∀ l < 32, spot s .load 4 l (addrX s.me 4 (.s 4) .lid l) = some (.scratch 0 (4 * l)) ∧
      (loadRead s s.me.crew (.scratch 0 (4 * l)) 4).2 = false)) := by
  refine ⟨by decide +kernel, ?_⟩
  intro s h; subst h; decide +kernel
theorem witness_MisalignedAccessesTrap : ∃ s, s = team0 (fun t => { t with s := [(4, w64 (winLo + 2))], mr := w64 (32 * 5) }) ∧ ready s = true ∧
    okLdD s s.me (.v 1) = true ∧ okStD s.me (.v 1) = true ∧ inRange s.me [(.v 1, 1), (.s 4, 2)] = true ∧
    (parts s.me).find? (fun l => addrFm s.me 4 (.s 4) 0 l % 4 != 0) = some 0 := ⟨_, rfl, by decide +kernel⟩
theorem witness_UniformAccesses : ready scratchBase = true ∧ wrapN 64 ((sVal scratchBase.me (.s 4)).toNat + (0 : BitVec 8).toInt * 8) = winLo ∧
    requestsFit scratchBase = true ∧ placeReached scratchBase (.scratch 0 0) 8 = true ∧
    windowPlace scratchBase (teamAgent scratchBase scratchBase.cur none) winLo = .scratch 0 0 ∧
    windowPlace scratchBase (teamAgent scratchBase scratchBase.cur none) (winLo + 7) = .scratch 0 7 ∧
    (place (scratchBase.settled) (teamAgent scratchBase 0 none) .load winLo).2 = .scratch 0 0 ∧
    (loadRead (place (scratchBase.settled) (teamAgent scratchBase 0 none) .load winLo).1 0 (.scratch 0 0) 8).2 = false ∧
    (place (scratchBase.settled) (teamAgent scratchBase 0 none) .store winLo).2 = .scratch 0 0 ∧
    ((place (scratchBase.settled) (teamAgent scratchBase 0 none) .store winLo).1.crew 0).drafting = false := by decide +kernel
theorem witness_UniformAccessesPaged : (place (base.settled) (teamAgent base 0 none) .load (2 ^ 34 + 0x100)).2 = .phys (2 ^ 34 + 0x100) ∧
    (place (base.settled) (teamAgent base 0 none) .store (2 ^ 34 + 0x100)).2 = .phys (2 ^ 34 + 0x100) ∧
    placeReached base (.phys (2 ^ 34 + 0x100)) 8 = true := by decide +kernel
theorem witness_Responses : ∃ f : InFlight, (team0 (fun t => { t with flight := [f] })).me.flight = [f] ∧ f.kind = .mem :=
  ⟨{ kind := .mem, regs := [.s 4], writes := [(.s 4, 0, 7)], id := 0 }, by decide +kernel⟩
theorem witness_Atomics : ready scratchBase = true ∧ requestsFit scratchBase = true ∧ scratchBase.me.doneLanes = 0 ∧ scratchBase.poison = [] ∧ (scratchBase.crew 0).scratchPoison = [] ∧
    (∀ mk ∈ Sys2Proof.Claims.atomRows, (mk 5).tys 5 = true ∧ inRange scratchBase.me [(.v 4, (mk 5).k * 1), (.s 4, 1), (.lid, 1)] = true) ∧
    ∀ l < 32, spot scratchBase .atomic 4 l (addrX scratchBase.me 4 (.s 4) .lid l) = some (.scratch 0 (4 * l)) := by decide +kernel

/-! ### Premises: synchronisation -/

/-- S4 names a word of the page, S5 a value. -/
def paged (v : W64) (monq : Nat) : State :=
  crew0 (fun c => { c with monq := monq }) (team0 (fun t => { t with s := [(4, w64 (2 ^ 34 + 0x100)), (5, v)], mr := w64 (32 * 5) }))
theorem witness_Waita : [paged 1 0, paged 0 0, paged 0 1].all (fun s => ready s && decide (mrScope s.me.mr ≠ 7) &&
    (match place (s.settled) (teamAgent s s.cur none) .load (sVal s.me (.s 4)).toNat with
      | (s', p) => p == .phys (2 ^ 34 + 0x100) && ofLE (teamRead s' 0 p 4).1 == 0 && !(teamRead s' 0 p 4).2 &&
        monqFree s' 0 == (s.crew 0).monq && !p.host)) = true := by decide +kernel
theorem witness_WaitaWakeReturn : ∃ s, s = team0 (fun t => { t with octet := [0, 0xAA838586], status := .sleep { line := 3, order := 0, woken := true } }) ∧
    decodeAt s.me.octet s.me.pc.toNat = some (.waita (.s 3) (.s 5) (.s 6)) ∧ (s.crew s.me.crew).resident = true ∧ ctxRuns s 0 = true :=
  ⟨_, rfl, by decide +kernel⟩
theorem witness_Wake : (match place ((paged 0 0).settled) (teamAgent (paged 0 0) 0 none) .load (2 ^ 34 + 0x100) with
    | (s', p) => p == .phys (2 ^ 34 + 0x100) && sleepersOn s' 0 p.line == []) = true := by decide +kernel
theorem witness_Fences : ready base = true ∧ base.me.opCount 4 = 0 ∧ ∀ n ∈ [1, 2], ready (team0 (fun t => { t with opc := [(4, List.replicate n (0, false))] })) = true ∧
    (team0 (fun t => { t with opc := [(4, List.replicate n (0, false))] })).me.opCount 4 = n := by decide +kernel
/-- A second crew on core 8, which does not see the word at 2^34 + 0x1000 yet, as teams of core 0 wrote it. -/
def lagging : State := { base.setCrew 1 { base.crew 0 with core := 8, teams := [] } with
  stale := [⟨8, (2 ^ 34 + 0x1000) / 8, [9, 9, 9, 9, 9, 9, 9, 9], false, 0⟩] }
theorem witness_ReleaseThenAcquire : (lagging.crew 0).core ≠ (lagging.crew 1).core ∧ inScope lagging 0 4 (lagging.crew 1).core = true ∧
    inScope lagging 1 4 (lagging.crew 0).core = true ∧ behind lagging (lagging.crew 0).core = [] ∧ Memory.wf lagging = true ∧
    viewPlace lagging 8 (.phys (2 ^ 34 + 0x1000)) 4 ≠ readPlace lagging (.phys (2 ^ 34 + 0x1000)) 4 := by decide +kernel
theorem witness_FetchedCode : ({ base with mem := (base.launch 0).codeMem, l2 := (base.launch 0).codeL2 } : State).devBytes (2 ^ 34) 32 =
    base.devBytes (2 ^ 34) 32 := by decide +kernel
/-- 11, message passing with MR.scope CREW on both sides: nothing is ordered (R221). -/
theorem test_narrowScopesOrderNothing : (viewPlace (acquireAt (releaseAt lagging 0 1) 1 1) 8 (.phys (2 ^ 34 + 0x1000)) 4).1 = [9, 9, 9, 9] := by
  decide +kernel
/-- An acquire alone does not show what the writer has not released (R225). -/
theorem test_unreleasedStaysHidden : (viewPlace (acquireAt lagging 1 4) 8 (.phys (2 ^ 34 + 0x1000)) 4).1 = [9, 9, 9, 9] ∧
    (viewPlace lagging 0 (.phys (2 ^ 34 + 0x1000)) 4).1 = [0, 0, 0, 0] := by decide +kernel
theorem witness_FencesSeeDone : ∀ c : Nat, c < 5 → (seeDone base base.cur (· == c)).me = base.me := by decide +kernel
theorem witness_OwnStores : placeReached base (.phys (2 ^ 34 + 0x1000)) 4 = true ∧ (0 : Nat) < 512 := by decide +kernel
theorem witness_WakeOnHost : (match place (withS [(4, w64 (2 ^ 34 + 0x100))]).settled (teamAgent base 0 none) .load (2 ^ 34 + 0x100) with
    | (_, p) => !p.host) = true ∧ Place.host (.phys (physKey 2 0 0x100)) = true := by decide +kernel
theorem witness_FenceOperands : (0x3FF : BitVec 16).toNat < 1024 ∧ bitsN 0x203 2 3 ≠ 7 ∧ 0x203 % 4 ≠ 0 ∧ (0x203 : BitVec 16).getLsbD 9 = true ∧
    bitsN 0xC 3 8 = 1 ∧ 0xC % 8 = 4 := by decide +kernel
theorem witness_BarCrew : ∀ st ∈ [TStatus.barCrew 15, .ended, .run], ∃ s, s = (crew0 (fun c => { c with teams := [0, 1] }) base).setTeam 1 { base.me with id := 1, status := st } ∧
    ready s = true ∧ (s.crew s.me.crew).teams.Nodup ∧ (s.team 1).status = st ∧ (partyGone s 1 = true ↔ st = .ended) := by
  intro st h; refine ⟨_, rfl, ?_⟩; revert st; decide +kernel
theorem witness_BarFolio : ∃ s, s = (base.updLaunch 0 (fun l => { l with lrec := { l.lrec with flags := 4 } })) ∧ ready s = true ∧
    (s.crewRec s.me.crew).folio = true ∧ folioTeams s s.me.crew = [0] ∧ (folioTeams s s.me.crew).Nodup := ⟨_, rfl, by decide +kernel⟩
theorem witness_BarQuire : ∃ s, s = (poke [(0x200, leBytes 8 (2 ^ 34 + 0x300) ++ leBytes 8 1)] (crew0 (fun c => { c with role := 0 })
      ((base.updLaunch 0 (fun l => { l with lrec := { l.lrec with quire := 0 } })).updCtx 0 (fun c => { c with qdirCount := 1, qdirBase := w64 (2 ^ 34 + 0x200) })))) ∧
    ready s = true ∧ (s.crew s.me.crew).role ≠ 0xFFFFFFFF ∧ (match hubBindings (s.settled) 0 0 with
      | (s1, bs) => (bs.filterMap id).all (fun b => b.chip == s.chipId) && s1.chipId == s.chipId) = true := ⟨_, rfl, by decide +kernel⟩
theorem witness_SlotWait : okS (.s 4) = true ∧ ready (ring0 0 1 1 0 base) = true ∧
    okAnd (ringChecks (ring0 0 1 1 0 base) 0 0 20 (.ok ())) (fun r => r.filled 0 && r.nslots == 4 && r.tail == 0 && r.used == 1) = true ∧
    okAnd (ringChecks (ring0 1 0 0 0 base) 0 0 20 (.ok ())) (fun r => !r.filled 0 && r.closed == r.prods && r.head == 0) = true ∧
    okAnd (ringChecks (ring0 0 0 0 0 base) 0 0 20 (.ok ())) (fun r => !r.filled 0 && r.closed != r.prods && !r.filled 3) = true ∧
    ((ring0 1 0 0 0 base).crew 0).ringClaims = [] := by decide +kernel
theorem witness_RingEos : okAnd (ringChecks (ring0 0 0 0 0 base) 0 0 23 (.ok ())) (fun r => bitN r.prods 0 && !bitN r.closed 0) = true ∧
    ((ring0 0 0 0 0 base).crew 0).ringEos = [] ∧ bitsN 0 20 3 = 0 := by decide +kernel
theorem witness_RingProducerClose : ∃ s, s = crew0 (fun c => { c with ringEos := [(0, 0, 0, 0)] }) (ring0 0 0 0 0 base) ∧ (s.crew 0).ringEos = [(0, 0, 0, 0)] ∧
    (s.crew 0).resident = true ∧ ctxRuns s 0 = true ∧ ringPending s 0 0 0 0 0 = false ∧ (s.crew 0).ringClaims = [] := ⟨_, rfl, by decide +kernel⟩
/-- Five teams; team 4 shares team 0's partition. -/
def fiveTeams (st : TStatus) : State :=
  let s := crew0 (fun c => { c with teams := [0, 1, 2, 3, 4] }) (withS [(1, 4), (2, 0xFF), (3, 5)])
  s.setTeam 4 { s.me with id := 4, nregs := 120, status := st }
theorem witness_Donate : ready (fiveTeams .run) = true ∧ crewTeam (fiveTeams .run) 0 (sVal (fiveTeams .run).me (.s 1)).toNat = some 4 ∧
    crewTeam (fiveTeams .run) 0 (sVal (fiveTeams .run).me (.s 3)).toNat = none ∧ ((fiveTeams .run).team 4).status = .run ∧
    partyGone (fiveTeams .run) 4 = false ∧ ready (fiveTeams (.donate 0 1 0)) = true ∧ (1 : Int) + sextN 8 (0xFF % 256) = 0 ∧
    grantOk (fiveTeams (.donate 0 1 0)).me (-1) 0 = true ∧ grantOk ((fiveTeams (.donate 0 1 0)).team 4) 1 0 = true ∧
    (fiveTeams .run).me.id % 4 = (sVal (fiveTeams .run).me (.s 1)).toNat % 4 := by decide +kernel

/-! ### Premises: tiles and engines -/

/-- Two tiles of 2 × 8 F32, S4 to S7 given, an object of that shape at 0x1000 of the page. -/
def tiles (v w u : W64) : State :=
  let k : Tile := { cfg := true, rows := 2, cols := 8, ty := 10 }
  poke [(0x1000, leBytes 4 2 ++ leBytes 1 0 ++ leBytes 1 10 ++ leBytes 2 0 ++ leBytes 2 2 ++ leBytes 2 8 ++ leBytes 4 32)]
    (crew0 (fun c => (c.setTile 1 k).setTile 2 k) (withS [(4, v), (5, w), (6, u)]))
theorem witness_Tcfg : ready (tiles (2 + 8 * 256 + 10 * 65536) 0 0) = true ∧ ((tiles 0 0 0).crewRec 0).tiles = true ∧ (tiles 0 0 0).me.opCount 2 < 255 ∧
    (let v := (sVal (tiles (2 + 8 * 256 + 10 * 65536) 0 0).me (.s 4)).toNat
     v < 2 ^ 26 ∧ bitsN v 0 8 = 2 ∧ bitsN v 8 8 = 8 ∧ tileTy (bitsN v 16 5) = true ∧ tileB8 (bitsN v 16 5) (bitsN v 21 5) = true ∧
     ({ cfg := true, rows := 2, cols := 8, ty := 10 } : Tile).size ≤ 8192) := by decide +kernel
theorem witness_Ldt : ready (tiles (2 ^ 34 + 0x1000) 0 0) = true ∧ ((tiles 0 0 0).crew 0 |>.tile 1).cfg = true ∧
    okAnd (objHeader ((tiles (2 ^ 34 + 0x1000) 0 0).settled) 0 0 (2 ^ 34 + 0x1000)) (fun x => x.2.layout == 0 && x.2.ty == 10 && x.2.b8 == 0 &&
      x.2.rows == 2 && x.2.cols == 8 && okAnd (objPieces x.1 0 0 x.2 (objPlan x.2 false)) (fun y => y.2.length == 16 && y.2.all (fun z => !z.2))) = true := by
  decide +kernel
theorem witness_DataRanges : okOf (dataOk base (engAgent base 0 4) [(2 ^ 34 + 0x1000, 128)]) = some () ∧
    okOf (dataOk base (engAgent base 0 1) [(2 ^ 34 + 0x1000, 16), (2 ^ 34 + 0x2000, 16)]) = some () ∧
    okOf (dataOk base (engAgent base 0 2) [(2 ^ 34 + 0x2000, 12), (2 ^ 34 + 0x3000, 192)]) = some () ∧
    okOf (dataOk base (engAgent base 0 2) [(2 ^ 52 - 8, 16)]) = none := by decide +kernel
theorem witness_Tmov : ((tiles 0 0 0).crew 0 |>.tile 1).size = 64 ∧ 127 + (64 + 4 * (tiles 0 0 0).me.lanes - 1) / (4 * (tiles 0 0 0).me.lanes) ≤ (tiles 0 0 0).me.nregs := by
  decide +kernel
theorem witness_Mma : ready (tiles 0 0 0) = true ∧ ((tiles 0 0 0).core 0).govUsed < ((tiles 0 0 0).core 0).govCur ∧ 1 ≤ ((tiles 0 0 0).core 0).govCap ∧
    ((tiles 0 0 0).crew 0).accF64 = (((tiles 0 0 0).crew 0 |>.tile 1).ty == 11) ∧ 2 ≤ accCap false ∧ 3070 + 2 ≤ 3072 := by decide +kernel
theorem witness_DrainAndAccSt : (2 * 2 ^ 12 : Nat) < 2 ^ 24 ∧ (2 * 2 ^ 8 : Nat) < 2 ^ 15 ∧ bitsN (2 * 2 ^ 12) 12 12 = 2 ∧ bitsN (2 * 2 ^ 8) 8 7 = 2 ∧
    bitN (2 * 2 ^ 8) 7 = false ∧ 0 + 2 ≤ accCap false ∧
    (let w := 2 * 2 ^ 12 + 8 * 2 ^ 24 + 10 * 2 ^ 31 + 2 ^ 44
     w < 2 ^ 48 ∧ stRows w = 2 ∧ stCols w = 8 ∧ tileTy (stTy w) = true ∧ stLayout w = 0 ∧ stAon w = true ∧ tileB8 (stTy w) (stB8 w) = true ∧
     stCols w ≤ accCap false ∧ stRows w * (stCols w * tySize (stTy w)) ≤ 65536) := by decide +kernel
theorem witness_AccLd : okAnd (objHeader ((tiles (2 ^ 34 + 0x1000) 0 0).settled) 0 0 (2 ^ 34 + 0x1000)) (fun x => x.2.layout == 0 && tileTy x.2.ty &&
    decide (x.2.cols ≤ accCap false) && okAnd (objPieces x.1 0 0 x.2 (objPlan x.2 false)) (fun y => y.2.all (fun z => !z.2))) = true := by decide +kernel
/-- One command in the matrix queue. -/
def mmq (op : MmaOp) (started : Bool) (done : Nat) : State :=
  crew0 (fun c => { c with mmq := [{ op := op, team := 0, started := started, done := done }] }) (tiles 0 0 0)
theorem witness_MatrixCommands : [MmaOp.tcfg 1, .setTile 1 [] [], .mma true 0 1 2 2 2 8 10 0 10 0 false 0, .accCfg true,
      .drain 0 { first := 0, nrows := 1, col := 0, ncols := 1, f64 := false }, .accLd false 0 1 1 [0] []].all (fun op => (mmq op false 0).crew 0 |>.resident) = true ∧
    ctxRuns (mmq (.tcfg 1) false 0) 0 = true ∧ mmaBusy (mmq (.tcfg 1) false 0) 0 0 = false ∧ mmaBusy (mmq (.tcfg 1) true 0) 0 0 = false ∧
    mmaRegion (.mma true 0 1 2 2 2 8 10 0 10 0 false 0) ≠ none ∧
    drainHolds (mmq (.tcfg 1) false 0) ((mmq (.tcfg 1) false 0).crew 0) (0, 2, 8) = false ∧ (MmaOp.tcfg 1 == .reading) = false ∧
    mmaEarlier (mmq (.tcfg 1) false 0) 0 0 0 = false ∧
    ((mmq (.tcfg 1) false 0).crew 0).mmq.all (fun m => !mmaTies (mmq (.tcfg 1) false 0) ((mmq (.tcfg 1) false 0).crew 0) m) = true := by decide +kernel
/-- An ACC.ST of one F32 element to 0x1000 of the page. -/
def accStW (aon : Nat) : Nat := 2 ^ 12 + 2 ^ 24 + 10 * 2 ^ 31 + aon * 2 ^ 44
/-- The given parts of it are written. -/
def stWrites (s : State) (aon ver : Nat) (l : List Nat) : Bool :=
  okAnd (stWrite (engAgent s 0 4) (s.crew 0) (2 ^ 34 + 0x1000) (accStW aon) false ver s l).2 (fun _ => true)
theorem witness_AccSt : ∀ aon ∈ [0, 1], ∀ s, s = mmq (.accSt (2 ^ 34 + 0x1000) (w64 (accStW aon)) false) false 0 → accStW aon < 2 ^ 48 ∧
    (match engRead s (engAgent s 0 4) 0 (2 ^ 34 + 0x1000) 4 with
      | (s1, .ok (vb, _)) => ofLE vb == 2 && stWrites s1 aon 3 [0] && (match placesOf s1 (engAgent s 0 4) .engW (piecesOf (2 ^ 34 + 0x1000) 68) with
          | (s2, .ok _) => stWrites (releaseAt s2 0 4) aon 4 (List.range 3)
          | _ => false)
      | _ => false) = true := by
  intro aon h s hs; subst hs; revert aon; decide +kernel
theorem witness_AccStParts : ∀ n ∈ [1, 2], ∀ s, s = mmq (.accSt (2 ^ 34 + 0x1000) (w64 (accStW 0)) false) true n → stParts (accStW 0) = 3 ∧
    stWrites s 0 3 [n] = true ∧ okAnd (writeVa (showVa (releaseAt s 0 4) (engAgent s 0 4) (2 ^ 34 + 0x1000) (stSize (accStW 0))) (engAgent s 0 4) .engW
      (2 ^ 34 + 0x1000) (leBytes 4 4) false).2 (fun _ => true) = true := by
  intro aon h s hs; subst hs; revert aon; decide +kernel

/-- A copy record, and other records, at 0x400 of the page; S4 names it. -/
def cpyRec (flags : Nat) : List Byte := leBytes 8 (2 ^ 34 + 0x1000) ++ leBytes 8 (2 ^ 34 + 0x2000) ++ leBytes 4 16 ++ leBytes 1 7 ++ leBytes 1 flags ++
  leBytes 1 0 ++ leBytes 9 0
def recAt (r : List Byte) : State := poke [(0x400, r)] (ring0 0 0 0 0 (withS [(4, w64 (2 ^ 34 + 0x400)), (5, 0)]))
/-- The record is read whole at issue, and passes a test. -/
def reads (s : State) (_op va n : Nat) (p : State → List Byte → Bool) : Bool :=
  okAnd (issueRead s.settled s.cur va n) (fun x => p x.1 x.2)
theorem witness_RecordsCpy : [0, 1, 3].all (fun f => ready (recAt (cpyRec f)) && !((recAt (cpyRec f)).crew 0).drafting && decide ((recAt (cpyRec f)).me.opCount 0 < 255) &&
    reads (recAt (cpyRec f)) 0xC9 (2 ^ 34 + 0x400) 32 (fun s1 r => field r 28 4 == 0 && field r 23 1 == 0 && field r 21 1 == f && field r 20 1 == 7 && field r 22 1 == 0 &&
      (match ringFor s1 0 (field r 24 4) with
        | some g => bitN g.prods 0
        | none => false))) = true := by decide +kernel
def gthRec (lsz : Nat) : List Byte := leBytes 8 (2 ^ 34 + 0x1000) ++ leBytes 8 (2 ^ 34 + 0x2000) ++ leBytes 8 (2 ^ 34 + 0x3000) ++ leBytes 4 3 ++ leBytes 1 lsz ++
  leBytes 1 7 ++ leBytes 2 0 ++ leBytes 4 5 ++ List.replicate 12 0
theorem witness_RecordsGth : [0, 6].all (fun z => decide ((recAt (gthRec z)).me.opCount 1 < 255) && reads (recAt (gthRec z)) 0xCB (2 ^ 34 + 0x400) 48 (fun _ r =>
    field r 36 12 == 0 && field r 30 2 == 0 && field r 29 1 == 7 && field r 28 1 == z && field r 8 8 % 4 == 0 &&
    [field r 0 8, field r 8 8, field r 16 8].all (fun x => x % min (2 ^ z) 8 == 0))) = true := by decide +kernel
/-- A stream record of 4-byte elements (code 2) or 1-byte ones (code 0), indirect through F3 where asked. -/
def srec (ez ind : Nat) : List Byte := leBytes 8 (2 ^ 34 + 0x1000) ++ leBytes 4 40 ++ leBytes 1 ez ++ leBytes 1 ind ++ leBytes 1 3 ++ leBytes 1 3 ++ leBytes 8 4 ++
  leBytes 4 9 ++ List.replicate 36 0
def withF3 (s : State) : State := s.updTeam 0 (fun t => t.setStream 3 { loaded := true, esz := 4 })
theorem witness_RecordsSrec : [(0, 0), (6, 0), (2, 1)].all (fun e => reads (withF3 (recAt (srec e.1 e.2))) 0xCC (2 ^ 34 + 0x400) 64 (fun _ r =>
    field r 28 36 == 0 && field r 12 1 == e.1 && decide (e.1 % 4 ≠ 3 ∧ field r 15 1 < 4 ∧ field r 8 4 ≠ 0 ∧ field r 13 1 = e.2 ∧ field r 0 8 % 2 ^ (e.1 % 4) = 0 ∧
    field r 16 8 % 2 ^ (e.1 % 4) = 0 ∧ field r 14 1 = 3)) && ((withF3 (recAt [])).me.stream 3).loaded && !((withF3 (recAt [])).me.stream 15).running &&
    !indexesRunning (withF3 (recAt [])).me 15) = true := by decide +kernel
theorem witness_RecordsGo : [(6 : Nat), 1].all (fun va => let s := (withF3 (recAt [])).updTeam 0 (fun t => t.setQ 3 { bind := w64 (2 + 16 * 3) })
    (s.me.stream 3).loaded && !(s.me.stream 3).running && decide (va < 2 ^ 27) &&
    (decide (bitN va 0 = false ∧ bitsN va 4 20 = 0 ∧ bindDir (s.me.q (bitsN va 1 3)).bind = false ∧ bindSrc (s.me.q (bitsN va 1 3)).bind = 1 ∧ bindStrm (s.me.q (bitsN va 1 3)).bind = 3) ||
      (bitN va 0 && bitsN va 1 3 == 0 && (match ringFor s 0 (bitsN va 4 20) with
        | some g => bitN g.prods (bitsN va 24 3)
        | none => false)))) = true := by decide +kernel
theorem witness_EngineStatusReads : ready base = true ∧ (7 : W64).toNat < 8 ∧ bindDir (base.me.q 7).bind = false ∧ (base.me.q 7).entries.length ≤ 8 ∧
    bindDir (w64 (1 + 4 * 2)) = true ∧ crewTeam base 0 0 = some 0 := by decide +kernel
/-- A channel's head transfer, of 9 bytes. -/
def chanS (f : CpyXfer → CpyXfer) : State :=
  let x : CpyXfer := { team := 0, crew := 0, src := 2 ^ 34 + 0x1000, dst := 2 ^ 34 + 0x2000, bytes := 9, reset := true, ring := none }
  base.updCore 0 (fun c => { c with chans := [(2, { q := [f x] })] })
/-- A read, and then a write of what was read. -/
def moves (s : State) (a : Agent) (ci src dst n : Nat) : Bool :=
  match engRead s a ci src n with
  | (s1, .ok (bs, bad)) => (match writeVa s1.draw.2 a .engW dst bs bad with
    | (_, .ok ()) => true
    | _ => false)
  | _ => false
theorem witness_Copies : [false, true].all (fun st => [0, 8, 9].all (fun n => let s := chanS (fun x => { x with started := st, done := n })
    (s.chan 0 2).q.length == 1 && (s.chan 0 2).q.all (fun x => cpyLive s x && x.ring.isNone && !x.overlaps && decide (x.done ≤ x.bytes)) &&
    moves s (engAgent s 0 1) 0 (2 ^ 34 + 0x1000 + n) (2 ^ 34 + 0x2000 + n) (if n = 0 then 8 else 1))) = true := by decide +kernel
/-- A gather of two words, `done` of them copied. -/
def gthS (done : Nat) (bound : Nat) : State :=
  let g : GthCmd := { team := 0, crew := 0, base := 2 ^ 34 + 0x1000, idx := 2 ^ 34 + 0x2000, dst := 2 ^ 34 + 0x3000, count := 2, lsz := 2, bound := bound,
                      signed := true, done := done, sd := some 9 }
  let f : InFlight := { id := 0, kind := .gth, regs := [.s 9], writes := [] }
  (base.updCore 0 (fun c => { c with gth := [g] })).updTeam 0 (fun t => { t with opc := [(1, [(0, false)])], flight := [f] })
theorem witness_Gathers : [0, 1].all (fun bound => [1, 2].all (fun n => let s := gthS n bound
    (s.crew 0).resident && ctxRuns s 0 && (s.core 0).gth.all (fun g => g.wait.isNone && g.count == 2 && g.done == n) && (s.team 0).ops 1 == [(0, false)] &&
    (n == 2 || (match engRead s.draw.2 (engAgent s 0 2) 0 (2 ^ 34 + 0x2004) 4 with
      | (s1, .ok (ib, false)) => ofLE ib == 0 && (s1.core 0).gth.length == 1 && (bound == 0 || moves s1 (engAgent s 0 2) 0 (2 ^ 34 + 0x1000) (2 ^ 34 + 0x3004) 4)
      | _ => false)))) = true := by decide +kernel
/-- F3 running into Q3, or into a slot of the ring. -/
def feedS (ring : Bool) : State :=
  let x : Stream := { loaded := true, base := 2 ^ 34 + 0x1000, stride := 4, length := 16, esz := 4, running := true, ring := ring, q := 3 }
  (ring0 0 0 0 0 base).updTeam 0 (fun t => t.setStream 3 (if ring then { x with slot := some 0, slotFill := 60, pos := 15 } else x))
theorem witness_Feeds : [false, true].all (fun g => (feedS g).crew 0 |>.resident) = true ∧ ((feedS false).me.q 3).entries.length < 8 ∧ partyGone (feedS false) 0 = false ∧
    (feedEntry (feedS false) 0 3 0 []).2.2 = false ∧ (ringAt ((feedS true).crew 0) 0).lsize = 6 ∧ ((feedS true).me.stream 3).slot = some 0 ∧
    (match streamElem (feedS true) 0 false 3 15 with
      | (_, .ok _ bad) => !bad
      | _ => false) = true := by decide +kernel
theorem witness_RingSlotFilled : [0, 3].all (fun i => let s := crew0 (fun c => { c with ringClaims := [(0, i, 1)] }) (ring0 0 0 0 0 base)
    (s.crew 0).ringClaims == [(0, i, 1)] && !ringHeld s 0 (0, i, 1) && (ringAt (s.crew 0) 0).nslots == 4) = true := by decide +kernel
theorem witness_GovWindow : [0, 5].all (fun u => let s := base.updCore 7 (fun c => { c with govUsed := u, cycle := 63 })
    s.freezing == 0 && !s.tripped && decide ((s.core 7).cycle / 64 ≤ (s.core 7).govWindow) && coreIdle s 7) = true := by decide +kernel

/-! ### Premises: system -/

theorem witness_SystemRegisters : ready base = true ∧ (base.crew 0).drafting = false ∧ (base.crewRec 0).quire = 0xFFFF ∧ bindOk base base.me 7 (2 + 16 * 3) = true ∧ bindOk base base.me 7 (2 ^ 63) = false ∧
    sysListed 0x0D = false ∧ (0x60 : BitVec 16).toNat = 0x60 ∧ (0xFFFF : BitVec 16).toNat ≥ 0x100 := by decide +kernel
/-- The team with a handler, or within it. -/
def handled (within : Bool) (code : Nat) : State := team0 (fun t => { t with handler := w64 (2 ^ 34 + 4), inHandler := within, trapCode := w64 code, trapNext := some 8 })
theorem witness_Traps : ready (handled false 0) = true ∧ (handled false 0).me.handler ≠ 0 ∧ (handled false 0).me.handler.toNat % 32 ≠ 0 ∧
    ready (handled true 0x04) = true ∧ (handled true 0).me.inHandler = true ∧ (base.crew base.me.crew).status = .resident ∧ base.me.handler = 0 ∧
    resumesAtFault 0x04 = true ∧ resumesAtFault 0x17 = false ∧ (handled true 0x17).me.trapNext = some 8 := by decide +kernel
theorem witness_TeamsEnd : ∃ s, s = ((handled false 0).updTeam 0 (fun t => { t with engTraps := [{ code := 0x0D }] })).updCtx 0 (fun c => { c with wdog := 20 }) ∧
    s.me.status = .run ∧ s.me.replayed = false ∧ s.me.passes = [] ∧ (s.crew 0).resident = true ∧ ctxRuns s 0 = true ∧ s.me.inHandler = false ∧ (s.ctx 0).wdog.toNat = 20 :=
  ⟨_, rfl, by decide +kernel⟩
theorem witness_Watchdog : ∃ s, s = ((handled false 0).updTeam 0 (fun t => { t with status := .barCrew 3 })).updCtx 0 (fun c => { c with wdog := 20 }) ∧
    s.me.status.watched = true ∧ s.me.status ≠ .wait 1 ∧ s.me.enqTask = none ∧ (s.ctx 0).wdog.toNat ≠ 0 := ⟨_, rfl, by decide +kernel⟩
theorem witness_End : ready base = true ∧ (∀ c < 5, base.me.opCount c = 0) ∧ base.me.enqWait = 0 ∧ (∀ f < 16, (base.me.stream f).running = false) ∧
    (∀ j ∈ (base.crew 0).teams, j = base.cur ∨ partyGone base j = true) ∧ ready (team0 (fun t => { t with enqWait := 1 })) = true ∧
    (∃ s, s = (crew0 (fun c => { c with teams := [0, 1] }) base).setTeam 1 { base.me with id := 1 } ∧ ready s = true ∧ ∃ j ∈ (s.crew 0).teams, j ≠ s.cur ∧ partyGone s j = false) :=
  ⟨by decide +kernel, by decide +kernel, by decide +kernel, by decide +kernel, by decide +kernel, by decide +kernel, _, rfl, by decide +kernel⟩

/-! ### Premises: launches and tasks -/

theorem witness_LaunchRecords : (counterOk base 0 (2 ^ 34 + 0x800)).2 = true ∧ (counterOk base 0 0).2 = true ∧
    (recordStatus base 0 { entry := 2 ^ 34, regs := 8, rsv := 1 }).2.1 = 1 ∧ (recordStatus base 0 { entry := 2 ^ 34, regs := 0 }).2.1 = 2 ∧
    (recordStatus base 0 { entry := 2 ^ 34, regs := 8, prio := 3, scratch := 1048576 }).2.1 = 0 := by decide +kernel
/-- A second launch. -/
def launch5 (l : Launch) : State := base.setLaunch 5 { l with live := true }
theorem witness_CrewPlace : let s := launch5 { lrec := { entry := 2 ^ 34, regs := 8, gx := 3, scratch := 4096 }, nextIx := 2 }
    (s.launch 5).nextCrew = some 2 ∧ ctxRuns s 0 = true ∧ inTurn s (.crew 5 2) = true ∧ (s.launch 5).lrec.folio = false ∧
    mayPlace s (s.launch 5).lrec 0 3 = true ∧ mayPlace s (s.launch 5).lrec 511 0 = true := by decide +kernel
theorem witness_FolioCrewPlace : let s := launch5 { lrec := { entry := 2 ^ 34, regs := 8, gx := 16, flags := 4 }, groupsPlaced := [0, 1], requeued := [(3, [])] }
    (s.launch 5).nextCrew = some 3 ∧ inTurn s (.crew 5 3) = true ∧ (s.launch 5).lrec.folio = true ∧
    folioCrewFits s 5 3 (((s.launch 5).lrec.groupOf 3).2 + 8) 1 = true := by decide +kernel
theorem witness_FolioGroupPlace : let s := launch5 { lrec := { entry := 2 ^ 34, regs := 8, gx := 16, flags := 4 }, groupsPlaced := [0] }
    (s.launch 5).lrec.folio = true ∧ (s.launch 5).stopped = false ∧ (s.launch 5).nextGroup = some 1 ∧ inTurn s (.group 5 1) = true ∧ groupFits s 5 63 = true ∧
    ∀ k < 8, fitsAt s (s.launch 5).lrec (8 * 63 + k) (([0, 1, 2, 3] : List Nat).getD k 0 % 4) = true := by decide +kernel
theorem witness_LaunchComplete : [0, 2 ^ 34 + 0x800].all (fun c => let s := launch5 { origin := .queue 7, liveCrews := 0, lrec := { counter := c } }
    decide ((s.launch 5).status = 0 ∧ (s.launch 5).lrec.flush = false ∧ (s.launch 5).lrec.quire = 0xFFFF ∧ kindOfVa s 0 c ≠ some 2) && Memory.wf s &&
    (launchCrews s 5).all (fun e => (e.2.killed.isSome || enqsAcked s e.1) && e.2.teams.all (fun j => (s.team j).enqTask.isNone))) = true := by decide +kernel
/-- A folio launch that fits nowhere. -/
def gangS (r : Option Nat) : State := launch5 { lrec := { entry := 2 ^ 34, regs := 8, gx := 8, flags := 4, scratch := 2 ^ 21 }, reservation := r }
theorem witness_Gang : gangWaits (gangS none) 5 = true ∧ gangWaits (gangS (some 2)) 5 = true ∧ (reserved (gangS none)).length < 16 ∧ (drainChoice (gangS none)).isSome = true ∧
    ((gangS (some 2)).launch 5).reservation = some 2 ∧ ((gangS none).launch 5).gangDue = false ∧ (∀ e ∈ (gangS none).launches, e.2.gangDue = false) ∧
    (∃ s, s = (span 10 16).foldl (fun s i => s.setLaunch i { live := true, reservation := some i }) (gangS none) ∧ gangWaits s 5 = true ∧ 16 ≤ (reserved s).length ∧
      (s.launch 5).reservation = none ∧ (s.launch 5).gangDue = false) := by
  refine ⟨by decide +kernel, by decide +kernel, by decide +kernel, by decide +kernel, by decide +kernel, by decide +kernel, by decide +kernel, _, rfl, ?_⟩
  decide +kernel
/-- S4 and S5 given, and a depth. -/
def forkS (va n depth : Nat) (st : TStatus) : State :=
  (base.updTeam 0 (fun t => { t with s := [(4, w64 va), (5, w64 n)], status := st })).updLaunch 0 (fun l => { l with depth := depth })
theorem witness_Fork : [(64, 1, 0), (64, 64, 7), (64, 0, 0), (64, 65, 0), (64, 1, 8), (65, 1, 0)].all (fun e => ready (forkS e.1 e.2.1 e.2.2 .run) &&
      sVal (forkS e.1 e.2.1 e.2.2 .run).me (.s 4) == w64 e.1 && ((forkS e.1 e.2.1 e.2.2 .run).launch 0).depth == e.2.2) = true ∧
    ready (forkS 64 1 0 (.wait 5)) = true ∧ ((forkS 64 1 0 (.wait 5)).crewRec 0).folio = false ∧
    (∀ e ∈ (forkS 64 1 0 (.wait 5)).crews, e.2.launch < (forkS 64 1 0 (.wait 5)).nextLaunch) ∧
    groupPerformed (forkS 64 1 0 (.wait 5)) 0 = true ∧ ((forkS 64 1 0 (.wait 5)).crew 0).teams = [0] ∧ ((forkS 64 1 0 (.wait 5)).crew 0).mmq = [] ∧ ((forkS 64 1 0 (.wait 5)).crew 0).drafting = false ∧
    ((forkS 64 1 0 (.wait 5)).crew 0).resident = true := by decide +kernel
theorem witness_ForkResume : let s := crew0 (fun c => { c with status := .forking }) base
    (s.crew 0).status = .forking ∧ ctxRuns s 0 = true ∧ (s.crew 0).childrenLeft = 0 ∧ mayPlace s (s.crewRec 0) 9 3 = true ∧ inTurn s (.back 0) = true := by decide +kernel

/-- A task record at 0x400 of the page, with dependency counters. -/
def taskRec (own : Nat) : List Byte := leBytes 8 (2 ^ 34) ++ leBytes 8 0 ++ leBytes 1 5 ++ leBytes 1 1 ++ leBytes 1 8 ++ leBytes 1 0 ++ leBytes 4 4096 ++ leBytes 4 own ++
  leBytes 4 0 ++ leBytes 16 0 ++ leBytes 4 255 ++ leBytes 4 0 ++ leBytes 4 7 ++ leBytes 4 0
def aTask (depth : Nat) : Task := { entry := 2 ^ 34, regs := 8, job := 3, depth := depth, taskId := 7 }
def taskS (own : Nat) (full : Bool) : State :=
  let r := if full then [(3, List.replicate 1016 { task := aTask 0 } ++ [{ task := aTask 1, slot := 1 }])] else []
  (poke [(0x400, taskRec own)] (withS [(4, w64 (2 ^ 34 + 0x400)), (5, 3)])).updCtx 0 (fun c => { c with ctrCount := 1, jobBase := w64 (2 ^ 34 + 0x800), ready := r })
theorem witness_Enq : [(0xFFFFFFFF, false), (255, false), (0xFFFFFFFF, true)].all (fun e => ready (taskS e.1 e.2) &&
    reads (taskS e.1 e.2) 0xE6 (2 ^ 34 + 0x400) 64 (fun s1 r => taskShapeOk r && field r 48 4 == 255 &&
      (let k := { taskOf (2 ^ 34 + 0x400) 3 r with depth := 1 }
       k.own == e.1 && (k.own == 0xFFFFFFFF || (ctrPhys (s1.ctx 0) k.own).isSome) && !gateTaken s1 0 k && (enqInsert (jobAdd s1 0 k.job 1) 0 k).isNone == e.2))) = true := by
  decide +kernel
/-- A counter that holds 5, and a task parked on it. -/
def depS (id w : Nat) (k : Option Task) : State := { (withS [(4, w64 id), (5, w64 w)]).updCtx 0 (fun c => { c with ctrCount := 1, parked := match k with
  | some t => [(id, some t)]
  | none => [] }) with deps := [(id, 5)] }
theorem witness_Dep : [(0, 5, none), (255, 6, some (aTask 1)), (0, 5, some (aTask 1)), (0, 0, some (aTask 1)), (255, 65536, none)].all (fun e => ready (depS e.1 e.2.1 e.2.2) &&
    ctrPhys ((depS e.1 e.2.1 e.2.2).ctx 0) e.1 == some e.1 && depValue (depS e.1 e.2.1 e.2.2) 0 e.1 == 5 && cget none ((depS e.1 e.2.1 e.2.2).ctx 0).parked e.1 == e.2.2) = true ∧
    ctrPhys ((depS 256 1 none).ctx 0) 256 = none := by decide +kernel
/-- An ENQ that has waited, and whose task finds room, or is in. -/
theorem witness_EnqRetry : [none, some (aTask 1)].all (fun k => let s := (taskS 0xFFFFFFFF false).updTeam 0 (fun t => { t with status := .wait 1, enqTask := k })
    ready s && s.me.status == .wait 1 && s.me.enqTask == k && (match k with
      | some k => (enqReady s.settled 0 k).isSome
      | none => true)) = true := by decide +kernel
/-- A ready task in queue 2, and a held one. -/
def readyS : State := base.updCtx 0 (fun c => { c with started := true, ready := [(2, [{ task := aTask 1 }])], held := [{ task := { aTask 2 with queue := 1 } }] })
theorem fits_everywhere : (List.range 512).all (fun c => (List.range 4).all (fun p => mayPlace readyS.draw.2 (taskLaunchRec (aTask 1)) c p)) = true := by decide +kernel
theorem witness_TaskDispatch : readyFirst readyS 0 2 = some { task := aTask 1 } ∧ ctxRuns readyS 0 = true ∧ (readyS.ctx 0).started = true ∧ inTurn readyS (.task 0 2 0 (taskLaunchRec (aTask 1))) = true ∧ jobCancelled readyS 0 (aTask 1) = false ∧
    { taskLaunchRec (aTask 1) with handler := bitsN (readyS.ctx 0).taskHandler.toNat 2 50 * 4 } = taskLaunchRec (aTask 1) ∧
    ∃ core p, pickCore readyS.draw.2 (taskLaunchRec (aTask 1)) (Config.choice readyS.draw.1) = some (core, p) := by
  refine ⟨by decide +kernel, by decide +kernel, by decide +kernel, by decide +kernel, by decide +kernel, by decide +kernel, ?_⟩
  have h : ∀ c < 512, ∀ p < 4, mayPlace readyS.draw.2 (taskLaunchRec (aTask 1)) c p = true := by
    intro c hc p hp
    exact List.all_eq_true.1 (List.all_eq_true.1 fits_everywhere c (List.mem_range.2 hc)) p (List.mem_range.2 hp)
  generalize Config.choice readyS.draw.1 = n
  refine ⟨n % 512, n / 512 % 4, ?_⟩
  have hm := h (n % 512) (by omega) (n / 512 % 4) (by omega)
  have hf : fitsAt readyS.draw.2 (taskLaunchRec (aTask 1)) (n % 512) (n / 512 % 4) = true := by
    simp only [mayPlace, Bool.and_eq_true] at hm
    exact hm.1.2
  rw [pickCore, show List.range 512 = 0 :: (List.range 512).tail by decide +kernel, List.map_cons, List.findSome?_cons]
  simp [fitFrom, show List.range 4 = [0, 1, 2, 3] from rfl, hf, hm]
theorem witness_HeldTask : heldNext readyS 0 1 = some ({ task := { aTask 2 with queue := 1 } }, 0) ∧
    heldNext (readyS.updCtx 0 (fun c => { c with ready := [(1, List.replicate 1016 { task := aTask 0 })], held := [{ task := { aTask 2 with queue := 1 }, enq := true }] })) 0 1 =
      some ({ task := { aTask 2 with queue := 1 }, enq := true }, 2) ∧
    (readyS.ctx 0).cancelled.contains 3 = false := by decide +kernel
/-- The crew was a task. -/
def taskDone (killed : Option Nat) : State :=
  (crew0 (fun c => { c with status := .ended, killed := killed }) base).updLaunch 0 (fun l => { l with origin := .task { aTask 1 with succ := [4] } })
theorem witness_TaskComplete : [none, some 0x17].all (fun k => taskEnded (taskDone k) 0 == some { aTask 1 with succ := [4] } && ((taskDone k).crew 0).killed == k &&
    enqsAcked (taskDone k) 0 && (recordDec (taskDone k) 0 (some 3) 4 1).crew 0 == (taskDone k).crew 0) = true ∧
    (taskKilled (taskDone (some 0x17)) 0 { aTask 1 with succ := [4] }).crew 0 = {} := by decide +kernel
theorem witness_RemoteEnq : gateTaken base 0 (taskOf 0 3 (taskRec 9)) = false ∧ ctrPhys (base.ctx 0) 9 = none ∧ (taskOf 0 3 (taskRec 0xFFFFFFFF)).own = 0xFFFFFFFF ∧
    (enqInsert (jobAdd base 0 255 1) 0 (taskOf 0 3 (taskRec 0xFFFFFFFF))).isSome = true ∧ fabricUp base = true ∧
    (takeOwn base 5 (.enq base.chipId 0 9 3 1 (taskRec 9))).isSome = true ∧
    (takeOwn { base with fabric := [.enq base.chipId 0 9 3 1 (taskRec 9)] } base.chipId (.enq base.chipId 0 9 3 1 (taskRec 9))).isSome = true := by decide +kernel
/-- A command of class 3 awaits its answers. -/
def fabS (kind : Nat) (fl : List InFlight) : State :=
  let f : FabCmd := { token := 9, team := 0, id := 4, left := [(5, 1, 2 ^ 34)], kind := kind }
  (base.updCtx 0 (fun c => { c with fab := [f] })).updTeam 0 (fun t => { t with flight := fl, opc := [(3, [(4, false)])] })
theorem witness_EnqAck : fabFind (fabS 4 [{ id := 0, kind := .enq 9, regs := [.s 7], writes := [] }]) 0 9 = some { token := 9, team := 0, id := 4, left := [(5, 1, 2 ^ 34)], kind := 4 } ∧
    ((fabS 4 [{ id := 0, kind := .enq 9, regs := [.s 7], writes := [] }]).team 0).status ≠ .free ∧ (fabS 4 [{ id := 0, kind := .enq 9, regs := [.s 7], writes := [] }]).me.flight = [{ id := 0, kind := .enq 9, regs := [.s 7], writes := [] }] := by
  decide +kernel
theorem witness_EnqSwap : let s := (base.updTeam 0 (fun t => { t with status := .wait 1, enqTask := some (aTask 1) })).setLaunch 5 { live := true, lrec := { regs := 8 } }
    (s.crewRec 0).folio = false ∧ (s.crew 0).resident = true ∧ (s.crew 0).drafting = false ∧ (∃ j ∈ (s.crew 0).teams, enqBlocked (s.team j) = true) ∧
    someoneFits (swapOut s 0 .enqSwapped) (s.crew 0).core 0 = true := by decide +kernel
theorem witness_EnqSwappedResume : let s := crew0 (fun c => { c with status := .enqSwapped }) base
    (∀ j ∈ (s.crew 0).teams, (s.team j).enqTask = none) ∧ mayPlace s (s.crewRec 0) 8 2 = true ∧ inTurn s (.back 0) = true := by decide +kernel

/-! ### Premises: the fabric -/

/-- A quire of one role, bound to chip 5, which port 3 reaches; S4 an address. -/
def quireS (ctl : Nat) : State := { poke [(0x200, leBytes 8 (2 ^ 34 + 0x300) ++ leBytes 8 1), (0x300, leBytes 8 5), (0x400, leBytes 8 (2 ^ 34 + 0x1000) ++ leBytes 8 64 ++ leBytes 4 0 ++
    leBytes 4 16 ++ leBytes 1 2 ++ leBytes 1 0xFF ++ leBytes 6 0)]
  ((team0 (fun t => { t with s := [(4, w64 ctl), (5, 7)], mr := w64 (32 * 5) })).updLaunch 0 (fun l => { l with lrec := { l.lrec with quire := 0 } })
    |>.updCtx 0 (fun c => { c with qdirCount := 1, qdirBase := w64 (2 ^ 34 + 0x200) })) with ports := [(3, { up := true })] }
theorem witness_RemoteAccessesAreSent : let s := quireS (2 ^ 34 + 0x1000)
    ready s = true ∧ mrTyValid s.me.mr = true ∧ mrType s.me.mr = 5 ∧ mr64 s.me.mr = false ∧ tyAtomAdd 5 = true ∧ inRange s.me [(.v 0, 1), (.s 4, 2), (.v 126, 2)] = true ∧
    inRange s.me [(.vx 3, 1), (.s 4, 2), (.v 126, 2)] = true ∧ inRange s.me [(.zr, 1), (.s 4, 2), (.v 126, 2)] = true ∧
    inRange s.me [(.lid, 1), (.s 4, 2), (.v 126, 2)] = true ∧ (parts s.me).length = 32 ∧ (s.crewRec 0).quire ≠ 0xFFFF ∧ (s.crew 0).drafting = false ∧ opVal s.me 2 (.v 126) 31 = 0 ∧
    [0xED, 0xEE, 0xEF, 0xF0].all (fun _ => okAnd (lanePeers s.settled 0 ((parts s.me).map (fun l => ({ lane := l, va := 2 ^ 34 + 0x1000, data := 0, poison := false }, 0))))
      (fun x => x.2.all (fun y => y.2 == some 5) && x.1.reach 5)) = true := by decide +kernel
/-- A message, from another chip and from this one itself. -/
def comes (s : State) (m : FabMsg) : Bool := (takeOwn s 5 m).isSome && (takeOwn { s with fabric := [m] } s.chipId m).isSome
theorem witness_RemoteAccessesArrive : fabricUp base = true ∧ (base.ctx 0).remoteHeld = [] ∧ base.fabric = [] ∧ (let x : RemoteLane := { lane := 0, va := 2 ^ 34 + 0x1000, data := 7, poison := false }
    [FabMsg.putr 0 0 9 4 [x] (some 255), .getr 0 0 9 4 [x], .rred 0 0 9 5 true [x] none, .send 0 0 9 (2 ^ 34 + 0x1000) [1, 2, 3] [] (some 0)].all (comes base)) = true ∧ tyAtomAdd 5 = true ∧ [Acc.fabW, .fabR, .fabA].all (fun a => okAnd (placeVa base.tick.2 (fabricAgent 0) a (2 ^ 34 + 0x1000)).2 (fun p =>
    p == .phys (2 ^ 34 + 0x1000) && !(readPlace base p 4).2)) = true ∧ (match writeVa base (fabricAgent 0) .fabW (2 ^ 34 + 0x1000) [1, 2, 3] with
      | (_, .ok ()) => true
      | _ => false) = true := by decide +kernel
theorem witness_RemoteWriteAck : comes (fabS 0 []) (.writeAck 0 0 9 1) = true ∧
    comes (fabS 1 []) (.getrReply 0 0 9 [{ lane := 7, va := 2 ^ 34, data := 1, poison := false }]) = true ∧ fabFind (fabS 0 []) 0 9 = some { token := 9, team := 0, id := 4, left := [(5, 1, 2 ^ 34)], kind := 0 } ∧ fabricUp (fabS 0 []) = true ∧ ((fabS 0 []).team 0).flight = [] ∧
    ((fabS 0 []).team 0).ops 3 = [(4, false)] ∧ fabFind (fabS 1 [{ id := 0, kind := .getr 9, regs := [.v 2], writes := [(.v 2, 7, 0)] }]) 0 9 = some { token := 9, team := 0, id := 4, left := [(5, 1, 2 ^ 34)], kind := 1 } := by decide +kernel
theorem witness_Xsend : ready (quireS (2 ^ 34 + 0x400)) = true ∧ reads (quireS (2 ^ 34 + 0x400)) 0xF1 (2 ^ 34 + 0x400) 32 (fun s1 r =>
    okAnd (issueBinding s1 0 (field r 16 4)) (fun x => x.2.2 == some { chip := 5, crew := 0, dir := 0 } && decide ((x.1.ctx 0).armed.length < 256))) = true := by decide +kernel
theorem witness_TriggeredSendFire : let x : ArmedSend := { team := 0, src := 2 ^ 34 + 0x1000, dstva := 64, chip := 5, bytes := 16, ctr := 2, dstCtr := 0xFF, threshold := 3, met := true }
    let s := (quireS 0).updCtx 0 (fun c => { c with armed := [{ x with threshold := 9, met := false }, x], counters := [(2, 1)] })
    (s.ctx 0).armed[1]? = some x ∧ x.met = true ∧ x.wait = none ∧ (9 : W64).toNat ≤ ((s.ctx 0).counter x.ctr + 8) % 2 ^ 64 ∧ ctxRuns s 0 = true ∧ s.reach 5 = true ∧
    (∀ y ∈ (s.ctx 0).armed.take 1, y.ctr ≠ x.ctr ∨ y.met = false) ∧ (s.ctx 0).armed.any (fun y => !y.met) = true ∧
    ((s.updCtx 0 (fun c => { c with armed := [x, x] })).ctx 0).armed[1]? = some x ∧ ((s.updCtx 0 (fun c => { c with armed := [x, x] })).ctx 0).armed.take 1 = [x] ∧ (s.team 0).status ≠ .free ∧
    okAnd (readVa s (engAgent s 0 6) .engR x.src 16).2 (fun _ => true) = true := by decide +kernel

/-! ### Premises: the time loop and collectives -/

/-- Euler's tableau: one stage, q = q̂ = 1, b₁ = 1; as an FSAL one it fails. -/
def euler (fsal : Nat) : List Byte := ([0, 1, 1, 1, 0] : List Nat).flatMap (leBytes 1) ++ leBytes 1 fsal ++ leBytes 2 0 ++ leBytes 8 0 ++ leBytes 8 0 ++ leBytes 8 one64 ++ leBytes 8 one64
theorem witness_Tableau : [(0, true), (1, false)].all (fun e => ready (recAt (euler e.1)) && reads (recAt (euler e.1)) 0xE9 (2 ^ 34 + 0x400) 8 (fun s2 h =>
    decide (field h 0 1 ≤ 2 ∧ 1 ≤ field h 1 1 ∧ field h 1 1 ≤ 16 ∧ field h 4 1 ≤ 8) && okAnd (issueRead s2 0 (2 ^ 34 + 0x400) (tabLen (field h 0 1) (field h 1 1) (field h 4 1)))
      (fun x => (tabCheck x.2).isNone == e.2))) = true := by decide +kernel
/-- An integration record at 0x400: its completion block at 0x800 of the page. -/
def irec : List Byte := List.replicate 24 0 ++ leBytes 8 0x3FF0000000000000 ++ List.replicate 88 0 ++ leBytes 8 (2 ^ 34 + 0x800) ++ List.replicate 64 0
/-- Handles 0 to n − 1 of context 0 in use. -/
def runsS (n : Nat) : State := { recAt irec with runs := (List.range n).map (fun h => (h, { active := true, used := true })) }
theorem witness_DxRun : [0, 63, 64].all (fun n => okAnd (engRead ((runsS n).settled) (hubAgent 0 5) 0 (2 ^ 34 + 0x400) 192).2 (fun x => !x.2 && doneRecOk (runsS n) 0 x.1) &&
    (List.range 64).all (fun h => ((engRead ((runsS n).settled) (hubAgent 0 5) 0 (2 ^ 34 + 0x400) 192).1.run h).active == decide (h < n))) = true := by decide +kernel
theorem witness_DxQry : reads (recAt irec) 0xEB (2 ^ 34 + 0x400) 32 (fun s1 r => queryStatus s1 0 3 (field r 0 8) == 4 &&
    (let o := s1.tick.2.updTeam 0 (fun t => { t with opc := cset [] t.opc 4 (t.ops 4 ++ [(s1.order, false)]) })
     match writeVa o (engAgent o 0 5) .engW (2 ^ 34 + 0x400 + 16) (leBytes 4 4) with
      | (_, .ok ()) => true
      | _ => false)) = true := by decide +kernel
/-- Handle 63 of context 0. -/
def run63 (r : DxRun) : State := { base with runs := [(63, { r with active := true, ctx := 0, handle := 63 })] }
theorem witness_DxStages : le64 (({ irec := List.replicate 192 0 } : DxRun).f 32 8) one64 = true ∧ lt64 0 (({ irec := List.replicate 48 0 ++ leBytes 8 one64 ++ List.replicate 136 0 } : DxRun).f 48 8) = true ∧
    (let s := run63 { todo := .form, pt := .next, took := true, t := one64 }
     (s.run 63).active = true ∧ ctxRuns s 0 = true ∧ dxTurn s 0 = some 63) ∧
    (let s := run63 { todo := .crews, evalLaunch := some 9 }
     (s.launch 9).liveCrews = 0 ∧ launchAcked s 9 = true ∧ launchAcked (s.setLaunch 9 { status := 4, info := 0x0C }) 9 = true ∧ dxTurn s 0 = some 63 ∧ (s.setLaunch 9 { status := 4, info := 0x0C }).launch 9 = { status := 4, info := 0x0C } ∧
     dxTurn (s.setLaunch 9 { status := 4, info := 0x0C }) 0 = some 63) := by decide +kernel
theorem witness_DxComplete : ∃ r s, r = { active := true, todo := .finish, irec := irec.take 184 ++ leBytes 4 0xFFFFFFFF ++ List.replicate 4 0 } ∧ s = { base with runs := [(63, r)] } ∧
    s.run 63 = r ∧ ctxRuns s 0 = true ∧ r.evalLaunch = none ∧ r.f 184 4 = 0xFFFFFFFF ∧ r.f 120 8 = 2 ^ 34 + 0x800 := ⟨_, _, rfl, rfl, by decide +kernel⟩
theorem witness_DxMembers : ∃ r : DxRun, r.todo = .begin ∧ (1 : Nat) < r.chips.length ∧ r.peers.any (·.1 == 1) = false ∧ (∀ p ∈ r.peers, p.2.2 = dxDigest r) ∧
    r.role < r.chips.length ∧ 1 ≠ r.role ∧ r.todo ≠ .form ∧ r.syncVals.any (·.1 == r.role) = false :=
  ⟨{ todo := .begin, chips := [0, 5], peers := [(0, 8, dxDigest {})] }, by decide +kernel⟩
theorem witness_DxEarlyStart : ∃ s, s = run63 { todo := .form } ∧ (s.run 63).active = true ∧ (s.run 63).todo ≠ .begin ∧ fabricUp s = true ∧
    (s.ctx 15).dxStarts.any (fun e => e.1 == 63 && e.2.1 == 1) = false ∧ (s.run (15 * 64 + 63)).active = false ∧ (s.ctx 0).peersPaused.contains (0, 1) = false ∧
    ((s.updCtx 0 (fun c => { c with peersPaused := [(0, 1)] })).ctx 0).peersPaused.contains (0, 1) = true := ⟨_, rfl, by decide +kernel⟩
theorem witness_DxSilent : ∃ r : DxRun, r.todo = .sync ∧ (1 : Nat) < r.chips.length ∧ r.syncVals.any (·.1 == 1) = false := ⟨{ todo := .sync, chips := [0, 5] }, by decide +kernel⟩

/-- A member with role 0, its handles 0 to n − 1 in use. -/
def collS (n : Nat) : State := { crew0 (fun c => { c with role := 0 }) (recAt (List.replicate 48 0 ++ leBytes 8 (2 ^ 34 + 0x800) ++ List.replicate 24 0 ++ leBytes 8 (2 ^ 34 + 0x800) ++ List.replicate 8 0)) with
  colls := (List.range n).map (fun h => (h, { active := true })) }
theorem witness_CollOpens : [0, 63, 64].all (fun n => ready (collS n) && [(0xF4, 1, 64), (0xF5, 2, 96)].all (fun e =>
    (match engRead (collS n).settled (hubAgent 0 6) 0 (2 ^ 34 + 0x400) e.2.2 with
      | (s1, .ok (r, false)) => (List.range 64).all (fun h => (s1.coll h).active == decide (h < n)) &&
          (let c : Coll := { kind := e.2.1, desc := r }
           (placeVa s1 { hubAgent 0 6 with spec := true } .engW c.done).2.toOption.isSome && c.done % 16 == 0)
      | _ => false))) = true := by decide +kernel
theorem witness_CollNoRole : (base.crew 0).role ≠ 0xFFFFFFFF ∨ ∃ s, s = crew0 (fun c => { c with role := 0xFFFFFFFF }) base ∧ ready s = true ∧ (s.crew 0).role = 0xFFFFFFFF :=
  .inr ⟨_, rfl, by decide +kernel⟩
/-- A REPART descriptor: records of 16 bytes to 0x1000 of the page. -/
def repDesc : List Byte := leBytes 8 0 ++ leBytes 8 (2 ^ 34 + 0x1000) ++ leBytes 8 0 ++ leBytes 2 16 ++ List.replicate 54 0 ++ leBytes 8 (2 ^ 34 + 0x800) ++ List.replicate 8 0
/-- Handle 63 of context 0, of two members of which role 1 is chip 5's. -/
def rep (phase : Nat) : Coll := { active := true, kind := 2, phase := phase, desc := repDesc, chips := [some 0, some 5], owned := List.replicate 32 7 }
theorem witness_Repart : ∃ s, s = { base with colls := [(63, rep 5)] } ∧ s.coll 63 = rep 5 ∧ (rep 5).cav = false ∧ (rep 5).per * (rep 5).esz = 65536 ∧
    (match writeVa s (hubAgent 0 6) .engW ((rep 5).f 8 8) ((rep 5).owned.take 65536) with
      | (_, .ok ()) => true
      | _ => false) = true ∧ (rep 5).owned.length ≤ ((rep 5).owned.take 65536).length := ⟨_, rfl, by decide +kernel⟩
theorem witness_RepartHistogram : ∃ c, c = { rep 3 with anns := [(0, { ok := true, kind := 2, shape := [], contributes := true, cap := 0, count := 0 }),
      (1, { ok := true, kind := 2, shape := [], contributes := true, cap := 0, count := 0 })] } ∧ c.cav = false ∧ c.phase = 3 ∧ c.wait = none ∧ c.gathered = true := ⟨_, rfl, by decide +kernel⟩
theorem witness_CollReceives : ∃ c x, x = ({ ok := true, kind := 2, shape := [], contributes := true, cap := 0, count := 2 } : Announce) ∧ c = { rep 3 with anns := [(1, x)] } ∧
    c.second = false ∧ (1 : Nat) ≠ c.role ∧ 1 < c.chips.length ∧ c.chips.getD 1 none ≠ some base.chipId ∧ c.bytesOf 1 = [] ∧ c.anns.find? (·.1 == 1) = some (1, x) ∧
    (List.replicate 32 (1 : Byte)).length = min (c.per * c.esz) (x.count * c.esz) := ⟨_, _, rfl, rfl, by decide +kernel⟩
theorem witness_CollAnnounce : ∀ k ∈ [1, 2], ∃ c z, z = ({ ok := true, kind := k, shape := [], contributes := true, cap := 0, count := 2 } : Announce) ∧ c = { rep 1 with anns := [(0, z)] } ∧
    c.second = false ∧ c.phase ≠ 7 ∧ c.anns.any (·.1 == 1) = false ∧ z.paused = false ∧ c.chips.getD 1 none ≠ some base.chipId ∧ c.anns.length + 1 = c.chips.length ∧ ((∀ y ∈ c.anns, y.2.ok = true → y.2.kind = 2) ↔ k = 2) := by
  intro k h; refine ⟨_, _, rfl, rfl, ?_⟩; revert k; decide +kernel
theorem witness_CollOpenTimeout : ∃ c, c = { rep 1 with anns := [(0, { ok := true, kind := 2, shape := [], contributes := true, cap := 0, count := 0 })] } ∧ c.phase = 1 ∧ c.second = false ∧
    (1 < c.chips.length ∧ c.anns.any (·.1 == 1) = false ∧ (base.ctx 0).peersPaused.contains (c.quire, 1) = false) ∧
    ∃ s, s = base.updCtx 0 (fun x => { x with peersPaused := [(c.quire, 1)] }) ∧ ctxRuns s 0 = true ∧
      ∀ r < c.chips.length, c.anns.any (·.1 == r) = true ∨ (s.ctx 0).peersPaused.contains (c.quire, r) = true := ⟨_, rfl, by decide +kernel, by decide +kernel, by decide +kernel, _, rfl, by decide +kernel⟩
theorem witness_CollComplete : [0, 3].all (fun st => let c : Coll := { rep 7 with status := st }
    let s : State := { base with colls := [(63, c)] }
    s.coll 63 == c && ctxRuns s 0 && decide (c.phase = 7 ∧ c.undef = false ∧ c.second = false ∧ c.clash = [] ∧ c.ctrFlag = false ∧ c.done = 2 ^ 34 + 0x800)) = true := by decide +kernel
theorem witness_EarlyLanding : ∃ s, s = base.updCtx 0 (fun c => { c with elaQuires := [(63, some 2)] }) ∧ elaArea (s.ctx 0) 2 = some 63 ∧ s.colls = [] ∧
    elaUsed (s.ctx 0) 2 + 262144 ≤ 262144 ∧ fabricUp s = true := ⟨_, rfl, by decide +kernel⟩

/-! ### Premises: the fault ring and Scriptor -/

/-- Two records of an access, the first covered or not. -/
def faultRefs (covered : Bool) : List FaultRef := [⟨1, 64, 1, 0, covered⟩, ⟨2, 128, 0, 3, false⟩]
theorem witness_FaultRing : [false, true].all (fun cov => [1, 2].all (fun q => let s := team0 (fun t => { t with status := .susp (faultRefs cov), handler := w64 (2 ^ 34 + 4) })
    hostFn s 0 && decide ((s.ctx 0).queries = [] ∧ (s.ctx 0).remoteHeld = [] ∧ s.me.status = .susp (faultRefs cov) ∧ s.me.inHandler = false ∧
      (s.crew 0).status ≠ .none ∧ s.me.handler ≠ 0 ∧ s.me.handler.toNat % 32 ≠ 0) && ((faultRefs cov).find? (·.seq == q)).isSome)) = true ∧
    (faultRefs true).all (fun r => decide (r.seq ≤ 2 ∨ r.covered = true)) = true ∧ (faultRefs true).any (fun r => decide (1 < r.seq) && !r.covered) = true ∧
    hostFn base 15 = true ∧ bitsN (6 * 2) 1 5 = 6 ∧ bitsN (16 * 2 + 1) 1 5 = 16 ∧ (2 : W64).getLsbD 1 = true := by decide +kernel
theorem witness_FaultHeld : ∀ e ∈ [(0, 0), (1, 0), (1, 2)], ∃ r s, r = ({ seq := 1, va := 0, crew := 0, team := 0, core := 0, level := 0, kind := 0, flags := 0, cause := 0, source := 0 } : FaultRec) ∧
    s = base.updCtx 0 (fun c => { c with frHeld := [r], frCtl := w64 (e.1 + 6 * 2), frBase := w64 (4 * e.2) }) ∧ (s.ctx 0).frHeld = [r] ∧ s.freezing = 0 ∧ s.tripped = false ∧
    frRoom (s.ctx 0) = decide (e.1 = 1) ∧ keyKind (frKey (s.ctx 0) + 32 * ((s.ctx 0).frHead % frEntries (s.ctx 0))) = e.2 ∧ s.link 0 = true ∧
    (List.range 32).all (fun i => s.present (frKey (s.ctx 0) + 32 * ((s.ctx 0).frHead % frEntries (s.ctx 0)) + i)) = true := by
  intro k h; refine ⟨_, _, rfl, rfl, ?_⟩; revert k; decide +kernel

/-- Queue q of context 0: its descriptor in the table at 0x10000 of the page, its ring of 256 dwords at 0x4000, wptr covering n dwords; the words at its start. -/
def queueS (q n : Nat) (words : List Nat) (k : Queue) : State :=
  let d := leBytes 8 (2 ^ 34 + 0x4000) ++ leBytes 1 8 ++ leBytes 1 3 ++ leBytes 1 0 ++ leBytes 1 1 ++ leBytes 4 0 ++ leBytes 4 0 ++ leBytes 4 n
  { ((poke [(0x10000 + 256 * q, d), (0x4000, words.flatMap (leBytes 4))] base).updCtx 0 (fun c => { c with qtblBase := w64 (2 ^ 34 + 0x10000), qtblCount := 512, started := true })).setQueue q
    { k with live := true } with threads := if k.thread.isSome then [(3, some q)] else [] }
theorem witness_Doorbells : [(0, 256), (511, 1)].all (fun e => let s := queueS e.1 0 [] {}
    hostFn s 0 && s.link 0 && bellOpen (s.ctx 0) 0 && !bellOpen (s.ctx 0) 1 && decide (e.1 < (s.ctx 0).qtblCount.toNat) && (s.queue e.1).live && (s.queue e.1).st == 0 &&
    (match qDesc s 0 e.1 with
      | (_, some d) => bitN d.ctl 0 && d.lsize == 8 && decide ((d.wptr + 2 ^ 32 - d.rptr) % 2 ^ 32 < e.2 ∧ (e.2 + 2 ^ 32 - d.rptr) % 2 ^ 32 ≤ 2 ^ d.lsize)
      | _ => false)) = true ∧ ((queueS 0 0 [] { st := 4 }).queue 0).st = 4 ∧
    (let s := { queueS 0 0 [] {} with queues := [] }
     (s.queue 0).live = false ∧ queueCount s < 4096 ∧ (match qDesc s 0 0 with
      | (_, some d) => bitN d.ctl 0 && d.lsize == 8 && d.status != 4
      | _ => false) = true) := by decide +kernel
theorem witness_QueueMap : let s := queueS 511 4 [] { st := 1 }
    freeThread s = some 0 ∧ (firstWaiter s).map (·.1) = some 511 ∧ (qDesc s 0 511).2.isSome = true := by decide +kernel
theorem witness_QueueUnmap : (let s := queueS 0 0 [] { st := 2, thread := some 3 }
    deviceOn s = true ∧ (s.queue 0).calls = [] ∧ (match qDesc s 0 0 with
      | (_, some d) => d.rptr == d.wptr
      | _ => false) = true) ∧
    [3, 1].all (fun pr => let s := { (queueS 0 4 [] { st := 2, thread := some 3 }).setQueue 7 { live := true, st := 1, prio := pr } with threads := (List.range 32).map (fun t => (t, some (if t = 3 then 0 else 9))) }
      (freeThread s).isNone && (s.queue 0).used.isNone && (firstWaiter s).map (·.1) == some 7 && ((waiters s).any (·.2.prio == (s.queue 0).prio)) == (pr == 3) &&
      (mappedQueues s).map (·.1) == [0] && (qDesc (qUnmap s 0 0 1) 0 7).2.isSome) = true := by decide +kernel
/-- A packet's header dword. -/
def hdr (op len flags : Nat) : Nat := op * 2 ^ 24 + len * 2 ^ 16 + flags
/-- The packet begins, and what it holds meets a test. -/
def begins (s : State) (op : Nat) (inside : Bool) (p : Pkt → Bool) : Bool :=
  match pktBegin s 3 op inside with
  | .ok x => p x
  | .error _ => false
/-- Thread 3's queue, mapped, with dwords at its head. -/
def pktS (words : List Nat) (k : Queue) : State := queueS 0 words.length words { k with st := 2, thread := some 3 }
/-- A packet's dwords: the header and 64-bit fields. -/
def pktW (op flags : Nat) (l : List Nat) : List Nat := hdr op (1 + 2 * l.length) flags :: l.flatMap (fun v => [v % 2 ^ 32, v / 2 ^ 32])
def found (x : State × ScanEnd) (op : Nat) : Bool :=
  match x.2 with
  | .found _ o => o == op
  | _ => false
def condIs (x : State × Except Nat (Bool × Option Nat)) (v : Bool) : Bool := okAnd x.2 (fun y => y.1 == v)
theorem witness_PktSimple : begins (pktS [hdr 0 1 0] {}) 0x00 false (fun _ => true) && begins (pktS [hdr 6 2 0, 5] {}) 0x06 false (fun p => field p.body 0 4 == 5) &&
    begins (pktS [hdr 6 2 0, 0, hdr 7 1 0] {}) 0x06 false (fun p => found (scanFwd p.ctx p.d p.ring 0x06 0x07 none 9 p.s p.next 0) 0x07) &&
    [1, 2].all (fun n => begins (pktS [hdr 7 1 0] { loops := [(n, 0)] }) 0x07 false (fun p => (p.queue p.s).loops == [(n, 0)])) &&
    begins (pktS [hdr 9 1 0, hdr 10 1 0] { conds := [true] }) 0x09 false (fun p => found (scanFwd p.ctx p.d p.ring 0x08 0x0A none 9 p.s p.next 0) 0x0A) &&
    begins (pktS [hdr 10 1 0] { conds := [false] }) 0x0A false (fun _ => true) && begins (pktS (pktW 11 0 [64]) {}) 0x0B false (fun p => p.w 0 == 64) &&
    begins (queueS 0 0 [hdr 12 1 0] { st := 2, thread := some 3, calls := [9], fetch := 2 ^ 34 + 0x4000 }) 0x0C false (fun p => !p.ring) &&
    begins (queueS 0 0 (pktW 13 0 [64]) { st := 2, thread := some 3, calls := [9], fetch := 2 ^ 34 + 0x4000 }) 0x0D false (fun p => !p.ring) &&
    begins (pktS (pktW 13 0 [64]) {}) 0x0D false (·.ring) && [3, 0x14, 255].all (fun op => okAnd (pktHeader (pktS [hdr op 1 0] {}) 3 false) (·.2 == op)) = true := by decide +kernel
theorem witness_PktConditions : [(0, 0x09), (0, 0x0A), (1, 0x0A)].all (fun e => begins (pktS (pktW 8 e.1 [2 ^ 34 + 0x800, 0] ++ [hdr e.2 1 0]) {}) 0x08 false (fun p =>
      condIs (pktCond p p.s) (e.1 == 0) && found (scanFwd p.ctx p.d p.ring 0x08 0x0A (some 0x09) 9 p.s p.next 0) e.2)) &&
    [0, 1].all (fun f => begins (pktS (pktW 4 f [2 ^ 34 + 0x800, 0]) {}) 0x04 false (fun p => condIs (pktCond p p.s) (f == 0))) &&
    begins (pktS (pktW 4 4 [2 ^ 34 + 0x800, 0]) { blocked := true, lineChanged := true }) 0x04 true (fun p => condIs (pktCond p p.s) true) = true := by decide +kernel
theorem witness_PktMemory : [0, 2].all (fun f => begins (pktS (pktW 5 f [2 ^ 34 + 0x800, 7]) {}) 0x05 false (fun p => p.w 0 % 8 == 0 &&
      (match placeVa p.s (hubAgent 0 5) (if bitN p.flags 1 then .fabA else .engW) (p.w 0) with
        | (s1, .ok pl) => !(readPlace (s1.flush 0) pl 8).2
        | _ => false))) && [0, 1].all (fun f => begins (pktS [hdr 0x13 1 f] {}) 0x13 false (fun p => bitN p.flags 0 == (f == 1))) &&
    begins (pktS (pktW 14 0 [2 ^ 34 + 0x800, 2 ^ 34 + 0x900, 8]) {}) 0x0E false (fun p => p.w 2 != 0 &&
      (match placesOf p.s (hubAgent 0 5) .engR (piecesOf (p.w 0) (p.w 2)) with
        | (s1, .ok _) => okAnd (placesOf s1 (hubAgent 0 5) .engW (piecesOf (p.w 1) (p.w 2))).2 (fun _ => true)
        | _ => false)) && [0, 1].all (fun f => begins (pktS (pktW 0x11 f [0, 4096]) {}) 0x11 false (fun _ => true)) && begins (pktS (pktW 0x12 0 [9]) {}) 0x12 false (fun p => p.w 0 == 9) = true := by
  decide +kernel
/-- A launch record, in a packet or in memory at 0x900. -/
def lrecW : List Nat := [2 ^ 34, 0, 1 + 2 ^ 32 + 2 ^ 48, 5 + 256 + 65536 * 8, 0xFFFF, 0, 0, 0]
def accepts (s : State) (r : List Byte) : Bool :=
  match acceptLaunch s 0 (lrecOf r) (.queue 0) 0 with
  | (s1, some id) => (s1.launch id).live
  | _ => false
theorem witness_PktLaunch : begins (pktS (pktW 1 0 lrecW) {}) 0x01 false (fun p => accepts p.s p.body) = true := by decide +kernel
/-- Words of the RISC-V manual's encodings: ADDI a0, a0, 1; LD a1, 8(a0); SD a1, 16(a0); BEQ a0, a1, −8; AMOADD.W a0, a1, (a2); SRAIW a0, a1, 3;
RDCYCLE a0. -/
theorem test_riscv_words : [0x00150513, 0x00853583, 0x00B53823, 0xFEB50CE3, 0x00B6252F, 0x4035D51B, 0xC0002573].map rvDecode =
    [some (.aluImm false 0 10 10 1), some (.load 3 11 10 8), some (.store 3 10 11 16), some (.branch 0 10 11 (w64 (2 ^ 64 - 8))),
     some (.amo false 0 10 12 11), some (.aluImm true 13 10 11 3), some (.csr 2 10 0 0xC00)] := by decide +kernel
/-- C.LI a0, 0; C.JR ra; C.SDSP ra, 8(sp); C.ADDI16SP sp, −64; C.LW a0, 0(a0); C.SUB a0, a1; the illegal halfword 0. -/
theorem test_riscv_halfwords : [0x4501, 0x8082, 0xE406, 0x7139, 0x4108, 0x8D0D, 0].map rvDecodeC =
    [some (.aluImm false 0 10 0 0), some (.jalr 0 1 0), some (.store 3 2 1 8), some (.aluImm false 0 2 2 (w64 (2 ^ 64 - 64))),
     some (.load 2 10 10 0), some (.alu false 8 10 10 11), none] := by decide +kernel

/-- A LAUNCH.IND whose routine at 0xB00 is C.LI a0, v; C.JR ra. -/
def liRet (v : Nat) (k : Queue) : State :=
  poke [(0x900, lrecW.flatMap (leBytes 8)), (0xB00, leBytes 2 (0x4501 + 4 * v) ++ leBytes 2 0x8082)] (pktS (pktW 2 0 [2 ^ 34 + 0xB00, 2 ^ 34 + 0x900]) k)
/-- The packet that begins. -/
def pktOf (s : State) (op : Nat) (inside : Bool) : Pkt :=
  match pktBegin s 3 op inside with
  | .ok p => p
  | .error s => { s := s, ctx := 0, q := 0, d := (qDesc s 0 0).2.getD ⟨0, 0, 0, 0, 0, 0, 0, []⟩, ring := true, pos := 0, len := 0, flags := 0, body := [] }
theorem pktOf_ok {s : State} {op : Nat} {inside : Bool} {f : Pkt → Bool} (h : begins s op inside f = true) :
    pktBegin s 3 op inside = .ok (pktOf s op inside) := by
  unfold begins at h; unfold pktOf
  split at h
  · rename_i e; simp [e]
  · cases h
theorem rvFetch_short (s : State) (th ctx pc h : Nat) (hp : pc < 2 ^ 52) (h2 : pc % 2 = 0) (hc : h % 4 ≠ 3)
    (hr : okOf (readVa s (hubAgent ctx 5) .fetch pc 2).2 = some ((leBytes 2 h), none)) (hl : ofLE (leBytes 2 h) = h) :
    rvFetch s th ctx pc = ((readVa s (hubAgent ctx 5) .fetch pc 2).1, (rvDecodeC h).map (·, 2)) := by
  generalize hx : readVa s (hubAgent ctx 5) .fetch pc 2 = x at hr
  obtain ⟨s1, r⟩ := x
  cases r with
  | error e => cases hr
  | ok bs =>
    have : bs = (leBytes 2 h, none) := by simpa [okOf, Except.toOption] using hr
    subst this
    simp [rvFetch, rvRead, h2, onStack_low _ _ _ hp, hx, hl, hc]
/-- The routine begins. -/
def rvStart (v n : Nat) (inside : Bool) : RvState :=
  let p := pktOf (liRet v { prol := if inside then some n else none }) 0x02 inside
  { s := threadRegs p.s 3 [(10, w64 (p.w 1)), (11, w64 n), (12, w64 p.q), (2, w64 (scriptorBase + stackBase 3 + 4096)), (1, w64 (prologueReturn 3))], pc := p.w 0 }
/-- It is at its second instruction. -/
def rvNext (x : RvState) (v : Nat) : RvState :=
  { x with s := threadRegs (readVa x.s (hubAgent 0 5) .fetch (2 ^ 34 + 0xB00) 2).1 3 [(10, w64 v)], pc := 2 ^ 34 + 0xB02, cycles := 1 }
/-- It has returned. -/
def rvLast (x : RvState) (v : Nat) : RvState :=
  { rvNext x v with s := (readVa (rvNext x v).s (hubAgent 0 5) .fetch (2 ^ 34 + 0xB02) 2).1, pc := prologueReturn 3, cycles := 2 }
/-- What it reads, and what comes of it where it asks for a launch. -/
def rvFits (v n : Nat) (i : Bool) : Bool :=
  begins (liRet v { prol := if i then some n else none }) 0x02 i (fun p => (p.queue p.s).used.isNone && p.ctx == 0 && p.q == 0 && p.w 1 == 2 ^ 34 + 0x900) &&
  (rvStart v n i).pc == 2 ^ 34 + 0xB00 &&
  okOf (readVa (rvStart v n i).s (hubAgent 0 5) .fetch (2 ^ 34 + 0xB00) 2).2 == some (leBytes 2 (0x4501 + 4 * v), none) &&
  okOf (readVa (rvNext (rvStart v n i) v).s (hubAgent 0 5) .fetch (2 ^ 34 + 0xB02) 2).2 == some (leBytes 2 0x8082, none) &&
  rvDecodeC (0x4501 + 4 * v) == some (.aluImm false 0 10 0 (w64 v)) && ofLE (leBytes 2 (0x4501 + 4 * v)) == 0x4501 + 4 * v &&
  (match hubRead (prologueLeaves 3 0 (rvLast (rvStart v n i) v)) 0 (2 ^ 34 + 0x900) 64 with
    | (s4, some r) => accepts s4 r
    | _ => false)
theorem rvReturns (x : RvState) (v : Nat) (hx : x.cycles = 0) (hp : x.pc = 2 ^ 34 + 0xB00) (he : cget 0 x.s.threadReg 97 = w64 (prologueReturn 3))
    (h1 : okOf (readVa x.s (hubAgent 0 5) .fetch (2 ^ 34 + 0xB00) 2).2 = some (leBytes 2 (0x4501 + 4 * v), none))
    (h2 : okOf (readVa (rvNext x v).s (hubAgent 0 5) .fetch (2 ^ 34 + 0xB02) 2).2 = some (leBytes 2 0x8082, none))
    (hd : rvDecodeC (0x4501 + 4 * v) = some (.aluImm false 0 10 0 (w64 v))) (hl : ofLE (leBytes 2 (0x4501 + 4 * v)) = 0x4501 + 4 * v) :
    rvRun 3 0 [0, 0] x = .returned (rvLast x v) := by
  have hlow : (2 ^ 34 + 0xB02 : Nat) ≠ prologueReturn 3 := fun e => by have := (prologueReturn_range 3).1; omega
  have hback := (prologueReturn_range 3).2
  have f1 : rvFetch x.s 3 0 (2 ^ 34 + 0xB00) = ((readVa x.s (hubAgent 0 5) .fetch (2 ^ 34 + 0xB00) 2).1, some (.aluImm false 0 10 0 (w64 v), 2)) := by
    rw [rvFetch_short _ 3 0 _ (0x4501 + 4 * v) (by omega) (by omega) (by omega) h1 hl, hd]; rfl
  have f2 : rvFetch (rvNext x v).s 3 0 (2 ^ 34 + 0xB02) = ((readVa (rvNext x v).s (hubAgent 0 5) .fetch (2 ^ 34 + 0xB02) 2).1, some (.jalr 0 1 0, 2)) := by
    rw [rvFetch_short _ 3 0 _ 0x8082 (by omega) (by omega) (by omega) h2 (by decide), show rvDecodeC 0x8082 = some (.jalr 0 1 0) by decide]; rfl
  have hra : rvGet (readVa (rvNext x v).s (hubAgent 0 5) .fetch (2 ^ 34 + 0xB02) 2).1 3 1 = w64 (prologueReturn 3) := by
    simpa [rvGet, hubReadVa_threadReg, rvNext, threadRegs, cget_cset_ne] using he
  have e1 : rvRun 3 0 [0, 0] x = rvRun 3 0 [0] (rvNext x v) := by
    have hn : (2 ^ 34 + 0xB00 + 2) % 2 ^ 64 ≠ prologueReturn 3 := hlow
    have ha : rvAluOf false 0 (rvGet (readVa x.s (hubAgent 0 5) .fetch (2 ^ 34 + 0xB00) 2).1 3 0) (w64 v) = w64 v := by
      simp [rvAluOf, rvAlu, rvGet]
    rw [rvRun]
    simp only [hx, hp, f1, rvExec, ha, hn]
    rfl
  have e2 : rvRun 3 0 [0] (rvNext x v) = .returned (rvLast x v) := by
    have hc : (rvNext x v).cycles = 1 := rfl
    have hp2 : (rvNext x v).pc = 2 ^ 34 + 0xB02 := rfl
    have hj : (w64 (prologueReturn 3) + 0).toNat / 2 * 2 = prologueReturn 3 := by
      rw [show w64 (prologueReturn 3) + 0 = w64 (prologueReturn 3) from BitVec.add_zero _, w64, BitVec.toNat_ofNat]
      omega
    rw [rvRun]
    simp only [hc, hp2, f2, rvExec, hra, hj]
    rfl
  rw [e1, e2]
theorem witness_Prologue : ∀ e ∈ [(0, 0, false), (1, 0, false), (2, 0, false), (3, 0, false), (0, 3, true), (2, 3, true)], ∃ s p x y,
    s = liRet e.1 { prol := if e.2.2 then some e.2.1 else none } ∧ pktBegin s 3 0x02 e.2.2 = .ok p ∧ Sys2Proof.Claims.Stands p 3 e.2.1 x ∧
    (threadQueue s 3).prol = (if e.2.2 then some e.2.1 else none) ∧ rvRun 3 p.ctx [0, 0] x = .returned y ∧ cget 0 y.s.threadReg (3 * 32 + 10) = w64 e.1 ∧
    rvRun 3 p.ctx [] x = .going x ∧ (∃ z, rvRun 3 p.ctx [65536] x = .stopped z) ∧
    ∃ s4 r, hubRead (prologueLeaves 3 x.before y) p.ctx (p.w 1) 64 = (s4, some r) ∧ accepts s4 r = true := by
  intro ⟨v, n, i⟩ he
  obtain ⟨hf, hq⟩ := (by decide +kernel : ∀ e ∈ [(0, 0, false), (1, 0, false), (2, 0, false), (3, 0, false), (0, 3, true), (2, 3, true)],
    rvFits e.1 e.2.1 e.2.2 = true ∧
      (threadQueue (liRet e.1 { prol := if e.2.2 then some e.2.1 else none }) 3).prol = (if e.2.2 then some e.2.1 else none)) _ he
  simp only [rvFits, Bool.and_eq_true, beq_iff_eq] at hf
  obtain ⟨⟨⟨⟨⟨⟨hb, hp⟩, h1⟩, h2⟩, hd⟩, hl⟩, ha⟩ := hf
  have hk : ((pktOf (liRet v { prol := if i then some n else none }) 0x02 i).queue (pktOf (liRet v { prol := if i then some n else none }) 0x02 i).s).used = none ∧
      (pktOf (liRet v { prol := if i then some n else none }) 0x02 i).ctx = 0 ∧ (pktOf (liRet v { prol := if i then some n else none }) 0x02 i).w 1 = 2 ^ 34 + 0x900 := by
    have ho := pktOf_ok hb
    simp only [begins, ho, Bool.and_eq_true, beq_iff_eq, Option.isNone_iff_eq_none] at hb
    exact ⟨hb.1.1.1, hb.1.1.2, hb.2⟩
  obtain ⟨hu, hc, hw⟩ := hk
  refine ⟨_, _, rvStart v n i, rvLast (rvStart v n i) v, rfl, pktOf_ok hb, .inr ⟨hu, rfl⟩, hq, ?_, ?_, ?_, ?_, ?_⟩
  · simp only [hc]; exact rvReturns (rvStart v n i) v rfl hp (by simp [rvStart, threadRegs, cget_cset_self]) h1 h2 hd hl
  · have : cget 0 (rvNext (rvStart v n i) v).s.threadReg 106 = w64 v := by simp [rvNext, threadRegs, cget_cset_self]
    simpa [rvLast, threadRegs, hubReadVa_threadReg] using this
  · rw [rvRun]
  · have hz : (rvStart v n i).cycles = 0 := rfl
    exact ⟨_, by rw [rvRun, hz, if_pos (by omega)]⟩
  · simp only [hc, hw]
    split at ha
    · next s4 r e => exact ⟨s4, r, e, ha⟩
    · cases ha
theorem witness_PktWork : begins (poke [(0x400, irec)] (pktS (pktW 0x10 0 [2 ^ 34 + 0x400]) {})) 0x10 false (fun p => (match hubRead p.s 0 (p.w 0) 192 with
      | (s1, some bs) => doneRecOk s1 0 bs && freeHandle s1 0 == some 0
      | _ => false)) && begins (poke [(0x400, leBytes 8 (2 ^ 34 + 0x800) ++ leBytes 4 2 ++ leBytes 2 0 ++ leBytes 1 1)] (pktS (pktW 0x0F 0 [2 ^ 34 + 0x400]) {})) 0x0F false (fun p =>
      (match hubRead p.s 0 (p.w 0) 64 with
        | (s1, some h) => field h 14 1 == 1 && (hubRead s1 0 (field h 0 8) (64 * field h 8 4)).2.isSome
        | _ => false)) = true := by decide +kernel
theorem witness_CopyPacket : ∃ s, s = queueS 0 0 [] { work := [.copy (2 ^ 34 + 0x800) (2 ^ 34 + 0x808) 8 0] } ∧ (s.queue 0).work = [.copy (2 ^ 34 + 0x800) (2 ^ 34 + 0x808) 8 0] ∧
    ctxRuns s 0 = true ∧ (copyBytes s.draw.2 0 (2 ^ 34 + 0x800) (2 ^ 34 + 0x808) 8).2 = true ∧ ¬ (2 ^ 34 + 0x800 < 2 ^ 34 + 0x808 + 8 ∧ 2 ^ 34 + 0x808 < 2 ^ 34 + 0x800 + 8) ∧
    (2 ^ 34 + 0x800 < 2 ^ 34 + 0x800 + 8 ∧ (match writeVa s.draw.2 (hubAgent 0 5) .engW (2 ^ 34 + 0x800) ((List.range 8).map (Config.undefByte s.draw.1)) with
      | (s1, .ok ()) => (s1.queue 0).work == (s.queue 0).work
      | _ => false) = true) := ⟨_, rfl, by decide +kernel⟩
/-- A task of a graph: its own counter, its successors and its weight. -/
def graphRec (own : Nat) (succ : List Nat) (weight : Nat) : List Byte := leBytes 8 (2 ^ 34) ++ leBytes 8 0 ++ leBytes 1 5 ++ leBytes 1 1 ++ leBytes 1 8 ++ leBytes 1 0 ++ leBytes 4 0 ++ leBytes 4 own ++
  leBytes 1 succ.length ++ leBytes 1 weight ++ leBytes 2 0 ++ (succ ++ List.replicate (4 - succ.length) 0).flatMap (leBytes 4) ++ leBytes 16 0
theorem witness_GraphRanked : (match sealOf 256 [graphRec 0 [1, 2] 3, graphRec 1 [2] 5, graphRec 2 [] 200] with
    | .ok ranks => ranks == [208, 205, 200]
    | .error _ => false) = true := by decide +kernel
theorem witness_GraphCycle : let rs := [graphRec 0 [1] 3, graphRec 1 [0] 5]
    graphTaskErr 256 rs 0 [] rs = none ∧
    ∀ n : Nat, (fun n => n % 2) n < rs.length ∧ ∃ c ∈ recSucc (rs.getD (n % 2) []), recOwn (rs.getD ((n + 1) % 2) []) = some c := by
  refine ⟨by decide +kernel, fun n => ⟨by simp; omega, ?_⟩⟩
  have h : n % 2 = 0 ∧ (n + 1) % 2 = 1 ∨ n % 2 = 1 ∧ (n + 1) % 2 = 0 := by omega
  rcases h with ⟨h1, h2⟩ | ⟨h1, h2⟩ <;> rw [h1, h2]
  · exact ⟨1, by decide +kernel, by decide +kernel⟩
  · exact ⟨0, by decide +kernel, by decide +kernel⟩

/-! ### Premises: health, the host, management -/

theorem witness_Health : deviceOn base = true ∧ (∀ c < 512, (base.core c).degC < 100) ∧ base.pwrbrk = false ∧ ∃ s, s = { base with pwrbrk := true, elogBase := 0x100000 } ∧
    deviceOn s = true ∧ s.pwrbrk = true ∧ s.elogBase ≠ 0 ∧ (List.range 32).all (fun i => s.present (elogKey s s.elogHead + i)) = true ∧
    (∃ d, d = { s with freezing := 2 } ∧ deviceOn d = false) := ⟨by decide +kernel, by decide +kernel, by decide +kernel, _, rfl, by decide +kernel, by decide +kernel, by decide +kernel, by decide +kernel, _, rfl, by decide +kernel⟩
/-- What an uncorrectable error may meet. -/
theorem witness_Poison : ∃ s, s = { (crew0 (fun c => { c with drafts := [.store 64 64 [1, 2] false 16 0] })
      (team0 (fun t => { t with queues := [(1, { entries := [{ vals := [(0, 1), (31, 2)] }] })] }))) with
      caches := { l1 := [(511, [{ line := 3 }])], margin := [(3, [{ line := 5 }])] } } ∧
    holdsLine s.caches.l1 511 (31 / 8) = true ∧ holdsLine s.caches.margin 3 (40 / 8) = true ∧ (s.crew 0).drafts[0]? = some (.store 64 64 [1, 2] false 16 0) ∧
    ((s.team 0).q 1).entries[0]? = some { vals := [(0, 1), (31, 2)] } ∧ s.elogBase = 0 := ⟨_, rfl, by decide +kernel⟩
/-- n rows under test, the last one on core 511. -/
def rowsS (n spares : Nat) : State := { base with spares := spares, tests := List.replicate (n - 1) ⟨⟨9, 0, 0, 7⟩, 3, 0⟩ ++ if n = 0 then [] else [⟨⟨4, 3, 511, 0xFFFFFF⟩, 3, 0⟩] }
theorem witness_Rows : (rowsS 1 16).tests.any (·.place == ⟨4, 3, 511, 0xFFFFFF⟩) = true ∧ [(15, 1), (15, 0), (16, 5)].all (fun e => (rowsS e.1 e.2).tests.length == e.1 && (rowsS e.1 e.2).spares == e.2 &&
    !(rowsS e.1 e.2).tests.any (·.place == ⟨9, 0, 0, 8⟩)) = true ∧ [0, 5].all (fun k => (rowsS 16 k).spares == k && (rowsS 16 k).tests[15]? == some ⟨⟨4, 3, 511, 0xFFFFFF⟩, 3, 0⟩) = true := by decide +kernel
theorem witness_Ageing : ([8759, 8760, 0, 0, 0] : List Nat).length ≤ 5 ∧ base.lifeStarted = false ∧ ∃ s, s = { base with lifeStarted := true } ∧ s.lifeStarted = true ∧ deviceOn s = true :=
  ⟨by decide, by decide +kernel, _, rfl, by decide +kernel⟩

theorem witness_Bar4 : [(2 ^ 34 + 0x100, 2), (2 ^ 34 + 0xFFF8, 8), (2 ^ 34 + 0x104, 4)].all (fun e => piecesOf e.1 e.2 == [e] && inBar4 base 0 e.1 e.2 && reaches base e.1 e.2 &&
    (List.range e.2).all (fun i => base.present (e.1 + i)) && [Acc.engW, .engR, .fabA].all (fun acc =>
    okAnd (placeVa base (hubAgent 0 5) acc e.1).2 (fun p => p == .phys e.1)) && !poisonedIn base.poison e.1 e.2) = true := by decide +kernel
theorem witness_Bind : (let s := base.updCtx 0 (fun c => { c with bound0 := true, started := true })
     (s.ctx 0).heldBells = [] ∧ (s.ctx 0).started = true ∧ (s.ctx 0).twoLink = false) ∧ (let s := { base with links := [(1, false)] }
    (s.ctx 0).started = false ∧ (s.ctx 0).twoLink = false ∧ (s.ctx 0).bound1 = false ∧ s.link 0 = true ∧ s.link 1 = false ∧ hostFn s 0 = true) ∧
    (let s := base.updCtx 0 (fun c => { c with bound0 := true })
     (s.ctx 0).heldBells = [] ∧ (s.ctx 0).bound0 = true ∧ (s.ctx 0).started = false ∧ s.link 0 = true ∧ s.link 1 = true) := by decide +kernel
/-- A context in a state of pre-emption. -/
def preS (st : Nat) (save : W64) : State := base.updCtx 0 (fun c => { c with pState := st, saveBase := save })
theorem witness_Preempt : (1 : W64).getLsbD 0 = true ∧ (2 : W64).getLsbD 0 = false ∧ (2 : W64).getLsbD 1 = true ∧ ((preS 0 0).ctx 0).pState = 0 ∧ bitsN ((preS 0 0).ctx 0).saveBase.toNat 16 36 = 0 ∧
    bitsN ((preS 0 0x10000).ctx 0).saveBase.toNat 16 36 = 1 ∧ ((preS 2 0).ctx 0).pState = 2 ∧ ((preS 3 0).ctx 0).pState = 3 ∧ deviceOn (preS 1 0x10000) = true ∧ (∀ c < 2, ((preS 1 0).crew c).mmq = []) ∧
    saveArea ((preS 0 0x10000).ctx 0) + saveSize ≤ winLo ∧ winLo < saveArea ((preS 0 0xFFFFFFFFF0000).ctx 0) + saveSize ∧ fabPerformed (preS 1 0x10000) 0 (fun _ => true) = true ∧ atBoundaries (preS 1 0x10000) 0 = true ∧
    (match (placesOf (preS 1 0x10000) (hubAgent 0 5) .engW [(0x10000, 65536)]).2 with
      | .error _ => true
      | .ok _ => false) = true := by decide +kernel
/-- The whole save area is mapped: by gigapages. -/
theorem witness_PreemptSaves : ∃ s, s = preS 1 0x400000000 ∧ (s.ctx 0).pState = 1 ∧ fabPerformed s 0 (fun _ => true) = true ∧ atBoundaries s 0 = true ∧ (s.crew 0).ctx = 0 ∧ (s.crew 0).status = .resident ∧ (s.crew 0).drafting = false :=
  ⟨_, rfl, by decide +kernel⟩
theorem witness_CtrRange : ∃ s, s = base.updCtx 1 (fun c => { c with ctrBase := 4, ctrCount := 4 }) ∧ ctrOverlaps s 0 7 1 = true ∧ ctrOverlaps s 0 8 248 = false ∧ 8 + 248 ≤ 256 ∧ ¬ 8 + 249 ≤ 256 ∧
    ctrInFlight (s.ctx 0) = false := ⟨_, rfl, by decide +kernel⟩
theorem witness_Wdog : [0, 20, 40].all (fun n => n == 0 || decide (20 ≤ n ∧ n ≤ 40)) = true ∧ [19, 41, 63].all (fun n => !(n == 0 || decide (20 ≤ n ∧ n ≤ 40))) = true ∧ bitsN 63 0 6 = 63 := by decide
theorem witness_Links : deviceOn base = true ∧ linksRun base = true ∧ base.link 0 = true ∧ base.link 1 = true ∧ (∀ c, (State.reset.ctx c).heldBells = []) := by
  refine ⟨by decide +kernel, by decide +kernel, by decide +kernel, by decide +kernel, fun c => ?_⟩
  simp [State.reset, State.ctx, cget]
theorem witness_Firmware : hostPf base 0 = true ∧ keyed 0xC002 = true ∧ (0xC002 : W64).getLsbD 1 = true ∧ keyed 0xC001 = true ∧ keyed 0xC102 = false ∧ (0xC001 : W64).getLsbD 0 = true ∧
    ({ base with fwTrial := true } : State).fwTrial = true ∧ base.fwTrial = false ∧ 3 ∈ ({ base with fwSwitch := List.range 32 } : State).fwSwitch := by decide +kernel
theorem witness_FwThreadSwitch : [none, some 5].all (fun u => (threadQueue (queueS 0 0 [] { st := 2, thread := some 3, used := u }) 3).used == u) = true := by
  decide +kernel
theorem witness_Recovery : rcvOn base 0 = true ∧ rcvCmd 0xC001 = some 1 ∧ rcvCmd 0xC002 = some 2 ∧ rcvCmd 0xC003 = some 3 ∧ rcvCmd 0xC004 = some 4 ∧ rcvCmd 0xC000 = some 0 ∧ rcvCmd 0xC007 = some 7 ∧
    rcvCmd 0x1C001 = none ∧ base.recovery = false ∧ base.rcvSlot = base.fwActive ∧ (∃ s, s = { base with rcvSlot := 1, rcvOffset := 2049 } ∧ s.rcvSlot ≠ s.fwActive ∧ s.rcvOffset % 2048 ≠ 0) ∧
    ∃ s, s = { base with rcvBusy := some 2 } ∧ s.rcvBusy = some 2 :=
  ⟨by decide +kernel, by decide, by decide, by decide, by decide, by decide, by decide, by decide, by decide +kernel, by decide +kernel, ⟨_, rfl, by decide +kernel⟩, _, rfl, rfl⟩

theorem witness_Management : [Transport.i3c, .vdm0, .vdm1, .vc7 5].all (pathUp { base with ports := [(15, { up := true })] }) = true ∧
    (∀ k < Config.scanUnits, k ∈ ({ base with freezing := 2, scanned := List.range Config.scanUnits } : State).scanned) ∧ pathUp { base with freezing := 2 } .i3c = true ∧
    ctxActive (launch5 {}) 0 = true ∧ ([0, 1, 15].all (fun c => !ctxActive State.reset c)) = true ∧ Memory.wf base = true := by
  refine ⟨by decide +kernel, fun k hk => ?_, by decide +kernel, by decide +kernel, by decide +kernel, by decide +kernel⟩
  simpa using hk
/-- Port 3, and port 7 which leads to chip 5, up. -/
def portsS (f : Port → Port) (vc : Nat) : State := { base with ports := [(3, f { up := true }), (7, { up := true, credits := [(vc, 2)] })], routes := [(5, 0x80)] }
/-- The CRC of a header that a chip sends on is right. -/
theorem reheader_crc (h : W64) (seq v n : Nat) (pl : List Byte) : hdrCrc (reheader h seq v n pl) = flitCrc (reheader h seq v n pl) pl := by
  simp only [reheader]
  generalize hx : w64 (bitsN h.toNat 34 30 * 2 ^ 34 + seq % 1024 * 2 ^ 24 + v % 8 * 2 ^ 21 + n % 32 * 2 ^ 16) = x
  have h0 : x.toNat % 2 ^ 16 = 0 := by subst hx; simp only [w64, BitVec.toNat_ofNat]; omega
  have hc : flitCrc x pl < 2 ^ 16 := BitVec.isLt _
  generalize hcc : flitCrc x pl = c at hc ⊢
  have ht : (w64 (x.toNat + c)).toNat = x.toNat + c := by have := x.isLt; simp only [w64, BitVec.toNat_ofNat]; omega
  have hd : (x.toNat + c) / 2 ^ 16 * 2 ^ 16 = x.toNat / 2 ^ 16 * 2 ^ 16 := by omega
  have he : flitCrc (w64 (x.toNat + c)) pl = flitCrc x pl := by unfold flitCrc; rw [ht, hd]
  rw [he, hcc, hdrCrc, ht, bitsN]
  omega
theorem port_all (P : Port → Prop) (h0 : P {}) (l : Cells Port) (p : Nat) (hl : ∀ e ∈ l, P e.2) : P (cget {} l p) := by
  induction l with
  | nil => exact h0
  | cons e r ih =>
    simp only [cget]
    split
    · exact hl e (by simp)
    · split
      · exact h0
      · exact ih (fun x hx => hl x (by simp [hx]))
theorem witness_Ports : Claims.Quiet (portsS id 0) ∧ linksRun (portsS id 0) = true ∧ fabricUp (portsS id 0) = true ∧ bestPath (portsS id 0) 5 = some 7 ∧
    rxHolds (portsS id 0) { header := w64 (5 * 2 ^ 52), payload := [] } = false ∧ ((portsS id 0).port 3).up = true ∧ (List.replicate 120 (0 : Byte)).length = 120 ∧
    (portsS id 0).paths 5 = [7] ∧ cget none (portsS id 0).flows 40 = none ∧ cget 0 ((portsS id 0).port 7).credits 0 ≠ 0 ∧ cget 0 ((portsS id 1).port 7).credits 0 = 0 ∧
    (∀ n ∈ [0, 1], cget 0 ((portsS (fun p => { p with given := [(0, n)] }) 0).port 3).given 0 = n) ∧ hdrDst (w64 (5 * 2 ^ 52)) = 5 ∧ hdrVc (w64 (5 * 2 ^ 52)) = 0 ∧ hdrKind (w64 (5 * 2 ^ 52 + 4 * 2 ^ 34)) = 4 := by
  refine ⟨⟨fun p => ?_, by decide +kernel⟩, by decide +kernel, by decide +kernel, by decide +kernel, by decide +kernel, by decide +kernel, by decide, by decide +kernel, by decide +kernel,
    by decide +kernel, by decide +kernel, by decide +kernel, by decide, by decide, by decide⟩
  exact port_all (fun q => q.fwd = [] ∧ q.rx = [] ∧ q.naks = [] ∧ ∀ v < 8, cget 0 q.owed v = 0) (by decide +kernel) _ _ (by decide +kernel)
theorem witness_PortEvents : [0, 15, 16].all (fun n => ((portsS (fun p => { p with replays := n, retry := [{ header := w64 (9 * 2 ^ 24), payload := [] }], nextSeq := 10 }) 0).port 3).replays == n) = true ∧
    (portsS id 0).runs = [] ∧ (portsS id 0).colls = [] ∧ (∀ e ∈ (portsS id 0).ctxs, e.2.fab = []) ∧ hdrSeq (w64 (9 * 2 ^ 24)) = 9 ∧
    (∃ s, s = { portsS (fun p => { p with up := false }) 0 with flows := [(40, some 3)] } ∧ (s.port 3).up = false ∧ cget none s.flows 40 = some 3 ∧ s.paths 5 = [7] ∧
      [[], [3], [3, 5]].all (fun live => bestPath { s with meshLive := cset none s.meshLive 5 (some live) } 5 == some 7) = true ∧
      (s.port 3).retry.any (fun f => hdrDst f.header == 5 && hdrVc f.header == 0) = false) :=
  ⟨by decide +kernel, by decide +kernel, by decide +kernel, by decide +kernel, by decide, _, rfl, by decide +kernel⟩
theorem witness_EveryStep : Memory.wf State.reset = true ∧ Memory.wf base = true := by decide +kernel

/-! ### Single steps, with the spec's own numbers -/

/-- What an instruction gives in lane l of V register v, and what it adds to FSR. -/
def laneOf (i : Instr) (s : State) (v l : Nat) : W64 := ((after i s).me.pend.find? (fun w => w.reg == .v v && w.lane == l)).elim 0 (·.val)
/-- Lane values given to V registers. -/
def withV (mr : Nat) (l : List (Nat × Nat × Nat)) : State :=
  team0 (fun t => { t with mr := w64 mr, nregs := 128, v := l.foldl (fun c e => cset 0 c (e.1 * 1024 + e.2.1) (BitVec.ofNat 32 e.2.2)) [] })

/-- 16: SLI S1, #0xFFFF gives −1, and SLI S1, #40000 gives −25,536. -/
theorem test_sli_sign_extends : gives (.sli (.s 1) 0xFFFF) base = [(.s 1, 0, w64 (2 ^ 64 - 1))] := by decide +kernel
theorem test_sli_40000 : gives (.sli (.s 1) (BitVec.ofNat 16 40000)) base = [(.s 1, 0, w64 (2 ^ 64 - 25536))] := by decide +kernel
/-- 16: the last line of the address 0x4_0003_0000. -/
theorem test_slih_shifts_upward : gives (.slih (.s 4) 0) (withS [(4, 0x40003)]) = [(.s 4, 0, 0x400030000)] := by decide +kernel
/-- R312: sums wrap modulo 2^64. -/
theorem test_sadd_wraps : gives (.sadd (.s 3) (.s 1) (.s 2)) (withS [(1, 0xFFFFFFFFFFFFFFFF), (2, 5)]) = [(.s 3, 0, 4)] := by decide +kernel
/-- 17: narrowing four F32 to signed extended binary8p4; OF and NX are set. -/
theorem test_cvt_narrows : laneOf (.cvt (.v 4) (.v 8) (.v 0)) (withV (0x038C * 32 + 0x000A * 2 ^ 32)
    [(8, 0, 0x41400000), (9, 0, 0xBF000000), (10, 0, 0x43960000), (11, 0, 0x3C23D70A)]) 4 0 = 0x0A7FB85C := by decide +kernel
theorem test_cvt_narrows_flags : (after (.cvt (.v 4) (.v 8) (.v 0)) (withV (0x038C * 32 + 0x000A * 2 ^ 32)
    [(8, 0, 0x41400000), (9, 0, 0xBF000000), (10, 0, 0x43960000), (11, 0, 0x3C23D70A)])).me.fsr = 0x14 := by decide +kernel
/-- 17: the widening back. -/
theorem test_cvt_widens : [12, 13, 14, 15].map (fun r => laneOf (.cvt (.v 12) (.v 4) (.v 0)) (withV (0x000A * 32 + 0x038C * 2 ^ 32) [(4, 0, 0x0A7FB85C)]) r 0) =
    [0x41400000, 0xBF000000, 0x7F800000, 0x3C200000] := by decide +kernel

/-- 13: QNT's choice of a scale, with Sb = 0 and with Sb = 1. -/
def qntState (sb : Nat) : State :=
  (withV (0x038D * 32) [(0, 0, 0x453B8000), (1, 0, 0x3BA3D70A), (2, 0, 0xC2C80000)]).updTeam 0 (fun t => { t with s := [(6, w64 sb)] })
theorem test_qnt_steps_down : (laneOf (.qnt (.v 8) (.v 0) (.s 6)) (qntState 0) 8 0, laneOf (.qnt (.v 8) (.v 0) (.s 6)) (qntState 0) 9 0) = (0x00DC017E, 0x82) := by decide +kernel
theorem test_qnt_keeps : (laneOf (.qnt (.v 8) (.v 0) (.s 6)) (qntState 1) 8 0, laneOf (.qnt (.v 8) (.v 0) (.s 6)) (qntState 1) 9 0) = (0x00D4007C, 0x183) := by decide +kernel

/-- 17: duplicates and first occurrences. -/
def dupState : State :=
  (withV (10 * 32) [(2, 0, 0x3F800000), (2, 2, 0x80000000), (2, 3, 0x3F800000), (2, 4, 0x7FC00000), (2, 5, 0x7FC00000), (2, 7, 0x40000000)]).updTeam 0
    (fun t => { t with mask := 0xF7 })
theorem test_match_n : [0, 1, 2, 4, 5, 6, 7].map (laneOf (.matchN (.v 6) (.v 2) (.v 0)) dupState 6) = [0, 0, 0, 0, 1, 1, 0] := by decide +kernel
theorem test_match_b : [0, 1, 2, 4, 5, 6, 7].map (laneOf (.matchB (.v 7) (.v 2) (.v 0)) dupState 7) = [0, 1, 2, 4, 4, 1, 7] := by decide +kernel
def prankState : State := dupState.updTeam 0 (fun t => { t with p := [(2, 0x97)] })
theorem test_prank : [0, 1, 2, 4, 5, 6, 7].map (laneOf (.prank (.v 8) (.p 2) (.v 0)) prankState 8) = [0, 1, 2, 3, 4, 4, 4] := by decide +kernel
theorem test_ballot : laneOf (.ballot (.v 9) (.p 2) (.v 0)) prankState 9 0 = 0x97 := by decide +kernel

/-- A F64 of its high 16 bits. -/
def d_ (x : Nat) : Nat := x * 2 ^ 48
/-- 07: affine maps composed on four members: pre, suf and out of role 1. -/
theorem test_cavity_affine : (let d := d_
    let r := cavDeliver 10 11 [(d 0x4000, d 0x3FF0), (d 0x4008, 0), (d 0x3FF0, d 0x4010), (d 0x3FE0, d 0x4000)] (some 1)
    (r.1.1, r.2.1.1, r.2.2.1)) = ((d_ 0x4000, d_ 0x3FF0), (d_ 0x3FE0, d_ 0x4018), (d_ 0x3FF0, d_ 0x402A)) := by decide +kernel

/-- 13: binary8p4 code 0x5C is 12, and 0xDC is −12. -/
theorem test_binary8_code : [0x5C, 0xDC].map (fun c => (fmtF32.roundV 0 false false 0 ((tyFmt 12 (4 + 8)).value c)).1) = [0x41400000, 0xC1400000] := by decide +kernel

/-- FIPS 180-4: the digest of "abc". -/
theorem test_sha384 : sha384 [0x61, 0x62, 0x63] = leBytes 48 0xa725c834a1ecba5823cce7a12b078680ed5bff435a608b1a63d1de0eab322c270750c69a693da0b58b5ea3453f7500cb := by decide +kernel

end Sys2Proof.Tests
end

section
/-! SUPPORT. What Scriptor holds of queues and threads, and that no access to memory by a unit of the hub die changes it, but for what such an
access notes in a queue: reading and writing descriptors moves no queue (03 R61). -/

namespace Sys2Proof.Machine

/-- A queue but for what a memory access notes in it: that its monitor's line has changed, and that its read index has been written. -/
def Queue.settled (k : Queue) : Queue := { k with lineChanged := false, rptrWritten := false }

/-- What Scriptor holds that no access to memory changes: its threads, and its queues but for what such an access notes in them. -/
def State.scriptor (s : State) : Cells (Option Nat) × Cells Queue := (s.threads, s.queues.map (fun e => (e.1, e.2.settled)))

/-! ### What two states of one view share -/

theorem cget_map {α β : Type} (f : α → β) (d : α) (m : Cells α) (k : Nat) :
    cget (f d) (m.map (fun e => (e.1, f e.2))) k = f (cget d m k) := by
  induction m with
  | nil => rfl
  | cons e r ih =>
    obtain ⟨a, v⟩ := e
    simp only [List.map_cons, cget, ih]
    split
    · rfl
    · split <;> rfl

theorem threads_of_scriptor {s t : State} (h : t.scriptor = s.scriptor) : t.threads = s.threads := congrArg Prod.fst h

theorem settled_of_scriptor {s t : State} (h : t.scriptor = s.scriptor) (k : Nat) : (t.queue k).settled = (s.queue k).settled := by
  have hq : t.queues.map (fun e => (e.1, e.2.settled)) = s.queues.map (fun e => (e.1, e.2.settled)) := congrArg Prod.snd h
  exact (cget_map Queue.settled {} t.queues k).symm.trans (hq ▸ cget_map Queue.settled {} s.queues k)

theorem queueCount_of_scriptor {s t : State} (h : t.scriptor = s.scriptor) : queueCount t = queueCount s := by
  have count (u : State) : queueCount u = (u.scriptor.2.filter (·.2.live)).length := by
    simp [queueCount, State.scriptor, List.filter_map, Function.comp_def, Queue.settled]
  rw [count, count, h]

theorem settled_st {a b : Queue} (h : a.settled = b.settled) : a.st = b.st := (congrArg Queue.st h :)
theorem settled_prio {a b : Queue} (h : a.settled = b.settled) : a.prio = b.prio := (congrArg Queue.prio h :)
theorem settled_live {a b : Queue} (h : a.settled = b.settled) : a.live = b.live := (congrArg Queue.live h :)
theorem settled_thread {a b : Queue} (h : a.settled = b.settled) : a.thread = b.thread := (congrArg Queue.thread h :)

/-! ### Accesses to memory keep the view -/

theorem touch_scriptor (s : State) (line : Nat) : (s.touch line).scriptor = s.scriptor := by
  have fold (l : Cells Team) (t : State) :
      (l.foldl (fun s e => if e.2.sleepsOn line then s.updTeam e.1 (·.wake) else s) t).scriptor = t.scriptor :=
    foldl_keeps _ State.scriptor (fun b a => by split <;> rfl) l t
  have note : State.scriptor { s with queues := s.queues.map (fun e => if e.2.watch = some line then (e.1, { e.2 with lineChanged := true }) else e) } =
      s.scriptor := by
    simp only [State.scriptor, List.map_map, Prod.mk.injEq, true_and]
    refine List.map_congr_left fun e _ => ?_
    simp only [Function.comp_apply]
    split <;> rfl
  unfold State.touch
  dsimp only
  split <;> split
  · exact (fold _ _).trans note
  · exact note
  · exact fold _ _
  · rfl

theorem touchKey_scriptor (s : State) (k n : Nat) : (s.touchKey k n).scriptor = s.scriptor :=
  foldl_keeps State.touch State.scriptor touch_scriptor _ s

theorem rewrites_scriptor (s : State) (k n : Nat) : (s.rewrites k n).scriptor = s.scriptor := by
  unfold State.rewrites
  dsimp only
  split
  · simp only [State.scriptor, List.map_map, Prod.mk.injEq, true_and]
    refine List.map_congr_left fun e _ => ?_
    simp only [Function.comp_apply]
    split <;> rfl
  · rfl

theorem putMem_scriptor (s : State) (k : Nat) (b : Byte) : (s.putMem k b).scriptor = s.scriptor := by
  unfold State.putMem; split <;> rfl

theorem putHomeBytes_scriptor (bs : List Byte) : ∀ (s : State) (k : Nat), (s.putHomeBytes k bs).scriptor = s.scriptor := by
  induction bs with
  | nil => exact fun _ _ => rfl
  | cons b r ih => exact fun s k => (ih _ _).trans (putMem_scriptor s k b)

theorem putOverBytes_scriptor (bs : List Byte) : ∀ (s : State) (k : Nat), (s.putOverBytes k bs).scriptor = s.scriptor := by
  induction bs with
  | nil => exact fun _ _ => rfl
  | cons b r ih =>
    intro s k
    refine (ih _ _).trans ?_
    unfold State.putOver; split <;> rfl

theorem unhide_scriptor (s : State) (p : Place) (n : Nat) : (s.unhide p n).scriptor = s.scriptor := by
  unfold State.unhide; split <;> rfl

theorem homePut_scriptor (s : State) (k : Nat) (bs : List Byte) : (homePut s k bs).scriptor = s.scriptor := by
  unfold homePut
  exact (touchKey_scriptor _ _ _).trans ((putHomeBytes_scriptor bs _ _).trans (unhide_scriptor _ _ _))

theorem dirtyDie_scriptor (s : State) (ctx die : Nat) : (s.dirtyDie ctx die).scriptor = s.scriptor := by
  unfold State.dirtyDie; split <;> rfl

theorem useL2_scriptor (s : State) (line hint : Nat) : (useL2 s line hint).scriptor = s.scriptor := by
  unfold useL2; split <;> rfl

theorem post_scriptor (s : State) (w ctx k : Nat) (bs : List Byte) : (s.post w ctx k bs).scriptor = s.scriptor := by
  unfold State.post
  split
  · exact putOverBytes_scriptor bs s k
  · rfl

theorem putDevBytes_scriptor (s : State) (w ctx k : Nat) (bs : List Byte) (hint : Nat) :
    (s.putDevBytes w ctx k bs hint).scriptor = s.scriptor := by
  unfold State.putDevBytes
  dsimp only
  split
  · exact post_scriptor s w ctx k bs
  · generalize hs : (if decide (w < 512 ∧ w / 128 ≠ keyDie k) = true then
      storeMargin (s.dirtyDie ctx (w / 128)) (w / 128) (keyLines k bs.length) else s) = s1
    have h1 : s1.scriptor = s.scriptor := by
      rw [← hs]
      split
      · exact dirtyDie_scriptor s ctx _
      · rfl
    split
    · refine (putOverBytes_scriptor bs _ k).trans (.trans ?_ h1)
      exact (foldl_keeps _ State.scriptor (fun b a => useL2_scriptor b a _) _ _).trans (dirtyDie_scriptor s1 ctx _)
    · split
      · exact (putOverBytes_scriptor bs s1 k).trans h1
      · exact (putHomeBytes_scriptor bs s1 k).trans h1

theorem writePlace_phys_scriptor (s : State) (ctx k : Nat) (bs : List Byte) (bad : Bool) (w : Nat) :
    (writePlace s ctx (.phys k) bs bad w).scriptor = s.scriptor := by
  unfold writePlace putPlace
  refine (foldl_keeps State.touch State.scriptor touch_scriptor _ _).trans ?_
  exact (putDevBytes_scriptor _ _ _ _ _ _).trans ((rewrites_scriptor _ _ _).trans (unhide_scriptor _ _ _))

theorem homeOrPost_scriptor (s : State) (ctx k : Nat) (bs : List Byte) : (homeOrPost s ctx k bs).scriptor = s.scriptor := by
  unfold homeOrPost
  split
  · exact writePlace_phys_scriptor s ctx k bs _ _
  · exact homePut_scriptor s k bs

theorem setBits_scriptor (s : State) (key set : Nat) : (setBits s key set).scriptor = s.scriptor := by
  unfold setBits
  dsimp only
  split
  · rfl
  · exact (touchKey_scriptor _ _ _).trans (putMem_scriptor _ _ _)

theorem firstTouch_scriptor (s : State) (ctx pte key : Nat) (write : Bool) : (firstTouch s ctx pte key write).1.scriptor = s.scriptor := by
  unfold firstTouch
  dsimp only
  split
  · rfl
  · exact homePut_scriptor _ _ _

theorem walk_scriptor (s : State) (ctx : Nat) (spec : Bool) (acc : Acc) (va : Nat) : (walk s ctx spec acc va).1.scriptor = s.scriptor := by
  unfold walk
  split
  · rfl
  · dsimp only
    split
    · rfl
    · exact setBits_scriptor _ _ _
  · next e k _ =>
    have h := firstTouch_scriptor s ctx e k acc.writes
    split <;> next e => rw [e] at h; exact h

/-- A unit of the hub die is of no launch, which an access to the host could end in an error (R44). -/
theorem hostLost_hub (s : State) (ctx n key : Nat) : hostLost s (hubAgent ctx n) key = s := by
  unfold hostLost; split <;> rfl

theorem hubTranslate_scriptor (s : State) (ctx n : Nat) (acc : Acc) (va : Nat) :
    (translate s (hubAgent ctx n) acc va).1.scriptor = s.scriptor := by
  have h := walk_scriptor s ctx false acc va
  simp only [translate, hubAgent, Option.map_none, List.find?_nil]
  split <;> next e => rw [e] at h; exact h

theorem hubPlace_scriptor (s : State) (ctx n : Nat) (acc : Acc) (va : Nat) : (place s (hubAgent ctx n) acc va).1.scriptor = s.scriptor := by
  have h := hubTranslate_scriptor s ctx n acc va
  unfold place
  split
  · rfl
  · split
    · next e => rw [e] at h; rw [hostLost_hub]; exact h
    · next e => rw [e] at h; exact h

theorem hubPlaceVa_scriptor (s : State) (ctx n : Nat) (acc : Acc) (va : Nat) :
    (placeVa s (hubAgent ctx n) acc va).1.scriptor = s.scriptor := by
  have h := hubPlace_scriptor s ctx n acc va
  unfold placeVa
  split <;> next e => rw [e] at h; exact h

/-! ### Descriptors -/

theorem homeWrite_scriptor (s : State) (ctx va : Nat) (bs : List Byte) : (homeWrite s ctx va bs).scriptor = s.scriptor := by
  have h := hubPlaceVa_scriptor s ctx 5 .engW va
  unfold homeWrite
  split
  · next s1 k e => rw [e] at h; exact (homeOrPost_scriptor s1 ctx k bs).trans h
  · next s1 _ e => rw [e] at h; exact h

theorem qPut_scriptor (s : State) (ctx q off : Nat) (bs : List Byte) : (qPut s ctx q off bs).scriptor = s.scriptor :=
  homeWrite_scriptor s ctx _ bs

theorem homeRead_scriptor (s : State) (ctx va n : Nat) : (homeRead s ctx va n).1.scriptor = s.scriptor := by
  have h := hubPlaceVa_scriptor s ctx 5 .engR va
  unfold homeRead
  split <;> next e => rw [e] at h; exact h

theorem qDesc_scriptor {s s1 : State} {ctx q : Nat} {d : Option QDesc} (h : qDesc s ctx q = (s1, d)) : s1.scriptor = s.scriptor := by
  have hr := homeRead_scriptor s ctx (qVa s ctx q 0) 256
  have hd : (qDesc s ctx q).1 = (homeRead s ctx (qVa s ctx q 0) 256).1 := by
    unfold qDesc; split <;> next e => rw [e]
  rw [← hr, ← hd, h]

end Sys2Proof.Machine
end

section
/-! Doorbells and threads (03 R60 to R65, R72): what each change of a queue leaves in its entry and in the threads, and O54. -/

namespace Sys2Proof.Machine

@[simp] theorem updQueue_queue (s : State) (i : Nat) (f : Queue → Queue) : (s.updQueue i f).queue i = f (s.queue i) := setQueue_queue _ _ _
theorem updQueue_queue_ne (s : State) (i j : Nat) (f : Queue → Queue) (h : j ≠ i) : (s.updQueue i f).queue j = s.queue j :=
  setQueue_queue_ne _ _ _ _ h

@[simp] theorem tick_queue (s : State) (i : Nat) : s.tick.2.queue i = s.queue i := rfl

theorem qStatus_threads (s : State) (ctx q st : Nat) : (qStatus s ctx q st).threads = s.threads := by
  unfold qStatus
  split
  · rfl
  · exact (threads_of_scriptor (qPut_scriptor _ _ _ _ _)).trans rfl

/-- A queue's status changes that queue's alone. -/
theorem qStatus_settled (s : State) (ctx q st : Nat) :
    ((qStatus s ctx q st).queue (queueKey ctx q)).settled = { s.queue (queueKey ctx q) with st := st }.settled := by
  unfold qStatus
  split
  · next h => rw [← h]
  · exact (settled_of_scriptor (qPut_scriptor _ _ _ _ _) _).trans (by rw [updQueue_queue])
theorem qStatus_settled_ne (s : State) (ctx q st : Nat) {j : Nat} (h : j ≠ queueKey ctx q) :
    ((qStatus s ctx q st).queue j).settled = (s.queue j).settled := by
  unfold qStatus
  split
  · rfl
  · exact (settled_of_scriptor (qPut_scriptor _ _ _ _ _) _).trans (by rw [updQueue_queue_ne _ _ _ _ h])

theorem qSave_scriptor (s : State) (ctx q : Nat) : (qSave s ctx q).scriptor = s.scriptor := by
  simp only [qSave, qPut_scriptor]
  rfl

/-- A queue that is unmapped has its new status and no thread. -/
theorem qUnmap_queue (s : State) (ctx q st : Nat) :
    ((qUnmap s ctx q st).queue (queueKey ctx q)).st = st ∧ ((qUnmap s ctx q st).queue (queueKey ctx q)).thread = none := by
  have h := qStatus_settled
  unfold qUnmap
  exact ⟨settled_st (h _ _ _ _), (settled_thread (h _ _ _ _)).trans (by rw [updQueue_queue])⟩

/-- The thread that it had is free. -/
theorem qUnmap_threads (s : State) (ctx q st : Nat) {th : Nat} (h : (s.queue (queueKey ctx q)).thread = some th) :
    (qUnmap s ctx q st).threads = cset none s.threads th none := by
  have hs := qSave_scriptor s ctx q
  have ht : ((qSave s ctx q).queue (queueKey ctx q)).thread = some th := (settled_thread (settled_of_scriptor hs _)).trans h
  unfold qUnmap
  dsimp only
  rw [qStatus_threads, ht]
  exact congrArg (cset none · th none) (threads_of_scriptor hs)

/-- The queue mapped, and its thread. -/
theorem qMap_queue {s s1 : State} {ctx q th : Nat} {d : QDesc} (h : qDesc s ctx q = (s1, some d)) :
    ((qMap s ctx q th).queue (queueKey ctx q)).thread = some th ∧ ((qMap s ctx q th).queue (queueKey ctx q)).st = 2 := by
  have hq := qStatus_settled
  simp only [qMap, h]
  exact ⟨(settled_thread (hq _ _ _ _)).trans (by rw [updQueue_queue]), settled_st (hq _ _ _ _)⟩

theorem qMap_threads {s s1 : State} {ctx q th : Nat} {d : QDesc} (h : qDesc s ctx q = (s1, some d)) :
    (qMap s ctx q th).threads = cset none s.threads th (some (queueKey ctx q)) := by
  have ht : s1.threads = s.threads := threads_of_scriptor (qDesc_scriptor h)
  simp only [qMap, h, qStatus_threads]
  exact congrArg (cset none · th _) ht

/-- Every other queue stays as it is, but for what accesses to memory note in it. -/
theorem qMap_settled_ne {s s1 : State} {ctx q th j : Nat} {d : QDesc} (h : qDesc s ctx q = (s1, some d)) (hj : j ≠ queueKey ctx q) :
    ((qMap s ctx q th).queue j).settled = (s.queue j).settled := by
  rw [← settled_of_scriptor (qDesc_scriptor h) j]
  simp only [qMap, h]
  refine (qStatus_settled_ne _ _ _ _ hj).trans ?_
  rw [updQueue_queue_ne _ _ _ _ hj]
  rfl

/-! ### Becoming runnable -/

theorem qRunnable_settled (s : State) (ctx q prio : Nat) : ((qRunnable s ctx q prio).queue (queueKey ctx q)).settled =
    { s.queue (queueKey ctx q) with order := s.order, prio := prio, st := 1 }.settled := by
  refine (qStatus_settled _ _ _ _).trans ?_
  rw [updQueue_queue]
  rfl

/-- A queue that was not runnable has its status written to its descriptor, and nothing else in memory changes. -/
theorem qRunnable_writes_status (s : State) (ctx q prio : Nat) (h : (s.queue (queueKey ctx q)).st ≠ 1) :
    ∃ s2, qRunnable s ctx q prio = qPut s2 ctx q 24 (leBytes 1 1) ∧ s2.mem = s.mem := by
  simp only [qRunnable, qStatus, updQueue_queue, tick_queue, if_neg h]
  exact ⟨_, rfl, rfl⟩

/-- A queue that does not exist, on a device that is not full, comes into existence. -/
theorem qCreate_room {s : State} (ctx q st : Nat) (h : queueCount s < 4096) : qCreate s ctx q st =
    (s.updQueue (queueKey ctx q) (fun k => { live := true, st := st, work := k.work, rptrKey := k.rptrKey, rptrWritten := k.rptrWritten }), true) :=
  if_neg (Nat.not_le.2 h)

/-- A doorbell that moves the write index on, within the ring, of an idle queue, or of one that does not exist yet and may (R60, R63): the
write index is written, and the queue becomes runnable. -/
theorem bell_makes_runnable {s s1 : State} {fn q : Nat} {v : W64} {d : QDesc} (hv : v.toNat < 2 ^ 32)
    (hq : q < (s.ctx fn).qtblCount.toNat) (hd : qDesc s fn q = (s1, some d)) (hctl : bitN d.ctl 0 = true) (hlo : 8 ≤ d.lsize) (hhi : d.lsize ≤ 24)
    (hnew : (d.wptr + 2 ^ 32 - d.rptr) % 2 ^ 32 < (v.toNat + 2 ^ 32 - d.rptr) % 2 ^ 32)
    (hroom : (v.toNat + 2 ^ 32 - d.rptr) % 2 ^ 32 ≤ 2 ^ d.lsize)
    (hk : (s.queue (queueKey fn q)).live = true ∧ (s.queue (queueKey fn q)).st = 0 ∨
      (s.queue (queueKey fn q)).live = false ∧ d.status ≠ 4 ∧ queueCount s < 4096) :
    ∃ s2, bell s fn q v = qRunnable s2 fn q d.prio ∧ (s2.queue (queueKey fn q)).live = true ∧ (s2.queue (queueKey fn q)).st = 0 ∧
      s2.mem = (qPut s1 fn q 20 (leBytes 4 v.toNat)).mem := by
  have h1 : ¬ (2 ^ 32 ≤ v.toNat ∨ (s.ctx fn).qtblCount.toNat ≤ q) := by omega
  have h2 : ¬ (d.lsize < 8 ∨ 24 < d.lsize) := by omega
  have hs : (qPut s1 fn q 20 (leBytes 4 v.toNat)).scriptor = s.scriptor := (qPut_scriptor _ _ _ _ _).trans (qDesc_scriptor hd)
  have hset := settled_of_scriptor hs (queueKey fn q)
  unfold bell
  simp only [if_neg h1, if_neg h2, hd, hctl, Nat.not_le.2 hnew, Nat.not_lt.2 hroom]
  rcases hk with ⟨hlive, hst⟩ | ⟨hlive, hstat, hcount⟩
  · exact ⟨qPut s1 fn q 20 (leBytes 4 v.toNat), by simp [hlive, hst], (settled_live hset).trans hlive, (settled_st hset).trans hst, rfl⟩
  · rw [← queueCount_of_scriptor hs] at hcount
    refine ⟨(qCreate (qPut s1 fn q 20 (leBytes 4 v.toNat)) fn q 0).1, ?_⟩
    simp [hlive, hstat, qCreate_room fn q 0 hcount, State.updQueue]

/-! ### The device events, where their conditions hold -/

theorem exec_doorbellWrite {s : State} {fn ep q : Nat} (v : W64) (hfn : hostFn s fn = true) (hep : ep < 2) (hq : q < 512)
    (hl : s.link ep = true) : exec (.doorbellWrite fn ep q v) s = .next (if bellOpen (s.ctx fn) ep then bell s fn q v
      else s.updCtx fn (fun c => { c with heldBells := c.heldBells ++ [(ep, q, v)] })) := by
  simp [exec, execDoorbellWrite, hfn, hep, hq, hl]

theorem exec_hqQrelease {s : State} {fn q : Nat} (hfn : hostFn s fn = true) (hq : q < 512) (hlive : (s.queue (queueKey fn q)).live = true)
    (hst : (s.queue (queueKey fn q)).st = 0 ∨ (s.queue (queueKey fn q)).st = 4) : exec (.hqQrelease fn q) s =
      .next (s.updQueue (queueKey fn q) (fun k => { work := k.work, rptrKey := k.rptrKey, rptrWritten := k.rptrWritten })) := by
  simp [exec, execHqQrelease, hfn, hq, hlive, hst]

/-- A faulted queue that exists becomes runnable again (R72), with the priority of its descriptor. -/
theorem exec_hqQresume {s s1 : State} {fn q : Nat} {d : QDesc} (hfn : hostFn s fn = true) (hq512 : q < 512)
    (hq : q < (s.ctx fn).qtblCount.toNat) (hd : qDesc s fn q = (s1, some d)) (hlive : (s.queue (queueKey fn q)).live = true)
    (hst : (s.queue (queueKey fn q)).st = 4) (hlo : 8 ≤ d.lsize) (hhi : d.lsize ≤ 24) :
    ∃ s2, exec (.hqQresume fn q) s = .next (qRunnable s2 fn q d.prio) := by
  have h1 : ¬ (512 ≤ q ∨ (s.ctx fn).qtblCount.toNat ≤ q) := by omega
  have h2 : ¬ (d.lsize < 8 ∨ 24 < d.lsize) := by omega
  simp only [exec, execHqQresume, hfn, h1, hd, hlive, hst, h2]
  exact ⟨_, rfl⟩

theorem exec_queueMap {s : State} {ctx q th : Nat} {w : Nat × Queue} (hth : freeThread s = some th) (hw : firstWaiter s = some w)
    (hk : w.1 = queueKey ctx q) (hq : q < 512) : exec (.queueMap ctx q) s = .next (qMap s ctx q th) := by
  simp [exec, execQueueMap, hth, hw, hk, hq]

theorem exec_queueIdleUnmap {s s1 : State} {ctx q th : Nat} {d : QDesc} (hon : deviceOn s = true) (hq : q < 512)
    (hth : (s.queue (queueKey ctx q)).thread = some th) (hcalls : (s.queue (queueKey ctx q)).calls = [])
    (hd : qDesc s ctx q = (s1, some d)) (hempty : d.rptr = d.wptr) : exec (.queueIdleUnmap ctx q) s = .next (qUnmap s1 ctx q 0) := by
  simp [exec, execQueueIdleUnmap, hon, hq, hth, hcalls, hd, hempty]

theorem exec_queueFairnessUnmap {s : State} {ctx q th : Nat} (hon : deviceOn s = true) (hq : q < 512)
    (hth : (s.queue (queueKey ctx q)).thread = some th) (hfull : freeThread s = none) (hused : (s.queue (queueKey ctx q)).used = none)
    (hw : ∃ w ∈ waiters s, w.2.prio = (s.queue (queueKey ctx q)).prio)
    (hlow : ∀ e ∈ mappedQueues s, e.2.prio ≤ (s.queue (queueKey ctx q)).prio) :
    exec (.queueFairnessUnmap ctx q) s = .next (qUnmap s ctx q 1) := by
  have h1 : (waiters s).any (fun w => w.2.prio == (s.queue (queueKey ctx q)).prio) = true := by simpa using hw
  have h2 : (mappedQueues s).all (fun e => decide (e.2.prio ≤ (s.queue (queueKey ctx q)).prio)) = true := by simpa using hlow
  simp [exec, execQueueFairnessUnmap, hon, hq, hth, hfull, hused, h1, h2]

/-- Every thread is taken, and the queue is the oldest mapped of the lowest mapped priority, below the first waiter's. -/
theorem mustYield_of {s : State} {k : Queue} {w : Nat × Queue} (hk : k.thread.isSome = true) (hfull : freeThread s = none)
    (hw : firstWaiter s = some w) (hprio : w.2.prio < k.prio)
    (hold : ∀ e ∈ mappedQueues s, e.2.prio < k.prio ∨ e.2.prio = k.prio ∧ k.since ≤ e.2.since) : mustYield s k = true := by
  have hall : (mappedQueues s).all (fun e => decide (e.2.prio < k.prio) || (e.2.prio == k.prio && decide (k.since ≤ e.2.since))) = true := by
    simpa using hold
  simp [mustYield, hk, hfull, hw, hprio, hall]

theorem exec_queuePriorityUnmap {s : State} {ctx q th : Nat} {w : Nat × Queue} (hon : deviceOn s = true) (hq : q < 512)
    (hth : (s.queue (queueKey ctx q)).thread = some th) (hused : (s.queue (queueKey ctx q)).used = none) (hw : firstWaiter s = some w)
    (hy : mustYield s (s.queue (queueKey ctx q)) = true) :
    exec (.queuePriorityUnmap ctx q) s = .next (qMap (qUnmap s ctx q 1) (w.1 / 512) (w.1 % 512) th) := by
  simp [exec, execQueuePriorityUnmap, hon, hq, hth, hused, hw, hy]

theorem queueKey_div_mod (k : Nat) : queueKey (k / 512) (k % 512) = k := Nat.div_add_mod' k 512

/-- A queue gives its thread to the queue of key j: it is runnable without one, and the other is mapped to it. -/
theorem unmap_then_map {s s1 : State} {ctx q j : Nat} (th : Nat) {d : QDesc} (hne : j ≠ queueKey ctx q)
    (hd : qDesc (qUnmap s ctx q 1) (j / 512) (j % 512) = (s1, some d)) :
    ∀ t, t = qMap (qUnmap s ctx q 1) (j / 512) (j % 512) th → (t.queue (queueKey ctx q)).st = 1 ∧ (t.queue (queueKey ctx q)).thread = none ∧
      cget none t.threads th = some j ∧ (t.queue j).thread = some th ∧ (t.queue j).st = 2 := by
  rintro t rfl
  obtain ⟨hst, hnone⟩ := qUnmap_queue s ctx q 1
  obtain ⟨hmapped, hmst⟩ := qMap_queue (th := th) hd
  have hthreads := qMap_threads (th := th) hd
  have hkeep := fun h => qMap_settled_ne (th := th) (j := queueKey ctx q) hd h
  rw [queueKey_div_mod] at hmapped hmst hthreads hkeep
  exact ⟨(settled_st (hkeep hne.symm)).trans hst, (settled_thread (hkeep hne.symm)).trans hnone, by rw [hthreads, cget_cset_self], hmapped, hmst⟩

/-! ### Doorbells and threads -/

/-- Settles O54: each event is one change of a queue's status or thread (`qRunnable`, `qMap`, `qUnmap`), and the accesses to its descriptor
leave what Scriptor holds as it is. -/
theorem queuesGetThreads : Obligations.QueuesGetThreads := by
  unfold Obligations.QueuesGetThreads Sys2Proof.Claims.To
  refine ⟨fun s fn ep q v hfn hep hq hl => ⟨fun ho => ?_, fun s1 d ho hv hcount hd hctl hlo hhi hnew hroom hk => ?_, fun hlive hst => ?_,
      fun s1 d hcount hd hlive hst hlo hhi => ?_⟩,
    fun s s1 ctx q th d w hth hw hk hq hd => ?_, ?_⟩
  · exact ⟨_, exec_doorbellWrite v hfn hep hq hl, by simp [ho, State.updCtx], by simp [ho, State.updCtx], by rw [ho]; rfl⟩
  · obtain ⟨s2, hbell, hlive, hst, hmem⟩ := bell_makes_runnable hv hcount hd hctl hlo hhi hnew hroom hk
    have hr := qRunnable_settled s2 fn q d.prio
    obtain ⟨s3, hput, hmem3⟩ := qRunnable_writes_status s2 fn q d.prio (by rw [hst]; decide)
    refine ⟨qRunnable s2 fn q d.prio, ?_, settled_st hr, settled_prio hr, (settled_live hr).trans hlive, s3, hput, hmem3.trans hmem⟩
    rw [exec_doorbellWrite v hfn hep hq hl, if_pos ho, hbell]
  · exact ⟨_, exec_hqQrelease hfn hq hlive hst, by rw [updQueue_queue], rfl, fun k hne => updQueue_queue_ne _ _ _ _ hne⟩
  · obtain ⟨s2, he⟩ := exec_hqQresume hfn hq hcount hd hlive hst hlo hhi
    have hr := qRunnable_settled s2 fn q d.prio
    exact ⟨_, he, settled_st hr, settled_prio hr⟩
  · obtain ⟨hmapped, hst⟩ := qMap_queue (th := th) hd
    refine ⟨_, exec_queueMap hth hw hk hq, ?_, hmapped, hst, fun k hne => ?_⟩ <;> rw [qMap_threads hd]
    · exact cget_cset_self _ _ _ _
    · exact cget_cset_ne _ _ _ _ _ hne
  · rintro s ctx q th k rfl hon hq hth
    refine ⟨fun s1 d hcalls hd hempty => ?_, fun hfull hused hw hlow => ?_, fun w s1 d hfull hused hw hprio hne hold hd => ?_⟩
    · have hth1 := (settled_thread (settled_of_scriptor (qDesc_scriptor hd) (queueKey ctx q))).trans hth
      obtain ⟨hst, hnone⟩ := qUnmap_queue s1 ctx q 0
      exact ⟨_, exec_queueIdleUnmap hon hq hth hcalls hd hempty, hst, hnone, by rw [qUnmap_threads s1 ctx q 0 hth1, cget_cset_self]⟩
    · obtain ⟨hst, hnone⟩ := qUnmap_queue s ctx q 1
      exact ⟨_, exec_queueFairnessUnmap hon hq hth hfull hused hw hlow, hst, hnone, by rw [qUnmap_threads s ctx q 1 hth, cget_cset_self]⟩
    · have hy := mustYield_of (by rw [hth]; rfl) hfull hw hprio hold
      exact ⟨_, exec_queuePriorityUnmap hon hq hth hused hw hy, unmap_then_map th hne hd _ rfl⟩

end Sys2Proof.Machine
end

section
/-! The writes on their way to the host when a context takes its second link (02 R38), and O58. -/

namespace Sys2Proof.Machine

/-! ### What a zero-length read leaves on its way (02 R38, R40) -/

theorem landLink_posted (s : State) (l : Nat) : (landLink s l).posted = s.posted.filter (·.link != l) := by
  unfold landLink
  split
  · next h => exact (List.filter_eq_self.2 (List.all_eq_true.1 h)).symm
  · rfl

/-- The read on one link: the writes of that link arrive, where it has carried one of the context. -/
def landIfUsed (s : State) (ctx l : Nat) : State := if s.posted.any (fun p => p.ctx == ctx && p.link == l) then landLink s l else s

theorem landCtx_eq (s : State) (ctx : Nat) : landCtx s ctx = landIfUsed (landIfUsed s ctx 0) ctx 1 := rfl

theorem mem_landIfUsed_posted (s : State) (ctx l : Nat) (p : Posted) : p ∈ (landIfUsed s ctx l).posted ↔
    p ∈ s.posted ∧ (p.link = l → ∀ r ∈ s.posted, r.link = l → r.ctx ≠ ctx) := by
  unfold landIfUsed
  by_cases h : ∃ r ∈ s.posted, r.ctx = ctx ∧ r.link = l
  · obtain ⟨r, hr, hctx, hl⟩ := h
    rw [if_pos (List.any_eq_true.2 ⟨r, hr, by simp [hctx, hl]⟩), landLink_posted]
    simp only [List.mem_filter, bne_iff_ne, and_congr_right_iff]
    exact fun _ => ⟨fun hne he => absurd he hne, fun hno he => hno he r hr hl hctx⟩
  · rw [if_neg (by simpa using h)]
    simp only [iff_self_and]
    exact fun _ _ r hr hl hctx => h ⟨r, hr, hctx, hl⟩

/-- A write is still on its way after the reads exactly where it was before and its link, if it is one of the two, has carried none of
the context's. -/
theorem mem_landCtx_posted (s : State) (ctx : Nat) (p : Posted) : p ∈ (landCtx s ctx).posted ↔
    p ∈ s.posted ∧ (p.link < 2 → ∀ r ∈ s.posted, r.link = p.link → r.ctx ≠ ctx) := by
  simp only [landCtx_eq, mem_landIfUsed_posted]
  constructor
  · rintro ⟨⟨hp, h0⟩, h1⟩
    refine ⟨hp, fun h2 r hr hl => ?_⟩
    by_cases hz : p.link = 0
    · exact h0 hz r hr (hl.trans hz)
    · have ho : p.link = 1 := by omega
      exact h1 ho r ⟨hr, by omega⟩ (hl.trans ho)
  · rintro ⟨hp, h⟩
    exact ⟨⟨hp, fun h0 r hr hl => h (by omega) r hr (by omega)⟩, fun h1 r hr hl => h (by omega) r hr.1 (by omega)⟩

/-! ### The second link of a context that has started -/

/-- A write of context 0 on its way over a link that the chip does not have. -/
def strayWrite : Posted := { ctx := 0, link := 2, key := 0, bytes := [] }

/-- Context 0 has started over link 0, both links are up, and the stray write is on its way. -/
def startedWithStrayWrite : State := { ctxs := [(0, { bound0 := true, started := true })], posted := [strayWrite] }

/-- Binding the other endpoint turns the context to two-link mode, and the write is still on its way. -/
theorem hqPairBind_startedWithStrayWrite {t : State} (h : exec (.hqPairBind 0 1) startedWithStrayWrite = .next t) :
    strayWrite ∈ t.posted := by
  cases h
  have h2 : strayWrite ∈ (landCtx (startedWithStrayWrite.updCtx 0 (fun c => { c with bound1 := true })) 0).posted :=
    (mem_landCtx_posted _ _ _).2 ⟨List.mem_singleton.2 rfl, fun h => absurd h (by decide)⟩
  exact h2

/-- Refutes O58: of its clause on a context that has started and takes its second link, no write of the context is on its way afterwards, only where
every write on its way goes over one of the chip's two links (`mem_landCtx_posted`). The statement is of every state, and asks nothing of the
links that writes on their way name: a write that names a third one stays. -/
theorem not_hostWritesTakeEffect : ¬ Obligations.HostWritesTakeEffect := by
  unfold Obligations.HostWritesTakeEffect Sys2Proof.Claims.To
  rintro ⟨hhost, -⟩
  obtain ⟨-, -, -, -, -, -, -, -, hbind, -⟩ := hhost startedWithStrayWrite 0 rfl
  obtain ⟨t, he, -, -, hnone⟩ := hbind _ rfl rfl rfl rfl rfl rfl rfl
  exact hnone strayWrite (hqPairBind_startedWithStrayWrite he) rfl

end Sys2Proof.Machine
end

section
/-! SUPPORT. Packets (03 R64, R67 to R70): what a packet that may act leaves in its queue, and the control packets, one lemma for each way a
packet acts. -/

namespace Sys2Proof.Machine

variable {s : State} {th op : Nat} {inside : Bool} {p : Pkt}

/-! ### A packet that may act -/

theorem pktRun_next {act : Pkt → State} {t : State} (h : pktBegin s th op inside = .ok p) (ht : act p = t) :
    pktRun s th op act inside = .next (threadSpends t th) := by
  simp only [pktRun, h, ht]

theorem pktStep_next {act : Pkt → State} {t : State} (h : pktBegin s th op inside = .ok p) (ht : act p = t) :
    pktStep s th op act inside = .next t := by
  simp only [pktStep, h, ht]

/-! ### What a packet leaves in its queue -/

@[simp] theorem Pkt.upd_queue (p : Pkt) (s : State) (f : Queue → Queue) : p.queue (p.upd s f) = f (p.queue s) := updQueue_queue _ _ _

/-- Counting a thread's cycles changes no queue. -/
@[simp] theorem threadSpends_queue (p : Pkt) (s : State) (th : Nat) : p.queue (threadSpends s th) = p.queue s := rfl

theorem Pkt.qStatus_settled (p : Pkt) (s : State) (st : Nat) :
    (p.queue (qStatus s p.ctx p.q st)).settled = { (p.queue s).settled with st := st } := Machine.qStatus_settled s p.ctx p.q st

theorem Pkt.qPut_settled (p : Pkt) (s : State) (off : Nat) (bs : List Byte) :
    (p.queue (qPut s p.ctx p.q off bs)).settled = (p.queue s).settled := settled_of_scriptor (qPut_scriptor _ _ _ _ _) _

/-- A queue that goes on at a position is mapped and in the middle of nothing; in a called buffer it fetches there next. -/
theorem pktTo_settled (p : Pkt) (s : State) (pos : Nat) : (p.queue (pktTo p s pos)).settled =
    { (p.queue s).settled with st := 2, prol := none, used := none, scanIf := false, blocked := false, watch := none,
                               fetch := if (p.queue s).calls = [] then (p.queue s).fetch else pos } := by
  unfold pktTo
  dsimp only
  rw [Pkt.qStatus_settled]
  by_cases h : (p.queue s).calls = []
  · rw [if_pos (by rw [Pkt.upd_queue, h]; rfl), if_pos h, Pkt.qPut_settled, Pkt.upd_queue]
    rfl
  · rw [if_neg (by rw [Pkt.upd_queue]; simpa using h), if_neg h, Pkt.upd_queue, Pkt.upd_queue]
    rfl

/-- Where a packet leaves its queue, field by field (R64). -/
theorem pktTo_queue (p : Pkt) (s : State) (pos : Nat) (k : Queue) (hk : k = (pktTo p s pos).queue (queueKey p.ctx p.q)) :
    k.st = 2 ∧ k.prol = none ∧ k.used = none ∧ k.blocked = false ∧ k.loops = (p.queue s).loops ∧ k.calls = (p.queue s).calls ∧
      k.conds = (p.queue s).conds ∧ k.work = (p.queue s).work ∧ ((p.queue s).calls ≠ [] → k.fetch = pos) := by
  have h := pktTo_settled p s pos
  subst hk
  exact ⟨congrArg Queue.st h, congrArg Queue.prol h, congrArg Queue.used h, congrArg Queue.blocked h, (congrArg Queue.loops h :),
    (congrArg Queue.calls h :), (congrArg Queue.conds h :), (congrArg Queue.work h :), fun hc => (congrArg Queue.fetch h).trans (if_neg hc)⟩

/-! ### Control packets (R68) -/

theorem exec_pktNop (h : pktBegin s th 0x00 = .ok p) : exec (.pktNop th) s = .next (threadSpends (pktTo p p.s p.next) th) :=
  pktRun_next h rfl

theorem exec_pktLoop_enters (h : pktBegin s th 0x06 = .ok p) (hn : field p.body 0 4 ≠ 0) (hl : (p.queue p.s).loops.length < 4) :
    exec (.pktLoop th) s =
      .next (threadSpends (pktTo p (p.upd p.s (fun k => { k with loops := (field p.body 0 4, p.next) :: k.loops })) p.next) th) :=
  pktRun_next h ((if_neg hn).trans (if_neg (Nat.not_le.2 hl)))

theorem exec_pktLoop_skips {s1 : State} {pos : Nat} (h : pktBegin s th 0x06 = .ok p) (hn : field p.body 0 4 = 0)
    (hscan : pktScan p p.s 0x06 0x07 none = (s1, .found pos op)) : exec (.pktLoop th) s = .next (threadSpends (pktTo p s1 pos) th) :=
  pktRun_next h ((if_pos hn).trans (by rw [hscan]))

theorem exec_pktEndloop {n pos : Nat} {r : List (Nat × Nat)} (h : pktBegin s th 0x07 = .ok p) (hl : (p.queue p.s).loops = (n, pos) :: r) :
    exec (.pktEndloop th) s = .next (threadSpends (if 1 < n then pktTo p (p.upd p.s (fun k => { k with loops := (n - 1, pos) :: r })) pos
      else pktTo p (p.upd p.s (fun k => { k with loops := r })) p.next) th) :=
  pktRun_next h (by rw [hl]; rfl)

/-- An IF that has not been evaluated yet, with room for its outcome, and whose comparison holds. -/
theorem exec_pktIf_true {s1 : State} {line : Option Nat} (h : pktBegin s th 0x08 = .ok p) (hlen : (p.queue p.s).conds.length < 8)
    (hscan : (p.queue p.s).scanIf = false) (hcond : pktCond p p.s = (s1, .ok (true, line))) : exec (.pktIf th) s =
      .next (threadSpends (pktTo p (p.upd s1 (fun k => { k with conds := true :: k.conds })) p.next) th) :=
  pktRun_next h (by dsimp only; rw [if_neg (Nat.not_le.2 hlen), hscan, if_neg Bool.false_ne_true, hcond]; rfl)

/-- One whose comparison fails goes on behind its ELSE, its outcome noted, or behind its ENDIF. -/
theorem exec_pktIf_false {s1 s2 : State} {line : Option Nat} {pos : Nat} (h : pktBegin s th 0x08 = .ok p)
    (hlen : (p.queue p.s).conds.length < 8) (hscan : (p.queue p.s).scanIf = false) (hcond : pktCond p p.s = (s1, .ok (false, line)))
    (hfound : pktScan p s1 0x08 0x0A (some 0x09) = (s2, .found pos op)) : exec (.pktIf th) s =
      .next (threadSpends (pktTo p (if op = 0x09 then p.upd s2 (fun k => { k with conds := false :: k.conds }) else s2) pos) th) :=
  pktRun_next h (by dsimp only; rw [if_neg (Nat.not_le.2 hlen), hscan, if_neg Bool.false_ne_true, hcond]; dsimp only; rw [hfound])

theorem exec_pktElse {s1 : State} {pos : Nat} {r : List Bool} (h : pktBegin s th 0x09 = .ok p) (hc : (p.queue p.s).conds = true :: r)
    (hfound : pktScan p p.s 0x08 0x0A none = (s1, .found pos op)) :
    exec (.pktElse th) s = .next (threadSpends (pktTo p (p.upd s1 (fun k => { k with conds := r })) pos) th) :=
  pktRun_next h (by rw [hc]; dsimp only; rw [hfound])

theorem exec_pktEndif {c : Bool} {r : List Bool} (h : pktBegin s th 0x0A = .ok p) (hc : (p.queue p.s).conds = c :: r) :
    exec (.pktEndif th) s = .next (threadSpends (pktTo p (p.upd p.s (fun k => { k with conds := r })) p.next) th) :=
  pktRun_next h (by rw [hc]; rfl)

/-- A CALL keeps the position behind it and fetches in the called buffer. -/
theorem exec_pktCall (h : pktBegin s th 0x0B = .ok p) (hlen : (p.queue p.s).calls.length < 4) : ∃ t, exec (.pktCall th) s = .next t ∧
    (p.queue t).calls = p.next :: (p.queue p.s).calls ∧ (p.queue t).fetch = p.w 0 ∧ (p.queue t).st = 2 := by
  obtain ⟨hst, -, -, -, -, hcalls, -⟩ := pktTo_queue p p.s p.next _ rfl
  have hrun : exec (.pktCall th) s =
      .next (threadSpends (p.upd (pktTo p p.s p.next) (fun k => { k with calls := p.next :: k.calls, fetch := p.w 0 })) th) :=
    pktRun_next h (if_neg (Nat.not_le.2 hlen))
  refine ⟨_, hrun, ?_⟩
  rw [threadSpends_queue, Pkt.upd_queue]
  exact ⟨congrArg (p.next :: ·) hcalls, rfl, hst⟩

theorem exec_pktReturn {a : Nat} {r : List Nat} (h : pktBegin s th 0x0C = .ok p) (hc : (p.queue p.s).calls = a :: r) :
    exec (.pktReturn th) s = .next (threadSpends (pktTo p (p.upd p.s (fun k => { k with calls := r, fetch := 0 })) a) th) :=
  pktRun_next h (by rw [hc])

/-- A JUMP in a called buffer goes on at its address; in the ring it faults the queue. -/
theorem exec_pktJump (h : pktBegin s th 0x0D = .ok p) : exec (.pktJump th) s =
    .next (threadSpends (if p.ring then qFault p.s p.ctx p.q 0x05 else pktTo p p.s (p.w 0)) th) :=
  pktRun_next h rfl

theorem exec_pktReservedOpcode (h : pktHeader s th false = .ok (p, op)) (hop : op = 3 ∨ 0x14 ≤ op) :
    exec (.pktReservedOpcode th) s = .next (qFault p.s p.ctx p.q 0x01) := by
  have hr : pktReserved op = true := by simpa [pktReserved] using hop
  simp only [exec, execPktReservedOpcode, h, hr, if_true, pktFault]

end Sys2Proof.Machine
end

section
/-! SUPPORT. Waiting, signalling and units of work (03 R67 to R69, 05 R104, 06 R116, 10 R200). -/

namespace Sys2Proof.Machine

variable {s s1 : State} {th : Nat} {p : Pkt}

/-! ### Waiting and signalling (R68, R69) -/

/-- What satisfied a WAITMEM everyone sees from then on (R69). -/
theorem waitmemMet_placed {s2 : State} {pl : Place} (h : placeVa s1 (hubAgent p.ctx 5) .engR (p.w 0) = (s2, .ok pl)) :
    waitmemMet p s1 = pktTo p (s2.unhide pl (if bitN p.flags 2 then 8 else 4)) p.next := by
  simp only [waitmemMet, h, pktDone]

theorem exec_pktWaitmem_met {s2 : State} {line : Option Nat} {pl : Place} (h : pktBegin s th 0x04 = .ok p)
    (hcond : pktCond p p.s = (s1, .ok (true, line))) (hpl : placeVa s1 (hubAgent p.ctx 5) .engR (p.w 0) = (s2, .ok pl)) :
    exec (.pktWaitmem th) s = .next (threadSpends (pktTo p (s2.unhide pl (if bitN p.flags 2 then 8 else 4)) p.next) th) :=
  pktRun_next h (by rw [hcond]; exact waitmemMet_placed hpl)

/-- A queue that a WAITMEM blocks watches the line that it read. -/
theorem exec_pktWaitmem_blocks {line : Option Nat} (h : pktBegin s th 0x04 = .ok p) (hcond : pktCond p p.s = (s1, .ok (false, line))) :
    ∃ t, exec (.pktWaitmem th) s = .next t ∧ (p.queue t).blocked = true ∧ (p.queue t).watch = line ∧ (p.queue t).st = 3 := by
  have hq := p.qStatus_settled (p.upd s1 (fun k => { k with blocked := true, watch := line, lineChanged := false })) 3
  rw [Pkt.upd_queue] at hq
  exact ⟨_, pktRun_next h (by rw [hcond]), congrArg Queue.blocked hq, congrArg Queue.watch hq, congrArg Queue.st hq⟩

theorem waitmemAgain_met {s2 : State} {line : Option Nat} {pl : Place} (h : pktBegin s th 0x04 true = .ok p)
    (hcond : pktCond p p.s = (s1, .ok (true, line))) (hpl : placeVa s1 (hubAgent p.ctx 5) .engR (p.w 0) = (s2, .ok pl)) :
    waitmemAgain s th = .next (threadSpends (pktTo p (s2.unhide pl (if bitN p.flags 2 then 8 else 4)) p.next) th) :=
  pktRun_next h (by rw [hcond]; exact waitmemMet_placed hpl)

/-- A blocked WAITMEM is evaluated again where its line has changed, or, where it watches none, when it is polled. -/
theorem exec_waitmemLineChange (hb : (threadQueue s th).blocked = true) (hc : (threadQueue s th).lineChanged = true) :
    exec (.waitmemLineChange th) s = waitmemAgain s th := by
  simp [exec, execWaitmemLineChange, hb, hc]

theorem exec_waitmemHostPoll (hb : (threadQueue s th).blocked = true) (hw : (threadQueue s th).watch = none) :
    exec (.waitmemHostPoll th) s = waitmemAgain s th := by
  simp [exec, execWaitmemHostPoll, hb, hw]

/-- A SIGNAL flushes what came before it, over the links too where its word is the host's, then writes its word or adds to it (R69). -/
theorem exec_pktSignal {pl : Place} {f g : State} (h : pktBegin s th 0x05 = .ok p) (hal : p.w 0 % 8 = 0)
    (hpl : placeVa p.s (hubAgent p.ctx 5) (if bitN p.flags 1 then .fabA else .engW) (p.w 0) = (s1, .ok pl))
    (hf : f = (if pl.host = true then landCtx (s1.flush p.ctx) p.ctx else s1.flush p.ctx))
    (hg : g = shareWrite f 512 p.ctx pl (leBytes 8 (if bitN p.flags 1 then (ofLE (readPlace f pl 8).1 + p.w 1) % 2 ^ 64 else p.w 1))
      (bitN p.flags 1 && (readPlace f pl 8).2)) :
    exec (.pktSignal th) s = .next (threadSpends (pktTo p (if bitN p.flags 0 then g.raise p.ctx (bitsN p.flags 8 6) else g) p.next) th) := by
  refine pktRun_next h ?_
  subst hf hg
  dsimp only
  rw [if_neg (fun hne => hne hal), hpl]
  cases pl with
  | phys k => simp only [pktDone, Place.host, beq_iff_eq]
  | _ => rfl

theorem exec_pktFence (h : pktBegin s th 0x13 = .ok p) : exec (.pktFence th) s =
    .next (threadSpends (pktTo p (if bitN p.flags 0 then p.s.flush p.ctx else p.s) p.next) th) :=
  pktRun_next h rfl

/-! ### Units of work -/

/-- A launch that is accepted is work of its queue while it is live. -/
theorem pktAccept_accepted {id : Nat} {r : List Byte} {s : State} (h : acceptLaunch s p.ctx (lrecOf r) (.queue p.q) 0 = (s1, some id)) :
    pktAccept p s r = (if (s1.launch id).live then p.upd s1 (fun k => { k with work := k.work ++ [.launch id] }) else s1, true) := by
  simp only [pktAccept, h, pktWork]

theorem exec_pktLaunch {id : Nat} (h : pktBegin s th 0x01 = .ok p)
    (ha : acceptLaunch p.s p.ctx (lrecOf p.body) (.queue p.q) 0 = (s1, some id)) : exec (.pktLaunch th) s =
      .next (threadSpends (pktTo p (if (s1.launch id).live then p.upd s1 (fun k => { k with work := k.work ++ [.launch id] }) else s1) p.next) th) :=
  pktRun_next h (by rw [pktAccept_accepted ha]; rfl)

theorem exec_pktCopy_empty (h : pktBegin s th 0x0E = .ok p) (hn : p.w 2 = 0) :
    exec (.pktCopy th) s = .next (threadSpends (pktTo p p.s p.next) th) :=
  pktRun_next h (if_pos hn)

theorem exec_pktCopy {s2 : State} {a b : List (Nat × Place × Nat)} (h : pktBegin s th 0x0E = .ok p) (hn : p.w 2 ≠ 0)
    (ha : placesOf p.s (hubAgent p.ctx 5) .engR (piecesOf (p.w 0) (p.w 2)) = (s1, .ok a))
    (hb : placesOf s1 (hubAgent p.ctx 5) .engW (piecesOf (p.w 1) (p.w 2)) = (s2, .ok b)) :
    exec (.pktCopy th) s = .next (threadSpends (pktTo p
      (p.upd s2 (fun k => { k with work := k.work ++ [.copy (p.w 0) (p.w 1) (p.w 2) p.d.rptr] })) p.next) th) :=
  pktRun_next h ((if_neg hn).trans (by rw [ha]; dsimp only; rw [hb]; rfl))

theorem exec_pktDxRun {bs : List Byte} {i : Nat} (h : pktBegin s th 0x10 = .ok p) (hal : p.w 0 % 64 = 0)
    (hread : hubRead p.s p.ctx (p.w 0) 192 = (s1, some bs)) (hok : doneRecOk s1 p.ctx bs = true) (hfree : freeHandle s1 p.ctx = some i) :
    exec (.pktDxRun th) s = .next (threadSpends (pktTo p (p.upd (dxStart s1 p.ctx i bs (bitsN p.flags 0 3) none)
      (fun k => { k with work := k.work ++ [.run i] })) p.next) th) := by
  refine pktRun_next h ?_
  simp only [hal, hread, hok, hfree]
  rfl

theorem exec_pktInval (h : pktBegin s th 0x11 = .ok p) : exec (.pktInval th) s =
    .next (threadSpends (pktTo p (performPending (invalidate p.s p.ctx (fun h => bitN p.flags 0 || h.inRange (p.w 0) (p.w 1))) p.ctx
      (fun h => bitN p.flags 0 || h.inRange (p.w 0) (p.w 1))) p.next) th) :=
  pktRun_next h rfl

theorem exec_pktReplay (h : pktBegin s th 0x12 = .ok p) :
    exec (.pktReplay th) s = .next (threadSpends (frReplay (pktTo p p.s p.next) p.ctx (p.w 0)) th) :=
  pktRun_next h rfl

/-- A graph that is sealed already is submitted as its header and its records stand. -/
theorem exec_pktGraphSubmit_sealed {s2 : State} {hd bs : List Byte} (h : pktBegin s th 0x0F = .ok p)
    (hhead : hubRead p.s p.ctx (p.w 0) 64 = (s1, some hd)) (hsealed : field hd 14 1 = 1)
    (hrecs : hubRead s1 p.ctx (field hd 0 8) (64 * field hd 8 4) = (s2, some bs)) :
    exec (.pktGraphSubmit th) s = .next (threadSpends (submitGraph p s2 (p.w 0) hd (recordsOf bs (field hd 8 4))) th) := by
  refine pktRun_next h ?_
  simp [hhead, hsealed, hrecs]

end Sys2Proof.Machine
end

section
/-! SUPPORT. A LAUNCH.IND's prologue (03 R70): its routine's instructions, some at a time, and what comes of an invocation. -/

namespace Sys2Proof.Machine

variable {s : State} {th n : Nat} {p : Pkt} {x y : RvState} {waits : List Nat}

/-- A routine that is stopped has used up its 65,536 cycles. -/
theorem rvRun_stopped_cycles (ctx : Nat) (h : rvRun th ctx waits x = .stopped y) : y.cycles = 65536 := by
  induction waits generalizing x with
  | nil => cases h
  | cons w r ih =>
    unfold rvRun at h
    split at h
    · cases h; rfl
    · dsimp only at h
      split at h
      · cases h
      · split at h
        · cases h
        · split at h
          · cases h
          · exact ih h

/-- A prologue runs on from where it stands. -/
theorem prologueGo_stands (hx : Sys2Proof.Claims.Stands p th n x) (waits : List Nat) :
    prologueGo p th n ⟨waits⟩ = (x.before, rvRun th p.ctx waits x) := by
  rcases hx with ⟨c, hused, rfl⟩ | ⟨hused, rfl⟩
  · simp only [prologueGo, hused]
  · simp only [prologueGo, hused, prologueStart]

/-! ### What comes of an invocation's instructions -/

theorem prologueRun_going (hx : Sys2Proof.Claims.Stands p th n x) (hr : rvRun th p.ctx waits x = .going y) : prologueRun p th n ⟨waits⟩ =
    p.upd (prologueLeaves th x.before y) (fun k => { k with prol := some n, used := some y.cycles }) := by
  simp only [prologueRun, prologueGo_stands hx, hr]

theorem prologueRun_returned (hx : Sys2Proof.Claims.Stands p th n x) (hr : rvRun th p.ctx waits x = .returned y) :
    prologueRun p th n ⟨waits⟩ = prologueEnd p n (cget 0 y.s.threadReg (th * 32 + 10)) (prologueLeaves th x.before y) := by
  simp only [prologueRun, prologueGo_stands hx, hr]
  rfl

theorem prologueRun_trapped (hx : Sys2Proof.Claims.Stands p th n x) (hr : rvRun th p.ctx waits x = .trapped y) :
    prologueRun p th n ⟨waits⟩ = qFault (prologueLeaves th x.before y) p.ctx p.q 0x0A := by
  simp only [prologueRun, prologueGo_stands hx, hr, pktFault]

theorem prologueRun_stopped (hx : Sys2Proof.Claims.Stands p th n x) (hr : rvRun th p.ctx waits x = .stopped y) :
    prologueRun p th n ⟨waits⟩ = qFault (prologueLeaves th x.before y) p.ctx p.q 0x08 := by
  simp only [prologueRun, prologueGo_stands hx, hr, pktFault]

/-- Code 1 launches nothing, and the packet is complete. -/
theorem prologueEnd_one (p : Pkt) (n : Nat) (s : State) : prologueEnd p n 1 s = pktTo p s p.next := if_pos rfl

theorem prologueEnd_above {code : W64} (h : 2 < code.toNat) (s : State) : prologueEnd p n code s = qFault s p.ctx p.q 0x09 := by
  have h1 : code ≠ 1 := by rintro rfl; exact absurd h (by decide)
  simp only [prologueEnd, if_neg h1, if_pos h, pktFault]

/-- Code 0 launches the record and ends the packet; code 2 launches it and asks for the next invocation. -/
theorem prologueEnd_launches {code : W64} {s s4 s5 : State} {r : List Byte} {id : Nat} (hcode : code = 0 ∨ code = 2)
    (hread : hubRead s p.ctx (p.w 1) 64 = (s4, some r)) (ha : acceptLaunch s4 p.ctx (lrecOf r) (.queue p.q) 0 = (s5, some id)) {s6 : State}
    (hs6 : s6 = (if (s5.launch id).live then p.upd s5 (fun k => { k with work := k.work ++ [.launch id] }) else s5)) :
    prologueEnd p n code s = if code = 0 then pktTo p s6 p.next else p.upd s6 (fun k => { k with prol := some (n + 1), used := none }) := by
  have h1 : code ≠ 1 := by rcases hcode with rfl | rfl <;> decide
  have h2 : ¬ 2 < code.toNat := by rcases hcode with rfl | rfl <;> decide
  simp only [prologueEnd, if_neg h1, if_neg h2, hread, pktAccept_accepted ha, pktDone, hs6]

/-! ### The instructions -/

/-- A LAUNCH.IND begins invocation 0; a reinvocation goes on with the one in progress, or begins the next. -/
theorem exec_prologue {inside : Bool} {i : Prologue → Instr} (hi : inside = false ∧ n = 0 ∧ i = .pktLaunchInd th ∨
      inside = true ∧ (threadQueue s th).prol = some n ∧ i = .prologueReinvoke th)
    (h : pktBegin s th 0x02 inside = .ok p) (waits : List Nat) : exec (i ⟨waits⟩) s = .next (prologueRun p th n ⟨waits⟩) := by
  rcases hi with ⟨rfl, rfl, rfl⟩ | ⟨rfl, hprol, rfl⟩
  · exact pktStep_next h rfl
  · simp only [exec, execPrologueReinvoke, hprol]
    exact pktStep_next h rfl

theorem exec_prologueBudgetExpiry (hprol : (threadQueue s th).prol = some n) (h : pktBegin s th 0x02 true = .ok p)
    (hx : Sys2Proof.Claims.Stands p th n x) (hr : rvRun th p.ctx waits x = .stopped y) :
    exec (.prologueBudgetExpiry th ⟨waits⟩) s = .next (qFault (prologueLeaves th x.before y) p.ctx p.q 0x08) := by
  simp only [exec, execPrologueBudgetExpiry, hprol]
  exact pktStep_next h (by simp only [prologueGo_stands hx, hr, pktFault])

end Sys2Proof.Machine
end

section
/-! A COPY's bytes (03 R67), and O55. -/

namespace Sys2Proof.Machine

/-! ### A copy that is the first of its queue's work -/

/-- The first copy of a list of work, where it is the first of all work. -/
theorem setCopy_head (w : Option Work) (src dst n idx : Nat) (rest : List Work) :
    setCopy w (.copy src dst n idx :: rest) = w.toList ++ rest := by
  cases w <;> rfl

/-- Ranges apart: a free number of bytes moves, and the copy goes on with the others, or is complete. -/
theorem exec_copyPacketComplete_part {s : State} {ctx q src dst n idx : Nat} {rest : List Work}
    (hw : (s.queue (queueKey ctx q)).work = .copy src dst n idx :: rest) (hrun : ctxRuns s ctx = true) (hq : q < 512)
    (hapart : ¬ (src < dst + n ∧ dst < src + n)) {k : Nat} (hk : k = Config.choice s.draw.1 % n + 1) {s1 : State}
    (hcopy : copyBytes s.draw.2 ctx src dst k = (s1, true)) : exec (.copyPacketComplete ctx q) s = .next (s1.updQueue (queueKey ctx q)
      (fun x => { x with work := setCopy (if k < n then some (.copy (src + k) (dst + k) (n - k) idx) else none) x.work })) := by
  have hq' : ¬ 512 ≤ q := by omega
  subst hk
  simp [exec, execCopyPacketComplete, hw, hrun, hq', hapart, hcopy]

/-- Ranges that overlap: the destination is free bytes at once, and the copy is complete. -/
theorem exec_copyPacketComplete_overlap {s : State} {ctx q src dst n idx : Nat} {rest : List Work}
    (hw : (s.queue (queueKey ctx q)).work = .copy src dst n idx :: rest) (hrun : ctxRuns s ctx = true) (hq : q < 512)
    (hover : src < dst + n ∧ dst < src + n) {s1 : State}
    (hwrite : writeVa s.draw.2 (hubAgent ctx 5) .engW dst ((List.range n).map (Config.undefByte s.draw.1)) = (s1, .ok ())) :
    exec (.copyPacketComplete ctx q) s = .next (s1.updQueue (queueKey ctx q) (fun x => { x with work := setCopy none x.work })) := by
  have hq' : ¬ 512 ≤ q := by omega
  simp [exec, execCopyPacketComplete, hw, hrun, hq', hover, hwrite]

/-- What Scriptor holds of a queue is no byte of memory. -/
theorem byteAt_updQueue (s : State) (i : Nat) (f : Queue → Queue) (x : Place) : byteAt (s.updQueue i f) x = byteAt s x := by
  cases x <;> rfl

/-! ### Packets -/

/-- Settles O55: each packet that may act is one call of its action, which its premises follow down one path (one lemma `exec_` for each), and the
queue that it leaves is what `pktTo` leaves, whose accesses to the descriptor change nothing else of it. -/
theorem packetsActInOrder : Obligations.PacketsActInOrder := by
  unfold Obligations.PacketsActInOrder Sys2Proof.Claims.To
  refine ⟨pktTo_queue, ?packets, ?copyParts⟩
  case packets =>
    rintro s th p k rfl
    refine ⟨exec_pktNop, ?loop, ?endloop, ?if_, fun h r s1 pos op => exec_pktElse h, fun h c r => exec_pktEndif h, exec_pktCall,
      fun h a r => exec_pktReturn h, ?jumpBuffer, ?jumpRing, fun op => exec_pktReservedOpcode, ?waitmem, ?waitmemAgain,
      fun h hal s1 pl hpl f g => exec_pktSignal h hal hpl, exec_pktFence, fun h s1 id => exec_pktLaunch h, ?prologue,
      fun n x y waits => exec_prologueBudgetExpiry, fun h => ⟨exec_pktCopy_empty h, fun s1 s2 a b => exec_pktCopy h⟩,
      fun h s1 bs i => exec_pktDxRun h, ?inval, exec_pktReplay, fun h s1 s2 hd bs => exec_pktGraphSubmit_sealed h⟩
    case loop =>
      rintro h n rfl
      exact ⟨exec_pktLoop_enters h, fun s1 pos op => exec_pktLoop_skips h⟩
    case endloop =>
      intro h n pos r hl
      rw [exec_pktEndloop h hl]
      exact ⟨fun hlt => by rw [if_pos hlt], fun hle => by rw [if_neg (Nat.not_lt.2 hle)]⟩
    case if_ =>
      intro h hlen hscan s1 line
      refine ⟨exec_pktIf_true h hlen hscan, fun s2 pos hc hfound => ?_, fun s2 pos hc hfound => ?_⟩ <;>
        rw [exec_pktIf_false h hlen hscan hc hfound]
      · rw [if_neg (by decide)]
      · rw [if_pos rfl]
    case jumpBuffer => exact fun h hring => by rw [exec_pktJump h, hring]; rfl
    case jumpRing => exact fun h hring => by rw [exec_pktJump h, hring]; rfl
    case waitmem => exact fun h s1 line => ⟨fun s2 pl => exec_pktWaitmem_met h, exec_pktWaitmem_blocks h⟩
    case waitmemAgain =>
      intro h hb s1 s2 pl line hcond hpl i hi hagain
      have hmet := waitmemAgain_met h hcond hpl
      simp only [List.mem_cons, List.not_mem_nil, or_false] at hi
      rcases hi with rfl | rfl
      · exact (exec_waitmemLineChange hb hagain).trans hmet
      · exact (exec_waitmemHostPoll hb hagain).trans hmet
    case prologue =>
      intro inside n i hi h x y waits hx
      rw [exec_prologue hi h]
      refine ⟨fun hr => ?_, fun hr hcode => ?_, fun code s4 r s5 id s6 hr hc hcode hread ha hs6 => ?_, fun hr hcode => ?_, fun hr => ?_,
        fun hr => ⟨?_, rvRun_stopped_cycles p.ctx hr⟩⟩
      · rw [prologueRun_going hx hr]
      · rw [prologueRun_returned hx hr, hcode, prologueEnd_one]
      · rw [prologueRun_returned hx hr, ← hc, prologueEnd_launches hcode hread ha hs6]
      · rw [prologueRun_returned hx hr, prologueEnd_above hcode]
      · rw [prologueRun_trapped hx hr]
      · rw [prologueRun_stopped hx hr]
    case inval =>
      rintro h hit rfl
      exact exec_pktInval h
  case copyParts =>
    intro s ctx q src dst n idx rest hw hrun hq
    refine ⟨fun hn hapart => ⟨Config.choice s.draw.1 % n + 1, Nat.succ_pos _, Nat.mod_lt _ (Nat.pos_of_ne_zero hn), fun s1 hcopy hw1 => ?_⟩,
      fun hsrc hdst s1 hwrite hw1 => ?_⟩
    · refine ⟨_, exec_copyPacketComplete_part hw hrun hq hapart rfl hcopy, byteAt_updQueue _ _ _, ?_⟩
      rw [updQueue_queue, hw1, setCopy_head]
      split <;> rfl
    · refine ⟨_, exec_copyPacketComplete_overlap hw hrun hq ⟨hsrc, hdst⟩ hwrite, byteAt_updQueue _ _ _, ?_⟩
      rw [updQueue_queue, hw1, setCopy_head]
      rfl

end Sys2Proof.Machine
end

section
/-! Placing a folio group, and who may get a drain reservation when it ends a launch's own (04 R84, R89), and O43. -/

namespace Sys2Proof.Machine

/-! ### A placed group ends its launch's reservation, and the next launch that waits gets one (R89) -/

/-- A launch's reservation and its timer have ended, and no reservation has been granted in their place yet. -/
def gangOver (s : State) (id : Nat) : State := s.updLaunch id (fun l => { l with reservation := none, gangDue := false })

theorem endGang_eq (s : State) (id : Nat) : endGang s id = grantGang (gangOver s id) := rfl

@[simp] theorem gangOver_reservation (s : State) (id : Nat) : ((gangOver s id).launch id).reservation = none := by
  simp [gangOver, State.updLaunch]

/-- The one launch that a grant changes is the first that waits, where fewer than 16 reservations are held and a folio can be drained. -/
theorem grantGang_reservation (s : State) (id : Nat) : ((grantGang s).launch id).reservation =
    if (reserved s).length < 16 ∧ gangFirst s = some id ∧ (drainChoice s).isSome = true then drainChoice s else (s.launch id).reservation := by
  unfold grantGang
  by_cases hroom : (reserved s).length < 16
  · cases hfirst : gangFirst s with
    | none => simp
    | some j =>
      cases hdrain : drainChoice s with
      | none => simp
      | some f =>
        by_cases hj : id = j
        · subst hj
          simp [hroom, State.updLaunch]
        · simp [hroom, State.updLaunch, hj, Ne.symm hj]
  · simp [hroom]

/-- A launch whose reservation ends is left without one exactly where it is not itself the first that waits for the next. -/
theorem endGang_reservation_none_iff (s : State) (id : Nat) : ((endGang s id).launch id).reservation = none ↔
    ¬ ((reserved (gangOver s id)).length < 16 ∧ gangFirst (gangOver s id) = some id ∧ (drainChoice (gangOver s id)).isSome = true) := by
  rw [endGang_eq, grantGang_reservation, gangOver_reservation]
  split
  · next h => simp [h, Option.isSome_iff_ne_none.1 h.2.2]
  · next h => simp [h]

/-- A group whose turn it is and which fits is placed, one crew for each core of the folio, and the wait of its launch is over (R84). -/
theorem exec_folioGroupPlace {s : State} {id g f : Nat} {ps : List Nat} (hlive : (s.launch id).live = true)
    (hfolio : (s.launch id).lrec.folio = true) (hstop : (s.launch id).stopped = false) (hctx : ctxRuns s (s.launch id).ctx = true)
    (hnext : (s.launch id).nextGroup = some g) (hturn : inTurn s (.group id g) = true) (hfits : groupFits s id f = true)
    (hat : ∀ k < 8, fitsAt s (s.launch id).lrec (8 * f + k) (ps.getD k 0 % 4) = true) : exec (.folioGroupPlace id g f ps) s =
      .next (endGang (((List.range 8).foldl (fun t k => spawn t id ((s.launch id).lrec.member g k) (8 * f + k) (ps.getD k 0 % 4)) s).updLaunch id
        (fun l => { l with groupsPlaced := l.groupsPlaced ++ [g] })) id) := by
  exact congrArg Host.Outcome.next (if_pos (by simpa [hlive, hfolio, hstop, hctx, hnext, hturn, hfits] using hat))

/-! ### A table of launches that lists a launch twice -/

/-- A folio launch of two groups, each of whose crews takes all the scratch of its core. -/
def scratchGang : Launch := { live := true, lrec := { gx := 16, flags := 4, scratch := 1048576 } }

/-- Folio 0 alone is usable. The launch's number stands in the table a second time, with a timer that has run out. -/
def gangListedTwice : State :=
  { launches := [(0, scratchGang), (0, { gangDue := true })], fused := (List.range 63).map (fun f => 8 * (f + 1)) }

/-- The first group of the launch fills folio 0. -/
def gangHalfPlaced : State :=
  ((List.range 8).foldl (fun t k => spawn t 0 (scratchGang.lrec.member 0 k) (8 * 0 + k) 0) gangListedTwice).updLaunch 0
    (fun l => { l with groupsPlaced := l.groupsPlaced ++ [0] })

theorem inTurn_gangListedTwice : inTurn gangListedTwice (.group 0 0) = true := by decide
theorem groupFits_gangListedTwice : groupFits gangListedTwice 0 0 = true := by decide
theorem fitsAt_gangListedTwice : ∀ k < 8, fitsAt gangListedTwice scratchGang.lrec (8 * 0 + k) 0 = true := by decide

theorem exec_folioGroupPlace_gangListedTwice :
    exec (.folioGroupPlace 0 0 0 []) gangListedTwice = .next (endGang gangHalfPlaced 0) :=
  exec_folioGroupPlace rfl rfl rfl rfl rfl inTurn_gangListedTwice groupFits_gangListedTwice fitsAt_gangListedTwice

/-- Its second group waits, and the second entry's timer makes it the first that does: it gets the reservation of folio 0. -/
theorem gangFirst_gangHalfPlaced : gangFirst (gangOver gangHalfPlaced 0) = some 0 := by decide
theorem drainChoice_gangHalfPlaced : drainChoice (gangOver gangHalfPlaced 0) = some 0 := by decide
theorem reserved_gangHalfPlaced : reserved (gangOver gangHalfPlaced 0) = [] := by decide

/-! ### The launch unit -/

/-- Refutes O43: of its clause on a folio group that is placed, the launch is left without a reservation only where it is not itself the first
that waits for the next one (`endGang_reservation_none_iff`), and who waits first is asked of the entries of the table of launches. The statement
is of every state, and asks nothing of that table: where it lists the launch a second time, with a timer that has run out, and the launch's second
group finds no room, the reservation that has just ended is granted anew. -/
theorem not_launchesPlaceTheirCrews : ¬ Obligations.LaunchesPlaceTheirCrews := by
  unfold Obligations.LaunchesPlaceTheirCrews Sys2Proof.Claims.To
  rintro ⟨-, -, hgroup, -, -⟩
  obtain ⟨t, he, -, hnone, -⟩ := hgroup gangListedTwice 0 0 0 [] _ rfl rfl rfl rfl rfl rfl inTurn_gangListedTwice
    groupFits_gangListedTwice fitsAt_gangListedTwice (by decide)
  rw [exec_folioGroupPlace_gangListedTwice] at he
  cases he
  refine (endGang_reservation_none_iff _ _).1 hnone ⟨?_, gangFirst_gangHalfPlaced, ?_⟩
  · rw [reserved_gangHalfPlaced]; decide
  · rw [drainChoice_gangHalfPlaced]; rfl

end Sys2Proof.Machine
end

section
/-! SUPPORT. What no access to memory reaches, of any agent and of the hub die's units: reading, writing, translating and landing leave all of the
machine but memory itself, what caches and monitors note of it, the agents' own translations, and the contexts' notes of their writes and faults. -/

namespace Sys2Proof.Machine

/-- The machine without what an access to memory can change. -/
def State.aside (s : State) : State :=
  { s with fresh := 0, teams := [], crews := [], launches := [], cores := [], ctxs := [], queues := [], mem := [], l2 := [], through := [],
           posted := [], poison := [], stale := [], caches := {}, dies := [] }

/-- The sequencer's runs are among what no access reaches. -/
theorem runs_of_aside {s t : State} (h : t.aside = s.aside) : t.runs = s.runs := (congrArg State.runs h :)

/-! ### Bytes -/

theorem touch_aside (s : State) (line : Nat) : (s.touch line).aside = s.aside := (congrArg State.aside (touch_only s line) :)

theorem touchLines_aside (ls : List Nat) (s : State) : (ls.foldl State.touch s).aside = s.aside :=
  foldl_keeps State.touch State.aside touch_aside ls s

theorem rewrites_aside (s : State) (k n : Nat) : (s.rewrites k n).aside = s.aside := by
  unfold State.rewrites; dsimp only; split <;> rfl

theorem unhide_aside (s : State) (p : Place) (n : Nat) : (s.unhide p n).aside = s.aside := by
  unfold State.unhide; split <;> rfl

theorem putMem_aside (s : State) (k : Nat) (b : Byte) : (s.putMem k b).aside = s.aside := by
  unfold State.putMem; split <;> rfl

theorem putMemBytes_aside (bs : List Byte) (s : State) (k : Nat) : (s.putMemBytes k bs).aside = s.aside := by
  induction bs generalizing s k with
  | nil => rfl
  | cons b r ih => exact (ih _ _).trans (putMem_aside s k b)

theorem putHome_aside (s : State) (k : Nat) (b : Byte) : (s.putHome k b).aside = s.aside := putMem_aside s k b

theorem putHomeBytes_aside (bs : List Byte) (s : State) (k : Nat) : (s.putHomeBytes k bs).aside = s.aside := by
  induction bs generalizing s k with
  | nil => rfl
  | cons b r ih => exact (ih _ _).trans (putHome_aside s k b)

theorem putOverBytes_aside (bs : List Byte) (s : State) (k : Nat) : (s.putOverBytes k bs).aside = s.aside := by
  induction bs generalizing s k with
  | nil => rfl
  | cons b r ih =>
    refine (ih _ _).trans ?_
    unfold State.putOver; split <;> rfl

theorem homePut_aside (s : State) (k : Nat) (bs : List Byte) : (homePut s k bs).aside = s.aside :=
  (touchLines_aside _ _).trans ((putHomeBytes_aside bs _ k).trans (unhide_aside s _ _))

/-! ### Writes of the device -/

theorem dirtyDie_aside (s : State) (ctx die : Nat) : (s.dirtyDie ctx die).aside = s.aside := by
  unfold State.dirtyDie; split <;> rfl

theorem useL2_aside (s : State) (line hint : Nat) : (useL2 s line hint).aside = s.aside := by
  unfold useL2; split <;> rfl

theorem post_aside (s : State) (w ctx k : Nat) (bs : List Byte) : (s.post w ctx k bs).aside = s.aside := by
  unfold State.post
  split
  · exact putOverBytes_aside bs s k
  · rfl

theorem putDevBytes_aside (s : State) (w ctx k : Nat) (bs : List Byte) (hint : Nat) : (s.putDevBytes w ctx k bs hint).aside = s.aside := by
  unfold State.putDevBytes
  dsimp only
  split
  · exact post_aside s w ctx k bs
  · generalize hs : (if decide (w < 512 ∧ w / 128 ≠ keyDie k) = true then
      storeMargin (s.dirtyDie ctx (w / 128)) (w / 128) (keyLines k bs.length) else s) = s1
    have h1 : s1.aside = s.aside := by
      rw [← hs]
      split
      · exact dirtyDie_aside s ctx _
      · rfl
    refine .trans ?_ h1
    split
    · have lines := foldl_keeps (fun s l => useL2 s l (if hint = 3 then 0 else hint)) State.aside (fun s l => useL2_aside s l _)
      exact (putOverBytes_aside bs _ k).trans ((lines _ _).trans (dirtyDie_aside s1 ctx _))
    · split
      · exact putOverBytes_aside bs s1 k
      · exact putHomeBytes_aside bs s1 k

theorem putPlace_aside (s : State) (w ctx : Nat) (p : Place) (bs : List Byte) (bad : Bool) (hint : Nat) :
    (putPlace s w ctx p bs bad hint).aside = s.aside := by
  refine (touchLines_aside _ _).trans ?_
  cases p with
  | phys k => exact (putDevBytes_aside _ w ctx k bs hint).trans (rewrites_aside s k _)
  | _ => rfl

theorem seenBy_aside (s : State) (core : Nat) (p : Place) (n : Nat) : (seenBy s core p n).aside = s.aside := by
  unfold seenBy seeWords; split <;> rfl

theorem storeBad_aside (s : State) (core : Nat) (p : Place) (bs : List Byte) : (storeBad s core p bs).aside = s.aside := by
  unfold storeBad; split <;> rfl

theorem shareWrite_aside (s : State) (w ctx : Nat) (p : Place) (bs : List Byte) (bad : Bool) (hint : Nat) :
    (shareWrite s w ctx p bs bad hint).aside = s.aside := by
  have forms (n : Nat) (ps : List Place) (s : State) : (ps.foldl (fun s x => keepForm s n w x) s).aside = s.aside :=
    foldl_keeps (fun s x => keepForm s n w x) State.aside (fun _ _ => rfl) ps s
  unfold shareWrite
  generalize hs : (if w < 512 then storeBad (seenBy s w p bs.length) w p bs else s) = s1
  have h1 : s1.aside = s.aside := by
    rw [← hs]
    split
    · exact (storeBad_aside _ w p bs).trans (seenBy_aside s w p _)
    · rfl
  refine (putPlace_aside _ w ctx p bs bad hint).trans (.trans ?_ h1)
  split
  · exact forms _ _ s1.draw.2
  · rfl

/-! ### Translation -/

theorem setBits_aside (s : State) (key set : Nat) : (setBits s key set).aside = s.aside := by
  unfold setBits
  dsimp only
  split
  · rfl
  · exact (touchLines_aside _ _).trans (putMem_aside s key _)

theorem firstTouch_aside (s : State) (ctx pte key : Nat) (write : Bool) : (firstTouch s ctx pte key write).1.aside = s.aside := by
  unfold firstTouch
  dsimp only
  split
  · rfl
  · exact homePut_aside s key _

theorem walk_aside (s : State) (ctx : Nat) (spec : Bool) (acc : Acc) (va : Nat) : (walk s ctx spec acc va).1.aside = s.aside := by
  unfold walk
  split
  · rfl
  · dsimp only
    split
    · rfl
    · exact setBits_aside _ _ _
  · next e k _ =>
    have h := firstTouch_aside s ctx e k acc.writes
    split <;> next e => rw [e] at h; exact h

theorem translate_aside (s : State) (a : Agent) (acc : Acc) (va : Nat) : (translate s a acc va).1.aside = s.aside := by
  have hwalk := walk_aside s a.ctx a.spec acc va
  unfold translate
  extract_lets core useLast last part ptlb ctlb keep
  clear_value core useLast last part ptlb ctlb
  -- A translation is kept in a core or in a team, or nowhere.
  have hkeep (s : State) (h : Held) : (keep s h).aside = s.aside := by
    dsimp only [keep]
    repeat' split
    all_goals rfl
  split
  · rfl
  · split
    · exact hkeep s _
    · split
      · exact hkeep s _
      · split
        · next e => rw [e] at hwalk; exact hwalk
        · next s1 h e =>
          rw [e] at hwalk
          refine (hkeep _ h).trans (.trans ?_ hwalk)
          split <;> rfl

theorem hostLost_aside (s : State) (a : Agent) (key : Nat) : (hostLost s a key).aside = s.aside := by
  unfold hostLost
  split
  · split <;> rfl
  · rfl

theorem place_aside (s : State) (a : Agent) (acc : Acc) (va : Nat) : (place s a acc va).1.aside = s.aside := by
  have h := translate_aside s a acc va
  unfold place
  split
  · rfl
  · split
    · next e => rw [e] at h; exact (hostLost_aside _ a _).trans h
    · next e => rw [e] at h; exact h

theorem placeVa_aside (s : State) (a : Agent) (acc : Acc) (va : Nat) : (placeVa s a acc va).1.aside = s.aside := by
  have h := place_aside s a acc va
  unfold placeVa
  split <;> next e => rw [e] at h; exact h

theorem placesOf_aside (a : Agent) (acc : Acc) (ps : List (Nat × Nat)) (s : State) : (placesOf s a acc ps).1.aside = s.aside := by
  induction ps generalizing s with
  | nil => rfl
  | cons p r ih =>
    have hp := placeVa_aside s a acc p.1
    unfold placesOf
    split
    · next e => rw [e] at hp; exact hp
    · next s1 _ e =>
      rw [e] at hp
      refine .trans ?_ hp
      split
      · rfl
      · have hr := ih s1
        split <;> next e => rw [e] at hr; exact hr

/-! ### Accesses by address -/

theorem readVa_aside (s : State) (a : Agent) (acc : Acc) (va n : Nat) : (readVa s a acc va n).1.aside = s.aside := by
  have h := placesOf_aside a acc (piecesOf va n) s
  unfold readVa
  split <;> next e => rw [e] at h; exact h

theorem writePieces_aside (w ctx : Nat) (bad : Bool) (hint : Nat) (ps : List (Nat × Place × Nat)) (s : State) (bs : List Byte) :
    (writePieces s w ctx bad hint ps bs).aside = s.aside := by
  induction ps generalizing s bs with
  | nil => rfl
  | cons p r ih => exact (ih _ _).trans (shareWrite_aside s w ctx _ _ bad hint)

theorem writeVa_aside (s : State) (a : Agent) (acc : Acc) (va : Nat) (bs : List Byte) (bad : Bool) (hint : Nat) :
    (writeVa s a acc va bs bad hint).1.aside = s.aside := by
  have h := placesOf_aside a acc (piecesOf va bs.length) s
  unfold writeVa
  split
  · next e => rw [e] at h; exact h
  · next e => rw [e] at h; exact (writePieces_aside _ _ bad hint _ _ bs).trans h

theorem hubRead_aside (s : State) (ctx va n : Nat) : (hubRead s ctx va n).1.aside = s.aside := by
  have h := readVa_aside s (hubAgent ctx 5) .engR va n
  unfold hubRead
  split <;> next e => rw [e] at h; exact h

theorem hubWrite_aside (s : State) (ctx va : Nat) (bs : List Byte) : (hubWrite s ctx va bs).aside = s.aside :=
  writeVa_aside s _ _ va bs _ _

theorem decrementAt_aside (s : State) (ctx va : Nat) : (decrementAt s ctx va).aside = s.aside := by
  have h := hubRead_aside s ctx va 8
  unfold decrementAt
  split
  · next e => rw [e] at h; exact (hubWrite_aside _ ctx va _).trans h
  · next e => rw [e] at h; exact h

/-! ### Writes that land and writes that are flushed -/

theorem landLink_aside (s : State) (l : Nat) : (landLink s l).aside = s.aside := by
  have bytes (ps : List Posted) : (ps.foldl (fun s p => s.putMemBytes p.key p.bytes) s).aside = s.aside :=
    foldl_keeps (fun s (p : Posted) => s.putMemBytes p.key p.bytes) State.aside (fun s p => putMemBytes_aside p.bytes s p.key) ps s
  unfold landLink
  split
  · rfl
  · exact bytes _

theorem landCtx_aside (s : State) (ctx : Nat) : (landCtx s ctx).aside = s.aside :=
  foldl_keeps _ State.aside (fun s l => by
    split
    · exact landLink_aside s l
    · rfl) _ s

theorem beforeRecord_aside (s : State) (ctx va : Nat) : (beforeRecord s ctx va).aside = s.aside := by
  unfold beforeRecord
  split
  · exact landCtx_aside s ctx
  · rfl

theorem writeBack_aside (s : State) (out : Nat → Bool) : (s.writeBack out).aside = s.aside :=
  foldl_keeps _ State.aside (fun s e => by
    split
    · exact putHome_aside s e.1 _
    · rfl) _ s

theorem flush_aside (s : State) (ctx : Nat) : (s.flush ctx).aside = s.aside := writeBack_aside s _

end Sys2Proof.Machine
end

section
/-! The sequencer's events (06 R117 to R119, R124, R133 to R136): what each does to the run it is of. -/

namespace Sys2Proof.Machine

/-! ### A run's turn (R138) -/

theorem dxKey_eq {h : Nat} (hh : h < 64) (ctx : Nat) : dxKey ctx h = ctx * 64 + h := by
  unfold dxKey; rw [Nat.mod_eq_of_lt hh]

@[simp] theorem updCtx_ctx (s : State) (i : Nat) (f : Ctx → Ctx) : (s.updCtx i f).ctx i = f (s.ctx i) := setCtx_ctx _ _ _

/-- The context after its sequencer has served handle h. -/
def dxServed (s : State) (ctx h : Nat) : State := s.updCtx ctx (fun c => { c with dxTurn := h })

@[simp] theorem dxServed_run (s : State) (ctx h k : Nat) : (dxServed s ctx h).run k = s.run k := rfl
@[simp] theorem dxServed_peersPaused (s : State) (ctx h : Nat) : ((dxServed s ctx h).ctx ctx).peersPaused = (s.ctx ctx).peersPaused := by
  simp [dxServed]
theorem byteAt_dxServed (s : State) (ctx h : Nat) (q : Place) : byteAt (dxServed s ctx h) q = byteAt s q := by cases q <;> rfl
theorem byteAt_setRun (s : State) (k : Nat) (r : DxRun) (q : Place) : byteAt (s.setRun k r) q = byteAt s q := by cases q <;> rfl

/-- The run whose turn it is is served. -/
theorem dxServe_of_turn {s : State} {ctx h : Nat} (hh : h < 64) (hctx : ctxRuns s ctx = true) (hturn : dxTurn s ctx = some h)
    (f : State → State) : dxServe s ctx h f = f (dxServed s ctx h) := by
  simp [dxServe, hctx, hturn, Nat.mod_eq_of_lt hh, dxServed]

/-- A run that awaits something has no work of its own. -/
theorem dxGo_of_todo_ne_form {s : State} {key : Nat} (n : Nat) (combined : Bool) (h : (s.run key).todo ≠ .form) :
    dxGo n combined s key = s := by
  cases n with
  | zero => rfl
  | succ n => exact if_pos (by simp [h])

theorem dxWork_of_todo_ne_form {s : State} {key : Nat} (h : (s.run key).todo ≠ .form) : dxWork s key = s :=
  dxGo_of_todo_ne_form 64 false h

/-- Serving such a run changes, at most, whose turn is next. -/
theorem dxServe_of_todo_ne_form {s : State} {ctx h key : Nat} (hh : h < 64) (hform : (s.run key).todo ≠ .form) :
    dxServe s ctx h (dxWork · key) = s ∨ dxServe s ctx h (dxWork · key) = dxServed s ctx h := by
  unfold dxServe
  split
  · rw [Nat.mod_eq_of_lt hh]; exact .inr (dxWork_of_todo_ne_form hform)
  · exact .inl rfl

/-- At the end of an attempt that ends the run, the outcome is all that its turn gives (R124). -/
theorem dxWork_of_over {s : State} {key : Nat} {r : DxRun} (hr : r = s.run key) (hact : r.active = true) (hform : r.todo = .form)
    (hpt : r.pt = .next) (hover : (dxNext r).todo ≠ .form) : dxWork s key = s.setRun key (dxNext r) := by
  subst hr
  have hunit : (dxUnit (s.run key)).run.run s = (.ok (dxNext (s.run key)), s) := by unfold dxUnit; rw [hpt]; rfl
  have hgo : dxWork s key = dxGo 63 (false || dxCombines (s.run key)) (s.setRun key (dxNext (s.run key))) key := by
    unfold dxWork
    rw [dxGo, if_neg (by simp [hact, hform]), hunit]
  rw [hgo]
  exact dxGo_of_todo_ne_form 63 _ (by simpa using hover)

theorem exec_dxStageForm_of_over {s : State} {ctx h : Nat} {r : DxRun} (hh : h < 64) (hr : r = s.run (ctx * 64 + h))
    (hact : r.active = true) (hctx : ctxRuns s ctx = true) (hturn : dxTurn s ctx = some h) (hform : r.todo = .form) (hpt : r.pt = .next)
    (hover : (dxNext r).todo ≠ .form) : exec (.dxStageForm ctx h) s = .next ((dxServed s ctx h).setRun (ctx * 64 + h) (dxNext r)) := by
  refine congrArg Host.Outcome.next ?_
  rw [dxServe_of_turn hh hctx hturn, dxKey_eq hh]
  exact dxWork_of_over hr hact hform hpt hover

/-! ### The outcome of an attempt (R124) -/

theorem dxNext_at_end {r : DxRun} (htook : r.took = true) (hend : le64 (r.f 32 8) r.t = true) (hev : r.evLoc = []) :
    dxNext r = r.over 0 := by
  simp [dxNext, htook, hend, hev]

theorem dxNext_below_least {r : DxRun} (htook : r.took = false) (hfailed : r.failed = false) (hlt : lt64 r.hNew (r.f 48 8) = true) :
    dxNext r = r.over 3 := by
  simp [dxNext, htook, hfailed, hlt]

/-! ### The crews of an evaluation end (R119, R126, R130) -/

theorem dxCrewsEnd_of_ended {s : State} {ctx h kind id : Nat} {r : DxRun} (hh : h < 64) (hr : r = s.run (ctx * 64 + h))
    (hact : r.active = true) (hctx : ctxRuns s ctx = true) (hturn : dxTurn s ctx = some h) (hcrews : r.todo = .crews)
    (hid : r.evalLaunch = some id) (hlive : (s.launch id).liveCrews = 0) (hack : launchAcked s id = true) (hkind : r.evKind = kind) :
    dxCrewsEnd s ctx h kind =
      if (s.launch id).status ≠ 0 then
        (closeLaunch (dxServed s ctx h) id).setRun (ctx * 64 + h) ({ r with evalLaunch := none }.over 5 ((s.launch id).info % 256))
      else dxWork ((closeLaunch (dxServed s ctx h) id).setRun (ctx * 64 + h) { r with evalLaunch := none, todo := .form }) (ctx * 64 + h) := by
  subst hr
  simp [dxCrewsEnd, dxKey_eq hh, hid, hact, hcrews, hkind, hlive, hack, dxServe_of_turn hh hctx hturn]

/-! ### The end of a run (R118) -/

@[simp] theorem workDone_run (s : State) (ctx : Nat) (w : Work) (k : Nat) : (workDone s ctx w).run k = s.run k := rfl
theorem workDone_setRun_devByte (s : State) (ctx i : Nat) (r : DxRun) (w : Work) :
    (workDone (s.setRun i r) ctx w).devByte = s.devByte := devByte_congr s _ rfl rfl rfl rfl

/-- The record of a run without an evaluation under way and without a counter is written, and its handle is free. -/
theorem exec_dxRunComplete {s s1 s2 : State} {ctx h d : Nat} {r : DxRun} (hh : h < 64) (hr : r = s.run (ctx * 64 + h))
    (hact : r.active = true) (hctx : ctxRuns s ctx = true) (hfin : r.todo = .finish) (hid : r.evalLaunch = none)
    (hctr : r.f 184 4 = 0xFFFFFFFF) (hd : d = r.f 120 8) (h1 : s1 = hubWrite (beforeRecord s ctx d) ctx (d + 8) (dxRecord r))
    (h2 : s2 = if kindOfVa s1 ctx d = some 2 then landCtx (s1.flush ctx) ctx else s1) :
    exec (.dxRunComplete ctx h) s = .next (workDone ((decrementAt s2 ctx d).setRun (ctx * 64 + h)
      { r with active := false, todo := .idle, evalLaunch := none, stage := 0, newton := 0 }) ctx (.run h)) := by
  subst hr hd h1 h2
  refine congrArg Host.Outcome.next ?_
  simp [dxKey_eq hh, hact, hctx, hfin, hid, hctr, Nat.mod_eq_of_lt hh]

/-- What completion does to memory leaves every run as it is. -/
theorem runs_of_completion {s s1 s2 : State} {ctx d : Nat} {bs : List Byte} (h1 : s1 = hubWrite (beforeRecord s ctx d) ctx (d + 8) bs)
    (h2 : s2 = if kindOfVa s1 ctx d = some 2 then landCtx (s1.flush ctx) ctx else s1) : (decrementAt s2 ctx d).runs = s.runs := by
  have hs1 : s1.aside = s.aside := h1 ▸ (hubWrite_aside _ _ _ _).trans (beforeRecord_aside s ctx d)
  have hs2 : s2.aside = s1.aside := by
    rw [h2]
    split
    · exact (landCtx_aside _ ctx).trans (flush_aside s1 ctx)
    · rfl
  exact runs_of_aside ((decrementAt_aside s2 ctx d).trans (hs2.trans hs1))

/-! ### Members on other chips (R133 to R135) -/

/-- A run that one more member has started: its role, its N and its digest. -/
def DxRun.joined (r : DxRun) (p : Nat × Nat × List Byte) : DxRun := { r with peers := r.peers ++ [p] }

/-- A run with one more member's arrival at a QuireSync. -/
def DxRun.heard (r : DxRun) (role : Nat) (vals : List Nat) : DxRun := { r with syncVals := r.syncVals ++ [(role, vals)] }

/-- The digest that members compare is not of who has started. -/
@[simp] theorem dxDigest_joined (r : DxRun) (p : Nat × Nat × List Byte) : dxDigest (r.joined p) = dxDigest r := rfl

theorem exec_dxStartExchange_begun {s : State} {ctx h role n : Nat} {digest : List Byte} {r : DxRun} (hh : h < 64)
    (hr : r = s.run (ctx * 64 + h)) (hact : r.active = true) (hctx : ctx < 16) (hup : fabricUp s = true) (hbegin : r.todo = .begin)
    (hrole : role < r.chips.length) (hnew : r.peers.any (·.1 == role) = false) :
    exec (.dxStartExchange ctx h role n digest) s =
      .next (s.setRun (ctx * 64 + h) (r.joined (role, n, digest)).begun) := by
  subst hr
  refine congrArg Host.Outcome.next ?_
  simp [dxKey_eq hh, hact, hup, hbegin, hnew, Nat.not_le.2 hctx, Nat.not_le.2 hrole, DxRun.joined]

theorem exec_dxStartExchange_held {s : State} {ctx h role : Nat} (n : Nat) (digest : List Byte) (hh : h < 64) (hctx : ctx < 16)
    (hup : fabricUp s = true) (hbegin : (s.run (ctx * 64 + h)).todo ≠ .begin)
    (hnew : (s.ctx ctx).dxStarts.any (fun e => e.1 == h && e.2.1 == role) = false) :
    exec (.dxStartExchange ctx h role n digest) s =
      .next (s.updCtx ctx (fun c => { c with dxStarts := c.dxStarts ++ [(h, role, n, digest)] })) := by
  refine congrArg Host.Outcome.next ?_
  simp [dxKey_eq hh, hup, hbegin, hnew, Nat.mod_eq_of_lt hh, Nat.not_le.2 hctx]

/-- A member whose start differs ends the run with BAD_RECORD. -/
theorem begun_joined_of_differs {r : DxRun} {p : Nat × Nat × List Byte} (hne : p.2.2 ≠ dxDigest r) :
    (r.joined p).begun = { r.joined p with hNew := 0 }.over 7 :=
  if_pos (List.any_eq_true.2 ⟨p, List.mem_append_right _ (List.mem_singleton_self p), by simpa using hne⟩)

/-- Members that agree begin once all have started. -/
theorem begun_of_agree {r : DxRun} (hall : ∀ p ∈ r.peers, p.2.2 = dxDigest r) :
    r.begun = { r with todo := if r.peers.length = r.chips.length then .form else .begin } := by
  have hany : r.peers.any (fun p => p.2.2 != dxDigest r) = false := by simpa using hall
  unfold DxRun.begun
  by_cases hlen : r.peers.length = r.chips.length <;> simp [hany, hlen]

theorem begun_joined_of_agree {r : DxRun} {p : Nat × Nat × List Byte} (hall : ∀ p ∈ r.peers, p.2.2 = dxDigest r) (hp : p.2.2 = dxDigest r) :
    (r.joined p).begun = { r.joined p with todo := if r.peers.length + 1 = r.chips.length then .form else .begin } := by
  have hlen : (r.joined p).peers.length = r.peers.length + 1 := List.length_append
  have hagree : ∀ q ∈ (r.joined p).peers, q.2.2 = dxDigest (r.joined p) := by
    intro q hq
    rcases List.mem_append.1 hq with hq | hq
    · exact hall q hq
    · rw [List.mem_singleton.1 hq]; exact hp
  rw [begun_of_agree hagree, hlen]
  rfl

/-- Nothing is delivered while a member's arrival is awaited. -/
theorem dxDeliver_of_awaited {r : DxRun} {k : Nat} (hk : k < r.chips.length) (hnone : r.syncVals.any (·.1 == k) = false) :
    dxDeliver r = r := by
  have hall : (List.range r.chips.length).all (fun k => r.syncVals.any (·.1 == k)) = false :=
    List.all_eq_false.2 ⟨k, List.mem_range.2 hk, by simp [hnone]⟩
  simp only [dxDeliver, hall, Bool.and_false]
  rfl

theorem notePause_contains (s : State) (ctx quire role : Nat) (p : Bool) :
    ((notePause s ctx quire role p).ctx ctx).peersPaused.contains (quire, role) = p := by
  cases p <;> simp [notePause]

theorem contains_insertNew {α : Type} [BEq α] [LawfulBEq α] (l : List α) (x : α) : (insertNew l x).contains x = true := by
  unfold insertNew
  split
  · assumption
  · simp

/-- A pause that is announced before the run is here is held. -/
theorem exec_quiresyncArrival_pauseHeld {s : State} {ctx h : Nat} (role : Nat) (hh : h < 64) (hctx : ctx < 16) (hup : fabricUp s = true)
    (hact : (s.run (ctx * 64 + h)).active = false) : exec (.quiresyncArrival ctx h role .paused) s =
      .next (s.updCtx ctx (fun c => { c with dxPauses := insertNew c.dxPauses (h, role) })) := by
  refine congrArg Host.Outcome.next ?_
  simp [dxKey_eq hh, hup, hact, Nat.mod_eq_of_lt hh, Nat.not_le.2 hctx]

section Arrival

variable {s : State} {ctx h role : Nat} {r : DxRun} (hh : h < 64) (hctx : ctx < 16) (hup : fabricUp s = true)
  (hr : r = s.run (ctx * 64 + h)) (hact : r.active = true) (hrole : role < r.chips.length) (hother : role ≠ r.role)
include hh hctx hup hr hact hrole hother

theorem exec_quiresyncArrival_paused :
    exec (.quiresyncArrival ctx h role .paused) s = .next (notePause s ctx (r.f 188 2) role true) := by
  subst hr
  refine congrArg Host.Outcome.next ?_
  simp [dxKey_eq hh, hup, hact, hother, Nat.not_le.2 hctx, Nat.not_le.2 hrole]

theorem exec_quiresyncArrival_arrived (vals : List W64) :
    exec (.quiresyncArrival ctx h role (.arrived vals)) s =
      .next (dxServe ((notePause s ctx (r.f 188 2) role false).setRun (ctx * 64 + h) (dxDeliver (r.heard role (vals.map (·.toNat)))))
        ctx h (dxWork · (ctx * 64 + h))) := by
  subst hr
  refine congrArg Host.Outcome.next ?_
  simp [dxKey_eq hh, hup, hact, hother, Nat.not_le.2 hctx, Nat.not_le.2 hrole, DxRun.heard]

/-- An arrival that is not the last awaited is noted, with that its member is heard again, and nothing more of the run changes. -/
theorem arrival_noted (vals : List W64) (hown : r.role < r.chips.length) (hform : r.todo ≠ .form)
    (hnone : r.syncVals.any (·.1 == r.role) = false) : ∃ t, exec (.quiresyncArrival ctx h role (.arrived vals)) s = .next t ∧
      t.run (ctx * 64 + h) = r.heard role (vals.map (·.toNat)) ∧ (t.ctx ctx).peersPaused.contains (r.f 188 2, role) = false := by
  have hawaited : dxDeliver (r.heard role (vals.map (·.toNat))) = r.heard role (vals.map (·.toNat)) :=
    dxDeliver_of_awaited (k := r.role) hown (by simpa [DxRun.heard, hother] using hnone)
  have hexec := exec_quiresyncArrival_arrived hh hctx hup hr hact hrole hother vals
  have hpaused := notePause_contains s ctx (r.f 188 2) role false
  rw [hawaited] at hexec
  refine ⟨_, hexec, ?_⟩
  generalize hu : (notePause s ctx (r.f 188 2) role false).setRun (ctx * 64 + h) (r.heard role (vals.map (·.toNat))) = u
  have hrun : u.run (ctx * 64 + h) = r.heard role (vals.map (·.toNat)) := hu ▸ setRun_run _ _ _
  have hctxs : u.ctx ctx = (notePause s ctx (r.f 188 2) role false).ctx ctx := hu ▸ rfl
  rcases dxServe_of_todo_ne_form (ctx := ctx) (key := ctx * 64 + h) hh (by rw [hrun]; exact hform) with he | he <;> rw [he]
  · exact ⟨hrun, hctxs ▸ hpaused⟩
  · rw [dxServed_run, dxServed_peersPaused]
    exact ⟨hrun, hctxs ▸ hpaused⟩

end Arrival

theorem exec_dxMemberStartTimeout {s : State} {ctx h : Nat} {r : DxRun} (hh : h < 64) (hr : r = s.run (ctx * 64 + h))
    (hact : r.active = true) (hbegin : r.todo = .begin) :
    exec (.dxMemberStartTimeout ctx h) s = .next (s.setRun (ctx * 64 + h) (r.over 6)) := by
  subst hr
  refine congrArg Host.Outcome.next ?_
  simp [dxKey_eq hh, hact, hbegin]

/-- A silent member whose arrival is awaited ends the run, unless it has announced a pause. -/
theorem exec_dxPeerSilentTimeout {s : State} {ctx h role : Nat} {r : DxRun} (hh : h < 64) (hr : r = s.run (ctx * 64 + h))
    (hact : r.active = true) (hsync : r.todo = .sync) (hrole : role < r.chips.length) (hnone : r.syncVals.any (·.1 == role) = false) :
    exec (.dxPeerSilentTimeout ctx h role) s = .next (if (s.ctx ctx).peersPaused.contains (r.f 188 2, role) then s
      else s.setRun (ctx * 64 + h) (r.over 6)) := by
  subst hr
  refine congrArg Host.Outcome.next ?_
  rw [dxKey_eq hh, hact, hsync, hnone, decide_eq_true hrole]
  cases (s.ctx ctx).peersPaused.contains ((s.run (ctx * 64 + h)).f 188 2, role) <;> rfl

end Sys2Proof.Machine
end

section
/-! O51, assembled from what each event does. -/

namespace Sys2Proof.Machine

/-- Settles O51. Each clause is what its event makes of the run it names (the lemmas above); that completion leaves every other run alone is that
no access to memory reaches the runs (`runs_of_aside`). -/
theorem timeLoopEvents : Obligations.TimeLoopEvents := by
  unfold Obligations.TimeLoopEvents Sys2Proof.Claims.To
  refine ⟨fun s ctx h role hh hctx hup hact => ⟨_, exec_quiresyncArrival_pauseHeld role hh hctx hup hact, ?_, rfl⟩,
    fun s ctx h r hh hr hact => ⟨?atEnd, ?belowLeast, ?crewsEnd, ?completes, ?starts, ?arrives, ?notStarted, ?silent⟩⟩
  · rw [updCtx_ctx]
    exact contains_insertNew _ _
  case atEnd =>
    intro hctx hturn hform hpt htook hend hev
    have hnext := dxNext_at_end htook hend hev
    refine ⟨_, exec_dxStageForm_of_over hh hr hact hctx hturn hform hpt (by rw [hnext]; exact DxTodo.noConfusion), ?_⟩
    dsimp only
    rw [hnext, setRun_run]
    exact ⟨rfl, rfl, rfl, fun q => (byteAt_setRun _ _ _ q).trans (byteAt_dxServed s ctx h q)⟩
  case belowLeast =>
    intro hctx hturn hform hpt htook hfailed hlt
    have hnext := dxNext_below_least htook hfailed hlt
    refine ⟨_, exec_dxStageForm_of_over hh hr hact hctx hturn hform hpt (by rw [hnext]; exact DxTodo.noConfusion), ?_⟩
    dsimp only
    rw [hnext, setRun_run]
    exact ⟨rfl, rfl⟩
  case crewsEnd =>
    intro id hctx hturn hcrews hid hlive hack e he hkind
    have hexec : exec e.1 s = .next (dxCrewsEnd s ctx h e.2) := by
      simp only [List.mem_cons, List.not_mem_nil, or_false] at he
      rcases he with rfl | rfl | rfl <;> rfl
    rw [hexec, dxCrewsEnd_of_ended hh hr hact hctx hturn hcrews hid hlive hack hkind]
    refine ⟨fun hst => ⟨_, rfl, ?_⟩, fun hst => ?_⟩
    · dsimp only
      rw [if_pos hst, setRun_run]
      exact ⟨rfl, rfl, rfl⟩
    · rw [if_neg (fun hne => hne hst)]
      rfl
  case completes =>
    intro s1 s2 d hctx hfin hid hctr hd h1 h2
    refine ⟨_, exec_dxRunComplete hh hr hact hctx hfin hid hctr hd h1 h2, ?_, fun k => congrFun (workDone_setRun_devByte _ _ _ _ _) k,
      fun k hk => ?_⟩
    · rw [workDone_run, setRun_run]
    · rw [workDone_run, setRun_run_ne _ _ _ _ hk]
      exact congrArg (cget {} · k) (runs_of_completion h1 h2)
  case starts =>
    intro role n digest hctx hup
    refine ⟨fun hbegin hrole hnew => ⟨_, exec_dxStartExchange_begun hh hr hact hctx hup hbegin hrole hnew, fun x hx => ?_⟩,
      fun hbegin hnew => ⟨_, exec_dxStartExchange_held n digest hh hctx hup (hr ▸ hbegin) hnew, by rw [updCtx_ctx], rfl⟩⟩
    rw [setRun_run] at hx
    subst hx
    refine ⟨fun hne => ?_, fun hall heq => ?_⟩
    · rw [begun_joined_of_differs hne]
      exact ⟨rfl, rfl, rfl⟩
    · rw [begun_joined_of_agree hall heq]
      exact ⟨rfl, rfl⟩
  case arrives =>
    intro role vals hctx hup hrole hother
    refine ⟨fun hown hform hnone => ?_,
      ⟨_, exec_quiresyncArrival_paused hh hctx hup hr hact hrole hother, notePause_contains s ctx _ role true, rfl⟩⟩
    obtain ⟨t, hexec, hrun, hpaused⟩ := arrival_noted hh hctx hup hr hact hrole hother vals hown hform hnone
    exact ⟨t, hexec, by rw [hrun]; rfl, by rw [hrun]; rfl, hpaused⟩
  case notStarted =>
    intro hbegin
    refine ⟨_, exec_dxMemberStartTimeout hh hr hact hbegin, ?_⟩
    dsimp only
    rw [setRun_run]
    exact ⟨rfl, rfl, rfl⟩
  case silent =>
    intro role hsync hrole hnone
    have hexec := exec_dxPeerSilentTimeout hh hr hact hsync hrole hnone
    refine ⟨fun hpaused => ?_, fun hpaused => by rw [hexec, if_pos hpaused]⟩
    rw [hexec, if_neg (by rw [hpaused]; decide)]
    refine ⟨_, rfl, ?_⟩
    dsimp only
    rw [setRun_run]
    exact ⟨rfl, rfl, rfl⟩

end Sys2Proof.Machine
end

section
/-! What a step of a team makes of its core's instruction cache (00 R1, 16 R299): the fetch leaves the line of the octet there, and neither a NOP nor
the schedule's free choice changes what it holds. -/

namespace Sys2Proof.Machine

/-! ### The fetch -/

/-- The core holds the line of code that it has just used. -/
theorem holdsLine_useCode (s : State) (core line : Nat) : holdsLine (useCode s core line).caches.code core line = true := by
  simp only [holdsLine, useCode, cget_cset_self, useLine]
  split
  next t ht =>
    have hline : t.line == line := List.find?_some (p := fun t : Tag => t.line == line) ht
    simp [hline]
  next => simp

/-- The state from which a running team's instruction is tried, whose fetch has left s' and translates to the place k: beside the octet and the
sharing of ports, the instruction cache has been used, and whether the octet was late there is noted. -/
def fetched (s s' : State) (k : Nat) : State :=
  (useCode s' (s'.teamCrew s.cur).core (k / 64)).updTeam s.cur (fun t => { t with
    octet := octetWords (fetchBytes s' s.cur (k - s.me.pc.toNat % 32) 32),
    octetLate := s.me.octetLate || s.me.enter && !holdsLine s'.caches.code (s'.teamCrew s.cur).core (k / 64),
    onePass := sharesPort s s.cur })

/-- The fetch of a running team whose PC translates. -/
theorem fetch_of_translate {s s' : State} {k : Nat} (hissue : canIssue s s.cur = true) (hrun : s.me.status = .run)
    (hpc : s.me.pc.toNat < winLo) (hk : translate s (teamAgent s s.cur none) .fetch s.me.pc.toNat = (s', .ok k)) :
    fetch s = (fetched s s' k, decodeAt (octetWords (fetchBytes s' s.cur (k - s.me.pc.toNat % 32) 32)) s.me.pc.toNat) := by
  have hlow : ¬ 2 ^ 52 ≤ s.me.pc.toNat := by simp only [winLo] at hpc; omega
  have hwin : ¬ winLo ≤ s.me.pc.toNat := Nat.not_le.2 hpc
  rw [State.me] at hrun hlow hwin hk
  simp only [fetch, hissue, hrun, if_neg hlow, if_neg hwin, hk, fetched, State.me]
  rfl

/-- The step of a team whose fetch finds an instruction. -/
theorem step_of_fetch {s t : State} {i : Instr} (hturn : s.turn = none) (hfetch : fetch s = (t, some i)) : step s = scheduled (exec i t) := by
  simp only [step, hturn, hfetch]

/-! ### Between two steps -/

/-- What memory leaves alone when it moves by itself: the choices left to the schedule, the crews and the instruction caches. -/
def State.undrifted (s : State) : Nat × Cells Crew × Cells (List Tag) := (s.fairIn, s.crews, s.caches.code)

theorem putMem_undrifted (s : State) (k : Nat) (b : Byte) : (s.putMem k b).undrifted = s.undrifted := by
  unfold State.putMem; split <;> rfl

theorem putMemBytes_undrifted (bs : List Byte) (s : State) (k : Nat) : (s.putMemBytes k bs).undrifted = s.undrifted := by
  induction bs generalizing s k with
  | nil => rfl
  | cons b r ih => exact (ih _ _).trans (putMem_undrifted s k b)

theorem evict_undrifted (s : State) (line : Nat) : (s.evict line).undrifted = s.undrifted :=
  foldl_keeps _ State.undrifted (fun s e => by
    split
    · exact putMem_undrifted s e.1 _
    · rfl) _ s

theorem writeOut_undrifted (s : State) : (writeOut s).undrifted = s.undrifted := by
  unfold writeOut
  split
  · rfl
  · exact foldl_keeps State.evict State.undrifted evict_undrifted _ s

theorem landAt_undrifted (s : State) (i : Nat) : (landAt s i).undrifted = s.undrifted := by
  unfold landAt
  split
  · split
    · exact putMemBytes_undrifted _ s _
    · rfl
  · rfl

theorem settleWord_undrifted (s : State) (c w : Nat) : (settleWord s c w).undrifted = s.undrifted := by
  unfold settleWord
  dsimp only
  split
  · rfl
  · split
    · split <;> rfl
    · split
      · split <;> rfl
      · rfl

theorem drift_undrifted (s : State) (n : Nat) : (drift s n).undrifted = s.undrifted := by
  have evicted (s : State) : (match Config.evicts n with | some line => s.evict line | none => s).undrifted = s.undrifted := by
    split
    · exact evict_undrifted s _
    · rfl
  have landed (s : State) : (match Config.lands n with | some i => landAt s i | none => s).undrifted = s.undrifted := by
    split
    · exact landAt_undrifted s _
    · rfl
  have hpast := (landed _).trans ((evicted _).trans (writeOut_undrifted s))
  unfold drift
  dsimp only
  split
  · exact (settleWord_undrifted _ _ _).trans hpast
  · exact hpast

/-- What is so of every entry of a table, and of what it does not list, is so of every key. -/
theorem cget_of_forall {α : Type} (P : α → Prop) {d : α} (hd : P d) (m : Cells α) (hm : ∀ e ∈ m, P e.2) (k : Nat) : P (cget d m k) := by
  induction m with
  | nil => exact hd
  | cons e r ih =>
    obtain ⟨a, v⟩ := e
    simp only [cget]
    split
    · exact hm _ List.mem_cons_self
    · split
      · exact hd
      · exact ih (fun e he => hm e (List.mem_cons_of_mem _ he))

/-- No crew is a member of a quire. -/
def State.noQuire (s : State) : Bool := s.crews.all (·.2.role == 0xFFFFFFFF)

/-- Then nobody is told of a team that has ended. -/
theorem tellEnded_of_noQuire {s : State} (h : s.noQuire = true) : tellEnded s = s := by
  have hrole (c : Nat) : (s.crew c).role = 0xFFFFFFFF :=
    cget_of_forall (fun c : Crew => c.role = 0xFFFFFFFF) rfl s.crews (fun e he => by simpa using List.all_eq_true.1 h e he) c
  have hnone (ti : Nat) : untold s ti = false := by simp [untold, hrole]
  have hfilter : (s.teams.map (·.1)).filter (untold s) = [] := List.filter_eq_nil_iff.2 (fun ti _ => by simp [hnone])
  rw [tellEnded, hfilter]
  rfl

theorem coreTurn_code (s : State) (core : Nat) : (coreTurn s core).caches.code = s.caches.code := by
  unfold coreTurn nextWindow idleCycle
  dsimp only
  split
  · split <;> rfl
  · split
    · rfl
    · split <;> rfl

/-- What the schedule chooses at count n, when memory has moved and those have been told who must be. -/
def chosen (s : State) (n : Nat) : State :=
  if s.fairIn = 0 then
    coreTurn (dueTeam { s with fairIn := Config.fair n, fairCore := (s.fairCore + 1) % 512 } s.fairCore) s.fairCore
  else
    match (Config.schedule n).2 with
    | some e => { s with fairIn := s.fairIn - 1, turn := some e }
    | none => coreTurn { s with fairIn := s.fairIn - 1 } (Config.schedule n).1

theorem scheduleNext_eq_chosen (s : State) :
    scheduleNext s = chosen (tellEnded (linksRunOn (drift { s with fresh := s.fresh + 1 } s.fresh) s.fresh)) s.fresh := rfl

theorem chosen_code {s : State} {n : Nat} (h : s.fairIn ≠ 0) : (chosen s n).caches.code = s.caches.code := by
  rw [chosen, if_neg h]
  split
  · rfl
  · exact coreTurn_code _ _

/-- The schedule's free choice leaves the instruction caches as they are. -/
theorem scheduleNext_code {s : State} (hfair : s.fairIn ≠ 0) (hquire : s.noQuire = true) :
    (scheduleNext s).caches.code = s.caches.code := by
  have hview : (linksRunOn (drift { s with fresh := s.fresh + 1 } s.fresh) s.fresh).undrifted = s.undrifted := drift_undrifted _ _
  rw [scheduleNext_eq_chosen]
  generalize linksRunOn (drift { s with fresh := s.fresh + 1 } s.fresh) s.fresh = t at hview
  obtain ⟨hfair', hcrews, hcode⟩ : t.fairIn = s.fairIn ∧ t.crews = s.crews ∧ t.caches.code = s.caches.code := by
    simpa only [State.undrifted, Prod.mk.injEq] using hview
  rw [tellEnded_of_noQuire (by simpa only [State.noQuire, hcrews] using hquire), chosen_code (hfair' ▸ hfair), hcode]

/-! ### A NOP whose line no instruction cache holds -/

/-- A NOP of a ready team goes on to the next slot (16 R301). -/
theorem nop_runsTo {s : State} (h : ready s = true) : RunsTo (.nop (.v 0) (.v 0) (.v 0)) s s.me.stepped := by
  let fields := [fld (.v 0) okZero, fld (.v 0) okZero, fld (.v 0) okZero]
  obtain ⟨c, _, -, hu⟩ := uniform_ready s 0x00 (wordF3 0x00 (.v 0) (.v 0) (.v 0)) fields [] [] (fun u => .ok (u.done u.s [] 0)) false h (by decide)
  have hexec := runInstr_ok s _ (fun ti t => uniform s ti t 0x00 (wordF3 0x00 (.v 0) (.v 0) (.v 0)) false fields true [] [] (fun u =>
    .ok (u.done u.s [] 0))) h hu
  refine done_runsTo (.nop (.v 0) (.v 0) (.v 0)) s _ _ [] 0 _ hexec rfl (settle_onlyTeam s s.cur c) ?_
  rw [settle_team s s.cur c (ready_pend h)]
  simp [doneWrites, Team.stepped, State.me]

/-- A NOP of a ready team, and the schedule's free choice after it, leave the instruction caches as they are. -/
theorem scheduled_nop_code {s : State} (h : ready s = true) (hfair : s.fairIn ≠ 0) (hquire : s.noQuire = true) :
    ∃ t, scheduled (exec (.nop (.v 0) (.v 0) (.v 0)) s) = .next t ∧ t.caches.code = s.caches.code := by
  obtain ⟨t, hexec, -, -, honly⟩ := nop_runsTo h
  have hfair' : t.fairIn = s.fairIn := (congrArg State.fairIn honly.1 :)
  have hcode : t.caches = s.caches := (congrArg State.caches honly.1 :)
  refine ⟨scheduleNext t, by rw [hexec]; rfl, ?_⟩
  rw [scheduleNext_code (hfair' ▸ hfair) (by simpa only [State.noQuire, honly.crews] using hquire), hcode]

theorem eq_ok_of_toOption {ε α : Type} {x : Except ε α} {a : α} (h : x.toOption = some a) : x = .ok a := by
  cases x with
  | error e => cases h
  | ok b => exact congrArg Except.ok (Option.some.inj h)

/-- A team at a NOP whose code no instruction cache holds, and a choice left to the schedule. -/
def coldNop : State := { State.reset.withFetchWord 32 0 with fairIn := 1 }

/-- The place of the NOP. -/
def coldKey : Nat := 2 ^ 34 + 4

/-- The state that translating its address leaves. -/
def coldWalked : State := (translate coldNop (teamAgent coldNop coldNop.cur none) .fetch coldNop.me.pc.toNat).1

/-- The octet there. -/
def coldOctet : List W32 := octetWords (fetchBytes coldWalked coldNop.cur (coldKey - coldNop.me.pc.toNat % 32) 32)

/-- The state in which the statement has the NOP executed: no instruction cache has been used. -/
def coldUnused : State := coldWalked.updTeam coldNop.cur (fun t => { t with octet := coldOctet, onePass := sharesPort coldNop coldNop.cur })

/-- The core of its team. -/
def coldCore : Nat := (coldWalked.teamCrew coldNop.cur).core

theorem canIssue_coldNop : canIssue coldNop coldNop.cur = true := by decide
theorem status_coldNop : coldNop.me.status = .run := by decide
theorem pc_coldNop : coldNop.me.pc.toNat < winLo := by decide
theorem translate_coldNop : translate coldNop (teamAgent coldNop coldNop.cur none) .fetch coldNop.me.pc.toNat = (coldWalked, .ok coldKey) :=
  Prod.ext rfl (eq_ok_of_toOption (by decide))

/-- The step fetches the NOP through the instruction cache. -/
theorem step_coldNop : step coldNop = scheduled (exec (.nop (.v 0) (.v 0) (.v 0)) (fetched coldNop coldWalked coldKey)) := by
  have hdecode : decodeAt coldOctet coldNop.me.pc.toNat = some (.nop (.v 0) (.v 0) (.v 0)) := by decide
  exact step_of_fetch rfl ((fetch_of_translate canIssue_coldNop status_coldNop pc_coldNop translate_coldNop).trans (congrArg (Prod.mk _) hdecode))

/-- Refutes O3: in its first clause, the state in which the instruction is executed lacks what the fetch does to the core's instruction cache
(`useCode`) and what it notes of it in the team (`octetLate`); the model's step executes it in `fetched`. Where a team is at a NOP whose line its core
does not hold, the step leaves the core with that line (`holdsLine_useCode`), and the statement's step without it, as neither the NOP nor the schedule's
choice puts it there (`scheduled_nop_code`). -/
theorem not_stepRunsTheInstructionAtPc : ¬ Obligations.StepRunsTheInstructionAtPc := by
  unfold Obligations.StepRunsTheInstructionAtPc
  rintro ⟨hrun, -, -⟩
  have hstated : step coldNop = scheduled (exec (.nop (.v 0) (.v 0) (.v 0)) coldUnused) :=
    hrun coldNop coldWalked coldKey _ rfl canIssue_coldNop status_coldNop pc_coldNop translate_coldNop (by decide) (by decide)
  obtain ⟨t, ht, hcode⟩ := scheduled_nop_code (s := fetched coldNop coldWalked coldKey) (by decide) (by decide) (by decide)
  obtain ⟨u, hu, hcode'⟩ := scheduled_nop_code (s := coldUnused) (by decide) (by decide) (by decide)
  have hsame : t = u := Host.Outcome.next.inj (ht.symm.trans (step_coldNop.symm.trans (hstated.trans hu)))
  have hholds : holdsLine t.caches.code coldCore (coldKey / 64) = true := by
    rw [hcode]; exact holdsLine_useCode coldWalked coldCore (coldKey / 64)
  have hmisses : holdsLine u.caches.code coldCore (coldKey / 64) = false := by
    rw [hcode']; decide
  rw [hsame, hmisses] at hholds
  exact Bool.noConfusion hholds

end Sys2Proof.Machine
end

section
/-! SUPPORT. The Feed, the stage rings and the budget (09 R193, R189, 08 R176): a record written in a crew's scratch and read back, what an event of
each makes of the machine, and O39. -/

namespace Sys2Proof.Machine

/-! ### Integers in bytes -/

theorem ofLE_leBytes (n : Nat) : ∀ v, ofLE (leBytes n v) = v % 256 ^ n := by
  induction n with
  | zero => intro v; simp [leBytes, ofLE, Nat.mod_one]
  | succ n ih => intro v; rw [leBytes, ofLE, ih, Nat.pow_succ', Nat.mod_mul, BitVec.toNat_ofNat]

theorem leBytes_length (n : Nat) : ∀ v, (leBytes n v).length = n := by
  induction n with
  | zero => exact fun _ => rfl
  | succ n ih => intro v; rw [leBytes, List.length_cons, ih]

/-! ### Bytes of a crew's scratch -/

theorem scratchBytes_drop (c : Crew) (k n : Nat) : ∀ o, (scratchBytes c o (k + n)).drop k = scratchBytes c (o + k) n := by
  induction k with
  | zero => intro o; simp
  | succ k ih =>
    intro o
    rw [Nat.add_right_comm k 1 n, scratchBytes, List.drop_succ_cons, ih, Nat.add_right_comm, Nat.add_assoc]

theorem scratchBytes_take (c : Crew) (k n : Nat) : ∀ o, (scratchBytes c o (k + n)).take k = scratchBytes c o k := by
  induction k with
  | zero => intro o; simp [scratchBytes]
  | succ k ih => intro o; rw [Nat.add_right_comm k 1 n, scratchBytes, List.take_succ_cons, ih, scratchBytes]

/-- A field of a record in scratch is made of the bytes at its offset. -/
theorem field_scratchBytes (c : Crew) (off o n rest : Nat) :
    field (scratchBytes c off (o + (n + rest))) o n = ofLE (scratchBytes c (off + o) n) := by
  rw [field, scratchBytes_drop, scratchBytes_take]

theorem scratchPut_below (bs : List Byte) : ∀ (m : Cells (Option Byte)) (o j : Nat), j < o → cget none (scratchPut m o bs) j = cget none m j := by
  induction bs with
  | nil => exact fun _ _ _ _ => rfl
  | cons b r ih => intro m o j h; rw [scratchPut, ih _ _ _ (by omega), cget_cset_ne _ _ _ _ _ (by omega)]

theorem scratchPut_above (bs : List Byte) : ∀ (m : Cells (Option Byte)) (o j : Nat), o + bs.length ≤ j →
    cget none (scratchPut m o bs) j = cget none m j := by
  induction bs with
  | nil => exact fun _ _ _ _ => rfl
  | cons b r ih =>
    intro m o j h
    rw [List.length_cons] at h
    rw [scratchPut, ih _ _ _ (by omega), cget_cset_ne _ _ _ _ _ (by omega)]

/-- Where two crews' scratch reads the same, so do ranges of it. -/
theorem scratchBytes_congr {c c' : Crew} (n : Nat) : ∀ o, (∀ j, o ≤ j → j < o + n → scratchAt c' j = scratchAt c j) →
    scratchBytes c' o n = scratchBytes c o n := by
  induction n with
  | zero => exact fun _ _ => rfl
  | succ n ih =>
    intro o h
    rw [scratchBytes, scratchBytes, h o (by omega) (by omega), ih (o + 1) (fun j h1 h2 => h j (by omega) (by omega))]

/-- Bytes written in scratch are read back. -/
theorem scratchBytes_put {c' : Crew} (bs : List Byte) : ∀ (m : Cells (Option Byte)) (o : Nat), c'.scratch = scratchPut m o bs →
    scratchBytes c' o bs.length = bs := by
  induction bs with
  | nil => exact fun _ _ _ => rfl
  | cons b r ih =>
    intro m o h
    have hb : scratchAt c' o = b := by
      rw [scratchAt, h, scratchPut, scratchPut_below _ _ _ _ (by omega), cget_cset_self, Option.getD_some]
    rw [List.length_cons, scratchBytes, hb, ih _ _ h]

/-! ### A ring's descriptor -/

/-- A ring whose phase word has been written holds it, and every other field as it was (R188). -/
theorem ringAt_putPhase {c c' : Crew} {off v : Nat} (hs : c'.scratch = scratchPut c.scratch (off + 4) (leBytes 4 v))
    (hseed : c'.scratchSeed = c.scratchSeed) : ringAt c' off = { ringAt c off with phase := v % 2 ^ 32 } := by
  have hat (j : Nat) (h : j < off + 4 ∨ off + 8 ≤ j) : scratchAt c' j = scratchAt c j := by
    rw [scratchAt, scratchAt, hs, hseed]
    rcases h with h | h
    · rw [scratchPut_below _ _ _ _ h]
    · rw [scratchPut_above _ _ _ _ (by rw [leBytes_length]; omega)]
  have other (o n rest : Nat) (h : o + n ≤ 4 ∨ 8 ≤ o) :
      field (scratchBytes c' off (o + (n + rest))) o n = field (scratchBytes c off (o + (n + rest))) o n := by
    rw [field_scratchBytes, field_scratchBytes, scratchBytes_congr n (off + o) (fun j h1 h2 => hat j (by omega))]
  have phase : field (scratchBytes c' off (4 + (4 + 56))) 4 4 = v % 2 ^ 32 := by
    have hb := scratchBytes_put (c' := c') (leBytes 4 v) c.scratch (off + 4) hs
    rw [leBytes_length] at hb
    rw [field_scratchBytes, hb]
    exact ofLE_leBytes 4 v
  simp only [ringAt, Ring.mk.injEq, true_and]
  exact ⟨other 0 1 63 (by omega), other 1 1 62 (by omega), other 2 1 61 (by omega), other 3 1 60 (by omega), phase,
    other 8 4 52 (by omega), other 12 4 48 (by omega), other 16 4 44 (by omega)⟩

/-- A ring's phase bits once the slot of index n is visible. -/
def Ring.shown (r : Ring) (n : Nat) : Nat :=
  if r.phaseOf n then r.phase ||| 2 ^ (n % r.nslots) else r.phase &&& (2 ^ 32 - 1 - 2 ^ (n % r.nslots))

theorem bitN_shown (r : Ring) {n j : Nat} (hk : n % r.nslots < 32) (hj : j < 32) :
    bitN (r.shown n % 2 ^ 32) j = if j = n % r.nslots then r.phaseOf n else bitN r.phase j := by
  have hlt : 2 ^ (n % r.nslots) < 2 ^ 32 := Nat.pow_lt_pow_right (by decide) hk
  have hmask : (2 ^ 32 - 1 - 2 ^ (n % r.nslots)).testBit j = !decide (n % r.nslots = j) := by
    rw [Nat.sub_sub, Nat.add_comm, Nat.testBit_two_pow_sub_succ hlt, Nat.testBit_two_pow]
    simp [hj]
  unfold bitN Ring.shown
  rw [Nat.testBit_mod_two_pow, decide_eq_true hj, Bool.true_and]
  cases r.phaseOf n with
  | true => rw [if_pos rfl, Nat.testBit_or, Nat.testBit_two_pow]; by_cases h : j = n % r.nslots <;> simp [h, eq_comm]
  | false => rw [if_neg (by decide), Nat.testBit_and, hmask]; by_cases h : j = n % r.nslots <;> simp [h, eq_comm]

/-! ### Writing in scratch -/

theorem crew_of_crews {s t : State} (h : t.crews = s.crews) (i : Nat) : t.crew i = s.crew i := by rw [State.crew, h, State.crew]

theorem touch_crews (s : State) (line : Nat) : (s.touch line).crews = s.crews := (congrArg State.crews (touch_only s line) :)

theorem unhide_crews (s : State) (p : Place) (n : Nat) : (s.unhide p n).crews = s.crews := by
  unfold State.unhide; split <;> rfl

/-- A write in a crew's scratch changes of its crew those bytes, and their poison. -/
theorem writePlace_scratch_crew (s : State) (ctx ci o : Nat) (bs : List Byte) (bad : Bool) :
    (writePlace s ctx (.scratch ci o) bs bad).crew ci = { s.crew ci with
      scratch := scratchPut (s.crew ci).scratch o bs, scratchPoison := poisonAfter (s.crew ci).scratchPoison o bs.length bad } := by
  have hc : (s.unhide (.scratch ci o) bs.length).crew ci = s.crew ci := crew_of_crews (unhide_crews s _ _) ci
  have ht (t : State) (l : List Nat) : (l.foldl State.touch t).crew ci = t.crew ci :=
    crew_of_crews (foldl_keeps State.touch State.crews touch_crews l t) ci
  unfold writePlace putPlace
  rw [ht]
  dsimp only
  rw [State.updCrew, setCrew_crew, hc]

/-- A claim whose fill is visible leaves the claims, and its slot's phase bit is that of its index (R189). -/
theorem ringVisible_crew (s : State) (ci : Nat) (cl : Nat × Nat × Nat) :
    ((ringVisible s ci cl).crew ci).ringClaims = (s.crew ci).ringClaims.filter (· != cl) ∧
    ringAt ((ringVisible s ci cl).crew ci) cl.1 =
      { ringAt (s.crew ci) cl.1 with phase := (ringAt (s.crew ci) cl.1).shown cl.2.1 % 2 ^ 32 } := by
  have hput := writePlace_scratch_crew s (s.crew ci).ctx ci (cl.1 + 4) (leBytes 4 ((ringAt (s.crew ci) cl.1).shown cl.2.1)) false
  have hcrew : (ringVisible s ci cl).crew ci = { s.crew ci with
      scratch := scratchPut (s.crew ci).scratch (cl.1 + 4) (leBytes 4 ((ringAt (s.crew ci) cl.1).shown cl.2.1)),
      scratchPoison := poisonAfter (s.crew ci).scratchPoison (cl.1 + 4) (leBytes 4 ((ringAt (s.crew ci) cl.1).shown cl.2.1)).length false,
      ringClaims := (s.crew ci).ringClaims.filter (· != cl) } := by
    unfold ringVisible ringPut
    rw [State.updCrew, setCrew_crew]
    exact congrArg (fun c : Crew => { c with ringClaims := c.ringClaims.filter (· != cl) }) hput
  rw [hcrew]
  exact ⟨rfl, ringAt_putPhase rfl rfl⟩

/-! ### The events -/

theorem byteAt_updTeam (s : State) (i : Nat) (f : Team → Team) (q : Place) : byteAt (s.updTeam i f) q = byteAt s q := by cases q <;> rfl
theorem byteAt_setCore (s : State) (i : Nat) (c : Core) (q : Place) : byteAt (s.setCore i c) q = byteAt s q := by cases q <;> rfl

@[simp] theorem setStream_stream (t : Team) (f : Nat) (x : Stream) : (t.setStream f x).stream f = x := cget_cset_self _ _ _ _
@[simp] theorem setStream_q (t : Team) (f k : Nat) (x : Stream) : (t.setStream f x).q k = t.q k := rfl
@[simp] theorem setQ_q (t : Team) (k : Nat) (x : OpQueue) : (t.setQ k x).q k = x := cget_cset_self _ _ _ _

/-- The Feed serves a stream that runs, of a team that goes on, in its mode (R193). -/
theorem exec_feedEntryFill {s : State} {ti f : Nat} (hrun : ((s.team ti).stream f).running = true)
    (hres : (s.crew (s.team ti).crew).resident = true) (hctx : ctxRuns s (s.crew (s.team ti).crew).ctx = true) (hgone : partyGone s ti = false) :
    exec (.feedEntryFill ti f) s = .next (if ((s.team ti).stream f).ring then feedRing s ti f else feedQueue s ti f) := by
  have he : exec (.feedEntryFill ti f) s = execFeedEntryFill ti f s := rfl
  simp [he, execFeedEntryFill, hrun, hres, hctx, hgone]

/-- A stream in queue mode whose elements are there: its next entry goes to the tail of its queue, and it goes on behind the elements of it. -/
theorem feedQueue_fills {s s1 : State} {ti f : Nat} {x : Stream} {e : QEntry} (hx : x = (s.team ti).stream f)
    (hroom : ((s.team ti).q x.q).entries.length < 8)
    (hix : x.indirect = true → x.pos + min (s.team ti).lanes (x.length - x.pos) ≤ ((s.team ti).stream x.ixs).length)
    (he : feedEntry s ti f (x.pos / (s.team ti).lanes) x.ahead = (s1, e, false)) :
    ∃ y : Stream, y.pos = x.pos + min (s.team ti).lanes (x.length - x.pos) ∧ feedQueue s ti f = s1.updTeam ti (fun t =>
      (t.setQ x.q { t.q x.q with entries := (t.q x.q).entries ++ [e] }).setStream f y) := by
  have hshort : (x.indirect && decide (((s.team ti).stream x.ixs).length < x.pos + min (s.team ti).lanes (x.length - x.pos))) = false := by
    cases hi : x.indirect with
    | false => rfl
    | true => simpa using hix hi
  subst hx
  unfold feedQueue
  dsimp only
  rw [if_neg (by omega), he]
  simp only [hshort, Bool.false_eq_true, if_false]
  exact ⟨_, rfl, rfl⟩

/-- The last element of a stream in ring mode, where it fills its slot: the bytes go there, the stream ends and lets the slot go. -/
theorem feedRingElem_last {s s1 : State} {ti f i : Nat} {x : Stream} {r : Ring} {bs : List Byte} {bad : Bool} (hx : x = (s.team ti).stream f)
    (hr : r = ringAt (s.crew (s.team ti).crew) x.ringOff) (hahead : x.ahead = []) (hlast : x.pos + 1 = x.length)
    (hfull : x.slotFill + x.esz = 2 ^ r.lsize) (he : streamElem s ti false f x.pos = (s1, .ok bs bad)) :
    ∃ y : Stream, y.running = false ∧ y.slot = none ∧ feedRingElem s ti f i =
      ((writePlace s1 (s.crew (s.team ti).crew).ctx (.scratch (s.team ti).crew (r.slot i + x.slotFill)) bs bad).updTeam ti
        (fun t => t.setStream f y), false) := by
  subst hx hr
  have hend : decide (((s.team ti).stream f).length ≤ ((s.team ti).stream f).pos + 1) = true := decide_eq_true (Nat.le_of_eq hlast.symm)
  unfold feedRingElem
  dsimp only
  rw [hahead, he]
  simp only [hfull, hend, Nat.lt_irrefl, decide_false, Bool.and_false, Bool.true_or, Bool.false_eq_true, if_false, if_true, Bool.not_true]
  exact ⟨_, rfl, rfl, rfl⟩

/-- A stream in ring mode fills the slot that it holds, from one element on. -/
theorem feedRing_stops {s t : State} {ti f i : Nat} (hwait : ((s.team ti).stream f).wait = none) (hslot : ((s.team ti).stream f).slot = some i)
    (he : feedRingElem s ti f i = (t, false)) : feedRing s ti f = t := by
  obtain ⟨n, hn⟩ : ∃ n, 2 ^ (ringAt (s.crew (s.team ti).crew) ((s.team ti).stream f).ringOff).lsize = n + 1 :=
    Nat.exists_eq_add_one.2 (Nat.two_pow_pos _)
  unfold feedRing
  simp only [hwait, Option.isSome_none, Bool.false_eq_true, if_false, hslot, hn]
  rw [feedRingRun, he]

/-- RING_SLOT_FILLED of the one claim of a crew, where nothing fills its slot any longer (R189). -/
theorem exec_ringSlotFilled {s : State} {ci off idx prod : Nat} (hclaims : (s.crew ci).ringClaims = [(off, idx, prod)])
    (hheld : ringHeld s ci (off, idx, prod) = false) (hres : (s.crew ci).resident = true) (hctx : ctxRuns s (s.crew ci).ctx = true) :
    exec (.ringSlotFilled ci off (idx % (ringAt (s.crew ci) off).nslots)) s = .next (ringVisible s ci (off, idx, prod)) := by
  have he (k : Nat) : exec (.ringSlotFilled ci off k) s = execRingSlotFilled ci off k s := rfl
  simp [he, execRingSlotFilled, hclaims, hheld, hres, hctx]

/-- The window after a core's own, at its first cycle: the budget is doubled up to the cap after an issue, and 1 otherwise (R176). -/
theorem govAt_next {c g : Core} (h : c.cycle / 64 ≤ c.govWindow) (hg : g = { govAt c (windowEnd c / 64) with cycle := windowEnd c }) :
    g.govWindow = c.govWindow + 1 ∧ g.govUsed = 0 ∧ g.govCur = (if c.govUsed ≠ 0 then min c.govCap (2 * c.govCur) else 1) ∧
    g.cycle = 64 * (c.govWindow + 1) := by
  have hend : windowEnd c = 64 * (c.govWindow + 1) := by rw [windowEnd, Nat.max_eq_left h]
  have hnext : windowEnd c / 64 = c.govWindow + 1 := by rw [hend]; omega
  subst hg
  rw [hnext, govAt, if_neg (by omega)]
  exact ⟨rfl, rfl, by simp, hend⟩

/-- GOV_WINDOW_START where no team of the core could issue before, on a chip that runs. -/
theorem exec_govWindowStart {s : State} {core : Nat} (hfreeze : s.freezing = 0) (htrip : s.tripped = false) (hidle : coreIdle s core = true) :
    exec (.govWindowStart core) s =
      .next (s.updCore core (fun c => { govAt c (windowEnd c / 64) with cycle := windowEnd c })) := by
  have he : exec (.govWindowStart core) s = execGovWindowStart core s := rfl
  simp [he, execGovWindowStart, hidle, nextWindow, hfreeze, htrip]

/-- Settles O39: the Feed's event is one entry or one element, after which only the stream and the queue of its team are written; the phase bit of a
filled slot is read back through the descriptor (`ringAt_putPhase`); the next window is that of `govAt`. -/
theorem feedsRingsAndBudget : Obligations.FeedsRingsAndBudget := by
  unfold Obligations.FeedsRingsAndBudget
  refine ⟨?feed, ?slot, ?visible, ?window⟩
  case feed =>
    intro s s1 ti f x e hx hrun hres hctx hgone hring hix hroom he
    obtain ⟨y, hpos, hfeed⟩ := feedQueue_fills hx hroom hix he
    subst hx
    refine ⟨_, (exec_feedEntryFill hrun hres hctx hgone).trans (by rw [hring, if_neg (by decide), hfeed]), ?tail, ?pos, byteAt_updTeam _ _ _⟩
    case tail => simp
    case pos => simpa using hpos
  case slot =>
    intro s s1 ti f i x r bs bad hx hrun hres hctx hgone hring hwait hslot hahead hlast hr hfull he
    obtain ⟨y, hstop, hfree, helem⟩ := feedRingElem_last (i := i) hx hr hahead hlast hfull he
    subst hx
    refine ⟨_, (exec_feedEntryFill hrun hres hctx hgone).trans (by rw [hring, if_pos rfl, feedRing_stops hwait hslot helem]), ?ends, ?free,
      byteAt_updTeam _ _ _⟩
    case ends => simpa using hstop
    case free => simpa using hfree
  case visible =>
    intro s ci off idx prod r hclaims hr hheld hres hctx hmin hmax
    have hk : idx % r.nslots < 32 := Nat.lt_of_lt_of_le (Nat.mod_lt _ (by omega)) hmax
    subst hr
    obtain ⟨hleft, hring⟩ := ringVisible_crew s ci (off, idx, prod)
    refine ⟨_, exec_ringSlotFilled hclaims hheld hres hctx, by rw [hleft, hclaims]; simp, ?_, fun j hj hne => ?_⟩
    · rw [hring]
      have hbit := bitN_shown (ringAt (s.crew ci) off) (n := idx) hk hk
      rw [if_pos rfl] at hbit
      exact beq_iff_eq.2 hbit
    · rw [hring]
      exact (bitN_shown _ hk hj).trans (if_neg hne)
  case window =>
    intro s core c hc hfreeze htrip hcycle hidle
    subst hc
    obtain ⟨hwindow, hused, hcur, hat⟩ := govAt_next hcycle rfl
    refine ⟨_, exec_govWindowStart hfreeze htrip hidle, ?_⟩
    rw [State.updCore, setCore_core]
    exact ⟨hwindow, hused, hcur, hat, fun j hj => setCore_core_ne s core j _ hj, fun _ => rfl, byteAt_setCore _ _ _⟩

end Sys2Proof.Machine
end

section
/-! SUPPORT. Queues as operands (09 R191, R192): how a lane-wise instruction of a ready team runs, what MOV computes in its lanes, what a queue
gives as a source and takes as a destination, and O16. -/

namespace Sys2Proof.Machine

/-! ### The last part of a lane-wise instruction -/

/-- What the passes of a lane-wise instruction compute, from the sources taken. -/
def lanesRun (t : Team) (f : LaneForm) (k : Taken) (ps : List Pass) : LaneAcc :=
  ps.foldl (fun acc p => (span p.lo p.n).foldl (laneStep t f k p) acc) { lf := k.lf }

/-- The writes of what the passes have computed. -/
def lanesWrites (t : Team) (f : LaneForm) (vals : List (Nat × Nat × Nat)) : List PendWrite :=
  vals.flatMap (fun v => (grpWrites t f.dst.2 f.dst.1 v.2.1 v.1 v.2.2).map (fun w =>
    ({ reg := w.1, lane := w.2.1, val := w.2.2, due := v.2.1 + latencyOf f.op, pc := t.pc, il := fromQueue f.srcs } : PendWrite)))

/-- The machine after what an instruction has computed has gone to its queue, if it feeds one. -/
def lanesPushed (s : State) (t : Team) (f : LaneForm) (vals : List (Nat × Nat × Nat)) : State :=
  match f.dst.1 with
  | .q _ => pushEntries s t f.dst.1 (entriesOf (vals.map (fun v => (v.1, v.2.2))) f.dst.2)
  | _ => s

/-- The end of a lane-wise instruction whose sources are taken and whose queue has room. -/
def lanesEnd (f : LaneForm) (ti : Nat) (ps : List Pass) (k : Taken) : State :=
  let t := k.s.team ti
  let acc := lanesRun t f k ps
  retire (lanesPushed (takenDone k ti f.srcs acc.flags acc.lf) t f acc.vals.reverse) ti f.op f.words ps false (lanesWrites t f acc.vals.reverse)

/-! ### A ready team -/

/-- The registers that operands name are within the declared count (08 R171). -/
def WithinRegs (t : Team) (ops : List (Opnd × Nat)) : Prop :=
  ∀ x ∈ ops, vRange t x.1 x.2 = none ∧ ∀ l ∈ activeLanes t, ∀ k, x.1 = .vx k → vxIndex t 0 k.val l + x.2 ≤ t.nregs

theorem withinRegs_cons {t : Team} {x : Opnd × Nat} {ops : List (Opnd × Nat)} (hx : WithinRegs t [x]) (h : WithinRegs t ops) : WithinRegs t (x :: ops) :=
  fun y hy => (List.mem_cons.1 hy).elim (fun e => hx y (by simp [e])) (h y)

theorem withinRegs_queue (t : Team) (k : Fin 8) (n : Nat) : WithinRegs t [(.q k, n)] := by
  intro x hx
  rw [List.mem_singleton.1 hx]
  exact ⟨rfl, fun _ _ _ h => nomatch h⟩

theorem withinRegs_of_inRange {t : Team} {ops : List (Opnd × Nat)} (h : inRange t ops = true) : WithinRegs t ops := by
  intro x hx
  simp only [inRange, Bool.and_eq_true, List.all_eq_true] at h
  obtain ⟨hplain, hvx⟩ := h
  refine ⟨by simpa using (hplain x hx).2, fun l hl k hk => ?_⟩
  have := hvx l hl x hx
  simpa [hk] using this

theorem plain_of_inRange {t : Team} {ops : List (Opnd × Nat)} (h : inRange t ops = true) {x : Opnd × Nat} (hx : x ∈ ops) :
    plainOpnd x.1 = true := by
  simp only [inRange, Bool.and_eq_true, List.all_eq_true] at h
  obtain ⟨hplain, -⟩ := h
  exact (hplain x hx).1

theorem withinRegs_v {t : Team} {d : Fin 128} {n : Nat} (h : d.val + n ≤ t.nregs) : WithinRegs t [(.v d, n)] := by
  intro x hx
  rw [List.mem_singleton.1 hx]
  exact ⟨if_neg (by omega), fun _ _ _ h => nomatch h⟩

/-- What a team reads with no write outstanding does not depend on the cycle. -/
theorem guard_nil {t : Team} (h : t.pend = []) (c l : Nat) : t.guard c l = t.guard 0 l := by
  rw [Team.guard, Team.guard, read_nil _ _ _ _ h, read_nil _ _ _ _ h]
theorem vxIndex_nil {t : Team} (h : t.pend = []) (c k l : Nat) : vxIndex t c k l = vxIndex t 0 k l := by
  rw [vxIndex, vxIndex, read_nil _ _ _ _ h, read_nil _ _ _ _ h]
theorem readWords_nil {t : Team} (h : t.pend = []) (c l n : Nat) : ∀ r, readWords t c l r n = readWords t 0 l r n := by
  induction n with
  | zero => exact fun _ => rfl
  | succ n ih => intro r; rw [readWords, readWords, ih, read_nil _ _ _ _ h, read_nil _ _ _ _ h]
theorem readOp_nil {t : Team} (h : t.pend = []) (c l : Nat) (b : Bool) (o : Opnd) : readOp t c b o l = readOp t 0 b o l := by
  have hv (r : Nat) : readV t c b r l = readV t 0 b r l := by simp only [readV, read_nil _ _ _ _ h]
  cases o with
  | v n => exact hv n
  | vx k => exact (hv _).trans (by rw [vxIndex_nil h]; rfl)
  | _ => simp only [readOp, read_nil _ _ _ _ h]
theorem readGrp_nil {t : Team} (h : t.pend = []) (c n l : Nat) (o : Opnd) : readGrp t c n o l = opVal t n o l := by
  cases o with
  | v r => exact readWords_nil h c l n r
  | vx k => exact (readWords_nil h c l n _).trans (by rw [vxIndex_nil h]; rfl)
  | _ => simp only [opVal, readGrp, readOp_nil h c]

theorem rangeChecks_ok {t : Team} {ops : List (Opnd × Nat)} (h : WithinRegs t ops) : rangeChecks t ops = .ok () := by
  have hnone : ops.findSome? (fun x => vRange t x.1 x.2) = none := List.findSome?_eq_none_iff.2 (fun x hx => (h x hx).1)
  rw [rangeChecks, hnone]

theorem vxChecks_ok {t : Team} {ops : List (Opnd × Nat)} (ht : t.pend = []) (h : WithinRegs t ops) (ps : List Pass) :
    vxChecks t ps ops (activeLanes t) = .ok () := by
  unfold vxChecks
  dsimp only
  split
  · rfl
  · rw [List.findSome?_eq_none_iff.2 fun l hl => List.findSome?_eq_none_iff.2 fun k hk => ?_]
    obtain ⟨x, hx, hxk⟩ := List.mem_filterMap.1 hk
    split at hxk
    · next v hv =>
      have hle := (h x hx).2 l hl v hv
      rw [← Option.some.inj hxk, vxIndex_nil ht]
      exact if_neg (Nat.not_lt.2 hle)
    · exact nomatch hxk

theorem poisonChecks_ok {t : Team} (h : t.vPoison = []) (ps : List Pass) (reads : List (Opnd × Nat)) (lanes : List Nat) :
    poisonChecks t ps reads lanes = .ok () := by
  simp [poisonChecks, poisonLane, h]

/-- The passes of an instruction of a ready team, over the words of lanes given. -/
theorem passesOf_ready {s : State} (h : ready s = true) (op : Nat) (ws : List (Nat × Nat)) (vreads vxs : List Nat) (uses : List Use) :
    ∃ ps : List Pass, ps.map (fun p => (p.lo, p.n)) = ws ∧ passesOf s s.cur op ws vreads vxs uses = .ok ps :=
  ⟨_, schedule_length _ _ _ _, passesOf_ok s s.cur op ws vreads vxs uses (ready_flight h) (ready_passes h) (ready_onePass h)⟩

/-- At a ready team a lane-wise instruction of accepted fields, type and registers comes to taking its sources: its checks pass, and its passes
cover the words of lanes that hold an active one (08 R161). -/
theorem laneOp_ready {s : State} {f : LaneForm} (h : ready s = true) (hf : f.fields.all (·.2) = true)
    (hty : (f.tyOk && dqTyOk s.me.mr f.srcs) = true) (hreach : WithinRegs s.me (f.dst :: f.srcs)) :
    ∃ ps : List Pass, ps.map (fun p => (p.lo, p.n)) = passWords s.me f.is64 ∧ laneOp s s.cur s.me f =
      (takeSrcs (settle s s.cur (firstPass ps)) s.cur f.srcs).bind (fun k =>
        (pushRoom k.s (k.s.team s.cur) f.dst.1 f.dst.2).bind (fun _ => .ok (lanesEnd f s.cur ps k))) := by
  obtain ⟨ps, hcover, hps⟩ := passesOf_ready h f.op (passWords s.me f.is64) (bankReads (if f.readD then f.dst :: f.srcs else f.srcs))
    (vxOps (f.dst :: f.srcs)) ((guardUse s.me :: indexUses s.me (f.dst :: f.srcs)) ++ (f.dst :: f.srcs).map (grpUse s.me))
  refine ⟨ps, hcover, ?_⟩
  unfold laneOp
  rw [hty]
  simp only [decodeChecks_ok s.me f.word f.fields (ready_pace h) hf, rangeChecks_ok hreach, hps, vxChecks_ok (ready_pend h) hreach,
    poisonChecks_ok (ready_vPoison h), undersized_nil _ _ _ _ _ (ready_pend h), bind, Except.bind]
  rfl

/-! ### The lanes of the passes -/

/-- The lanes in which the passes of an instruction write, each with the cycle of its pass. -/
def laneTimes (t : Team) (ps : List Pass) : List (Nat × Nat) :=
  ps.flatMap (fun p => ((span p.lo p.n).filter (takesPart t)).map (fun l => (l, p.at_)))

theorem mem_span {a n l : Nat} : l ∈ span a n ↔ a ≤ l ∧ l < a + n := by
  rw [span, List.mem_map]
  constructor
  · rintro ⟨k, hk, rfl⟩; have := List.mem_range.1 hk; omega
  · rintro ⟨h1, h2⟩; exact ⟨l - a, List.mem_range.2 (by omega), by omega⟩

/-- A word of 32 lanes that holds an active one has a pass. -/
theorem word_active {t : Team} {l : Nat} (h : t.active l = true) : (t.mask >>> (32 * (l / 32))).extractLsb' 0 32 ≠ 0 := by
  intro hz
  have hbit := congrArg (·.getLsbD (l % 32)) hz
  rw [BitVec.getLsbD_extractLsb', BitVec.getLsbD_ushiftRight] at hbit
  have hl : 32 * (l / 32) + (0 + l % 32) = l := by omega
  have hr : decide (l % 32 < 32) = true := decide_eq_true (Nat.mod_lt _ (by decide))
  rw [hl, hr, Bool.true_and, show t.mask.getLsbD l = true from h] at hbit
  simp at hbit

/-- The passes of a 32-bit operation hold every active lane of the team, and no lane beyond it. -/
theorem passWords_cover {t : Team} {l : Nat} (hlanes : 5 ≤ t.lanesLog) (hl : t.active l = true) :
    (∃ w ∈ passWords t false, l ∈ span w.1 w.2) ↔ l < t.lanes := by
  have hwords : 32 * (t.lanes / 32) = t.lanes := Nat.mul_div_cancel' (Nat.pow_dvd_pow 2 hlanes)
  have hmem (w : Nat) : w ∈ (List.range (t.lanes / 32)).filter (fun w => (t.mask >>> (32 * w)).extractLsb' 0 32 != 0) ↔
      w < t.lanes / 32 ∧ (t.mask >>> (32 * w)).extractLsb' 0 32 ≠ 0 := by simp
  unfold passWords
  generalize (List.range (t.lanes / 32)).filter (fun w => (t.mask >>> (32 * w)).extractLsb' 0 32 != 0) = ws at hmem ⊢
  constructor
  · rintro ⟨w, hw, hlw⟩
    rw [mem_span] at hlw
    dsimp only at hw
    split at hw
    · rw [List.mem_singleton.1 hw] at hlw; omega
    · obtain ⟨k, hk, rfl⟩ := List.mem_map.1 hw
      have := ((hmem k).1 hk).1
      dsimp only at hlw
      omega
  · intro h
    have hk : l / 32 ∈ ws := (hmem _).2 ⟨by omega, word_active hl⟩
    have hne : ws.isEmpty = false := List.isEmpty_eq_false_iff_exists_mem.2 ⟨_, hk⟩
    dsimp only
    rw [if_neg (by simp [hne]), if_neg (by decide)]
    exact ⟨_, List.mem_map.2 ⟨_, hk, rfl⟩, mem_span.2 (by omega)⟩

/-- The passes write in the lanes in which the instruction has an effect. -/
theorem mem_laneTimes {t : Team} {ps : List Pass} (hlanes : 5 ≤ t.lanesLog) (hps : ps.map (fun p => (p.lo, p.n)) = passWords t false) (l : Nat) :
    l ∈ (laneTimes t ps).map (·.1) ↔ writesLane t false l := by
  have hmem : l ∈ (laneTimes t ps).map (·.1) ↔ (∃ w ∈ passWords t false, l ∈ span w.1 w.2) ∧ takesPart t l = true := by
    rw [← hps]
    simp only [laneTimes, List.mem_map, List.mem_flatMap, List.mem_filter]
    constructor
    · rintro ⟨_, ⟨p, hp, _, ⟨hl, hpart⟩, rfl⟩, rfl⟩
      exact ⟨⟨_, ⟨p, hp, rfl⟩, hl⟩, hpart⟩
    · rintro ⟨⟨_, ⟨p, hp, rfl⟩, hl⟩, hpart⟩
      exact ⟨_, ⟨p, hp, l, ⟨hl, hpart⟩, rfl⟩, rfl⟩
  rw [hmem, writesLane, takesPart, Bool.and_eq_true]
  constructor
  · rintro ⟨hw, ha, hg⟩
    exact ⟨(passWords_cover hlanes ha).1 hw, ha, .inr hg⟩
  · rintro ⟨hl, ha, hg⟩
    exact ⟨(passWords_cover hlanes ha).2 hl, ha, by simpa using hg⟩

/-! ### MOV in its lanes -/

theorem zSet_same (lf : Cells W32) (l : Nat) : zSet lf l (zGet lf l) = lf := if_pos rfl

/-- What a copying form of one source computes: its source's value in each lane of the passes, no flag, and no step of an LFSR. -/
theorem lanesRun_copy {t : Team} {f : LaneForm} {k : Taken} {x : Src} {o : Opnd} {n : Nat} (ps : List Pass) (ht : t.pend = [])
    (hf : f.f = fun i => { val := i.a, z := i.z }) (hall : f.all = false) (hsrc : f.srcs = [(o, n)]) (hk : k.srcs = [x])
    (hflags : k.flags = fun _ => 0) :
    lanesRun t f k ps = { vals := ((laneTimes t ps).map (fun e => (e.1, e.2, x.word t e.2 n e.1))).reverse, lf := k.lf } := by
  have step (p : Pass) (acc : LaneAcc) (l : Nat) : laneStep t f k p acc l =
      if takesPart t l then { acc with vals := (l, p.at_, x.word t p.at_ n l) :: acc.vals } else acc := by
    simp [laneStep, takesPart, guard_nil ht p.at_ l, hf, hall, hsrc, hk, hflags, zSet_same]
  have pass (p : Pass) (ls : List Nat) : ∀ acc : LaneAcc, ls.foldl (laneStep t f k p) acc = { acc with
      vals := ((ls.filter (takesPart t)).map (fun l => (l, p.at_, x.word t p.at_ n l))).reverse ++ acc.vals } := by
    induction ls with
    | nil => exact fun _ => rfl
    | cons l r ih =>
      intro acc
      rw [List.foldl_cons, ih, step]
      cases hl : takesPart t l <;> simp [hl]
  have run (ps : List Pass) : ∀ acc : LaneAcc, ps.foldl (fun acc p => (span p.lo p.n).foldl (laneStep t f k p) acc) acc = { acc with
      vals := ((laneTimes t ps).map (fun e => (e.1, e.2, x.word t e.2 n e.1))).reverse ++ acc.vals } := by
    induction ps with
    | nil => exact fun _ => rfl
    | cons p r ih =>
      intro acc
      rw [List.foldl_cons, ih, pass]
      simp [laneTimes, Function.comp_def]
  rw [lanesRun, run, List.append_nil]

/-! ### Queue entries -/

theorem cget_foldl_cset (g : Nat → W32) (ls : List Nat) (l : Nat) : ∀ m : Cells W32,
    cget 0 (ls.foldl (fun m l => cset 0 m l (g l)) m) l = if l ∈ ls then g l else cget 0 m l := by
  induction ls with
  | nil => exact fun _ => rfl
  | cons a r ih =>
    intro m
    rw [List.foldl_cons, ih]
    by_cases hr : l ∈ r
    · rw [if_pos hr, if_pos (List.mem_cons_of_mem a hr)]
    · rw [if_neg hr, cget_cset]
      by_cases ha : l = a <;> simp [ha, hr]

/-- The entry that values of lanes make. -/
def laneEntry (ls : List Nat) (g : Nat → Nat) : QEntry := { vals := ls.foldl (fun m l => cset 0 m l (w32 (g l % 2 ^ 32))) [] }

theorem laneEntry_val (ls : List Nat) (g : Nat → Nat) (l : Nat) :
    cget 0 (laneEntry ls g).vals l = if l ∈ ls then w32 (g l % 2 ^ 32) else 0 :=
  cget_foldl_cset (fun l => w32 (g l % 2 ^ 32)) ls l []

theorem entriesOf_one (ls : List Nat) (g : Nat → Nat) : entriesOf (ls.map (fun l => (l, g l))) 1 = [laneEntry ls g] := by
  simp [entriesOf, laneEntry, List.foldl_map]

/-! ### One source, and one destination -/

/-- Where no write is outstanding, performing those that are due leaves every team. -/
theorem settle_teams {s : State} {ti : Nat} (h : (s.team ti).pend = []) (c j : Nat) : (settle s ti c).team j = s.team j := by
  by_cases hj : j = ti
  · rw [hj, settle_team s ti c h]
  · exact (settle_onlyTeam s ti c).2.1 j hj

/-- Sources taken that leave the drain port and the LFSRs of the team as they are. -/
def takenOf (s : State) (ti : Nat) (l : List Src) : Taken :=
  { s := s, srcs := l, drain := (s.team ti).drain, lf := (s.team ti).lfsr, flags := fun _ => 0 }

/-- An instruction of one source that is not the drain port takes that source alone. -/
theorem takeSrcs_one {s s' : State} {ti n : Nat} {o : Opnd} {l : List Src} (ho : o ≠ .dq)
    (h : peekSrcs s ti (fun _ => none) [] [(o, n)] = .ok (s', l)) : takeSrcs s ti [(o, n)] = .ok (takenOf s' ti l) := by
  have hdq : (o == Opnd.dq) = false := beq_eq_false_iff_ne.2 ho
  simp [takeSrcs, takenOf, h, hdq, bind, Except.bind]

theorem takeSrcs_one_stops {s : State} {ti n : Nat} {o : Opnd} {x : Stop} (ho : o ≠ .dq)
    (h : peekSrcs s ti (fun _ => none) [] [(o, n)] = .error x) : takeSrcs s ti [(o, n)] = .error x := by
  have hdq : (o == Opnd.dq) = false := beq_eq_false_iff_ne.2 ho
  simp [takeSrcs, h, hdq, bind, Except.bind]

theorem peekSrcs_plain {s : State} {ti n : Nat} {o : Opnd} (ho : plainOpnd o = true) :
    peekSrcs s ti (fun _ => none) [] [(o, n)] = .ok (s, [.op o]) := by
  cases o with
  | q k => exact nomatch ho
  | _ => rfl

/-- A queue whose head carries no poison is read as it stands. -/
theorem entryAt_same {s : State} {ti n : Nat} (h : ∀ e es, ((s.team ti).q n).entries = e :: es → e.poison = none) : entryAt s ti n 0 = s := by
  unfold entryAt
  dsimp only
  cases hq : ((s.team ti).q n).entries with
  | nil => rfl
  | cons e es =>
    obtain ⟨vals, poison⟩ := e
    have hnone : poison = none := h _ _ hq
    subst hnone
    rfl

/-- A queue whose head carries no poison gives it (R192). -/
theorem peekSrcs_head {s : State} {ti : Nat} {k : Fin 8} {e : QEntry} {es : List QEntry} (h : ((s.team ti).q k.val).entries = e :: es)
    (he : e.poison = none) : peekSrcs s ti (fun _ => none) [] [(.q k, 1)] = .ok (s, [.ent [e]]) := by
  have hat : entryAt s ti k.val 0 = s := entryAt_same (by rw [h]; rintro _ _ ⟨rfl, rfl⟩; exact he)
  simp [peekSrcs, peekEntries, takenBefore, hat, h, he]

/-- What a queue with no entry makes of an instruction that reads it (R192, 10 R212). -/
def emptyStop (s : State) (t : Team) (k : Nat) : Stop :=
  if streamConsumed t k then trapAt 0x09 k 0 else if producerEnded s t k then trapAt 0x08 k 0 else .block (.wait 0)

theorem peekSrcs_empty {s : State} {ti : Nat} {k : Fin 8} (h : ((s.team ti).q k.val).entries = []) :
    peekSrcs s ti (fun _ => none) [] [(.q k, 1)] = .error (emptyStop s (s.team ti) k.val) := by
  have hat : entryAt s ti k.val 0 = s := entryAt_same (by rw [h]; exact nofun)
  have hpeek : peekEntries s ti k.val 0 1 = .error (emptyStop s (s.team ti) k.val) := by
    unfold emptyStop
    simp only [peekEntries, hat, h, List.getElem?_nil]
    split
    · rfl
    · split <;> rfl
  simp [peekSrcs, takenBefore, hpeek]

theorem addFlags_zero (t : Team) : t.addFlags 0 = t := by
  simp [Team.addFlags, w64]

/-! ### MOV -/

/-- MOV as a lane-wise instruction of the issuing team. -/
def movForm (s : State) (d a : Opnd) : LaneForm :=
  { op := 0x34, word := wordF3 0x34 d a (.v 0), fields := [fld d (dstOk s s.me), fld a (srcOk s.me), fld (.v 0) okZero],
    tyOk := tyCheck s.me.mr (fun _ => true) rndNever, is64 := false, dst := (d, 1), srcs := [(a, 1)], f := fun i => { val := i.a, z := i.z } }

theorem exec_mov {s : State} (h32 : mr64 s.me.mr = false) (d a : Opnd) :
    exec (.mov d a (.v 0)) s = runInstr s (fun _ _ => laneOp s s.cur s.me (movForm s d a)) := by
  have he : exec (.mov d a (.v 0)) s = execMov d a (.v 0) s := rfl
  have hw : mrWords s.me.mr = 1 := by rw [mrWords, h32]; rfl
  simp only [State.me] at h32 hw
  simp only [he, execMov, runInstr, hw, h32, movForm, State.me]

/-- A MOV of 32-bit registers at a ready team comes to taking its source. -/
theorem mov_ready {s : State} {d a : Opnd} (h : ready s = true) (hty : mrTyValid s.me.mr = true) (h32 : mr64 s.me.mr = false)
    (hd : dstOk s s.me d = true) (ha : srcOk s.me a = true) (hdq : a ≠ .dq) (hreach : WithinRegs s.me [(d, 1), (a, 1)]) :
    ∃ ps : List Pass, ps.map (fun p => (p.lo, p.n)) = passWords s.me false ∧
      (∀ k, takeSrcs (settle s s.cur (firstPass ps)) s.cur [(a, 1)] = .ok k → pushRoom k.s (k.s.team s.cur) d 1 = .ok () →
        exec (.mov d a (.v 0)) s = .next (lanesEnd (movForm s d a) s.cur ps k)) ∧
      (∀ x, takeSrcs (settle s s.cur (firstPass ps)) s.cur [(a, 1)] = .error x → exec (.mov d a (.v 0)) s = .next (stopped s s.cur x)) := by
  have hdqTy : dqTyOk s.me.mr (movForm s d a).srcs = true := by simp [dqTyOk, movForm, hdq]
  have htyOk : (movForm s d a).tyOk = true := by simp [movForm, tyCheck, hty, rndNever]
  obtain ⟨ps, hcover, hrun⟩ := laneOp_ready (f := movForm s d a) h (by simp [movForm, fld, hd, ha, okZero]) (by rw [hdqTy, htyOk]; rfl) hreach
  refine ⟨ps, hcover, fun k hk hroom => ?_, fun x hx => ?_⟩
  · refine (exec_mov h32 d a).trans (runInstr_ok s _ _ h (hrun.trans ?_))
    rw [show (movForm s d a).srcs = [(a, 1)] from rfl, hk]
    exact congrArg (fun r : Except Stop Unit => r.bind (fun _ => .ok (lanesEnd (movForm s d a) s.cur ps k))) hroom
  · refine (exec_mov h32 d a).trans (runInstr_stop s x _ h (hrun.trans ?_))
    rw [show (movForm s d a).srcs = [(a, 1)] from rfl, hx]
    rfl

/-- What the passes of a MOV make of its source: lane, cycle and value of each. -/
def movVals (t : Team) (ps : List Pass) (x : Src) : List (Nat × Nat × Nat) :=
  (laneTimes t ps).map (fun e => (e.1, e.2, x.word t e.2 1 e.1))

/-- The issuing team once the sources taken are popped, and every other team. -/
theorem takenDone_of {s u : State} (hteams : ∀ j, u.team j = s.team j) (l : List Src) (srcs : List (Opnd × Nat)) :
    (takenDone (takenOf u s.cur l) s.cur srcs 0 (takenOf u s.cur l).lf).team s.cur = popSrcs s.me srcs ∧
    ∀ j, j ≠ s.cur → (takenDone (takenOf u s.cur l) s.cur srcs 0 (takenOf u s.cur l).lf).team j = s.team j := by
  constructor
  · rw [takenDone, updTeam_team, addFlags_zero]
    exact congrArg (popSrcs · srcs) (hteams s.cur)
  · intro j hj
    exact (updTeam_team_ne _ _ _ _ hj).trans (hteams j)

/-- Room in a queue is that of its target's entry. -/
theorem pushRoom_congr {s u : State} (hcrews : u.crews = s.crews) (hteams : ∀ j, u.team j = s.team j) (t : Team) (o : Opnd) (m : Nat) :
    pushRoom u t o m = pushRoom s t o m := by
  have htarget : pushTarget u t o = pushTarget s t o := by
    simp only [pushTarget, crewTeam, State.crew, hcrews]
  simp only [pushRoom, htarget, hteams]

/-- A MOV of 32-bit registers whose source is there and whose destination has room completes: its source popped, its values pushed where the
destination is a queue, and its writes outstanding. -/
theorem mov_completes {s : State} {d a : Opnd} {x : Src} (h : ready s = true) (hty : mrTyValid s.me.mr = true) (h32 : mr64 s.me.mr = false)
    (hd : dstOk s s.me d = true) (ha : srcOk s.me a = true) (hdq : a ≠ .dq) (hreach : WithinRegs s.me [(d, 1), (a, 1)])
    (hsrc : ∀ u : State, u.team s.cur = s.me → peekSrcs u s.cur (fun _ => none) [] [(a, 1)] = .ok (u, [x]))
    (hroom : pushRoom s s.me d 1 = .ok ()) : ∃ (u : State) (ps : List Pass), ps.map (fun p => (p.lo, p.n)) = passWords s.me false ∧
      u.cur = s.cur ∧ u.crews = s.crews ∧ u.team s.cur = popSrcs s.me [(a, 1)] ∧ (∀ j, j ≠ s.cur → u.team j = s.team j) ∧
      exec (.mov d a (.v 0)) s = .next (retire (lanesPushed u s.me (movForm s d a) (movVals s.me ps x)) s.cur 0x34 1 ps false
        (lanesWrites s.me (movForm s d a) (movVals s.me ps x))) := by
  obtain ⟨ps, hcover, hrun, -⟩ := mov_ready h hty h32 hd ha hdq hreach
  have hteams := settle_teams (s := s) (ti := s.cur) (ready_pend h) (firstPass ps)
  have hcur : (settle s s.cur (firstPass ps)).cur = s.cur := rfl
  have hcrews : (settle s s.cur (firstPass ps)).crews = s.crews := rfl
  generalize settle s s.cur (firstPass ps) = u at hrun hteams hcur hcrews
  have hme : u.team s.cur = s.me := hteams s.cur
  have hroom' : pushRoom u (u.team s.cur) d 1 = .ok () := by rw [hme, pushRoom_congr hcrews hteams, hroom]
  have hlanes : lanesRun s.me (movForm s d a) (takenOf u s.cur [x]) ps = { vals := (movVals s.me ps x).reverse, lf := (takenOf u s.cur [x]).lf } :=
    lanesRun_copy ps (ready_pend h) rfl rfl rfl rfl rfl
  have hend : lanesEnd (movForm s d a) s.cur ps (takenOf u s.cur [x]) = retire
      (lanesPushed (takenDone (takenOf u s.cur [x]) s.cur [(a, 1)] 0 (takenOf u s.cur [x]).lf) s.me (movForm s d a) (movVals s.me ps x))
      s.cur 0x34 1 ps false (lanesWrites s.me (movForm s d a) (movVals s.me ps x)) := by
    unfold lanesEnd
    dsimp only
    rw [show (takenOf u s.cur [x]).s.team s.cur = s.me from hme, hlanes]
    dsimp only
    rw [List.reverse_reverse]
    rfl
  obtain ⟨hpop, hothers⟩ := takenDone_of hteams [x] [(a, 1)]
  exact ⟨takenDone (takenOf u s.cur [x]) s.cur [(a, 1)] 0 (takenOf u s.cur [x]).lf, ps, hcover, hcur, hcrews, hpop, hothers,
    hend ▸ hrun _ (takeSrcs_one hdq (hsrc u hme)) hroom'⟩

/-- What a queue with no entry makes of a MOV that reads it. -/
theorem mov_stops {s : State} {d : Opnd} {k : Fin 8} (h : ready s = true) (hty : mrTyValid s.me.mr = true) (h32 : mr64 s.me.mr = false)
    (hd : dstOk s s.me d = true) (hr : qReadable s.me (.q k) = true) (hreach : WithinRegs s.me [(d, 1)]) (hnone : (s.me.q k.val).entries = []) :
    exec (.mov d (.q k) (.v 0)) s = .next (stopped s s.cur (emptyStop s s.me k.val)) := by
  obtain ⟨ps, -, -, hstop⟩ := mov_ready (a := .q k) h hty h32 hd (by simp [srcOk, okSrc, hr]) (nofun)
    (withinRegs_cons hreach (withinRegs_queue _ _ _))
  have hteams := settle_teams (s := s) (ti := s.cur) (ready_pend h) (firstPass ps)
  have hme : (settle s s.cur (firstPass ps)).team s.cur = s.me := hteams s.cur
  have hended : producerEnded (settle s s.cur (firstPass ps)) s.me k.val = producerEnded s s.me k.val := by
    have hcrew : crewTeam (settle s s.cur (firstPass ps)) = crewTeam s := rfl
    simp only [producerEnded, hcrew, hteams]
  refine hstop _ (takeSrcs_one_stops nofun ((peekSrcs_empty (by rw [hme]; exact hnone)).trans ?_))
  rw [hme, emptyStop, hended]
  rfl

theorem popSrcs_plain (t : Team) {o : Opnd} (n : Nat) (ho : plainOpnd o = true) : popSrcs t [(o, n)] = t := by
  cases o with
  | q k => exact nomatch ho
  | _ => rfl

/-- The queue that an outgoing queue feeds. -/
theorem pushTarget_queue {s : State} {t : Team} {k : Fin 8} {p : Nat} (h : crewTeam s t.crew (bindPeer (t.q k.val).bind) = some p) :
    pushTarget s t (.q k) = some (p, bindPq (t.q k.val).bind) := by
  simp only [pushTarget, h, Option.map_some]

/-- The issuing team after an instruction of one word has retired, whatever its instruction did to other teams. -/
theorem retire_step {s u : State} (op : Nat) (ps : List Pass) (ws : List PendWrite) (hcur : u.cur = s.cur) :
    (retire u s.cur op 1 ps false ws).me.untimed =
      { u.team s.cur with pc := nextPc (u.team s.cur).pc 1, pend := (u.team s.cur).pend ++ ws }.untimed := by
  rw [State.me, (retire_onlyTeam u s.cur op 1 ps false ws).cur, hcur, retire_me]

/-- MOV into a queue with room (R191). -/
theorem mov_pushes {s : State} {k : Fin 8} {a : Opnd} {p : Nat} (h : ready s = true) (hty : mrTyValid s.me.mr = true)
    (h32 : mr64 s.me.mr = false) (hw : qWritable s s.me (.q k) = true) (ha : okSrc false a = true) (hin : inRange s.me [(a, 1)] = true)
    (hp : p ≠ s.cur) (hpeer : crewTeam s s.me.crew (bindPeer (s.me.q k.val).bind) = some p)
    (hroom : ((s.team p).q (bindPq (s.me.q k.val).bind)).entries.length < 8) :
    ∃ t ls, exec (.mov (.q k) a (.v 0)) s = .next t ∧ t.me.untimed = s.me.stepped.untimed ∧
      ((t.team p).q (bindPq (s.me.q k.val).bind)).entries =
        ((s.team p).q (bindPq (s.me.q k.val).bind)).entries ++ [laneEntry ls (opVal s.me 1 a)] ∧ ∀ l, l ∈ ls ↔ writesLane s.me false l := by
  have hplain : plainOpnd a = true := plain_of_inRange hin (List.mem_singleton_self _)
  have hdq : a ≠ .dq := fun e => by subst e; exact nomatch hplain
  have hread : qReadable s.me a = true := by
    cases a with
    | q n => exact nomatch hplain
    | _ => rfl
  have htarget := pushTarget_queue hpeer
  obtain ⟨u, ps, hcover, hcur, hcrews, hme, hothers, hexec⟩ := mov_completes (d := .q k) (x := .op a) h hty h32 (by simp [dstOk, okDst, hw])
    (by simp [srcOk, h32, ha, hread]) hdq (withinRegs_cons (withinRegs_queue _ _ _) (withinRegs_of_inRange hin)) (fun _ _ => peekSrcs_plain hplain)
    (by simp only [pushRoom, htarget]; exact if_pos hroom)
  have hlanes : (movVals s.me ps (.op a)).map (fun v => (v.1, v.2.2)) =
      ((laneTimes s.me ps).map (·.1)).map (fun l => (l, opVal s.me 1 a l)) := by
    simp [movVals, Src.word, readGrp_nil (ready_pend h)]
  have hpushed : lanesPushed u s.me (movForm s (.q k) a) (movVals s.me ps (.op a)) = u.updTeam p (fun x =>
      x.setQ (bindPq (s.me.q k.val).bind) { x.q (bindPq (s.me.q k.val).bind) with entries :=
        (x.q (bindPq (s.me.q k.val).bind)).entries ++ [laneEntry ((laneTimes s.me ps).map (·.1)) (opVal s.me 1 a)] }) := by
    have hu : pushTarget u s.me (.q k) = some (p, bindPq (s.me.q k.val).bind) :=
      pushTarget_queue (by rw [crewTeam, crew_of_crews hcrews]; exact hpeer)
    simp only [lanesPushed, movForm, hlanes, entriesOf_one, pushEntries, hu]
  have hwrites : lanesWrites s.me (movForm s (.q k) a) (movVals s.me ps (.op a)) = [] := by
    simp [lanesWrites, movForm, grpWrites, dstWrites]
  rw [hpushed, hwrites] at hexec
  refine ⟨_, (laneTimes s.me ps).map (·.1), hexec, ?_, ?_, mem_laneTimes (ready_lanes h).1 hcover⟩
  · rw [retire_step 0x34 ps [] (show (u.updTeam p _).cur = s.cur from hcur), updTeam_team_ne _ _ _ _ hp.symm, hme, popSrcs_plain _ _ hplain, List.append_nil]
    rfl
  · rw [(retire_onlyTeam _ _ _ _ _ _ _).2.1 p hp, updTeam_team, hothers p hp, setQ_q]

theorem entry_word (t : Team) (c l : Nat) (e : QEntry) : Src.word t c 1 l (.ent [e]) = (cget 0 e.vals l).toNat := by
  simp [Src.word, Src.val]

theorem grpWrites_v (t : Team) (d : Fin 128) (c l : Nat) (v : W32) : grpWrites t 1 (.v d) c l v.toNat = [(.v d.val, l, v.setWidth 64)] := by
  simp only [grpWrites, wordWrites, w64, Nat.mod_eq_of_lt v.isLt, BitVec.ofNat_toNat]

/-- MOV from a queue that holds an entry (R192). -/
theorem mov_pops {s : State} {d : Fin 128} {k : Fin 8} {e : QEntry} {es : List QEntry} (h : ready s = true) (hty : mrTyValid s.me.mr = true)
    (h32 : mr64 s.me.mr = false) (hr : qReadable s.me (.q k) = true) (hd : d.val < s.me.nregs) (hq : (s.me.q k.val).entries = e :: es)
    (he : e.poison = none) : ∃ t W, exec (.mov (.v d) (.q k) (.v 0)) s = .next t ∧
      t.me.untimed = { s.me.stepped.setQ k.val { s.me.q k.val with entries := es } with pend := W }.untimed ∧
      ∀ r l v, (∃ w ∈ W, w.reg = r ∧ w.lane = l ∧ w.val = v ∧ w.il = true) ↔
        writesLane s.me false l ∧ r = .v d.val ∧ v = (cget 0 e.vals l).setWidth 64 := by
  obtain ⟨u, ps, hcover, hcur, -, hme, -, hexec⟩ := mov_completes (d := .v d) (a := .q k) (x := .ent [e]) h hty h32
    (by simp [dstOk, okDst, h32, qWritable]) (by simp [srcOk, okSrc, hr]) nofun (withinRegs_cons (withinRegs_v hd) (withinRegs_queue _ _ _))
    (fun u hu => peekSrcs_head (by rw [hu]; exact hq) he) rfl
  have hpop : popSrcs s.me [(.q k, 1)] = s.me.setQ k.val { s.me.q k.val with entries := es } := by
    simp [popSrcs, hq]
  refine ⟨_, lanesWrites s.me (movForm s (.v d) (.q k)) (movVals s.me ps (.ent [e])), hexec, ?_, fun r l v => ?_⟩
  · rw [show lanesPushed u s.me (movForm s (.v d) (.q k)) (movVals s.me ps (.ent [e])) = u from rfl, retire_step _ _ _ hcur, hme, hpop]
    have hpend : (s.me.setQ k.val { s.me.q k.val with entries := es }).pend = [] := ready_pend h
    rw [hpend, List.nil_append]
    rfl
  · rw [← mem_laneTimes (ready_lanes h).1 hcover l]
    have hwrites : lanesWrites s.me (movForm s (.v d) (.q k)) (movVals s.me ps (.ent [e])) = (laneTimes s.me ps).map (fun x =>
        { reg := .v d.val, lane := x.1, val := (cget 0 e.vals x.1).setWidth 64, due := x.2 + latencyOf 0x34, pc := s.me.pc, il := true }) := by
      rw [lanesWrites, movVals, List.flatMap_map, List.map_eq_flatMap]
      refine congrArg (List.flatMap · _) (funext fun x => ?_)
      simp only [movForm, entry_word, grpWrites_v, List.map_cons, List.map_nil]
      rfl
    rw [hwrites]
    simp only [List.mem_map]
    constructor
    · rintro ⟨w, ⟨x, hx, rfl⟩, rfl, rfl, rfl, -⟩
      exact ⟨⟨x, hx, rfl⟩, rfl, rfl⟩
    · rintro ⟨⟨x, hx, rfl⟩, rfl, rfl⟩
      exact ⟨_, ⟨x, hx, rfl⟩, rfl, rfl, rfl, rfl⟩

/-- Settles O16: a MOV whose source is there and whose destination has room ends in one state (`mov_completes`), which `mov_pushes` and `mov_pops`
read off; what it makes of a queue with no entry is `emptyStop`. -/
theorem laneQueues : Obligations.LaneQueues := by
  unfold Obligations.LaneQueues
  refine ⟨?push, ?pop⟩
  case push =>
    intro s k a p h hty h32 hw ha hin hp hpeer j hj hroom
    subst hj
    obtain ⟨t, ls, hexec, hme, hentries, hlanes⟩ := mov_pushes h hty h32 hw ha hin hp hpeer hroom
    refine ⟨t, _, hexec, hme, hentries, rfl, fun l hl => ?_, fun l hl => ?_⟩
    · rw [laneEntry_val, if_pos ((hlanes l).2 hl)]
      simp [w32]
    · rw [laneEntry_val, if_neg (fun hm => hl ((hlanes l).1 hm))]
  case pop =>
    intro s d k h hty h32 hr hd
    have hdst : dstOk s s.me (.v d) = true := by simp [dstOk, okDst, h32, qWritable]
    have hstop := fun hq => mov_stops (d := .v d) h hty h32 hdst hr (withinRegs_v hd) hq
    refine ⟨fun e es hq he => mov_pops h hty h32 hr hd hq he, fun hq hc => ?_, fun hq hc hp => ?_, fun hq hc hp => ?_⟩
    · rw [Traps, hstop hq, emptyStop, if_pos hc]
    · rw [Traps, hstop hq, emptyStop, if_neg (by simp [hc]), if_pos hp]
    · refine ⟨_, hstop hq, ?_⟩
      rw [emptyStop, if_neg (by simp [hc]), if_neg (by simp [hp]), stopped]
      have hme (f : Team → Team) : (s.updTeam s.cur f).me = f s.me := updTeam_team _ _ _
      rw [hme]
      exact ⟨rfl, rfl⟩

end Sys2Proof.Machine
end

section
/-! SUPPORT. What no access to memory and no operation of Rubric's changes of a team: a write can end its sleep, a translation is noted among its
own, and a remote ENQ of it is counted. The rest of every team, and whose turn it is, stay. -/

namespace Sys2Proof.Machine

/-- A status but for whether the sleep, if it is one, has ended. -/
def TStatus.rested : TStatus → TStatus
  | .sleep m => .sleep { m with woken := false }
  | st => st

/-- A team but for what others' writes, its own translations and its remote ENQs change. -/
def Team.lasting (t : Team) : Team := { t with status := t.status.rested, lastPage := [], enqWait := 0 }

/-- Whose turn it is, and of every team what lasts. -/
def State.lasting (s : State) : Nat × (Nat → Team) := (s.cur, fun j => (s.team j).lasting)

theorem rested_eq_ended (st : TStatus) : st.rested = .ended ↔ st = .ended := by cases st <;> simp [TStatus.rested]

/-- A team that has ended stays so. -/
theorem me_ended_of_lasting {s t : State} (h : t.lasting = s.lasting) (hs : s.me.status = .ended) : t.me.status = .ended := by
  have hcur : t.cur = s.cur := congrArg Prod.fst h
  have hteam : (t.team s.cur).lasting = (s.team s.cur).lasting := congrFun (congrArg Prod.snd h) s.cur
  have hst : t.me.status.rested = s.me.status.rested := by rw [State.me, hcur]; exact congrArg Team.status hteam
  rwa [← rested_eq_ended, hst, rested_eq_ended]

theorem updTeam_lasting (s : State) (i : Nat) {f : Team → Team} (hf : (f (s.team i)).lasting = (s.team i).lasting) :
    (s.updTeam i f).lasting = s.lasting := by
  refine Prod.ext rfl (funext fun j => ?_)
  by_cases hj : j = i
  · subst hj; simpa [State.lasting] using hf
  · simp [State.lasting, hj]

theorem updCtx_lasting (s : State) (i : Nat) (f : Ctx → Ctx) : (s.updCtx i f).lasting = s.lasting := rfl

theorem wake_lasting (t : Team) : t.wake.lasting = t.lasting := by
  unfold Team.wake
  split
  · next h => simp [Team.lasting, h, TStatus.rested]
  · rfl

/-! ### Bytes -/

theorem touch_lasting (s : State) (line : Nat) : (s.touch line).lasting = s.lasting := by
  have wakes (l : Cells Team) (s : State) :
      (l.foldl (fun s e => if e.2.sleepsOn line then s.updTeam e.1 (·.wake) else s) s).lasting = s.lasting :=
    foldl_keeps _ State.lasting (fun s e => by
      split
      · exact updTeam_lasting s e.1 (wake_lasting _)
      · rfl) l s
  unfold State.touch
  generalize hs : (if s.queues.any (fun e => e.2.watch == some line) then
      { s with queues := s.queues.map (fun e => if e.2.watch = some line then (e.1, { e.2 with lineChanged := true }) else e) } else s) = s1
  have h1 : s1.lasting = s.lasting := by rw [← hs]; split <;> rfl
  refine .trans ?_ h1
  dsimp only
  split
  · exact wakes _ s1
  · rfl

theorem touchLines_lasting (ls : List Nat) (s : State) : (ls.foldl State.touch s).lasting = s.lasting :=
  foldl_keeps State.touch State.lasting touch_lasting ls s

theorem rewrites_lasting (s : State) (k n : Nat) : (s.rewrites k n).lasting = s.lasting := by
  unfold State.rewrites; dsimp only; split <;> rfl

theorem unhide_lasting (s : State) (p : Place) (n : Nat) : (s.unhide p n).lasting = s.lasting := by
  unfold State.unhide; split <;> rfl

theorem putMem_lasting (s : State) (k : Nat) (b : Byte) : (s.putMem k b).lasting = s.lasting := by
  unfold State.putMem; split <;> rfl

theorem putMemBytes_lasting (bs : List Byte) (s : State) (k : Nat) : (s.putMemBytes k bs).lasting = s.lasting := by
  induction bs generalizing s k with
  | nil => rfl
  | cons b r ih => exact (ih _ _).trans (putMem_lasting s k b)

theorem putHomeBytes_lasting (bs : List Byte) (s : State) (k : Nat) : (s.putHomeBytes k bs).lasting = s.lasting := by
  induction bs generalizing s k with
  | nil => rfl
  | cons b r ih => exact (ih _ _).trans (putMem_lasting s k b)

theorem putOverBytes_lasting (bs : List Byte) (s : State) (k : Nat) : (s.putOverBytes k bs).lasting = s.lasting := by
  induction bs generalizing s k with
  | nil => rfl
  | cons b r ih =>
    refine (ih _ _).trans ?_
    unfold State.putOver; split <;> rfl

theorem homePut_lasting (s : State) (k : Nat) (bs : List Byte) : (homePut s k bs).lasting = s.lasting :=
  (touchLines_lasting _ _).trans ((putHomeBytes_lasting bs _ k).trans (unhide_lasting s _ _))

/-! ### Writes of the device -/

theorem dirtyDie_lasting (s : State) (ctx die : Nat) : (s.dirtyDie ctx die).lasting = s.lasting := by
  unfold State.dirtyDie; split <;> rfl

theorem useL2_lasting (s : State) (line hint : Nat) : (useL2 s line hint).lasting = s.lasting := by
  unfold useL2; split <;> rfl

theorem post_lasting (s : State) (w ctx k : Nat) (bs : List Byte) : (s.post w ctx k bs).lasting = s.lasting := by
  unfold State.post
  split
  · exact putOverBytes_lasting bs s k
  · rfl

theorem putDevBytes_lasting (s : State) (w ctx k : Nat) (bs : List Byte) (hint : Nat) : (s.putDevBytes w ctx k bs hint).lasting = s.lasting := by
  unfold State.putDevBytes
  dsimp only
  split
  · exact post_lasting s w ctx k bs
  · generalize hs : (if decide (w < 512 ∧ w / 128 ≠ keyDie k) = true then
      storeMargin (s.dirtyDie ctx (w / 128)) (w / 128) (keyLines k bs.length) else s) = s1
    have h1 : s1.lasting = s.lasting := by
      rw [← hs]
      split
      · exact dirtyDie_lasting s ctx _
      · rfl
    refine .trans ?_ h1
    split
    · have lines := foldl_keeps (fun s l => useL2 s l (if hint = 3 then 0 else hint)) State.lasting (fun s l => useL2_lasting s l _)
      exact (putOverBytes_lasting bs _ k).trans ((lines _ _).trans (dirtyDie_lasting s1 ctx _))
    · split
      · exact putOverBytes_lasting bs s1 k
      · exact putHomeBytes_lasting bs s1 k

theorem putPlace_lasting (s : State) (w ctx : Nat) (p : Place) (bs : List Byte) (bad : Bool) (hint : Nat) :
    (putPlace s w ctx p bs bad hint).lasting = s.lasting := by
  refine (touchLines_lasting _ _).trans ?_
  cases p with
  | phys k => exact (putDevBytes_lasting _ w ctx k bs hint).trans (rewrites_lasting s k _)
  | _ => rfl

theorem seenBy_lasting (s : State) (core : Nat) (p : Place) (n : Nat) : (seenBy s core p n).lasting = s.lasting := by
  unfold seenBy seeWords; split <;> rfl

theorem storeBad_lasting (s : State) (core : Nat) (p : Place) (bs : List Byte) : (storeBad s core p bs).lasting = s.lasting := by
  unfold storeBad; split <;> rfl

theorem storeLine_lasting (s : State) (core : Nat) (p : Place) (hint : Nat) : (storeLine s core p hint).lasting = s.lasting := by
  unfold storeLine
  split
  · rfl
  · split <;> rfl

theorem shareWrite_lasting (s : State) (w ctx : Nat) (p : Place) (bs : List Byte) (bad : Bool) (hint : Nat) :
    (shareWrite s w ctx p bs bad hint).lasting = s.lasting := by
  have forms (n : Nat) (ps : List Place) (s : State) : (ps.foldl (fun s x => keepForm s n w x) s).lasting = s.lasting :=
    foldl_keeps (fun s x => keepForm s n w x) State.lasting (fun _ _ => rfl) ps s
  unfold shareWrite
  generalize hs : (if w < 512 then storeBad (seenBy s w p bs.length) w p bs else s) = s1
  have h1 : s1.lasting = s.lasting := by
    rw [← hs]
    split
    · exact (storeBad_lasting _ w p bs).trans (seenBy_lasting s w p _)
    · rfl
  refine (putPlace_lasting _ w ctx p bs bad hint).trans (.trans ?_ h1)
  split
  · exact forms _ _ s1.draw.2
  · rfl

/-! ### Accesses by address -/

theorem setBits_lasting (s : State) (key set : Nat) : (setBits s key set).lasting = s.lasting := by
  unfold setBits
  dsimp only
  split
  · rfl
  · exact (touchLines_lasting _ _).trans (putMem_lasting s key _)

theorem firstTouch_lasting (s : State) (ctx pte key : Nat) (write : Bool) : (firstTouch s ctx pte key write).1.lasting = s.lasting := by
  unfold firstTouch
  dsimp only
  split
  · rfl
  · exact homePut_lasting s key _

theorem walk_lasting (s : State) (ctx : Nat) (spec : Bool) (acc : Acc) (va : Nat) : (walk s ctx spec acc va).1.lasting = s.lasting := by
  unfold walk
  split
  · rfl
  · dsimp only
    split
    · rfl
    · exact setBits_lasting _ _ _
  · next e k _ =>
    have h := firstTouch_lasting s ctx e k acc.writes
    split <;> next e => rw [e] at h; exact h

theorem translate_lasting (s : State) (a : Agent) (acc : Acc) (va : Nat) : (translate s a acc va).1.lasting = s.lasting := by
  have hwalk := walk_lasting s a.ctx a.spec acc va
  unfold translate
  extract_lets core useLast last part ptlb ctlb keep
  clear_value core useLast last part ptlb ctlb
  -- A translation is kept in the TLB of a core's partition, and in the last-page registers of a team.
  have hpart (s : State) (h : Held) : (match core, part with
      | some c, some p => if a.source = 0 then s.updCore c (fun k => { k with ptlb := cset [] k.ptlb p (tlbPut 64 (cget [] k.ptlb p) h) }) else s
      | _, _ => s).lasting = s.lasting := by
    split
    · split <;> rfl
    · rfl
  have hkeep (s : State) (h : Held) : (keep s h).lasting = s.lasting := by
    refine .trans ?_ (hpart s h)
    dsimp only [keep]
    split
    · split
      · exact updTeam_lasting _ _ rfl
      · rfl
    · rfl
  split
  · rfl
  · split
    · exact hkeep s _
    · split
      · exact hkeep s _
      · split
        · next e => rw [e] at hwalk; exact hwalk
        · next s1 h e =>
          rw [e] at hwalk
          refine (hkeep _ h).trans (.trans ?_ hwalk)
          split <;> rfl

theorem hostLost_lasting (s : State) (a : Agent) (key : Nat) : (hostLost s a key).lasting = s.lasting := by
  unfold hostLost
  split
  · split <;> rfl
  · rfl

theorem place_lasting (s : State) (a : Agent) (acc : Acc) (va : Nat) : (place s a acc va).1.lasting = s.lasting := by
  have h := translate_lasting s a acc va
  unfold place
  split
  · rfl
  · split
    · next e => rw [e] at h; exact (hostLost_lasting _ a _).trans h
    · next e => rw [e] at h; exact h

theorem placeVa_lasting (s : State) (a : Agent) (acc : Acc) (va : Nat) : (placeVa s a acc va).1.lasting = s.lasting := by
  have h := place_lasting s a acc va
  unfold placeVa
  split <;> next e => rw [e] at h; exact h

theorem placesOf_lasting (a : Agent) (acc : Acc) (ps : List (Nat × Nat)) (s : State) : (placesOf s a acc ps).1.lasting = s.lasting := by
  induction ps generalizing s with
  | nil => rfl
  | cons p r ih =>
    have hp := placeVa_lasting s a acc p.1
    unfold placesOf
    split
    · next e => rw [e] at hp; exact hp
    · next s1 _ e =>
      rw [e] at hp
      refine .trans ?_ hp
      split
      · rfl
      · have hr := ih s1
        split <;> next e => rw [e] at hr; exact hr

theorem readVa_lasting (s : State) (a : Agent) (acc : Acc) (va n : Nat) : (readVa s a acc va n).1.lasting = s.lasting := by
  have h := placesOf_lasting a acc (piecesOf va n) s
  unfold readVa
  split <;> next e => rw [e] at h; exact h

theorem writePieces_lasting (w ctx : Nat) (bad : Bool) (hint : Nat) (ps : List (Nat × Place × Nat)) (s : State) (bs : List Byte) :
    (writePieces s w ctx bad hint ps bs).lasting = s.lasting := by
  induction ps generalizing s bs with
  | nil => rfl
  | cons p r ih => exact (ih _ _).trans (shareWrite_lasting s w ctx _ _ bad hint)

theorem writeVa_lasting (s : State) (a : Agent) (acc : Acc) (va : Nat) (bs : List Byte) (bad : Bool) (hint : Nat) :
    (writeVa s a acc va bs bad hint).1.lasting = s.lasting := by
  have h := placesOf_lasting a acc (piecesOf va bs.length) s
  unfold writeVa
  split
  · next e => rw [e] at h; exact h
  · next e => rw [e] at h; exact (writePieces_lasting _ _ bad hint _ _ bs).trans h

theorem hubRead_lasting (s : State) (ctx va n : Nat) : (hubRead s ctx va n).1.lasting = s.lasting := by
  have h := readVa_lasting s (hubAgent ctx 5) .engR va n
  unfold hubRead
  split <;> next e => rw [e] at h; exact h

theorem hubWrite_lasting (s : State) (ctx va : Nat) (bs : List Byte) : (hubWrite s ctx va bs).lasting = s.lasting :=
  writeVa_lasting s _ _ va bs _ _

theorem homeRead_lasting (s : State) (ctx va n : Nat) : (homeRead s ctx va n).1.lasting = s.lasting := by
  have h := placeVa_lasting s (hubAgent ctx 5) .engR va
  unfold homeRead
  split <;> next e => rw [e] at h; exact h

theorem decrementAt_lasting (s : State) (ctx va : Nat) : (decrementAt s ctx va).lasting = s.lasting := by
  have h := hubRead_lasting s ctx va 8
  unfold decrementAt
  split
  · next e => rw [e] at h; exact (hubWrite_lasting _ ctx va _).trans h
  · next e => rw [e] at h; exact h

/-! ### Writes that land and writes that are flushed -/

theorem landLink_lasting (s : State) (l : Nat) : (landLink s l).lasting = s.lasting := by
  have bytes (ps : List Posted) : (ps.foldl (fun s p => s.putMemBytes p.key p.bytes) s).lasting = s.lasting :=
    foldl_keeps (fun s (p : Posted) => s.putMemBytes p.key p.bytes) State.lasting (fun s p => putMemBytes_lasting p.bytes s p.key) ps s
  unfold landLink
  split
  · rfl
  · exact bytes _

theorem landCtx_lasting (s : State) (ctx : Nat) : (landCtx s ctx).lasting = s.lasting :=
  foldl_keeps _ State.lasting (fun s l => by
    split
    · exact landLink_lasting s l
    · rfl) _ s

theorem writeBack_lasting (s : State) (out : Nat → Bool) : (s.writeBack out).lasting = s.lasting :=
  foldl_keeps _ State.lasting (fun s e => by
    split
    · exact putMem_lasting s e.1 _
    · rfl) _ s

theorem flush_lasting (s : State) (ctx : Nat) : (s.flush ctx).lasting = s.lasting := writeBack_lasting s _

/-! ### Jobs (05 R105) -/

theorem raise_lasting (s : State) (ctx vec : Nat) : (s.raise ctx vec).lasting = s.lasting := by
  unfold State.raise; dsimp only; split <;> rfl

theorem raiseQueue_lasting (s : State) (ctx q : Nat) : (raiseQueue s ctx q).lasting = s.lasting := by
  have h := homeRead_lasting s ctx ((s.ctx ctx).qtblBase.toNat + 256 * q + 10) 1
  have hvec : (queueVector s ctx q).1.lasting = s.lasting := by
    unfold queueVector
    split <;> next e => rw [e] at h; exact h
  exact (raise_lasting _ ctx _).trans hvec

theorem raiseErr_lasting (s : State) (ctx : Nat) : (raiseErr s ctx).lasting = s.lasting := by
  unfold raiseErr
  dsimp only
  split
  · exact raise_lasting s ctx _
  · rfl

theorem jobStatus_lasting (s : State) (ctx j code info : Nat) : (jobStatus s ctx j code info).lasting = s.lasting := by
  have h := hubRead_lasting s ctx (jobVa (s.ctx ctx) j 8) 8
  unfold jobStatus
  dsimp only
  split
  · next e =>
    rw [e] at h
    split
    · exact (hubWrite_lasting _ ctx _ _).trans h
    · exact h
  · next e => rw [e] at h; exact h

theorem workDone_lasting (s : State) (ctx : Nat) (w : Work) : (workDone s ctx w).lasting = s.lasting := rfl

theorem jobComplete_lasting (s : State) (ctx j : Nat) : (jobComplete s ctx j).lasting = s.lasting := by
  unfold jobComplete
  generalize hs : (if kindOfVa s ctx (jobVa (s.ctx ctx) j 0) = some 2 then landCtx (s.flush ctx) ctx else s) = s1
  have h1 : s1.lasting = s.lasting := by
    rw [← hs]
    split
    · exact (landCtx_lasting _ ctx).trans (flush_lasting s ctx)
    · rfl
  dsimp only
  generalize hd : decrementAt s1 ctx (jobVa (s1.ctx ctx) j 16) = s2
  have h2 : s2.lasting = s.lasting := by rw [← hd]; exact (decrementAt_lasting s1 ctx _).trans h1
  have hread := hubRead_lasting s2 ctx (jobVa (s2.ctx ctx) j 8) 4
  refine (workDone_lasting _ ctx _).trans ((updCtx_lasting _ ctx _).trans (.trans ?_ h2))
  split
  · next e =>
    rw [e] at hread
    refine .trans ?_ hread
    split
    · rfl
    · split
      · exact raiseQueue_lasting _ ctx _
      · exact raiseErr_lasting _ ctx
  · next e => rw [e] at hread; exact hread

theorem jobAdd_lasting (s : State) (ctx j : Nat) (d : Int) : (jobAdd s ctx j d).lasting = s.lasting := by
  have h := hubRead_lasting s ctx (jobVa (s.ctx ctx) j 0) 8
  unfold jobAdd
  dsimp only
  split
  · next e =>
    rw [e] at h
    refine .trans ?_ h
    split
    · exact (jobComplete_lasting _ ctx j).trans (hubWrite_lasting _ ctx _ _)
    · exact hubWrite_lasting _ ctx _ _
  · next e => rw [e] at h; exact h

/-! ### Tasks and counters (05 R99 to R101, R107 to R109) -/

theorem readyPut_lasting (s : State) (ctx : Nat) (t : Task) (slot : Nat) : (readyPut s ctx t slot).lasting = s.lasting := by
  unfold readyPut
  split
  · exact jobAdd_lasting s ctx _ _
  · rfl

theorem makeReady_lasting (s : State) (ctx : Nat) (t : Task) : (makeReady s ctx t).lasting = s.lasting := by
  unfold makeReady
  split
  · exact readyPut_lasting s ctx t 0
  · rfl

theorem depPut_lasting (s : State) (ctx id new : Nat) : (depPut s ctx id new).lasting = s.lasting := by
  unfold depPut
  split
  · rfl
  · dsimp only
    split
    · split
      · exact makeReady_lasting _ ctx _
      · rfl
    · rfl

theorem depDecBy_lasting (s : State) (ctx id n : Nat) : (depDecBy s ctx id n).1.lasting = s.lasting := by
  unfold depDecBy
  dsimp only
  split <;> exact depPut_lasting s ctx id _

theorem recordDec_lasting (s : State) (ctx : Nat) (job : Option Nat) (id n : Nat) : (recordDec s ctx job id n).lasting = s.lasting := by
  have told (x : State × Bool) : (match job with
      | some j => if x.2 then jobStatus x.1 ctx j 2 id else x.1
      | none => x.1).lasting = x.1.lasting := by
    split
    · split
      · exact jobStatus_lasting x.1 ctx _ 2 id
      · rfl
    · rfl
  unfold recordDec
  refine (told _).trans ?_
  split
  · rfl
  · exact depDecBy_lasting s ctx id n

theorem recordSet_lasting (s : State) (ctx : Nat) (job : Option Nat) (id n : Nat) : (recordSet s ctx job id n).lasting = s.lasting := by
  have status (code : Nat) : (match job with
      | some j => jobStatus s ctx j code id
      | none => s).lasting = s.lasting := by
    cases job with
    | none => rfl
    | some j => exact jobStatus_lasting s ctx j code id
  unfold recordSet
  split
  · exact status 2
  · split
    · exact depPut_lasting s ctx id n
    · exact status 4

theorem enqInsert_lasting {s s1 : State} {ctx : Nat} {t : Task} (h : enqInsert s ctx t = some s1) : s1.lasting = s.lasting := by
  unfold enqInsert at h
  split at h
  · cases h
    unfold parkTask
    split
    · exact jobAdd_lasting s ctx _ _
    · rfl
  · unfold enqReady at h
    split at h
    · cases h; exact readyPut_lasting s ctx t _
    · split at h
      · cases h; exact readyPut_lasting s ctx t _
      · cases h

theorem send_lasting (s : State) (m : FabMsg) : (s.send m).lasting = s.lasting := by
  unfold State.send
  dsimp only
  split <;> rfl

theorem remoteEnq_lasting (s : State) (ctx team : Nat) (job : Option Nat) (chip queue : Nat) (record : List Byte) (depth : Nat) :
    (remoteEnq s ctx team job chip queue record depth).lasting = s.lasting := by
  unfold remoteEnq
  split
  · rfl
  · refine (send_lasting _ _).trans ((updCtx_lasting _ ctx _).trans ((updTeam_lasting _ team (by rfl)).trans ?_))
    cases job with
    | none => rfl
    | some j => exact jobAdd_lasting _ ctx j 1

/-! ### Drafts (05 R110) -/

theorem releaseAt_lasting (s : State) (ci scope : Nat) : (releaseAt s ci scope).lasting = s.lasting := by
  unfold releaseAt
  dsimp only
  split <;> rfl

theorem applyDraft_lasting (ci core ctx : Nat) (job : Option Nat) (s : State) (d : Draft) :
    (applyDraft ci core ctx job s d).lasting = s.lasting := by
  cases d with
  | store _ key bytes bad _ hint => exact (shareWrite_lasting _ core ctx _ bytes bad hint).trans (storeLine_lasting s core _ hint)
  | release scope => exact releaseAt_lasting s ci scope
  | enq t q =>
    have hrel := releaseAt_lasting s ci 4
    unfold applyDraft
    dsimp only
    split
    · split
      · exact (jobStatus_lasting _ ctx _ _ _).trans hrel
      · exact hrel
    · have hadd := (jobAdd_lasting (releaseAt s ci 4) ctx t.job 1).trans hrel
      split
      · next h => exact (enqInsert_lasting h).trans hadd
      · exact hadd
  | dec id n => exact (recordDec_lasting _ ctx job id n).trans (releaseAt_lasting s ci 4)
  | set id n => exact (recordSet_lasting _ ctx job id n).trans (releaseAt_lasting s ci 4)
  | renq team chip queue record depth => exact (remoteEnq_lasting _ ctx team job chip queue record depth).trans (releaseAt_lasting s ci 5)

theorem commitDrafts_lasting (s : State) (ci : Nat) : (commitDrafts s ci).lasting = s.lasting := by
  have drafts (core ctx : Nat) (job : Option Nat) := foldl_keeps (applyDraft ci core ctx job) State.lasting (applyDraft_lasting ci core ctx job)
  exact (drafts _ _ _ _ _).trans (drafts _ _ _ _ _)

end Sys2Proof.Machine
end

section
/-! SUPPORT. Taking a trap (10 R210): what a team in which a handler is entered holds, and that no byte changes; and the two events that take a trap
of their own accord, an engine's deferred one (R206) and the watchdog's (R214). -/

namespace Sys2Proof.Machine

/-! ### Bytes that stay -/

/-- What a byte reads as depends on memory and on what crews hold of scratch. -/
theorem byteAt_congr {s t : State} (hdev : t.devByte = s.devByte) (hcrew : ∀ c, scratchAt (t.crew c) = scratchAt (s.crew c)) (q : Place) :
    byteAt t q = byteAt s q := by
  cases q with
  | phys k => exact congrFun hdev k
  | scratch c o => exact congrFun (hcrew c) o
  | _ => rfl

/-- A crew changed in no byte of its scratch. -/
theorem byteAt_updCrew (s : State) (i : Nat) {f : Crew → Crew} (hf : scratchAt (f (s.crew i)) = scratchAt (s.crew i)) (q : Place) :
    byteAt (s.updCrew i f) q = byteAt s q := by
  refine byteAt_congr (s := s) (t := s.updCrew i f) rfl (fun j => ?_) q
  by_cases hj : j = i
  · subst hj; rw [State.updCrew, setCrew_crew, hf]
  · rw [State.updCrew, setCrew_crew_ne _ _ _ _ hj]

/-! ### What comes before a trap -/

/-- Performing what is pending keeps what no write of a register touches. -/
theorem commitAll_keeps {γ : Type} (g : Team → γ) (hput : ∀ t r l v, g (t.put r l v) = g t) (t : Team)
    (hpend : g { t with pend := [] } = g t) : g t.commitAll = g t := by
  unfold Team.commitAll
  exact (foldl_keeps (fun (t : Team) (w : PendWrite) => t.put w.reg w.lane w.val) g (fun t w => hput t w.reg w.lane w.val) _ _).trans hpend

@[simp] theorem commitAll_handler (t : Team) : t.commitAll.handler = t.handler := commitAll_keeps Team.handler put_handler t rfl
@[simp] theorem commitAll_inHandler (t : Team) : t.commitAll.inHandler = t.inHandler := commitAll_keeps Team.inHandler put_inHandler t rfl
@[simp] theorem commitAll_engTraps (t : Team) : t.commitAll.engTraps = t.engTraps := commitAll_keeps Team.engTraps put_engTraps t rfl

/-- Where the matrix queue of its crew holds the object phase of an LDT or ACC.LD of the team, that command leaves it and retires (10 R206). -/
theorem dropReading_cases (s : State) (ti : Nat) : dropReading s ti = s ∨ ∃ m : MmaCmd, dropReading s ti =
    opRetire (s.updCrew (s.team ti).crew (fun c => { c with mmq := c.mmq.filter (· != m) })) ti 2 m.id := by
  unfold dropReading
  dsimp only
  split
  · next m _ => exact .inr ⟨m, rfl⟩
  · exact .inl rfl

theorem dropReading_team (s : State) (ti : Nat) : ∃ o, (dropReading s ti).team ti = { s.team ti with opc := o } := by
  obtain h | ⟨m, h⟩ := dropReading_cases s ti <;> rw [h]
  · exact ⟨_, rfl⟩
  · exact ⟨_, updTeam_team _ _ _⟩

theorem dropReading_cur (s : State) (ti : Nat) : (dropReading s ti).cur = s.cur := by
  obtain h | ⟨m, h⟩ := dropReading_cases s ti <;> rw [h]
  rfl

theorem byteAt_dropReading (s : State) (ti : Nat) (q : Place) : byteAt (dropReading s ti) q = byteAt s q := by
  obtain h | ⟨m, h⟩ := dropReading_cases s ti <;> rw [h]
  exact (byteAt_updTeam _ _ _ q).trans (byteAt_updCrew s _ rfl q)

/-! ### Entering the handler -/

/-- A team that has a handler, at no pace word, and is not within it is within it once it has trapped; nothing else of the chip changes but what
`dropReading` does. -/
theorem takeTrap_enters {s : State} {ti : Nat} (pc : W64) (x : TrapInfo) (hin : (s.team ti).inHandler = false) (hh : (s.team ti).handler ≠ 0)
    (hpace : (s.team ti).handler.toNat % 32 ≠ 0) :
    ∃ t, takeTrap s ti pc x = (dropReading s ti).setTeam ti t ∧ t.trapCode = w64 x.code ∧ t.trapPc = pc ∧ t.trapInfo0 = x.info0 ∧
      t.pc = (s.team ti).handler ∧ t.inHandler = true ∧ t.status = .run ∧ t.engTraps = (s.team ti).engTraps := by
  obtain ⟨o, ho⟩ := dropReading_team s ti
  unfold takeTrap
  simp only [ho, commitAll_inHandler, commitAll_handler, hin, hh, hpace, Bool.false_eq_true, false_or, if_false]
  exact ⟨_, rfl, rfl, rfl, rfl, rfl, rfl, rfl, commitAll_engTraps _⟩

/-- DEFERRED_ENGINE_TRAP of a team that runs, at an instruction boundary, and enters its handler. -/
theorem exec_deferredEngineTrap {s s1 : State} {ti : Nat} {x : TrapInfo} {r : List TrapInfo} (htraps : (s.team ti).engTraps = x :: r)
    (hrun : (s.team ti).status = .run) (hreplayed : (s.team ti).replayed = false) (hpasses : (s.team ti).passes = [])
    (hres : (s.crew (s.team ti).crew).resident = true) (hctx : ctxRuns s (s.crew (s.team ti).crew).ctx = true)
    (htrap : takeTrap (s.updTeam ti (fun t => { t with engTraps := r })) ti (s.team ti).lastPc x = s1) (hst : (s1.team ti).status = .run) :
    exec (.deferredEngineTrap ti) s = .next (s1.updTeam ti (fun u => { u with trapNext := some (s.team ti).pc })) := by
  have heng : engineTrap s ti = s1.updTeam ti (fun u => { u with trapNext := some (s.team ti).pc }) := by
    unfold engineTrap
    simp [htraps, hrun, hreplayed, hpasses, hres, hctx, htrap, hst]
  exact congrArg Host.Outcome.next heng

/-- The team that the watchdog of n finds blocked, as its trap finds it: it runs, and 2^n cycles have passed. -/
def watchdogReady (s : State) (ti n : Nat) : State :=
  engDelay (s.updTeam ti (fun t => { t with status := .run, enqTask := none, lastPc := t.pc, nextIssue := t.nextIssue + 2 ^ n })) ti

theorem watchdogReady_cur (s : State) (ti n : Nat) : (watchdogReady s ti n).cur = s.cur := rfl

theorem watchdogReady_team (s : State) (ti n : Nat) : ((watchdogReady s ti n).team ti).inHandler = (s.team ti).inHandler ∧
    ((watchdogReady s ti n).team ti).handler = (s.team ti).handler := by
  have hdraw (s : State) : s.draw.2.team ti = s.team ti := rfl
  simp [watchdogReady, engDelay, hdraw]

/-- WATCHDOG_EXPIRY of a team that is blocked, at no ENQ, under a watchdog that is set. -/
theorem exec_watchdogExpiry {s : State} {ti n : Nat} (hn : n = (s.ctx (s.crew (s.team ti).crew).ctx).wdog.toNat) (hn0 : n ≠ 0)
    (hblocked : (s.team ti).status.watched = true) (hwait : (s.team ti).status ≠ .wait 1) (henq : (s.team ti).enqTask = none)
    (hres : (s.crew (s.team ti).crew).resident = true) (hctx : ctxRuns s (s.crew (s.team ti).crew).ctx = true) :
    exec (.watchdogExpiry ti) s = .next (takeTrap (watchdogReady s ti n) ti (s.team ti).pc { code := 0x19, info0 := w64 (2 ^ n) }) := by
  change execWatchdogExpiry ti s = _
  simp [execWatchdogExpiry, ← hn, hn0, hblocked, hwait, henq, hres, hctx, watchdogReady]

end Sys2Proof.Machine
end

section
/-! END (20 R401): what it makes of a team with nothing outstanding, and of its crew; and O42. -/

namespace Sys2Proof.Machine

/-! ### The end of a team -/

/-- A team that has ended. -/
def Team.atEnd (t : Team) : Team := { t with status := .ended, drain := none, rstack := [], cstack := [], engTraps := [] }

theorem partyGone_atEnd (s : State) (ti j : Nat) : partyGone (s.updTeam ti Team.atEnd) j = (j == ti || partyGone s j) := by
  by_cases hj : j = ti
  · subst hj; simp [partyGone, Team.atEnd]
  · simp [partyGone, hj]

/-- Of a team none of whose streams runs, and of its crew where it is the last. -/
theorem endOfTeam_of_stopped {s : State} {ti : Nat} (h : ∀ f < 16, ((s.team ti).stream f).running = false) :
    endOfTeam s ti = if (s.crew (s.team ti).crew).teams.all (fun j => j == ti || partyGone s j) then
      endCrew (s.updTeam ti Team.atEnd) (s.team ti).crew else s.updTeam ti Team.atEnd := by
  have stops (fs : List Nat) (hfs : ∀ f ∈ fs, f < 16) :
      fs.foldl (fun s f => if ((s.team ti).stream f).running then streamStop s ti f else s) s = s := by
    induction fs with
    | nil => rfl
    | cons f fs ih =>
      rw [List.foldl_cons, if_neg (by simp [h f (hfs f List.mem_cons_self)])]
      exact ih fun g hg => hfs g (List.mem_cons_of_mem f hg)
  have hcrew : ((s.updTeam ti Team.atEnd).team ti).crew = (s.team ti).crew := by rw [updTeam_team, Team.atEnd]
  unfold endOfTeam
  simp only [stops (span 0 16) (fun f hf => by simpa using (mem_span.1 hf).2)]
  rw [← funext (partyGone_atEnd s ti), ← hcrew]
  rfl

/-- The end of a crew, with the drafts that it commits, leaves of every team what lasts. -/
theorem endCrew_lasting (s : State) (ci : Nat) : (endCrew s ci).lasting = s.lasting := by
  unfold endCrew
  refine Eq.trans (b := (if (s.crewTask ci).isNone && (s.crew ci).drafting then commitDrafts s ci else s).lasting) rfl ?_
  split
  · exact commitDrafts_lasting s ci
  · rfl

/-- A crew that does not draft ends without a write: of the chip its own status changes, and its launch's count of live crews. -/
theorem endCrew_of_not_drafting {s : State} {ci : Nat} (h : (s.crew ci).drafting = false) :
    endCrew s ci = (s.updCrew ci (fun c => { c with status := .ended })).updLaunch (s.crew ci).launch
      (fun l => { l with liveCrews := l.liveCrews - 1 }) := by
  simp [endCrew, h, State.updCrew]

theorem updTeam_cur (s : State) (i : Nat) (f : Team → Team) : (s.updTeam i f).cur = s.cur := rfl
theorem byteAt_setTeam (s : State) (i : Nat) (t : Team) (q : Place) : byteAt (s.setTeam i t) q = byteAt s q := by cases q <;> rfl
theorem byteAt_updLaunch (s : State) (i : Nat) (f : Launch → Launch) (q : Place) : byteAt (s.updLaunch i f) q = byteAt s q := by cases q <;> rfl

theorem OnlyTeam.crew {ti : Nat} {s t : State} (h : OnlyTeam ti s t) (i : Nat) : t.crew i = s.crew i := crew_of_crews h.crews i

theorem OnlyTeam.launch {ti : Nat} {s t : State} (h : OnlyTeam ti s t) (i : Nat) : t.launch i = s.launch i := by
  rw [State.launch, h.launches, State.launch]

theorem OnlyTeam.byteAt {ti : Nat} {s t : State} (h : OnlyTeam ti s t) (q : Place) : byteAt t q = byteAt s q :=
  byteAt_congr (devByte_congr s t h.mem h.l2 (congrArg State.nearSeed h.1 :) (congrArg State.dies h.1 :)) (fun c => by rw [h.crew]) q

theorem OnlyTeam.partyGone {ti : Nat} {s t : State} (h : OnlyTeam ti s t) {j : Nat} (hj : j ≠ ti) : partyGone t j = partyGone s j := by
  rw [Machine.partyGone, h.2.1 j hj, Machine.partyGone]

/-! ### END -/

theorem commitAll_nil {t : Team} (h : t.pend = []) : t.commitAll = t := by
  cases t
  subst h
  rfl

/-- Whether END finds something outstanding. -/
def endWaits (t : Team) : Bool := (span 0 5).any (fun c => t.opCount c != 0) || t.enqWait != 0

theorem endWaits_iff (t : Team) : endWaits t = true ↔ (∃ c < 5, t.opCount c ≠ 0) ∨ t.enqWait ≠ 0 := by
  simp [endWaits, mem_span]

/-- An instruction without operands reaches its own part at a ready team, whose answer is what it makes of the machine. -/
theorem plain_ready {s : State} (h : ready s = true) (op : Nat) (body : UCtx → Except Stop State) :
    ∃ u : UCtx, u.ti = s.cur ∧ u.t = s.me ∧ OnlyTeam s.cur s u.s ∧ u.s.team s.cur = s.me ∧
      (∀ t, body u = .ok t → plain op (.v 0) (.v 0) (.v 0) s [] [] body = .next t) ∧
      (∀ x, body u = .error x → plain op (.v 0) (.v 0) (.v 0) s [] [] body = .next (stopped s s.cur x)) := by
  obtain ⟨c, o, -, hbody⟩ := uniform_ready s op (wordF3 op (.v 0) (.v 0) (.v 0)) [fld (.v 0) okZero, fld (.v 0) okZero, fld (.v 0) okZero]
    [] [] body false h (by decide)
  have hme : (settle s s.cur c).team s.cur = s.me := settle_team s s.cur c (ready_pend h)
  exact ⟨_, rfl, rfl, settle_onlyTeam s s.cur c, hme, fun t ht => runInstr_ok s t _ h (hbody.trans ht),
    fun x hx => runInstr_stop s x _ h (hbody.trans hx)⟩

/-- END's own part: it awaits what is in flight, then what is outstanding; then it completes, and its team ends. -/
def endBody (u : UCtx) : Except Stop State :=
  if u.t.flight.isEmpty then
    if endWaits u.t then .error (.block (.wait 3)) else .ok (endOfTeam (u.done (u.s.updTeam u.ti (·.commitAll)) [] 0) u.ti)
  else .error .hold

theorem exec_endTeam (s : State) : exec (.endTeam (.v 0) (.v 0) (.v 0)) s = plain 0xE4 (.v 0) (.v 0) (.v 0) s [] [] endBody := by
  refine congrArg (plain 0xE4 (.v 0) (.v 0) (.v 0) s [] []) (funext fun u => ?_)
  unfold endBody endWaits
  generalize ((span 0 5).any (fun c => u.t.opCount c != 0) || u.t.enqWait != 0) = waits
  cases u.t.flight.isEmpty <;> cases waits <;> rfl

/-- END of a ready team with something outstanding waits. -/
theorem exec_endTeam_waits {s : State} (h : ready s = true) (hout : endWaits s.me = true) :
    exec (.endTeam (.v 0) (.v 0) (.v 0)) s = .next (stopped s s.cur (.block (.wait 3))) := by
  obtain ⟨u, -, ht, -, -, -, hstop⟩ := plain_ready h 0xE4 endBody
  exact (exec_endTeam s).trans (hstop _ (by simp [endBody, ht, ready_flight h, hout]))

/-- END of a ready team with nothing outstanding completes. -/
theorem exec_endTeam_completes {s : State} (h : ready s = true) (hout : endWaits s.me = false) :
    ∃ s1, exec (.endTeam (.v 0) (.v 0) (.v 0)) s = .next (endOfTeam s1 s.cur) ∧ OnlyTeam s.cur s s1 ∧
      (s1.team s.cur).untimed = s.me.stepped.untimed := by
  obtain ⟨u, hti, ht, honly, hme, hok, -⟩ := plain_ready h 0xE4 endBody
  have hbody : endBody u = .ok (endOfTeam (u.done (u.s.updTeam s.cur (·.commitAll)) [] 0) s.cur) := by
    simp [endBody, ht, hti, ready_flight h, hout]
  have hteam : (u.s.updTeam s.cur (·.commitAll)).team s.cur = s.me := by rw [updTeam_team, hme, commitAll_nil (ready_pend h)]
  refine ⟨_, (exec_endTeam s).trans (hok _ hbody), ?_, ?_⟩
  · rw [done_eq, hti]
    exact (honly.trans (onlyTeam_updTeam _ _ _)).trans (retire_onlyTeam _ _ _ _ _ _ _)
  · rw [done_eq, hti, retire_me, hteam]
    simp [doneWrites, Team.stepped]

/-- Its team has ended then, and nothing else has changed, but that the crew of a last team ends too. -/
theorem exec_endTeam_ends {s : State} (h : ready s = true) (hout : endWaits s.me = false)
    (hstreams : ∀ f < 16, (s.me.stream f).running = false) :
    ∃ s2, OnlyTeam s.cur s s2 ∧ s2.me.status = .ended ∧ exec (.endTeam (.v 0) (.v 0) (.v 0)) s =
      .next (if (s.crew s.me.crew).teams.all (fun j => j == s.cur || partyGone s j) then endCrew s2 s.me.crew else s2) := by
  obtain ⟨s1, hexec, honly, hteam⟩ := exec_endTeam_completes h hout
  have hcrew : (s1.team s.cur).crew = s.me.crew := (congrArg Team.crew hteam :)
  have hstream : (s1.team s.cur).streams = s.me.streams := (congrArg Team.streams hteam :)
  have hend := endOfTeam_of_stopped (s := s1) (ti := s.cur) (fun f hf => by rw [Team.stream, hstream]; exact hstreams f hf)
  have hgone (j : Nat) : (j == s.cur || partyGone s1 j) = (j == s.cur || partyGone s j) := by
    by_cases hj : j = s.cur
    · simp [hj]
    · rw [honly.partyGone hj]
  simp only [hcrew, honly.crew, hgone] at hend
  refine ⟨s1.updTeam s.cur Team.atEnd, honly.trans (onlyTeam_updTeam _ _ _), ?_, hend ▸ hexec⟩
  rw [State.me, updTeam_cur, honly.cur, updTeam_team, Team.atEnd]

/-! ### Deferred traps, the watchdog and END -/

/-- Settles O42: entering the handler (`takeTrap_enters`) is all that a deferred trap and the watchdog do, but for where the team resumes; END
completes, and then its team ends, which its crew's end, should it commit drafts, does not undo (`endCrew_lasting`). -/
theorem teamsEnd : Obligations.TeamsEnd := by
  unfold Obligations.TeamsEnd
  refine ⟨?deferred, ?watchdog, fun s h => ⟨fun hops henq hstreams => ?ends, fun hout => ?waits⟩⟩
  case deferred =>
    intro s x r htraps hrun hreplayed hpasses hres hctx hin hh hpace
    have hteam : (s.updTeam s.cur (fun t => { t with engTraps := r })).team s.cur = { s.me with engTraps := r } := updTeam_team _ _ _
    obtain ⟨u, htrap, hcode, htpc, -, hpc, hinh, hst, heng⟩ := takeTrap_enters (s := s.updTeam s.cur (fun t => { t with engTraps := r }))
      (ti := s.cur) s.me.lastPc x (by rw [hteam]; exact hin) (by rw [hteam]; exact hh) (by rw [hteam]; exact hpace)
    rw [hteam] at hpc heng
    refine ⟨_, exec_deferredEngineTrap htraps hrun hreplayed hpasses hres hctx htrap (by rw [setTeam_team]; exact hst), ?_⟩
    rw [State.me, updTeam_cur, setTeam_cur_field, dropReading_cur, updTeam_cur, updTeam_team, setTeam_team]
    refine ⟨heng, hcode, htpc, rfl, hpc, hinh, fun q => ?_⟩
    rw [byteAt_updTeam, byteAt_setTeam, byteAt_dropReading, byteAt_updTeam]
  case watchdog =>
    intro s n hn hn0 hblocked hwait henq hres hctx hin hh hpace
    obtain ⟨hinW, hhW⟩ := watchdogReady_team s s.cur n
    obtain ⟨u, htrap, hcode, htpc, hinfo, hpc, -, hst, -⟩ := takeTrap_enters (s := watchdogReady s s.cur n) (ti := s.cur) s.me.pc
      { code := 0x19, info0 := w64 (2 ^ n) } (hinW.trans hin) (by rw [hhW]; exact hh) (by rw [hhW]; exact hpace)
    refine ⟨_, (exec_watchdogExpiry hn hn0 hblocked hwait henq hres hctx).trans (congrArg Host.Outcome.next htrap), ?_⟩
    rw [State.me, setTeam_cur_field, dropReading_cur, watchdogReady_cur, setTeam_team]
    exact ⟨hcode, hinfo, htpc, hpc.trans hhW, hst⟩
  case ends =>
    have hout : endWaits s.me = false := by
      rw [Bool.eq_false_iff, ne_eq, endWaits_iff]
      rintro (⟨c, hc, hne⟩ | hne)
      · exact hne (hops c hc)
      · exact hne henq
    obtain ⟨s2, honly, hended, hexec⟩ := exec_endTeam_ends h hout hstreams
    refine ⟨_, hexec, ?status, ?others, ?last⟩
    case status =>
      split
      · exact me_ended_of_lasting (endCrew_lasting _ _) hended
      · exact hended
    case others =>
      rintro ⟨j, hj, hne, hstays⟩
      rw [if_neg (by rw [List.all_eq_true]; exact fun hall => by simpa [hne, hstays] using hall j hj)]
      exact ⟨honly.crew _, honly.byteAt⟩
    case last =>
      intro hall hdrafting
      rw [if_pos (by rw [List.all_eq_true]; exact fun j hj => by simpa using hall j hj),
        endCrew_of_not_drafting (by rw [honly.crew]; exact hdrafting), honly.crew]
      refine ⟨?_, fun q => ?_, ?_⟩
      · rw [State.updLaunch, setLaunch_crew, State.updCrew, setCrew_crew]
      · rw [byteAt_updLaunch, byteAt_updCrew _ _ rfl, honly.byteAt]
      · rw [State.updLaunch, setLaunch_launch]
        exact congrArg (fun l : Launch => l.liveCrews - 1) (honly.launch _)
  case waits =>
    refine ⟨_, exec_endTeam_waits h ((endWaits_iff s.me).2 hout), ?_⟩
    rw [stopped, State.me, updTeam_cur, updTeam_team]
    exact ⟨rfl, rfl⟩

end Sys2Proof.Machine
end

section
/-! SUPPORT. Elements of the 32-bit integer types (13 R250, R261) as words: the integer of an element, the range step, and the one form of
every result, the low 32 bits of an exact integer; and O17. -/

namespace Sys2Proof.Machine

/-! ### Integers and words of any width -/

theorem natCast_two_pow (w : Nat) : ((2 ^ w : Nat) : Int) = 2 ^ w := Int.natCast_pow 2 w

theorem wrapN_eq_toNat_ofInt (w : Nat) (x : Int) : wrapN w x = (BitVec.ofInt w x).toNat := by
  rw [wrapN, BitVec.toNat_ofInt, natCast_two_pow]

theorem sextN_toNat {w : Nat} (hw : 0 < w) (a : BitVec w) : sextN w a.toNat = a.toInt := by
  have hpow : 2 ^ w = 2 * 2 ^ (w - 1) := by rw [← Nat.pow_succ', Nat.succ_eq_add_one, Nat.sub_add_cancel hw]
  rw [sextN, BitVec.toInt_eq_toNat_cond, Nat.mod_eq_of_lt a.isLt, natCast_two_pow]
  have hhalf : a.toNat < 2 ^ (w - 1) ↔ 2 * a.toNat < 2 ^ w := by omega
  simp only [hhalf]

theorem clampInt_eq_max_min {lo hi : Int} (h : lo ≤ hi) (x : Int) : clampInt lo hi x = max lo (min hi x) := by
  unfold clampInt
  split <;> omega

/-! ### A 32-bit integer type -/

/-- What a word stands for in a 32-bit integer type, signed or unsigned. -/
def wordInt (sg : Bool) (a : BitVec 32) : Int := if sg then a.toInt else a.toNat

theorem wordInt_unsigned (a : BitVec 32) : wordInt false a = a.toNat := rfl

theorem wordInt_signed (a : BitVec 32) : wordInt true a = a.toInt := rfl

@[simp] theorem ofInt_wordInt (sg : Bool) (a : BitVec 32) : BitVec.ofInt 32 (wordInt sg a) = a := by
  cases sg
  · exact (BitVec.ofInt_natCast 32 a.toNat).trans (BitVec.ofNat_toNat 32 a)
  · exact BitVec.ofInt_toInt

theorem wordInt_lt_iff (sg : Bool) (a b : BitVec 32) : wordInt sg a < wordInt sg b ↔ (if sg then a.slt b else a.ult b) = true := by
  cases sg
  · simp only [wordInt_unsigned, Int.ofNat_lt, BitVec.ult, decide_eq_true_eq, Bool.false_eq_true, if_false]
  · simp only [wordInt_signed, BitVec.slt, decide_eq_true_eq, if_true]

theorem wordInt_eq_zero_iff (sg : Bool) (a : BitVec 32) : wordInt sg a = 0 ↔ a = 0 := by
  cases sg
  · rw [wordInt_unsigned, Int.natCast_eq_zero, BitVec.toNat_eq]
    rfl
  · rw [wordInt_signed, ← BitVec.toInt_inj]
    rfl

section
variable {m : W64} {sg : Bool} (h : Claims.isI32 m sg)
include h

theorem tyInt_of_isI32 : tyInt (mrType m) = true := by
  rw [h]; cases sg <;> rfl

theorem tyWidth_of_isI32 : tyWidth (mrType m) = 32 := by
  rw [h]; cases sg <;> rfl

theorem tySigned_of_isI32 : tySigned (mrType m) = sg := by
  rw [h]; cases sg <;> rfl

theorem elemInt_of_isI32 (a : BitVec 32) : elemInt (mrType m) a.toNat = wordInt sg a := by
  rw [elemInt, tySigned_of_isI32 h, tyWidth_of_isI32 h, sextN_toNat (by decide), Nat.mod_eq_of_lt a.isLt, wordInt]

theorem byClass_of_isI32 {α : Type} (int fix flt : α) : byClass m int fix flt = int :=
  if_pos (tyInt_of_isI32 h)

theorem wrapN_of_isI32 (x : Int) : wrapN (tyWidth (mrType m)) x = (BitVec.ofInt 32 x).toNat := by
  rw [tyWidth_of_isI32 h, wrapN_eq_toNat_ofInt]

/-- Without saturation the range step keeps the low 32 bits (R261). -/
theorem rangeStep_wraps (hsat : mrSat m = false) (x : Int) : rangeStep (mrType m) (mrSat m) x = (BitVec.ofInt 32 x).toNat := by
  rw [rangeStep, hsat, if_neg Bool.false_ne_true, wrapN_of_isI32 h]

theorem intResult_wraps (hsat : mrSat m = false) (x : Int) : (intResult m x).val = (BitVec.ofInt 32 x).toNat :=
  rangeStep_wraps h hsat x

end

/-- With saturation it gives the value of the type that is nearest (R261). -/
theorem intResult_clamps {m : W64} (h : Claims.isI32 m true) (hsat : mrSat m = true) (x : Int) :
    (intResult m x).val = (BitVec.ofInt 32 (max (-2 ^ 31) (min (2 ^ 31 - 1) x))).toNat := by
  have hmin : tyMin (mrType m) = -2 ^ 31 := by rw [h]; rfl
  have hmax : tyMax (mrType m) = 2 ^ 31 - 1 := by rw [h]; rfl
  rw [intResult, rangeStep, hsat, if_pos rfl, wrapN_of_isI32 h, hmin, hmax, clampInt_eq_max_min (by decide)]

/-! ### Exact results of words, cut to words -/

/-- The high half of an exact product, from the product of the words widened (R321). -/
theorem ofInt_fdiv_two_pow_32 (x : Int) : BitVec.ofInt 32 (x.fdiv (2 ^ 32)) = (BitVec.ofInt 64 x >>> 32).setWidth 32 := by
  rw [Int.fdiv_eq_ediv_of_nonneg x (by decide)]
  apply BitVec.eq_of_toNat_eq
  rw [BitVec.toNat_setWidth, BitVec.toNat_ushiftRight, BitVec.toNat_ofInt, BitVec.toNat_ofInt, Nat.shiftRight_eq_div_pow,
    natCast_two_pow, natCast_two_pow]
  omega

theorem ofInt_64_wordInt (sg : Bool) (a : BitVec 32) : BitVec.ofInt 64 (wordInt sg a) = if sg then a.signExtend 64 else a.setWidth 64 := by
  cases sg
  · exact (BitVec.ofInt_natCast 64 a.toNat).trans (BitVec.ofNat_toNat 64 a)
  · rfl

/-- The quotient truncated toward zero (R324). -/
theorem ofInt_tdiv_wordInt (sg : Bool) (a b : BitVec 32) :
    BitVec.ofInt 32 ((wordInt sg a).tdiv (wordInt sg b)) = if sg then a.sdiv b else a / b := by
  cases sg
  · exact ofInt_wordInt false (a / b)
  · change BitVec.ofInt 32 (a.toInt.tdiv b.toInt) = a.sdiv b
    rw [← BitVec.toInt_inj, BitVec.toInt_ofInt, BitVec.toInt_sdiv]

/-- The remainder of the quotient truncated toward zero (R324). -/
theorem ofInt_tmod_wordInt (sg : Bool) (a b : BitVec 32) :
    BitVec.ofInt 32 ((wordInt sg a).tmod (wordInt sg b)) = if sg then a.srem b else a % b := by
  cases sg
  · exact ofInt_wordInt false (a % b)
  · change BitVec.ofInt 32 (a.toInt.tmod b.toInt) = a.srem b
    rw [← BitVec.toInt_srem, BitVec.ofInt_toInt]

/-- A shift to the right that fills with copies of the sign, or with zeros (R325). -/
theorem ofInt_fdiv_wordInt (sg : Bool) (a : BitVec 32) (n : Nat) :
    BitVec.ofInt 32 ((wordInt sg a).fdiv (2 ^ n)) = if sg then a.sshiftRight n else a >>> n := by
  rw [Int.fdiv_eq_ediv_of_nonneg _ (Int.pow_nonneg (by decide))]
  cases sg
  · have hshift : wordInt false a / 2 ^ n = wordInt false (a >>> n) := by
      rw [wordInt_unsigned, wordInt_unsigned, BitVec.toNat_ushiftRight, Nat.shiftRight_eq_div_pow, Int.natCast_ediv, natCast_two_pow]
    rw [hshift, ofInt_wordInt]
    rfl
  · change BitVec.ofInt 32 (a.toInt / 2 ^ n) = a.sshiftRight n
    rw [BitVec.sshiftRight, Int.shiftRight_eq_div_pow, natCast_two_pow]

/-- The bits that a rotation brings round lie below those that it shifts. -/
theorem toNat_rotateLeft_eq_add {w : Nat} (a : BitVec w) {n : Nat} (hn : n < w) :
    (a.rotateLeft n).toNat = a.toNat * 2 ^ n % 2 ^ w + a.toNat / 2 ^ (w - n) := by
  have hlow : a.toNat / 2 ^ (w - n) < 2 ^ n := by
    rw [Nat.div_lt_iff_lt_mul (Nat.two_pow_pos _), ← Nat.pow_add, Nat.add_sub_cancel' (Nat.le_of_lt hn)]
    exact a.isLt
  have hhigh : a.toNat * 2 ^ n % 2 ^ w = (a.toNat % 2 ^ (w - n)) <<< n := by
    rw [Nat.shiftLeft_eq, ← Nat.mul_mod_mul_right, ← Nat.pow_add, Nat.sub_add_cancel (Nat.le_of_lt hn)]
  rw [BitVec.toNat_rotateLeft, Nat.mod_eq_of_lt hn, Nat.shiftLeft_eq, Nat.shiftRight_eq_div_pow, hhigh,
    Nat.shiftLeft_add_eq_or_of_lt hlow]

/-! ### What the elements are -/

section
variable {m : W64} {sg : Bool} (h : Claims.isI32 m sg) (z : Nat) (a b d : BitVec 32)
include h

/-! ADD, SUB, MUL and MAD are exact before the range step (R320). -/

theorem addElem_of_isI32 : addElem m z a.toNat b.toNat 0 = intResult m (wordInt sg a + wordInt sg b) := by
  rw [addElem, byClass_of_isI32 h, elemInt_of_isI32 h, elemInt_of_isI32 h]

theorem subElem_of_isI32 : subElem m z a.toNat b.toNat 0 = intResult m (wordInt sg a - wordInt sg b) := by
  rw [subElem, byClass_of_isI32 h, elemInt_of_isI32 h, elemInt_of_isI32 h]

theorem mulElem_of_isI32 : mulElem m z a.toNat b.toNat 0 = intResult m (wordInt sg a * wordInt sg b) := by
  rw [mulElem, byClass_of_isI32 h, elemInt_of_isI32 h, elemInt_of_isI32 h]

theorem madElem_of_isI32 : madElem m z a.toNat b.toNat d.toNat = intResult m (wordInt sg a * wordInt sg b + wordInt sg d) := by
  rw [madElem, byClass_of_isI32 h, elemInt_of_isI32 h, elemInt_of_isI32 h, elemInt_of_isI32 h]

theorem mulhElem_of_isI32 : (mulhElem m z a.toNat b.toNat 0).val =
    (if sg then ((a.signExtend 64 * b.signExtend 64) >>> 32).setWidth 32
      else ((a.setWidth 64 * b.setWidth 64) >>> 32).setWidth 32 : BitVec 32).toNat := by
  have hval : (mulhElem m z a.toNat b.toNat 0).val = (BitVec.ofInt 32 ((wordInt sg a * wordInt sg b).fdiv (2 ^ 32))).toNat := by
    rw [mulhElem, elemInt_of_isI32 h, elemInt_of_isI32 h, wrapN_of_isI32 h, tyWidth_of_isI32 h]
  rw [hval, ofInt_fdiv_two_pow_32, BitVec.ofInt_mul, ofInt_64_wordInt, ofInt_64_wordInt]
  cases sg <;> rfl

/-- MIN and MAX choose by the order of the type (R322). -/
theorem selElem_min_of_isI32 : selElem m false false a.toNat b.toNat = (if (if sg then b.slt a else b.ult a) then b else a).toNat := by
  simp only [selElem, tyInt_of_isI32 h, elemInt_of_isI32 h, Bool.true_or, if_true, Bool.false_eq_true, if_false, decide_eq_true_eq,
    wordInt_lt_iff, apply_ite BitVec.toNat]

theorem selElem_max_of_isI32 : selElem m true false a.toNat b.toNat = (if (if sg then a.slt b else a.ult b) then b else a).toNat := by
  simp only [selElem, tyInt_of_isI32 h, elemInt_of_isI32 h, Bool.true_or, if_true, decide_eq_true_eq,
    wordInt_lt_iff, apply_ite BitVec.toNat]

theorem negElem_of_isI32 (hsat : mrSat m = false) : (negElem m z a.toNat 0 0).val = (-a).toNat := by
  have hneg : (BitVec.ofInt 32 (-wordInt sg a)).toNat = (-a).toNat := by rw [BitVec.ofInt_neg, ofInt_wordInt]
  simp only [negElem, tyInt_of_isI32 h, Bool.true_or, if_true, elemInt_of_isI32 h, tySigned_of_isI32 h]
  cases sg
  · rw [if_neg Bool.false_ne_true, hsat, if_neg Bool.false_ne_true, wrapN_of_isI32 h, hneg]
  · rw [if_pos rfl, intResult_wraps h hsat, hneg]

theorem absElem_of_isI32 (hsat : mrSat m = false) : (absElem m z a.toNat 0 0).val = (if sg && a.slt 0 then -a else a).toNat := by
  have hneg : wordInt sg a < 0 ↔ (sg && a.slt 0) = true := by
    cases sg
    · exact iff_of_false (Int.not_lt.2 (Int.natCast_nonneg _)) Bool.false_ne_true
    · exact wordInt_lt_iff true a 0
  rw [absElem, tyInt_of_isI32 h, Bool.true_or, if_pos rfl, elemInt_of_isI32 h, intResult_wraps h hsat, apply_ite (BitVec.ofInt 32),
    BitVec.ofInt_neg, ofInt_wordInt]
  simp only [hneg]

/-! Shifts take the low five bits of b (R325). -/

theorem shlElem_of_isI32 : (shlElem m z a.toNat b.toNat 0).val = (a <<< (b.toNat % 32)).toNat := by
  rw [shlElem, tyWidth_of_isI32 h, shiftAmount, BitVec.toNat_shiftLeft, Nat.shiftLeft_eq]

theorem shrElem_of_isI32 : (shrElem m z a.toNat b.toNat 0).val =
    (if sg then a.sshiftRight (b.toNat % 32) else a >>> (b.toNat % 32)).toNat := by
  rw [shrElem, wrapN_of_isI32 h, elemInt_of_isI32 h, tyWidth_of_isI32 h, shiftAmount, ofInt_fdiv_wordInt]

theorem rotElem_of_isI32 : (rotElem m z a.toNat b.toNat 0).val = (a.rotateLeft (b.toNat % 32)).toNat := by
  rw [rotElem, tyWidth_of_isI32 h, shiftAmount, toNat_rotateLeft_eq_add a (Nat.mod_lt _ (by decide))]

theorem divElem_of_isI32 (hsat : mrSat m = false) : (divElem m z a.toNat b.toNat 0).val =
    (if b = 0 then -1 else if sg then a.sdiv b else a / b).toNat := by
  rw [divElem, byClass_of_isI32 h, elemInt_of_isI32 h, elemInt_of_isI32 h, tyWidth_of_isI32 h]
  by_cases hb : b = 0
  · rw [if_pos ((wordInt_eq_zero_iff sg b).2 hb), if_pos hb]
    rfl
  · rw [if_neg (mt (wordInt_eq_zero_iff sg b).1 hb), if_neg hb, intResult_wraps h hsat, ofInt_tdiv_wordInt]

theorem remElem_of_isI32 : (remElem m z a.toNat b.toNat 0).val = (if b = 0 then a else if sg then a.srem b else a % b).toNat := by
  rw [remElem, elemInt_of_isI32 h, elemInt_of_isI32 h]
  by_cases hb : b = 0
  · rw [if_pos ((wordInt_eq_zero_iff sg b).2 hb), if_pos hb]
  · rw [if_neg (mt (wordInt_eq_zero_iff sg b).1 hb), if_neg hb, wrapN_of_isI32 h, ← Int.tmod_def, ofInt_tmod_wordInt]

end

/-- Settles O17: a result is the exact integer of its operands after the range step, which keeps the low 32 bits (`intResult_wraps`) or
clamps (`intResult_clamps`); the low bits of a sum, difference or product are those of the words, whatever the signedness. -/
theorem integerElements : Obligations.IntegerElements := by
  unfold Obligations.IntegerElements
  refine ⟨fun m sg z a b d h hsat => ⟨?add, ?sub, ?mul, ?mad, mulhElem_of_isI32 h z a b, selElem_min_of_isI32 h a b,
    selElem_max_of_isI32 h a b, negElem_of_isI32 h z a hsat, absElem_of_isI32 h z a hsat, shlElem_of_isI32 h z a b,
    shrElem_of_isI32 h z a b, rotElem_of_isI32 h z a b, divElem_of_isI32 h z a b hsat, remElem_of_isI32 h z a b⟩,
    fun m z a b h hsat => ⟨?addSat, ?subSat, ?mulSat⟩⟩
  case add => rw [addElem_of_isI32 h, intResult_wraps h hsat, BitVec.ofInt_add, ofInt_wordInt, ofInt_wordInt]
  case sub =>
    rw [subElem_of_isI32 h, intResult_wraps h hsat, Int.sub_eq_add_neg, BitVec.ofInt_add, BitVec.ofInt_neg, ofInt_wordInt, ofInt_wordInt,
      ← BitVec.sub_eq_add_neg]
  case mul => rw [mulElem_of_isI32 h, intResult_wraps h hsat, BitVec.ofInt_mul, ofInt_wordInt, ofInt_wordInt]
  case mad =>
    rw [madElem_of_isI32 h, intResult_wraps h hsat, BitVec.ofInt_add, BitVec.ofInt_mul, ofInt_wordInt, ofInt_wordInt, ofInt_wordInt]
  case addSat => exact addElem_of_isI32 h z a b ▸ intResult_clamps h hsat _
  case subSat => exact subElem_of_isI32 h z a b ▸ intResult_clamps h hsat _
  case mulSat => exact mulElem_of_isI32 h z a b ▸ intResult_clamps h hsat _

end Sys2Proof.Machine
end

section
/-! SUPPORT. The tree of 13 R268 where its combination is an exact sum: what each level adds up to, what the lanes are given; and O21. -/

namespace Sys2Proof.Machine

/-- The combination of an integer reduction: an exact sum, which moves neither flags nor LFSRs. -/
def exactSum (_l : Nat) (x y : Int) (st : TreeSt) : Int × TreeSt := (x + y, st)

theorem pairUp_exactSum_cons (w l : Nat) (x y : Int) (r : List Int) (st : TreeSt) :
    pairUp exactSum w l (x :: y :: r) st = ((x + y) :: (pairUp exactSum w (l + w) r st).1, (pairUp exactSum w (l + w) r st).2) := rfl

/-- Pairing halves an even number of values and keeps their sum. -/
theorem pairUp_exactSum (w : Nat) (st : TreeSt) (n l : Nat) (v : List Int) (hv : v.length = 2 * n) :
    (pairUp exactSum w l v st).1.length = n ∧ (pairUp exactSum w l v st).1.sum = v.sum ∧ (pairUp exactSum w l v st).2 = st := by
  induction n generalizing l v with
  | zero =>
    obtain rfl : v = [] := List.eq_nil_of_length_eq_zero hv
    exact ⟨rfl, rfl, rfl⟩
  | succ n ih =>
    match v, hv with
    | x :: y :: r, hv =>
      obtain ⟨hlen, hsum, hst⟩ := ih (l + w) r (by rw [List.length_cons, List.length_cons] at hv; omega)
      rw [pairUp_exactSum_cons]
      exact ⟨by rw [List.length_cons, hlen], by simp only [List.sum_cons, hsum, Int.add_assoc], hst⟩

theorem treeLevels_succ {α : Type} (op : Nat → α → α → TreeSt → α × TreeSt) (k w : Nat) (v : List α) (st : TreeSt) :
    treeLevels op (k + 1) w v st =
      (v :: (treeLevels op k (2 * w) (pairUp op (2 * w) 0 v st).1 (pairUp op (2 * w) 0 v st).2).1,
        (treeLevels op k (2 * w) (pairUp op (2 * w) 0 v st).1 (pairUp op (2 * w) 0 v st).2).2) := rfl

/-- The root of the tree over 2^k values is their sum. -/
theorem treeLevels_exactSum (st : TreeSt) (k w : Nat) (v : List Int) (hv : v.length = 2 ^ k) :
    (treeLevels exactSum k w v st).1.getD k [] = [v.sum] ∧ (treeLevels exactSum k w v st).2 = st := by
  induction k generalizing w v with
  | zero =>
    obtain ⟨x, rfl⟩ := List.length_eq_one_iff.1 hv
    exact ⟨by rw [List.sum_singleton]; rfl, rfl⟩
  | succ k ih =>
    obtain ⟨hlen, hsum, hst⟩ := pairUp_exactSum (2 * w) st (2 ^ k) 0 v (by rw [hv, Nat.pow_succ'])
    rw [treeLevels_succ, hst, List.getD_cons_succ, ← hsum]
    exact ih (2 * w) _ hlen

/-- A reduction delivers the root to every lane and combines nothing more. -/
theorem treeDeliver_root {α : Type} (op : Nat → α → α → TreeSt → α × TreeSt) (lone : α → α × Nat) (k : Nat) (lv : List (List α)) (dflt : α)
    (ls : List Nat) (st : TreeSt) :
    treeDeliver op lone false k lv dflt ls st = (ls.map (fun l => (l, (lv.getD k []).getD 0 dflt)), st) := by
  induction ls with
  | nil => rfl
  | cons l r ih => rw [treeDeliver, if_neg Bool.false_ne_true, ih, List.map_cons]

/-- Lanes outside C(l) contribute the identity, which a sum does not see. -/
theorem sum_map_ite_zero (cond : Nat → Bool) (x : Nat → Int) (ls : List Nat) :
    (ls.map (fun l => if cond l then x l else 0)).sum = ((ls.filter cond).map x).sum := by
  induction ls with
  | nil => rfl
  | cons l r ih =>
    rw [List.map_cons, List.sum_cons, ih, List.filter_cons]
    split
    · rw [List.map_cons, List.sum_cons]
    · exact Int.zero_add _

theorem treeElem_exactSum (lone : Int → Int × Nat) (k : Nat) (x : Nat → Int) (cond : Nat → Bool) (st : TreeSt) :
    treeElem exactSum lone false 0 k x cond st =
      (((List.range (2 ^ k)).filter cond).map (fun l => (l, (((List.range (2 ^ k)).filter cond).map x).sum)), st) := by
  obtain ⟨hroot, hst⟩ := treeLevels_exactSum st k 1 ((List.range (2 ^ k)).map (fun l => if cond l then x l else 0))
    (by rw [List.length_map, List.length_range])
  refine (treeDeliver_root exactSum lone k _ 0 _ _).trans ?_
  rw [hroot, hst, sum_map_ite_zero]
  rfl

theorem sum_map_natCast (x : Nat → Nat) (ls : List Nat) : (ls.map (fun l => (x l : Int))).sum = ((ls.map x).sum : Nat) := by
  induction ls with
  | nil => rfl
  | cons l r ih => rw [List.map_cons, List.map_cons, List.sum_cons, List.sum_cons, ih, Int.natCast_add]

/-- A type of 32 bits has one element position, so that a reduction in it is one tree. -/
theorem treeOp_exactSum {i : WideIn} {k : Nat} (hw : tyWidth (mrType i.mr) = 32) (hlanes : i.lanes = 2 ^ k) (into : Nat → Int)
    (lone : Int → Int × Nat) (out : Int → Nat) :
    treeOp false into lone exactSum 0 out i =
      { vals := i.part.map (fun l => (l, out (i.part.map (fun j => into (i.a j % 2 ^ 32))).sum % 2 ^ 32)), lf := i.lf } := by
  simp only [treeOp, elemCount, hw, hlanes, Nat.log2_two_pow, Nat.lt_irrefl, if_false, treeAll, joinElem, if_true, bitsN, Nat.zero_mul,
    Nat.pow_zero, Nat.div_one, treeElem_exactSum, List.map_map, WideIn.part, Function.comp_def]

/-- What a reduction of 32-bit unsigned integers gives without saturation: the exact sum's low 32 bits in every lane of C(l). -/
theorem treeAdd_of_isI32 {i : WideIn} {k : Nat} (h : Claims.isI32 i.mr false) (hsat : mrSat i.mr = false) (hlanes : i.lanes = 2 ^ k) :
    treeAdd false i = { vals := i.part.map (fun l => (l, (i.part.map (fun j => i.a j % 2 ^ 32)).sum % 2 ^ 32)), lf := i.lf } := by
  have hint : ¬ tyFltB8 (mrType i.mr) = true := by rw [h]; decide
  have hinto : ∀ x, elemInt (mrType i.mr) (x % 2 ^ 32) = ((x % 2 ^ 32 : Nat) : Int) := fun x => elemInt_of_isI32 h (BitVec.ofNat 32 x)
  have hsum : (i.part.map (fun j => elemInt (mrType i.mr) (i.a j % 2 ^ 32))).sum = ((i.part.map (fun j => i.a j % 2 ^ 32)).sum : Nat) := by
    simp only [hinto, sum_map_natCast]
  rw [treeAdd, if_neg hint]
  refine (treeOp_exactSum (tyWidth_of_isI32 h) hlanes _ _ _).trans ?_
  rw [hsum, rangeStep_wraps h hsat, BitVec.ofInt_natCast, BitVec.toNat_ofNat, Nat.mod_mod]

/-- Settles O21: pairing keeps the sum (`pairUp_exactSum`), so that the root of the tree is the sum of the lanes of C(l), the others adding 0
(`treeElem_exactSum`), and the range step comes once, at the end. -/
theorem integerReductionIsTheSum : Obligations.IntegerReductionIsTheSum := by
  unfold Obligations.IntegerReductionIsTheSum
  intro i k h hsat hlanes _
  rw [treeAdd_of_isI32 h hsat hlanes, ← List.sum_eq_foldl_nat]
  refine ⟨rfl, ?_, ?_⟩
  · rw [List.map_map]
    exact List.map_id _
  · intro v hv
    obtain ⟨l, -, rfl⟩ := List.mem_map.1 hv
    rfl

end Sys2Proof.Machine
end

section
/-! SUPPORT. What a word decodes to is encoded as that word, row by row of the opcode grid (14 R271, 15 R288); O1 and O2. -/

namespace Sys2Proof.Laws

/-! ### A word is the word of its fields (14 R271) -/

theorem code_opnd (c : BitVec 8) : (Opnd.ofCode c).code = c.toNat := by
  have h := congrArg BitVec.toNat (code_ofCode c)
  rwa [BitVec.toNat_ofNat, Nat.mod_eq_of_lt (code_lt _)] at h

theorem code_opndD (w : W32) : (opndD w).code = w.toNat / 2 ^ 16 % 2 ^ 8 := code_opnd _
theorem code_opndA (w : W32) : (opndA w).code = w.toNat / 2 ^ 8 % 2 ^ 8 := code_opnd _
theorem code_opndB (w : W32) : (opndB w).code = w.toNat % 2 ^ 8 := code_opnd _

theorem wordF3_fields {w : W32} {op : Nat} (h : opcodeOf w = op) : wordF3 op (opndD w) (opndA w) (opndB w) = w := by
  have hw := w.isLt
  apply BitVec.eq_of_toNat_eq
  simp only [wordF3, code_opndD, code_opndA, code_opndB, opcodeOf, BitVec.toNat_ofNat] at h ⊢
  omega

theorem wordFI_fields {w : W32} {op : Nat} (h : opcodeOf w = op) : wordFI op (opndD w) (fieldI w) = w := by
  have hw := w.isLt
  apply BitVec.eq_of_toNat_eq
  simp only [wordFI, code_opndD, fieldI, opcodeOf, BitVec.toNat_ofNat] at h ⊢
  omega

theorem wordFM_fields {w : W32} {op : Nat} (h : opcodeOf w = op) : wordFM op (opndD w) (opndA w) (fieldB w) = w := by
  have hw := w.isLt
  apply BitVec.eq_of_toNat_eq
  simp only [wordFM, code_opndD, code_opndA, fieldB, opcodeOf, BitVec.toNat_ofNat] at h ⊢
  omega

theorem wordFB_fields {w : W32} {op : Nat} (h : opcodeOf w = op) : wordFB op (fieldO w) = w := by
  have hw := w.isLt
  apply BitVec.eq_of_toNat_eq
  simp only [wordFB, fieldO, opcodeOf, BitVec.toNat_ofNat] at h ⊢
  omega

theorem wordT3_fields {w : W32} {op : Nat} (h : opcodeOf w = op) : wordT3 op (fieldD w) (opndA w) (opndB w) = w := by
  have hw := w.isLt
  apply BitVec.eq_of_toNat_eq
  simp only [wordT3, fieldD, code_opndA, code_opndB, opcodeOf, BitVec.toNat_ofNat] at h ⊢
  omega

theorem wordM3_fields {w : W32} {op : Nat} (h : opcodeOf w = op) : wordM3 op (opndD w) (fieldA w) (fieldB w) = w := by
  have hw := w.isLt
  apply BitVec.eq_of_toNat_eq
  simp only [wordM3, code_opndD, fieldA, fieldB, opcodeOf, BitVec.toNat_ofNat] at h ⊢
  omega

/-! ### Row by row (15 R288): each opcode of the grid keeps the fields of its format, and any other keeps the word -/

theorem encode_row0 (w : W32) : encode (decodeRow0 (opcodeOf w) w) = [w] := by
  unfold decodeRow0
  split <;> simp [encode, wordF3_fields, wordFI_fields, wordFB_fields, *]
theorem encode_row1 (w : W32) : encode (decodeRow1 (opcodeOf w) w) = [w] := by
  unfold decodeRow1
  split <;> simp [encode, wordF3_fields, wordFI_fields, *]
theorem encode_row2 (w : W32) : encode (decodeRow2 (opcodeOf w) w) = [w] := by
  unfold decodeRow2
  split <;> simp [encode, wordF3_fields, *]
/-- The row of LI32, the one instruction of two words. -/
theorem encode_row3 (w lit : W32) :
    encode (decodeRow3 (opcodeOf w) w lit) = if opcodeOf w = 0x3E then [w, lit] else [w] := by
  unfold decodeRow3
  split <;> simp_all [encode, wordF3_fields, wordFI_fields]
theorem encode_row4 (w : W32) : encode (decodeRow4 (opcodeOf w) w) = [w] := by
  unfold decodeRow4
  split <;> simp [encode, wordF3_fields, *]
theorem encode_row5 (w : W32) : encode (decodeRow5 (opcodeOf w) w) = [w] := by
  unfold decodeRow5
  split <;> simp [encode, wordF3_fields, *]
theorem encode_row6 (w : W32) : encode (decodeRow6 (opcodeOf w) w) = [w] := by
  unfold decodeRow6
  split <;> simp [encode, wordF3_fields, *]
theorem encode_row7 (w : W32) : encode (decodeRow7 (opcodeOf w) w) = [w] := by
  unfold decodeRow7
  split <;> simp [encode, wordF3_fields, *]
theorem encode_row8 (w : W32) : encode (decodeRow8 (opcodeOf w) w) = [w] := by
  unfold decodeRow8
  split <;> simp [encode, wordF3_fields, wordFM_fields, *]
theorem encode_row9 (w : W32) : encode (decodeRow9 (opcodeOf w) w) = [w] := by
  unfold decodeRow9
  split <;> simp [encode, wordFM_fields, *]
theorem encode_rowA (w : W32) : encode (decodeRowA (opcodeOf w) w) = [w] := by
  unfold decodeRowA
  split <;> simp [encode, wordF3_fields, wordFI_fields, *]
theorem encode_rowB (w : W32) : encode (decodeRowB (opcodeOf w) w) = [w] := by
  unfold decodeRowB
  split <;> simp [encode, wordF3_fields, *]
theorem encode_rowC (w : W32) : encode (decodeRowC (opcodeOf w) w) = [w] := by
  unfold decodeRowC
  split <;> simp [encode, wordF3_fields, wordT3_fields, wordM3_fields, *]
theorem encode_rowE (w : W32) : encode (decodeRowE (opcodeOf w) w) = [w] := by
  unfold decodeRowE
  split <;> simp [encode, wordF3_fields, wordFI_fields, *]
theorem encode_rowF (w : W32) : encode (decodeRowF (opcodeOf w) w) = [w] := by
  unfold decodeRowF
  split <;> simp [encode, wordF3_fields, *]

/-- What a word decodes to is encoded as that word, and LI32 as it and its literal. -/
theorem encode_decodeWord (w lit : W32) : encode (decodeWord w lit) = if opcodeOf w = 0x3E then [w, lit] else [w] := by
  have other {i : Instr} {k : Nat} (hk : opcodeOf w / 16 = k) (hne : k ≠ 3) (hi : encode i = [w]) :
      encode i = if opcodeOf w = 0x3E then [w, lit] else [w] := by
    rw [hi, if_neg (by omega)]
  unfold decodeWord
  dsimp only
  split
  case h_1 hk => exact other hk (by decide) (encode_row0 w)
  case h_2 hk => exact other hk (by decide) (encode_row1 w)
  case h_3 hk => exact other hk (by decide) (encode_row2 w)
  case h_4 hk => exact encode_row3 w lit
  case h_5 hk => exact other hk (by decide) (encode_row4 w)
  case h_6 hk => exact other hk (by decide) (encode_row5 w)
  case h_7 hk => exact other hk (by decide) (encode_row6 w)
  case h_8 hk => exact other hk (by decide) (encode_row7 w)
  case h_9 hk => exact other hk (by decide) (encode_row8 w)
  case h_10 hk => exact other hk (by decide) (encode_row9 w)
  case h_11 hk => exact other hk (by decide) (encode_rowA w)
  case h_12 hk => exact other hk (by decide) (encode_rowB w)
  case h_13 hk => exact other hk (by decide) (encode_rowC w)
  case h_14 hk => exact other hk (by decide) (encode_rowE w)
  case h_15 hk => exact other hk (by decide) (encode_rowF w)
  case h_16 h3 _ _ _ _ _ _ _ _ _ _ _ => exact other rfl (by simpa using h3) rfl

theorem decodeWord_li32 {w : W32} (lit : W32) (h : opcodeOf w = 0x3E) : decodeWord w lit = .li32 (opndD w) (opndA w) (opndB w) lit := by
  simp [decodeWord, h, decodeRow3]

/-- What one word decodes to is well-formed: where it is a word without an opcode of the grid, it is that word. -/
theorem wellFormed_decodeWord {w : W32} (h : opcodeOf w ≠ 0x3E) : (decodeWord w 0).wellFormed = true := by
  have hwords : encode (decodeWord w 0) = [w] := by rw [encode_decodeWord, if_neg h]
  have hfits : (decodeWord w 0).opcodeFits = true := by
    unfold Instr.opcodeFits
    split
    · next v hv =>
      rw [hv] at hwords
      have hvw : v = w := (List.cons.inj hwords).1
      rw [hvw] at hv ⊢
      rw [unassignedWord, hv, beq_self_eq_true]
    · rfl
  rw [Instr.wellFormed, Instr.encoded, hwords, hfits]
  rfl

/-- Settles O2: encoding gives back the word of each row of the grid (`encode_row0` and its like), so that what is decoded is those words. -/
theorem decodingIsExact : Obligations.DecodingIsExact := by
  unfold Obligations.DecodingIsExact
  intro w lit rest
  by_cases hop : opcodeOf w = 0x3E
  · refine ⟨decodeWord w lit, rest, by simp [decode, hop], by rw [decodeWord_li32 lit hop]; rfl, ?_⟩
    rw [encode_decodeWord, if_pos hop]
    rfl
  · refine ⟨decodeWord w 0, lit :: rest, decode_one w _ hop, wellFormed_decodeWord hop, ?_⟩
    rw [encode_decodeWord, if_neg hop]
    rfl

/-- Settles O1: each word is decoded. -/
theorem decodesExampleWords : Obligations.DecodesExampleWords := by
  unfold Obligations.DecodesExampleWords
  decide

end Sys2Proof.Laws
end

section
/-! SUPPORT. A uniform instruction of a ready team (08 R161): what its own part finds, and what its completion, its branch or its stop leaves.
With it the statements on reset (O4), scalar operands (O9), branches (O5), the control stacks (O6), MR (O7) and scalar results (O8). -/

namespace Sys2Proof.Machine

/-- Settles O4: every table of the reset state is empty, and what it does not list reads as its default. -/
theorem resetLeavesTheChipIdle : Obligations.ResetLeavesTheChipIdle := by
  unfold Obligations.ResetLeavesTheChipIdle
  have hblank (k : Nat) (h : State.reset.present k = true) : State.reset.blank k = 0 := by
    unfold State.blank
    rw [if_pos h]
    split <;> rfl
  have hhome (k : Nat) : State.reset.homeByte k = State.reset.blank k := rfl
  have hdev (k : Nat) : State.reset.devByte k = State.reset.homeByte k := rfl
  refine ⟨rfl, fun i => ⟨rfl, rfl⟩, fun k hk => ?_, fun c => ⟨rfl, rfl, rfl⟩, fun d => rfl, rfl, rfl, rfl, fun k => rfl⟩
  rw [hdev, hhome, hblank k hk]
  exact ⟨rfl, rfl⟩

/-! ### Running the parts of an instruction -/

@[simp] theorem ok_bind {ε α β : Type} (a : α) (f : α → Except ε β) : (Except.ok a >>= f) = f a := rfl
@[simp] theorem error_bind {ε α β : Type} (e : ε) (f : α → Except ε β) : (Except.error e >>= f) = .error e := rfl
@[simp] theorem throw_eq {ε α : Type} (e : ε) : (throw e : Except ε α) = .error e := rfl

/-! ### What a uniform instruction's own part finds -/

/-- What the own part of a uniform instruction of opcode op finds at a ready team: its one pass, with nothing due and no register poisoned. -/
structure AtPass (s : State) (op : Nat) (u : UCtx) : Prop where
  state : u.s = s.settled
  ti : u.ti = s.cur
  team : u.t = s.me
  opcode : u.op = op
  cycle : (s.core (s.crew s.me.crew).core).cycle ≤ u.c
  poison : u.poison = .ok ()

@[simp] theorem settled_team (s : State) : s.settled.team s.cur = s.me := setTeam_team _ _ _

theorem onlyTeam_settled (s : State) : OnlyTeam s.cur s s.settled := onlyTeam_setTeam _ _ _

/-- Settling a team with nothing due writes it back. -/
theorem settle_settled {s : State} (h : s.me.pend = []) (c : Nat) : settle s s.cur c = s.settled := by
  unfold settle State.updTeam State.settled
  exact congrArg (s.setTeam s.cur) (commit_nil _ _ h)

/-- An S operand that the own part reads. -/
theorem AtPass.rd {s : State} {op : Nat} {u : UCtx} (hu : AtPass s op u) (h : ready s = true) {o : Opnd} (ho : okS o = true) :
    u.rd o = (sVal s.me o).toNat := by
  rw [UCtx.rd, hu.team, rdS _ _ _ (ready_pend h) ho]

section
variable {i : Instr} {s : State} {op : Nat} {word : W32} {fields : List (Nat × Bool)} {reads writes : List Opnd}
  {body : UCtx → Except Stop State} {late : Bool} {f : Nat → Team → Except Stop State}

/-- A uniform instruction of accepted fields comes to its own part, and ends as that says. -/
theorem uniform_run (h : ready s = true) (hf : fields.all (·.2) = true) (he : exec i s = runInstr s f)
    (hi : f s.cur s.me = uniform s s.cur s.me op word false fields true reads writes body late) :
    ∃ u, AtPass s op u ∧ (∀ t, body u = .ok t → exec i s = .next t) ∧ (∀ x, body u = .error x → exec i s = .next (stopped s s.cur x)) := by
  obtain ⟨c, o, hc, hbody⟩ := uniform_ready s op word fields reads writes body late h hf
  refine ⟨{ s := settle s s.cur c, ti := s.cur, t := s.me, c := c, ps := [{ lo := 0, n := 0, at_ := c, occ := o }], op := op },
    { state := settle_settled (ready_pend h) c, ti := rfl, team := rfl, opcode := rfl, cycle := hc, poison := rfl }, fun t ht => ?_, fun x hx => ?_⟩
  · exact he.trans (runInstr_ok s t _ h (hi.trans (hbody.trans ht)))
  · exact he.trans (runInstr_stop s x _ h (hi.trans (hbody.trans hx)))

/-- Likewise one without operands. -/
theorem plain_run (h : ready s = true) (he : exec i s = plain op (.v 0) (.v 0) (.v 0) s reads writes body) :
    ∃ u, AtPass s op u ∧ (∀ t, body u = .ok t → exec i s = .next t) ∧ (∀ x, body u = .error x → exec i s = .next (stopped s s.cur x)) :=
  uniform_run h (fields := [fld (.v 0) okZero, fld (.v 0) okZero, fld (.v 0) okZero]) (by decide) he rfl

/-- The first field that is not accepted traps (15 R293, R296). -/
theorem uniform_traps_field {x : Nat × Bool} (h : ready s = true) (hx : fields.find? (fun f => !f.2) = some x) (he : exec i s = runInstr s f)
    (hi : f s.cur s.me = uniform s s.cur s.me op word false fields true reads writes body late) : Traps i s 0x02 x.1 word.toNat := by
  refine he.trans (runInstr_stop s _ _ h (hi.trans ?_))
  unfold uniform
  simp [decodeChecks, ready_pace h, hx, bind, Except.bind]
end

section
variable {i : Instr} {s : State} {op : Nat} {u : UCtx}

theorem AtPass.only (hu : AtPass s op u) : OnlyTeam s.cur s u.s := hu.state ▸ onlyTeam_settled s
theorem AtPass.only_upd (hu : AtPass s op u) (f : Team → Team) : OnlyTeam s.cur s (u.s.updTeam s.cur f) := hu.only.trans (onlyTeam_updTeam _ _ _)
theorem AtPass.me (hu : AtPass s op u) : u.s.team s.cur = s.me := hu.state ▸ settled_team s
theorem AtPass.me_upd (hu : AtPass s op u) (f : Team → Team) : (u.s.updTeam s.cur f).team s.cur = f s.me := by rw [updTeam_team, hu.me]

/-- A completion without a result: the team goes on after the instruction with what its own part made of it. -/
theorem AtPass.runsTo_done (hu : AtPass s op u) {s' : State} {t : Team} (ho : OnlyTeam s.cur s s') (hm : s'.team s.cur = t) (hp : t.pend = [])
    (he : exec i s = .next (u.done s' [] 0)) : RunsTo i s t.stepped := by
  refine done_runsTo i s u s' [] 0 _ he hu.ti ho ?_
  rw [hm, hp]
  simp only [doneWrites, Team.stepped, Team.untimed, List.flatMap_nil, List.append_nil, hp]

/-- A completion at another address. -/
theorem AtPass.runsTo_branch (hu : AtPass s op u) {s' : State} {t : Team} {pc : W64} {r : Bool} (ho : OnlyTeam s.cur s s')
    (hm : s'.team s.cur = t) (he : exec i s = .next (u.branch s' pc r)) : RunsTo i s { t with pc := pc } :=
  branch_runsTo i s u s' pc r _ he hu.ti ho (by rw [hm])

/-- A completion with one S result. -/
theorem AtPass.givesS_done (hu : AtPass s op u) (h : ready s = true) {d : Opnd} (hd : okS d = true)
    (v lat : Nat) (he : exec i s = .next (u.done u.s [(d, v)] lat)) : GivesS i s d (w64 v) lat := by
  have hp := ready_pend h
  refine ⟨u.c, hu.cycle, done_runsTo i s u _ _ lat _ he hu.ti hu.only ?_⟩
  rw [doneWritesS _ _ _ _ _ hd, hu.me, hu.team, hp]
  rfl
end

/-! ### Branches -/

theorem targetCheck_ok {v : W64} (h : targetOk v = true) : targetCheck v = .ok () := by
  simp only [targetOk, Bool.and_eq_true, bne_iff_ne, decide_eq_true_eq] at h
  obtain ⟨hpace, hwin⟩ := h
  unfold winLo at hwin
  unfold targetCheck winLo
  rw [if_neg hpace, if_neg (by omega), if_neg (by omega)]

theorem targetCheck_pace {v : W64} (h : v.toNat % 32 = 0) : targetCheck v = .error (trapAt 0x05 v.toNat 0) := if_pos h

theorem bra_runs (off : BitVec 24) {s : State} (h : ready s = true) :
    (targetOk (targetOf s.me.pc off.toInt) = true → RunsTo (.bra off) s { s.me with pc := targetOf s.me.pc off.toInt }) ∧
    ((targetOf s.me.pc off.toInt).toNat % 32 = 0 → Traps (.bra off) s 0x05 (targetOf s.me.pc off.toInt).toNat 0) := by
  obtain ⟨u, hu, hok, hstop⟩ := uniform_run h rfl (show exec (.bra off) s = execBra off s from rfl) rfl
  refine ⟨fun ht => hu.runsTo_branch (r := true) hu.only hu.me (hok _ ?_), fun hp => hstop _ ?_⟩
  · simp only [targetCheck_ok ht, ok_bind]
  · simp only [targetCheck_pace hp, error_bind]

/-- BRZ (onZero) and BRNZ. -/
theorem branchIf_runs {i : Instr} {op : Nat} {onZero : Bool} {d : Opnd} {imm : BitVec 16} {s : State} (h : ready s = true) (hd : okS d = true)
    (he : exec i s = branchIf op onZero d imm s) :
    ((sVal s.me d == 0) = onZero → targetOk (targetOf s.me.pc imm.toInt) = true → RunsTo i s { s.me with pc := targetOf s.me.pc imm.toInt }) ∧
    ((sVal s.me d == 0) ≠ onZero → RunsTo i s s.me.stepped) := by
  obtain ⟨u, hu, hok, -⟩ := uniform_run h (fields := [fld d okS]) (by simp [fld, hd]) he rfl
  have hz : (u.rd d == 0) = (sVal s.me d == 0) := by
    rw [hu.rd h hd, Bool.eq_iff_iff, beq_iff_eq, beq_iff_eq, BitVec.toNat_eq]
    rfl
  refine ⟨fun hc ht => hu.runsTo_branch (r := true) hu.only hu.me (hok _ ?_), fun hc => hu.runsTo_done hu.only hu.me (ready_pend h) (hok _ ?_)⟩
  · rw [hz, if_pos (beq_iff_eq.2 hc)]
    simp only [targetCheck_ok ht, ok_bind]
  · rw [hz, if_neg (fun e => hc (beq_iff_eq.1 e))]

/-- What BRI makes of its address: alignment first, then the target checks (R298, R303). -/
theorem bri_runs {a : Opnd} {s : State} (h : ready s = true) (ha : okS a = true) :
    ((sVal s.me a).toNat % 4 = 0 → targetOk (sVal s.me a) = true → RunsTo (.bri (.v 0) a (.v 0)) s { s.me with pc := sVal s.me a }) ∧
    ((sVal s.me a).toNat % 4 ≠ 0 → Traps (.bri (.v 0) a (.v 0)) s 0x0B (sVal s.me a).toNat 0) ∧
    ((sVal s.me a).toNat % 4 = 0 → ∀ x, targetCheck (sVal s.me a) = .error x → exec (.bri (.v 0) a (.v 0)) s = .next (stopped s s.cur x)) := by
  obtain ⟨u, hu, hok, hstop⟩ := uniform_run h (fields := [fld (.v 0) okZero, fld a okS, fld (.v 0) okZero]) (by simp [fld, ha, okZero])
    (show exec (.bri (.v 0) a (.v 0)) s = execBri (.v 0) a (.v 0) s from rfl) rfl
  have hv : w64 (u.rd a) = sVal s.me a := by rw [hu.rd h ha, w64, BitVec.ofNat_toNat, BitVec.setWidth_eq]
  refine ⟨fun h4 ht => hu.runsTo_branch (r := true) hu.only hu.me (hok _ ?_), fun h4 => hstop _ ?_, fun h4 x hx => hstop _ ?_⟩
  · simp [hv, h4, targetCheck_ok ht, hu.poison]
  · simp [hv, h4]
  · simp [hv, h4, hx]

/-- Settles O5: the branches go where their targets may be gone to, and the checks of a target trap in their order. -/
theorem nopAndBranches : Obligations.NopAndBranches := by
  unfold Obligations.NopAndBranches
  intro s off imm d a h hd ha
  obtain ⟨hbra, hbraPace⟩ := bra_runs off h
  obtain ⟨hbrz, hbrzNot⟩ := branchIf_runs (i := .brz d imm) (onZero := true) h hd rfl
  obtain ⟨hbrnz, hbrnzNot⟩ := branchIf_runs (i := .brnz d imm) (onZero := false) h hd rfl
  obtain ⟨hbri, hbriAlign, hbriCheck⟩ := bri_runs h ha
  refine ⟨?nop, hbra, fun hz => hbrz (beq_iff_eq.2 hz), fun hz => hbrzNot (by simpa using hz), fun hz => hbrnz (by simpa using hz),
    fun hz => hbrnzNot (by simp [hz]), hbri, hbraPace, ?bri⟩
  case nop =>
    obtain ⟨u, hu, hok, -⟩ := plain_run (i := .nop (.v 0) (.v 0) (.v 0)) h rfl
    exact hu.runsTo_done hu.only hu.me (ready_pend h) (hok _ rfl)
  case bri =>
    rintro v rfl
    refine ⟨hbriAlign, fun hp => hbriCheck (by omega) _ (targetCheck_pace hp), fun h4 hp hhi => hbriCheck h4 _ ?_, fun h4 hp hw hhi => hbriCheck h4 _ ?_⟩
    · unfold targetCheck
      rw [if_neg hp, if_pos hhi]
    · unfold targetCheck
      rw [if_neg hp, if_neg (by omega), if_pos hw]

/-! ### The control stacks -/

theorem call_runs (off : BitVec 24) {s : State} (h : ready s = true) :
    (s.me.cstack.length < 16 → targetOk (targetOf s.me.pc off.toInt) = true →
      RunsTo (.call off) s { s.me.putS (.s 63) (nextPc s.me.pc 1) with cstack := sVal s.me (.s 63) :: s.me.cstack, pc := targetOf s.me.pc off.toInt }) ∧
    (16 ≤ s.me.cstack.length → Traps (.call off) s 0x10 2 0) := by
  obtain ⟨u, hu, hok, hstop⟩ := uniform_run h rfl (show exec (.call off) s = execCall off s from rfl) rfl
  have hlink : w64 (u.rd s63) = sVal s.me (.s 63) := by rw [s63, hu.rd h rfl, w64, BitVec.ofNat_toNat, BitVec.setWidth_eq]
  refine ⟨fun hn ht => ?_, fun hn => hstop _ (by simp [hn])⟩
  have he := hok _ (by simp only [ge_iff_le, if_neg (Nat.not_le.2 hn), targetCheck_ok ht, hu.poison, hlink, ok_bind]; rfl)
  exact hu.runsTo_branch (hu.only_upd _) (hu.me_upd _) he

theorem ret_runs {s : State} (h : ready s = true) :
    (∀ link rest, s.me.cstack = link :: rest → targetOk (sVal s.me (.s 63)) = true →
      RunsTo (.ret (.v 0) (.v 0) (.v 0)) s { s.me.putS (.s 63) link with cstack := rest, pc := sVal s.me (.s 63) }) ∧
    (s.me.cstack = [] → Traps (.ret (.v 0) (.v 0) (.v 0)) s 0x10 3 0) := by
  obtain ⟨u, hu, hok, hstop⟩ := uniform_run h (fields := [fld (.v 0) okZero, fld (.v 0) okZero, fld (.v 0) okZero]) (by decide)
    (show exec (.ret (.v 0) (.v 0) (.v 0)) s = execRet (.v 0) (.v 0) (.v 0) s from rfl) rfl
  have hlink : w64 (u.rd s63) = sVal s.me (.s 63) := by rw [s63, hu.rd h rfl, w64, BitVec.ofNat_toNat, BitVec.setWidth_eq]
  refine ⟨fun link rest hc ht => ?_, fun hc => hstop _ (by simp [hu.team, hc])⟩
  have he := hok _ (by simp only [hu.team, hc, targetCheck_ok ht, hu.poison, hlink, hu.ti, ok_bind]; rfl)
  exact hu.runsTo_branch (hu.only_upd _) (hu.me_upd _) he

theorem rcv_runs (off : BitVec 24) {s : State} (h : ready s = true) :
    (s.me.rstack.length < 32 → RunsTo (.rcv off) s { s.me.stepped with
      rstack := { pending := false, addr := targetOf s.me.pc off.toInt, mask := s.me.mask, mr := s.me.mr } :: s.me.rstack }) ∧
    (32 ≤ s.me.rstack.length → Traps (.rcv off) s 0x10 0 0) := by
  obtain ⟨u, hu, hok, hstop⟩ := uniform_run h rfl (show exec (.rcv off) s = execRcv off s from rfl) rfl
  refine ⟨fun hn => ?_, fun hn => hstop _ (by simp [hn])⟩
  have he := hok _ (by simp only [ge_iff_le, if_neg (Nat.not_le.2 hn)]; rfl)
  exact hu.runsTo_done (hu.only_upd _) (hu.me_upd _) (ready_pend h) he

theorem join_runs {s : State} (h : ready s = true) :
    (∀ e rest, s.me.rstack = e :: rest → e.pending = true →
      RunsTo (.join (.v 0) (.v 0) (.v 0)) s { s.me with rstack := rest, pc := e.addr, mask := e.mask, mr := e.mr }) ∧
    (∀ e rest, s.me.rstack = e :: rest → e.pending = false →
      RunsTo (.join (.v 0) (.v 0) (.v 0)) s { s.me.stepped with rstack := rest, mask := e.mask, mr := e.mr }) ∧
    (s.me.rstack = [] → Traps (.join (.v 0) (.v 0) (.v 0)) s 0x10 1 0) := by
  obtain ⟨u, hu, hok, hstop⟩ := plain_run (i := .join (.v 0) (.v 0) (.v 0)) h rfl
  refine ⟨fun e rest hr hp => ?_, fun e rest hr hp => ?_, fun hr => hstop _ (by simp [hu.team, hr])⟩
  · have he := hok _ (by simp only [hu.team, hr, hp, hu.ti, if_true]; rfl)
    exact hu.runsTo_branch (hu.only_upd _) (hu.me_upd _) he
  · have he := hok _ (by simp only [hu.team, hr, hp, hu.ti, Bool.false_eq_true, if_false]; rfl)
    exact hu.runsTo_done (hu.only_upd _) (hu.me_upd _) (ready_pend h) he

theorem yield_runs {s : State} (h : ready s = true) :
    (∀ e rest, s.me.rstack = e :: rest → e.pending = true → RunsTo (.yield (.v 0) (.v 0) (.v 0)) s { s.me with
      rstack := { pending := true, addr := nextPc s.me.pc 1, mask := s.me.mask, mr := s.me.mr } :: rest, pc := e.addr, mask := e.mask, mr := e.mr }) ∧
    ((∀ e ∈ s.me.rstack.head?, e.pending = false) → RunsTo (.yield (.v 0) (.v 0) (.v 0)) s s.me.stepped) := by
  obtain ⟨u, hu, hok, -⟩ := plain_run (i := .yield (.v 0) (.v 0) (.v 0)) h rfl
  refine ⟨fun e rest hr hp => ?_, fun hnot => hu.runsTo_done hu.only hu.me (ready_pend h) (hok _ ?_)⟩
  · have he := hok _ (by simp only [hu.team, hr, hp, hu.ti, if_true]; rfl)
    exact hu.runsTo_branch (hu.only_upd _) (hu.me_upd _) he
  · rw [hu.team]
    cases hr : s.me.rstack with
    | nil => rfl
    | cons e rest => simp [hnot e (by simp [hr])]

/-! ### BRG -/

theorem getLsbD_foldl_or (p : Nat → Bool) (ls : List Nat) (l : Nat) (hls : ∀ k ∈ ls, k < 1024) : ∀ m : LaneMask,
    (ls.foldl (fun m k => if p k then m ||| (1#1024 <<< k) else m) m).getLsbD l = (m.getLsbD l || (decide (l ∈ ls) && p l)) := by
  induction ls with
  | nil => simp
  | cons a r ih =>
    intro m
    have ha : a < 1024 := hls a List.mem_cons_self
    rw [List.foldl_cons, ih (fun k hk => hls k (List.mem_cons_of_mem a hk))]
    by_cases hl : l = a
    · subst hl
      cases p l <;> simp [ha]
    · have hbit : (1#1024 <<< a).getLsbD l = false := by
        simp [BitVec.getLsbD_shiftLeft, BitVec.getLsbD_one]
        omega
      cases p a <;> simp [hl, hbit]

/-- The lanes that pass the guard, as a mask. -/
theorem getLsbD_guardMask {t : Team} (hp : t.pend = []) (hl : t.lanesLog ≤ 10) (c l : Nat) :
    (guardMask t c).getLsbD l = (decide (l < t.lanes) && takesPart t l) := by
  have hlanes : t.lanes ≤ 1024 := Nat.pow_le_pow_right (n := 2) (by decide) hl
  have hfold := getLsbD_foldl_or (fun l => t.active l && t.guard c l) (List.range t.lanes) l (fun k hk => by have := List.mem_range.1 hk; omega) 0
  simpa [guardMask, takesPart, guard_nil hp c l] using hfold

/-- What BRG does with the lanes that pass the guard (R306). -/
def brgBody (off : BitVec 24) (u : UCtx) : Except Stop State :=
  let no := u.t.mask &&& ~~~guardMask u.t u.c
  let v := targetOf u.t.pc off.toInt
  if guardMask u.t u.c = 0 then .ok (u.done u.s [] 0)
  else if no = 0 then do
    targetCheck v
    .ok (u.branch u.s v true)
  else do
    if u.t.rstack.length ≥ 32 then throw (trapAt 0x10 0 0)
    targetCheck v
    let e : RecEntry := { pending := true, addr := nextPc u.t.pc 1, mask := no, mr := u.t.mr }
    .ok (u.branch (u.s.updTeam u.ti (fun t => { t with rstack := e :: t.rstack, mask := guardMask u.t u.c })) v true)

theorem ilDue_nil {t : Team} (h : t.pend = []) (r : Reg) (l : Nat) : t.ilDue r l = 0 := by simp [Team.ilDue, h]

theorem brg_run (off : BitVec 24) {s : State} (h : ready s = true) : ∃ u, AtPass s 0x02 u ∧
    (∀ t, brgBody off u = .ok t → exec (.brg off) s = .next t) ∧ (∀ x, brgBody off u = .error x → exec (.brg off) s = .next (stopped s s.cur x)) := by
  obtain ⟨c, o, hc, hps⟩ := passesOf_one s s.cur 0x02 [] (ready_flight h) (ready_passes h) (ready_onePass h)
  have hready (ls : List Nat) : ls.foldl (fun m l => ((guardUse s.me).regs 0 l).foldl (fun m r => max m (s.me.ilDue r l)) m) 0 = 0 := by
    simp [ilDue_nil (ready_pend h)]
  have hteam : (settle s s.cur c).team s.cur = s.me := settle_team s s.cur c (ready_pend h)
  let u : UCtx := { s := settle s s.cur c, ti := s.cur, t := s.me, c := c, ps := [{ lo := 0, n := 0, at_ := c, occ := o }], op := 0x02 }
  have hexec : exec (.brg off) s = runInstr s (fun _ _ => brgBody off u) := by
    change execBrg off s = _
    unfold execBrg runInstr
    have hcheck := decodeChecks_ok s.me (wordFB 0x02 off) [] (ready_pace h) rfl
    simp only [show s.team s.cur = s.me from rfl, hcheck, hready, hps, ok_bind, bumpLast, Nat.max_zero, lastPass, List.foldl_cons, List.foldl_nil,
      Nat.zero_max, undersized_nil _ _ _ _ _ (ready_pend h), hteam]
    rfl
  refine ⟨u, { state := settle_settled (ready_pend h) c, ti := rfl, team := rfl, opcode := rfl, cycle := hc, poison := rfl }, fun t ht => ?_, fun x hx => ?_⟩
  · exact hexec.trans (runInstr_ok s t _ h ht)
  · exact hexec.trans (runInstr_stop s x _ h hx)

theorem brg_runs (off : BitVec 24) {s : State} (h : ready s = true) : ∃ yes : LaneMask,
    (∀ l, yes.getLsbD l = (decide (l < s.me.lanes) && takesPart s.me l)) ∧
    (yes = 0 → RunsTo (.brg off) s s.me.stepped) ∧
    (yes ≠ 0 → s.me.mask &&& ~~~yes = 0 → targetOk (targetOf s.me.pc off.toInt) = true →
      RunsTo (.brg off) s { s.me with pc := targetOf s.me.pc off.toInt }) ∧
    (yes ≠ 0 → s.me.mask &&& ~~~yes ≠ 0 → s.me.rstack.length < 32 → targetOk (targetOf s.me.pc off.toInt) = true →
      RunsTo (.brg off) s { s.me with
        rstack := { pending := true, addr := nextPc s.me.pc 1, mask := s.me.mask &&& ~~~yes, mr := s.me.mr } :: s.me.rstack,
        mask := yes, pc := targetOf s.me.pc off.toInt }) ∧
    (yes ≠ 0 → s.me.mask &&& ~~~yes ≠ 0 → 32 ≤ s.me.rstack.length → Traps (.brg off) s 0x10 0 0) := by
  obtain ⟨u, hu, hok, hstop⟩ := brg_run off h
  refine ⟨guardMask s.me u.c, getLsbD_guardMask (ready_pend h) (ready_lanes h).2 u.c, fun hz => ?none, fun hy hn ht => ?all,
    fun hy hn hlen ht => ?some, fun hy hn hlen => hstop _ ?full⟩
  case none =>
    have he := hok _ (by simp only [brgBody, hu.team, hz, if_true]; rfl)
    exact hu.runsTo_done hu.only hu.me (ready_pend h) he
  case all =>
    have he := hok _ (by simp only [brgBody, hu.team, hy, hn, targetCheck_ok ht, ok_bind, if_true, if_false]; rfl)
    exact hu.runsTo_branch hu.only hu.me he
  case some =>
    have he := hok _ (by
      simp only [brgBody, hu.team, hy, hn, targetCheck_ok ht, ok_bind, if_false, ge_iff_le, if_neg (Nat.not_le.2 hlen), hu.ti]; rfl)
    exact hu.runsTo_branch (hu.only_upd _) (hu.me_upd _) he
  case full =>
    simp only [brgBody, hu.team, hy, hn, if_false, ge_iff_le, if_pos hlen, throw_eq, error_bind]

/-- Settles O6: each instruction of the two stacks ends in one completion, branch or trap, by what is on its stack. -/
theorem controlStacks : Obligations.ControlStacks := by
  unfold Obligations.ControlStacks
  refine ⟨fun s off h => ⟨(call_runs off h).1, (call_runs off h).2, (ret_runs h).1, (ret_runs h).2⟩, fun s off h => ?_, fun s off h => brg_runs off h⟩
  obtain ⟨hpush, hfull⟩ := rcv_runs off h
  obtain ⟨hjoin, hpop, hempty⟩ := join_runs h
  obtain ⟨hswap, hstays⟩ := yield_runs h
  exact ⟨hpush, hfull, fun e rest hr hp => ⟨hjoin e rest hr hp, hswap e rest hr hp⟩,
    fun e rest hr hp => ⟨hpop e rest hr hp, hstays (by simp [hr, hp])⟩, fun hr => ⟨hempty hr, hstays (by simp [hr])⟩⟩

/-! ### MR -/

/-- A span of MR replaced, bit by bit. -/
theorem getLsbD_mrSpan (m : W64) {shift width imm : Nat} (himm : imm < 2 ^ width) {k : Nat} (hk : k < 64) :
    (mrSpan m shift width imm).getLsbD k = if shift ≤ k ∧ k < shift + width then imm.testBit (k - shift) else m.getLsbD k := by
  have hlow : m.toNat % 2 ^ shift < 2 ^ shift := Nat.mod_lt _ (Nat.two_pow_pos _)
  have hspan : bitsN m.toNat shift width < 2 ^ width := Nat.mod_lt _ (Nat.two_pow_pos _)
  have hm : m.toNat = 2 ^ shift * (2 ^ width * (m.toNat / 2 ^ shift / 2 ^ width) + bitsN m.toNat shift width) + m.toNat % 2 ^ shift := by
    rw [bitsN, Nat.div_add_mod, Nat.div_add_mod]
  have hval : m.toNat - bitsN m.toNat shift width * 2 ^ shift + imm % 2 ^ width * 2 ^ shift =
      2 ^ shift * (2 ^ width * (m.toNat / 2 ^ shift / 2 ^ width) + imm) + m.toNat % 2 ^ shift := by
    rw [Nat.mod_eq_of_lt himm]
    generalize m.toNat / 2 ^ shift / 2 ^ width = hi at hm ⊢
    generalize bitsN m.toNat shift width = b at hm hspan ⊢
    generalize m.toNat % 2 ^ shift = lo at hm hlow ⊢
    rw [hm, Nat.mul_add, Nat.mul_add, Nat.mul_comm b, Nat.mul_comm imm]
    omega
  have hbits (x : Nat) (hx : x < 2 ^ width) : (2 ^ shift * (2 ^ width * (m.toNat / 2 ^ shift / 2 ^ width) + x) + m.toNat % 2 ^ shift).testBit k =
      if k < shift then (m.toNat % 2 ^ shift).testBit k
      else if k - shift < width then x.testBit (k - shift) else (m.toNat / 2 ^ shift / 2 ^ width).testBit (k - shift - width) := by
    rw [Nat.testBit_two_pow_mul_add _ hlow, Nat.testBit_two_pow_mul_add _ hx]
  have hmk : m.getLsbD k = m.toNat.testBit k := rfl
  have hnew : (mrSpan m shift width imm).getLsbD k = (2 ^ shift * (2 ^ width * (m.toNat / 2 ^ shift / 2 ^ width) + imm) + m.toNat % 2 ^ shift).testBit k := by
    rw [mrSpan, hval, w64, BitVec.getLsbD_ofNat, decide_eq_true hk, Bool.true_and]
  rw [hnew, hmk, hbits imm himm]
  conv_rhs => rw [hm, hbits _ hspan]
  split <;> split <;> grind

theorem modeImm_runs {i : Instr} {op shift width : Nat} {imm : BitVec 16} {s : State} (h : ready s = true)
    (he : exec i s = modeImm op shift width (.v 0) imm s) :
    (imm.toNat < 2 ^ width → ∃ m : W64, RunsTo i s { s.me.stepped with mr := m } ∧
      ∀ k < 64, m.getLsbD k = if shift ≤ k ∧ k < shift + width then imm.getLsbD (k - shift) else s.me.mr.getLsbD k) ∧
    (2 ^ width ≤ imm.toNat → ∃ w : W32, Traps i s 0x02 imm.toNat w.toNat) := by
  refine ⟨fun himm => ⟨mrSpan s.me.mr shift width imm.toNat, ?_, fun k hk => getLsbD_mrSpan _ himm hk⟩, fun himm => ⟨_, uniform_traps_field h (x := (imm.toNat, imm.toNat / 2 ^ width == 0)) ?_ he rfl⟩⟩
  · obtain ⟨u, hu, hok, -⟩ := uniform_run h (fields := [fld (.v 0) okZero, (imm.toNat, imm.toNat / 2 ^ width == 0)])
      (by simp [fld, okZero, Nat.div_eq_of_lt himm]) he rfl
    exact hu.runsTo_done (hu.only_upd _) (hu.me_upd _) (ready_pend h) (hok _ rfl)
  · have : imm.toNat / 2 ^ width ≠ 0 := by
      rw [ne_eq, Nat.div_eq_zero_iff_lt (Nat.two_pow_pos _)]
      omega
    simp [fld, okZero, this]

theorem modeSet_runs {a : Opnd} {s : State} (h : ready s = true) (ha : okS a = true) :
    ((sVal s.me a).getLsbD 31 = false → (sVal s.me a).toNat < 2 ^ 47 →
      RunsTo (.modeSet (.v 0) a (.v 0)) s { s.me.stepped with mr := sVal s.me a }) ∧
    ((sVal s.me a).getLsbD 31 = true ∨ 2 ^ 47 ≤ (sVal s.me a).toNat →
      ∃ w : W32, Traps (.modeSet (.v 0) a (.v 0)) s 0x02 (sVal s.me a).toNat w.toNat) := by
  obtain ⟨u, hu, hok, hstop⟩ := uniform_run h (fields := [fld (.v 0) okZero, fld a okS, fld (.v 0) okZero]) (by simp [fld, ha, okZero])
    (show exec (.modeSet (.v 0) a (.v 0)) s = execModeSet (.v 0) a (.v 0) s from rfl) rfl
  have hrsv : (bitN (u.rd a) 31 || u.rd a / 2 ^ 47 != 0) = ((sVal s.me a).getLsbD 31 || decide (2 ^ 47 ≤ (sVal s.me a).toNat)) := by
    rw [hu.rd h ha]
    refine congrArg₂ _ rfl ?_
    rw [Bool.eq_iff_iff, bne_iff_ne, decide_eq_true_eq, ne_eq, Nat.div_eq_zero_iff_lt (by decide), Nat.not_lt]
  refine ⟨fun h31 h47 => ?_, fun hbad => ⟨wordF3 0x0B (.v 0) a (.v 0), hstop _ ?_⟩⟩
  · have hv : w64 (u.rd a) = sVal s.me a := by rw [hu.rd h ha, w64, BitVec.ofNat_toNat, BitVec.setWidth_eq]
    have he := hok _ (by simp only [hrsv, h31, decide_eq_false (Nat.not_le.2 h47), Bool.or_false, Bool.false_eq_true, if_false, hu.poison, ok_bind, hv]; rfl)
    exact hu.runsTo_done (hu.only_upd _) (hu.me_upd _) (ready_pend h) he
  · have hbad' : ((sVal s.me a).getLsbD 31 || decide (2 ^ 47 ≤ (sVal s.me a).toNat)) = true := by simpa using hbad
    simp only [hrsv, hbad', if_true, throw_eq, error_bind]
    rw [hu.rd h ha]

/-- Settles O7: an immediate form replaces its span bit by bit (`getLsbD_mrSpan`) or its immediate is a field that is not accepted. -/
theorem modeRegister : Obligations.ModeRegister := by
  unfold Obligations.ModeRegister
  refine ⟨fun s imm h e he => ?_, fun s a d h ha hd => ⟨(modeSet_runs h ha).1, (modeSet_runs h ha).2, ?_⟩⟩
  · simp only [List.mem_cons, List.not_mem_nil, or_false] at he
    obtain rfl | rfl | rfl | rfl := he
    · exact modeImm_runs h rfl
    · exact modeImm_runs h rfl
    · exact modeImm_runs h rfl
    · exact modeImm_runs h rfl
  · obtain ⟨u, hu, hok, -⟩ := uniform_run h (fields := [fld d okS, fld (.v 0) okZero, fld (.v 0) okZero]) (by simp [fld, hd, okZero])
      (show exec (.modeGet d (.v 0) (.v 0)) s = execModeGet d (.v 0) (.v 0) s from rfl) rfl
    have hv : w64 s.me.mr.toNat = s.me.mr := by rw [w64, BitVec.ofNat_toNat, BitVec.setWidth_eq]
    exact hv ▸ hu.givesS_done h hd s.me.mr.toNat 4 (hok _ rfl)

/-! ### Scalar integers -/

/-- A word of a number, by its low 64 bits. -/
theorem w64_eq {n : Nat} {v : W64} (h : n % 2 ^ 64 = v.toNat) : w64 (n % 2 ^ 64) = v := by
  rw [h, w64, BitVec.ofNat_toNat, BitVec.setWidth_eq]

theorem w64_wrapN (x : Int) : w64 (wrapN 64 x % 2 ^ 64) = BitVec.ofInt 64 x := by
  rw [wrapN_eq_toNat_ofInt]
  exact w64_eq (Nat.mod_eq_of_lt (BitVec.isLt _))

/-- The quotient truncated toward zero, as two's complement words give it (R313). -/
theorem w64_sdivN (x y : W64) : w64 (sdivN x.toNat y.toNat % 2 ^ 64) = if y = 0 then -1 else x.sdiv y := by
  have hy : y.toNat = 0 ↔ y = 0 := (BitVec.toNat_eq (x := y) (y := 0)).symm
  unfold sdivN
  simp only [hy, sextN_toNat (w := 64) (by decide)]
  split
  · rfl
  · split
    · next _ hmin =>
      have hx : x = BitVec.intMin 64 := BitVec.toInt_inj.1 hmin.1
      have hy1 : y = -1#64 := BitVec.toInt_inj.1 hmin.2
      rw [hx, hy1]
      rfl
    · rw [w64_wrapN, ← BitVec.toInt_inj, BitVec.toInt_ofInt, BitVec.toInt_sdiv]

/-- An FI scalar gives its function of Sd and the immediate (R314). -/
theorem scalarI_givesS {i : Instr} {op : Nat} {rd : Bool} {f : Nat → BitVec 16 → Nat} {d : Opnd} {imm : BitVec 16} {s : State} (h : ready s = true)
    (hd : okS d = true) (he : exec i s = scalarI op rd f d imm s) : GivesS i s d (w64 (f (sVal s.me d).toNat imm % 2 ^ 64)) 4 := by
  obtain ⟨u, hu, hok, -⟩ := uniform_run h (fields := [fld d okS]) (by simp [fld, hd]) he rfl
  exact hu.rd h hd ▸ hu.givesS_done h hd _ 4 (hok _ rfl)

/-- Shifting 16 bits in is adding them to the word shifted (R314). -/
theorem slih_toNat (z : W64) (imm : BitVec 16) : (z.toNat * 2 ^ 16 % 2 ^ 64 + imm.toNat) % 2 ^ 64 = ((z <<< 16) ||| imm.setWidth 64).toNat := by
  have himm := imm.isLt
  have hwide : (imm.setWidth 64).toNat = imm.toNat := by rw [BitVec.toNat_setWidth]; omega
  have hshift : (z <<< 16).toNat = (z.toNat % 2 ^ 48) <<< 16 := by
    rw [BitVec.toNat_shiftLeft, Nat.shiftLeft_eq, Nat.shiftLeft_eq]
    omega
  rw [BitVec.toNat_or, hwide, hshift, ← Nat.shiftLeft_add_eq_or_of_lt himm, Nat.shiftLeft_eq]
  omega

/-- Settles O8: every row is `scalar3_givesS` or `scalarI_givesS`, and what is left is that its function is that of 64-bit words. -/
theorem scalarResults : Obligations.ScalarResults := by
  unfold Obligations.ScalarResults
  intro s d a b imm h hd ha hb x y hx hy
  subst hx hy
  have row {i : Instr} {op : Nat} {f : Nat → Nat → Nat} (v : W64) (he : exec i s = scalar3 op f d a b s)
      (hv : w64 (f (sVal s.me a).toNat (sVal s.me b).toNat % 2 ^ 64) = v) : GivesS i s d v (latencyOf op) :=
    hv ▸ scalar3_givesS i s op f d a b h hd ha hb he
  have rowI {i : Instr} {op : Nat} {rd : Bool} {f : Nat → BitVec 16 → Nat} (v : W64) (he : exec i s = scalarI op rd f d imm s)
      (hv : w64 (f (sVal s.me d).toNat imm % 2 ^ 64) = v) : GivesS i s d v 4 := hv ▸ scalarI_givesS h hd he
  generalize sVal s.me a = x at row ⊢
  generalize sVal s.me b = y at row ⊢
  generalize sVal s.me d = z at rowI ⊢
  have hx := x.isLt
  have hy := y.isLt
  have hsx : sextN 64 x.toNat = x.toInt := sextN_toNat (by decide) x
  have hsy : sextN 64 y.toNat = y.toInt := sextN_toNat (by decide) y
  refine ⟨row _ (show exec (.sadd d a b) s = execSadd d a b s from rfl) (w64_eq (by simp)),
    row _ (show exec (.ssub d a b) s = execSsub d a b s from rfl) (w64_eq ?sub),
    row _ (show exec (.smul d a b) s = execSmul d a b s from rfl) (w64_eq (by simp)),
    row _ (show exec (.sand d a b) s = execSand d a b s from rfl) (w64_eq ?and),
    row _ (show exec (.sor d a b) s = execSor d a b s from rfl) (w64_eq ?or),
    row _ (show exec (.sxor d a b) s = execSxor d a b s from rfl) (w64_eq ?xor),
    row _ (show exec (.sshl d a b) s = execSshl d a b s from rfl) (w64_eq ?shl),
    row _ (show exec (.sshr d a b) s = execSshr d a b s from rfl) (w64_eq ?shr),
    row _ (show exec (.ssra d a b) s = execSsra d a b s from rfl) ?sra,
    row _ (show exec (.sslt d a b) s = execSslt d a b s from rfl) ?slt,
    row _ (show exec (.ssltn d a b) s = execSsltn d a b s from rfl) ?ult,
    row _ (show exec (.sdiv d a b) s = execSdiv d a b s from rfl) (w64_sdivN x y),
    rowI _ (show exec (.sli d imm) s = execSli d imm s from rfl) ?sli, rowI _ (show exec (.slih d imm) s = execSlih d imm s from rfl) (w64_eq ?slih),
    rowI _ (show exec (.saddi d imm) s = execSaddi d imm s from rfl) ?saddi⟩
  case sub => rw [BitVec.toNat_sub]; omega
  case and => rw [BitVec.toNat_and, Nat.mod_eq_of_lt (Nat.and_lt_two_pow _ hy)]
  case or => rw [BitVec.toNat_or, Nat.mod_eq_of_lt (Nat.or_lt_two_pow hx hy)]
  case xor => rw [BitVec.toNat_xor, Nat.mod_eq_of_lt (Nat.xor_lt_two_pow hx hy)]
  case shl => rw [BitVec.toNat_shiftLeft, Nat.shiftLeft_eq]
  case shr =>
    rw [BitVec.toNat_ushiftRight, Nat.shiftRight_eq_div_pow]
    exact Nat.mod_eq_of_lt (Nat.lt_of_le_of_lt (Nat.div_le_self _ _) hx)
  case sra =>
    rw [w64_wrapN, hsx, Int.fdiv_eq_ediv_of_nonneg _ (by positivity), BitVec.sshiftRight, Int.shiftRight_eq_div_pow]
    norm_cast
  case slt =>
    rw [hsx, hsy, BitVec.slt]
    by_cases hlt : x.toInt < y.toInt <;> simp [hlt, w64]
  case ult =>
    rw [BitVec.ult]
    by_cases hlt : x.toNat < y.toNat <;> simp [hlt, w64]
  case sli => exact w64_wrapN imm.toInt
  case slih => exact slih_toNat z imm
  case saddi =>
    rw [wrapN_eq_toNat_ofInt]
    exact w64_eq (by rw [BitVec.toNat_add]; rfl)

/-- Settles O9: the field that is not accepted is found before anything else happens (`uniform_traps_field`). -/
theorem scalarOperandsAreChecked : Obligations.ScalarOperandsAreChecked := by
  unfold Obligations.ScalarOperandsAreChecked
  intro s d a b h e he w hw
  have row {i : Instr} {op : Nat} {f : Nat → Nat → Nat} (he : exec i s = scalar3 op f d a b s) {x : Nat × Bool}
      (hx : [fld d okS, fld a okS, fld b okS].find? (fun f => !f.2) = some x) : Traps i s 0x02 x.1 (wordF3 op d a b).toNat :=
    uniform_traps_field h hx he rfl
  have rows {i : Instr} {op : Nat} {f : Nat → Nat → Nat} (he : exec i s = scalar3 op f d a b s) :
      (okS d = false → Traps i s 0x02 d.code (wordF3 op d a b).toNat) ∧
      (okS d = true → okS a = false → Traps i s 0x02 a.code (wordF3 op d a b).toNat) ∧
      (okS d = true → okS a = true → okS b = false → Traps i s 0x02 b.code (wordF3 op d a b).toNat) :=
    ⟨fun hd => row he (x := fld d okS) (by simp [fld, hd]), fun hd ha => row he (x := fld a okS) (by simp [fld, hd, ha]),
      fun hd ha hb => row he (x := fld b okS) (by simp [fld, hd, ha, hb])⟩
  subst hw
  simp only [List.mem_cons, List.not_mem_nil, or_false] at he
  obtain rfl | rfl | rfl | rfl | rfl | rfl | rfl | rfl | rfl | rfl | rfl | rfl := he
  · exact rows (show exec (.sadd d a b) s = execSadd d a b s from rfl)
  · exact rows (show exec (.ssub d a b) s = execSsub d a b s from rfl)
  · exact rows (show exec (.smul d a b) s = execSmul d a b s from rfl)
  · exact rows (show exec (.sdiv d a b) s = execSdiv d a b s from rfl)
  · exact rows (show exec (.sand d a b) s = execSand d a b s from rfl)
  · exact rows (show exec (.sor d a b) s = execSor d a b s from rfl)
  · exact rows (show exec (.sxor d a b) s = execSxor d a b s from rfl)
  · exact rows (show exec (.sshl d a b) s = execSshl d a b s from rfl)
  · exact rows (show exec (.sshr d a b) s = execSshr d a b s from rfl)
  · exact rows (show exec (.ssra d a b) s = execSsra d a b s from rfl)
  · exact rows (show exec (.sslt d a b) s = execSslt d a b s from rfl)
  · exact rows (show exec (.ssltn d a b) s = execSsltn d a b s from rfl)

end Sys2Proof.Machine
end

section
/-! SUPPORT. Lane-wise instructions whose operands are registers, ZR, LID, X or V[Xn] (17 R315): each lane in which one has an effect is computed
once, from what it held before, whatever the passes (`laneOp_gives`). With it O10 to O14. -/

namespace Sys2Proof.Machine

/-! ### Sources that are neither queues nor the drain port -/

theorem peekSrcs_plains (s : State) (ti : Nat) (srcs : List (Opnd × Nat)) (h : ∀ x ∈ srcs, plainOpnd x.1 = true) : ∀ done,
    peekSrcs s ti (fun _ => none) done srcs = .ok (s, srcs.map (fun x => .op x.1)) := by
  induction srcs with
  | nil => exact fun _ => rfl
  | cons x r ih =>
    intro done
    obtain ⟨o, m⟩ := x
    have hr := ih (fun y hy => h y (List.mem_cons_of_mem _ hy)) (done ++ [(o, m)])
    have ho := h _ List.mem_cons_self
    cases o with
    | q k => exact nomatch ho
    | _ => simp [peekSrcs, hr]

theorem no_dq_of_plain {srcs : List (Opnd × Nat)} (h : ∀ x ∈ srcs, plainOpnd x.1 = true) : ∀ x ∈ srcs, (x.1 == Opnd.dq) = false := by
  intro x hx
  rw [beq_eq_false_iff_ne]
  intro e
  have := h x hx
  rw [e] at this
  exact nomatch this

/-- Sources that are registers are taken as they are. -/
theorem takeSrcs_plain (s : State) (ti : Nat) {srcs : List (Opnd × Nat)} (h : ∀ x ∈ srcs, plainOpnd x.1 = true) :
    takeSrcs s ti srcs = .ok (takenOf s ti (srcs.map (fun x => .op x.1))) := by
  have hnone : srcs.filter (·.1 == .dq) = [] := List.filter_eq_nil_iff.2 (fun x hx => by simp [no_dq_of_plain h x hx])
  simp [takeSrcs, takenOf, hnone, peekSrcs_plains s ti srcs h]

theorem dqTyOk_plain (m : W64) {srcs : List (Opnd × Nat)} (h : ∀ x ∈ srcs, plainOpnd x.1 = true) : dqTyOk m srcs = true := by
  have hnone : srcs.any (·.1 == .dq) = false := List.any_eq_false.2 (fun x hx => by simp [no_dq_of_plain h x hx])
  simp [dqTyOk, hnone]

theorem popSrcs_plains (t : Team) {srcs : List (Opnd × Nat)} (h : ∀ x ∈ srcs, plainOpnd x.1 = true) : popSrcs t srcs = t := by
  induction srcs with
  | nil => rfl
  | cons x r ih =>
    have hr := ih (fun y hy => h y (List.mem_cons_of_mem _ hy))
    obtain ⟨o, m⟩ := x
    have ho := h _ List.mem_cons_self
    cases o with
    | q k => exact nomatch ho
    | _ => exact hr

theorem qReadable_plain (t : Team) {o : Opnd} (h : plainOpnd o = true) : qReadable t o = true := by
  cases o with
  | q k => exact nomatch h
  | _ => rfl
theorem qWritable_plain (s : State) (t : Team) {o : Opnd} (h : plainOpnd o = true) : qWritable s t o = true := by
  cases o with
  | q k => exact nomatch h
  | _ => rfl
theorem pushRoom_plain (s : State) (t : Team) {o : Opnd} (n : Nat) (h : plainOpnd o = true) : pushRoom s t o n = .ok () := by
  cases o with
  | q k => exact nomatch h
  | _ => rfl
theorem lanesPushed_plain (s : State) (t : Team) {f : LaneForm} (vals : List (Nat × Nat × Nat)) (h : plainOpnd f.dst.1 = true) :
    lanesPushed s t f vals = s := by
  unfold lanesPushed
  split
  · next k hk => rw [hk] at h; exact nomatch h
  · rfl

theorem srcOk_plain {t : Team} {o : Opnd} (h : plainOpnd o = true) (ho : okSrc (mr64 t.mr) o = true) : srcOk t o = true := by
  rw [srcOk, ho, qReadable_plain t h]; rfl
theorem dstOk_plain {s : State} {t : Team} {o : Opnd} (h : plainOpnd o = true) (ho : okDst (mr64 t.mr) o = true) : dstOk s t o = true := by
  rw [dstOk, ho, qWritable_plain s t h]; rfl

theorem grpWrites_nil {t : Team} (h : t.pend = []) (n : Nat) (o : Opnd) (c l v : Nat) : grpWrites t n o c l v = grpWrites t n o 0 l v := by
  cases o with
  | vx k => simp only [grpWrites, vxIndex_nil h c]
  | _ => rfl

/-! ### The lanes of the passes, of either width -/

/-- A lane in which an instruction has an effect, `all` for SEL's every active lane. -/
def effective (t : Team) (all : Bool) (l : Nat) : Bool := t.active l && (all || t.guard 0 l)

/-- The lanes in which the passes write, each with the cycle of its pass. -/
def effectTimes (t : Team) (all : Bool) (ps : List Pass) : List (Nat × Nat) :=
  ps.flatMap (fun p => ((span p.lo p.n).filter (effective t all)).map (fun l => (l, p.at_)))

/-- The lanes of the passes of an instruction, in order. -/
def passLanes (t : Team) (is64 : Bool) : List Nat := (passWords t is64).flatMap (fun w => span w.1 w.2)

theorem effectTimes_lanes (t : Team) (all is64 : Bool) {ps : List Pass} (hps : ps.map (fun p => (p.lo, p.n)) = passWords t is64) :
    (effectTimes t all ps).map (·.1) = (passLanes t is64).filter (effective t all) := by
  rw [passLanes, ← hps, effectTimes]
  simp [List.map_flatMap, List.flatMap_map, List.filter_flatMap, Function.comp_def]

/-- The words of a pass list, as its halves under a 64-bit type. -/
theorem passLanes_eq (t : Team) (is64 : Bool) : passLanes t is64 =
    ((List.range (t.lanes / 32)).filter (fun w => (t.mask >>> (32 * w)).extractLsb' 0 32 != 0)).flatMap (fun w => span (32 * w) 32) := by
  have halves (w : Nat) : span (32 * w) 16 ++ span (32 * w + 16) 16 = span (32 * w) 32 := by
    simp only [span, show (32 : Nat) = 16 + 16 from rfl, List.range_add, List.map_append, List.map_map]
    simp [Function.comp_def, Nat.add_assoc]
  unfold passLanes passWords
  dsimp only
  generalize (List.range (t.lanes / 32)).filter (fun w => (t.mask >>> (32 * w)).extractLsb' 0 32 != 0) = ws
  split
  · next h => rw [List.isEmpty_iff.1 h]; rfl
  · cases is64 <;> simp [List.flatMap_map, List.flatMap_assoc, halves]

theorem nodup_passLanes (t : Team) (is64 : Bool) : (passLanes t is64).Nodup := by
  rw [passLanes_eq, List.nodup_flatMap]
  constructor
  · intro w _
    exact List.Nodup.map (fun _ _ h => Nat.add_left_cancel h) List.nodup_range
  · refine List.Pairwise.imp (fun {v w} hne => List.disjoint_left.2 fun l hv hw => ?_) (List.nodup_range.filter _)
    rw [mem_span] at hv hw
    omega

/-- The passes hold every lane in which the instruction has an effect, each once. -/
theorem mem_effectTimes {t : Team} {all is64 : Bool} {ps : List Pass} (hlanes : 5 ≤ t.lanesLog)
    (hps : ps.map (fun p => (p.lo, p.n)) = passWords t is64) (l : Nat) : l ∈ (effectTimes t all ps).map (·.1) ↔ writesLane t all l := by
  have hcover (ha : t.active l = true) : l ∈ passLanes t is64 ↔ l < t.lanes := by
    rw [passLanes_eq, ← passLanes_eq t false, passLanes, List.mem_flatMap]
    exact passWords_cover hlanes ha
  rw [effectTimes_lanes t all is64 hps, List.mem_filter, effective, Bool.and_eq_true, Bool.or_eq_true, writesLane]
  constructor
  · rintro ⟨hl, ha, hg⟩; exact ⟨(hcover ha).1 hl, ha, hg⟩
  · rintro ⟨hl, ha, hg⟩; exact ⟨(hcover ha).2 hl, ha, hg⟩

theorem nodup_effectTimes (t : Team) (all is64 : Bool) {ps : List Pass} (hps : ps.map (fun p => (p.lo, p.n)) = passWords t is64) :
    ((effectTimes t all ps).map (·.1)).Nodup := by
  rw [effectTimes_lanes t all is64 hps]
  exact (nodup_passLanes t is64).filter _

/-! ### What the lanes compute -/

/-- What a lane-wise instruction computes in lane l from the registers as they stand and an LFSR. -/
def laneInOf (t : Team) (f : LaneForm) (l z : Nat) : LaneIn :=
  let v (i : Nat) : Nat := match f.srcs[i]? with
    | some y => opVal t y.2 y.1 l
    | none => 0
  { mr := t.mr, guard := t.guard 0 l, lane := l, z := z, a := v 0, b := v 1, d := if f.readD then opVal t f.dst.2 f.dst.1 l else 0 }

/-- One lane's result noted, with the cycle of its pass. -/
def noteLane (out : Nat → Nat → LaneOut) (acc : LaneAcc) (e : Nat × Nat) : LaneAcc :=
  let o := out e.1 (zGet acc.lf e.1)
  { vals := (e.1, e.2, o.val) :: acc.vals, flags := acc.flags ||| o.flags, lf := zSet acc.lf e.1 o.z }

theorem zGet_zSet_ne (lf : Cells W32) {l j : Nat} (z : Nat) (h : j ≠ l) : zGet (zSet lf l z) j = zGet lf j := by
  unfold zSet
  split
  · rfl
  · unfold zGet
    rw [cget_cset_ne _ _ _ _ _ h]

section
variable (out : Nat → Nat → LaneOut)

theorem foldl_noteLane_z (es : List (Nat × Nat)) {l : Nat} (h : l ∉ es.map (·.1)) : ∀ acc : LaneAcc,
    zGet (es.foldl (noteLane out) acc).lf l = zGet acc.lf l := by
  induction es with
  | nil => exact fun _ => rfl
  | cons e r ih =>
    intro acc
    rw [List.map_cons, List.mem_cons, not_or] at h
    rw [List.foldl_cons, ih h.2]
    exact zGet_zSet_ne _ _ h.1

/-- Lanes that each come once are computed from their own LFSRs as they stand at first. -/
theorem foldl_noteLane (es : List (Nat × Nat)) (hnd : (es.map (·.1)).Nodup) : ∀ acc : LaneAcc,
    (es.foldl (noteLane out) acc).vals = (es.map (fun e => (e.1, e.2, (out e.1 (zGet acc.lf e.1)).val))).reverse ++ acc.vals ∧
    ∀ n, (es.foldl (noteLane out) acc).flags.testBit n = true ↔
      acc.flags.testBit n = true ∨ ∃ e ∈ es, (out e.1 (zGet acc.lf e.1)).flags.testBit n = true := by
  induction es with
  | nil => exact fun acc => ⟨rfl, fun n => by simp⟩
  | cons e r ih =>
    intro acc
    rw [List.map_cons, List.nodup_cons] at hnd
    have hz (x : Nat × Nat) (hx : x ∈ r) : zGet (noteLane out acc e).lf x.1 = zGet acc.lf x.1 :=
      zGet_zSet_ne _ _ (fun he => hnd.1 (he ▸ List.mem_map_of_mem hx))
    obtain ⟨hvals, hflags⟩ := ih hnd.2 (noteLane out acc e)
    rw [List.foldl_cons]
    constructor
    · have hmap : r.map (fun x => (x.1, x.2, (out x.1 (zGet (noteLane out acc e).lf x.1)).val)) =
          r.map (fun x => (x.1, x.2, (out x.1 (zGet acc.lf x.1)).val)) := List.map_congr_left (fun x hx => by rw [hz x hx])
      rw [hvals, hmap]
      simp [noteLane]
    · intro n
      have hex : (∃ x ∈ r, (out x.1 (zGet (noteLane out acc e).lf x.1)).flags.testBit n = true) ↔
          ∃ x ∈ r, (out x.1 (zGet acc.lf x.1)).flags.testBit n = true :=
        exists_congr (fun x => and_congr_right (fun hx => by rw [hz x hx]))
      rw [hflags, hex]
      simp [noteLane, or_assoc]

end

/-- A lane of a pass, where every source is a register. -/
theorem laneStep_plain {t : Team} (ht : t.pend = []) (f : LaneForm) (k : Taken) (hk : k.srcs = f.srcs.map (fun x => .op x.1))
    (hflags : k.flags = fun _ => 0) (p : Pass) (acc : LaneAcc) (l : Nat) : laneStep t f k p acc l =
      if effective t f.all l then noteLane (fun l z => f.f (laneInOf t f l z)) acc (l, p.at_) else acc := by
  unfold laneStep noteLane laneInOf effective
  simp only [hk, List.getElem?_map, guard_nil ht p.at_ l, hflags, readGrp_nil ht p.at_, ite_self, Nat.or_zero]
  cases f.srcs[0]? <;> cases f.srcs[1]? <;> simp only [Option.map_some, Option.map_none, Src.word, readGrp_nil ht p.at_]

theorem lanesRun_plain {t : Team} (ht : t.pend = []) (f : LaneForm) (k : Taken) (hk : k.srcs = f.srcs.map (fun x => .op x.1))
    (hflags : k.flags = fun _ => 0) (ps : List Pass) :
    lanesRun t f k ps = (effectTimes t f.all ps).foldl (noteLane (fun l z => f.f (laneInOf t f l z))) { lf := k.lf } := by
  have pass (p : Pass) (ls : List Nat) : ∀ acc : LaneAcc, ls.foldl (laneStep t f k p) acc =
      ((ls.filter (effective t f.all)).map (fun l => (l, p.at_))).foldl (noteLane (fun l z => f.f (laneInOf t f l z))) acc := by
    induction ls with
    | nil => exact fun _ => rfl
    | cons l r ih =>
      intro acc
      rw [List.foldl_cons, ih, laneStep_plain ht f k hk hflags, List.filter_cons]
      split <;> rfl
  have run (ps : List Pass) : ∀ acc : LaneAcc, ps.foldl (fun acc p => (span p.lo p.n).foldl (laneStep t f k p) acc) acc =
      (effectTimes t f.all ps).foldl (noteLane (fun l z => f.f (laneInOf t f l z))) acc := by
    induction ps with
    | nil => exact fun _ => rfl
    | cons p r ih =>
      intro acc
      rw [List.foldl_cons, ih, pass, ← List.foldl_append]
      rfl
  exact run ps _

theorem inRange_sublist {t : Team} {ops ops' : List (Opnd × Nat)} (hsub : ops' ⊆ ops) (h : inRange t ops = true) : inRange t ops' = true := by
  simp only [inRange, Bool.and_eq_true, List.all_eq_true] at h ⊢
  exact ⟨fun x hx => h.1 x (hsub hx), fun l hl x hx => h.2 l hl x (hsub hx)⟩

theorem inRange_head {t : Team} {x : Opnd × Nat} {ops : List (Opnd × Nat)} (h : inRange t (x :: ops) = true) : inRange t [x] = true :=
  inRange_sublist (fun _ hy => List.mem_singleton.1 hy ▸ List.mem_cons_self) h

/-! ### A lane-wise instruction -/

theorem lanesEnd_plain {s u : State} {f : LaneForm} (ps : List Pass) (l : List Src) (hme : u.team s.cur = s.me)
    (hplain : ∀ x ∈ f.srcs, plainOpnd x.1 = true) (hdst : plainOpnd f.dst.1 = true) {acc : LaneAcc} (hacc : lanesRun s.me f (takenOf u s.cur l) ps = acc) :
    lanesEnd f s.cur ps (takenOf u s.cur l) =
      retire (u.updTeam s.cur (fun t => Team.addFlags { t with lfsr := acc.lf } acc.flags)) s.cur f.op f.words ps false
        (lanesWrites s.me f acc.vals.reverse) := by
  unfold lanesEnd
  dsimp only
  rw [show (takenOf u s.cur l).s.team s.cur = s.me from hme, hacc, lanesPushed_plain _ _ _ hdst]
  congr 1
  unfold takenDone
  simp only [State.updTeam, popSrcs_plains _ hplain]
  rfl

/-- The registers that what the lanes have computed goes to. -/
theorem lanesWrites_iff {t : Team} (ht : t.pend = []) (f : LaneForm) {es : List (Nat × Nat)} {all : Bool}
    (hes : ∀ l, l ∈ es.map (·.1) ↔ writesLane t all l) (g : Nat → Nat) (r : Reg) (l : Nat) (v : W64) :
    (∃ w ∈ lanesWrites t f (es.map (fun e => (e.1, e.2, g e.1))), w.reg = r ∧ w.lane = l ∧ w.val = v) ↔
      ∃ k, writesLane t all k ∧ (r, l, v) ∈ grpWrites t f.dst.2 f.dst.1 0 k (g k) := by
  unfold lanesWrites
  simp only [List.mem_flatMap, List.mem_map, grpWrites_nil ht f.dst.2 f.dst.1]
  constructor
  · rintro ⟨_, ⟨_, ⟨e, he, rfl⟩, x, hx, rfl⟩, rfl, rfl, rfl⟩
    exact ⟨e.1, (hes _).1 (List.mem_map_of_mem he), hx⟩
  · rintro ⟨k, hk, hx⟩
    obtain ⟨e, he, rfl⟩ := List.mem_map.1 ((hes k).2 hk)
    exact ⟨_, ⟨_, ⟨e, he, rfl⟩, _, hx, rfl⟩, rfl, rfl, rfl⟩

/-- A lane-wise instruction of a ready team, of accepted fields and type and of registers within the declared count, completes with what each lane in
which it has an effect computes from the registers and its own LFSR. -/
theorem laneOp_gives {i : Instr} {s : State} {f : LaneForm} {g : Nat → Team → Except Stop State} (h : ready s = true)
    (hf : f.fields.all (·.2) = true) (hty : f.tyOk = true) (hin : inRange s.me (f.dst :: f.srcs) = true)
    (he : exec i s = runInstr s g) (hg : g s.cur s.me = laneOp s s.cur s.me f) :
    GivesLanes i s f.words f.dst f.all (fun l => f.f (laneInOf s.me f l (zGet s.me.lfsr l))) := by
  have hplain : ∀ x ∈ f.srcs, plainOpnd x.1 = true := fun x hx => plain_of_inRange hin (List.mem_cons_of_mem _ hx)
  have hdst : plainOpnd f.dst.1 = true := plain_of_inRange hin List.mem_cons_self
  have ht := ready_pend h
  obtain ⟨ps, hps, hrun⟩ := laneOp_ready h hf (by rw [hty, dqTyOk_plain _ hplain]; rfl) (withinRegs_of_inRange hin)
  rw [settle_settled ht, takeSrcs_plain _ _ hplain] at hrun
  simp only [Except.bind, pushRoom_plain _ _ _ hdst] at hrun
  have hes := mem_effectTimes (all := f.all) (ready_lanes h).1 hps
  have hlf : (takenOf s.settled s.cur (f.srcs.map (fun x => .op x.1))).lf = s.me.lfsr := congrArg Team.lfsr (settled_team s)
  have hacc := lanesRun_plain ht f (takenOf s.settled s.cur (f.srcs.map (fun x => .op x.1))) rfl rfl ps
  have hz := fun l hl => foldl_noteLane_z (fun l z => f.f (laneInOf s.me f l z)) (effectTimes s.me f.all ps) (l := l) hl { lf := s.me.lfsr }
  obtain ⟨hvals, hflags⟩ := foldl_noteLane (fun l z => f.f (laneInOf s.me f l z)) (effectTimes s.me f.all ps)
    (nodup_effectTimes s.me f.all _ hps) { lf := s.me.lfsr }
  rw [hlf] at hacc
  generalize (effectTimes s.me f.all ps).foldl (noteLane (fun l z => f.f (laneInOf s.me f l z))) { lf := s.me.lfsr } = acc at hacc hz hvals hflags
  rw [lanesEnd_plain ps _ (settled_team s) hplain hdst hacc] at hrun
  have hexec := he.trans (runInstr_ok s _ g h (hg.trans hrun))
  refine ⟨lanesWrites s.me f acc.vals.reverse, acc.lf, acc.flags, runsTo_of i s _ _ hexec ?only ?me (retire_status _ _ _ _ _ _ _),
    ?writes, ?flags, ?lfsr⟩
  case only => exact ((onlyTeam_settled s).trans (onlyTeam_updTeam _ _ _)).trans (retire_onlyTeam _ _ _ _ _ _ _)
  case me =>
    rw [retire_me, updTeam_team, settled_team]
    simp only [Team.addFlags, ht, List.nil_append]
  case writes =>
    intro r l v
    rw [hvals, List.append_nil, List.reverse_reverse]
    exact lanesWrites_iff ht f hes (fun l => (f.f (laneInOf s.me f l (zGet s.me.lfsr l))).val) r l v
  case flags =>
    intro n
    rw [hflags]
    simp only [Nat.zero_testBit, Bool.false_eq_true, false_or]
    constructor
    · rintro ⟨e, he, hn⟩; exact ⟨e.1, (hes _).1 (List.mem_map_of_mem he), hn⟩
    · rintro ⟨l, hl, hn⟩
      obtain ⟨e, he, rfl⟩ := List.mem_map.1 ((hes l).2 hl)
      exact ⟨e, he, hn⟩
  case lfsr => exact fun l hl => hz l (fun hm => hl ((hes l).1 hm))

/-! ### The shapes (R320 to R332) -/

/-- Vd := f Va Vb, Vd := f Va and Vd := f Vd Va Vb of the issuing team, and ADDI. -/
def form2 (op : Nat) (tys rnds : Nat → Bool) (f : W64 → Nat → Nat → Nat → Nat → ElemOut) (s : State) (d a b : Opnd) : LaneForm :=
  { op := op, word := wordF3 op d a b, fields := [fld d (dstOk s s.me), fld a (srcOk s.me), fld b (srcOk s.me)],
    tyOk := tyCheck s.me.mr tys rnds, is64 := mr64 s.me.mr, dst := (d, mrWords s.me.mr),
    srcs := [(a, mrWords s.me.mr), (b, mrWords s.me.mr)], f := elemWise (f s.me.mr) }
def form1 (op : Nat) (tys rnds : Nat → Bool) (f : W64 → Nat → Nat → Nat → Nat → ElemOut) (s : State) (d a : Opnd) : LaneForm :=
  { op := op, word := wordF3 op d a (.v 0), fields := [fld d (dstOk s s.me), fld a (srcOk s.me), fld (.v 0) okZero],
    tyOk := tyCheck s.me.mr tys rnds, is64 := mr64 s.me.mr, dst := (d, mrWords s.me.mr), srcs := [(a, mrWords s.me.mr)],
    f := elemWise (f s.me.mr) }
def form3 (op : Nat) (tys rnds : Nat → Bool) (f : W64 → Nat → Nat → Nat → Nat → ElemOut) (s : State) (d a b : Opnd) : LaneForm :=
  { op := op, word := wordF3 op d a b, fields := [fld d (rdDstOk s.me), fld a (srcOk s.me), fld b (srcOk s.me)],
    tyOk := tyCheck s.me.mr tys rnds, is64 := mr64 s.me.mr, dst := (d, mrWords s.me.mr),
    srcs := [(a, mrWords s.me.mr), (b, mrWords s.me.mr)], readD := true, f := elemWise (f s.me.mr) }
def addiForm (s : State) (d : Opnd) (imm : BitVec 16) : LaneForm :=
  { op := 0x33, word := wordFI 0x33 d imm, fields := [fld d (rdDstOk s.me)], tyOk := tyCheck s.me.mr tyNotX rndFlt,
    is64 := mr64 s.me.mr, dst := (d, mrWords s.me.mr), srcs := [], readD := true, f := elemWise (addiElem imm s.me.mr) }

section
variable {i : Instr} {s : State} {op : Nat} {tys rnds : Nat → Bool} {f : W64 → Nat → Nat → Nat → Nat → ElemOut} {d a b : Opnd}

theorem elem2_gives (h : ready s = true) (hty : tyCheck s.me.mr tys rnds = true) (hd : okDst (mr64 s.me.mr) d = true)
    (ha : okSrc (mr64 s.me.mr) a = true) (hb : okSrc (mr64 s.me.mr) b = true)
    (hin : inRange s.me [(d, mrWords s.me.mr), (a, mrWords s.me.mr), (b, mrWords s.me.mr)] = true) (he : exec i s = elem2 op tys rnds f d a b s) :
    GivesLanes i s 1 (d, mrWords s.me.mr) false (fun l => elemWise (f s.me.mr)
      (laneOf s.me l (opVal s.me (mrWords s.me.mr) a l) (opVal s.me (mrWords s.me.mr) b l) 0)) := by
  have hplain {x : Opnd × Nat} := plain_of_inRange (x := x) hin
  exact laneOp_gives (f := form2 op tys rnds f s d a b) h
    (by simp [form2, fld, dstOk_plain (hplain List.mem_cons_self) hd, srcOk_plain (hplain (List.mem_cons_of_mem _ List.mem_cons_self)) ha,
      srcOk_plain (hplain (List.mem_cons_of_mem _ (List.mem_cons_of_mem _ List.mem_cons_self))) hb]) hty hin he rfl

theorem elem1_gives (h : ready s = true) (hty : tyCheck s.me.mr tys rnds = true) (hd : okDst (mr64 s.me.mr) d = true)
    (ha : okSrc (mr64 s.me.mr) a = true) (hin : inRange s.me [(d, mrWords s.me.mr), (a, mrWords s.me.mr)] = true)
    (he : exec i s = elem1 op tys rnds f d a (.v 0) s) :
    GivesLanes i s 1 (d, mrWords s.me.mr) false (fun l => elemWise (f s.me.mr) (laneOf s.me l (opVal s.me (mrWords s.me.mr) a l) 0 0)) := by
  have hplain {x : Opnd × Nat} := plain_of_inRange (x := x) hin
  exact laneOp_gives (f := form1 op tys rnds f s d a) h
    (by simp [form1, fld, okZero, dstOk_plain (hplain List.mem_cons_self) hd, srcOk_plain (hplain (List.mem_cons_of_mem _ List.mem_cons_self)) ha])
    hty hin he rfl

theorem elem3_gives (h : ready s = true) (hty : tyCheck s.me.mr tys rnds = true) (hd : okRdDst (mr64 s.me.mr) d = true)
    (ha : okSrc (mr64 s.me.mr) a = true) (hb : okSrc (mr64 s.me.mr) b = true)
    (hin : inRange s.me [(d, mrWords s.me.mr), (a, mrWords s.me.mr), (b, mrWords s.me.mr)] = true) (he : exec i s = elem3 op tys rnds f d a b s) :
    GivesLanes i s 1 (d, mrWords s.me.mr) false (fun l => elemWise (f s.me.mr) (laneOf s.me l (opVal s.me (mrWords s.me.mr) a l)
      (opVal s.me (mrWords s.me.mr) b l) (opVal s.me (mrWords s.me.mr) d l))) := by
  have hplain {x : Opnd × Nat} := plain_of_inRange (x := x) hin
  exact laneOp_gives (f := form3 op tys rnds f s d a b) h
    (by simp [form3, fld, rdDstOk, hd, srcOk_plain (hplain (List.mem_cons_of_mem _ List.mem_cons_self)) ha,
      srcOk_plain (hplain (List.mem_cons_of_mem _ (List.mem_cons_of_mem _ List.mem_cons_self))) hb]) hty hin he rfl

end

/-- Settles O10: every row is `elem2_gives`. -/
theorem laneBinaryResults : Obligations.LaneBinaryResults := by
  unfold Obligations.LaneBinaryResults
  intro e he s d a b h hty hd ha hb n hn hin
  subst hn
  simp only [Claims.binaryRows, List.mem_cons, List.not_mem_nil, or_false] at he
  obtain rfl | rfl | rfl | rfl | rfl | rfl | rfl | rfl | rfl | rfl | rfl | rfl | rfl | rfl | rfl | rfl | rfl := he
  · exact elem2_gives h hty hd ha hb hin (show exec (.add d a b) s = execAdd d a b s from rfl)
  · exact elem2_gives h hty hd ha hb hin (show exec (.sub d a b) s = execSub d a b s from rfl)
  · exact elem2_gives h hty hd ha hb hin (show exec (.mul d a b) s = execMul d a b s from rfl)
  · exact elem2_gives h hty hd ha hb hin (show exec (.mulh d a b) s = execMulh d a b s from rfl)
  · exact elem2_gives h hty hd ha hb hin (show exec (.min d a b) s = execMin d a b s from rfl)
  · exact elem2_gives h hty hd ha hb hin (show exec (.max d a b) s = execMax d a b s from rfl)
  · exact elem2_gives h hty hd ha hb hin (show exec (.minp d a b) s = execMinp d a b s from rfl)
  · exact elem2_gives h hty hd ha hb hin (show exec (.maxp d a b) s = execMaxp d a b s from rfl)
  · exact elem2_gives h hty hd ha hb hin (show exec (.and d a b) s = execAnd d a b s from rfl)
  · exact elem2_gives h hty hd ha hb hin (show exec (.or d a b) s = execOr d a b s from rfl)
  · exact elem2_gives h hty hd ha hb hin (show exec (.xor d a b) s = execXor d a b s from rfl)
  · exact elem2_gives h hty hd ha hb hin (show exec (.shl d a b) s = execShl d a b s from rfl)
  · exact elem2_gives h hty hd ha hb hin (show exec (.shr d a b) s = execShr d a b s from rfl)
  · exact elem2_gives h hty hd ha hb hin (show exec (.rot d a b) s = execRot d a b s from rfl)
  · exact elem2_gives h hty hd ha hb hin (show exec (.div d a b) s = execDiv d a b s from rfl)
  · exact elem2_gives h hty hd ha hb hin (show exec (.rem d a b) s = execRem d a b s from rfl)
  · exact elem2_gives h hty hd ha hb hin (show exec (.scalb d a b) s = execScalb d a b s from rfl)

/-- Settles O11: every row is `elem1_gives`. -/
theorem laneUnaryResults : Obligations.LaneUnaryResults := by
  unfold Obligations.LaneUnaryResults
  intro e he s d a h hty hd ha n hn hin
  subst hn
  simp only [Claims.unaryRows, List.mem_cons, List.not_mem_nil, or_false] at he
  obtain rfl | rfl | rfl | rfl | rfl | rfl | rfl | rfl | rfl | rfl | rfl | rfl | rfl | rfl | rfl | rfl | rfl | rfl | rfl | rfl | rfl := he
  · exact elem1_gives h hty hd ha hin (show exec (.abs d a (.v 0)) s = execAbs d a (.v 0) s from rfl)
  · exact elem1_gives h hty hd ha hin (show exec (.neg d a (.v 0)) s = execNeg d a (.v 0) s from rfl)
  · exact elem1_gives h hty hd ha hin (show exec (.not d a (.v 0)) s = execNot d a (.v 0) s from rfl)
  · exact elem1_gives h hty hd ha hin (show exec (.clz d a (.v 0)) s = execClz d a (.v 0) s from rfl)
  · exact elem1_gives h hty hd ha hin (show exec (.popc d a (.v 0)) s = execPopc d a (.v 0) s from rfl)
  · exact elem1_gives h hty hd ha hin (show exec (.brev d a (.v 0)) s = execBrev d a (.v 0) s from rfl)
  · exact elem1_gives h hty hd ha hin (show exec (.sqrt d a (.v 0)) s = execSqrt d a (.v 0) s from rfl)
  · exact elem1_gives h hty hd ha hin (show exec (.rsq d a (.v 0)) s = execRsq d a (.v 0) s from rfl)
  · exact elem1_gives h hty hd ha hin (show exec (.rcp d a (.v 0)) s = execRcp d a (.v 0) s from rfl)
  · exact elem1_gives h hty hd ha hin (show exec (.exp2 d a (.v 0)) s = execExp2 d a (.v 0) s from rfl)
  · exact elem1_gives h hty hd ha hin (show exec (.log2 d a (.v 0)) s = execLog2 d a (.v 0) s from rfl)
  · exact elem1_gives h hty hd ha hin (show exec (.sin d a (.v 0)) s = execSin d a (.v 0) s from rfl)
  · exact elem1_gives h hty hd ha hin (show exec (.cos d a (.v 0)) s = execCos d a (.v 0) s from rfl)
  · exact elem1_gives h hty hd ha hin (show exec (.tanh d a (.v 0)) s = execTanh d a (.v 0) s from rfl)
  · exact elem1_gives h hty hd ha hin (show exec (.sigm d a (.v 0)) s = execSigm d a (.v 0) s from rfl)
  · exact elem1_gives h hty hd ha hin (show exec (.erf d a (.v 0)) s = execErf d a (.v 0) s from rfl)
  · exact elem1_gives h hty hd ha hin (show exec (.floor d a (.v 0)) s = execFloor d a (.v 0) s from rfl)
  · exact elem1_gives h hty hd ha hin (show exec (.ceil d a (.v 0)) s = execCeil d a (.v 0) s from rfl)
  · exact elem1_gives h hty hd ha hin (show exec (.trunc d a (.v 0)) s = execTrunc d a (.v 0) s from rfl)
  · exact elem1_gives h hty hd ha hin (show exec (.rint d a (.v 0)) s = execRint d a (.v 0) s from rfl)
  · exact elem1_gives h hty hd ha hin (show exec (.fclass d a (.v 0)) s = execFclass d a (.v 0) s from rfl)

/-- Settles O12: MAD and CLAMP are `elem3_gives`, and ADDI is the lane-wise form of no source. -/
theorem laneTernaryResults : Obligations.LaneTernaryResults := by
  unfold Obligations.LaneTernaryResults
  intro s d a b imm h hd ha hb n hn hin
  subst hn
  refine ⟨fun e he hty => ?rows, fun hty => ?addi⟩
  case rows =>
    simp only [Claims.ternaryRows, List.mem_cons, List.not_mem_nil, or_false] at he
    obtain rfl | rfl := he
    · exact elem3_gives h hty hd ha hb hin (show exec (.mad d a b) s = execMad d a b s from rfl)
    · exact elem3_gives h hty hd ha hb hin (show exec (.clamp d a b) s = execClamp d a b s from rfl)
  case addi =>
    exact laneOp_gives (f := addiForm s d imm) h
      (by simp [addiForm, fld, rdDstOk, hd]) hty (inRange_head hin) (show exec (.addi d imm) s = execAddi d imm s from rfl) rfl

/-! ### Moves and compares -/

/-- MOV, SEL, LI32, MOVI and a compare of the issuing team. -/
def movWordsForm (s : State) (d a : Opnd) : LaneForm :=
  { op := 0x34, word := wordF3 0x34 d a (.v 0), fields := [fld d (dstOk s s.me), fld a (srcOk s.me), fld (.v 0) okZero],
    tyOk := tyCheck s.me.mr (fun _ => true) rndNever, is64 := mr64 s.me.mr, dst := (d, mrWords s.me.mr), srcs := [(a, mrWords s.me.mr)],
    f := fun i => { val := i.a, z := i.z } }
def selForm (s : State) (d a b : Opnd) : LaneForm :=
  { op := 0x36, word := wordF3 0x36 d a b, fields := [fld d (dstOk s s.me), fld a (srcOk s.me), fld b (srcOk s.me)],
    tyOk := tyCheck s.me.mr (fun _ => true) rndNever, is64 := mr64 s.me.mr, dst := (d, mrWords s.me.mr),
    srcs := [(a, mrWords s.me.mr), (b, mrWords s.me.mr)], all := true, f := fun i => { val := if i.guard then i.a else i.b, z := i.z } }
def li32Form (s : State) (d : Opnd) (lit : W32) : LaneForm :=
  { op := 0x3E, word := wordF3 0x3E d .zr .zr, words := 2, fields := [fld d (dstOk s s.me), fld .zr okZr, fld .zr okZr],
    tyOk := tyCheck s.me.mr (fun _ => true) rndNever, is64 := mr64 s.me.mr, dst := (d, mrWords s.me.mr), srcs := [],
    f := fun i => { val := li32Value i.mr lit, z := i.z } }
def moviForm (s : State) (d : Opnd) (imm : BitVec 16) : LaneForm :=
  { op := 0x35, word := wordFI 0x35 d imm, fields := [fld d (dstOk s s.me)], tyOk := tyCheck s.me.mr tyNotX rndFlt,
    is64 := mr64 s.me.mr, dst := (d, mrWords s.me.mr), srcs := [], f := elemWise (moviElem imm s.me.mr) }
def compareForm (op : Nat) (f : Bool × Bool × Bool → Bool) (s : State) (d a b : Opnd) : LaneForm :=
  { op := op, word := wordF3 op d a b, fields := [fld d okP, fld a (srcOk s.me), fld b (srcOk s.me)],
    tyOk := tyCheck s.me.mr (fun ty => (tyInt ty && decide (4 ≤ ty)) || ty == 10 || ty == 11 || ty == 15) rndNever,
    is64 := mr64 s.me.mr, dst := (d, 1), srcs := [(a, mrWords s.me.mr), (b, mrWords s.me.mr)],
    f := fun i => { val := if f (cmpElem i.mr i.a i.b) then 1 else 0, z := i.z } }

/-- Settles O13: each move is the lane-wise form of its sources (`laneOp_gives`). -/
theorem laneMoves : Obligations.LaneMoves := by
  unfold Obligations.LaneMoves
  intro s d a b imm lit h hd ha hb hmr n hn hin
  subst hn
  have hplain {x : Opnd × Nat} := plain_of_inRange (x := x) hin
  have hd' : dstOk s s.me d = true := dstOk_plain (hplain List.mem_cons_self) hd
  have ha' : srcOk s.me a = true := srcOk_plain (hplain (List.mem_cons_of_mem _ List.mem_cons_self)) ha
  have hb' : srcOk s.me b = true := srcOk_plain (hplain (List.mem_cons_of_mem _ (List.mem_cons_of_mem _ List.mem_cons_self))) hb
  have hty : tyCheck s.me.mr (fun _ => true) rndNever = true := by simp [tyCheck, hmr, rndNever]
  refine ⟨?mov, ?sel, ?li32, fun hmovi => ?movi⟩
  case mov =>
    exact laneOp_gives (f := movWordsForm s d a) h (by simp [movWordsForm, fld, okZero, hd', ha']) hty (inRange_sublist (List.prefix_append [_, _] _).subset hin)
      (show exec (.mov d a (.v 0)) s = execMov d a (.v 0) s from rfl) rfl
  case sel =>
    exact laneOp_gives (f := selForm s d a b) h (by simp [selForm, fld, hd', ha', hb']) hty hin
      (show exec (.sel d a b) s = execSel d a b s from rfl) rfl
  case li32 =>
    exact laneOp_gives (f := li32Form s d lit) h (by simp [li32Form, fld, okZr, hd']) hty (inRange_head hin)
      (show exec (.li32 d .zr .zr lit) s = execLi32 d .zr .zr lit s from rfl) rfl
  case movi =>
    exact laneOp_gives (f := moviForm s d imm) h (by simp [moviForm, fld, hd']) hmovi (inRange_head hin)
      (show exec (.movi d imm) s = execMovi d imm s from rfl) rfl

/-- Settles O14: each compare is the lane-wise form whose result is one bit (`laneOp_gives`). -/
theorem laneCompares : Obligations.LaneCompares := by
  unfold Obligations.LaneCompares
  intro s d a b h hd ha hb hty n hn hin c hc e he
  subst hn
  have hplain {x : Opnd × Nat} := plain_of_inRange (x := x) hin
  have ha' : srcOk s.me a = true := srcOk_plain (hplain (List.mem_cons_of_mem _ List.mem_cons_self)) ha
  have hb' : srcOk s.me b = true := srcOk_plain (hplain (List.mem_cons_of_mem _ (List.mem_cons_of_mem _ List.mem_cons_self))) hb
  have row {i : Instr} {op : Nat} (f : Bool × Bool × Bool → Bool) (he : exec i s = compareOp op f d a b s) :
      GivesLanes i s 1 (d, 1) false (fun l => { val := if f (c l) then 1 else 0, z := zGet s.me.lfsr l }) := by
    obtain rfl : c = fun l => cmpElem s.me.mr (opVal s.me (mrWords s.me.mr) a l) (opVal s.me (mrWords s.me.mr) b l) := funext hc
    exact laneOp_gives (f := compareForm op f s d a b) h (by simp [compareForm, fld, hd, ha', hb']) hty hin he rfl
  simp only [List.mem_cons, List.not_mem_nil, or_false] at he
  obtain rfl | rfl | rfl | rfl | rfl := he
  · exact row (fun c => c.2.1) (show exec (.cmpEq d a b) s = execCmpEq d a b s from rfl)
  · exact row (fun c => !c.2.1) (show exec (.cmpNe d a b) s = execCmpNe d a b s from rfl)
  · exact row (fun c => c.1) (show exec (.cmpLt d a b) s = execCmpLt d a b s from rfl)
  · exact row (fun c => c.1 || c.2.1) (show exec (.cmpLe d a b) s = execCmpLe d a b s from rfl)
  · exact row (fun c => c.2.2) (show exec (.cmpUn d a b) s = execCmpUn d a b s from rfl)

end Sys2Proof.Machine
end

section
/-! SUPPORT. The refutation of O15: a queue with no binding is a destination that `okDst` lets through and CVT does not take. -/

namespace Sys2Proof.Machine

/-- A team under a 64-bit type, with a trap handler and no queue bound. -/
def wideTyped : State := (State.reset.withFetchWord 32 0).updTeam 0 (fun t => { t with mr := w64 (32 * 6), handler := w64 (2 ^ 34 + 4) })

/-- CVT from X0 into queue 0. -/
def cvtUnbound : Instr := .cvt (.q 0) (.x 0) (.v 0)

theorem ready_wideTyped : ready wideTyped = true := by decide +kernel
theorem mr64_wideTyped : mr64 wideTyped.me.mr = true := by decide +kernel

/-- The trap names the first bad field, which is the queue. -/
theorem traps_cvtUnbound : Traps cvtUnbound wideTyped 0x02 (Opnd.q 0).code (wordF3 0x50 (.q 0) (.x 0) (.v 0)).toNat := by
  refine (show exec cvtUnbound wideTyped = execCvt (.q 0) (.x 0) (.v 0) wideTyped from rfl).trans (runInstr_stop wideTyped _ _ ready_wideTyped ?_)
  have hbad : dstOk wideTyped wideTyped.me (.q 0) = false := by decide +kernel
  unfold laneOp
  simp [decodeChecks, fld, ready_pace ready_wideTyped, hbad, bind, Except.bind]

theorem info0_of_queue : (stopped wideTyped wideTyped.cur (trapAt 0x02 (Opnd.q 0).code (wordF3 0x50 (.q 0) (.x 0) (.v 0)).toNat)).me.trapInfo0 ≠
    (stopped wideTyped wideTyped.cur (trapAt 0x02 (Opnd.x 0).code (wordF3 0x50 (.q 0) (.x 0) (.v 0)).toNat)).me.trapInfo0 := by decide +kernel

/-- Refutes O15: its second clause has the X source reported whatever the destination is, and the destination field comes first. -/
theorem not_laneConversions : ¬ Obligations.LaneConversions := by
  unfold Obligations.LaneConversions
  intro hall
  have hx : Traps cvtUnbound wideTyped 0x02 (Opnd.x 0).code (wordF3 0x50 (.q 0) (.x 0) (.v 0)).toNat :=
    (hall wideTyped (.q 0) .zr (.v 0) ready_wideTyped).2.1 mr64_wideTyped rfl 0
  exact info0_of_queue (congrArg (fun t => t.me.trapInfo0) (Host.Outcome.next.inj (traps_cvtUnbound.symm.trans hx)))

end Sys2Proof.Machine
end

section
/-! SUPPORT. Lane operations whose sources are registers (17 R338): one of a ready team completes with what its function makes of the values of all
lanes (`wideOp_gives`, `wideOp_givesS`). With it O18 to O20. -/

namespace Sys2Proof.Machine

/-! ### The passes -/

theorem bumpLast_zero (ps : List Pass) : bumpLast ps 0 = ps := by
  induction ps with
  | nil => rfl
  | cons p r ih =>
    cases r with
    | nil => simp [bumpLast]
    | cons q r => rw [bumpLast, ih]; exact nofun

theorem le_foldl_at (ps : List Pass) : ∀ m : Nat, m ≤ ps.foldl (fun m p => max m p.at_) m := by
  induction ps with
  | nil => exact fun m => Nat.le_refl m
  | cons p r ih => exact fun m => Nat.le_trans (Nat.le_max_left _ _) (ih _)

/-- The last of scheduled passes is not before the cycle from which they may issue. -/
theorem le_lastPass_schedule (occ ready : Nat → Nat → Nat → Nat) (free : Nat) {ws : List (Nat × Nat)} (h : ws ≠ []) :
    free ≤ lastPass (schedule occ ready free ws) := by
  cases ws with
  | nil => exact absurd rfl h
  | cons w r =>
    obtain ⟨lo, n⟩ := w
    calc free ≤ passCycle (occ · lo n) (ready · lo n) free 64 free := passCycle_ge _ _ _ _ _
      _ ≤ max 0 (passCycle (occ · lo n) (ready · lo n) free 64 free) := Nat.le_max_right _ _
      _ ≤ lastPass (schedule occ ready free ((lo, n) :: r)) := le_foldl_at _ _

theorem passWords_ne_nil (t : Team) (is64 : Bool) : passWords t is64 ≠ [] := by
  unfold passWords
  generalize (List.range (t.lanes / 32)).filter (fun w => (t.mask >>> (32 * w)).extractLsb' 0 32 != 0) = ws
  cases ws with
  | nil => exact nofun
  | cons w r => cases is64 <;> exact nofun

/-- The passes of a lane operation of a ready team, the last not before its core's clock. -/
theorem passesOf_wide {s : State} (h : ready s = true) (op : Nat) (is64 : Bool) (vreads vxs : List Nat) (uses : List Use) :
    ∃ ps : List Pass, (s.core (s.crew s.me.crew).core).cycle ≤ lastPass ps ∧
      passesOf s s.cur op (passWords s.me is64) vreads vxs uses = .ok ps :=
  ⟨_, Nat.le_trans (firstCycle_ge s s.cur (portOf op)) (le_lastPass_schedule _ _ _ (passWords_ne_nil _ _)),
    passesOf_ok s s.cur op _ vreads vxs uses (ready_flight h) (ready_passes h) (ready_onePass h)⟩

/-! ### What a lane operation computes from -/

/-- The value of source i of an operation in lane l, and of its S operand i. -/
def WideForm.src (f : WideForm) (t : Team) (i l : Nat) : Nat :=
  match f.srcs[i]? with
  | some y => opVal t y.2 y.1 l
  | none => 0
def WideForm.sreg (f : WideForm) (t : Team) (i : Nat) : Nat :=
  match f.sregs[i]? with
  | some o => (sVal t o).toNat
  | none => 0

/-- What a lane operation of plain registers computes from. -/
def WideForm.input (f : WideForm) (t : Team) : WideIn := wideOf t (f.src t 0) (f.src t 1) (f.sreg t 0) (f.sreg t 1)

/-- What V[Xn] names in given lanes is within the declared count. -/
def VxWithin (t : Team) (ops : List (Opnd × Nat)) (lanes : List Nat) : Prop :=
  ∀ x ∈ ops, ∀ l ∈ lanes, ∀ k, x.1 = .vx k → vxIndex t 0 k.val l + x.2 ≤ t.nregs

theorem vxChecks_within {t : Team} {ops : List (Opnd × Nat)} {lanes : List Nat} (ht : t.pend = []) (h : VxWithin t ops lanes) (ps : List Pass) :
    vxChecks t ps ops lanes = .ok () := by
  unfold vxChecks
  dsimp only
  split
  · rfl
  · rw [List.findSome?_eq_none_iff.2 fun l hl => List.findSome?_eq_none_iff.2 fun k hk => ?_]
    obtain ⟨x, hx, hxk⟩ := List.mem_filterMap.1 hk
    split at hxk
    · next v hv =>
      have hle := h x hx l hl v hv
      rw [← Option.some.inj hxk, vxIndex_nil ht]
      exact if_neg (Nat.not_lt.2 hle)
    · exact nomatch hxk

/-- What the lanes that a lane operation reads beside those of C(l) may name (R340). -/
def WideForm.farWithin (f : WideForm) (t : Team) : Prop := VxWithin t (f.srcs.take 1) (f.far (f.input t))

/-- The writes with which a lane operation ends. -/
def wideWrites (t : Team) (f : WideForm) (o : WideOut) (due : Nat) : List PendWrite :=
  match f.dst.1 with
  | .s n => [{ reg := .s n.val, lane := 0, val := w64 o.sval, due := due, pc := t.pc }]
  | .zr => []
  | _ => laneWrites t f.dst.2 f.dst.1 o.vals due

/-- The machine after a lane operation of plain registers. -/
def wideEnd (f : WideForm) (s : State) (ps : List Pass) (o : WideOut) : State :=
  retire (s.settled.updTeam s.cur (fun t => Team.addFlags { t with lfsr := o.lf } o.flags)) s.cur f.op 1 ps true
    (wideWrites s.me f o (lastPass ps + latencyOf f.op))

theorem fromQueue_plain {srcs : List (Opnd × Nat)} (h : ∀ x ∈ srcs, plainOpnd x.1 = true) : fromQueue srcs = false := by
  rw [fromQueue, List.any_eq_false]
  intro x hx
  have := h x hx
  obtain ⟨o, n⟩ := x
  cases o with
  | q k => exact nomatch this
  | dq => exact nomatch this
  | _ => exact nofun

/-! ### The last part of a lane operation -/

/-- What a lane operation computes from the sources taken, its passes being ps. -/
def wideWord (f : WideForm) (t : Team) (k : Taken) (ps : List Pass) (i l : Nat) : Nat :=
  match k.srcs[i]?, f.srcs[i]? with
  | some x, some y => x.word t (passAt ps l) y.2 l
  | _, _ => 0
def wideReg (f : WideForm) (t : Team) (ps : List Pass) (i : Nat) : Nat :=
  match f.sregs[i]? with
  | some o => readOp t (lastPass ps) true o 0
  | none => 0
def wideInput (f : WideForm) (s : State) (k : Taken) (c ps : List Pass) : WideIn :=
  { mr := (k.s.team s.cur).mr, lanes := (k.s.team s.cur).lanes, cond := fun l => s.me.active l && s.me.guard (passAt c l) l,
    a := wideWord f (k.s.team s.cur) k ps 0, b := wideWord f (k.s.team s.cur) k ps 1, x := wideReg f (k.s.team s.cur) ps 0,
    y := wideReg f (k.s.team s.cur) ps 1, lf := k.lf }

/-- The writes of a lane operation, each read at its lane's pass, and the machine after its results have gone to its queue, if it feeds one. -/
def wideWritesAt (t : Team) (f : WideForm) (ps : List Pass) (o : WideOut) : List PendWrite :=
  let pw (w : Reg × Nat × W64) : PendWrite :=
    { reg := w.1, lane := w.2.1, val := w.2.2, due := lastPass ps + latencyOf f.op, pc := t.pc, il := fromQueue f.srcs }
  match f.dst.1 with
  | .s n => [pw (.s n.val, 0, w64 o.sval)]
  | .zr => []
  | _ => o.vals.flatMap (fun v => (grpWrites t f.dst.2 f.dst.1 (passAt ps v.1) v.1 v.2).map pw)
def widePushed (s : State) (t : Team) (f : WideForm) (o : WideOut) : State :=
  match f.dst.1 with
  | .q _ => pushEntries s t f.dst.1 (entriesOf o.vals f.dst.2)
  | _ => s

/-- What a lane operation of a team with nothing outstanding and no poison still checks once its sources are taken, and its end. -/
def wideLast (s : State) (f : WideForm) (k : Taken) (ps : List Pass) (o : WideOut) : State :=
  let dq := ((activeLanes s.me).filter (fun l => s.me.active l && s.me.guard (passAt ps l) l)).foldl (fun m l => m ||| k.flags l) 0
  retire (widePushed (takenDone k s.cur f.srcs (o.flags ||| dq) o.lf) (k.s.team s.cur) f o) s.cur f.op 1 ps true
    (wideWritesAt (k.s.team s.cur) f ps o)
def wideRest (s : State) (f : WideForm) (k : Taken) (ps : List Pass) : Except Stop State := do
  vxChecks s.me ps (f.dst :: f.srcs) (activeLanes s.me)
  vxChecks s.me ps (f.srcs.take 1) (f.far (wideInput f s k ps ps))
  pushRoom k.s (k.s.team s.cur) f.dst.1 f.dst.2
  .ok (wideLast s f k ps (f.f (wideInput f s k ps ps)))

theorem widePushed_plain (s : State) (t : Team) {f : WideForm} (o : WideOut) (h : plainOpnd f.dst.1 = true) : widePushed s t f o = s := by
  unfold widePushed
  split
  · next k hk => rw [hk] at h; exact nomatch h
  · rfl

theorem wideWritesAt_plain {t : Team} (ht : t.pend = []) {f : WideForm} (hsrcs : ∀ x ∈ f.srcs, plainOpnd x.1 = true) (ps : List Pass) (o : WideOut) :
    wideWritesAt t f ps o = wideWrites t f o (lastPass ps + latencyOf f.op) := by
  unfold wideWritesAt wideWrites laneWrites
  simp only [fromQueue_plain hsrcs, grpWrites_nil ht]

theorem wideLast_plain {s u : State} {f : WideForm} (ht : s.me.pend = []) (hu : u.team s.cur = s.me) (hsrcs : ∀ x ∈ f.srcs, plainOpnd x.1 = true)
    (hdst : plainOpnd f.dst.1 = true) (l : List Src) (ps : List Pass) (o : WideOut) : wideLast s f (takenOf u s.cur l) ps o =
      retire (u.updTeam s.cur (fun t => Team.addFlags { t with lfsr := o.lf } o.flags)) s.cur f.op 1 ps true
        (wideWrites s.me f o (lastPass ps + latencyOf f.op)) := by
  have hzero (ls : List Nat) : ls.foldl (fun m l' => m ||| (takenOf u s.cur l).flags l') 0 = 0 := by
    simp only [takenOf, Nat.or_zero, List.foldl_fixed]
  unfold wideLast
  simp only [hzero, Nat.or_zero, widePushed_plain _ _ _ hdst, show (takenOf u s.cur l).s.team s.cur = s.me from hu, wideWritesAt_plain ht hsrcs]
  congr 1
  unfold takenDone
  simp only [State.updTeam, popSrcs_plains _ hsrcs]
  rfl

theorem wideInput_plain {s : State} {f : WideForm} {k : Taken} (ht : s.me.pend = []) (hsregs : ∀ o ∈ f.sregs, okS o = true)
    (hk : k.srcs = f.srcs.map (fun x => .op x.1)) (hlf : k.lf = (k.s.team s.cur).lfsr) (hme : k.s.team s.cur = s.me) (ps : List Pass) :
    wideInput f s k ps ps = f.input s.me := by
  have hsreg (i : Nat) : wideReg f s.me ps i = f.sreg s.me i := by
    unfold WideForm.sreg wideReg
    cases ho : f.sregs[i]? with
    | none => rfl
    | some o => exact rdS _ _ _ ht (hsregs o (List.mem_of_getElem? ho))
  have hsrc (i : Nat) : wideWord f s.me k ps i = f.src s.me i := by
    funext l
    unfold WideForm.src wideWord
    rw [hk, List.getElem?_map]
    cases f.srcs[i]? with
    | none => rfl
    | some y => exact readGrp_nil ht _ _ _ _
  have hcond (l : Nat) : (s.me.active l && s.me.guard (passAt ps l) l) = takesPart s.me l := by rw [guard_nil ht, takesPart]
  simp only [wideInput, WideForm.input, wideOf, hme, hlf, hsreg, hsrc, hcond]

/-- At a ready team a lane operation of accepted fields and type, of registers within the declared count, completes. -/
theorem wideOp_ready {s : State} {f : WideForm} (h : ready s = true) (hf : f.fields.all (·.2) = true) (hty : f.tyOk = true)
    (hin : inRange s.me (f.dst :: f.srcs) = true) (hfar : f.farWithin s.me) (hsregs : ∀ o ∈ f.sregs, okS o = true) :
    ∃ ps : List Pass, (s.core (s.crew s.me.crew).core).cycle ≤ lastPass ps ∧
      wideOp s s.cur s.me f = .ok (wideEnd f s ps (f.f (f.input s.me))) := by
  have hplain : ∀ x ∈ f.srcs, plainOpnd x.1 = true := fun x hx => plain_of_inRange hin (List.mem_cons_of_mem _ hx)
  have hdst : plainOpnd f.dst.1 = true := plain_of_inRange hin List.mem_cons_self
  have ht := ready_pend h
  obtain ⟨ps, hcycle, hps⟩ := passesOf_wide h f.op (mr64 s.me.mr) (bankReads f.srcs) (vxOps (f.dst :: f.srcs))
    (guardUse s.me :: indexUses s.me (f.dst :: f.srcs) ++ (f.dst :: f.srcs ++ f.sregs.map (fun o => (o, 1))).map (grpUse s.me))
  refine ⟨ps, hcycle, ?_⟩
  have hs : settle s s.cur (firstPass ps) = s.settled := settle_settled ht _
  have hmax (l : List (Reg × Nat)) : l.foldl (fun m r => max m (s.me.ilDue r.1 r.2)) 0 = 0 := by
    simp only [ilDue_nil ht, Nat.max_zero, List.foldl_fixed]
  have hpoison (reads : List (Opnd × Nat)) (lanes : List Nat) : poisonLane s.me ps reads lanes = none := by simp [poisonLane, ready_vPoison h]
  have hany {α : Type} (l : List α) : l.any (fun _ => false) = false := by simp
  have hfind (l : List Nat) : l.find? (fun _ => false) = none := by simp
  have hinput := wideInput_plain (f := f) (k := takenOf s.settled s.cur (f.srcs.map (fun x => .op x.1))) ht hsregs rfl rfl (settled_team s) ps
  have hme : (takenOf s.settled s.cur (f.srcs.map (fun x => .op x.1))).s.team s.cur = s.me := settled_team s
  unfold wideOp
  simp only [decodeChecks_ok s.me f.word f.fields (ready_pace h) hf, rangeChecks_ok (withinRegs_of_inRange hin), hps, hty,
    dqTyOk_plain _ hplain, Bool.and_true, ok_bind, hs, takeSrcs_plain _ _ hplain, ready_flight h, List.any_nil, hmax, bumpLast_zero]
  simp only [hany, hpoison, Option.isSome_none, Bool.and_false, hfind, commit_nil _ _ ht, sPoisoned_nil _ _ (ready_sPoison h), ht, List.isEmpty_nil,
    Bool.not_true, Bool.false_eq_true, if_false]
  change wideRest s f (takenOf s.settled s.cur (f.srcs.map (fun x => .op x.1))) ps = _
  simp only [wideRest, hinput, vxChecks_ok ht (withinRegs_of_inRange hin), vxChecks_within ht hfar, hme, pushRoom_plain _ _ _ hdst, ok_bind]
  exact congrArg _ (wideLast_plain ht (settled_team s) hplain hdst _ ps _)

/-- A lane operation into lanes leaves their writes, ZR discarding them. -/
theorem wideWrites_lanes (t : Team) {f : WideForm} (hd : ∀ n, f.dst.1 ≠ .s n) (o : WideOut) (due : Nat) :
    wideWrites t f o due = laneWrites t f.dst.2 f.dst.1 o.vals due := by
  unfold wideWrites
  split
  · next n hn => exact absurd hn (hd n)
  · next hz =>
    rw [hz, laneWrites, eq_comm, List.flatMap_eq_nil_iff]
    exact fun _ _ => rfl
  · rfl

theorem wideEnd_me (f : WideForm) (s : State) (ps : List Pass) (o : WideOut) : ((wideEnd f s ps o).team s.cur).untimed =
    { s.me.stepped with pend := s.me.pend ++ wideWrites s.me f o (lastPass ps + latencyOf f.op),
                        fsr := s.me.fsr ||| w64 (o.flags % 32), lfsr := o.lf }.untimed := by
  rw [wideEnd, retire_me, updTeam_team, settled_team]
  rfl

section
variable {i : Instr} {s : State} {f : WideForm} {g : Nat → Team → Except Stop State}

/-- A lane operation of plain registers completes with what its function makes of them. -/
theorem wideOp_gives (h : ready s = true) (hf : f.fields.all (·.2) = true) (hty : f.tyOk = true) (hin : inRange s.me (f.dst :: f.srcs) = true)
    (hfar : f.farWithin s.me) (hsregs : ∀ o ∈ f.sregs, okS o = true) (hd : ∀ n, f.dst.1 ≠ .s n) (he : exec i s = runInstr s g)
    (hg : g s.cur s.me = wideOp s s.cur s.me f) : GivesWide i s f.dst.2 f.dst.1 (latencyOf f.op) (f.f (f.input s.me)) := by
  obtain ⟨ps, hc, hrun⟩ := wideOp_ready h hf hty hin hfar hsregs
  refine ⟨lastPass ps, hc, runsTo_of i s _ _ (he.trans (runInstr_ok s _ _ h (hg.trans hrun))) ?_ ?_ (retire_status _ _ _ _ _ _ _)⟩
  · exact ((onlyTeam_settled s).trans (onlyTeam_updTeam _ _ _)).trans (retire_onlyTeam _ _ _ _ _ _ _)
  · rw [wideEnd_me, ready_pend h, List.nil_append, wideWrites_lanes _ hd]

/-- Likewise one whose result is an S register, without flags and with the LFSRs as they were. -/
theorem wideOp_givesS (h : ready s = true) (hf : f.fields.all (·.2) = true) (hty : f.tyOk = true) (hin : inRange s.me (f.dst :: f.srcs) = true)
    (hfar : f.farWithin s.me) (hsregs : ∀ o ∈ f.sregs, okS o = true) (hd : okS f.dst.1 = true)
    (hquiet : (f.f (f.input s.me)).flags = 0 ∧ (f.f (f.input s.me)).lf = s.me.lfsr) (he : exec i s = runInstr s g)
    (hg : g s.cur s.me = wideOp s s.cur s.me f) : GivesS i s f.dst.1 (w64 (f.f (f.input s.me)).sval) (latencyOf f.op) := by
  obtain ⟨ps, hc, hrun⟩ := wideOp_ready h hf hty hin hfar hsregs
  refine ⟨lastPass ps, hc, runsTo_of i s _ _ (he.trans (runInstr_ok s _ _ h (hg.trans hrun))) ?_ ?_ (retire_status _ _ _ _ _ _ _)⟩
  · exact ((onlyTeam_settled s).trans (onlyTeam_updTeam _ _ _)).trans (retire_onlyTeam _ _ _ _ _ _ _)
  · obtain ⟨hflags, hlf⟩ := hquiet
    have hfsr : s.me.fsr ||| w64 (0 % 32) = s.me.fsr := BitVec.or_zero
    rw [wideEnd_me, ready_pend h, List.nil_append, hflags, hlf, hfsr]
    rcases okS_cases _ hd with ⟨n, hn⟩ | hz
    · simp only [wideWrites, hn, sWrite]; rfl
    · simp only [wideWrites, hz, sWrite]; rfl
end

/-! ### The shapes (R339 to R344) -/

theorem farWithin_none {f : WideForm} (h : f.far = fun _ => []) (t : Team) : f.farWithin t := by
  rw [WideForm.farWithin, h]
  exact fun _ _ _ hl => nomatch hl

/-- An operation of lanes into lanes, of a predicate or of groups of registers. -/
def lanesForm (op : Nat) (d a : Opnd × Nat) (b : Opnd) (fields : List (Nat × Bool)) (tyOk : Bool) (f : WideIn → WideOut) : WideForm :=
  { op := op, word := wordF3 op d.1 a.1 b, fields := fields, tyOk := tyOk, dst := d, srcs := [a], f := f }

theorem not_s_of_okDst {w : Bool} {d : Opnd} (h : okDst w d = true) (n : Fin 64) : d ≠ .s n := by
  rintro rfl
  exact nomatch h

section
variable {i : Instr} {s : State} {op : Nat} {d a : Opnd}

/-- One source into lanes (R339, R342 to R344). -/
theorem lanes_gives {n m : Nat} {b : Opnd} {fields : List (Nat × Bool)} {tyOk : Bool} {f : WideIn → WideOut} {g : Nat → Team → Except Stop State}
    (h : ready s = true) (hf : fields.all (·.2) = true)
    (hty : tyOk = true) (hin : inRange s.me [(d, n), (a, m)] = true) (hd : ∀ k, d ≠ .s k) (he : exec i s = runInstr s g)
    (hg : g s.cur s.me = wideOp s s.cur s.me (lanesForm op (d, n) (a, m) b fields tyOk f)) :
    GivesWide i s n d (latencyOf op) (f (wideOf s.me (opVal s.me m a) (fun _ => 0) 0 0)) :=
  wideOp_gives (f := lanesForm op (d, n) (a, m) b fields tyOk f) h hf hty hin (farWithin_none rfl _) (fun _ ho => nomatch ho) hd he hg
/-- One predicate into an S register (R339, R344). -/
theorem predToS_gives {p : Fin 16} {f : WideIn → Nat} (h : ready s = true) (hty : mrTyValid s.me.mr = true) (hd : okS d = true)
    (he : exec i s = predToS op f d (.p p) (.v 0) s) :
    GivesS i s d (w64 (f (wideOf s.me (opVal s.me 1 (.p p)) (fun _ => 0) 0 0))) (latencyOf op) := by
  have hin : inRange s.me [(d, 1), (.p p, 1)] = true := by
    rcases okS_cases _ hd with ⟨n, rfl⟩ | rfl
    · simp [inRange, plainOpnd, vRange]
    · simp [inRange, plainOpnd, vRange]
  exact wideOp_givesS (f := lanesForm op (d, 1) (.p p, 1) (.v 0) [fld d okS, fld (.p p) okP, fld (.v 0) okZero] (tyAny s.me)
    (fun i => { sval := f i, lf := i.lf })) h (by simp [lanesForm, fld, hd, okP, okZero]) hty hin (farWithin_none rfl _) (fun _ ho => nomatch ho) hd
    ⟨rfl, rfl⟩ he rfl

/-- One predicate into Vd (R339, R344). -/
theorem predToV_gives {p : Fin 16} {f : WideIn → Nat → Nat} (h : ready s = true) (hty : mrTyValid s.me.mr = true)
    (hd : okDst (mr64 s.me.mr) d = true) (hin : inRange s.me [(d, mrWords s.me.mr)] = true) (he : exec i s = predToV op f d (.p p) (.v 0) s) :
    GivesParts i s (mrWords s.me.mr) d (latencyOf op) (f (wideOf s.me (opVal s.me 1 (.p p)) (fun _ => 0) 0 0)) := by
  have hin' : inRange s.me [(d, mrWords s.me.mr), (.p p, 1)] = true := by
    simp only [inRange, List.all_cons, List.all_nil, Bool.and_true] at hin ⊢
    simpa [plainOpnd, vRange] using hin
  exact lanes_gives (f := fun i => { vals := i.part.map (fun l => (l, f i l)), lf := i.lf })
    (fields := [fld d (dstOk s s.me), fld (.p p) okP, fld (.v 0) okZero]) h
    (by simp [fld, dstOk_plain (plain_of_inRange hin (List.mem_singleton_self _)) hd, okP, okZero]) hty hin' (not_s_of_okDst hd) he rfl

end

theorem opVal_pred (t : Team) (p : Fin 16) (l : Nat) : opVal t 1 (.p p) l = if opVal t 1 (.p p) l == 1 then 1 else 0 := by
  have hlt : opVal t 1 (.p p) l < 2 := Nat.mod_lt _ (by decide)
  split
  · next h1 => exact beq_iff_eq.1 h1
  · next h0 => simp only [beq_iff_eq] at h0; omega

theorem inRange_pred {t : Team} {p : Fin 16} {ops : List (Opnd × Nat)} (h : inRange t ops = true) : inRange t ((.p p, 1) :: ops) = true := by
  simp only [inRange, List.all_cons, Bool.and_eq_true] at h ⊢
  simpa [plainOpnd, vRange] using h

/-- A combination of two predicates (R344). -/
def predsForm (op : Nat) (d a b : Fin 16) (tyOk : Bool) (f : Nat → Nat → Nat) : WideForm :=
  { op := op, word := wordF3 op (.p d) (.p a) (.p b), fields := [fld (.p d) okP, fld (.p a) okP, fld (.p b) okP], tyOk := tyOk, dst := (.p d, 1),
    srcs := [(.p a, 1), (.p b, 1)], f := fun i => { vals := i.part.map (fun l => (l, f (i.a l) (i.b l))), lf := i.lf } }

theorem preds_gives {i : Instr} {s : State} {op : Nat} {d a b : Fin 16} {f : Nat → Nat → Nat} (h : ready s = true)
    (hty : mrTyValid s.me.mr = true) (he : exec i s = predForm op f (.p d) (.p a) (.p b) true s) :
    GivesParts i s 1 (.p d) (latencyOf op) (fun l => f (opVal s.me 1 (.p a) l) (opVal s.me 1 (.p b) l)) :=
  wideOp_gives (f := predsForm op d a b (tyAny s.me) f) h (by simp [predsForm, fld, okP]) hty
    (inRange_pred (inRange_pred (inRange_pred (by simp [inRange])))) (farWithin_none rfl _) (fun _ ho => nomatch ho) nofun he rfl

/-- A function of one predicate (R344). -/
theorem pred_gives {i : Instr} {s : State} {op : Nat} {d a : Fin 16} {f : Nat → Nat → Nat} (h : ready s = true) (hty : mrTyValid s.me.mr = true)
    (he : exec i s = predForm op f (.p d) (.p a) (.v 0) false s) : GivesParts i s 1 (.p d) (latencyOf op) (fun l => f (opVal s.me 1 (.p a) l) 0) :=
  lanes_gives (fields := [fld (.p d) okP, fld (.p a) okP, fld (.v 0) okZero])
    (f := fun i => { vals := i.part.map (fun l => (l, f (i.a l) (i.b l))), lf := i.lf }) h (by simp [fld, okP, okZero]) hty
    (inRange_pred (inRange_pred (by simp [inRange]))) nofun he rfl

theorem w64_bit (b : Bool) : w64 (if b then 1 else 0) = if b then 1 else 0 := by cases b <;> rfl

/-- Settles O18: each is a lane operation of one predicate or register, or of two predicates. -/
theorem votesAndPredicates : Obligations.VotesAndPredicates := by
  unfold Obligations.VotesAndPredicates
  refine ⟨fun s d a p q sd n h hty hd ha hsd hn hin vote hvote => ?_, fun s d a b h hty x y hx hy => ?_⟩
  · subst hn
    obtain rfl := funext hvote
    have hd1 := inRange_head hin
    have hplain : plainOpnd a = true := plain_of_inRange hin (List.mem_cons_of_mem _ (List.mem_singleton_self _))
    have ballot := predToV_gives h hty hd hd1 (show exec (.ballot d (.p p) (.v 0)) s = execBallot d (.p p) (.v 0) s from rfl)
    have prank := predToV_gives h hty hd hd1 (show exec (.prank d (.p p) (.v 0)) s = execPrank d (.p p) (.v 0) s from rfl)
    have pval := predToV_gives h hty hd hd1 (show exec (.pval d (.p p) (.v 0)) s = execPval d (.p p) (.v 0) s from rfl)
    have pcnt := predToS_gives h hty hsd (show exec (.pcnt sd (.p p) (.v 0)) s = execPcnt sd (.p p) (.v 0) s from rfl)
    have any := predToS_gives h hty hsd (show exec (.any sd (.p p) (.v 0)) s = execAny sd (.p p) (.v 0) s from rfl)
    have all := predToS_gives h hty hsd (show exec (.all sd (.p p) (.v 0)) s = execAll sd (.p p) (.v 0) s from rfl)
    rw [w64_bit] at any all
    refine ⟨ballot, prank, ?pval, ?pnz, pcnt, any, all⟩
    case pval =>
      rw [← funext (opVal_pred s.me p)]
      exact pval
    case pnz =>
      exact lanes_gives (op := 0x75) (fields := [fld (.p q) okP, fld a (srcOk s.me), fld (.v 0) okZero])
        (f := fun i => { vals := i.part.map (fun l => (l, if i.a l = 0 then 0 else 1)), lf := i.lf }) h
        (by simp [fld, okP, okZero, srcOk_plain hplain ha]) hty (inRange_pred (inRange_sublist (List.suffix_cons _ _).subset hin)) nofun
        (show exec (.pnz (.p q) a (.v 0)) s = execPnz (.p q) a (.v 0) s from rfl) rfl
  · obtain rfl := funext hx
    obtain rfl := funext hy
    have pand := preds_gives h hty (show exec (.pand (.p d) (.p a) (.p b)) s = execPand (.p d) (.p a) (.p b) s from rfl)
    have por := preds_gives h hty (show exec (.por (.p d) (.p a) (.p b)) s = execPor (.p d) (.p a) (.p b) s from rfl)
    have pxor := preds_gives h hty (show exec (.pxor (.p d) (.p a) (.p b)) s = execPxor (.p d) (.p a) (.p b) s from rfl)
    have pnot := pred_gives h hty (show exec (.pnot (.p d) (.p a) (.v 0)) s = execPnot (.p d) (.p a) (.v 0) s from rfl)
    exact ⟨pand, por, pxor, pnot⟩

/-! ### Values exchanged between lanes -/

theorem inRange_of_all {t : Team} {ops : List (Opnd × Nat)} (h : inRangeAll t ops = true) : inRange t ops = true := by
  rw [inRangeAll, Bool.and_eq_true] at h
  exact h.1

/-- V[Xn] is within the declared count in every lane of the team. -/
theorem vxWithin_of_all {t : Team} {ops ops' : List (Opnd × Nat)} {lanes : List Nat} (h : inRangeAll t ops = true) (hops : ∀ x ∈ ops', x ∈ ops)
    (hl : ∀ l ∈ lanes, l < t.lanes) : VxWithin t ops' lanes := by
  intro x hx l hlane k hk
  simp only [inRangeAll, Bool.and_eq_true, List.all_eq_true, List.mem_range] at h
  have := h.2 l (hl l hlane) x (hops x hx)
  simpa [hk] using this

theorem laneIn_lt {n : Nat} {j : Int} {k : Nat} (h : laneIn n j = some k) : k < n := by
  unfold laneIn at h
  split at h
  · next hj => have := Option.some.inj h; omega
  · exact nomatch h

/-- The value that the lane named gives, 0 where the team has none. -/
def takenFrom (n : Nat) (a : Nat → Nat) (j : Int) : Nat := if 0 ≤ j ∧ j < n then a j.toNat else 0

theorem shuffleOut_eq (j : WideIn → Nat → Int) (i : WideIn) :
    shuffleOut j i = { vals := i.part.map (fun l => (l, takenFrom i.lanes i.a (j i l))), lf := i.lf } := by
  have hval (x : Int) : (match laneIn i.lanes x with | some k => i.a k | none => 0) = takenFrom i.lanes i.a x := by
    unfold laneIn takenFrom
    by_cases hx : 0 ≤ x ∧ x < i.lanes
    · rw [if_pos hx, if_pos hx]
    · rw [if_neg hx, if_neg hx]
  unfold shuffleOut
  simp only [← hval] <;> rfl

/-- A shuffle by the values of Vb, and by Sb. -/
def shuffleVForm (op : Nat) (j : WideIn → Nat → Int) (s : State) (d a b : Opnd) : WideForm :=
  { op := op, word := wordF3 op d a b, fields := [fld d (dstOk s s.me), fld a (srcOk s.me), fld b (srcOk s.me)], tyOk := tyAny s.me,
    dst := (d, mrWords s.me.mr), srcs := [(a, mrWords s.me.mr), (b, mrWords s.me.mr)], near := false,
    far := fun i => i.part.filterMap (fun l => laneIn i.lanes (j i l)), f := shuffleOut j }
def shuffleSForm (op : Nat) (j : WideIn → Nat → Int) (s : State) (d a b : Opnd) : WideForm :=
  { op := op, word := wordF3 op d a b, fields := [fld d (dstOk s s.me), fld a (srcOk s.me), fld b okS], tyOk := tyAny s.me,
    dst := (d, mrWords s.me.mr), srcs := [(a, mrWords s.me.mr)], sregs := [b], near := false,
    far := fun i => i.part.filterMap (fun l => laneIn i.lanes (j i l)), f := shuffleOut j }

section
variable {i : Instr} {s : State} {op : Nat} {j : WideIn → Nat → Int} {d a b : Opnd}

theorem shuffleV_gives (h : ready s = true) (hty : mrTyValid s.me.mr = true) (hd : okDst (mr64 s.me.mr) d = true)
    (ha : okSrc (mr64 s.me.mr) a = true) (hb : okSrc (mr64 s.me.mr) b = true)
    (hin : inRangeAll s.me [(d, mrWords s.me.mr), (a, mrWords s.me.mr), (b, mrWords s.me.mr)] = true)
    (he : exec i s = shuffleForm op false j d a b s) : GivesParts i s (mrWords s.me.mr) d (latencyOf op)
      (fun l => takenFrom s.me.lanes (opVal s.me (mrWords s.me.mr) a)
        (j (wideOf s.me (opVal s.me (mrWords s.me.mr) a) (opVal s.me (mrWords s.me.mr) b) 0 0) l)) := by
  have hplain {x : Opnd × Nat} := plain_of_inRange (x := x) (inRange_of_all hin)
  have hgives := wideOp_gives (f := shuffleVForm op j s d a b) h
    (by simp [shuffleVForm, fld, dstOk_plain (hplain List.mem_cons_self) hd, srcOk_plain (hplain (List.mem_cons_of_mem _ List.mem_cons_self)) ha,
      srcOk_plain (hplain (List.mem_cons_of_mem _ (List.mem_cons_of_mem _ List.mem_cons_self))) hb]) hty (inRange_of_all hin)
    (vxWithin_of_all hin (by simp [shuffleVForm]) (fun l hl => ?_)) (fun _ ho => nomatch ho) (not_s_of_okDst hd) he rfl
  · rw [show (shuffleVForm op j s d a b).f = shuffleOut j from rfl, shuffleOut_eq] at hgives
    exact hgives
  · obtain ⟨k, -, hk⟩ := List.mem_filterMap.1 hl
    exact laneIn_lt hk

theorem shuffleS_gives (h : ready s = true) (hty : mrTyValid s.me.mr = true) (hd : okDst (mr64 s.me.mr) d = true)
    (ha : okSrc (mr64 s.me.mr) a = true) (hb : okS b = true) (hin : inRangeAll s.me [(d, mrWords s.me.mr), (a, mrWords s.me.mr)] = true)
    (he : exec i s = shuffleForm op true j d a b s) : GivesParts i s (mrWords s.me.mr) d (latencyOf op)
      (fun l => takenFrom s.me.lanes (opVal s.me (mrWords s.me.mr) a)
        (j (wideOf s.me (opVal s.me (mrWords s.me.mr) a) (fun _ => 0) (sVal s.me b).toNat 0) l)) := by
  have hplain {x : Opnd × Nat} := plain_of_inRange (x := x) (inRange_of_all hin)
  have hgives := wideOp_gives (f := shuffleSForm op j s d a b) h
    (by simp [shuffleSForm, fld, dstOk_plain (hplain List.mem_cons_self) hd, srcOk_plain (hplain (List.mem_cons_of_mem _ List.mem_cons_self)) ha, hb])
    hty (inRange_of_all hin)
    (vxWithin_of_all hin (by simp [shuffleSForm]) (fun l hl => ?_)) (fun o ho => by rw [List.mem_singleton.1 ho]; exact hb) (not_s_of_okDst hd) he rfl
  · rw [show (shuffleSForm op j s d a b).f = shuffleOut j from rfl, shuffleOut_eq] at hgives
    exact hgives
  · obtain ⟨k, -, hk⟩ := List.mem_filterMap.1 hl
    exact laneIn_lt hk

/-- MATCH (R342). -/
theorem match_gives {f : List Nat → Nat → Nat} (h : ready s = true) (hty : mrTyValid s.me.mr = true) (hd : okDst (mr64 s.me.mr) d = true)
    (ha : okSrc (mr64 s.me.mr) a = true) (hin : inRange s.me [(d, mrWords s.me.mr), (a, mrWords s.me.mr)] = true)
    (he : exec i s = matchForm op f d a (.v 0) s) : GivesParts i s (mrWords s.me.mr) d (latencyOf op) (fun l =>
      f ((parts s.me).filter (fun j => opVal s.me (mrWords s.me.mr) a j == opVal s.me (mrWords s.me.mr) a l)) l) := by
  have hplain {x : Opnd × Nat} := plain_of_inRange (x := x) hin
  exact lanes_gives (fields := [fld d (dstOk s s.me), fld a (srcOk s.me), fld (.v 0) okZero])
    (f := fun i => { vals := i.part.map (fun l => (l, f (i.part.filter (fun j => i.a j == i.a l)) l)), lf := i.lf }) h
    (by simp [fld, okZero, dstOk_plain (hplain List.mem_cons_self) hd, srcOk_plain (hplain (List.mem_cons_of_mem _ List.mem_cons_self)) ha])
    hty hin (not_s_of_okDst hd) he rfl
end

/-- RDLANE and WRLANE. -/
def rdlaneForm (s : State) (d a b : Opnd) : WideForm :=
  { op := 0x67, word := wordF3 0x67 d a b, fields := [fld d okS, fld a (srcOk s.me), fld b okS], tyOk := tyAny s.me,
    dst := (d, 1), srcs := [(a, mrWords s.me.mr)], sregs := [b], near := false,
    far := fun i => if i.x < i.lanes then [i.x] else [],
    f := fun i => { sval := if i.x < i.lanes then i.a i.x else 0, lf := i.lf } }
def wrlaneForm (s : State) (d a b : Opnd) : WideForm :=
  { op := 0x68, word := wordF3 0x68 d a b, fields := [fld d (dstOk s s.me), fld a okS, fld b okS], tyOk := tyAny s.me,
    dst := (d, mrWords s.me.mr), srcs := [], sregs := [a, b],
    f := fun i => { vals := if i.y < i.lanes ∧ i.cond i.y then [(i.y, i.x % 2 ^ (32 * mrWords i.mr))] else [], lf := i.lf } }

theorem inRange_s {t : Team} {d : Opnd} {ops : List (Opnd × Nat)} (hd : okS d = true) (h : inRange t ops = true) : inRange t ((d, 1) :: ops) = true := by
  simp only [inRange, List.all_cons, Bool.and_eq_true] at h ⊢
  rcases okS_cases _ hd with ⟨n, rfl⟩ | rfl
  · simpa [plainOpnd, vRange] using h
  · simpa [plainOpnd, vRange] using h

theorem rdlane_gives {s : State} {d a b : Opnd} (h : ready s = true) (hty : mrTyValid s.me.mr = true) (hd : okS d = true)
    (ha : okSrc (mr64 s.me.mr) a = true) (hb : okS b = true) (hin : inRangeAll s.me [(a, mrWords s.me.mr)] = true) :
    GivesS (.rdlane d a b) s d (w64 (takenFrom s.me.lanes (opVal s.me (mrWords s.me.mr) a) ((sVal s.me b).toNat : Int))) 6 := by
  have hplain : plainOpnd a = true := plain_of_inRange (inRange_of_all hin) (List.mem_singleton_self _)
  have hval : (rdlaneForm s d a b).f ((rdlaneForm s d a b).input s.me) =
      { sval := takenFrom s.me.lanes (opVal s.me (mrWords s.me.mr) a) ((sVal s.me b).toNat : Int), lf := s.me.lfsr } := by
    have hif : takenFrom s.me.lanes (opVal s.me (mrWords s.me.mr) a) ((sVal s.me b).toNat : Int) =
        if (sVal s.me b).toNat < s.me.lanes then opVal s.me (mrWords s.me.mr) a (sVal s.me b).toNat else 0 := by
      simp [takenFrom]
    rw [hif]
    rfl
  have hfar : (rdlaneForm s d a b).farWithin s.me := vxWithin_of_all hin (by simp [rdlaneForm]) (fun l hl => by
    simp only [rdlaneForm, List.mem_ite_nil_right, List.mem_singleton] at hl
    exact hl.2 ▸ hl.1)
  have hgives := wideOp_givesS (f := rdlaneForm s d a b) h (by simp [rdlaneForm, fld, hd, hb, srcOk_plain hplain ha]) hty
    (inRange_s hd (inRange_of_all hin)) hfar (fun o ho => by rw [List.mem_singleton.1 ho]; exact hb) hd (by rw [hval]; exact ⟨rfl, rfl⟩)
    (show exec (.rdlane d a b) s = execRdlane d a b s from rfl) rfl
  rw [hval] at hgives
  exact hgives

theorem wrlane_gives {s : State} {d a b : Opnd} (h : ready s = true) (hty : mrTyValid s.me.mr = true) (hd : okDst (mr64 s.me.mr) d = true)
    (ha : okS a = true) (hb : okS b = true) (hin : inRange s.me [(d, mrWords s.me.mr)] = true) :
    GivesWide (.wrlane d a b) s (mrWords s.me.mr) d 6
      { vals := if (sVal s.me b).toNat < s.me.lanes ∧ takesPart s.me (sVal s.me b).toNat = true then
          [((sVal s.me b).toNat, (sVal s.me a).toNat % 2 ^ (32 * mrWords s.me.mr))] else [], lf := s.me.lfsr } :=
  wideOp_gives (f := wrlaneForm s d a b) h
    (by simp [wrlaneForm, fld, ha, hb, dstOk_plain (plain_of_inRange hin (List.mem_singleton_self _)) hd]) hty hin (farWithin_none rfl _)
    (fun o ho => by simp only [wrlaneForm, List.mem_cons, List.not_mem_nil, or_false] at ho; rcases ho with rfl | rfl <;> assumption)
    (not_s_of_okDst hd) (show exec (.wrlane d a b) s = execWrlane d a b s from rfl) rfl

theorem inRangeAll_sublist {t : Team} {ops ops' : List (Opnd × Nat)} (hsub : ops' ⊆ ops) (h : inRangeAll t ops = true) : inRangeAll t ops' = true := by
  simp only [inRangeAll, Bool.and_eq_true, List.all_eq_true] at h ⊢
  exact ⟨inRange_sublist hsub h.1, fun l hl x hx => h.2 l hl x (hsub hx)⟩

/-- Settles O19: the shuffles, RDLANE and MATCH take what the lane named holds (`takenFrom`), and WRLANE writes one lane. -/
theorem laneExchanges : Obligations.LaneExchanges := by
  unfold Obligations.LaneExchanges
  intro s d a b sa sb sd n h hty hd ha hb hsa hsb hsd hn hin x hx from_ hfrom
  subst hn
  subst hx
  obtain rfl : from_ = takenFrom s.me.lanes (opVal s.me (mrWords s.me.mr) a) := funext hfrom
  have hda : inRangeAll s.me [(d, mrWords s.me.mr), (a, mrWords s.me.mr)] = true := inRangeAll_sublist (List.prefix_append [_, _] _).subset hin
  have shfl := shuffleV_gives h hty hd ha hb hin (show exec (.shfl d a b) s = execShfl d a b s from rfl)
  have shflX := shuffleS_gives h hty hd ha hsb hda (show exec (.shflX d a sb) s = execShflX d a sb s from rfl)
  have shflUp := shuffleS_gives h hty hd ha hsb hda (show exec (.shflUp d a sb) s = execShflUp d a sb s from rfl)
  have shflDn := shuffleS_gives h hty hd ha hsb hda (show exec (.shflDn d a sb) s = execShflDn d a sb s from rfl)
  have matchN := match_gives h hty hd ha (inRange_of_all hda) (show exec (.matchN d a (.v 0)) s = execMatchN d a (.v 0) s from rfl)
  have matchB := match_gives h hty hd ha (inRange_of_all hda) (show exec (.matchB d a (.v 0)) s = execMatchB d a (.v 0) s from rfl)
  simp only [List.filter_filter] at matchN
  simp only [List.headD_eq_head?_getD, List.head?_filter] at matchB
  exact ⟨shfl, shflX, shflUp, shflDn, rdlane_gives h hty hsd ha hsb (inRangeAll_sublist (List.suffix_cons _ _).subset hda),
    wrlane_gives h hty hd hsa hsb (inRange_head (inRange_of_all hda)), matchN, matchB⟩

/-! ### Reductions and the scan -/

theorem tree_gives {i : Instr} {s : State} {op : Nat} {tys rnds : Nat → Bool} {f : WideIn → WideOut} {d a : Opnd} (h : ready s = true)
    (hty : tyCheck s.me.mr tys rnds = true) (hd : okDst (mr64 s.me.mr) d = true) (ha : okSrc (mr64 s.me.mr) a = true)
    (hin : inRange s.me [(d, mrWords s.me.mr), (a, mrWords s.me.mr)] = true) (he : exec i s = treeForm op tys rnds f d a (.v 0) s) :
    GivesWide i s (mrWords s.me.mr) d (latencyOf op) (f (wideOf s.me (opVal s.me (mrWords s.me.mr) a) (fun _ => 0) 0 0)) := by
  have hplain {x : Opnd × Nat} := plain_of_inRange (x := x) hin
  exact lanes_gives (fields := [fld d (dstOk s s.me), fld a (srcOk s.me), fld (.v 0) okZero]) h
    (by simp [fld, okZero, dstOk_plain (hplain List.mem_cons_self) hd, srcOk_plain (hplain (List.mem_cons_of_mem _ List.mem_cons_self)) ha])
    hty hin (not_s_of_okDst hd) he rfl

/-- Settles O20: each is the tree of its operator (`tree_gives`). -/
theorem laneReductions : Obligations.LaneReductions := by
  unfold Obligations.LaneReductions
  intro s d a n h hd ha hn hin i hi
  subst hn
  subst hi
  have row {i : Instr} {op : Nat} {tys rnds : Nat → Bool} {f : WideIn → WideOut} (he : exec i s = treeForm op tys rnds f d a (.v 0) s)
      (hty : tyCheck s.me.mr tys rnds = true) := tree_gives h hty hd ha hin he
  have tredAdd := row (show exec (.tredAdd d a (.v 0)) s = execTredAdd d a (.v 0) s from rfl)
  have tscanAdd := row (show exec (.tscanAdd d a (.v 0)) s = execTscanAdd d a (.v 0) s from rfl)
  have tredMin := row (show exec (.tredMin d a (.v 0)) s = execTredMin d a (.v 0) s from rfl)
  have tredMax := row (show exec (.tredMax d a (.v 0)) s = execTredMax d a (.v 0) s from rfl)
  have tredAnd := row (show exec (.tredAnd d a (.v 0)) s = execTredAnd d a (.v 0) s from rfl)
  have tredOr := row (show exec (.tredOr d a (.v 0)) s = execTredOr d a (.v 0) s from rfl)
  exact ⟨fun hty => ⟨tredAdd hty, tscanAdd hty⟩, fun hty => ⟨tredMin hty, tredMax hty⟩, fun hty => ⟨tredAnd hty, tredOr hty⟩⟩

end Sys2Proof.Machine
end

section
/-! SUPPORT. The refutation of O22: the statement's premises let a team declare more than 128 registers, and then a group of registers that begins at
V127 goes on at V128 in the model, and at V0 in the statement, which names registers modulo 128. -/

namespace Sys2Proof.Machine

/-- A team of 131 registers, lane 0 alone active, under binary8 with a group scale; V128 holds a tenth, every other register 0. -/
def quantising : State := (State.reset.withFetchWord 32 0).updTeam 0
  (fun t => { t with mr := w64 (0x038D * 32), nregs := 131, mask := 1, v := [(128 * 1024, 0x3DCCCCCD)] })

/-- QNT of V127 to V130. -/
def quantise : Instr := .qnt (.v 0) (.v 127) (.s 6)

theorem ready_quantising : ready quantising = true := by decide +kernel
theorem ty_quantising : tyCheck quantising.me.mr (· == 13) (fun _ => true) = true := by decide +kernel

/-- The leaders of its groups. -/
def quantisingLeaders : List Nat := (parts quantising.me).filter (fun l => l % 8 == 0)

/-- What the statement has QNT make of the group, of V127, V0, V1 and V2. -/
def quantisedModulo : List (Nat × QntOut) × Cells W32 :=
  Claims.groups (fun l lf =>
    let o := qntGroup quantising.me.mr (sVal quantising.me (.s 6)).toNat l
      ((List.range 32).map (fun e => opVal quantising.me 1 (.v (Fin.ofNat 128 ((127 : Fin 128).val + e % 4))) (l + e / 4))) lf
    (o, o.lf)) quantisingLeaders quantising.me.lfsr

/-- FSR after an instruction. -/
def fsrAfter (i : Instr) (s : State) : W64 :=
  match exec i s with
  | .next t => t.me.fsr
  | _ => 0

theorem fsr_of_runsTo {i : Instr} {s : State} {u : Team} (h : RunsTo i s u) : fsrAfter i s = u.fsr := by
  obtain ⟨t, hexec, hme, -, -⟩ := h
  rw [fsrAfter, hexec]
  have hfsr : t.me.untimed.fsr = u.untimed.fsr := congrArg Team.fsr hme
  exact hfsr

theorem fsr_quantise : fsrAfter quantise quantising ≠ quantising.me.fsr ||| w64 (orFlags (quantisedModulo.1.map (·.2.flags)) % 32) := by decide +kernel

/-- Refutes O22: a tenth is inexact in binary8, so the model's QNT raises NX, and the statement's group, in which every element is 0, raises
nothing. -/
theorem not_groupQuantisation : ¬ Obligations.GroupQuantisation := by
  unfold Obligations.GroupQuantisation
  intro hall
  obtain ⟨W, hruns, -⟩ := (hall quantising 0 127 (.s 6) ready_quantising rfl _ rfl).1 ty_quantising (by decide +kernel) (by decide +kernel)
    quantisedModulo rfl
  exact fsr_quantise (fsr_of_runsTo hruns)

end Sys2Proof.Machine
end

section
/-! SUPPORT. The refutation of O29: bytes that begin in host memory, while no link is up, and end above it. -/

namespace Sys2Proof.Machine

/-- No link is up; the first word above host memory is poisoned. Crew 1 is on core 1, crew 0 on core 0, which sees word 0 in an older form. -/
def linksDown : State := { State.reset with
  links := [(0, false), (1, false)], poison := [3 * 2 ^ 51], crews := [(1, { core := 1 })],
  stale := [{ core := 0, word := 0, bytes := [], bad := false, since := 0 }] }

/-- The last four bytes of host memory, and four more. -/
def pastHost : Place := .phys (3 * 2 ^ 54 - 4)

/-- After crew 0's release and crew 1's acquire, each at SYS scope. -/
def handedOver : State := acquireAt (releaseAt linksDown 0 4) 1 4

theorem view_pastHost : (viewPlace handedOver 1 pastHost 8).2 ≠ (readPlace linksDown pastHost 8).2 := by decide +kernel

/-- Refutes O29, in its second clause: reading eight bytes at once, the model asks the first of them whether memory can be reached, and finds no
poison; reading the words in the form in which a core sees them, it asks each word, and finds the poison of the second. -/
theorem not_fencesOrderAccesses : ¬ Obligations.FencesOrderAccesses := by
  unfold Obligations.FencesOrderAccesses
  intro hall
  exact view_pastHost (congrArg Prod.snd (hall.2.1 linksDown handedOver 0 1 4 4 pastHost 8 (by decide +kernel) (by decide +kernel) (by decide +kernel)
    (by decide +kernel) (by decide +kernel) (by decide +kernel) rfl))

end Sys2Proof.Machine
end

section
/-! SUPPORT. The refutation of O33: as in O22, the statement's premises let TMOV's registers go past V127, and the statement names them modulo 128. -/

namespace Sys2Proof.Machine

/-- A team of 129 registers of 32 lanes whose crew has the matrix engine and, as tile 0, 129 bytes; lane 0 of V128 holds 1, every other register 0. -/
def moving : State :=
  ((State.reset.withFetchWord 32 0).updTeam 0 (fun t => { t with nregs := 129, v := [(128 * 1024, 1)] })).updCrew 0
    (fun c => { c with tiles := [(0, { cfg := true, rows := 1, cols := 129, ty := 12 })] })
  |> fun s => s.updLaunch (s.crew 0).launch (fun l => { l with lrec := { l.lrec with flags := l.lrec.flags ||| 16 } })

/-- TMOV of the registers from V127 on to tile 0. -/
def move : Instr := .tmov 0 (.v 127) (.v 0)

/-- The commands in the matrix queue of crew 0 after an instruction. -/
def queuedAfter (i : Instr) (s : State) : List MmaOp :=
  match exec i s with
  | .next t => (t.crew 0).mmq.map (·.op)
  | _ => []

/-- What the statement has the command take: the bytes of V127, then those of V0. -/
def imageModulo : List Byte := (List.range 129).map (fun j => BitVec.ofNat 8
  (opVal moving.me 1 (.v (Fin.ofNat 128 ((127 : Fin 128).val + j / (4 * moving.me.lanes)))) (j / 4 % moving.me.lanes) / 2 ^ (8 * (j % 4))))

theorem ready_moving : ready moving = true := by decide +kernel
theorem image_moving : queuedAfter move moving ≠ [.setTile 0 imageModulo []] := by decide +kernel

/-- A command that enters an empty queue is what the queue holds next. -/
theorem queuedAfter_of_queues {i : Instr} {s s1 : State} {op : MmaOp} (hcur : s.me.crew = 0) (hempty : (s1.crew 0).mmq = [])
    (hq : Sys2Proof.Claims.Queues i s s1 op id) : queuedAfter i s = [op] := by
  obtain ⟨t, hexec, -, -, -, -, -, -, -, -, -, -, heff⟩ := hq
  obtain ⟨hnew, -⟩ := heff _ _ rfl rfl
  rw [hcur] at hnew
  obtain ⟨_, _, -, -, hcrew⟩ := hnew (by rw [hempty]; rfl)
  rw [queuedAfter, hexec]
  simp [hcrew, hempty, mmqInsert]

/-- Refutes O33, in its clause on TMOV: byte 128 of the tile is V128's in the model and V0's in the statement. -/
theorem not_matrixCommandsEnterTheQueue : ¬ Obligations.MatrixCommandsEnterTheQueue := by
  unfold Obligations.MatrixCommandsEnterTheQueue
  intro hall
  obtain ⟨-, -, htmov, -⟩ := hall moving 0 0 0 (.s 0) (.s 0) (.s 0) ready_moving (by decide +kernel) (by decide +kernel)
    (by decide) (by decide) (by decide) rfl rfl rfl _ _ _ rfl rfl rfl _ rfl
  have hq := htmov 127 _ imageModulo rfl (by decide +kernel) (by decide +kernel) (by decide +kernel) (by decide +kernel)
  exact image_moving (queuedAfter_of_queues (by decide +kernel) (by decide +kernel) hq)

end Sys2Proof.Machine
end

section
/-! SUPPORT. What a uniform instruction's completion leaves, whatever its own part has made of the chip; and the instructions that hand over registers
(O32), and that read what the engines show (O37). -/

namespace Sys2Proof.Machine

/-! ### Completions -/

section
variable {i : Instr} {s : State} {op : Nat} {u : UCtx}

/-- A completion with S results to come, from any state: nothing else changes. -/
theorem AtPass.done_only (hu : AtPass s op u) (s' : State) (ws : List (Opnd × Nat)) (lat : Nat) (il : Bool) :
    OnlyTeam s.cur s' (u.done s' ws lat il) := by
  rw [done_eq, hu.ti]
  exact retire_onlyTeam _ _ _ _ _ _ _

theorem AtPass.done_me (hu : AtPass s op u) (s' : State) (ws : List (Opnd × Nat)) (lat : Nat) (il : Bool) :
    ((u.done s' ws lat il).team s.cur).untimed = { s'.team s.cur with
      pc := nextPc (s'.team s.cur).pc 1, pend := (s'.team s.cur).pend ++ doneWrites s.me u.c lat il ws }.untimed := by
  rw [done_eq, hu.ti, hu.team]
  exact retire_me _ _ _ _ _ _ _

theorem AtPass.done_status (hu : AtPass s op u) (s' : State) (ws : List (Opnd × Nat)) (lat : Nat) (il : Bool) :
    ((u.done s' ws lat il).team s.cur).status = .run := by
  rw [done_eq, hu.ti]
  exact retire_status _ _ _ _ _ _ _

/-- An S result written at once is the operand's write, and then the end of the instruction. -/
theorem AtPass.now_eq (hu : AtPass s op u) (s' : State) {d : Opnd} (hd : okS d = true) (v : Nat) :
    u.now s' [(d, v)] = retire (s'.updTeam s.cur (·.putS d (w64 v))) s.cur op 1 u.ps true [] := by
  rw [UCtx.now, hu.ti, hu.opcode]
  obtain ⟨n, rfl⟩ | rfl := okS_cases d hd <;> rfl

theorem AtPass.now_only (hu : AtPass s op u) (s' : State) {d : Opnd} (hd : okS d = true) (v : Nat) : OnlyTeam s.cur s' (u.now s' [(d, v)]) := by
  rw [hu.now_eq s' hd]
  exact (onlyTeam_updTeam _ _ _).trans (retire_onlyTeam _ _ _ _ _ _ _)

theorem AtPass.now_me (hu : AtPass s op u) (s' : State) {d : Opnd} (hd : okS d = true) (v : Nat) :
    ((u.now s' [(d, v)]).team s.cur).untimed = { (s'.team s.cur).putS d (w64 v) with
      pc := nextPc ((s'.team s.cur).putS d (w64 v)).pc 1 }.untimed := by
  rw [hu.now_eq s' hd, retire_me, updTeam_team, List.append_nil]

theorem AtPass.now_status (hu : AtPass s op u) (s' : State) {d : Opnd} (hd : okS d = true) (v : Nat) :
    ((u.now s' [(d, v)]).team s.cur).status = .run := by
  rw [hu.now_eq s' hd]
  exact retire_status _ _ _ _ _ _ _

theorem putS_pc (t : Team) (d : Opnd) (v : W64) : (t.putS d v).pc = t.pc := by cases d <;> simp [Team.putS]

/-- The operand holds what was written. -/
theorem holdsS_putS (t : Team) (d : Opnd) (v : Nat) : Sys2Proof.Claims.holdsS (t.putS d (w64 v)) d v := by
  rintro n rfl
  exact put_s_self t n.val 0 (w64 v)

theorem holdsS_congr {t t' : Team} (h : t'.s = t.s) {d : Opnd} {v : Nat} (hd : Sys2Proof.Claims.holdsS t d v) : Sys2Proof.Claims.holdsS t' d v :=
  fun n hn => h ▸ hd n hn

/-- A team that ends its pass in a status that others may end. -/
theorem AtPass.part_me (hu : AtPass s op u) (s' : State) (st : TStatus) : ∃ t, u.part s' st = .become t ∧ OnlyTeam s.cur s' t ∧
    (t.team s.cur).status = st ∧ (t.team s.cur).pc = (s'.team s.cur).pc := by
  unfold UCtx.part
  rw [hu.ti]
  have hparts (s1 : State) (ho : OnlyTeam s.cur s' s1) (hpc : (s1.team s.cur).pc = (s'.team s.cur).pc) :
      ∃ t, Stop.become (s1.updTeam s.cur (fun t => { t with status := st, nextIssue := max t.nextIssue u.c })) = .become t ∧ OnlyTeam s.cur s' t ∧
        (t.team s.cur).status = st ∧ (t.team s.cur).pc = (s'.team s.cur).pc :=
    ⟨_, rfl, ho.trans (onlyTeam_updTeam _ _ _), by rw [updTeam_team], by rw [updTeam_team, hpc]⟩
  split
  · exact hparts _ (.rfl) rfl
  · refine hparts _ ((claimPort_onlyTeam _ _ _ _ _).trans (onlyTeam_updTeam _ _ _)) ?_
    have hpc := congrArg Team.pc (claimPort_me s' s.cur (portOf u.op) { lo := 0, n := 0, at_ := u.c } u.c)
    simp only [Team.untimed] at hpc
    rw [updTeam_team, hpc]
end

/-! ### DONATE -/

theorem commitAll_pc (t : Team) : t.commitAll.pc = t.pc := commitAll_keeps Team.pc put_pc t rfl
theorem commitAll_nregs (t : Team) : t.commitAll.nregs = t.nregs := commitAll_keeps Team.nregs put_nregs t rfl

theorem regrant_nregs {t : Team} {g : Int} {least : Nat} (h : grantOk t g least = true) : ((regrant g t.commitAll).nregs : Int) = t.nregs + 8 * g := by
  simp only [grantOk, decide_eq_true_eq] at h
  obtain ⟨hpos, -, -⟩ := h
  simp only [regrant, commitAll_nregs]
  omega

/-- Both partners' counts changed and both past the instruction: retiring each touches no other. -/
theorem donated {s u : State} {p : Nat} (hp : p ≠ s.cur) (hcur : u.cur = s.cur) (ps qs : List Pass) (f g : Team → Team) :
    let t := retire (retire ((u.updTeam s.cur f).updTeam p g) p 0xB4 1 ps true []) s.cur 0xB4 1 qs true []
    t.cur = s.cur ∧ (t.team s.cur).pc = nextPc (f (u.team s.cur)).pc 1 ∧ (t.team p).pc = nextPc (g (u.team p)).pc 1 ∧
      (t.team s.cur).nregs = (f (u.team s.cur)).nregs ∧ (t.team p).nregs = (g (u.team p)).nregs := by
  intro t
  let s1 := (u.updTeam s.cur f).updTeam p g
  let s2 := retire s1 p 0xB4 1 ps true []
  have hme : t.team s.cur = (retire s2 s.cur 0xB4 1 qs true []).team s.cur := rfl
  have honly1 : OnlyTeam p s1 s2 := retire_onlyTeam _ _ _ _ _ _ _
  have honly2 : OnlyTeam s.cur s2 t := retire_onlyTeam _ _ _ _ _ _ _
  have h1me : s1.team s.cur = f (u.team s.cur) := by rw [updTeam_team_ne _ _ _ _ (Ne.symm hp), updTeam_team]
  have h1p : s1.team p = g (u.team p) := by rw [updTeam_team, updTeam_team_ne _ _ _ _ hp]
  have hm := retire_me s2 s.cur 0xB4 1 qs true []
  have hq := retire_me s1 p 0xB4 1 ps true []
  rw [honly1.2.1 _ (Ne.symm hp), h1me] at hm
  rw [h1p] at hq
  have htp : t.team p = s2.team p := honly2.2.1 p hp
  refine ⟨honly2.cur.trans (honly1.cur.trans hcur), (congrArg Team.pc hm :), ?_, (congrArg Team.nregs hm :), ?_⟩
  · rw [htp]; exact (congrArg Team.pc hq :)
  · rw [htp]; exact (congrArg Team.nregs hq :)

/-- Settles O32. -/
theorem donateMovesRegisters : Obligations.DonateMovesRegisters := by
  unfold Obligations.DonateMovesRegisters
  rintro s a b h ha hb hid hcode g least rfl rfl
  obtain ⟨u, hu, hok, hstop⟩ := uniform_run h (fields := [fld (.v 0) okZero, fld a okS, fld b okS]) (by simp [fld, ha, hb, okZero])
    (show exec (.donate (.v 0) a b) s = execDonate (.v 0) a b s from rfl) rfl
  have hra := hu.rd h ha
  have hrb := hu.rd h hb
  have hfl : u.t.flight.isEmpty = true := by rw [hu.team, ready_flight h]; rfl
  have hcrew (n : Nat) : crewTeam u.s s.me.crew n = crewTeam s s.me.crew n := by rw [crewTeam, hu.only.crew, crewTeam]
  have ha0 : (sVal s.me a).toNat / 16 = 0 := by omega
  have hb0 : (sVal s.me b).toNat / 65536 = 0 := by omega
  refine ⟨fun hnone => hstop _ ?_, fun p hsome hp hgone => ?_⟩
  · simp [hra, hrb, ha0, hb0, hfl, hcrew, hnone]
  have hpt : u.s.team p = s.team p := hu.only.2.1 p hp
  have hpg : partyGone u.s p = false := (hu.only.partyGone hp).trans hgone
  refine ⟨fun pg pl hst hsum hme hpart hslot => ?_, fun hst => ?_⟩
  · have hrun := hok _ (by
      simp only [hra, hrb, ha0, hb0, hfl, hcrew, hsome, hpt, hpg, hst, hp, hsum, hme, hpart, hslot, ne_eq, not_true_eq_false,
        if_true, if_false, Bool.not_true, Bool.false_eq_true, beq_self_eq_true, decide_true, Bool.and_self]
      rfl)
    obtain ⟨hcur, hpc, hpcp, hn, hnp⟩ := donated hp hu.only.cur [{ lo := 0, n := 0, at_ := _ }] [{ lo := 0, n := 0, at_ := _ }]
      (fun t => regrant (sextN 8 ((sVal s.me b).toNat % 256)) t.commitAll) (fun t => regrant pg t.commitAll)
    refine ⟨_, hrun, ?_, ?_, ?_, ?_⟩
    · rw [State.me, hcur]
      refine hpc.trans ?_
      rw [hu.me]
      exact congrArg (nextPc · 1) (commitAll_pc _)
    · refine hpcp.trans ?_
      rw [hpt]
      exact congrArg (nextPc · 1) (commitAll_pc _)
    · rw [State.me, hcur, hn, hu.me]
      exact regrant_nregs hme
    · rw [hnp, hpt]
      exact regrant_nregs hpart
  · obtain ⟨t, hpart, honly, hstatus, hpc⟩ := hu.part_me u.s (.donate (sVal s.me a).toNat (sextN 8 ((sVal s.me b).toNat % 256)) ((sVal s.me b).toNat / 256))
    refine ⟨t, (hstop (.become t) ?_), ?_, ?_⟩
    · simp [hra, hrb, ha0, hb0, hfl, hcrew, hsome, hpt, hpg, hst, hp, hpart]
    · rw [State.me, honly.cur, hu.only.cur, hpc, hu.me]
    · rw [State.me, honly.cur, hu.only.cur, hstatus]

/-! ### WPRD, QSTAT and SREC.STOP -/

/-- Settling the issuing team changes no team. -/
theorem settled_teams (s : State) (j : Nat) : s.settled.team j = s.team j := by
  by_cases hj : j = s.cur
  · rw [hj]; exact settled_team s
  · exact setTeam_team_ne _ _ _ _ hj

/-- A completion with one interlocked S result. -/
theorem AtPass.runsTo_interlocked {i : Instr} {s : State} {op : Nat} {u : UCtx} (hu : AtPass s op u) (h : ready s = true) {d : Opnd}
    (hd : okS d = true) (v lat : Nat) (he : exec i s = .next (u.done u.s [(d, v)] lat true)) :
    ∃ c, RunsTo i s { s.me.stepped with pend := (sWrite s.me d (w64 v) c).map (fun w => { w with il := true }) } := by
  have hws : doneWrites s.me u.c lat true [(d, v)] = (sWrite s.me d (w64 v) (u.c + lat)).map (fun w => { w with il := true }) := by
    obtain ⟨n, rfl⟩ | rfl := okS_cases d hd <;> rfl
  refine ⟨u.c + lat, runsTo_of i s _ _ he (hu.only.trans (hu.done_only _ _ _ _)) ?_ (hu.done_status _ _ _ _)⟩
  rw [hu.done_me, hu.me, ready_pend h, hws]
  rfl

/-- The fields of QSTAT's word of an incoming queue (R393). -/
theorem qstat_incoming (s : State) {k : Nat} (hdir : bindDir (s.me.q k).bind = false) (hlen : (s.me.q k).entries.length ≤ 8) :
    let v := qstatOf s s.me k
    let x := s.me.stream (bindStrm (s.me.q k).bind)
    let mine := bindSrc (s.me.q k).bind == 1 && x.loaded
    bitsN v 0 4 = (s.me.q k).entries.length ∧ bitN v 4 = false ∧ bitN v 5 = (mine && decide (x.length ≤ x.pos)) ∧
      bitN v 6 = (bindSrc (s.me.q k).bind != 0 && producerEnded s s.me k) ∧ bitN v 7 = (s.me.q k).entries.head?.elim false (·.poison.isSome) ∧
      v / 2 ^ 32 = (if mine then x.length - x.pos else 0) := by
  intro v x mine
  have hv : v = _ := if_neg (by simp [hdir])
  simp only [] at hv
  generalize (s.me.q k).entries.head?.elim false (·.poison.isSome) = bad at hv ⊢
  generalize (bindSrc (s.me.q k).bind != 0 && producerEnded s s.me k) = ended at hv ⊢
  generalize (s.me.q k).entries.length = len at hv hlen ⊢
  change v = (if mine then (x.length - x.pos) * 2 ^ 32 else 0) + (if bad then 2 ^ 7 else 0) + (if ended then 2 ^ 6 else 0) +
    (if mine && decide (x.length ≤ x.pos) then 2 ^ 5 else 0) + len at hv
  clear_value v mine
  subst hv
  simp only [bitsN, bitN, Nat.testBit_eq_decide_div_mod_eq]
  cases bad <;> cases ended <;> cases mine <;> cases decide (x.length ≤ x.pos) <;> simp <;> omega

theorem qstatOf_settled (s : State) (n : Nat) : qstatOf s.settled s.me n = qstatOf s s.me n := by
  have hcrew (ci id : Nat) : crewTeam s.settled ci id = crewTeam s ci id := rfl
  have hends : producerEnded s.settled s.me n = producerEnded s s.me n := by
    unfold producerEnded
    simp only [hcrew, settled_teams]
  unfold qstatOf
  simp only [hcrew, settled_teams, hends]

/-! ### What lasts -/

theorem cur_of_lasting {s t : State} (h : t.lasting = s.lasting) : t.cur = s.cur := congrArg Prod.fst h
theorem team_of_lasting {s t : State} (h : t.lasting = s.lasting) (j : Nat) : (t.team j).lasting = (s.team j).lasting :=
  congrFun (congrArg Prod.snd h) j

theorem writePlace_lasting (s : State) (ctx : Nat) (p : Place) (bs : List Byte) (bad : Bool) (w : Nat) :
    (writePlace s ctx p bs bad w).lasting = s.lasting := (putPlace_lasting _ w ctx p bs bad 0).trans (unhide_lasting s p _)

theorem ringVisible_lasting (s : State) (ci : Nat) (cl : Nat × Nat × Nat) : (ringVisible s ci cl).lasting = s.lasting :=
  writePlace_lasting s _ _ _ _ _

/-- A stream that stops: what lasts of every team is as it was, but that stream. -/
theorem streamStop_lasting (s : State) (ti f : Nat) : (streamStop s ti f).lasting = (s.updTeam ti (fun t => t.setStream f { (s.team ti).stream f with
    running := false, short := true, ahead := [], slot := none, slotFill := 0, again := none, wait := none })).lasting := by
  unfold streamStop
  dsimp only
  split
  · exact (ringVisible_lasting _ _ _).trans (writePlace_lasting _ _ _ _ _ _)
  · rfl

theorem setStream_stream_ne (t : Team) {f g : Nat} (x : Stream) (h : g ≠ f) : (t.setStream f x).stream g = t.stream g := cget_cset_ne _ _ _ _ _ h

/-- SREC.STOP. -/
theorem srecStop_runs {s : State} {t : BitVec 8} (h : ready s = true) (ht : t.toNat < 16) :
    ∃ z, exec (.srecStop t (.v 0) (.v 0)) s = .next z ∧ z.me.pc = nextPc s.me.pc 1 ∧ z.me.status = .run ∧
      (z.me.stream t.toNat).running = false ∧ (∀ g, g ≠ t.toNat → z.me.stream g = s.me.stream g) ∧
      ((s.me.stream t.toNat).running = true → (z.me.stream t.toNat).short = true) ∧
      ((s.me.stream t.toNat).ring = false → ∀ q, byteAt z q = byteAt s q) := by
  obtain ⟨u, hu, hok, -⟩ := uniform_run h (fields := [fldTile t, fld (.v 0) okZero, fld (.v 0) okZero]) (by simp [fldTile, ht, fld, okZero])
    (show exec (.srecStop t (.v 0) (.v 0)) s = execSrecStop t (.v 0) (.v 0) s from rfl) rfl
  have hexec := hok _ rfl
  rw [hu.team] at hexec
  generalize hs' : (if (s.me.stream t.toNat).running = true then streamStop u.s s.cur t.toNat else u.s) = s' at hexec
  have hcur : s'.cur = s.cur := by
    rw [← hs']
    split
    · exact (cur_of_lasting (streamStop_lasting _ _ _)).trans hu.only.cur
    · exact hu.only.cur
  have hlast : (s'.team s.cur).lasting = (if (s.me.stream t.toNat).running = true then s.me.setStream t.toNat { s.me.stream t.toNat with
      running := false, short := true, ahead := [], slot := none, slotFill := 0, again := none, wait := none } else s.me).lasting := by
    rw [← hs']
    split
    · rw [team_of_lasting (streamStop_lasting _ _ _), updTeam_team, hu.me]
    · rw [hu.me]
  have hme := hu.done_me s' [] 0 false
  have hzcur : (u.done s' [] 0).cur = s.cur := (hu.done_only s' [] 0 false).cur.trans hcur
  have hpc : (s'.team s.cur).pc = s.me.pc := by
    refine (congrArg Team.pc hlast :).trans ?_
    split <;> rfl
  have hstreams : ((u.done s' [] 0).team s.cur).streams = _ := (congrArg Team.streams hme :).trans (congrArg Team.streams hlast :)
  refine ⟨_, hexec, ?_, ?_, ?_, fun g hg => ?_, fun hrun => ?_, fun hring q => ?_⟩
  · rw [State.me, hzcur]
    exact (congrArg Team.pc hme :).trans (congrArg (nextPc · 1) hpc)
  · rw [State.me, hzcur]
    exact hu.done_status _ _ _ _
  · rw [State.me, hzcur, Team.stream, hstreams]
    split
    · exact congrArg Stream.running (setStream_stream s.me t.toNat _)
    · next hn => exact eq_false_of_ne_true hn
  · rw [State.me, hzcur, Team.stream, hstreams]
    split
    · exact setStream_stream_ne s.me _ hg
    · rfl
  · rw [State.me, hzcur, Team.stream, hstreams, if_pos hrun]
    exact congrArg Stream.short (setStream_stream s.me t.toNat _)
  · rw [(hu.done_only s' [] 0 false).byteAt, ← hs']
    have hx : (u.s.team s.cur).stream t.toNat = s.me.stream t.toNat := by rw [hu.me]
    split
    · unfold streamStop
      dsimp only
      rw [hx, hring]
      exact (byteAt_updTeam _ _ _ _).trans (hu.only.byteAt q)
    · exact hu.only.byteAt q

/-- Settles O37. -/
theorem engineStatusReads : Obligations.EngineStatusReads := by
  unfold Obligations.EngineStatusReads
  intro s d a k t h hd ha ht Gives hGives
  simp only [hGives]
  refine ⟨fun hlt => ?wprd, and_assoc.1 ⟨?qstat, ?stop⟩⟩
  case wprd =>
    obtain ⟨u, hu, hok, -⟩ := uniform_run h (fields := [fld d okS, fld a okS, fld (.v 0) okZero]) (by simp [fld, hd, ha, okZero])
      (show exec (.wprd d a (.v 0)) s = execWprd d a (.v 0) s from rfl) rfl
    have h0 : (sVal s.me a).toNat / 8 = 0 := by omega
    refine hu.runsTo_interlocked h hd _ 4 (hok _ ?_)
    simp only [hu.rd h ha, h0, hu.state]
    rfl
  case qstat =>
    obtain ⟨u, hu, hok, -⟩ := uniform_run h (fields := [fld d okS, fld (.q k) okQ, fld (.v 0) okZero]) (by simp [fld, hd, okQ, okZero])
      (show exec (.qstat d (.q k) (.v 0)) s = execQstat d (.q k) (.v 0) s from rfl) rfl
    have hgives := hu.runsTo_interlocked h hd (qstatOf s s.me k.val) 4 (hok _ (by rw [← qstatOf_settled, ← hu.state, ← hu.team]))
    refine ⟨fun hdir hlen => ⟨_, hgives, ?_⟩, fun p hdir hpeer => ?_⟩
    · rintro x rfl mine rfl
      obtain ⟨hlen4, h4, h5, h6, h7, hleft⟩ := qstat_incoming s hdir hlen
      refine ⟨hlen4, h4, h5, h6, h7.trans ?_, hleft⟩
      cases (s.me.q k.val).entries.head? <;> rfl
    · rw [qstatOf, if_pos hdir, hpeer] at hgives
      exact hgives
  case stop => exact srecStop_runs h ht

end Sys2Proof.Machine
end

section
/-! SUPPORT. The instructions of the stage rings and a producer's close (18 R366 to R369, 09 R188, R189): O31. -/

namespace Sys2Proof.Machine

/-! ### Nothing to close -/

theorem closeSome_nil {s : State} {ti : Nat} (out : LateLoad → Bool) (h : (s.team ti).flight = []) : closeSome s ti out = s := by
  simp [closeSome, Team.late, h]

theorem closeLate_nil {s : State} {ti : Nat} (h : (s.team ti).flight = []) : closeLate s ti = s := closeSome_nil _ h

/-- An acquire or a release at CREW scope of a team with nothing in flight. -/
theorem acquire_crew {s : State} {ti : Nat} (h : (s.team ti).flight = []) : s.acquire ti 1 = s := by
  rw [State.acquire, closeLate_nil h]
  rfl

theorem release_crew {s : State} {ti : Nat} (h : (s.team ti).flight = []) : s.release ti 1 = s := by
  rw [State.release, closeLate_nil h]
  simp [releaseAt]

/-! ### A ring's descriptor written -/

/-- The bytes written at a place of a descriptor are what a field there reads; other fields of it read as before. -/
theorem field_ringPut (s : State) (ci off o n v rest : Nat) :
    field (scratchBytes ((ringPut s ci off o n v).crew ci) off (o + (n + rest))) o n = v % 256 ^ n := by
  rw [field_scratchBytes, ringPut, writePlace_scratch_crew]
  have hb := fun c' h => scratchBytes_put (c' := c') (leBytes n v) (s.crew ci).scratch (off + o) h
  rw [leBytes_length] at hb
  exact (congrArg ofLE (hb _ rfl)).trans (ofLE_leBytes n v)

theorem ringPut_tail (s : State) (ci off v : Nat) : (ringAt ((ringPut s ci off 12 4 v).crew ci) off).tail = v % 2 ^ 32 :=
  field_ringPut s ci off 12 4 v 48

theorem ringPut_closed (s : State) (ci off v : Nat) : (ringAt ((ringPut s ci off 2 1 v).crew ci) off).closed = v % 256 :=
  field_ringPut s ci off 2 1 v 61

theorem ringPut_ringEos (s : State) (ci off o n v : Nat) : ((ringPut s ci off o n v).crew ci).ringEos = (s.crew ci).ringEos := by
  rw [ringPut, writePlace_scratch_crew]

theorem ringPut_lasting (s : State) (ci off o n v : Nat) : (ringPut s ci off o n v).lasting = s.lasting := writePlace_lasting _ _ _ _ _ _

theorem ringChecks_congr {s t : State} {ci : Nat} (h : t.crew ci = s.crew ci) (v hi : Nat) (p : Except Stop Unit) :
    ringChecks t ci v hi p = ringChecks s ci v hi p := by
  unfold ringChecks
  rw [h]

/-- A ring that passes the checks is the one that Sa names. -/
theorem ringChecks_slot (r : Ring) (c : Nat) : winLo + r.slot c = winLo + r.base + c % r.nslots * 2 ^ r.lsize := by
  rw [Ring.slot, Nat.add_assoc]

/-! ### Completions that leave the issuing team's clock alone -/

section
variable {i : Instr} {s : State} {op : Nat} {u : UCtx}

/-- Where a completion from s', which what lasts of the teams shares with s, leaves the issuing team. -/
theorem AtPass.done_goes (hu : AtPass s op u) {s' : State} (hs' : s'.lasting = s.lasting) (ws : List (Opnd × Nat)) (lat : Nat) (il : Bool) :
    (u.done s' ws lat il).me.pc = nextPc s.me.pc 1 ∧ (u.done s' ws lat il).me.status = .run := by
  have hcur : (u.done s' ws lat il).cur = s.cur := (hu.done_only s' ws lat il).cur.trans (cur_of_lasting hs')
  rw [State.me, hcur]
  exact ⟨(congrArg Team.pc (hu.done_me s' ws lat il) :).trans (congrArg (nextPc · 1) (congrArg Team.pc (team_of_lasting hs' s.cur) :)), hu.done_status _ _ _ _⟩

/-- Likewise with an S result written at once. -/
theorem AtPass.now_goes (hu : AtPass s op u) {s' : State} (hs' : s'.lasting = s.lasting) {d : Opnd} (hd : okS d = true) (v : Nat) :
    (u.now s' [(d, v)]).me.pc = nextPc s.me.pc 1 ∧ (u.now s' [(d, v)]).me.status = .run ∧ Sys2Proof.Claims.holdsS (u.now s' [(d, v)]).me d v := by
  have hcur : (u.now s' [(d, v)]).cur = s.cur := (hu.now_only s' hd v).cur.trans (cur_of_lasting hs')
  rw [State.me, hcur]
  refine ⟨(congrArg Team.pc (hu.now_me s' hd v) :).trans ?_, hu.now_status s' hd v, holdsS_congr (congrArg Team.s (hu.now_me s' hd v) :) (holdsS_putS _ d v)⟩
  change nextPc ((s'.team s.cur).putS d (w64 v)).pc 1 = _
  rw [putS_pc]
  exact congrArg (nextPc · 1) (congrArg Team.pc (team_of_lasting hs' s.cur) :)

/-- A blocked instruction stays where it is. -/
theorem stopped_block (s : State) (st : TStatus) : (stopped s s.cur (.block st)).me.pc = s.me.pc ∧ (stopped s s.cur (.block st)).me.status = st := by
  rw [stopped, State.me, updTeam_cur, updTeam_team]
  exact ⟨rfl, rfl⟩

theorem settled_lasting (s : State) : s.settled.lasting = s.lasting := Prod.ext rfl (funext fun j => congrArg Team.lasting (settled_teams s j))

theorem AtPass.lasting (hu : AtPass s op u) : u.s.lasting = s.lasting := hu.state ▸ settled_lasting s
theorem AtPass.flight (hu : AtPass s op u) (h : ready s = true) : (u.s.team s.cur).flight = [] := by rw [hu.me, ready_flight h]
end

/-- The state in which a producer's end, recorded in the ring's crew, has become its bit of the ring (RING_PRODUCER_CLOSE, R189). -/
def closedBy (s : State) (ci off k : Nat) : State :=
  ringPut (s.updCrew ci fun c => { c with ringEos := c.ringEos.filter fun e => !(e.1 == off && e.2.1 == k) }) ci off 2 1
    ((ringAt (s.crew ci) off).closed ||| 2 ^ k)

/-! ### The instructions -/

/-- Settles O31. -/
theorem stageRings : Obligations.StageRings := by
  unfold Obligations.StageRings
  refine ⟨?wait, ?free, ?eos, ?close⟩
  case wait =>
    rintro s d a b r c h hd ha hb hr rfl hbelow
    obtain ⟨u, hu, hok, hstop⟩ := uniform_run h (fields := [fld d okS, fld a okS, fld b okS]) (by simp [fld, hd, ha, hb])
      (show exec (.slotWait d a b) s = execSlotWait d a b s from rfl) rfl
    have hchecks : ringChecks u.s s.me.crew (sVal s.me a).toNat 20 (.ok ()) = .ok r := (ringChecks_congr (hu.only.crew _) _ _ _).trans hr
    have hbelow' := Nat.not_le.2 hbelow
    refine ⟨fun hfilled => ?_, fun hfilled hclosed hhead hclaims => ?_, fun hfilled hopen => ?_⟩
    · obtain ⟨hpc, -, hv⟩ := hu.now_goes hu.lasting hd (winLo + r.slot ((sVal s.me b).toNat % 2 ^ 32))
      refine ⟨_, hok _ ?_, hpc, ringChecks_slot r _ ▸ hv⟩
      simp only [hu.rd h ha, hu.rd h hb, hu.poison, hchecks, ok_bind, if_neg hbelow', hfilled, if_true, acquire_crew (hu.flight h)]
    · obtain ⟨hpc, -, hv⟩ := hu.now_goes hu.lasting hd (2 ^ 64 - 1)
      refine ⟨_, hok _ ?_, hpc, hv⟩
      rw [hhead] at hfilled hbelow'
      simp only [hu.rd h ha, hu.rd h hb, hu.poison, hchecks, ok_bind, if_neg hbelow', hhead, hfilled, hclosed, hu.only.crew, hclaims, Bool.false_eq_true, if_false,
        beq_self_eq_true, Bool.not_false, Bool.and_self, if_true, acquire_crew (hu.flight h)]
    · obtain ⟨hpc, hst⟩ := stopped_block s (.wait 2)
      refine ⟨_, hstop (.block (.wait 2)) ?_, hpc, hst⟩
      have hnot : (r.closed == r.prods && (sVal s.me b).toNat % 2 ^ 32 == r.head && !((u.s.crew s.me.crew).ringClaims.any (·.1 == r.off))) = false := by
        rw [hu.only.crew]
        rcases hopen with hc | hc | hc
        · simp only [beq_eq_false_iff_ne.2 hc, Bool.false_and]
        · simp only [beq_eq_false_iff_ne.2 hc, Bool.and_false, Bool.false_and]
        · simp only [hc, Bool.not_true, Bool.and_false]
      simp only [hu.rd h ha, hu.rd h hb, hu.poison, hchecks, ok_bind, if_neg hbelow', hfilled, hnot, Bool.false_eq_true, if_false, throw_eq]
  case free =>
    intro s a b r h ha hb hr hne hle
    obtain ⟨u, hu, hok, -⟩ := uniform_run h (fields := [fld (.v 0) okZero, fld a okS, fld b okS]) (by simp [fld, ha, hb, okZero])
      (show exec (.slotFree (.v 0) a b) s = execSlotFree (.v 0) a b s from rfl) rfl
    have hchecks : ringChecks u.s s.me.crew (sVal s.me a).toNat 20 (.ok ()) = .ok r := (ringChecks_congr (hu.only.crew _) _ _ _).trans hr
    have hn : (decide ((sVal s.me b).toNat = 0) || decide (r.used < (sVal s.me b).toNat)) = false := by
      have h0 : (sVal s.me b).toNat ≠ 0 := fun e => hne (BitVec.eq_of_toNat_eq e)
      simp [h0, hle]
    have hexec := hok _ (by
      simp only [hu.rd h ha, hu.rd h hb, hu.poison, hchecks, ok_bind, hn, Bool.false_eq_true, if_false, release_crew (hu.flight h)]
      rfl)
    refine ⟨_, hexec, (hu.done_goes ((ringPut_lasting _ _ _ _ _ _).trans hu.lasting) _ _ _).1, ?_⟩
    rw [(hu.done_only _ _ _ _).crew]
    exact ringPut_tail _ _ _ _
  case eos =>
    rintro s a r k h ha hr rfl hprod hclosed hnone
    obtain ⟨u, hu, hok, -⟩ := uniform_run h (fields := [fld (.v 0) okZero, fld a okS, fld (.v 0) okZero]) (by simp [fld, ha, okZero])
      (show exec (.ringEos (.v 0) a (.v 0)) s = execRingEos (.v 0) a (.v 0) s from rfl) rfl
    have hchecks : ringChecks u.s s.me.crew (sVal s.me a).toNat 23 (.ok ()) = .ok r := (ringChecks_congr (hu.only.crew _) _ _ _).trans hr
    have hexec := hok _ (by
      simp only [hu.rd h ha, hu.poison, hchecks, ok_bind, hprod, hclosed, hu.only.crew, hnone, List.any_nil, Bool.not_true, Bool.or_self, Bool.false_eq_true,
        if_false]
      rfl)
    refine ⟨_, hexec, (hu.done_goes ?_ _ _ _).1, ?_⟩
    · exact hu.lasting
    · rw [(hu.done_only _ _ _ _).crew, State.updCrew, setCrew_crew]
      have hord : u.s.order = s.order := (congrArg State.order hu.only.1 :)
      have hcrew : (u.s.tick.2.crew s.me.crew).ringEos = [] := (congrArg Crew.ringEos (hu.only.crew s.me.crew)).trans hnone
      rw [hcrew]
      exact congrArg (fun o => [(r.off, bitsN (sVal s.me a).toNat 20 3, s.cur, o)]) hord
  case close =>
    intro s ci off k ti o heos hres hctx hpend hclaims hk
    refine ⟨closedBy s ci off k, ?_, ?_, ringPut_closed _ _ _ _⟩
    · show Host.Outcome.next _ = _
      simp only [heos, List.find?_cons, beq_self_eq_true, Bool.and_self, hres, hctx, hpend, hclaims, List.any_nil, Bool.not_false, if_true]
      rfl
    · rw [closedBy, ringPut_ringEos, State.updCrew, setCrew_crew, heos]
      simp

end Sys2Proof.Machine
end

section
/-! SUPPORT. What loads, stores and atomics have in common before they act (18 R346 to R348): the lanes of the passes in order, their addresses and
the checks of those. With it O25. -/

namespace Sys2Proof.Machine

/-! ### The lanes that take part, in order -/

theorem passLanes_pairwise (t : Team) (is64 : Bool) : (passLanes t is64).Pairwise (· < ·) := by
  rw [passLanes_eq, List.flatMap_def, List.pairwise_flatten]
  constructor
  · simp only [List.mem_map, forall_exists_index, and_imp]
    rintro _ w - rfl
    rw [span, List.pairwise_map]
    exact List.pairwise_lt_range.imp (fun h => Nat.add_lt_add_left h _)
  · rw [List.pairwise_map]
    refine (List.pairwise_lt_range.filter _).imp (fun {v w} hvw l hl m hm => ?_)
    rw [mem_span] at hl hm
    omega

/-- The lanes of the passes that take part are those of C(l), from the lowest up. -/
theorem passLanes_parts {t : Team} (hlanes : 5 ≤ t.lanesLog) (is64 : Bool) : (passLanes t is64).filter (takesPart t) = parts t := by
  have hmem (l : Nat) (ha : t.active l = true) : l ∈ passLanes t is64 ↔ l < t.lanes := by
    rw [passLanes_eq, ← passLanes_eq t false, passLanes, List.mem_flatMap]
    exact passWords_cover hlanes ha
  refine List.Subset.antisymm_of_sortedLT (fun l hl => ?_) (fun l hl => ?_) ((passLanes_pairwise t is64).filter _).sortedLT
    (List.pairwise_lt_range.filter _).sortedLT
  · obtain ⟨hl, hp⟩ := List.mem_filter.1 hl
    obtain ⟨ha, -⟩ := Bool.and_eq_true_iff.1 hp
    exact List.mem_filter.2 ⟨List.mem_range.2 ((hmem l ha).1 hl), hp⟩
  · obtain ⟨hl, hp⟩ := List.mem_filter.1 hl
    obtain ⟨ha, -⟩ := Bool.and_eq_true_iff.1 hp
    exact List.mem_filter.2 ⟨(hmem l ha).2 (List.mem_range.1 hl), hp⟩

theorem mem_parts {t : Team} {l : Nat} : l ∈ parts t ↔ writesLane t false l := by
  simp [parts, takesPart, writesLane, List.mem_filter]

/-! ### The lanes' accesses -/

/-- The accesses of the lanes that take part, pass by pass. -/
def laneAddrs (t : Team) (f : MemForm) (ps : List Pass) : List (List LaneAddr) :=
  ps.map (fun p => ((span p.lo p.n).filter (takesPart t)).map (fun l => { lane := l, at_ := p.at_, va := f.addr t (tySize (mrType t.mr)) 0 l }))

/-- Each of them is its lane's, in the order of the lanes. -/
theorem laneAddrs_lanes {t : Team} (hlanes : 5 ≤ t.lanesLog) (f : MemForm) {is64 : Bool} {ps : List Pass}
    (hps : ps.map (fun p => (p.lo, p.n)) = passWords t is64) : (laneAddrs t f ps).flatten.map (·.lane) = parts t := by
  rw [← passLanes_parts hlanes is64, passLanes, ← hps, laneAddrs]
  simp [List.map_flatten, List.flatMap_def, Function.comp_def]

theorem laneAddrs_va (t : Team) (f : MemForm) (ps : List Pass) {x : LaneAddr} (hx : x ∈ (laneAddrs t f ps).flatten) :
    x.va = f.addr t (tySize (mrType t.mr)) 0 x.lane := by
  obtain ⟨g, hg, hx⟩ := List.mem_flatten.1 hx
  obtain ⟨p, -, rfl⟩ := List.mem_map.1 hg
  obtain ⟨l, -, rfl⟩ := List.mem_map.1 hx
  rfl

/-- What a memory instruction has before it acts, when its lanes' addresses have passed their checks, in a state that `before` has prepared. -/
def readied (s : State) (f : MemForm) (acc : Acc) (every : Bool) (before : State → List LaneAddr → State) (ps : List Pass) : MemReady :=
  let g := laneAddrs s.me f ps
  let s' := before s.settled g.flatten
  let r := translatePasses s' s.cur acc every g
  { s := r.1, ps := ps, groups := r.2.1, fault := r.2.2, bad := none, early := .ok (), reqs := r.2.1.map (passRequests s' s.cur acc) }

theorem MemForm.addr_nil {t : Team} (ht : t.pend = []) (f : MemForm) (e c l : Nat) : f.addr t e c l = f.addr t e 0 l := by
  unfold MemForm.addr
  simp only [readGrp_nil ht c, readGrp_nil ht 0]

/-- A memory instruction of a ready team, of accepted fields and type and of registers within the declared count, comes to the checks of its lanes'
addresses. -/
theorem memReady_run {s : State} {f : MemForm} {reads : List (Opnd × Nat)} (h : ready s = true) (hf : f.fields.all (·.2) = true)
    (hty : (f.tyOk && dqTyOk s.me.mr reads) = true) (hreach : WithinRegs s.me ((f.d, f.dN) :: f.addrOps)) (hdone : s.me.doneLanes = 0)
    (acc : Acc) (every : Bool) (before : State → List LaneAddr → State) :
    ∃ ps : List Pass, ps.map (fun p => (p.lo, p.n)) = passWords s.me (mr64 s.me.mr) ∧
      memReady s s.cur s.me f reads acc every before =
        (addrChecks s (teamAgent s s.cur none) (tySize (mrType s.me.mr)) (laneAddrs s.me f ps).flatten).bind
          (fun _ => .ok (readied s f acc every before ps)) := by
  obtain ⟨ps, hcover, hps⟩ := passesOf_ready h f.op (passWords s.me (mr64 s.me.mr)) (bankReads (reads ++ f.addrOps)) (vxOps ((f.d, f.dN) :: f.addrOps))
    ((guardUse s.me :: indexUses s.me ((f.d, f.dN) :: f.addrOps)) ++ ((f.d, f.dN) :: f.addrOps).map (grpUse s.me))
  have ht := ready_pend h
  have hgroups : ps.map (fun p => ((span p.lo p.n).filter (fun l => (s.me.active l && !s.me.doneLanes.getLsbD l) && s.me.guard p.at_ l)).map
      (fun l => ({ lane := l, at_ := p.at_, va := f.addr s.me (tySize (mrType s.me.mr)) p.at_ l } : LaneAddr))) = laneAddrs s.me f ps := by
    have hparts (l : Nat) : (s.me.active l && !(0 : LaneMask).getLsbD l && s.me.guard 0 l) = takesPart s.me l := by simp [takesPart]
    simp only [laneAddrs, hdone, guard_nil ht, f.addr_nil ht, hparts]
  refine ⟨ps, hcover, ?_⟩
  unfold memReady
  rw [hty]
  simp only [decodeChecks_ok s.me f.word f.fields (ready_pace h) hf, rangeChecks_ok hreach, hps, vxChecks_ok ht hreach, hgroups, undersized_nil _ _ _ _ _ ht,
    poisonLane, ready_vPoison h, sPoisoned_nil _ _ ((congrArg Team.sPoison (commit_nil s.me (firstPass ps) ht)).trans (ready_sPoison h)), settle_settled ht,
    bind, Except.bind]
  rfl

/-! ### The checks of addresses -/

/-- A misaligned address among the lanes' that take part, the lowest such lane's. -/
theorem addrChecks_misaligned {s : State} {a : Agent} {e : Nat} {ls : List LaneAddr} {x : LaneAddr} (h : ls.find? (fun x => x.va % e != 0) = some x) :
    addrChecks s a e ls = .error (trapAt 0x0B x.va 0 (some x.lane)) := by
  rw [addrChecks, h]

theorem find_laneAddrs {t : Team} (hlanes : 5 ≤ t.lanesLog) (f : MemForm) {is64 : Bool} {ps : List Pass}
    (hps : ps.map (fun p => (p.lo, p.n)) = passWords t is64) (q : Nat → Bool) {l : Nat}
    (h : (parts t).find? (fun l => q (f.addr t (tySize (mrType t.mr)) 0 l)) = some l) :
    ∃ x, (laneAddrs t f ps).flatten.find? (fun x => q x.va) = some x ∧ x.lane = l ∧ x.va = f.addr t (tySize (mrType t.mr)) 0 l := by
  rw [← laneAddrs_lanes hlanes f hps, List.find?_map, Option.map_eq_some_iff] at h
  obtain ⟨x, hx, rfl⟩ := h
  refine ⟨x, ?_, rfl, laneAddrs_va t f ps (List.mem_of_find?_eq_some hx)⟩
  rw [← hx]
  exact List.find?_congr fun y hy => congrArg q (laneAddrs_va t f ps hy)

/-- A load or a store of a ready team with a misaligned address. -/
theorem memReady_misaligned {s : State} {f : MemForm} {reads : List (Opnd × Nat)} (h : ready s = true) (hf : f.fields.all (·.2) = true)
    (hty : (f.tyOk && dqTyOk s.me.mr reads) = true) (hreach : WithinRegs s.me ((f.d, f.dN) :: f.addrOps)) (hdone : s.me.doneLanes = 0) {l : Nat}
    (hl : (parts s.me).find? (fun l => f.addr s.me (tySize (mrType s.me.mr)) 0 l % tySize (mrType s.me.mr) != 0) = some l)
    (acc : Acc) (every : Bool) (before : State → List LaneAddr → State) :
    memReady s s.cur s.me f reads acc every before = .error (trapAt 0x0B (f.addr s.me (tySize (mrType s.me.mr)) 0 l) 0 (some l)) := by
  obtain ⟨ps, hps, hrun⟩ := memReady_run h hf hty hreach hdone acc every before
  obtain ⟨x, hx, rfl, hva⟩ := find_laneAddrs (ready_lanes h).1 f hps (fun va => va % tySize (mrType s.me.mr) != 0) hl
  rw [hrun, addrChecks_misaligned hx, hva]
  rfl

/-- Settles O25. -/
theorem misalignedAccessesTrap : Obligations.MisalignedAccessesTrap := by
  unfold Obligations.MisalignedAccessesTrap
  rintro s d a off _ l h hty rfl hdone ha hin hl
  have hreach := withinRegs_of_inRange hin
  have hd : plainOpnd d = true := plain_of_inRange hin List.mem_cons_self
  refine ⟨fun hld => ?_, fun hst => ?_⟩
  · have hready := memReady_misaligned (f := fmForm 0x80 false false s s.me d a off) (reads := []) h (by simp [fmForm, fld, hld, ha])
      (by simp [fmForm, hty, dqTyOk]) hreach hdone hl .load false (fun s _ => s)
    refine runInstr_stop s _ (fun ti t => loadOp s ti t (fmForm 0x80 false false s t d a off)) h ?_
    rw [loadOp, hready]
    rfl
  · have hready := memReady_misaligned (f := fmForm 0x84 true false s s.me d a off) (reads := [(d, mrWords s.me.mr)]) h (by simp [fmForm, fld, hst, ha])
      (by rw [dqTyOk_plain _ (by simp [hd])]; simp [fmForm, hty]) hreach hdone hl .store false (fun s _ => s)
    refine runInstr_stop s _ (fun ti t => storeOp s ti t (fmForm 0x84 true false s t d a off)) h ?_
    rw [storeOp]
    exact (congrArg (Except.bind · _) hready :)

end Sys2Proof.Machine
end

section
/-! SUPPORT. What the caches take in and let go changes nothing else (09 R180, R181), one uniform access (18 R350), and WAITA and WAKE: O28. -/

namespace Sys2Proof.Machine

/-! ### What changes nothing but the caches -/

/-- The chip without what the caches hold and the older forms that cores see. -/
def State.uncached (s : State) : State := { s with caches := {}, stale := [] }

theorem eq_of_uncached {s t : State} (h : t.uncached = s.uncached) : t = { s with caches := t.caches, stale := t.stale } :=
  (congrArg (fun x : State => { x with caches := t.caches, stale := t.stale }) h :)

theorem teams_of_uncached {s t : State} (h : t.uncached = s.uncached) : t.teams = s.teams := (congrArg State.teams h :)
theorem crews_of_uncached {s t : State} (h : t.uncached = s.uncached) : t.crews = s.crews := (congrArg State.crews h :)
theorem order_of_uncached {s t : State} (h : t.uncached = s.uncached) : t.order = s.order := (congrArg State.order h :)
theorem team_of_uncached {s t : State} (h : t.uncached = s.uncached) (j : Nat) : t.team j = s.team j := by
  rw [State.team, teams_of_uncached h, State.team]

/-- What changes the caches alone keeps what lasts of the teams. -/
theorem lasting_of_uncached {s t : State} (h : t.uncached = s.uncached) : t.lasting = s.lasting :=
  Prod.ext (congrArg State.cur h :) (funext fun j => congrArg Team.lasting (team_of_uncached h j))

theorem seenBy_uncached (s : State) (core : Nat) (p : Place) (n : Nat) : (seenBy s core p n).uncached = s.uncached := by
  unfold seenBy seeWords
  split <;> rfl

theorem acquireAt_uncached (s : State) (ci scope : Nat) : (acquireAt s ci scope).uncached = s.uncached := by
  unfold acquireAt
  dsimp only
  split
  · rfl
  · split <;> rfl

theorem releaseAt_uncached (s : State) (ci scope : Nat) : (releaseAt s ci scope).uncached = s.uncached := by
  unfold releaseAt
  dsimp only
  split <;> rfl

theorem useL2_uncached (s : State) (line hint : Nat) : (useL2 s line hint).uncached = s.uncached := by
  unfold useL2
  split <;> rfl

theorem useMargin_uncached (s : State) (d line hint : Nat) : (useMargin s d line hint).uncached = s.uncached := by
  unfold useMargin
  dsimp only
  split
  · rfl
  · exact foldl_keeps (fun s w => enterMargin s d w) State.uncached (fun _ _ => rfl) _ _

theorem fetchLine_uncached (s : State) (core line hint : Nat) : (fetchLine s core line hint).uncached = s.uncached := by
  unfold fetchLine
  dsimp only
  split
  · exact useL2_uncached s line hint
  · split
    · exact useMargin_uncached s _ line hint
    · exact (useMargin_uncached _ _ line hint).trans (useL2_uncached s line hint)

theorem fillLine_uncached (s : State) (core : Nat) (p : Place) (hint : Nat) : (fillLine s core p hint).uncached = s.uncached := by
  unfold fillLine
  dsimp only
  split
  · rfl
  · split
    · rfl
    · have h := fetchLine_uncached s core p.line hint
      split <;> exact h

theorem storeLine_uncached (s : State) (core : Nat) (p : Place) (hint : Nat) : (storeLine s core p hint).uncached = s.uncached := by
  unfold storeLine
  split
  · rfl
  · split <;> rfl

/-- An acquire of a team with nothing in flight. -/
theorem acquire_uncached {s : State} {ti : Nat} (h : (s.team ti).flight = []) (scope : Nat) : (s.acquire ti scope).uncached = s.uncached := by
  rw [State.acquire, closeLate_nil h]
  exact acquireAt_uncached _ _ _

/-- Loads performed early change the team's own entries and the caches. -/
theorem closeSome_team (s : State) (ti : Nat) (out : LateLoad → Bool) :
    ((closeSome s ti out).team ti).pc = (s.team ti).pc ∧ ∀ j, j ≠ ti → (closeSome s ti out).team j = s.team j := by
  unfold closeSome
  split
  · dsimp only
    generalize hs : s.updTeam ti (fun t => { t with flight := t.flight.map fun f => { f with late := f.late.filter fun l => !out l } }) = s1
    have hfill (ls : List LateLoad) (s1 : State) : (ls.foldl (fun s l => fillLine s (s.teamCrew ti).core (.phys l.key) l.hint) s1).uncached = s1.uncached :=
      foldl_keeps (fun s (l : LateLoad) => fillLine s (s.teamCrew ti).core (.phys l.key) l.hint) State.uncached (fun s l => fillLine_uncached s _ _ _) ls s1
    refine ⟨?_, fun j hj => ?_⟩
    · rw [team_of_uncached (hfill _ _), ← hs, updTeam_team]
    · rw [team_of_uncached (hfill _ _), ← hs, updTeam_team_ne _ _ _ _ hj]
  · exact ⟨rfl, fun _ _ => rfl⟩

theorem acquire_team (s : State) (ti scope : Nat) :
    ((s.acquire ti scope).team ti).pc = (s.team ti).pc ∧ ∀ j, j ≠ ti → (s.acquire ti scope).team j = s.team j := by
  obtain ⟨hpc, hother⟩ := closeSome_team s ti (fun _ => true)
  have h := acquireAt_uncached (closeLate s ti) (s.team ti).crew scope
  exact ⟨(congrArg Team.pc (team_of_uncached h ti)).trans hpc, fun j hj => (team_of_uncached h j).trans (hother j hj)⟩

/-! ### A translation leaves every crew and every launch record as it was -/

/-- The crews, and the records of their launches. -/
def State.manned (s : State) : Cells Crew × (Nat → LRec) := (s.crews, fun i => (s.launch i).lrec)

theorem touch_manned (s : State) (line : Nat) : (s.touch line).manned = s.manned := (congrArg State.manned (touch_only s line) :)

theorem unhide_manned (s : State) (p : Place) (n : Nat) : (s.unhide p n).manned = s.manned := by
  unfold State.unhide
  split <;> rfl

theorem touchLines_manned (ls : List Nat) (s : State) : (ls.foldl State.touch s).manned = s.manned := foldl_keeps State.touch State.manned touch_manned ls s

theorem putMem_manned (s : State) (k : Nat) (b : Byte) : (s.putMem k b).manned = s.manned := by
  unfold State.putMem
  split <;> rfl

theorem putHomeBytes_manned (bs : List Byte) (s : State) (k : Nat) : (s.putHomeBytes k bs).manned = s.manned := by
  induction bs generalizing s k with
  | nil => rfl
  | cons b r ih => exact (ih _ _).trans (putMem_manned s k b)

theorem homePut_manned (s : State) (k : Nat) (bs : List Byte) : (homePut s k bs).manned = s.manned :=
  (touchLines_manned _ _).trans ((putHomeBytes_manned bs _ k).trans (unhide_manned s _ _))

theorem setBits_manned (s : State) (key set : Nat) : (setBits s key set).manned = s.manned := by
  unfold setBits
  dsimp only
  split
  · rfl
  · exact (touchLines_manned _ _).trans (putMem_manned s key _)

theorem firstTouch_manned (s : State) (ctx pte key : Nat) (write : Bool) : (firstTouch s ctx pte key write).1.manned = s.manned := by
  unfold firstTouch
  dsimp only
  split
  · rfl
  · exact homePut_manned s key _

theorem walk_manned (s : State) (ctx : Nat) (spec : Bool) (acc : Acc) (va : Nat) : (walk s ctx spec acc va).1.manned = s.manned := by
  unfold walk
  split
  · rfl
  · dsimp only
    split
    · rfl
    · exact setBits_manned _ _ _
  · next e k _ =>
    have h := firstTouch_manned s ctx e k acc.writes
    split <;> next e => rw [e] at h; exact h

theorem translate_manned (s : State) (a : Agent) (acc : Acc) (va : Nat) : (translate s a acc va).1.manned = s.manned := by
  have hwalk := walk_manned s a.ctx a.spec acc va
  unfold translate
  extract_lets core useLast last part ptlb ctlb keep
  clear_value core useLast last part ptlb ctlb
  have hkeep (s : State) (h : Held) : (keep s h).manned = s.manned := by
    dsimp only [keep]
    (repeat' split) <;> rfl
  split
  · rfl
  · split
    · exact hkeep s _
    · split
      · exact hkeep s _
      · split
        · next e => rw [e] at hwalk; exact hwalk
        · next s1 h e =>
          rw [e] at hwalk
          refine (hkeep _ h).trans (.trans ?_ hwalk)
          split <;> rfl

theorem hostLost_manned (s : State) (a : Agent) (key : Nat) : (hostLost s a key).manned = s.manned := by
  unfold hostLost
  split
  · split
    · next ci _ =>
      refine Prod.ext rfl (funext fun i => ?_)
      by_cases hi : i = (s.crew ci).launch
      · rw [hi]
        refine (congrArg Launch.lrec (setLaunch_launch s _ _)).trans ?_
        dsimp only
        split <;> rfl
      · exact congrArg Launch.lrec (setLaunch_launch_ne s _ _ _ hi)
    · rfl
  · rfl

theorem place_manned (s : State) (a : Agent) (acc : Acc) (va : Nat) : (place s a acc va).1.manned = s.manned := by
  have h := translate_manned s a acc va
  unfold place
  split
  · rfl
  · split
    · next e => rw [e] at h; exact (hostLost_manned _ a _).trans h
    · next e => rw [e] at h; exact h

theorem place_crews (s : State) (a : Agent) (acc : Acc) (va : Nat) : (place s a acc va).1.crews = s.crews := congrArg Prod.fst (place_manned s a acc va)

theorem crew_of_manned {s t : State} (h : t.manned = s.manned) (i : Nat) : t.crew i = s.crew i := crew_of_crews (congrArg Prod.fst h :) i

theorem crewRec_of_manned {s t : State} (h : t.manned = s.manned) (i : Nat) : t.crewRec i = s.crewRec i := by
  rw [State.crewRec, crew_of_manned h]
  exact congrFun (congrArg Prod.snd h) _

/-! ### One access of a team as a whole -/

theorem windowPlace_cases (s : State) (a : Agent) (va : Nat) : windowPlace s a va = .prot ∨ ∃ c o, windowPlace s a va = .scratch c o := by
  unfold windowPlace
  cases a.crew with
  | none => exact .inl rfl
  | some ci =>
    dsimp only
    split
    · split
      · exact .inr ⟨_, _, rfl⟩
      · exact .inl rfl
    · split
      · split
        · split
          · exact .inr ⟨_, _, rfl⟩
          · exact .inl rfl
        · exact .inl rfl
      · exact .inl rfl

/-- An address in the reserved range needs no translation. -/
theorem place_window {s : State} {a : Agent} {acc : Acc} {va : Nat} (hlo : winLo ≤ va) (hva : va < 2 ^ 52) :
    place s a acc va = (s, windowPlace s a va) := by
  have hclass : addrClass s a va = some (windowPlace s a va) := by rw [addrClass, if_neg (Nat.not_le.2 hva), if_pos hlo]
  rw [place, hclass]

theorem uniformPlace_ok {s s' : State} {ti : Nat} {acc : Acc} {va n : Nat} {aligned : Bool} {p : Place} (halign : aligned = true → va % n = 0)
    (hva : va < 2 ^ 52)
    (hwin : winLo ≤ va → windowPlace s (teamAgent s ti none) va ≠ .prot ∧ windowPlace s (teamAgent s ti none) (va + n - 1) ≠ .prot)
    (hp : place s (teamAgent s ti none) acc va = (s', p)) (hreach : (∃ k, p = .phys k) ∨ ∃ c o, p = .scratch c o) :
    uniformPlace s ti acc va n aligned = .ok (s', p) := by
  have hmis : (aligned && va % n != 0) = false := by cases aligned <;> simp [halign]
  have hprot : (decide (winLo ≤ va) && (windowPlace s (teamAgent s ti none) va == .prot || windowPlace s (teamAgent s ti none) (va + n - 1) == .prot)) = false := by
    by_cases hlo : winLo ≤ va
    · obtain ⟨hfirst, hlast⟩ := hwin hlo
      simp [hfirst, hlast]
    · simp [hlo]
  unfold uniformPlace
  simp only [hmis, hprot, if_neg (Nat.not_le.2 hva), hp, Bool.false_eq_true, if_false]
  obtain ⟨k, rfl⟩ | ⟨c, o, rfl⟩ := hreach <;> rfl

/-- Where an access that finds a place goes, its window may be used. -/
theorem window_of_place {s s' : State} {a : Agent} {acc : Acc} {va : Nat} {p : Place} (hva : va < 2 ^ 52) (hp : place s a acc va = (s', p))
    (hlo : winLo ≤ va) : p = windowPlace s a va := by
  rw [place_window hlo hva] at hp
  exact (congrArg Prod.snd hp).symm

theorem endIdem_of_not {s : State} {ci : Nat} (h : (s.crew ci).drafting = false) : endIdem s ci = s := by
  unfold endIdem
  dsimp only
  rw [h]
  rfl

/-! ### Sleeping -/

theorem monqFree_congr {s t : State} (hc : t.crews = s.crews) (ht : t.teams = s.teams) (ci : Nat) : monqFree t ci = monqFree s ci := by
  unfold monqFree armedCount State.team State.crew
  rw [hc, ht]

theorem sleepersOn_congr {s t : State} (hc : ∀ i, (t.crew i).ctx = (s.crew i).ctx) (ht : t.teams = s.teams) (ctx line : Nat) :
    sleepersOn t ctx line = sleepersOn s ctx line := by
  unfold sleepersOn
  simp only [hc, ht]

theorem wake_wake (t : Team) : t.wake.wake = t.wake := by
  unfold Team.wake
  cases h : t.status <;> simp [h]

/-- Each team named is woken, whether once or more. -/
theorem wakeAll_team (w : List (Nat × Nat)) (s : State) (j : Nat) :
    (w.foldl (fun s x => wakeTeam s x.2) s).team j = if (w.map (·.2)).contains j then (s.team j).wake else s.team j := by
  induction w generalizing s with
  | nil => rfl
  | cons x r ih =>
    rw [List.foldl_cons, ih, List.map_cons, List.contains_cons, wakeTeam]
    by_cases hj : j = x.2
    · subst hj
      rw [updTeam_team, wake_wake, beq_self_eq_true, Bool.true_or, if_pos rfl, ite_self]
    · rw [updTeam_team_ne _ _ _ _ hj, beq_eq_false_iff_ne.2 hj, Bool.false_or]

theorem wakeAll_lasting (w : List (Nat × Nat)) (s : State) : (w.foldl (fun s x => wakeTeam s x.2) s).lasting = s.lasting :=
  foldl_keeps (fun s (x : Nat × Nat) => wakeTeam s x.2) State.lasting (fun _ _ => updTeam_lasting _ _ (wake_lasting _)) w s

/-- S results written at once, and the end of the instruction. -/
theorem UCtx.now_eq (u : UCtx) (s : State) {d : Opnd} (hd : okS d = true) (v : Nat) :
    u.now s [(d, v)] = retire (s.updTeam u.ti (·.putS d (w64 v))) u.ti u.op 1 u.ps true [] := by
  obtain ⟨n, rfl⟩ | rfl := okS_cases d hd <;> rfl

theorem settled_agent (s : State) (lane : Option Nat) : teamAgent s.settled s.cur lane = teamAgent s s.cur lane := by
  simp only [teamAgent, settled_team]
  rfl

/-- What a WAITA's own part has found: its place, and the word there not poisoned. -/
theorem waita_compares {s s' : State} {d a b : Opnd} {e va : Nat} {p : Place} (h : ready s = true) (hd : okS d = true) (ha : okS a = true)
    (hb : okS b = true) (hty : mrType s.me.mr < 16) (hscope : mrScope s.me.mr ≠ 7) (he : e = if mr64 s.me.mr then 8 else 4)
    (hva : va = (sVal s.me a).toNat) (halign : va % e = 0) (hlt : va < 2 ^ 52) (hdraft : (s.crew s.me.crew).drafting = false)
    (hp : place s.settled (teamAgent s s.cur none) .load va = (s', p))
    (hreach : (∃ k, p = .phys k) ∨ ((∃ c o, p = .scratch c o) ∧ windowPlace s (teamAgent s s.cur none) (va + e - 1) ≠ .prot))
    (hbad : (teamRead s' s.me.crew p e).2 = false) :
    ∃ (u : UCtx) (s1 : State), AtPass s 0xAA u ∧ s1.uncached = s'.uncached ∧ (s1.team s.cur).flight = [] ∧
      (ofLE (teamRead s' s.me.crew p e).1 ≠ (sVal s.me b).toNat % 2 ^ (8 * e) →
        exec (.waita d a b) s = .next (u.now (s1.acquire s.cur (mrScope s.me.mr)) [(d, 1)])) ∧
      (ofLE (teamRead s' s.me.crew p e).1 = (sVal s.me b).toNat % 2 ^ (8 * e) → p.host = true ∨ monqFree s' s.me.crew = 0 →
        exec (.waita d a b) s = .next (u.now (s1.acquire s.cur (mrScope s.me.mr)) [(d, 2)])) ∧
      (ofLE (teamRead s' s.me.crew p e).1 = (sVal s.me b).toNat % 2 ^ (8 * e) → p.host = false → monqFree s' s.me.crew ≠ 0 →
        exec (.waita d a b) s = .next (stopped s s.cur (u.part s1.tick.2 (.sleep { line := p.line, order := s1.order })))) := by
  obtain ⟨u, hu, hok, hstop⟩ := uniform_run h (fields := [fld d okS, fld a okS, fld b okS]) (by simp [fld, hd, ha, hb])
    (show exec (.waita d a b) s = execWaita d a b s from rfl)
    (congrArg (fun ty => uniform s s.cur s.me 0xAA (wordF3 0xAA d a b) false [fld d okS, fld a okS, fld b okS] ty [a, b] [d] _ true)
      (show (decide (mrType s.me.mr < 16) && mrScope s.me.mr != 7) = true by simp [hty, hscope]))
  have hlast : s'.lasting = s.lasting := by
    have hl := place_lasting s.settled (teamAgent s s.cur none) .load va
    rw [hp] at hl
    exact hl.trans (settled_lasting s)
  have hflight : (s'.team s.cur).flight = [] := (congrArg Team.flight (team_of_lasting hlast s.cur) :).trans (ready_flight h)
  have hseen : (seenBy s' (s'.crew s.me.crew).core p e).uncached = s'.uncached := seenBy_uncached _ _ _ _
  have hus : (if (outsideScratch va && va % e == 0) = true then endIdem u.s s.me.crew else u.s) = s.settled := by
    rw [endIdem_of_not ((congrArg Crew.drafting (hu.only.crew _)).trans hdraft), ite_self, hu.state]
  have hplace : uniformPlace s.settled s.cur .load va e true = .ok (s', p) := by
    rw [← settled_agent] at hp hreach
    refine uniformPlace_ok (fun _ => halign) hlt (fun hlo => ?_) hp (hreach.imp_right And.left)
    have hw := window_of_place hlt hp hlo
    obtain ⟨k, rfl⟩ | ⟨⟨c, o, rfl⟩, hend⟩ := hreach
    · obtain hc | ⟨c, o, hc⟩ := windowPlace_cases s.settled (teamAgent s.settled s.cur none) va <;> rw [hc] at hw <;> cases hw
    · exact ⟨fun hc => (by rw [hc] at hw; cases hw), hend⟩
  have hmonq : monqFree (seenBy s' (s'.crew s.me.crew).core p e) s.me.crew = monqFree s' s.me.crew :=
    monqFree_congr (crews_of_uncached hseen) (teams_of_uncached hseen) _
  subst he
  refine ⟨u, _, hu, hseen, (congrArg Team.flight (team_of_uncached hseen s.cur)).trans hflight, fun hne => hok _ ?_, fun heq hwhy => hok _ ?_,
    fun heq hhost hfree => hstop _ ?_⟩
  · dsimp only
    rw [hu.rd h ha, ← hva, hus]
    simp only [hplace, ok_bind, hu.poison, hbad, closeLate_nil hflight, hu.rd h hb, if_pos hne, Bool.false_eq_true, if_false]
  · have hor : (p.host || monqFree (seenBy s' (s'.crew s.me.crew).core p (if mr64 s.me.mr then 8 else 4)) s.me.crew == 0) = true := by
      rw [hmonq]
      simpa using hwhy
    dsimp only
    rw [hu.rd h ha, ← hva, hus]
    simp only [hplace, ok_bind, hu.poison, hbad, closeLate_nil hflight, hu.rd h hb, if_neg (not_not.2 heq), hor, Bool.false_eq_true, if_true, if_false]
  · have hor : (p.host || monqFree (seenBy s' (s'.crew s.me.crew).core p (if mr64 s.me.mr then 8 else 4)) s.me.crew == 0) = false := by
      rw [hmonq, hhost]
      simpa using hfree
    dsimp only
    rw [hu.rd h ha, ← hva, hus]
    simp only [hplace, ok_bind, hu.poison, hbad, closeLate_nil hflight, hu.rd h hb, if_neg (not_not.2 heq), hor, Bool.false_eq_true, if_false]
    rfl

theorem commit_pc (t : Team) (c : Nat) : (t.commit c).pc = t.pc := by
  unfold Team.commit
  exact foldl_keeps (fun (t : Team) (w : PendWrite) => t.put w.reg w.lane w.val) Team.pc (fun t w => put_pc t _ _ _) _ _

/-- The end of a sleep as a pass of its own: the team has acquired, and what is due of its writes is performed. -/
def returning (s : State) (ti : Nat) : UCtx :=
  let c := firstCycle s.draw.2 ti 1 + Config.delay s.draw.1
  let s' := settle (s.draw.2.acquire ti (mrScope (s.team ti).mr)) ti c
  { s := s', ti := ti, t := s'.team ti, c := c, ps := [{ lo := 0, n := 0, at_ := c }], op := 0xAA }

/-- The return of a sleep that has ended (R358): 0 in Sd, and the team goes on. -/
theorem waitaWakeReturn_runs {s : State} {ti : Nat} {d a b : Opnd} {m : Monitor} (hd : okS d = true) (hst : (s.team ti).status = .sleep m)
    (hwoken : m.woken = true) (hdec : decodeAt (s.team ti).octet (s.team ti).pc.toNat = some (.waita d a b))
    (hres : (s.crew (s.team ti).crew).resident = true) (hctx : ctxRuns s (s.crew (s.team ti).crew).ctx = true) :
    ∃ t, exec (.waitaWakeReturn ti) s = .next t ∧ (t.team ti).pc = nextPc (s.team ti).pc 1 ∧ (t.team ti).status = .run ∧
      Sys2Proof.Claims.holdsS (t.team ti) d 0 ∧ ∀ j, j ≠ ti → t.team j = s.team j := by
  obtain ⟨hpc, hother⟩ := acquire_team s.draw.2 ti (mrScope (s.team ti).mr)
  have hexec : exec (.waitaWakeReturn ti) s = .next ((returning s ti).now (returning s ti).s [(d, 0)]) := by
    show Host.Outcome.next (wakeReturn s ti) = _
    unfold wakeReturn
    simp only [hst, hdec, hwoken, hres, hctx, Bool.and_self, if_true]
    rfl
  rw [UCtx.now_eq _ _ hd] at hexec
  have hme := retire_me ((returning s ti).s.updTeam ti (·.putS d (w64 0))) ti 0xAA 1 (returning s ti).ps true []
  have hteam : (returning s ti).s.team ti = ((s.draw.2.acquire ti (mrScope (s.team ti).mr)).team ti).commit (returning s ti).c := updTeam_team _ _ _
  rw [updTeam_team, hteam, List.append_nil] at hme
  refine ⟨_, hexec, (congrArg Team.pc hme :).trans ?_, retire_status _ _ _ _ _ _ _, holdsS_congr (congrArg Team.s hme :) (holdsS_putS _ d 0), fun j hj => ?_⟩
  · exact congrArg (nextPc · 1) ((putS_pc _ d _).trans ((commit_pc _ _).trans hpc))
  · refine ((retire_onlyTeam _ _ _ _ _ _ _).2.1 j hj).trans ((updTeam_team_ne _ _ _ _ hj).trans ((updTeam_team_ne _ _ _ _ hj).trans (hother j hj)))

/-- A release of a team with nothing in flight leaves every team as it was, and every crew in its context. -/
theorem release_teams {s : State} {ti : Nat} (h : (s.team ti).flight = []) (scope : Nat) :
    (s.release ti scope).teams = s.teams ∧ (s.release ti scope).lasting = s.lasting ∧ ∀ i, ((s.release ti scope).crew i).ctx = (s.crew i).ctx := by
  have hrel := releaseAt_uncached s (s.team ti).crew scope
  have hcrew (i : Nat) : (releaseAt s (s.team ti).crew scope).crew i = s.crew i := crew_of_crews (crews_of_uncached hrel) i
  unfold State.release
  dsimp only
  rw [closeLate_nil h]
  split
  · refine ⟨(teams_of_uncached hrel :), (lasting_of_uncached hrel :), fun i => ?_⟩
    by_cases hi : i = (s.team ti).crew
    · rw [hi, State.updCrew, setCrew_crew, hcrew]
    · rw [State.updCrew, setCrew_crew_ne _ _ _ _ hi, hcrew]
  · exact ⟨teams_of_uncached hrel, lasting_of_uncached hrel, fun i => congrArg Crew.ctx (hcrew i)⟩

/-- What a WAKE's own part has found: its place, and the team's release performed. -/
theorem wake_runs {s s' : State} {d a : Opnd} {va : Nat} {p : Place} (h : ready s = true) (hd : okS d = true) (ha : okS a = true)
    (hscope : mrScope s.me.mr ≠ 7) (hva : va = (sVal s.me a).toNat) (hlt : va < 2 ^ 52) (hdraft : (s.crew s.me.crew).drafting = false)
    (hp : place s.settled (teamAgent s s.cur none) .load va = (s', p)) (hreach : (∃ k, p = .phys k) ∨ ∃ c o, p = .scratch c o) :
    ∃ (u : UCtx) (s1 : State), AtPass s 0xAB u ∧ s1.teams = s'.teams ∧ s1.lasting = s.lasting ∧ (∀ i, (s1.crew i).ctx = (s'.crew i).ctx) ∧
      (p.host = true → exec (.wake d a (.v 0)) s = .next (u.now s1 [(d, 0)])) ∧
      (p.host = false → ∀ w, w = (if sVal s.me d = 0 then sleepersOn s1 (s1.crew s.me.crew).ctx p.line
          else (sleepersOn s1 (s1.crew s.me.crew).ctx p.line).take (sVal s.me d).toNat) →
        exec (.wake d a (.v 0)) s = .next (u.now (w.foldl (fun s x => wakeTeam s x.2) s1) [(d, w.length)])) := by
  obtain ⟨u, hu, hok, -⟩ := uniform_run h (fields := [fld d okS, fld a okS, fld (.v 0) okZero]) (by simp [fld, hd, ha, okZero])
    (show exec (.wake d a (.v 0)) s = execWake d a (.v 0) s from rfl)
    (congrArg (fun ty => uniform s s.cur s.me 0xAB (wordF3 0xAB d a (.v 0)) false [fld d okS, fld a okS, fld (.v 0) okZero] ty [d, a] [d] _ true)
      (show (mrScope s.me.mr != 7) = true by simp [hscope]))
  have hlast : s'.lasting = s.lasting := by
    have hl := place_lasting s.settled (teamAgent s s.cur none) .load va
    rw [hp] at hl
    exact hl.trans (settled_lasting s)
  have hflight : (s'.team s.cur).flight = [] := (congrArg Team.flight (team_of_lasting hlast s.cur) :).trans (ready_flight h)
  have hcrew : (s'.team s.cur).crew = s.me.crew := (congrArg Team.crew (team_of_lasting hlast s.cur) :)
  obtain ⟨hteams, hrel, hctx⟩ := release_teams hflight (mrScope s.me.mr)
  have hus : (if outsideScratch va = true then endIdem u.s s.me.crew else u.s) = s.settled := by
    rw [endIdem_of_not ((congrArg Crew.drafting (hu.only.crew _)).trans hdraft), ite_self, hu.state]
  have hplace : uniformPlace s.settled s.cur .load va 1 false = .ok (s', p) := by
    rw [← settled_agent] at hp
    refine uniformPlace_ok nofun hlt (fun hlo => ?_) hp hreach
    have hw := window_of_place hlt hp hlo
    have hnot : windowPlace s.settled (teamAgent s.settled s.cur none) va ≠ .prot := fun hc => by
      rw [hc] at hw
      obtain ⟨k, rfl⟩ | ⟨c, o, rfl⟩ := hreach <;> cases hw
    exact ⟨hnot, hnot⟩
  refine ⟨u, s'.release s.cur (mrScope s.me.mr), hu, hteams, hrel.trans hlast, hctx, fun hhost => hok _ ?_, ?_⟩
  · dsimp only
    rw [hu.rd h ha, ← hva, hus]
    simp only [hplace, ok_bind, hu.poison, hhost, if_true]
  · rintro hhost w rfl
    have hz : (u.rd d = 0) = (sVal s.me d = 0) := by rw [hu.rd h hd, eq_iff_iff]; exact (BitVec.toNat_eq (y := 0)).symm
    refine hok _ ?_
    dsimp only
    rw [hu.rd h ha, ← hva, hus]
    simp only [hplace, ok_bind, hu.poison, hhost, Bool.false_eq_true, if_false, hz]
    rw [hu.rd h hd]

/-- Settles O28. -/
theorem sleepsAndWakes : Obligations.SleepsAndWakes := by
  unfold Obligations.SleepsAndWakes
  refine ⟨?waita, fun s ti d a b m hd hst hwoken hdec hres hctx => waitaWakeReturn_runs hd hst hwoken hdec hres hctx, ?wake⟩
  case waita =>
    rintro s s' d a b e va m p h hd ha hb hty hscope he hva halign hlt hdraft hp hreach hbad rfl
    obtain ⟨u, s1, hu, hs1, hflight, hdiffers, hnone, hsleeps⟩ := waita_compares h hd ha hb hty hscope he hva halign hlt hdraft hp hreach hbad
    have hlast : s1.lasting = s.lasting := by
      have hl := place_lasting s.settled (teamAgent s s.cur none) .load va
      rw [hp] at hl
      exact (lasting_of_uncached hs1).trans (hl.trans (settled_lasting s))
    have hgoes (v : Nat) := hu.now_goes ((lasting_of_uncached (acquire_uncached hflight (mrScope s.me.mr))).trans hlast) hd v
    refine ⟨fun hne => ⟨_, hdiffers hne, hgoes 1⟩, fun heq hwhy => ⟨_, hnone heq hwhy, hgoes 2⟩, fun heq hhost hfree => ?_⟩
    obtain ⟨t, hpart, honly, hstatus, hpc⟩ := hu.part_me s1.tick.2 (.sleep { line := p.line, order := s1.order })
    have hcur : t.cur = s.cur := honly.cur.trans (cur_of_lasting hlast)
    refine ⟨t, (hsleeps heq hhost hfree).trans (by rw [hpart]; rfl), ?_, ?_⟩
    · rw [State.me, hcur, hpc]
      exact (congrArg Team.pc (team_of_lasting hlast s.cur) :)
    · rw [State.me, hcur, hstatus, order_of_uncached hs1]
  case wake =>
    intro s s' d a va p h hd ha hscope hva hlt hdraft hp hreach
    obtain ⟨u, s1, hu, hteams, hlast, hctx, hhost, hwakes⟩ := wake_runs h hd ha hscope hva hlt hdraft hp hreach
    have hteam (j : Nat) : s1.team j = s'.team j := by rw [State.team, hteams, State.team]
    refine ⟨fun hh => ?_, ?_⟩
    · obtain ⟨hpc, hrun, hv⟩ := hu.now_goes hlast hd 0
      exact ⟨_, hhost hh, hpc, hrun, hv, fun j hj => ((hu.now_only s1 hd 0).2.1 j hj).trans (hteam j)⟩
    · rintro hh w hw
      have hcrew : (s1.crew s.me.crew).ctx = (s.crew s.me.crew).ctx := by
        have hc := place_crews s.settled (teamAgent s s.cur none) .load va
        rw [hp] at hc
        exact (hctx _).trans (congrArg Crew.ctx (crew_of_crews hc _))
      rw [← sleepersOn_congr hctx hteams, ← hcrew] at hw
      have hwake := wakeAll_lasting w s1
      obtain ⟨hpc, hrun, hv⟩ := hu.now_goes (hwake.trans hlast) hd w.length
      refine ⟨_, hwakes hh w hw, hpc, hrun, hv, fun j hj => ?_⟩
      rw [(hu.now_only _ hd _).2.1 j hj, wakeAll_team, hteam]

end Sys2Proof.Machine
end

section
/-! SUPPORT. The SYS registers, the fabric counters and ROLE (20 R398, R399, R413, R415): O40. -/

namespace Sys2Proof.Machine

/-! ### SYS registers -/

theorem govAt_specDrop (c : Core) (k : Nat) : (govAt c k).specDrop = c.specDrop := by
  unfold govAt
  split <;> rfl

/-- The registers of R398 that do not depend on the cycle in which they are read. -/
def steadySys (s : State) : List (Nat × Nat) :=
  let c := s.crew s.me.crew
  [(0x00, s.me.id), (0x01, 2 ^ s.me.lanesLog), (0x02, s.me.nregs), (0x03, c.ix), (0x04, c.ix % (s.crewRec s.me.crew).gx),
    (0x05, c.ix / (s.crewRec s.me.crew).gx % (s.crewRec s.me.crew).gy),
    (0x06, c.ix / ((s.crewRec s.me.crew).gx * (s.crewRec s.me.crew).gy)), (0x07, c.core), (0x08, c.core / 128), (0x09, s.chipId),
    (0x0A, c.rank), (0x0B, c.role), (0x0C, (s.launch c.launch).depth), (0x11, s.me.fsr.toNat), (0x12, s.me.ufc.toNat),
    (0x15, (s.core c.core).specDrop), (0x30, s.me.trapCode.toNat), (0x31, s.me.trapPc.toNat), (0x32, s.me.trapInfo0.toNat),
    (0x33, s.me.trapInfo1.toNat), (0x34, s.me.trapLane.toNat), (0x40, s.me.opCount 0), (0x41, s.me.opCount 1), (0x42, s.me.opCount 2),
    (0x43, s.me.opCount 3), (0x44, s.me.opCount 4), (0x60, monqFree s s.me.crew)]

theorem sysValue_queue (s : State) (t : Team) (k : Nat) : ∀ j < 8, sysListed (0x50 + j) = true ∧ sysValue s t k (0x50 + j) = (t.q j).bind.toNat := by
  intro j hj
  interval_cases j <;> exact ⟨rfl, rfl⟩

theorem sysValue_steady (s : State) (k : Nat) : ∀ e ∈ steadySys s, sysListed e.1 = true ∧ sysValue s s.me k e.1 = e.2 := by
  simp only [steadySys, List.forall_mem_cons]
  refine ⟨⟨rfl, rfl⟩, ⟨rfl, rfl⟩, ⟨rfl, rfl⟩, ⟨rfl, rfl⟩, ⟨rfl, rfl⟩, ⟨rfl, rfl⟩, ⟨rfl, rfl⟩, ⟨rfl, rfl⟩, ⟨rfl, rfl⟩, ⟨rfl, rfl⟩, ⟨rfl, rfl⟩, ⟨rfl, rfl⟩, ⟨rfl, rfl⟩,
    ⟨rfl, rfl⟩, ⟨rfl, rfl⟩, ⟨rfl, govAt_specDrop _ _⟩, ⟨rfl, rfl⟩, ⟨rfl, rfl⟩, ⟨rfl, rfl⟩, ⟨rfl, rfl⟩, ⟨rfl, rfl⟩, ⟨rfl, rfl⟩, ⟨rfl, rfl⟩, ⟨rfl, rfl⟩, ⟨rfl, rfl⟩,
    ⟨rfl, rfl⟩, ⟨rfl, rfl⟩, nofun⟩

theorem sysListed_lt {n : Nat} (h : sysListed n = true) : n < 0x100 := by
  simp only [sysListed, Bool.or_eq_true, Bool.and_eq_true, decide_eq_true_eq, beq_iff_eq] at h
  omega

/-- An S result written at once, and nothing else. -/
theorem AtPass.runsTo_now {i : Instr} {s : State} {op : Nat} {u : UCtx} (hu : AtPass s op u) {d : Opnd} (hd : okS d = true) (v : Nat)
    (he : exec i s = .next (u.now u.s [(d, v)])) : RunsTo i s { s.me.putS d (w64 v) with pc := nextPc s.me.pc 1 } := by
  refine runsTo_of i s _ _ he (hu.only.trans (hu.now_only _ hd _)) ?_ (hu.now_status _ hd _)
  rw [hu.now_me _ hd, hu.me, putS_pc]

theorem monqFree_settled (s : State) (ci : Nat) : monqFree s.settled ci = monqFree s ci := by
  unfold monqFree armedCount
  simp only [settled_teams]
  rfl

theorem sysValue_settled (s : State) (t : Team) (c n : Nat) : sysValue s.settled t c n = sysValue s t c n := by
  unfold sysValue
  simp only [monqFree_settled]
  rfl

/-- The operands of SYS.RD and SYS.WR. -/
def sysFields (d : Opnd) (n : Nat) : List (Nat × Bool) := [fld d okS, (n, decide (0x100 ≤ n) || sysListed n)]

theorem sysFields_ok {d : Opnd} {n : Nat} (hd : okS d = true) (hn : (decide (0x100 ≤ n) || sysListed n) = true) : (sysFields d n).all (·.2) = true := by
  simp only [sysFields, fld, hd, hn, List.all_cons, List.all_nil, Bool.and_self]

/-- What a SYS.WR of value v to register n makes of the team. -/
def sysWritten (n v : Nat) (t : Team) : Team :=
  if n = 0x11 then { t with fsr := w64 (v % 32) }
  else if n = 0x12 then { t with ufc := w64 v }
  else if n = 0x31 then { t with trapPc := w64 v, trapNext := none }
  else if 0x50 ≤ n ∧ n ≤ 0x57 then t.setQ (n - 0x50) { t.q (n - 0x50) with bind := w64 v }
  else t

/-- The own parts of SYS.RD and SYS.WR. -/
def sysRdPart (d : Opnd) (n : Nat) (u : UCtx) : Except Stop State :=
  if 0x100 ≤ n then .error (trapAt 0x15 n 0) else .ok (u.now u.s [(d, sysValue u.s u.t u.c n)])
def sysWrPart (d : Opnd) (n ti : Nat) (u : UCtx) : Except Stop State :=
  if 0x100 ≤ n ∨ n = 0x13 ∨ n = 0x14 then .error (trapAt 0x15 n 0)
  else if 0x50 ≤ n && n ≤ 0x57 && !bindOk u.s u.t (n - 0x50) (u.rd d) then .error (trapOpen u.s 0x02 n)
  else .ok (u.done (u.s.updTeam ti (sysWritten n (u.rd d))) [] 0)

theorem exec_sysRd (d : Opnd) (n : BitVec 16) (s : State) : exec (.sysRd d n) s =
    runInstr s (fun ti t => uniform s ti t 0xE0 (wordFI 0xE0 d n) false (sysFields d n.toNat) true [] [d] (sysRdPart d n.toNat)) := rfl
theorem exec_sysWr (d : Opnd) (n : BitVec 16) (s : State) : exec (.sysWr d n) s =
    runInstr s (fun ti t => uniform s ti t 0xE1 (wordFI 0xE1 d n) false (sysFields d n.toNat) true [d] [] (sysWrPart d n.toNat ti)) := rfl

/-- SYS.RD of a listed register gives its value in the cycle of the pass. -/
theorem sysRd_runs {s : State} {d : Opnd} {n : BitVec 16} (h : ready s = true) (hd : okS d = true) :
    ∃ k, (s.core (s.crew s.me.crew).core).cycle ≤ k ∧ (sysListed n.toNat = true →
      RunsTo (.sysRd d n) s { s.me.putS d (w64 (sysValue s s.me k n.toNat)) with pc := nextPc s.me.pc 1 }) := by
  by_cases hlisted : sysListed n.toNat = true
  · obtain ⟨u, hu, hok, -⟩ := uniform_run h (sysFields_ok hd (by rw [hlisted, Bool.or_true])) (exec_sysRd d n s) rfl
    refine ⟨u.c, hu.cycle, fun _ => hu.runsTo_now hd _ (hok _ ?_)⟩
    rw [sysRdPart, if_neg (Nat.not_le.2 (sysListed_lt hlisted)), hu.team, hu.state, sysValue_settled]
  · exact ⟨_, Nat.le_refl _, fun hl => absurd hl hlisted⟩

theorem sysWritten_pend (n v : Nat) (t : Team) : (sysWritten n v t).pend = t.pend := by
  unfold sysWritten
  (repeat' split) <;> rfl

/-- SYS.WR of a listed register but the governor's, and of a binding that is allowed. -/
theorem sysWr_runs {s : State} {d : Opnd} {n : BitVec 16} (h : ready s = true) (hd : okS d = true) (hlisted : sysListed n.toNat = true)
    (hgov : n.toNat ≠ 0x13 ∧ n.toNat ≠ 0x14)
    (hbind : 0x50 ≤ n.toNat → n.toNat ≤ 0x57 → bindOk s s.me (n.toNat - 0x50) (sVal s.me d).toNat = true) :
    RunsTo (.sysWr d n) s (sysWritten n.toNat (sVal s.me d).toNat s.me).stepped := by
  obtain ⟨u, hu, hok, -⟩ := uniform_run h (sysFields_ok hd (by rw [hlisted, Bool.or_true])) (exec_sysWr d n s) rfl
  have hpriv : ¬(0x100 ≤ n.toNat ∨ n.toNat = 0x13 ∨ n.toNat = 0x14) := by
    have := sysListed_lt hlisted
    omega
  have hbad : (decide (0x50 ≤ n.toNat) && decide (n.toNat ≤ 0x57) && !bindOk u.s u.t (n.toNat - 0x50) (sVal s.me d).toNat) = false := by
    rw [hu.team, hu.state]
    by_cases hq : 0x50 ≤ n.toNat ∧ n.toNat ≤ 0x57
    · simp [show bindOk s.settled s.me (n.toNat - 0x50) (sVal s.me d).toNat = true from hbind hq.1 hq.2]
    · rw [Bool.and_eq_false_iff]
      left
      simpa using hq
  refine hu.runsTo_done (hu.only_upd (sysWritten n.toNat (sVal s.me d).toNat)) (hu.me_upd _) ((sysWritten_pend _ _ _).trans (ready_pend h)) (hok _ ?_)
  simp only [sysWrPart, if_neg hpriv, hu.rd h hd, hbad, Bool.false_eq_true, if_false]

theorem sys_traps_privilege {s : State} {d : Opnd} {n : BitVec 16} (h : ready s = true) (hd : okS d = true) :
    (0x100 ≤ n.toNat → Traps (.sysRd d n) s 0x15 n.toNat 0) ∧
    (0x100 ≤ n.toNat ∨ n.toNat = 0x13 ∨ n.toNat = 0x14 → Traps (.sysWr d n) s 0x15 n.toNat 0) := by
  refine ⟨fun hn => ?_, fun hn => ?_⟩
  · obtain ⟨u, -, -, hstop⟩ := uniform_run h (sysFields_ok hd (by rw [decide_eq_true hn, Bool.true_or])) (exec_sysRd d n s) rfl
    exact hstop _ (if_pos hn)
  · have hlisted : (decide (0x100 ≤ n.toNat) || sysListed n.toNat) = true := by
      obtain hn | hn | hn := hn
      · simp [hn]
      · rw [hn]; rfl
      · rw [hn]; rfl
    obtain ⟨u, -, -, hstop⟩ := uniform_run h (sysFields_ok hd hlisted) (exec_sysWr d n s) rfl
    exact hstop _ (if_pos hn)

/-- A number that R398 does not list is no operand. -/
theorem sys_traps_unlisted {s : State} {d : Opnd} {n : BitVec 16} (h : ready s = true) (hd : okS d = true) (hn : n.toNat < 0x100)
    (hlisted : sysListed n.toNat = false) :
    Traps (.sysRd d n) s 0x02 n.toNat (wordFI 0xE0 d n).toNat ∧ Traps (.sysWr d n) s 0x02 n.toNat (wordFI 0xE1 d n).toNat := by
  have hfind : (sysFields d n.toNat).find? (fun f => !f.2) =
      some (n.toNat, decide (0x100 ≤ n.toNat) || sysListed n.toNat) := by
    simp [sysFields, fld, hd, hlisted, Nat.not_le.2 hn]
  exact ⟨uniform_traps_field h hfind (exec_sysRd d n s) rfl,
    uniform_traps_field h hfind (exec_sysWr d n s) rfl⟩

theorem sysWr_traps_binding {s : State} {d : Opnd} {n : BitVec 16} {k : Nat} (h : ready s = true) (hd : okS d = true) (hk : k < 8)
    (hn : n.toNat = 0x50 + k) (hbind : bindOk s s.me k (sVal s.me d).toNat = false) : ∃ i1, Traps (.sysWr d n) s 0x02 n.toNat i1 := by
  have hlisted : sysListed n.toNat = true := hn ▸ (sysValue_queue s s.me 0 k hk).1
  obtain ⟨u, hu, -, hstop⟩ := uniform_run h (sysFields_ok hd (by rw [hlisted, Bool.or_true])) (exec_sysWr d n s) rfl
  have hpriv : ¬(0x100 ≤ n.toNat ∨ n.toNat = 0x13 ∨ n.toNat = 0x14) := by omega
  have hbad : (decide (0x50 ≤ n.toNat) && decide (n.toNat ≤ 0x57) && !bindOk u.s u.t (n.toNat - 0x50) (sVal s.me d).toNat) = true := by
    rw [hu.team, hu.state, hn, Nat.add_sub_cancel_left]
    simp [show bindOk s.settled s.me k (sVal s.me d).toNat = false from hbind]
    omega
  exact ⟨_, hstop (trapOpen u.s 0x02 n.toNat) (by simp only [sysWrPart, if_neg hpriv, hu.rd h hd, hbad, if_true])⟩

/-! ### Fabric counters and ROLE -/

theorem ctrAdd_counter (s : State) (ctx k n j : Nat) :
    ((ctrAdd s ctx k n).ctx ctx).counter j = if j = k then ((s.ctx ctx).counter k + n) % 2 ^ 64 else (s.ctx ctx).counter j := by
  rw [ctrAdd, updCtx_ctx]
  unfold Ctx.counter
  dsimp only
  split
  · next hj => rw [hj, cget_cset_self]; exact BitVec.toNat_ofNat _ _
  · next hj => rw [cget_cset_ne _ _ _ _ _ hj]

/-- A release of a team of a crew that does not draft. -/
theorem release_of_not {s : State} {ti : Nat} (h : (s.team ti).flight = []) (hd : (s.crew (s.team ti).crew).drafting = false) (scope : Nat) :
    s.release ti scope = releaseAt s (s.team ti).crew scope := by
  have hcrew := crew_of_crews (crews_of_uncached (releaseAt_uncached s (s.team ti).crew scope)) (s.team ti).crew
  unfold State.release
  dsimp only
  rw [closeLate_nil h, hcrew, hd]
  rfl

/-- Settles O40. -/
theorem systemRegisters : Obligations.SystemRegisters := by
  unfold Obligations.SystemRegisters
  rintro s d a b n h hd ha hb _ rfl
  obtain ⟨k, hk, hrd⟩ := sysRd_runs (n := n) h hd
  refine ⟨fun e he hn => ?_, ⟨k, hk, ?_⟩, ?writes, fun hn => ⟨(sys_traps_privilege h hd).1 hn, (sys_traps_privilege h hd).2 (.inl hn)⟩,
    fun hn => (sys_traps_privilege h hd).2 (.inr hn), fun hn hl => sys_traps_unlisted h hd hn hl,
    fun j hj hn hb => sysWr_traps_binding h hd hj hn hb, ?counters, ?role⟩
  · have hval : sysListed e.1 = true ∧ sysValue s s.me k e.1 = e.2 := by
      obtain he | he := List.mem_append.1 he
      · exact sysValue_steady s k e he
      · obtain ⟨j, hj, rfl⟩ := List.mem_map.1 he
        exact sysValue_queue s s.me k j (List.mem_range.1 hj)
    obtain ⟨hlisted, hv⟩ := hval
    rw [← hn] at hlisted hv
    exact hv ▸ hrd hlisted
  · rintro g rfl
    have hread {m v : Nat} (hl : sysListed m = true) (hv : w64 (sysValue s s.me k m) = w64 v) (hn : n.toNat = m) :
        RunsTo (.sysRd d n) s { s.me.putS d (w64 v) with pc := nextPc s.me.pc 1 } := by
      rw [← hn] at hl hv
      exact hv ▸ hrd hl
    simp only [List.forall_mem_cons]
    refine ⟨hread rfl ?_, hread rfl rfl, hread rfl rfl, nofun⟩
    exact BitVec.eq_of_toNat_eq (by simp [sysValue, w64])
  case writes =>
    rintro _ rfl
    have hset {m : Nat} (hn : n.toNat = m) (hl : sysListed m = true) (hg : m ≠ 0x13 ∧ m ≠ 0x14) (hq : ¬(0x50 ≤ m ∧ m ≤ 0x57)) :
        RunsTo (.sysWr d n) s (sysWritten m (sVal s.me d).toNat s.me).stepped := by
      subst hn
      exact sysWr_runs h hd hl hg (fun h1 h2 => absurd ⟨h1, h2⟩ hq)
    refine ⟨fun hn => hset hn rfl (by decide) (by decide), fun hn => hset hn rfl (by decide) (by decide), fun hn => hset hn rfl (by decide) (by decide), ?_, ?_⟩
    · intro j hj hn hbind
      have hrun := sysWr_runs h hd (hn ▸ (sysValue_queue s s.me 0 j hj).1) (by omega) (fun _ _ => by rw [hn, Nat.add_sub_cancel_left]; exact hbind)
      rw [hn, sysWritten, if_neg (by omega), if_neg (by omega), if_neg (by omega), if_pos (by omega), Nat.add_sub_cancel_left] at hrun
      exact hrun
    · intro hn
      have hlisted : sysListed n.toNat = true := by
        simp only [sysListed, Bool.or_eq_true, Bool.and_eq_true, decide_eq_true_eq, beq_iff_eq]
        omega
      have hrun := sysWr_runs h hd hlisted (by omega) (fun _ _ => by omega)
      rw [sysWritten, if_neg (by omega), if_neg (by omega), if_neg (by omega), if_neg (by omega)] at hrun
      exact hrun
  case counters =>
    rintro _ rfl hlt hdraft
    have hbig : ¬(sVal s.me a).toNat / 256 ≠ 0 := by omega
    refine ⟨?_, ?_⟩
    · obtain ⟨u, hu, hok, -⟩ := uniform_run h (fields := [fld (.v 0) okZero, fld a okS, fld b okS]) (by simp [fld, ha, hb, okZero])
        (show exec (.ctrAdd (.v 0) a b) s = execCtrAdd (.v 0) a b s from rfl) rfl
      have hd' : (u.s.crew s.me.crew).drafting = false := (congrArg Crew.drafting (hu.only.crew _)).trans hdraft
      have hrel : u.s.release s.cur 5 = releaseAt u.s s.me.crew 5 := by
        rw [release_of_not (hu.flight h) (by rw [hu.me]; exact hd'), hu.me]
      have hun := releaseAt_uncached u.s s.me.crew 5
      have hexec := hok _ (by
        simp only [hu.rd h ha, hu.rd h hb, if_neg hbig, endIdem_of_not hd', hrel]
        rfl)
      have hcounter (j : Nat) : ((releaseAt u.s s.me.crew 5).ctx (s.crew s.me.crew).ctx).counter j = (s.ctx (s.crew s.me.crew).ctx).counter j := by
        rw [State.ctx, (congrArg State.ctxs (eq_of_uncached hun) :), hu.only.ctxs, State.ctx]
      have hteam : (releaseAt u.s s.me.crew 5).team s.cur = s.me := (team_of_uncached hun s.cur).trans hu.me
      have honly := hu.done_only (ctrAdd (releaseAt u.s s.me.crew 5) (s.crew s.me.crew).ctx (sVal s.me a).toNat (sVal s.me b).toNat) [] 0 false
      have hme := hu.done_me (ctrAdd (releaseAt u.s s.me.crew 5) (s.crew s.me.crew).ctx (sVal s.me a).toNat (sVal s.me b).toNat) [] 0 false
      have hcur : (u.done (ctrAdd (releaseAt u.s s.me.crew 5) (s.crew s.me.crew).ctx (sVal s.me a).toNat (sVal s.me b).toNat) [] 0).cur = s.cur :=
        honly.cur.trans ((congrArg State.cur hun :).trans hu.only.cur)
      have hctx (j : Nat) : ((u.done (ctrAdd (releaseAt u.s s.me.crew 5) (s.crew s.me.crew).ctx (sVal s.me a).toNat (sVal s.me b).toNat) [] 0).ctx
          (s.crew s.me.crew).ctx).counter j = if j = (sVal s.me a).toNat then ((s.ctx (s.crew s.me.crew).ctx).counter (sVal s.me a).toNat +
            (sVal s.me b).toNat) % 2 ^ 64 else (s.ctx (s.crew s.me.crew).ctx).counter j := by
        rw [State.ctx, honly.ctxs]
        exact (ctrAdd_counter _ _ _ _ j).trans (by rw [hcounter, hcounter])
      refine ⟨_, hexec, ?_, ?_, (hctx _).trans (if_pos rfl), fun j hj => (hctx j).trans (if_neg hj)⟩
      · rw [State.me, hcur]
        refine hme.trans ?_
        rw [show (ctrAdd (releaseAt u.s s.me.crew 5) (s.crew s.me.crew).ctx (sVal s.me a).toNat (sVal s.me b).toNat).team s.cur = s.me from hteam]
        simp only [doneWrites, List.flatMap_nil, List.append_nil, Team.stepped]
      · rw [State.me, hcur]
        exact hu.done_status _ _ _ _
    · obtain ⟨u, hu, hok, -⟩ := uniform_run h (fields := [fld d okS, fld a okS, fld (.v 0) okZero]) (by simp [fld, hd, ha, okZero])
        (show exec (.ctrRd d a (.v 0)) s = execCtrRd d a (.v 0) s from rfl) rfl
      have hexec := hok _ (by
        simp only [hu.rd h ha, if_neg hbig]
        rfl)
      have hun := acquire_uncached (hu.flight h) 5
      have hteam : (u.s.acquire s.cur 5).team s.cur = s.me := (team_of_uncached hun s.cur).trans hu.me
      have hcur : (u.s.acquire s.cur 5).cur = s.cur := (congrArg State.cur hun :).trans hu.only.cur
      have hbase : OnlyTeam s.cur (s.acquire s.cur 5) (u.s.acquire s.cur 5) := by
        rw [State.acquire, State.acquire, closeLate_nil (hu.flight h), closeLate_nil (ready_flight h), hu.me, hu.state]
        exact ⟨rfl, fun j hj => setTeam_team_ne _ _ _ _ hj, fun _ => rfl⟩
      refine ⟨_, hexec, ?_, ?_, hbase.trans (hu.now_only _ hd _)⟩
      · rw [State.me, (hu.now_only _ hd _).cur.trans hcur]
        refine (hu.now_me _ hd _).trans ?_
        rw [hteam, putS_pc, State.ctx, hu.only.ctxs, State.ctx]
      · rw [State.me, (hu.now_only _ hd _).cur.trans hcur]
        exact hu.now_status _ hd _
  case role =>
    intro hq
    obtain ⟨u, hu, hok, -⟩ := uniform_run h (fields := [fld d okS, fld a okS, fld (.v 0) okZero]) (by simp [fld, hd, ha, okZero])
      (show exec (.role d a (.v 0)) s = execRole d a (.v 0) s from rfl) rfl
    refine hu.runsTo_now hd _ (hok _ ?_)
    simp only [hq, hu.poison, if_true, ok_bind]

end Sys2Proof.Machine
end

section
/-! SUPPORT. What a command leaves of its team (08 R160), records read at issue (20 R426), and how remote commands complete and triggered sends go
(20 R410 to R412, 07 R156): O49. -/

namespace Sys2Proof.Machine

/-! ### Records read at issue leave every crew and every launch record as it was -/

theorem placeVa_manned (s : State) (a : Agent) (acc : Acc) (va : Nat) : (placeVa s a acc va).1.manned = s.manned := by
  have h := place_manned s a acc va
  unfold placeVa
  split <;> next e => rw [e] at h; exact h

theorem placesOf_manned (a : Agent) (acc : Acc) (ps : List (Nat × Nat)) (s : State) : (placesOf s a acc ps).1.manned = s.manned := by
  induction ps generalizing s with
  | nil => rfl
  | cons p r ih =>
    have hp := placeVa_manned s a acc p.1
    unfold placesOf
    split
    · next e => rw [e] at hp; exact hp
    · next s1 _ e =>
      rw [e] at hp
      have hr := (ih s1).trans hp
      split
      · exact hp
      · split <;> next e => rw [e] at hr; exact hr

/-- A record is read at issue: teams keep what lasts of them, and crews and launch records are as they were. -/
theorem issueRead_keeps {s s1 : State} {ti va n : Nat} {r : List Byte} (hf : (s.team ti).flight = []) (h : issueRead s ti va n = .ok (s1, r)) :
    s1.lasting = s.lasting ∧ s1.manned = s.manned := by
  have hl := placesOf_lasting (teamAgent s ti none) .load (piecesOf va n) s
  have hc := placesOf_manned (teamAgent s ti none) .load (piecesOf va n) s
  unfold issueRead at h
  split at h
  · cases h
  · cases h
  · cases h
  · next s2 ps e =>
    rw [e] at hl hc
    dsimp only at hl hc h
    have hclose : closeLate s2 ti = s2 := closeLate_nil ((congrArg Team.flight (team_of_lasting hl ti) :).trans hf)
    split at h
    · cases h
    · cases h
      exact ⟨(congrArg State.lasting hclose).trans hl, (congrArg State.manned hclose).trans hc⟩

theorem issueBinding_keeps {s s1 : State} {ti role : Nat} {n : Option Nat} {e : Option Binding} (hf : (s.team ti).flight = [])
    (h : issueBinding s ti role = .ok (s1, n, e)) : s1.lasting = s.lasting ∧ s1.manned = s.manned := by
  unfold issueBinding at h
  dsimp only at h
  split at h
  · cases h
    exact ⟨rfl, rfl⟩
  · cases hr : issueRead s ti (((s.ctx (s.crew (s.team ti).crew).ctx).qdirBase).toNat + 16 * (s.crewRec (s.team ti).crew).quire) 16 with
    | error x => rw [hr] at h; cases h
    | ok y =>
      obtain ⟨s2, r⟩ := y
      obtain ⟨hl, hc⟩ := issueRead_keeps hf hr
      rw [hr] at h
      simp only [ok_bind] at h
      split at h
      · cases h
        exact ⟨hl, hc⟩
      · next tbl m _ =>
        split at h
        · cases h
          exact ⟨hl, hc⟩
        · cases hb : issueRead s2 ti (tbl + 8 * role) 8 with
          | error x => rw [hb] at h; cases h
          | ok y =>
            obtain ⟨s3, bs⟩ := y
            obtain ⟨hl3, hc3⟩ := issueRead_keeps ((congrArg Team.flight (team_of_lasting hl ti) :).trans hf) hb
            rw [hb] at h
            cases h
            exact ⟨hl3.trans hl, hc3.trans hc⟩

/-! ### Commands -/

/-- What a command leaves of its team's registers, beside its S registers: where it stands, its mode, its mask, and V, P and X. -/
def Team.kept (t : Team) : W64 × W64 × LaneMask × Cells W32 × Cells LaneMask × Cells (BitVec 16) := (t.pc, t.mr, t.mask, t.v, t.p, t.x)

/-- A command issued by a team with nothing in flight. -/
theorem opIssue_eq {s : State} {ti : Nat} (c : Nat) (h : (s.team ti).flight = []) :
    opIssue s ti c = (s.order, s.tick.2.updTeam ti (fun t => { t with opc := cset [] t.opc c (t.ops c ++ [(s.order, false)]) })) := by
  have hclose : closeLate s.tick.2 ti = s.tick.2 := closeLate_nil h
  unfold opIssue
  dsimp only
  rw [hclose]
  rfl

theorem opIssue_team {s : State} {ti : Nat} (c : Nat) (h : (s.team ti).flight = []) :
    (opIssue s ti c).2.team ti = { s.team ti with opc := cset [] (s.team ti).opc c ((s.team ti).ops c ++ [(s.order, false)]) } := by
  rw [opIssue_eq c h, updTeam_team]
  rfl

/-- The command is the last of its class, and no other class has another. -/
theorem ops_issued (t : Team) (c id : Nat) {t' : Team} (h : t'.opc = cset [] t.opc c (t.ops c ++ [(id, false)])) :
    t'.ops c = t.ops c ++ [(id, false)] ∧ ∀ k, k ≠ c → t'.ops k = t.ops k := by
  refine ⟨?_, fun k hk => ?_⟩
  · rw [Team.ops, h, cget_cset_self]
  · rw [Team.ops, h, cget_cset_ne _ _ _ _ _ hk, Team.ops]

section
variable {i : Instr} {s : State} {op : Nat} {u : UCtx}

/-- A completion whose own part has changed of the team its S registers and its counts of commands alone is a command. -/
theorem commands_of {t s1 s2 : State} (he : exec i s = .next t) (honly : OnlyTeam s.cur s2 t) (hcur : s2.cur = s.cur)
    (hkept : (t.team s.cur).kept = ({ s.me with pc := nextPc s.me.pc 1 } : Team).kept) (hst : (t.team s.cur).status = .run)
    (hothers : ∀ j, j ≠ s.cur → s2.team j = s1.team j) (hbytes : ∀ q, byteAt s2 q = byteAt s1 q) {eff : State → Prop} (heff : eff t) :
    Sys2Proof.Claims.Commands i s s1 eff := by
  have hme : t.me = t.team s.cur := by rw [State.me, honly.cur, hcur]
  simp only [Team.kept, Prod.mk.injEq] at hkept
  obtain ⟨hpc, hmr, hmask, hv, hp, hx⟩ := hkept
  rw [← hme] at hpc hmr hmask hv hp hx hst
  exact ⟨t, he, hpc, hst, hmr, hmask, hv, hp, hx, fun j hj => (honly.2.1 j hj).trans (hothers j hj), fun q => (honly.byteAt q).trans (hbytes q), heff⟩

/-- Likewise, without an S result. -/
theorem AtPass.commands_done (hu : AtPass s op u) {s1 s2 : State} (hcur : s2.cur = s.cur) (hm : (s2.team s.cur).kept = s.me.kept)
    (hothers : ∀ j, j ≠ s.cur → s2.team j = s1.team j) (hbytes : ∀ q, byteAt s2 q = byteAt s1 q)
    (he : exec i s = .next (u.done s2 [] 0)) {eff : State → Prop} (heff : eff (u.done s2 [] 0)) : Sys2Proof.Claims.Commands i s s1 eff := by
  refine commands_of he (hu.done_only s2 [] 0 false) hcur ?_ (hu.done_status _ _ _ _) hothers hbytes heff
  refine (congrArg Team.kept (hu.done_me s2 [] 0 false) :).trans ?_
  simp only [Team.kept, Prod.mk.injEq] at hm ⊢
  obtain ⟨hpc, hm⟩ := hm
  exact ⟨congrArg (nextPc · 1) hpc, hm⟩

/-- The team of a state whose own part has counted a command, at its completion. -/
theorem AtPass.issued_me (hu : AtPass s op u) (h : ready s = true) {c : Nat} {s2 s3 : State} (hl : s2.lasting = s.lasting)
    (hteams : s3.teams = (opIssue s2 s.cur c).2.teams) (hcur : s3.cur = s.cur) :
    s3.team s.cur = { s2.team s.cur with opc := cset [] s.me.opc c (s.me.ops c ++ [(s2.order, false)]) } ∧
      (u.done s3 [] 0).me.s = s.me.s ∧ (u.done s3 [] 0).me.opc = cset [] s.me.opc c (s.me.ops c ++ [(s2.order, false)]) := by
  have hlast := team_of_lasting hl s.cur
  have hopc : (s2.team s.cur).opc = s.me.opc := (congrArg Team.opc hlast :)
  have hteam : s3.team s.cur = { s2.team s.cur with opc := cset [] s.me.opc c (s.me.ops c ++ [(s2.order, false)]) } := by
    rw [State.team, hteams]
    refine (opIssue_team c ((congrArg Team.flight hlast :).trans (ready_flight h))).trans ?_
    rw [Team.ops, hopc, Team.ops]
  refine ⟨hteam, ?_, ?_⟩ <;> rw [State.me, (hu.done_only s3 [] 0 false).cur, hcur]
  · exact (congrArg Team.s (hu.done_me s3 [] 0 false) :).trans ((congrArg Team.s hteam :).trans (congrArg Team.s hlast :))
  · exact (congrArg Team.opc (hu.done_me s3 [] 0 false) :).trans (congrArg Team.opc hteam :)

/-- A command of class c whose own part, beyond counting it, changes no team and no byte. -/
theorem AtPass.issues_done (hu : AtPass s op u) (h : ready s = true) {c : Nat} {s2 s3 : State} (hl : s2.lasting = s.lasting)
    (hteams : s3.teams = (opIssue s2 s.cur c).2.teams) (hcur : s3.cur = s.cur) (hbytes : ∀ q, byteAt s3 q = byteAt s2 q)
    (he : exec i s = .next (u.done s3 [] 0)) {eff : State → Nat → Prop} (heff : eff (u.done s3 [] 0) s2.order) :
    Sys2Proof.Claims.Issues i s s2 c eff := by
  have hlast := team_of_lasting hl s.cur
  obtain ⟨hteam, -, hopc⟩ := hu.issued_me h hl hteams hcur
  refine hu.commands_done hcur ?_ (fun j hj => ?_) hbytes he ⟨s2.order, ops_issued s.me c s2.order hopc, heff⟩
  · exact (congrArg Team.kept hteam :).trans (congrArg Team.kept hlast :)
  · rw [State.team, hteams, opIssue_eq c ((congrArg Team.flight hlast :).trans (ready_flight h))]
    exact updTeam_team_ne _ _ _ _ hj

theorem byteAt_opIssue {s : State} {ti : Nat} (c : Nat) (h : (s.team ti).flight = []) (q : Place) : byteAt (opIssue s ti c).2 q = byteAt s q := by
  rw [opIssue_eq c h, byteAt_updTeam]
  cases q <;> rfl

end

/-! ### Answers of other chips -/

/-- What a chip itself has sent is taken from the fabric; nothing else changes. -/
theorem takeOwn_keeps {s s0 : State} {src : Nat} {m : FabMsg} (h : takeOwn s src m = some s0) :
    s0.teams = s.teams ∧ s0.ctxs = s.ctxs ∧ ∀ q, byteAt s0 q = byteAt s q := by
  unfold takeOwn at h
  split at h
  · cases h
    exact ⟨rfl, rfl, fun _ => rfl⟩
  · split at h
    · cases h
      exact ⟨rfl, rfl, fun q => by cases q <;> rfl⟩
    · cases h

theorem byteAt_updCtx (s : State) (i : Nat) (f : Ctx → Ctx) (q : Place) : byteAt (s.updCtx i f) q = byteAt s q := by cases q <;> rfl

/-- A command is no longer there once it is dropped. -/
theorem fabFind_fabDrop (s : State) (ctx token : Nat) : fabFind (fabDrop s ctx token) ctx token = none := by
  rw [fabFind, fabDrop, updCtx_ctx, List.find?_eq_none]
  intro f hf
  obtain ⟨-, hne⟩ := List.mem_filter.1 hf
  simpa using hne

/-- A command whose one part is answered for all its lanes is done. -/
theorem fabAnswered_all {s : State} {ctx src n va : Nat} {f : FabCmd} (hleft : f.left = [(src, n, va)]) :
    fabAnswered s ctx f src n [] = fabDone s ctx { f with left := [], traps := f.traps } := by
  unfold fabAnswered
  simp [hleft]

/-- The command of a class that its last answer retires. -/
theorem opRetire_ops {s : State} {ti c id : Nat} (h : (s.team ti).ops c = [(id, false)]) : ((opRetire s ti c id).team ti).ops c = [] := by
  unfold opRetire Team.ops at *
  rw [updTeam_team, cget_cset_self, h]
  simp

/-- A command that awaits no register is done. -/
theorem fabDone_plain {s : State} {ctx : Nat} {f : FabCmd} (hflight : (s.team f.team).flight = []) (htraps : f.traps = []) :
    fabDone s ctx f = opRetire (fabDrop s ctx f.token) f.team 3 f.id := by
  have hdrop : ((fabDrop s ctx f.token).team f.team).flight = [] := hflight
  unfold fabDone
  simp only [hdrop, List.findIdx?_nil, htraps, List.foldl_nil]

/-- A GETR is done: its registers are written with what has come for them. -/
theorem fabDone_get {s : State} {ctx : Nat} {f : FabCmd} {g : InFlight} (hflight : (s.team f.team).flight = [g]) (hg : g.kind = .getr f.token)
    (hpoison : g.poison = none) (htraps : f.traps = []) :
    fabDone s ctx f = opRetire (landFlight (fabDrop s ctx f.token) f.team 0 []) f.team 3 f.id := by
  have hdrop : ((fabDrop s ctx f.token).team f.team).flight = [g] := hflight
  have hfind : [g].findIdx? (fun x => x.kind == .getr f.token) = some 0 := by rw [List.findIdx?_cons, hg, beq_self_eq_true]; rfl
  unfold fabDone
  simp only [hdrop, hfind, List.getElem?_cons_zero, Option.bind_some, hpoison, htraps, List.foldl_nil]

/-- A result that arrives becomes a write to be performed for each of its registers. -/
theorem landFlight_team {s : State} {ti : Nat} {g : InFlight} (more : List (Reg × Nat × W64)) (hflight : (s.team ti).flight = [g]) :
    ((landFlight s ti 0 more).team ti).flight = [] ∧ ∃ due, ((landFlight s ti 0 more).team ti).pend = (s.team ti).pend ++
      (g.writes ++ more).map (fun w => ({ reg := w.1, lane := w.2.1, val := w.2.2, due := due, pc := (s.team ti).pc, il := true } : PendWrite)) := by
  have hland : ∃ due, landFlight s ti 0 more = s.draw.2.updTeam ti (fun t => { t with
      flight := t.flight.eraseIdx 0, nextIssue := if t.holdId = some g.id then max t.nextIssue due else t.nextIssue,
      pend := t.pend ++ (g.writes ++ more).map (fun (w : Reg × Nat × W64) => { reg := w.1, lane := w.2.1, val := w.2.2, due := due, pc := t.pc, il := true }) }) := by
    refine ⟨max (s.draw.2.core (s.draw.2.crew (s.team ti).crew).core).cycle (s.team ti).nextIssue + Config.delay s.draw.1, ?_⟩
    unfold landFlight
    simp only [hflight, List.getElem?_cons_zero]
  obtain ⟨due, hland⟩ := hland
  rw [hland, updTeam_team]
  exact ⟨congrArg (List.eraseIdx · 0) hflight, due, rfl⟩

/-- The last acknowledgement of a command that awaits no register. -/
theorem remoteWriteAck_runs {s s0 : State} {ctx src token n : Nat} {f : FabCmd} {va : Nat} (hf : fabFind s ctx token = some f)
    (hup : fabricUp s = true) (htake : takeOwn s src (.writeAck s.chipId ctx token n) = some s0) (hleft : f.left = [(src, n, va)])
    (htraps : f.traps = []) (hflight : (s.team f.team).flight = []) (hget : f.kind ≠ 1) (henq : f.kind ≠ 4) :
    exec (.remoteWriteAck ctx src token n []) s = .next (opRetire (fabDrop s0 ctx f.token) f.team 3 f.id) := by
  obtain ⟨hteams, hctxs, -⟩ := takeOwn_keeps htake
  have hteam (j : Nat) : s0.team j = s.team j := by rw [State.team, hteams, State.team]
  have hans : answerFrom s f src (.writeAck s.chipId ctx token n) n = some s0 := by
    rw [answerFrom, if_neg]
    · exact htake
    · simp [FabCmd.at_, hleft]
  show Host.Outcome.next _ = _
  simp only [hf, hget, henq, hup, List.length_nil, hans, List.map_nil, Nat.add_zero, fabAnswered_all hleft, Bool.not_true, Bool.false_eq_true, or_self,
    if_false]
  exact congrArg Host.Outcome.next (fabDone_plain (f := { f with left := [], traps := f.traps }) ((congrArg Team.flight (hteam f.team)).trans hflight) htraps)

/-- The entry of a GETR that awaits its registers, once a lane of it has come. -/
def laneCome (s : State) (ti token : Nat) (x : RemoteLane) : State :=
  updFlight s ti (.getr token) (fun y => { y with writes := fillLane x y.writes false, poison := poisonMin y.poison x })

/-- The last response of a GETR of one lane. -/
theorem getrResponse_runs {s s0 : State} {ctx src token : Nat} {f : FabCmd} {va : Nat} {x : RemoteLane} {g : InFlight} {r : Reg}
    (hf : fabFind s ctx token = some f) (hup : fabricUp s = true) (htake : takeOwn s src (.getrReply s.chipId ctx token [x]) = some s0)
    (hleft : f.left = [(src, 1, va)]) (htraps : f.traps = []) (hkind : f.kind = 1) (hgot : f.got = []) (hflight : (s.team f.team).flight = [g])
    (hg : g.kind = .getr f.token) (hpoison : g.poison = none) (hwrites : g.writes = [(r, x.lane, 0)]) (hx : x.poison = false) (htoken : f.token = token) :
    ∃ t, exec (.getrResponse ctx src token [x] []) s = .next t ∧ fabFind t ctx f.token = none ∧ (t.team f.team).flight = [] ∧
      ∃ w, (t.team f.team).pend = (s.team f.team).pend ++ [w] ∧ w.reg = r ∧ w.lane = x.lane ∧ w.val = (x.data &&& 0xFFFFFFFF) ∧ w.il = true := by
  obtain ⟨hteams, -, -⟩ := takeOwn_keeps htake
  have hteam (j : Nat) : s0.team j = s.team j := by rw [State.team, hteams, State.team]
  have hans : answerFrom s f src (.getrReply s.chipId ctx token [x]) 1 = some s0 := by
    rw [answerFrom, if_neg]
    · exact htake
    · simp [FabCmd.at_, hleft]
  have hone : ((laneCome s0 f.team token x).team f.team).flight = [{ g with writes := [(r, x.lane, x.data &&& 0xFFFFFFFF)], poison := none }] := by
    rw [laneCome, updFlight, updTeam_team, hteam, hflight]
    simp [hg, htoken, hwrites, hpoison, fillLane, poisonMin, hx]
  have hpend : ((laneCome s0 f.team token x).team f.team).pend = (s.team f.team).pend := by rw [laneCome, updFlight, updTeam_team, hteam]
  have hexec : exec (.getrResponse ctx src token [x] []) s =
      .next (fabDone (laneCome s0 f.team token x) ctx { f with got := [(src, x)], left := [], traps := f.traps }) := by
    show Host.Outcome.next _ = _
    have hok : ¬(f.kind ≠ 1 ∨ (!fabricUp s) = true) := by simp [hkind, hup]
    simp only [hf, if_neg hok, List.length_nil, List.length_singleton, hans, List.map_nil, List.map_cons, Nat.add_zero, hgot, sameRead, List.find?_nil,
      List.nil_append, List.foldl_cons, List.foldl_nil]
    exact congrArg Host.Outcome.next (fabAnswered_all (f := { f with got := [(src, x)] }) hleft)
  rw [fabDone_get (f := { f with got := [(src, x)], left := [], traps := f.traps }) hone hg rfl htraps] at hexec
  obtain ⟨hempty, due, hland⟩ := landFlight_team [] (s := fabDrop (laneCome s0 f.team token x) ctx f.token) hone
  refine ⟨_, hexec, ?_, ?_, { reg := r, lane := x.lane, val := x.data &&& 0xFFFFFFFF, due := due, pc := ((fabDrop (laneCome s0 f.team token x) ctx f.token).team f.team).pc, il := true }, ?_, rfl, rfl, rfl, rfl⟩
  · have hctxs : (landFlight (fabDrop (laneCome s0 f.team token x) ctx f.token) f.team 0 []).ctxs = (fabDrop (laneCome s0 f.team token x) ctx f.token).ctxs := by
      unfold landFlight
      dsimp only
      split <;> rfl
    refine .trans ?_ (fabFind_fabDrop (laneCome s0 f.team token x) ctx f.token)
    rw [fabFind, fabFind, State.ctx, State.ctx, ← hctxs]
    rfl
  · rw [opRetire, updTeam_team]
    exact hempty
  · rw [opRetire, updTeam_team]
    exact hland.trans (congrArg (· ++ _) hpend)

/-! ### Triggered sends -/

theorem send_keeps (s : State) (m : FabMsg) : (s.send m).fabric = s.fabric ++ [m] ∧ (s.send m).ctxs = s.ctxs ∧ (s.send m).teams = s.teams ∧
    ∀ q, byteAt (s.send m) q = byteAt s q := by
  unfold State.send
  dsimp only
  split
  · exact ⟨rfl, rfl, rfl, fun q => by cases q <;> rfl⟩
  · exact ⟨rfl, rfl, rfl, fun q => by cases q <;> rfl⟩

/-- A send armed after all others of its context. -/
def armSend (s : State) (ctx : Nat) (x : ArmedSend) : State := s.updCtx ctx (fun c => { c with armed := c.armed ++ [x] })

/-- XSEND (R412) arms a send. -/
theorem xsend_runs {s s1 s2 : State} {a b : Opnd} {r : List Byte} {n : Option Nat} {e : Binding} {va ctx : Nat} (h : ready s = true) (ha : okS a = true)
    (hb : okS b = true) (hva : va = (sVal s.me a).toNat) (halign : va % 8 = 0) (hroom : s.me.opCount 3 < 255)
    (hquire : (s.crewRec s.me.crew).quire ≠ 0xFFFF) (hdraft : (s.crew s.me.crew).drafting = false) (hctx : ctx = (s.crew s.me.crew).ctx)
    (hread : issueRead s.settled s.cur va 32 = .ok (s1, r)) (hbind : issueBinding s1 s.cur (field r 16 4) = .ok (s2, n, some e))
    (harmed : (s2.ctx ctx).armed.length < 256) :
    Sys2Proof.Claims.Issues (.xsend (.v 0) a b) s s2 3 (fun t id => t.me.s = s.me.s ∧ (t.ctx ctx).armed = (s2.ctx ctx).armed ++
      [{ team := s.cur, src := field r 0 8, dstva := field r 8 8, chip := e.chip, bytes := field r 20 4, ctr := field r 24 1,
         dstCtr := field r 25 1, threshold := sVal s.me b, id := id,
         met := decide ((sVal s.me b).toNat ≤ (s2.ctx ctx).counter (field r 24 1)) }]) := by
  obtain ⟨u, hu, hok, -⟩ := uniform_run h (fields := [fld (.v 0) okZero, fld a okS, fld b okS]) (by simp [fld, ha, hb, okZero])
    (show exec (.xsend (.v 0) a b) s = execXsend (.v 0) a b s from rfl) rfl
  have hf0 : (s.settled.team s.cur).flight = [] := by rw [settled_team, ready_flight h]
  obtain ⟨hl1, hc1⟩ := issueRead_keeps hf0 hread
  obtain ⟨hl2, hc2⟩ := issueBinding_keeps ((congrArg Team.flight (team_of_lasting hl1 s.cur) :).trans hf0) hbind
  have hl : s2.lasting = s.lasting := hl2.trans (hl1.trans (settled_lasting s))
  have hcrew : s2.crew s.me.crew = s.crew s.me.crew := crew_of_manned (hc2.trans hc1) _
  have hf2 : (s2.team s.cur).flight = [] := (congrArg Team.flight (team_of_lasting hl s.cur) :).trans (ready_flight h)
  have hread' : issueRead u.s s.cur va 32 = .ok (s1, r) := hu.state ▸ hread
  have hroom' : opRoom u.t 3 = .ok () := by rw [hu.team, opRoom, if_pos hroom]
  have hw : w64 (sVal s.me b).toNat = sVal s.me b := by simp [w64]
  have hquire1 : ¬(s1.crewRec s.me.crew).quire = 65535 := fun hq => hquire ((congrArg LRec.quire (crewRec_of_manned hc1 s.me.crew)).symm.trans hq)
  have hend : endIdem s2 s.me.crew = s2 := endIdem_of_not (by rw [hcrew]; exact hdraft)
  let x : ArmedSend := { team := s.cur, src := field r 0 8, dstva := field r 8 8, chip := e.chip, bytes := field r 20 4, ctr := field r 24 1,
                         dstCtr := field r 25 1, threshold := sVal s.me b, id := s2.order,
                         met := decide ((sVal s.me b).toNat ≤ (s2.ctx ctx).counter (field r 24 1)) }
  have hexec : exec (.xsend (.v 0) a b) s = .next (u.done (armSend (opIssue s2 s.cur 3).2 ctx x) [] 0) := by
    refine hok _ ?_
    simp only [hu.rd h ha, hu.rd h hb, ← hva, hroom', ok_bind, halign, ne_eq, not_true_eq_false, if_false, hread', if_neg hquire1, hbind, hu.poison, hcrew,
      ← hctx, if_neg (Nat.not_le.2 harmed), hend, hw, opIssue_eq 3 hf2]
    rfl
  have hcur : (armSend (opIssue s2 s.cur 3).2 ctx x).cur = s.cur := by
    rw [opIssue_eq 3 hf2]
    exact cur_of_lasting (t := s2) hl
  refine hu.issues_done (s3 := armSend (opIssue s2 s.cur 3).2 ctx x) h hl rfl hcur (fun q => (byteAt_updCtx _ _ _ q).trans (byteAt_opIssue 3 hf2 q)) hexec ⟨?_, ?_⟩
  · exact (hu.issued_me (s3 := armSend (opIssue s2 s.cur 3).2 ctx x) h hl rfl hcur).2.1
  · rw [State.ctx, (hu.done_only _ [] 0 false).ctxs]
    exact (congrArg Ctx.armed (updCtx_ctx _ _ _)).trans (by rw [opIssue_eq 3 hf2] <;> rfl)

/-- An addition to a counter notes the sends whose threshold it then holds (R156). -/
theorem ctrAdd_met {s : State} {ctx k n : Nat} {x : ArmedSend} (hx : x ∈ (s.ctx ctx).armed) (hk : x.ctr = k)
    (hle : x.threshold.toNat ≤ ((s.ctx ctx).counter k + n) % 2 ^ 64) : { x with met := true } ∈ ((ctrAdd s ctx k n).ctx ctx).armed := by
  rw [ctrAdd, updCtx_ctx]
  refine List.mem_map.2 ⟨x, hx, ?_⟩
  have hmet : x.ctr = k ∧ x.threshold.toNat ≤ (w64 ((s.ctx ctx).counter k + n)).toNat := ⟨hk, by rw [w64, BitVec.toNat_ofNat]; exact hle⟩
  exact if_pos hmet

/-- A send that is due, and before which none of its counter is, goes with what it has read (R156, R412). -/
theorem triggeredSendFire_runs {s s1 : State} {ctx i : Nat} {x : ArmedSend} {a : Agent} {bs : List Byte} {bad : Option Nat}
    (hx : (s.ctx ctx).armed[i]? = some x) (hmet : x.met = true) (hwait : x.wait = none) (hctx : ctxRuns s ctx = true)
    (hfirst : ∀ y ∈ (s.ctx ctx).armed.take i, y.ctr ≠ x.ctr ∨ y.met = false) (hreach : s.reach x.chip = true)
    (ha : a = if (s.team x.team).status == .free then fabricAgent ctx else engAgent s x.team 6)
    (hread : readVa s a .engR x.src x.bytes = (s1, .ok (bs, bad))) :
    Sys2Proof.Claims.To (.triggeredSendFire ctx i) s (fun t => (t.ctx ctx).armed = (s1.ctx ctx).armed.eraseIdx i ∧
      ∃ poison, t.fabric = s1.fabric ++ [.send x.chip ctx x.id x.dstva bs poison (if x.dstCtr = 0xFF then none else some x.dstCtr)]) := by
  have hnone : ((s.ctx ctx).armed.take i).any (fun y => y.ctr == x.ctr && y.met) = false := by
    rw [List.any_eq_false]
    intro y hy
    obtain hne | hm := hfirst y hy
    · simp [hne]
    · simp [hm]
  let s2 := s1.updCtx ctx (fun c => { c with
    armed := c.armed.eraseIdx i, fab := c.fab ++ [{ token := x.id, team := x.team, left := [(x.chip, 1, x.dstva)], id := x.id, kind := 3 }] })
  let m := FabMsg.send x.chip ctx x.id x.dstva bs (poisonBytes s2 a .engR x.src x.bytes) (if x.dstCtr = 0xFF then none else some x.dstCtr)
  have hexec : exec (.triggeredSendFire ctx i) s = .next (s2.send m) := by
    show Host.Outcome.next _ = _
    subst ha
    simp only [hx, hmet, hwait, hctx, hnone, hreach, hread, Bool.not_true, Option.isSome_none, Bool.or_self, Bool.false_eq_true, if_false] <;> rfl
  obtain ⟨hfabric, hctxs, -, -⟩ := send_keeps s2 m
  refine ⟨_, hexec, ?_, _, hfabric⟩
  rw [State.ctx, hctxs]
  exact congrArg Ctx.armed (updCtx_ctx _ _ _)

/-- Settles O49. -/
theorem remoteCommandsComplete : Obligations.RemoteCommandsComplete := by
  unfold Obligations.RemoteCommandsComplete
  refine ⟨?acked, ?got, ?armed, fun s ctx k n x hx hk hle => ctrAdd_met hx hk hle, ?fires, ?stays⟩
  case acked =>
    intro s s0 ctx src token n f va hf hup htake hleft htraps _ hflight hget henq
    obtain ⟨hteams, hctxs, hbytes⟩ := takeOwn_keeps htake
    refine ⟨_, remoteWriteAck_runs hf hup htake hleft htraps hflight hget henq, fabFind_fabDrop s0 ctx f.token, fun hops => opRetire_ops ?_, fun q => ?_⟩
    · exact (congrArg (fun ts => (Team.ops (cget {} ts f.team) 3)) hteams :).trans hops
    · rw [opRetire, byteAt_updTeam, fabDrop, byteAt_updCtx, hbytes]
  case got =>
    intro s s0 ctx src token f va x g r hf hup htake hleft htraps hkind hgot hflight hg hpoison hwrites hx htoken
    exact getrResponse_runs hf hup htake hleft htraps hkind hgot hflight hg hpoison hwrites hx htoken
  case armed =>
    intro s s1 s2 a b r n e va ctx h ha hb hva halign hroom hquire hdraft hctx hread hbind harmed
    exact xsend_runs h ha hb hva halign hroom hquire hdraft hctx hread hbind harmed
  case fires =>
    intro s s1 ctx i x a bs bad hx hmet hwait hctx hfirst hreach ha hread
    exact triggeredSendFire_runs hx hmet hwait hctx hfirst hreach ha hread
  case stays =>
    intro s ctx i x hx hwhy
    have hnot : (!x.met || x.wait.isSome || !ctxRuns s ctx || ((s.ctx ctx).armed.take i).any (fun y => y.ctr == x.ctr && y.met)) = true := by
      obtain hm | ⟨y, hy, hctr, hm⟩ := hwhy
      · simp [hm]
      · have hany : ((s.ctx ctx).armed.take i).any (fun y => y.ctr == x.ctr && y.met) = true := List.any_eq_true.2 ⟨y, hy, by simp [hctr, hm]⟩
        rw [hany, Bool.or_true]
    show Host.Outcome.next _ = _
    simp only [hx, hnot, if_true]

end Sys2Proof.Machine
end

section
/-! SUPPORT. The acceptance of a run (06 R116, R133) changes no team; TBL.LD, DX.RUN, DX.QRY and DX.STAT (20 R405 to R407): O50. -/

namespace Sys2Proof.Machine

/-! ### What acceptance reads -/

theorem manned_of_uncached {s t : State} (h : t.uncached = s.uncached) : t.manned = s.manned := (congrArg State.manned h :)

theorem engineLine_uncached (s : State) (core : Nat) (p : Place) (hint : Nat) : (engineLine s core p hint).uncached = s.uncached := by
  unfold engineLine
  split
  · exact fetchLine_uncached s core p.line hint
  · rfl

/-- A read of an engine keeps what lasts of the teams, the crews and the launch records. -/
theorem engRead_keeps (s : State) (a : Agent) (ci va n hint : Nat) :
    (engRead s a ci va n hint).1.lasting = s.lasting ∧ (engRead s a ci va n hint).1.manned = s.manned := by
  have hl := placesOf_lasting a .engR (piecesOf va n) s
  have hm := placesOf_manned a .engR (piecesOf va n) s
  unfold engRead
  split
  · next e => rw [e] at hl hm; exact ⟨hl, hm⟩
  · next s1 ps e =>
    rw [e] at hl hm
    have hlines := foldl_keeps (fun s p => engineLine s (s.crew ci).core p hint) State.uncached (fun s p => engineLine_uncached s _ p hint)
      (ps.flatMap (fun x => x.2.1.firsts x.2.2)) s1
    exact ⟨(lasting_of_uncached hlines).trans hl, (manned_of_uncached hlines).trans hm⟩

theorem hubBindings_lasting (s : State) (ctx quire : Nat) : (hubBindings s ctx quire).1.lasting = s.lasting := by
  have hread := hubRead_lasting s ctx ((s.ctx ctx).qdirBase.toNat + 16 * quire) 16
  unfold hubBindings
  dsimp only
  split
  · rfl
  · split
    · next s1 r e =>
      rw [e] at hread
      split
      · next tbl n _ =>
        have hrows := (hubRead_lasting s1 ctx tbl (8 * n)).trans hread
        split <;> next e => rw [e] at hrows; exact hrows
      · exact hread
    · next e => rw [e] at hread; exact hread

theorem bindingsOf_lasting (ctx : Nat) (qs : List Nat) (s : State) : (bindingsOf s ctx qs).1.lasting = s.lasting := by
  induction qs generalizing s with
  | nil => rfl
  | cons q r ih => exact (ih _).trans (hubBindings_lasting s ctx q)

theorem quireOk_lasting (s : State) (ctx q : Nat) : (quireOk s ctx q).1.lasting = s.lasting :=
  (bindingsOf_lasting ctx _ _).trans (hubBindings_lasting s ctx q)

theorem counterOk_lasting (s : State) (ctx va : Nat) : (counterOk s ctx va).1.lasting = s.lasting := by
  have h := placeVa_lasting s (hubAgent ctx 5) .engW va
  unfold counterOk
  split
  · rfl
  · split
    · rfl
    · split <;> next e => rw [e] at h; exact h

theorem recordStatus_lasting (s : State) (ctx : Nat) (r : LRec) : (recordStatus s ctx r).1.lasting = s.lasting := by
  have h := quireOk_lasting s ctx r.quire
  unfold recordStatus
  split
  · rfl
  · split
    · rfl
    · split
      · rfl
      · split <;> next e => rw [e] at h; exact h

theorem evalRecOk_lasting (s : State) (ctx va : Nat) : (evalRecOk s ctx va).1.lasting = s.lasting := by
  have hread := hubRead_lasting s ctx va 64
  unfold evalRecOk
  split
  · rfl
  · split
    · next e => rw [e] at hread; exact hread
    · next s1 bs e =>
      rw [e] at hread
      have hcount := (counterOk_lasting s1 ctx (lrecOf bs).counter).trans hread
      dsimp only
      split
      · next e => rw [e] at hcount; exact hcount
      · next s2 e =>
        rw [e] at hcount
        split
        · exact hcount
        · exact (recordStatus_lasting s2 ctx (lrecOf bs)).trans hcount

theorem dxMemoryOk_lasting (s : State) (r : DxRun) : (dxMemoryOk s r).1.lasting = s.lasting := by
  have heval (b : Bool) (s : State) (va : Nat) : (if b then evalRecOk s r.ctx va else (s, true)).1.lasting = s.lasting := by
    split
    · exact evalRecOk_lasting s r.ctx va
    · rfl
  unfold dxMemoryOk
  split
  · rfl
  · exact (heval r.evt _ _).trans ((heval r.anyImplicit _ _).trans (evalRecOk_lasting s r.ctx _))

theorem dxMembers_lasting (s : State) (ctx quire : Nat) (crew : Option Nat) : (dxMembers s ctx quire crew).1.lasting = s.lasting := by
  unfold dxMembers
  split
  · rfl
  · dsimp only
    split <;> exact hubBindings_lasting s ctx quire

theorem notePause_lasting (s : State) (ctx quire role : Nat) (p : Bool) : (notePause s ctx quire role p).lasting = s.lasting := updCtx_lasting _ _ _

theorem setRun_lasting (s : State) (k : Nat) (r : DxRun) : (s.setRun k r).lasting = s.lasting := rfl

/-- A run that takes a handle changes no team. -/
theorem dxStart_lasting (s : State) (ctx h : Nat) (bs : List Byte) (slot : Nat) (crew : Option Nat) :
    (dxStart s ctx h bs slot crew).lasting = s.lasting := by
  unfold dxStart
  dsimp only
  split
  · rfl
  · split
    · next s1 e => exact (congrArg State.lasting (congrArg Prod.fst e) :).symm.trans (dxMemoryOk_lasting _ _)
    · next s1 e =>
      have h1 : s1.lasting = s.lasting := (congrArg State.lasting (congrArg Prod.fst e) :).symm.trans (dxMemoryOk_lasting _ _)
      split
      · exact h1
      · split
        · next s2 e => exact (congrArg State.lasting (congrArg Prod.fst e) :).symm.trans ((dxMembers_lasting _ _ _ _).trans h1)
        · next s2 chips role e =>
          have h2 : s2.lasting = s.lasting := (congrArg State.lasting (congrArg Prod.fst e) :).symm.trans ((dxMembers_lasting _ _ _ _).trans h1)
          refine (setRun_lasting _ _ _).trans ((updCtx_lasting _ _ _).trans ?_)
          refine (foldl_keeps _ State.lasting (fun s e => notePause_lasting s _ _ _ _) _ _).trans ?_
          exact (foldl_keeps _ State.lasting (fun s k => send_lasting s _) _ _).trans h2

/-! ### The run that takes a handle -/

/-- What the run of a handle is once it has been accepted with record bs. -/
def Accepted (bs : List Byte) (r : DxRun) : Prop :=
  r.active = true ∧ r.irec = bs ∧ r.t = field bs 24 8 ∧
    (r.todo = .form ∨ r.todo = .begin ∨ r.todo = .finish ∧ (r.status = 6 ∨ r.status = 7))

theorem accepted_over {bs : List Byte} {r : DxRun} {c : Nat} (ha : r.active = true) (hr : r.irec = bs) (ht : r.t = field bs 24 8) (hc : c = 6 ∨ c = 7) :
    Accepted bs (r.over c) := ⟨ha, hr, ht, .inr (.inr ⟨rfl, hc⟩)⟩

theorem accepted_begun {bs : List Byte} {r : DxRun} (ha : r.active = true) (hr : r.irec = bs) (ht : r.t = field bs 24 8) : Accepted bs r.begun := by
  unfold DxRun.begun
  split
  · exact accepted_over ha hr ht (.inr rfl)
  · split
    · exact ⟨ha, hr, ht, .inl rfl⟩
    · exact ⟨ha, hr, ht, .inr (.inl rfl)⟩

theorem dxStart_run (s : State) (ctx h : Nat) (bs : List Byte) (slot : Nat) (crew : Option Nat) :
    Accepted bs ((dxStart s ctx h bs slot crew).run (ctx * 64 + h)) := by
  unfold dxStart
  dsimp only
  split
  · rw [setRun_run]
    exact accepted_over rfl rfl rfl (.inr rfl)
  · split
    · rw [setRun_run]
      exact accepted_over rfl rfl rfl (.inr rfl)
    · split
      · rw [setRun_run]
        exact ⟨rfl, rfl, rfl, .inl rfl⟩
      · split
        · rw [setRun_run]
          exact accepted_over rfl rfl rfl (.inr rfl)
        · rw [setRun_run]
          split
          · exact accepted_begun rfl rfl rfl
          · exact accepted_over rfl rfl rfl (.inl rfl)

theorem freeHandle_none {s : State} {ctx : Nat} (h : ∀ k < 64, (s.run (ctx * 64 + k)).active = true) : freeHandle s ctx = none := by
  rw [freeHandle, List.find?_eq_none]
  intro k hk
  simp [h k (List.mem_range.1 hk)]

/-- The lowest free handle. -/
theorem freeHandle_some {s : State} {ctx k : Nat} (hk : k < 64) (hfree : (s.run (ctx * 64 + k)).active = false)
    (hlow : ∀ j < k, (s.run (ctx * 64 + j)).active = true) : freeHandle s ctx = some k := by
  rw [freeHandle, List.find?_range_eq_some]
  exact ⟨by simp [hfree], List.mem_range.2 hk, fun j hj => by simp [hlow j hj]⟩

/-! ### The instructions -/

/-- What TBL.LD makes of a tableau slot. -/
def setTableau (s : State) (ctx slot : Nat) (x : Option Tableau) : State :=
  s.updCtx ctx (fun c => { c with tableaux := cset none c.tableaux slot x })

theorem tblLd_runs {s s1 s2 : State} {a b : Opnd} {va w ctx : Nat} {h r : List Byte} (hs : ready s = true) (ha : okS a = true) (hb : okS b = true)
    (hva : va = (sVal s.me a).toNat) (hw : w = (sVal s.me b).toNat) (hctx : ctx = (s.crew s.me.crew).ctx) (hdraft : (s.crew s.me.crew).drafting = false)
    (halign : va % 8 = 0) (hhead : issueRead s.settled s.cur va 8 = .ok (s2, h)) (hkind : field h 0 1 ≤ 2) (hlo : 1 ≤ field h 1 1) (hhi : field h 1 1 ≤ 16)
    (hdeg : field h 4 1 ≤ 8) (hread : issueRead s2 s.cur va (tabLen (field h 0 1) (field h 1 1) (field h 4 1)) = .ok (s1, r)) (hslot : w < 8) :
    ∃ u, AtPass s 0xE9 u ∧ s1.lasting = s.lasting ∧
      (tabCheck r = none → exec (.tblLd (.v 0) a b) s = .next (u.done (setTableau s1 ctx w (some (tabOf r))) [] 0)) ∧
      (∀ why off, tabCheck r = some (why, off) →
        exec (.tblLd (.v 0) a b) s = .next (stopped (setTableau s1 ctx w none) s.cur (trapAt 0x02 why off))) := by
  obtain ⟨u, hu, hok, hstop⟩ := uniform_run hs (fields := [fld (.v 0) okZero, fld a okS, fld b okS]) (by simp [fld, ha, hb, okZero])
    (show exec (.tblLd (.v 0) a b) s = execTblLd (.v 0) a b s from rfl) rfl
  have hf0 : (s.settled.team s.cur).flight = [] := by rw [settled_team, ready_flight hs]
  obtain ⟨hl2, hm2⟩ := issueRead_keeps hf0 hhead
  obtain ⟨hl1, hm1⟩ := issueRead_keeps ((congrArg Team.flight (team_of_lasting hl2 s.cur) :).trans hf0) hread
  have hcrew : s1.crew s.me.crew = s.crew s.me.crew := crew_of_manned (hm1.trans hm2) _
  have hend : endIdem s1 s.me.crew = s1 := endIdem_of_not (by rw [hcrew]; exact hdraft)
  have hwhole : (decide (field h 0 1 ≤ 2) && decide (1 ≤ field h 1 1) && decide (field h 1 1 ≤ 16) && decide (field h 4 1 ≤ 8)) = true := by
    simp [hkind, hlo, hhi, hdeg]
  have hhead' : issueRead u.s s.cur va 8 = .ok (s2, h) := hu.state ▸ hhead
  refine ⟨u, hu, hl1.trans (hl2.trans (settled_lasting s)), fun hc => hok _ ?_, fun why off hc => hstop (.become _) ?_⟩
  · simp only [hu.rd hs ha, hu.rd hs hb, ← hva, ← hw, halign, ne_eq, not_true_eq_false, if_false, hhead', ok_bind, hwhole, if_true, hread, hu.poison,
      if_neg (show ¬7 < w by omega), hend, hc, hcrew, ← hctx] <;> rfl
  · simp only [hu.rd hs ha, hu.rd hs hb, ← hva, ← hw, halign, ne_eq, not_true_eq_false, if_false, hhead', ok_bind, hwhole, if_true, hread, hu.poison,
      if_neg (show ¬7 < w by omega), hend, hc, hcrew, ← hctx] <;> rfl

/-- What the run of DX.RUN has found: it fails where the record is not aligned, and takes the lowest free handle otherwise. -/
theorem dxRun_runs {s : State} {d a b : Opnd} {va w ctx : Nat} (h : ready s = true) (hd : okS d = true) (ha : okS a = true) (hb : okS b = true)
    (hva : va = (sVal s.me a).toNat) (hw : w = (sVal s.me b).toNat) (hctx : ctx = (s.crew s.me.crew).ctx) (hdraft : (s.crew s.me.crew).drafting = false)
    (hroom : s.me.opCount 4 < 255) (hslot : w < 8) :
    ∃ u, AtPass s 0xEA u ∧ (va % 64 ≠ 0 → exec (.dxRun d a b) s = .next (u.now u.s [(d, 2 ^ 64 - 2)])) ∧
      ∀ s1 r, va % 64 = 0 → engRead s.settled (hubAgent ctx 5) s.me.crew va 192 = (s1, .ok (r, false)) → doneRecOk s1 ctx r = true →
        (freeHandle s1 ctx = none → exec (.dxRun d a b) s = .next (u.now s1 [(d, 2 ^ 64 - 1)])) ∧
        ∀ k, freeHandle s1 ctx = some k → exec (.dxRun d a b) s = .next (u.now (dxStart s1 ctx k r w (some s.me.crew)) [(d, k)]) := by
  obtain ⟨u, hu, hok, -⟩ := uniform_run h (fields := [fld d okS, fld a okS, fld b okS]) (by simp [fld, hd, ha, hb])
    (show exec (.dxRun d a b) s = execDxRun d a b s from rfl) rfl
  have hroom' : opRoom u.t 4 = .ok () := by rw [hu.team, opRoom, if_pos hroom]
  have hend0 : endIdem u.s s.me.crew = u.s := endIdem_of_not (by rw [hu.only.crew]; exact hdraft)
  have hslot' : ¬8 ≤ w := Nat.not_le.2 hslot
  refine ⟨u, hu, fun hmis => hok _ ?_, fun s1 r halign hread hrec => ?_⟩
  · simp only [hu.rd h ha, hu.rd h hb, ← hva, ← hw, hroom', hu.poison, ok_bind, if_pos hmis, if_neg hslot', hend0] <;> rfl
  · have hm : s1.manned = s.settled.manned := by
      have hk := (engRead_keeps s.settled (hubAgent ctx 5) s.me.crew va 192 0).2
      rw [hread] at hk
      exact hk
    have hend : endIdem s1 s.me.crew = s1 := endIdem_of_not (by rw [crew_of_manned hm]; exact hdraft)
    have hread' : engRead u.s (hubAgent ctx 5) s.me.crew va 192 = (s1, .ok (r, false)) := by rw [hu.state]; exact hread
    refine ⟨fun hnone => hok _ ?_, fun k hk => hok _ ?_⟩
    · simp only [hu.rd h ha, hu.rd h hb, ← hva, ← hw, hroom', hu.poison, ok_bind, halign, ne_eq, not_true_eq_false, if_neg hslot', hread', ← hctx, hrec, hend, hnone,
        Bool.false_eq_true, Bool.not_true, if_false] <;> rfl
    · simp only [hu.rd h ha, hu.rd h hb, ← hva, ← hw, hroom', hu.poison, ok_bind, halign, ne_eq, not_true_eq_false, if_neg hslot', hread', ← hctx, hrec, hend, hk,
        Bool.false_eq_true, Bool.not_true, if_false] <;> rfl

theorem dxStat_runs {s : State} {d a : Opnd} (h : ready s = true) (hd : okS d = true) (ha : okS a = true) {x : DxRun} {v : Nat}
    (hx : x = s.run ((s.crew s.me.crew).ctx * 64 + (sVal s.me a).toNat))
    (hv : v = if 63 < (sVal s.me a).toNat then 2 ^ 64 - 1 else if x.active then
      x.accepted % 2 ^ 32 * 2 ^ 32 + x.newton % 256 * 2 ^ 16 + x.stage % 256 * 2 ^ 8 + x.phase else 0) :
    ∃ c, RunsTo (.dxStat d a (.v 0)) s { s.me.stepped with pend := (sWrite s.me d (w64 v) c).map (fun x => { x with il := true }) } := by
  obtain ⟨u, hu, hok, -⟩ := uniform_run h (fields := [fld d okS, fld a okS, fld (.v 0) okZero]) (by simp [fld, hd, ha, okZero])
    (show exec (.dxStat d a (.v 0)) s = execDxStat d a (.v 0) s from rfl) rfl
  have hrun (k : Nat) : u.s.run k = s.run k := by rw [hu.state]; rfl
  refine hu.runsTo_interlocked h hd v 4 (hok _ ?_)
  simp only [hu.rd h ha, hrun]
  rw [hv, ← hx]
  cases x.active <;> rfl

/-- A query that is answered with a status other than 0 writes that status alone. -/
theorem queryTry_status {s s2 : State} {q : DxQuery} {st : Nat} (hst : st = queryStatus s (engAgent s q.team 5).ctx q.handle q.tq) (hne : st ≠ 0)
    (hw : writeVa s (engAgent s q.team 5) .engW (q.desc + 16) (leBytes 4 st) = (s2, .ok ())) : queryTry s q = opRetire s2 q.team 4 q.id := by
  have hans : queryAnswer s (engAgent s q.team 5) q = (s, .ok (st, [], false)) := by
    unfold queryAnswer
    dsimp only
    rw [← hst, if_pos hne]
  have hnone : writeVa s (engAgent s q.team 5) .engW q.out [] false = (s, .ok ()) := rfl
  unfold queryTry
  simp only [hans, hnone, hw]

theorem dxQry_runs {s s1 s2 : State} {a b : Opnd} {va w ctx st : Nat} {r : List Byte} (h : ready s = true) (ha : okS a = true) (hb : okS b = true)
    (hva : va = (sVal s.me a).toNat) (hw : w = (sVal s.me b).toNat) (hctx : ctx = (s.crew s.me.crew).ctx) (hdraft : (s.crew s.me.crew).drafting = false)
    (hroom : s.me.opCount 4 < 255) (halign : w % 8 = 0) (hread : issueRead s.settled s.cur w 32 = .ok (s1, r))
    (hst : st = queryStatus s1 ctx va (field r 0 8)) (hne : st ≠ 0)
    (hwrite : writeVa (opIssue s1 s.cur 4).2 (engAgent (opIssue s1 s.cur 4).2 s.cur 5) .engW (w + 16) (leBytes 4 st) = (s2, .ok ())) :
    ∃ u id, AtPass s 0xEB u ∧ s2.lasting = (opIssue s1 s.cur 4).2.lasting ∧ s1.lasting = s.lasting ∧
      exec (.dxQry (.v 0) a b) s = .next (u.done (opRetire s2 s.cur 4 id) [] 0) := by
  obtain ⟨u, hu, hok, -⟩ := uniform_run h (fields := [fld (.v 0) okZero, fld a okS, fld b okS]) (by simp [fld, ha, hb, okZero])
    (show exec (.dxQry (.v 0) a b) s = execDxQry (.v 0) a b s from rfl) rfl
  have hf0 : (s.settled.team s.cur).flight = [] := by rw [settled_team, ready_flight h]
  obtain ⟨hl, hm⟩ := issueRead_keeps hf0 hread
  have hl1 : s1.lasting = s.lasting := hl.trans (settled_lasting s)
  have hf1 : (s1.team s.cur).flight = [] := (congrArg Team.flight (team_of_lasting hl1 s.cur) :).trans (ready_flight h)
  have hroom' : opRoom u.t 4 = .ok () := by rw [hu.team, opRoom, if_pos hroom]
  have hend : endIdem s1 s.me.crew = s1 := endIdem_of_not (by rw [crew_of_manned hm]; exact hdraft)
  have hread' : issueRead u.s s.cur w 32 = .ok (s1, r) := hu.state ▸ hread
  have hagent : (engAgent (opIssue s1 s.cur 4).2 s.cur 5).ctx = ctx := by
    have hcrew : ((opIssue s1 s.cur 4).2.team s.cur).crew = s.me.crew :=
      (congrArg Team.crew (opIssue_team 4 hf1) :).trans (congrArg Team.crew (team_of_lasting hl1 s.cur) :)
    refine (congrArg (fun c => ((opIssue s1 s.cur 4).2.crew c).ctx) hcrew :).trans ?_
    rw [hctx, opIssue_eq 4 hf1]
    exact congrArg Crew.ctx (crew_of_manned hm _)
  have hstatus : queryStatus (opIssue s1 s.cur 4).2 ctx va (field r 0 8) = queryStatus s1 ctx va (field r 0 8) := by rw [opIssue_eq 4 hf1]; rfl
  have hq := queryTry_status (s2 := s2) (q := { team := s.cur, id := (opIssue s1 s.cur 4).1, handle := va, desc := w, tq := field r 0 8, out := field r 8 8 })
    (hst.trans (hstatus.symm.trans (by rw [hagent]))) hne hwrite
  refine ⟨u, (opIssue s1 s.cur 4).1, hu, ?_, hl1, hok _ ?_⟩
  · have hl2 := writeVa_lasting (opIssue s1 s.cur 4).2 (engAgent (opIssue s1 s.cur 4).2 s.cur 5) .engW (w + 16) (leBytes 4 st) false 0
    rw [hwrite] at hl2
    exact hl2
  · simp only [hu.rd h ha, hu.rd h hb, ← hva, ← hw, hroom', ok_bind, halign, ne_eq, not_true_eq_false, if_false, hread', hu.poison, hend]
    exact congrArg (fun x => Except.ok (u.done x [] 0)) hq

/-- Settles O50. -/
theorem timeLoopInstructions : Obligations.TimeLoopInstructions := by
  unfold Obligations.TimeLoopInstructions
  intro s s1 d a b va w ctx r h hd ha hb hva hw hctx hdraft
  refine ⟨fun s2 hdr halign hhead hkind hlo hhi hdeg hread hslot => ?tables, fun hroom hslot => ?runs, fun s2 st hroom halign hread hst hne hwrite => ?query,
    fun x v hx hv => dxStat_runs h hd ha (hx.trans (by rw [hctx, hva])) (hv.trans (by rw [hva]))⟩
  case tables =>
    obtain ⟨u, hu, hl, hgood, hbad⟩ := tblLd_runs h ha hb hva hw hctx hdraft halign hhead hkind hlo hhi hdeg hread hslot
    refine ⟨fun hc => ?_, fun why off hc => ⟨_, _, hbad why off hc, ?_, rfl⟩⟩
    · have hl' : (setTableau s1 ctx w (some (tabOf r))).lasting = s.lasting := (updCtx_lasting _ _ _).trans hl
      obtain ⟨hpc, hrun⟩ := hu.done_goes hl' [] 0 false
      have hctxs : (u.done (setTableau s1 ctx w (some (tabOf r))) [] 0).ctx ctx = { s1.ctx ctx with tableaux := cset none (s1.ctx ctx).tableaux w (some (tabOf r)) } := by
        rw [State.ctx, (hu.done_only _ [] 0 false).ctxs]
        exact updCtx_ctx _ _ _
      refine ⟨_, hgood hc, hpc, hrun, ?_, fun k hk => ?_⟩
      · rw [hctxs]
        exact cget_cset_self _ _ _ _
      · rw [hctxs]
        exact cget_cset_ne _ _ _ _ _ hk
    · rw [setTableau, updCtx_ctx]
      exact cget_cset_self _ _ _ _
  case runs =>
    obtain ⟨u, hu, hmis, hstart⟩ := dxRun_runs h hd ha hb hva hw hctx hdraft hroom hslot
    refine ⟨fun hm => ?_, fun halign hread hrec => ?_⟩
    · obtain ⟨hpc, -, hv⟩ := hu.now_goes hu.lasting hd (2 ^ 64 - 2)
      exact ⟨_, hmis hm, hpc, hv, (congrArg State.runs (hu.now_only _ hd _).1 :).trans (congrArg State.runs hu.only.1 :)⟩
    · have hl : s1.lasting = s.lasting := by
        have hk := (engRead_keeps s.settled (hubAgent ctx 5) s.me.crew va 192 0).1
        rw [hread] at hk
        exact hk.trans (settled_lasting s)
      obtain ⟨hfull, hfree⟩ := hstart s1 r halign hread hrec
      refine ⟨fun hall => ?_, fun k hk hinactive hlow => ?_⟩
      · obtain ⟨hpc, -, hv⟩ := hu.now_goes hl hd (2 ^ 64 - 1)
        exact ⟨_, hfull (freeHandle_none hall), hpc, hv, (congrArg State.runs (hu.now_only _ hd _).1 :)⟩
      · obtain ⟨hpc, -, hv⟩ := hu.now_goes ((dxStart_lasting s1 ctx k r w (some s.me.crew)).trans hl) hd k
        have hrun : (u.now (dxStart s1 ctx k r w (some s.me.crew)) [(d, k)]).run (ctx * 64 + k) = (dxStart s1 ctx k r w (some s.me.crew)).run (ctx * 64 + k) := by
          have hruns : (u.now (dxStart s1 ctx k r w (some s.me.crew)) [(d, k)]).runs = (dxStart s1 ctx k r w (some s.me.crew)).runs :=
            (congrArg State.runs (hu.now_only _ hd k).1 :)
          rw [State.run, hruns, State.run]
        have hacc := dxStart_run s1 ctx k r w (some s.me.crew)
        rw [← hrun] at hacc
        exact ⟨_, hfree k (freeHandle_some hk hinactive hlow), hpc, hv, hacc⟩
  case query =>
    have hf0 : (s.settled.team s.cur).flight = [] := by rw [settled_team, ready_flight h]
    have hf1 : (s1.team s.cur).flight = [] := (congrArg Team.flight (team_of_lasting (issueRead_keeps hf0 hread).1 s.cur) :).trans hf0
    obtain ⟨u, id, hu, hl2, hl1, hexec⟩ := dxQry_runs h ha hb hva hw hctx hdraft hroom halign hread hst hne (hwrite _ (by rw [opIssue_eq 4 hf1]))
    have honly := hu.done_only (opRetire s2 s.cur 4 id) [] 0 false
    have hcur : (u.done (opRetire s2 s.cur 4 id) [] 0).cur = s.cur := by
      refine honly.cur.trans ((cur_of_lasting hl2).trans ?_)
      rw [opIssue_eq 4 hf1]
      exact cur_of_lasting (t := s1) hl1
    have hpc : ((opRetire s2 s.cur 4 id).team s.cur).pc = s.me.pc := by
      rw [opRetire, updTeam_team]
      exact (congrArg Team.pc (team_of_lasting hl2 s.cur) :).trans ((congrArg Team.pc (opIssue_team 4 hf1) :).trans (congrArg Team.pc (team_of_lasting hl1 s.cur) :))
    refine ⟨_, hexec, ?_, ?_, fun q => (honly.byteAt q).trans (byteAt_updTeam _ _ _ q)⟩
    · rw [State.me, hcur]
      exact (congrArg Team.pc (hu.done_me _ [] 0 false) :).trans (congrArg (nextPc · 1) hpc)
    · rw [State.me, hcur]
      exact hu.done_status _ [] 0 false

end Sys2Proof.Machine
end

section
/-! SUPPORT. What a write of any agent does to the bytes of memory depends on the bytes alone, and remote accesses at their home (20 R409, R411,
07 R155): O48. -/

namespace Sys2Proof.Machine

/-! ### The bytes after a write -/

/-- What the bytes that the device sees are made of: memory, what is newer than it, where memory is, the links to the host, and the crews' scratch. -/
def State.stored (s : State) : State := { mem := s.mem, l2 := s.l2, nearSeed := s.nearSeed, dies := s.dies, links := s.links, crews := s.crews }

theorem byteAt_of_stored {s t : State} (h : t.stored = s.stored) (q : Place) : byteAt t q = byteAt s q := by
  cases q with
  | phys k => exact (congrArg (State.devByte · k) h :)
  | scratch c o => exact (congrArg (fun x : State => scratchAt (x.crew c) o) h :)
  | _ => rfl

theorem hostUp_of_stored {s t : State} (h : t.stored = s.stored) : hostUp t = hostUp s := (congrArg hostUp h :)

theorem putOver_stored {s t : State} (h : t.stored = s.stored) (k : Nat) (b : Byte) : (t.putOver k b).stored = (s.putOver k b).stored := by
  have hp : t.present k = s.present k := (congrArg (State.present · k) h :)
  unfold State.putOver
  rw [hp]
  split
  · exact (congrArg (fun x : State => { x with l2 := cset none x.l2 k (some b) }) h :)
  · exact h

theorem putHome_stored {s t : State} (h : t.stored = s.stored) (k : Nat) (b : Byte) : (t.putHome k b).stored = (s.putHome k b).stored := by
  have hp : t.present k = s.present k := (congrArg (State.present · k) h :)
  unfold State.putHome State.putMem
  rw [hp]
  split
  · exact (congrArg (fun x : State => { x with mem := cset (x.blank k) x.mem k b, l2 := cset none x.l2 k none }) h :)
  · exact (congrArg (fun x : State => { x with l2 := cset none x.l2 k none }) h :)

theorem putOverBytes_stored (bs : List Byte) {s t : State} (h : t.stored = s.stored) (k : Nat) :
    (t.putOverBytes k bs).stored = (s.putOverBytes k bs).stored := by
  induction bs generalizing s t k with
  | nil => exact h
  | cons b r ih => exact ih (putOver_stored h k b) (k + 1)

theorem putHomeBytes_stored (bs : List Byte) {s t : State} (h : t.stored = s.stored) (k : Nat) :
    (t.putHomeBytes k bs).stored = (s.putHomeBytes k bs).stored := by
  induction bs generalizing s t k with
  | nil => exact h
  | cons b r ih => exact ih (putHome_stored h k b) (k + 1)

theorem dirtyDie_stored (s : State) (ctx die : Nat) : (s.dirtyDie ctx die).stored = s.stored := by
  unfold State.dirtyDie
  split <;> rfl

theorem useL2_stored (s : State) (line hint : Nat) : (useL2 s line hint).stored = s.stored := by
  unfold useL2
  split <;> rfl

theorem rewrites_stored (s : State) (k n : Nat) : (s.rewrites k n).stored = s.stored := by
  unfold State.rewrites
  dsimp only
  split <;> rfl

theorem unhide_stored (s : State) (p : Place) (n : Nat) : (s.unhide p n).stored = s.stored := by
  unfold State.unhide
  split <;> rfl

theorem touchLines_stored (ls : List Nat) (s : State) : (ls.foldl State.touch s).stored = s.stored :=
  foldl_keeps State.touch State.stored (fun s line => (congrArg State.stored (touch_only s line) :)) ls s

theorem post_stored {s t : State} (h : t.stored = s.stored) (w w' ctx k : Nat) (bs : List Byte) :
    (t.post w ctx k bs).stored = (s.post w' ctx k bs).stored := by
  unfold State.post
  rw [hostUp_of_stored h]
  split
  · exact putOverBytes_stored bs h k
  · exact h

/-- What a write of the device does to the bytes, by whom and with what hint it may be, once the caches are left out. -/
theorem putDevBytes_stored {s t : State} (h : t.stored = s.stored) (w ctx k : Nat) (bs : List Byte) (hint : Nat) :
    (t.putDevBytes w ctx k bs hint).stored = (s.putDevBytes w ctx k bs hint).stored := by
  have far (s : State) : (if decide (w < 512 ∧ w / 128 ≠ keyDie k) = true then
      storeMargin (s.dirtyDie ctx (w / 128)) (w / 128) (keyLines k bs.length) else s).stored = s.stored := by
    split
    · exact dirtyDie_stored s ctx _
    · rfl
  have lines (s : State) : ((keyLines k bs.length).foldl (fun s l => useL2 s l (if hint = 3 then 0 else hint)) (s.dirtyDie ctx (keyDie k))).stored = s.stored :=
    (foldl_keeps (fun s l => useL2 s l (if hint = 3 then 0 else hint)) State.stored (fun s l => useL2_stored s l _) _ _).trans (dirtyDie_stored s ctx _)
  have hfar := (far t).trans (h.trans (far s).symm)
  unfold State.putDevBytes
  dsimp only
  split
  · exact post_stored h w w ctx k bs
  · split
    · exact putOverBytes_stored bs ((lines _).trans (hfar.trans (lines _).symm)) k
    · split
      · exact putOverBytes_stored bs hfar k
      · exact putHomeBytes_stored bs hfar k

theorem putPlace_stored {s t : State} (h : t.stored = s.stored) (w ctx : Nat) (p : Place) (bs : List Byte) (bad : Bool) (hint : Nat) :
    (putPlace t w ctx p bs bad hint).stored = (putPlace s w ctx p bs bad hint).stored := by
  refine (touchLines_stored _ _).trans (.trans ?_ (touchLines_stored _ _).symm)
  cases p with
  | phys k => exact putDevBytes_stored ((rewrites_stored t k _).trans (h.trans (rewrites_stored s k _).symm)) w ctx k bs hint
  | scratch c o =>
    exact (congrArg (fun x : State => (x.updCrew c (fun c => { c with
      scratch := scratchPut c.scratch o bs, scratchPoison := poisonAfter c.scratchPoison o bs.length bad }))) h :)
  | _ => exact h

theorem seenBy_stored (s : State) (core : Nat) (p : Place) (n : Nat) : (seenBy s core p n).stored = s.stored := by
  unfold seenBy seeWords
  split <;> rfl

theorem storeBad_stored (s : State) (core : Nat) (p : Place) (bs : List Byte) : (storeBad s core p bs).stored = s.stored := by
  unfold storeBad
  split <;> rfl

/-- A write that other cores may see later leaves the bytes as the write itself does. -/
theorem shareWrite_stored {s t : State} (h : t.stored = s.stored) (w ctx : Nat) (p : Place) (bs : List Byte) (bad : Bool) (hint : Nat) :
    (shareWrite t w ctx p bs bad hint).stored = (putPlace s w ctx p bs bad hint).stored := by
  have forms (n : Nat) (ps : List Place) (s : State) : (ps.foldl (fun s x => keepForm s n w x) s).stored = s.stored :=
    foldl_keeps (fun s x => keepForm s n w x) State.stored (fun _ _ => rfl) ps s
  have own : (if w < 512 then storeBad (seenBy t w p bs.length) w p bs else t).stored = t.stored := by
    split
    · exact (storeBad_stored _ w p bs).trans (seenBy_stored t w p _)
    · rfl
  unfold shareWrite
  generalize (if w < 512 then storeBad (seenBy t w p bs.length) w p bs else t) = t1 at own ⊢
  refine putPlace_stored ?_ w ctx p bs bad hint
  split
  · exact (forms _ _ _).trans (own.trans h)
  · exact own.trans h

/-- At home, a write that other cores may see later leaves the bytes as one does that all see at once. -/
theorem byteAt_shareWrite (s : State) (ctx : Nat) (p : Place) (bs : List Byte) (bad : Bool) (q : Place) :
    byteAt (shareWrite s 512 ctx p bs bad) q = byteAt (writePlace s ctx p bs bad) q :=
  byteAt_of_stored ((shareWrite_stored (t := s) (s := s.unhide p bs.length) (unhide_stored s p _).symm 512 ctx p bs bad 0)) q

/-! ### Views that no access to memory reaches -/

/-- A view of the machine that no walk and no write to memory reaches: it is the same whatever memory and the caches hold, whatever sleeps end, and
whatever a context notes of its writes and of an empty pool of frames. -/
structure Unwritten {α : Type} (V : State → α) : Prop where
  memory : ∀ (s : State) fr qs co me l2 th po pz st ca di,
    V { s with fresh := fr, queues := qs, cores := co, mem := me, l2 := l2, through := th, posted := po, poison := pz, stale := st, caches := ca, dies := di } = V s
  scratch : ∀ (s : State) i sc sp, V (s.setCrew i { s.crew i with scratch := sc, scratchPoison := sp }) = V s
  wakes : ∀ (s : State) i, V (s.updTeam i Team.wake) = V s
  notes : ∀ (s : State) i d f, V (s.setCtx i { s.ctx i with dirtyDies := d, frPool := f }) = V s

/-- A view that no access to memory by address reaches: not what a team keeps of its translations either, nor whether a launch has lost its host. -/
structure Aloof {α : Type} (V : State → α) : Prop extends Unwritten V where
  pages : ∀ (s : State) i ps, V (s.setTeam i { s.team i with lastPage := ps }) = V s
  hosts : ∀ (s : State) i st, V (s.setLaunch i { s.launch i with status := st }) = V s

namespace Unwritten
variable {α : Type} {V : State → α}

theorem touch (hV : Unwritten V) (s : State) (line : Nat) : V (s.touch line) = V s := by
  have wakes (l : Cells Team) (s : State) : V (l.foldl (fun s e => if e.2.sleepsOn line then s.updTeam e.1 (·.wake) else s) s) = V s :=
    foldl_keeps _ V (fun s e => by
      split
      · exact hV.wakes s e.1
      · rfl) l s
  have watched : V (if s.queues.any (fun e => e.2.watch == some line) then
      { s with queues := s.queues.map (fun e => if e.2.watch = some line then (e.1, { e.2 with lineChanged := true }) else e) } else s) = V s := by
    split
    · exact hV.memory s _ _ _ _ _ _ _ _ _ _ _
    · rfl
  unfold State.touch
  generalize (if s.queues.any (fun e => e.2.watch == some line) then
      { s with queues := s.queues.map (fun e => if e.2.watch = some line then (e.1, { e.2 with lineChanged := true }) else e) } else s) = s1 at watched ⊢
  dsimp only
  split
  · exact (wakes _ s1).trans watched
  · exact watched

theorem touchLines (hV : Unwritten V) (ls : List Nat) (s : State) : V (ls.foldl State.touch s) = V s := foldl_keeps State.touch V hV.touch ls s

theorem putMem (hV : Unwritten V) (s : State) (k : Nat) (b : Byte) : V (s.putMem k b) = V s := by
  unfold State.putMem
  split
  · exact hV.memory s _ _ _ _ _ _ _ _ _ _ _
  · rfl

theorem putHome (hV : Unwritten V) (s : State) (k : Nat) (b : Byte) : V (s.putHome k b) = V s :=
  (hV.memory (s.putMem k b) _ _ _ _ _ _ _ _ _ _ _).trans (hV.putMem s k b)

theorem putMemBytes (hV : Unwritten V) (bs : List Byte) (s : State) (k : Nat) : V (s.putMemBytes k bs) = V s := by
  induction bs generalizing s k with
  | nil => rfl
  | cons b r ih => exact (ih _ _).trans (hV.putMem s k b)

theorem putHomeBytes (hV : Unwritten V) (bs : List Byte) (s : State) (k : Nat) : V (s.putHomeBytes k bs) = V s := by
  induction bs generalizing s k with
  | nil => rfl
  | cons b r ih => exact (ih _ _).trans (hV.putHome s k b)

theorem putOverBytes (hV : Unwritten V) (bs : List Byte) (s : State) (k : Nat) : V (s.putOverBytes k bs) = V s := by
  induction bs generalizing s k with
  | nil => rfl
  | cons b r ih =>
    refine (ih _ _).trans ?_
    unfold State.putOver
    split
    · exact hV.memory s _ _ _ _ _ _ _ _ _ _ _
    · rfl

theorem unhide (hV : Unwritten V) (s : State) (p : Place) (n : Nat) : V (s.unhide p n) = V s := by
  unfold State.unhide
  split
  · rfl
  · exact hV.memory s _ _ _ _ _ _ _ _ _ _ _

theorem homePut (hV : Unwritten V) (s : State) (k : Nat) (bs : List Byte) : V (homePut s k bs) = V s := by
  refine (hV.touchLines _ _).trans (.trans ?_ ((hV.putHomeBytes bs _ k).trans (hV.unhide s (.phys k) bs.length)))
  exact hV.memory _ _ _ _ _ _ _ _ _ _ _ _

theorem dirtyDie (hV : Unwritten V) (s : State) (ctx die : Nat) : V (s.dirtyDie ctx die) = V s := by
  unfold State.dirtyDie
  split
  · rfl
  · exact hV.notes s ctx _ _

theorem useL2 (hV : Unwritten V) (s : State) (line hint : Nat) : V (useL2 s line hint) = V s := by
  unfold Machine.useL2
  split
  · exact hV.memory s _ _ _ _ _ _ _ _ _ _ _
  · rfl

theorem post (hV : Unwritten V) (s : State) (w ctx k : Nat) (bs : List Byte) : V (s.post w ctx k bs) = V s := by
  unfold State.post
  split
  · exact (hV.memory (s.putOverBytes k bs) _ _ _ _ _ _ _ _ _ _ _).trans (hV.putOverBytes bs s k)
  · rfl

theorem rewrites (hV : Unwritten V) (s : State) (k n : Nat) : V (s.rewrites k n) = V s := by
  unfold State.rewrites
  dsimp only
  split
  · exact hV.memory s _ _ _ _ _ _ _ _ _ _ _
  · rfl

theorem putDevBytes (hV : Unwritten V) (s : State) (w ctx k : Nat) (bs : List Byte) (hint : Nat) : V (s.putDevBytes w ctx k bs hint) = V s := by
  have far : V (if decide (w < 512 ∧ w / 128 ≠ keyDie k) = true then
      storeMargin (s.dirtyDie ctx (w / 128)) (w / 128) (keyLines k bs.length) else s) = V s := by
    split
    · exact (hV.memory (s.dirtyDie ctx (w / 128)) _ _ _ _ _ _ _ _ _ _ _).trans (hV.dirtyDie s ctx _)
    · rfl
  have lines (s : State) : V ((keyLines k bs.length).foldl (fun s l => Machine.useL2 s l (if hint = 3 then 0 else hint)) (s.dirtyDie ctx (keyDie k))) = V s :=
    (foldl_keeps (fun s l => Machine.useL2 s l (if hint = 3 then 0 else hint)) V (fun s l => hV.useL2 s l _) _ _).trans (hV.dirtyDie s ctx _)
  unfold State.putDevBytes
  dsimp only
  split
  · exact hV.post s w ctx k bs
  · split
    · exact (hV.putOverBytes bs _ k).trans ((lines _).trans far)
    · split
      · exact (hV.memory (State.putOverBytes _ k bs) _ _ _ _ _ _ _ _ _ _ _).trans ((hV.putOverBytes bs _ k).trans far)
      · exact (hV.putHomeBytes bs _ k).trans far

theorem putPlace (hV : Unwritten V) (s : State) (w ctx : Nat) (p : Place) (bs : List Byte) (bad : Bool) (hint : Nat) :
    V (putPlace s w ctx p bs bad hint) = V s := by
  refine (hV.touchLines _ _).trans ?_
  cases p with
  | phys k =>
    exact (hV.memory ((s.rewrites k bs.length).putDevBytes w ctx k bs hint) _ _ _ _ _ _ _ _ _ _ _).trans
      ((hV.putDevBytes _ w ctx k bs hint).trans (hV.rewrites s k _))
  | scratch c o => exact hV.scratch s c _ _
  | _ => rfl

/-- A view that does not see the caches. -/
theorem of_uncached (hV : Unwritten V) {s t : State} (h : t.uncached = s.uncached) : V t = V s := by
  rw [eq_of_uncached h]
  exact hV.memory s _ _ _ _ _ _ _ _ _ _ _

theorem shareWrite (hV : Unwritten V) (s : State) (w ctx : Nat) (p : Place) (bs : List Byte) (bad : Bool) (hint : Nat) :
    V (shareWrite s w ctx p bs bad hint) = V s := by
  have forms (n : Nat) (ps : List Place) (s : State) : V (ps.foldl (fun s x => keepForm s n w x) s) = V s :=
    foldl_keeps (fun s x => keepForm s n w x) V (fun s x => hV.memory s _ _ _ _ _ _ _ _ _ _ _) ps s
  have own : V (if w < 512 then storeBad (seenBy s w p bs.length) w p bs else s) = V s := by
    split
    · have hbad : (storeBad (seenBy s w p bs.length) w p bs).uncached = (seenBy s w p bs.length).uncached := by
        unfold storeBad
        split <;> rfl
      exact (hV.of_uncached hbad).trans (hV.of_uncached (seenBy_uncached s w p _))
    · rfl
  unfold Machine.shareWrite
  generalize (if w < 512 then storeBad (seenBy s w p bs.length) w p bs else s) = s1 at own ⊢
  refine (hV.putPlace _ w ctx p bs bad hint).trans (.trans ?_ own)
  split
  · exact (forms _ _ _).trans (hV.memory s1 _ _ _ _ _ _ _ _ _ _ _)
  · rfl

theorem setBits (hV : Unwritten V) (s : State) (key set : Nat) : V (setBits s key set) = V s := by
  unfold Machine.setBits
  dsimp only
  split
  · rfl
  · exact (hV.touchLines _ _).trans (hV.putMem s key _)

theorem firstTouch (hV : Unwritten V) (s : State) (ctx pte key : Nat) (write : Bool) : V (firstTouch s ctx pte key write).1 = V s := by
  unfold Machine.firstTouch
  dsimp only
  split
  · exact hV.notes s ctx _ true
  · exact (hV.memory (Machine.homePut s key _) _ _ _ _ _ _ _ _ _ _ _).trans (hV.homePut s key _)

theorem walk (hV : Unwritten V) (s : State) (ctx : Nat) (spec : Bool) (acc : Acc) (va : Nat) : V (walk s ctx spec acc va).1 = V s := by
  unfold Machine.walk
  split
  · rfl
  · dsimp only
    have drawn : V s.draw.2 = V s := hV.memory s _ _ _ _ _ _ _ _ _ _ _
    split
    · exact drawn
    · exact (hV.setBits _ _ _).trans drawn
  · next e k _ =>
    have h := hV.firstTouch s ctx e k acc.writes
    split <;> next e => rw [e] at h; exact h

theorem writePieces (hV : Unwritten V) (w ctx : Nat) (bad : Bool) (hint : Nat) (ps : List (Nat × Place × Nat)) (s : State) (bs : List Byte) :
    V (writePieces s w ctx bad hint ps bs) = V s := by
  induction ps generalizing s bs with
  | nil => rfl
  | cons p r ih => exact (ih _ _).trans (hV.shareWrite s w ctx _ _ bad hint)

end Unwritten

namespace Aloof
variable {α : Type} {V : State → α}

theorem updCore (hV : Aloof V) (s : State) (i : Nat) (f : Core → Core) : V (s.updCore i f) = V s := hV.memory s _ _ _ _ _ _ _ _ _ _ _

theorem translate (hV : Aloof V) (s : State) (a : Agent) (acc : Acc) (va : Nat) : V (translate s a acc va).1 = V s := by
  have hwalk := hV.walk s a.ctx a.spec acc va
  unfold Machine.translate
  extract_lets core useLast last part ptlb ctlb keep
  clear_value core useLast last part ptlb ctlb
  have hpart (s : State) (h : Held) : V (match core, part with
      | some c, some p => if a.source = 0 then s.updCore c (fun k => { k with ptlb := cset [] k.ptlb p (tlbPut 64 (cget [] k.ptlb p) h) }) else s
      | _, _ => s) = V s := by
    split
    · split
      · exact hV.updCore s _ _
      · rfl
    · rfl
  have hkeep (s : State) (h : Held) : V (keep s h) = V s := by
    refine .trans ?_ (hpart s h)
    dsimp only [keep]
    split
    · split
      · exact hV.pages _ _ _
      · rfl
    · rfl
  split
  · rfl
  · split
    · exact hkeep s _
    · split
      · exact hkeep s _
      · split
        · next e => rw [e] at hwalk; exact hwalk
        · next s1 h e =>
          rw [e] at hwalk
          refine (hkeep _ h).trans (.trans ?_ hwalk)
          split
          · exact hV.updCore s1 _ _
          · rfl

theorem hostLost (hV : Aloof V) (s : State) (a : Agent) (key : Nat) : V (hostLost s a key) = V s := by
  unfold Machine.hostLost
  split
  · split
    · next ci _ =>
      unfold State.updLaunch
      dsimp only
      split
      · exact hV.hosts s _ 5
      · exact hV.hosts s (s.crew ci).launch (s.launch (s.crew ci).launch).status
    · rfl
  · rfl

theorem place (hV : Aloof V) (s : State) (a : Agent) (acc : Acc) (va : Nat) : V (place s a acc va).1 = V s := by
  have h := hV.translate s a acc va
  unfold Machine.place
  split
  · rfl
  · split
    · next e => rw [e] at h; exact (hV.hostLost _ a _).trans h
    · next e => rw [e] at h; exact h

theorem placeVa (hV : Aloof V) (s : State) (a : Agent) (acc : Acc) (va : Nat) : V (placeVa s a acc va).1 = V s := by
  have h := hV.place s a acc va
  unfold Machine.placeVa
  split <;> next e => rw [e] at h; exact h

theorem placesOf (hV : Aloof V) (a : Agent) (acc : Acc) (ps : List (Nat × Nat)) (s : State) : V (placesOf s a acc ps).1 = V s := by
  induction ps generalizing s with
  | nil => rfl
  | cons p r ih =>
    have hp := hV.placeVa s a acc p.1
    unfold Machine.placesOf
    split
    · next e => rw [e] at hp; exact hp
    · next s1 _ e =>
      rw [e] at hp
      refine .trans ?_ hp
      split
      · rfl
      · have hr := ih s1
        split <;> next e => rw [e] at hr; exact hr

theorem writeVa (hV : Aloof V) (s : State) (a : Agent) (acc : Acc) (va : Nat) (bs : List Byte) (bad : Bool) (hint : Nat) :
    V (writeVa s a acc va bs bad hint).1 = V s := by
  have h := hV.placesOf a acc (piecesOf va bs.length) s
  unfold Machine.writeVa
  split
  · next e => rw [e] at h; exact h
  · next e => rw [e] at h; exact (hV.writePieces _ _ bad hint _ _ bs).trans h

theorem engRead (hV : Aloof V) (s : State) (a : Agent) (ci va n hint : Nat) : V (engRead s a ci va n hint).1 = V s := by
  have h := hV.placesOf a .engR (piecesOf va n) s
  unfold Machine.engRead
  split
  · next e => rw [e] at h; exact h
  · next s1 ps e =>
    rw [e] at h
    exact (hV.of_uncached (foldl_keeps (fun s p => engineLine s (s.crew ci).core p hint) State.uncached (fun s p => engineLine_uncached s _ p hint)
      (ps.flatMap (fun x => x.2.1.firsts x.2.2)) s1)).trans h

end Aloof

/-- The contexts but for their notes of the dies that they have written through, and of a pool of frames that was empty. -/
def State.counted (s : State) : Nat → Ctx := fun c => { s.ctx c with dirtyDies := [], frPool := false }

theorem counted_aloof : Aloof State.counted where
  memory _ _ _ _ _ _ _ _ _ _ _ _ := rfl
  scratch _ _ _ _ := rfl
  wakes _ _ := rfl
  pages _ _ _ := rfl
  hosts _ _ _ := rfl
  notes s i d f := by
    funext c
    by_cases hc : c = i
    · subst hc
      simp [State.counted]
    · exact congrArg (fun x : Ctx => { x with dirtyDies := [], frPool := false }) (setCtx_ctx_ne s i c _ hc)

theorem counter_of_counted {s t : State} (h : t.counted = s.counted) (c k : Nat) : (t.ctx c).counter k = (s.ctx c).counter k :=
  (congrArg (Ctx.counter · k) (congrFun h c) :)

theorem fabric_of_aside {s t : State} (h : t.aside = s.aside) : t.fabric = s.fabric := (congrArg State.fabric h :)

/-! ### One lane at its home -/

/-- The step to a state that differs from another, as far as an arrival says, by no more than messages, a count and notes of words unseen. -/
theorem noteOwn_keeps (s : State) (ctx src token va n : Nat) :
    (noteOwn s ctx src token va n).fabric = s.fabric ∧ (noteOwn s ctx src token va n).ctxs = s.ctxs ∧
      ∀ q, byteAt (noteOwn s ctx src token va n) q = byteAt s q := by
  unfold noteOwn
  split
  · exact ⟨rfl, rfl, fun _ => rfl⟩
  · split
    · unfold noteVa
      split
      · exact ⟨rfl, rfl, fun _ => rfl⟩
      · split
        · dsimp only
          split
          · exact ⟨rfl, rfl, fun _ => rfl⟩
          · exact ⟨rfl, rfl, fun q => byteAt_updTeam _ _ _ q⟩
        · exact ⟨rfl, rfl, fun _ => rfl⟩
    · exact ⟨rfl, rfl, fun _ => rfl⟩

/-- The counter that a packet names is added to; the bytes and the fabric are as they were. -/
theorem pktCount_keeps (s : State) (ctx : Nat) (ctr : Option Nat) (n : Nat) :
    (pktCount s ctx ctr n).fabric = s.fabric ∧ (∀ q, byteAt (pktCount s ctx ctr n) q = byteAt s q) ∧
      ∀ k < 256, ctr = some k → ((pktCount s ctx ctr n).ctx ctx).counter k = ((s.ctx ctx).counter k + n) % 2 ^ 64 := by
  cases ctr with
  | none => exact ⟨rfl, fun _ => rfl, fun _ _ h => nomatch h⟩
  | some j =>
    refine ⟨rfl, fun q => byteAt_updCtx _ _ _ q, fun k hk h => ?_⟩
    obtain rfl := Option.some.inj h
    show ((ctrAdd s ctx (j % 256) n).ctx ctx).counter j = _
    rw [Nat.mod_eq_of_lt hk, ctrAdd_counter, if_pos rfl]

/-- What an arrival that was done leaves, after a state `w` in which its bytes are written: noted, counted, and acknowledged for one lane. -/
theorem acknowledged (w : State) (ctx src token va n : Nat) (ctr : Option Nat) (m : FabMsg) :
    ((pktCount (noteOwn w ctx src token va n) ctx ctr n).send m).fabric = w.fabric ++ [m] ∧
      (∀ q, byteAt ((pktCount (noteOwn w ctx src token va n) ctx ctr n).send m) q = byteAt w q) ∧
      ∀ k < 256, ctr = some k →
        (((pktCount (noteOwn w ctx src token va n) ctx ctr n).send m).ctx ctx).counter k = ((w.ctx ctx).counter k + n) % 2 ^ 64 := by
  obtain ⟨hnf, hnc, hnb⟩ := noteOwn_keeps w ctx src token va n
  obtain ⟨hcf, hcb, hcc⟩ := pktCount_keeps (noteOwn w ctx src token va n) ctx ctr n
  obtain ⟨hsf, hsc, -, hsb⟩ := send_keeps (pktCount (noteOwn w ctx src token va n) ctx ctr n) m
  refine ⟨hsf.trans (by rw [hcf, hnf]), fun q => (hsb q).trans ((hcb q).trans (hnb q)), fun k hk h => ?_⟩
  rw [State.ctx, hsc]
  exact (hcc k hk h).trans (by rw [State.ctx, hnc]; rfl)

/-- A written lane of a packet of one: what it leaves. -/
theorem pktArrive_one {s s1 : State} {ctx src token kind ty size : Nat} {x : RemoteLane} {ctr : Option Nat} {p : Place} {bs : List Byte}
    (hkind : kind ≠ 1) (hheld : ∀ y ∈ (s.ctx ctx).remoteHeld, y.src ≠ src ∨ y.token ≠ token)
    (hlane : laneAt s.tick.2 ctx kind ty size x = (shareWrite s1 512 ctx p bs x.poison, .ok x)) :
    (pktArrive s ctx src token kind ty size [x] ctr).fabric = s1.fabric ++ [.writeAck src ctx token 1] ∧
      (∀ q, byteAt (pktArrive s ctx src token kind ty size [x] ctr) q = byteAt (writePlace s1 ctx p bs x.poison) q) ∧
      ∀ k < 256, ctr = some k →
        ((pktArrive s ctx src token kind ty size [x] ctr).ctx ctx).counter k = ((s1.ctx ctx).counter k + size) % 2 ^ 64 := by
  have hnone : (s.tick.2.ctx ctx).remoteHeld.find? (fun y => y.src == src && y.token == token && y.lane.va % 65536 == x.va % 65536) = none := by
    rw [List.find?_eq_none]
    intro y hy
    obtain h | h := hheld y hy <;> simp [h]
  have harrive : pktArrive s ctx src token kind ty size [x] ctr =
      (pktCount (noteOwn (shareWrite s1 512 ctx p bs x.poison) ctx src token x.va size) ctx ctr size).send (.writeAck src ctx token 1) := by
    unfold pktArrive
    simp only [List.foldl_cons, List.foldl_nil, pktLane, lowerHeld, if_neg hkind, hnone, Option.map_none, hlane, pktAnswer, Bool.false_eq_true,
      if_false, List.nil_append, List.isEmpty_cons, List.length_singleton, Nat.mul_one]
  obtain ⟨hf, hb, hc⟩ := acknowledged (shareWrite s1 512 ctx p bs x.poison) ctx src token x.va size ctr (.writeAck src ctx token 1)
  rw [harrive]
  refine ⟨hf.trans (by rw [fabric_of_aside (shareWrite_aside s1 512 ctx p bs x.poison 0)]), fun q => (hb q).trans (byteAt_shareWrite s1 ctx p bs x.poison q),
    fun k hk h => (hc k hk h).trans ?_⟩
  rw [counter_of_counted (counted_aloof.shareWrite s1 512 ctx p bs x.poison 0)]

/-- PUTR_ARRIVAL of one lane. -/
theorem putrArrival_runs {s s0 s1 : State} {ctx src token size : Nat} {x : RemoteLane} {p : Place} {ctr : Option Nat} (hup : fabricUp s = true)
    (htake : takeOwn s src (.putr s.chipId ctx token size [x] ctr) = some s0)
    (hheld : ∀ y ∈ (s.ctx ctx).remoteHeld, y.src ≠ src ∨ y.token ≠ token)
    (hplace : placeVa s0.tick.2 (fabricAgent ctx) .fabW x.va = (s1, .ok p)) :
    Sys2Proof.Claims.To (.putrArrival ctx src token size [x] ctr) s (fun t => t.fabric = s1.fabric ++ [.writeAck src ctx token 1] ∧
      (∀ q, byteAt t q = byteAt (writePlace s1 ctx p (leBytes size x.data.toNat) x.poison) q) ∧
      ∀ k < 256, ctr = some k → (t.ctx ctx).counter k = ((s1.ctx ctx).counter k + size) % 2 ^ 64) := by
  obtain ⟨-, hctxs, -⟩ := takeOwn_keeps htake
  have hexec : exec (.putrArrival ctx src token size [x] ctr) s = .next (pktArrive s0 ctx src token 0 0 size [x] ctr) := by
    show Host.Outcome.next _ = _
    simp only [htake, hup, if_true]
  refine ⟨_, hexec, pktArrive_one (by decide) (by rw [State.ctx, hctxs]; exact hheld) ?_⟩
  unfold laneAt
  simp only [if_true, hplace]

/-- RRED_ARRIVAL of one lane that is not poisoned. -/
theorem rredArrival_runs {s s0 s1 : State} {ctx src token ty : Nat} {isMax : Bool} {x : RemoteLane} {p : Place} {ctr : Option Nat}
    (hup : fabricUp s = true) (hty : tyAtomAdd ty = true)
    (htake : takeOwn s src (.rred s.chipId ctx token ty isMax [x] ctr) = some s0)
    (hheld : ∀ y ∈ (s.ctx ctx).remoteHeld, y.src ≠ src ∨ y.token ≠ token)
    (hplace : placeVa s0.tick.2 (fabricAgent ctx) .fabA x.va = (s1, .ok p)) (hclean : (readPlace s1 p (tySize ty)).2 = false) :
    Sys2Proof.Claims.To (.rredArrival ctx src token ty isMax [x] ctr) s (fun t => t.fabric = s1.fabric ++ [.writeAck src ctx token 1] ∧
      (∀ q, byteAt t q = byteAt (writePlace s1 ctx p (leBytes (tySize ty)
        (rredNew ty isMax (ofLE (readPlace s1 p (tySize ty)).1) (x.data.toNat % 2 ^ (8 * tySize ty)))) x.poison) q) ∧
      ∀ k < 256, ctr = some k → (t.ctx ctx).counter k = ((s1.ctx ctx).counter k + tySize ty) % 2 ^ 64) := by
  obtain ⟨-, hctxs, -⟩ := takeOwn_keeps htake
  have hexec : exec (.rredArrival ctx src token ty isMax [x] ctr) s =
      .next (pktArrive s0 ctx src token (if isMax then 3 else 2) ty (tySize ty) [x] ctr) := by
    show Host.Outcome.next _ = _
    simp only [htake, hup, hty, Bool.and_self, if_true]
  have hkind : (if isMax then 3 else 2) ≠ 1 := by cases isMax <;> decide
  refine ⟨_, hexec, pktArrive_one hkind (by rw [State.ctx, hctxs]; exact hheld) ?_⟩
  unfold laneAt
  cases isMax <;> simp only [Bool.false_eq_true, if_true, if_false, OfNat.ofNat_ne_zero, OfNat.ofNat_ne_one, hplace, hclean] <;> rfl

/-- GETR_REQUEST_ARRIVAL of one lane. -/
theorem getrRequestArrival_runs {s s0 s1 : State} {ctx src token size : Nat} {x : RemoteLane} {p : Place} (hup : fabricUp s = true)
    (htake : takeOwn s src (.getr s.chipId ctx token size [x]) = some s0)
    (hplace : placeVa s0.tick.2 (fabricAgent ctx) .fabR x.va = (s1, .ok p)) :
    Sys2Proof.Claims.To (.getrRequestArrival ctx src token size [x]) s (fun t => t.fabric = s1.fabric ++
      [.getrReply src ctx token [{ x with data := w64 (ofLE (readPlace s1 p size).1), poison := (readPlace s1 p size).2 }]] ∧
      (∀ q, byteAt t q = byteAt s1 q)) := by
  have hexec : exec (.getrRequestArrival ctx src token size [x]) s =
      .next (s1.send (.getrReply src ctx token [{ x with data := w64 (ofLE (readPlace s1 p size).1), poison := (readPlace s1 p size).2 }])) := by
    show Host.Outcome.next _ = _
    simp only [htake, hup, if_true, pktArrive, List.foldl_cons, List.foldl_nil, pktLane, lowerHeld, laneAt, one_ne_zero, if_false, hplace,
      pktAnswer, pktCount, List.nil_append, List.isEmpty_cons, Bool.false_eq_true]
  obtain ⟨hf, -, -, hb⟩ := send_keeps s1 (.getrReply src ctx token
    [{ x with data := w64 (ofLE (readPlace s1 p size).1), poison := (readPlace s1 p size).2 }])
  exact ⟨_, hexec, hf, hb⟩

/-- TRIGGERED_SEND_ARRIVAL of data that is not poisoned. -/
theorem triggeredSendArrival_runs {s s0 s1 : State} {ctx src token va : Nat} {bytes : List Byte} {ctr : Option Nat} (hup : fabricUp s = true)
    (htake : takeOwn s src (.send s.chipId ctx token va bytes [] ctr) = some s0)
    (hwrite : writeVa s0 (fabricAgent ctx) .fabW va bytes = (s1, .ok ())) :
    Sys2Proof.Claims.To (.triggeredSendArrival ctx src token va bytes [] ctr) s (fun t =>
      t.fabric = s1.fabric ++ [.writeAck src ctx token 1] ∧ (∀ q, byteAt t q = byteAt s1 q) ∧
      ∀ k < 256, ctr = some k → (t.ctx ctx).counter k = ((s1.ctx ctx).counter k + bytes.length) % 2 ^ 64) := by
  have hexec : exec (.triggeredSendArrival ctx src token va bytes [] ctr) s =
      .next ((pktCount (noteOwn s1 ctx src token va bytes.length) ctx ctr bytes.length).send (.writeAck src ctx token 1)) := by
    show Host.Outcome.next _ = _
    simp only [htake, hup, if_true, sendArrive, writeMarked, hwrite, List.foldl_nil]
  exact ⟨_, hexec, acknowledged s1 ctx src token va bytes.length ctr (.writeAck src ctx token 1)⟩

/-- A message of this chip's own is not taken before its turn. -/
theorem takeOwn_early {s : State} {m : FabMsg} (h : s.fabric.find? (fun y => y.chip == s.chipId && y.vc == m.vc) ≠ some m) :
    takeOwn s s.chipId m = none := by
  unfold takeOwn
  rw [if_neg (not_not_intro rfl), if_neg h]

/-- Settles O48. -/
theorem remoteAccessesArrive : Obligations.RemoteAccessesArrive := by
  unfold Obligations.RemoteAccessesArrive
  intro s s0 s1 ctx src token size ty x p ctr hup
  refine ⟨fun htake hheld hplace => putrArrival_runs hup htake hheld hplace, fun htake hplace => getrRequestArrival_runs hup htake hplace,
    ?combined, ?early, fun va bytes htake hwrite => triggeredSendArrival_runs hup htake hwrite⟩
  case combined =>
    intro isMax m v htake hheld hplace hty hclean hm hv
    subst hm hv
    exact rredArrival_runs hup hty htake hheld hplace hclean
  case early =>
    intro isMax va bytes e he hsrc hfind
    subst hsrc
    have hnone := takeOwn_early hfind
    simp only [List.mem_cons, List.not_mem_nil, or_false] at he
    obtain rfl | rfl | rfl | rfl := he <;> dsimp only at hnone <;> show Host.Outcome.next _ = _ <;> simp only [hnone]

end Sys2Proof.Machine
end

section
/-! SUPPORT. Collectives (07 R139 to R157, 20 R414): what the opening of a member keeps, and the events of one that is open: O52. -/

namespace Sys2Proof.Machine

/-! ### What a member's opening keeps -/

/-- Of a member what it opened with: whether it is there, its descriptor, and of which kind it is. -/
def Coll.opened (c : Coll) : Bool × List Byte × Nat := (c.active, c.desc, c.kind)

/-- Of the machine what lasts of its teams, and what each member opened with. -/
def State.members (s : State) : (Nat × (Nat → Team)) × (Nat → Bool × List Byte × Nat) := (s.lasting, fun k => (s.coll k).opened)

theorem lasting_of_members {s t : State} (h : t.members = s.members) : t.lasting = s.lasting := congrArg Prod.fst h

theorem opened_of_members {s t : State} (h : t.members = s.members) (k : Nat) : (t.coll k).opened = (s.coll k).opened :=
  congrFun (congrArg Prod.snd h) k

theorem send_members (s : State) (m : FabMsg) : (s.send m).members = s.members := by
  unfold State.send
  dsimp only
  split <;> rfl

theorem setColl_members {s : State} {k : Nat} {c : Coll} (h : c.opened = (s.coll k).opened) : (s.setColl k c).members = s.members := by
  refine Prod.ext rfl (funext fun j => ?_)
  by_cases hj : j = k
  · subst hj
    simpa [State.members] using h
  · simp [State.members, hj]

theorem collSend_members (s : State) (c : Coll) (m : Nat → FabMsg) : (collSend s c m).members = s.members :=
  foldl_keeps _ State.members (fun s k => send_members s (m k)) _ _

theorem ends_opened (c : Coll) (status info : Nat) (undef : Bool) : (c.ends status info undef).opened = c.opened := by
  unfold Coll.ends
  split <;> rfl

theorem collHear_members (s : State) (k role : Nat) (a : Announce) : (collHear s k role a).members = s.members := by
  unfold collHear
  dsimp only
  split
  · rfl
  · split
    · split
      · rfl
      · exact setColl_members (ends_opened _ _ _ _)
    · refine setColl_members ?_
      split
      · exact ends_opened _ _ _ _
      · split
        · exact ends_opened _ _ _ _
        · split <;> rfl

/-- A member that opens is there, with its descriptor, whatever it finds of the others, and no team changes. -/
theorem collOpen_keeps (s : State) (c : Coll) (h : Nat) :
    (collOpen s c h).lasting = s.lasting ∧ ((collOpen s c h).coll (c.ctx * 64 + h)).opened = c.opened := by
  have hb := hubBindings_lasting s c.ctx c.quire
  -- Once the member is set, nothing changes what any member opened with.
  have stays {s1 s2 : State} {c' : Coll} (h1 : s1.lasting = s.lasting) (hc : c'.opened = c.opened)
      (h2 : s2.members = (s1.setColl (c.ctx * 64 + h) c').members) :
      s2.lasting = s.lasting ∧ (s2.coll (c.ctx * 64 + h)).opened = c.opened :=
    ⟨(lasting_of_members h2).trans h1, (opened_of_members h2 _).trans (by rw [setColl_coll]; exact hc)⟩
  unfold collOpen
  dsimp only
  split
  · exact stays (c' := { c with phase := 7, second := true, status := 6 }) rfl rfl rfl
  · split
    · refine stays (c' := ({ c with chips := (hubBindings s c.ctx c.quire).2.map (fun b => b.map (·.chip)), phase := 1 } : Coll)) hb rfl ?_
      refine (setColl_members (ends_opened _ _ _ _)).trans (.trans (setColl_members ?_) rfl)
      simp [Coll.opened, State.updCtx]
    · refine stays (c' := ({ c with chips := (hubBindings s c.ctx c.quire).2.map (fun b => b.map (·.chip)), phase := 1 } : Coll)) hb rfl ?_
      refine (foldl_keeps _ State.members (fun s p => collHear_members s _ _ _) _ _).trans ?_
      refine (foldl_keeps _ State.members (fun s k => collHear_members s _ _ _) _ _).trans ?_
      refine (collHear_members _ _ _ _).trans ((collSend_members _ _ _).trans (.trans (setColl_members ?_) rfl))
      simp [Coll.opened, State.updCtx]

theorem collHandle_none {s : State} {ctx : Nat} (h : ∀ k < 64, (s.coll (ctx * 64 + k)).active = true) : collHandle s ctx = none := by
  rw [collHandle, List.find?_eq_none]
  intro k hk
  simp [h k (List.mem_range.1 hk)]

/-- The lowest free handle. -/
theorem collHandle_some {s : State} {ctx k : Nat} (hk : k < 64) (hfree : (s.coll (ctx * 64 + k)).active = false)
    (hlow : ∀ j < k, (s.coll (ctx * 64 + j)).active = true) : collHandle s ctx = some k := by
  rw [collHandle, List.find?_range_eq_some]
  exact ⟨by simp [hfree], List.mem_range.2 hk, fun j hj => by simp [hlow j hj]⟩

/-! ### The instructions -/

/-- The member that CAV or REPART opens, of a descriptor read by the issuing team. -/
def collOf (s : State) (kind : Nat) (r : List Byte) : Coll :=
  { active := true, kind := kind, ctx := (s.crew s.me.crew).ctx, quire := (s.crewRec s.me.crew).quire, role := (s.crew s.me.crew).role, desc := r,
    team := s.cur, crewNo := (s.crew s.me.crew).ix, teamNo := s.me.id, tag := if kind = 1 then field r 42 2 else field r 30 2 }

/-- What CAV and REPART have found: −3 without a role, −2 where the descriptor is misaligned, −1 without a free handle, and otherwise the lowest one,
with which the member opens. -/
theorem openColl_runs {i : Instr} {op kind : Nat} {s : State} {d a : Opnd} {va : Nat} (h : ready s = true) (hd : okS d = true) (ha : okS a = true)
    (he : exec i s = openColl op kind d a (.v 0) s) (hva : va = (sVal s.me a).toNat) (hroom : s.me.opCount 3 < 255)
    (hdraft : (s.crew s.me.crew).drafting = false) :
    ∃ u, AtPass s op u ∧ ((s.crew s.me.crew).role = 0xFFFFFFFF → exec i s = .next (u.now u.s [(d, 2 ^ 64 - 3)])) ∧
      ((s.crew s.me.crew).role ≠ 0xFFFFFFFF → va % 64 ≠ 0 → exec i s = .next (u.now u.s [(d, 2 ^ 64 - 2)])) ∧
      ∀ s1 r, (s.crew s.me.crew).role ≠ 0xFFFFFFFF → va % 64 = 0 →
        engRead s.settled (hubAgent (s.crew s.me.crew).ctx 6) s.me.crew va (if kind = 1 then 64 else 96) = (s1, .ok (r, false)) →
        (placeVa s1 { hubAgent (s.crew s.me.crew).ctx 6 with spec := true } .engW (collOf s kind r).done).2.toOption.isSome = true →
        (collOf s kind r).done % 16 = 0 →
        (collHandle s1 (s.crew s.me.crew).ctx = none → exec i s = .next (u.now s1 [(d, 2 ^ 64 - 1)])) ∧
        ∀ k, collHandle s1 (s.crew s.me.crew).ctx = some k →
          exec i s = .next (u.now (collOpen (opIssue s1 s.cur 3).2 { collOf s kind r with id := (opIssue s1 s.cur 3).1 } k) [(d, k)]) := by
  obtain ⟨u, hu, hok, -⟩ := uniform_run h (fields := [fld d okS, fld a okS, fld (.v 0) okZero]) (by simp [fld, hd, ha, okZero]) he rfl
  have hroom' : opRoom u.t 3 = .ok () := by rw [hu.team, opRoom, if_pos hroom]
  have hend0 : endIdem u.s s.me.crew = u.s := endIdem_of_not (by rw [hu.only.crew]; exact hdraft)
  refine ⟨u, hu, fun hrole => hok _ ?_, fun hrole hmis => hok _ ?_, fun s1 r hrole halign hread hplace hdone => ?_⟩
  · simp only [hu.rd h ha, hroom', hu.poison, ok_bind, if_pos hrole, hend0]
    rfl
  · simp only [hu.rd h ha, ← hva, hroom', hu.poison, ok_bind, if_neg hrole, if_pos hmis, hend0]
    rfl
  · have hm : s1.manned = s.manned := by
      have hk := (engRead_keeps s.settled (hubAgent (s.crew s.me.crew).ctx 6) s.me.crew va (if kind = 1 then 64 else 96) 0).2
      rw [hread] at hk
      exact hk
    have hend : endIdem s1 s.me.crew = s1 := endIdem_of_not (by rw [crew_of_manned hm]; exact hdraft)
    have hread' : engRead u.s (hubAgent (s.crew s.me.crew).ctx 6) s.me.crew va (if kind = 1 then 64 else 96) = (s1, .ok (r, false)) := by
      rw [hu.state]; exact hread
    have hrec : (s1.crewRec s.me.crew).quire = (s.crewRec s.me.crew).quire := congrArg LRec.quire (crewRec_of_manned hm s.me.crew)
    obtain ⟨s2, p, hp⟩ : ∃ s2 p, placeVa s1 { hubAgent (s.crew s.me.crew).ctx 6 with spec := true } .engW (collOf s kind r).done = (s2, .ok p) := by
      cases hp : placeVa s1 { hubAgent (s.crew s.me.crew).ctx 6 with spec := true } .engW (collOf s kind r).done with
      | mk s2 x =>
        cases x with
        | error e => rw [hp] at hplace; cases hplace
        | ok p => exact ⟨s2, p, rfl⟩
    unfold collOf at hp hdone
    refine ⟨fun hnone => hok _ ?_, fun k hk => hok _ ?_⟩
    · simp only [hu.rd h ha, ← hva, hroom', hu.poison, ok_bind, if_neg hrole, halign, ne_eq, not_true_eq_false, if_false, hread', Bool.false_eq_true, hrec, hp,
        hdone, hnone, hend]
      rfl
    · simp only [hu.rd h ha, ← hva, hroom', hu.poison, ok_bind, if_neg hrole, halign, ne_eq, not_true_eq_false, if_false, hread', Bool.false_eq_true, hrec, hp,
        hdone, hk, hend]
      rfl

theorem collSt_runs {s : State} {d a : Opnd} (h : ready s = true) (hd : okS d = true) (ha : okS a = true) {x : Coll} {v : Nat}
    (hx : x = s.coll ((s.crew s.me.crew).ctx * 64 + (sVal s.me a).toNat))
    (hv : v = if 63 < (sVal s.me a).toNat then 2 ^ 64 - 1 else if x.active then
      x.chunks % 2 ^ 32 * 2 ^ 32 + x.tag * 2 ^ 16 + x.kind * 2 ^ 8 + (if x.wait.isSome then 6 else x.phase) else 0) :
    ∃ c, RunsTo (.collSt d a (.v 0)) s { s.me.stepped with pend := (sWrite s.me d (w64 v) c).map (fun x => { x with il := true }) } := by
  obtain ⟨u, hu, hok, -⟩ := uniform_run h (fields := [fld d okS, fld a okS, fld (.v 0) okZero]) (by simp [fld, hd, ha, okZero])
    (show exec (.collSt d a (.v 0)) s = execCollSt d a (.v 0) s from rfl) rfl
  have hcoll (k : Nat) : u.s.coll k = s.coll k := by rw [hu.state]; rfl
  refine hu.runsTo_interlocked h hd v 4 (hok _ ?_)
  simp only [hu.rd h ha, hcoll]
  rw [hv, ← hx]
  cases x.active <;> rfl

/-- A command whose S result is written at once. -/
theorem AtPass.now_issued {s s1 s2 : State} {op c : Nat} {u : UCtx} (hu : AtPass s op u) (h : ready s = true) (hl : s1.lasting = s.lasting)
    (hl2 : s2.lasting = (opIssue s1 s.cur c).2.lasting) {d : Opnd} (hd : okS d = true) (v : Nat) :
    (u.now s2 [(d, v)]).me.pc = nextPc s.me.pc 1 ∧ (u.now s2 [(d, v)]).me.status = .run ∧ Sys2Proof.Claims.holdsS (u.now s2 [(d, v)]).me d v ∧
      (u.now s2 [(d, v)]).me.opc = cset [] s.me.opc c (s.me.ops c ++ [(s1.order, false)]) := by
  have hme := team_of_lasting hl s.cur
  have hf : (s1.team s.cur).flight = [] := (congrArg Team.flight hme :).trans (ready_flight h)
  have hopc : (s1.team s.cur).opc = s.me.opc := (congrArg Team.opc hme :)
  have hm2 : (s2.team s.cur).lasting = ((opIssue s1 s.cur c).2.team s.cur).lasting := congrFun (congrArg Prod.snd hl2) s.cur
  rw [opIssue_team c hf] at hm2
  have hcur : (u.now s2 [(d, v)]).cur = s.cur := by
    refine (hu.now_only s2 hd v).cur.trans ((congrArg Prod.fst hl2).trans ?_)
    rw [opIssue_eq c hf]
    exact cur_of_lasting (t := s1) hl
  have hnow := hu.now_me s2 hd v
  have hputs (t : Team) : (t.putS d (w64 v)).opc = t.opc := by cases d <;> simp [Team.putS]
  rw [State.me, hcur]
  refine ⟨(congrArg Team.pc hnow :).trans ?_, hu.now_status s2 hd v, holdsS_congr (congrArg Team.s hnow :) (holdsS_putS _ d v),
    (congrArg Team.opc hnow :).trans ((hputs _).trans ?_)⟩
  · change nextPc ((s2.team s.cur).putS d (w64 v)).pc 1 = _
    rw [putS_pc]
    exact congrArg (nextPc · 1) ((congrArg Team.pc hm2 :).trans (congrArg Team.pc hme :))
  · refine (congrArg Team.opc hm2 :).trans ?_
    show cset [] (s1.team s.cur).opc c ((s1.team s.cur).ops c ++ [(s1.order, false)]) = _
    rw [Team.ops, hopc, Team.ops]

/-- CAV and REPART: what the four outcomes leave. -/
theorem openColl_opens {i : Instr} {op kind len : Nat} {s s1 : State} {d a : Opnd} {va : Nat} {r : List Byte} {cr : Crew} (h : ready s = true)
    (hd : okS d = true) (ha : okS a = true) (he : exec i s = openColl op kind d a (.v 0) s) (hlen : len = if kind = 1 then 64 else 96)
    (hva : va = (sVal s.me a).toNat) (hroom : s.me.opCount 3 < 255) (hcr : cr = s.crew s.me.crew) (hdraft : cr.drafting = false) :
    (cr.role = 0xFFFFFFFF → Sys2Proof.Claims.To i s (fun t => t.me.pc = nextPc s.me.pc 1 ∧ Sys2Proof.Claims.holdsS t.me d (2 ^ 64 - 3) ∧ t.colls = s.colls)) ∧
    (cr.role ≠ 0xFFFFFFFF → va % 64 ≠ 0 → Sys2Proof.Claims.To i s (fun t => t.me.pc = nextPc s.me.pc 1 ∧
      Sys2Proof.Claims.holdsS t.me d (2 ^ 64 - 2) ∧ t.colls = s.colls)) ∧
    (cr.role ≠ 0xFFFFFFFF → va % 64 = 0 → engRead s.settled (hubAgent cr.ctx 6) s.me.crew va len = (s1, .ok (r, false)) →
      ∀ c : Coll, c = collOf s kind r →
      (placeVa s1 { hubAgent cr.ctx 6 with spec := true } .engW c.done).2.toOption.isSome = true → c.done % 16 = 0 →
      ((∀ h < 64, (s1.coll (cr.ctx * 64 + h)).active = true) → Sys2Proof.Claims.To i s (fun t =>
        t.me.pc = nextPc s.me.pc 1 ∧ Sys2Proof.Claims.holdsS t.me d (2 ^ 64 - 1) ∧ t.colls = s1.colls)) ∧
      (∀ h < 64, (s1.coll (cr.ctx * 64 + h)).active = false → (∀ k < h, (s1.coll (cr.ctx * 64 + k)).active = true) →
        Sys2Proof.Claims.To i s (fun t => t.me.pc = nextPc s.me.pc 1 ∧ t.me.status = .run ∧ Sys2Proof.Claims.holdsS t.me d h ∧
          (∃ id, t.me.ops 3 = s.me.ops 3 ++ [(id, false)]) ∧ (t.coll (cr.ctx * 64 + h)).active = true ∧
          (t.coll (cr.ctx * 64 + h)).desc = r ∧ (t.coll (cr.ctx * 64 + h)).kind = kind))) := by
  subst hcr hlen
  obtain ⟨u, hu, hrole, hmis, hopen⟩ := openColl_runs h hd ha he hva hroom hdraft
  have hcolls (s' : State) (v : Nat) : (u.now s' [(d, v)]).colls = s'.colls := (congrArg State.colls (hu.now_only s' hd v).1 :)
  have hcolls0 : u.s.colls = s.colls := (congrArg State.colls hu.only.1 :)
  refine ⟨fun hr => ?_, fun hr hm => ?_, fun hr halign hread c hc hplace hdone => ?_⟩
  · obtain ⟨hpc, -, hv⟩ := hu.now_goes hu.lasting hd (2 ^ 64 - 3)
    exact ⟨_, hrole hr, hpc, hv, (hcolls _ _).trans hcolls0⟩
  · obtain ⟨hpc, -, hv⟩ := hu.now_goes hu.lasting hd (2 ^ 64 - 2)
    exact ⟨_, hmis hr hm, hpc, hv, (hcolls _ _).trans hcolls0⟩
  · subst hc
    have hl : s1.lasting = s.lasting := by
      have hk := (engRead_keeps s.settled (hubAgent (s.crew s.me.crew).ctx 6) s.me.crew va (if kind = 1 then 64 else 96) 0).1
      rw [hread] at hk
      exact hk.trans (settled_lasting s)
    obtain ⟨hfull, hfree⟩ := hopen s1 r hr halign hread hplace hdone
    refine ⟨fun hall => ?_, fun k hk hinactive hlow => ?_⟩
    · obtain ⟨hpc, -, hv⟩ := hu.now_goes hl hd (2 ^ 64 - 1)
      exact ⟨_, hfull (collHandle_none hall), hpc, hv, hcolls _ _⟩
    · obtain ⟨hlast, hopened⟩ := collOpen_keeps (opIssue s1 s.cur 3).2 { collOf s kind r with id := (opIssue s1 s.cur 3).1 } k
      obtain ⟨hpc, hrun, hv, hopc⟩ := hu.now_issued h hl hlast hd k
      have hmember (j : Nat) : (u.now (collOpen (opIssue s1 s.cur 3).2 { collOf s kind r with id := (opIssue s1 s.cur 3).1 } k) [(d, k)]).coll j =
          (collOpen (opIssue s1 s.cur 3).2 { collOf s kind r with id := (opIssue s1 s.cur 3).1 } k).coll j := by rw [State.coll, hcolls, State.coll]
      refine ⟨_, hfree k (collHandle_some hk hinactive hlow), hpc, hrun, hv, ⟨_, (ops_issued s.me 3 _ hopc).1⟩, ?_, ?_, ?_⟩ <;> rw [hmember]
      · exact congrArg Prod.fst hopened
      · exact congrArg (fun x => x.2.1) hopened
      · exact congrArg (fun x => x.2.2) hopened

/-! ### The events of an open collective -/

section
variable {s : State} {ctx h : Nat} {c : Coll}

/-- A handle below 64 names its member. -/
theorem collKey_eq {h : Nat} (hh : h < 64) (ctx : Nat) : ctx * 64 + h % 64 = ctx * 64 + h := by rw [Nat.mod_eq_of_lt hh]

theorem collSend_fabric (s : State) (c : Coll) (m : Nat → FabMsg) : (collSend s c m).fabric = s.fabric ++ (collChips s c).map m := by
  have go (l : List Nat) (s : State) : (l.foldl (fun s k => s.send (m k)) s).fabric = s.fabric ++ l.map m := by
    induction l generalizing s with
    | nil => simp
    | cons k r ih => rw [List.foldl_cons, ih, (send_keeps s (m k)).1]; simp
  exact go _ s

/-- The histograms of the first pass go out. -/
theorem repartHistogramPass_runs (hh : h < 64) (hc : c = s.coll (ctx * 64 + h)) (hactive : c.active = true) (hcav : c.cav = false) (hphase : c.phase = 3)
    (hwait : c.wait = none) (hall : c.gathered = true) (hctx : ctxRuns s ctx = true) :
    Sys2Proof.Claims.To (.repartHistogramPass ctx h) s (fun t => (t.coll (ctx * 64 + h)).phase = 4 ∧
      t.fabric = s.fabric ++ (collChips s c).map (fun k => .hist k c.ctx c.quire c.tag c.role 1 (c.buckets 1))) := by
  have hexec : exec (.repartHistogramPass ctx h) s = .next
      ((collSend s c (fun k => .hist k c.ctx c.quire c.tag c.role 1 (c.buckets 1))).setColl (ctx * 64 + h) { c with phase := 4 }) := by
    have hrun : (!c.active || c.cav || !(c.phase == 3 || c.phase == 4) || c.wait.isSome || !c.gathered || !ctxRuns s ctx) = false := by
      simp [hactive, hcav, hphase, hwait, hall, hctx]
    show Host.Outcome.next _ = _
    simp only [collKey_eq hh, ← hc, hrun, Bool.false_eq_true, if_false]
    simp only [hphase, if_true]
  refine ⟨_, hexec, ?_, collSend_fabric s c _⟩
  rw [setColl_coll]

theorem byteAt_setColl (s : State) (k : Nat) (c : Coll) (q : Place) : byteAt (s.setColl k c) q = byteAt s q := by cases q <;> rfl

/-- The last chunk of a member's records is written. -/
theorem repartRecordChunk_ends {n : Nat} {s1 : State} (hh : h < 64) (hc : c = s.coll (ctx * 64 + h)) (hactive : c.active = true) (hcav : c.cav = false)
    (hphase : c.phase = 5) (hwait : c.wait = none) (hctx : ctxRuns s ctx = true) (hn : n = c.per * c.esz)
    (hw : writeVa s (hubAgent c.ctx 6) .engW (c.f 8 8 + c.chunks * n) ((c.owned.drop (c.chunks * n)).take n) = (s1, .ok ()))
    (hlast : c.owned.length ≤ c.chunks * n + ((c.owned.drop (c.chunks * n)).take n).length) :
    Sys2Proof.Claims.To (.repartRecordChunk ctx h) s (fun t => (t.coll (ctx * 64 + h)).phase = 7 ∧ (t.coll (ctx * 64 + h)).status = 0 ∧
      (t.coll (ctx * 64 + h)).info = c.owned.length / max 1 c.esz ∧ ∀ q, byteAt t q = byteAt s1 q) := by
  subst hn
  let c' : Coll := { c with
    chunks := if ((c.owned.drop (c.chunks * (c.per * c.esz))).take (c.per * c.esz)).isEmpty then c.chunks else c.chunks + 1, again := none }
  have hexec : exec (.repartRecordChunk ctx h) s = .next (s1.setColl (ctx * 64 + h) (c'.ends 0 (c.owned.length / max 1 c.esz))) := by
    have hrun : (!c.active || c.cav || c.phase != 5 || c.wait.isSome || !ctxRuns s ctx) = false := by simp [hactive, hcav, hphase, hwait, hctx]
    show Host.Outcome.next _ = _
    simp only [collKey_eq hh, ← hc, hrun, Bool.false_eq_true, if_false, hw, if_pos hlast]
    rfl
  have hends : c'.ends 0 (c.owned.length / max 1 c.esz) =
      { c' with phase := 7, status := 0, info := c.owned.length / max 1 c.esz, undef := false, wait := none } := by
    rw [Coll.ends, if_neg (by simp [c', hphase])]
  rw [hends] at hexec
  refine ⟨_, hexec, ?_, ?_, ?_, fun q => byteAt_setColl _ _ _ q⟩ <;> rw [setColl_coll]

/-- A first chunk of another chip's member is held for the member here. -/
theorem collChunkReceive_runs {role : Nat} {bytes : List Byte} {x : Announce} (hh : h < 64) (hc : c = s.coll (ctx * 64 + h)) (hactive : c.active = true)
    (hsecond : c.second = false) (hphase : c.phase = 3) (hwait : c.wait = none) (hctx : ctxRuns s ctx = true) (hrole : role ≠ c.role)
    (hlt : role < c.chips.length) (hchip : c.chips.getD role none ≠ some s.chipId) (hnone : c.bytesOf role = []) (hbytes : bytes ≠ [])
    (hann : c.anns.find? (·.1 == role) = some (role, x)) (hcon : x.contributes = true) (hlen : bytes.length = min (c.per * c.esz) (x.count * c.esz)) :
    Sys2Proof.Claims.To (.collChunkReceive ctx h role 0 bytes) s (fun t => (t.coll (ctx * 64 + h)).bytesOf role = bytes ∧
      ∀ q, byteAt t q = byteAt s q) := by
  let c' : Coll := { c with data := collGather c.esz c.data role 0 bytes }
  let s1 := (notePause s ctx c.quire role false).setColl (ctx * 64 + h) c'
  have hheld : collGather c.esz c.data role 0 bytes = (role, bytes) :: c.data.filter (·.1 != role) := by
    have hnone' : ((c.data.find? (·.1 == role)).map (·.2)).getD [] = [] := hnone
    unfold collGather
    simp only [hnone', List.length_nil, Nat.zero_mul, if_true, List.nil_append]
  have hsweep : cavChunk s1 (ctx * 64 + h) = s1 := by
    have hidle : (s1.coll (ctx * 64 + h)).phase = 3 := (congrArg Coll.phase (setColl_coll _ _ _)).trans hphase
    unfold cavChunk
    simp [hidle]
  have hexec : exec (.collChunkReceive ctx h role 0 bytes) s = .next s1 := by
    have hrun : (!c.active || c.second || !(c.phase == 2 || c.phase == 3) || c.wait.isSome || !ctxRuns s ctx) = false := by
      simp [hactive, hsecond, hphase, hwait, hctx]
    have htake : (decide (c.chips.length ≤ role) || c.chips.getD role none == some s.chipId || bytes.isEmpty ||
        bytes.length != min (c.per * c.esz) (x.count * c.esz - 0)) = false := by
      simp only [Bool.or_eq_false_iff, decide_eq_false_iff_not, Nat.not_le, beq_eq_false_iff_ne, List.isEmpty_eq_false_iff, bne_eq_false_iff_eq, Nat.sub_zero]
      exact ⟨⟨⟨hlt, hchip⟩, hbytes⟩, hlen⟩
    show Host.Outcome.next _ = _
    simp only [collKey_eq hh, ← hc, hrun, Bool.false_eq_true, if_false, if_neg hrole, hnone, hann, Option.map_some, Option.getD_some, hcon, if_true,
      List.length_nil, htake]
    exact congrArg Host.Outcome.next hsweep
  refine ⟨_, hexec, ?_, fun q => (byteAt_setColl _ _ _ q).trans (byteAt_updCtx _ _ _ q)⟩
  show (((notePause s ctx c.quire role false).setColl (ctx * 64 + h) c').coll (ctx * 64 + h)).bytesOf role = bytes
  rw [setColl_coll, Coll.bytesOf, show c'.data = (role, bytes) :: c.data.filter (·.1 != role) from hheld]
  simp

/-- A pause that another chip's member announces. -/
theorem collAnnounceReceive_pause {role : Nat} {x : Announce} (hh : h < 64) (hc : c = s.coll (ctx * 64 + h)) (hactive : c.active = true)
    (hup : fabricUp s = true) (hlt : role < c.chips.length) (hchip : c.chips.getD role none ≠ some s.chipId) (hpause : x.paused = true) :
    Sys2Proof.Claims.To (.collAnnounceReceive ctx h role x) s (fun t => t.colls = s.colls ∧ (t.ctx ctx).peersPaused.contains (c.quire, role) = true) := by
  have hexec : exec (.collAnnounceReceive ctx h role x) s = .next (notePause s ctx c.quire role true) := by
    have hhear : (fabricUp s && c.active && decide (role < c.chips.length) && c.chips.getD role none != some s.chipId) = true := by
      simp only [Bool.and_eq_true, decide_eq_true_eq, bne_iff_ne]
      exact ⟨⟨⟨hup, hactive⟩, hlt⟩, hchip⟩
    show Host.Outcome.next _ = _
    simp only [collKey_eq hh, ← hc, hhear, if_true, hpause]
  refine ⟨_, hexec, rfl, ?_⟩
  rw [notePause, updCtx_ctx]
  simp

/-- What a member makes of another's announcement. -/
theorem collAnnounceReceive_hears {role : Nat} {x : Announce} (hh : h < 64) (hc : c = s.coll (ctx * 64 + h)) (hactive : c.active = true)
    (hup : fabricUp s = true) (hlt : role < c.chips.length) (hchip : c.chips.getD role none ≠ some s.chipId) (hpause : x.paused = false)
    (hsecond : c.second = false) (hphase : c.phase ≠ 7) (hnew : c.anns.any (·.1 == role) = false) :
    Sys2Proof.Claims.To (.collAnnounceReceive ctx h role x) s (fun t => ∀ y, y = t.coll (ctx * 64 + h) →
      (x.ok = false → role ≠ c.role → y.phase = 7 ∧ y.status = 3) ∧
      (x.ok = true → (∃ z ∈ c.anns, z.2.ok = true ∧ (z.2.kind ≠ x.kind ∨ z.2.shape ≠ x.shape)) → y.phase = 7 ∧ y.status = 1) ∧
      (x.ok = true → (∀ z ∈ c.anns, z.2.ok = true → z.2.kind = x.kind ∧ z.2.shape = x.shape) → y.anns = c.anns ++ [(role, x)] ∧
        y.phase = if c.anns.length + 1 = c.chips.length then (if c.cav then 2 else 3) else c.phase)) := by
  let c' : Coll := { c with anns := c.anns ++ [(role, x)] }
  let y : Coll := if !x.ok then c'.ends (if role = c'.role then 6 else 3) 0 true
    else if c'.anns.any (fun z => z.2.ok && (z.2.kind != x.kind || z.2.shape != x.shape)) then c'.ends 1 0 true
    else if c'.anns.length = c'.chips.length then { c' with phase := if c'.cav then 2 else 3 } else c'
  have hexec : exec (.collAnnounceReceive ctx h role x) s = .next ((notePause s ctx c.quire role false).setColl (ctx * 64 + h) y) := by
    have hhear : (fabricUp s && c.active && decide (role < c.chips.length) && c.chips.getD role none != some s.chipId) = true := by
      simp only [Bool.and_eq_true, decide_eq_true_eq, bne_iff_ne]
      exact ⟨⟨⟨hup, hactive⟩, hlt⟩, hchip⟩
    have hcoll : (notePause s ctx c.quire role false).coll (ctx * 64 + h) = c := hc.symm
    have hopen : ¬((!c.active || c.second) = true ∨ c.phase = 7) := by simp [hactive, hsecond, hphase]
    show Host.Outcome.next _ = _
    simp only [collKey_eq hh, ← hc, hhear, if_true, hpause, Bool.false_eq_true, if_false, collHear, hcoll, hnew]
    rw [if_neg (by simp [hactive, hsecond, hphase])]
  have hends (status : Nat) : (c'.ends status 0 true).phase = 7 ∧ (c'.ends status 0 true).status = status := by
    rw [Coll.ends, if_neg (show ¬c'.phase = 7 from hphase)]
    exact ⟨rfl, rfl⟩
  have hany : c'.anns.any (fun z => z.2.ok && (z.2.kind != x.kind || z.2.shape != x.shape)) =
      c.anns.any (fun z => z.2.ok && (z.2.kind != x.kind || z.2.shape != x.shape)) := by simp [c']
  refine ⟨_, hexec, fun z hz => ?_⟩
  rw [setColl_coll] at hz
  subst hz
  refine ⟨fun hok hrole => ?_, fun hok hdiff => ?_, fun hok hsame => ?_⟩
  · have hy : y = c'.ends 3 0 true := by simp [y, hok, c', hrole]
    rw [hy]
    exact hends 3
  · have hdiff' : c.anns.any (fun z => z.2.ok && (z.2.kind != x.kind || z.2.shape != x.shape)) = true := by
      obtain ⟨z, hz, hzok, hne⟩ := hdiff
      exact List.any_eq_true.2 ⟨z, hz, by simpa [hzok] using hne⟩
    have hy : y = c'.ends 1 0 true := by simp only [y, hok, hany, hdiff', Bool.not_true, Bool.false_eq_true, if_false, if_true]
    rw [hy]
    exact hends 1
  · have hsame' : c.anns.any (fun z => z.2.ok && (z.2.kind != x.kind || z.2.shape != x.shape)) = false := by
      rw [List.any_eq_false]
      intro z hz
      cases hzok : z.2.ok with
      | false => simp
      | true => simp [hsame z hz hzok]
    have hy : y = if c'.anns.length = c'.chips.length then { c' with phase := if c'.cav then 2 else 3 } else c' := by
      simp only [y, hok, hany, hsame', Bool.not_true, Bool.false_eq_true, if_false]
    have hlength : c'.anns.length = c.anns.length + 1 := by simp [c']
    rw [hy, hlength]
    show _ ∧ _ = if c.anns.length + 1 = c'.chips.length then _ else _
    split <;> exact ⟨rfl, rfl⟩

/-- A member that has waited in vain for another ends with ABORTED; one whose absent members have all announced a pause waits on. -/
theorem collOpenTimeout_runs (hh : h < 64) (hc : c = s.coll (ctx * 64 + h)) (hactive : c.active = true) (hphase : c.phase = 1)
    (hsecond : c.second = false) (hctx : ctxRuns s ctx = true) :
    ((∃ r < c.chips.length, c.anns.any (·.1 == r) = false ∧ (s.ctx ctx).peersPaused.contains (c.quire, r) = false) →
      Sys2Proof.Claims.To (.collOpenTimeout ctx h) s (fun t => (t.coll (ctx * 64 + h)).phase = 7 ∧
        (t.coll (ctx * 64 + h)).status = 3 ∧ t.mem = s.mem)) ∧
    ((∀ r < c.chips.length, c.anns.any (·.1 == r) = true ∨ (s.ctx ctx).peersPaused.contains (c.quire, r) = true) →
      exec (.collOpenTimeout ctx h) s = .next s) := by
  have hrun : (c.active && c.phase == 1 && !c.second && ctxRuns s ctx) = true := by simp [hactive, hphase, hsecond, hctx]
  have hends : c.ends 3 = { c with phase := 7, status := 3, info := 0, undef := false, wait := none } := by
    rw [Coll.ends, if_neg (by simp [hphase])]
  refine ⟨fun hmissing => ?_, fun hall => ?_⟩
  · have hany : (List.range c.chips.length).any (fun r => !c.anns.any (·.1 == r) && !(s.ctx ctx).peersPaused.contains (c.quire, r)) = true := by
      obtain ⟨r, hr, hann, hpaused⟩ := hmissing
      exact List.any_eq_true.2 ⟨r, List.mem_range.2 hr, by simp only [hann, hpaused, Bool.not_false, Bool.and_self]⟩
    have hexec : exec (.collOpenTimeout ctx h) s = .next (postFailure (s.setColl (ctx * 64 + h) (c.ends 3)) c) := by
      show Host.Outcome.next _ = _
      simp only [collKey_eq hh, ← hc, hrun, hany, Bool.and_self, if_true]
    have hcoll : (postFailure (s.setColl (ctx * 64 + h) (c.ends 3)) c).coll (ctx * 64 + h) = c.ends 3 := setColl_coll _ _ _
    rw [hends] at hcoll hexec
    exact ⟨_, hexec, congrArg Coll.phase hcoll, congrArg Coll.status hcoll, rfl⟩
  · have hany : (List.range c.chips.length).any (fun r => !c.anns.any (·.1 == r) && !(s.ctx ctx).peersPaused.contains (c.quire, r)) = false := by
      rw [List.any_eq_false]
      intro r hr
      obtain hann | hpaused := hall r (List.mem_range.1 hr)
      · simp only [hann, Bool.not_true, Bool.false_and, Bool.false_eq_true, not_false_eq_true]
      · simp only [hpaused, Bool.not_true, Bool.and_false, Bool.false_eq_true, not_false_eq_true]
    show Host.Outcome.next _ = _
    simp only [collKey_eq hh, ← hc, hany, Bool.and_false, Bool.false_eq_true, if_false]

/-! ### Completion -/

theorem beforeRecord_lasting (s : State) (ctx va : Nat) : (beforeRecord s ctx va).lasting = s.lasting := by
  unfold beforeRecord
  split
  · exact landCtx_lasting s ctx
  · rfl

/-- What is noted of words written changes of the machine only what its team has not seen. -/
theorem noteVa_keeps (s : State) (a : Agent) (ti cls id va n : Nat) :
    (∀ j, ((noteVa s a ti cls id va n).team j).opc = (s.team j).opc) ∧ ∀ k, (noteVa s a ti cls id va n).devByte k = s.devByte k := by
  unfold noteVa
  split
  · exact ⟨fun _ => rfl, fun _ => rfl⟩
  · split
    · dsimp only
      split
      · exact ⟨fun _ => rfl, fun _ => rfl⟩
      · refine ⟨fun j => ?_, fun _ => rfl⟩
        by_cases hj : j = ti
        · subst hj
          rw [updTeam_team]
        · rw [updTeam_team_ne _ _ _ _ hj]
    · exact ⟨fun _ => rfl, fun _ => rfl⟩

/-- A member completes: its record is written, its counter decremented, its handle freed, and its command retired. -/
theorem collMemberComplete_runs {s1 s2 : State} (hh : h < 64) (hc : c = s.coll (ctx * 64 + h)) (hactive : c.active = true) (hphase : c.phase = 7)
    (hctx : ctxRuns s ctx = true) (hundef : c.undef = false) (hclash : c.second = true ∨ c.status ≠ 0 ∨ c.clash = []) (hflag : c.ctrFlag = false)
    (hs1 : s1 = hubWrite (beforeRecord s ctx c.done) ctx (c.done + 8) (leBytes 4 (c.status + (if c.status = 0 then c.flags else 0)) ++ leBytes 4 c.info))
    (hs2 : s2 = if kindOfVa s1 ctx c.done = some 2 then landCtx (s1.flush ctx) ctx else s1) :
    Sys2Proof.Claims.To (.collMemberComplete ctx h) s (fun t => t.coll (ctx * 64 + h) = {} ∧
      (∀ k, t.devByte k = (decrementAt s2 ctx c.done).devByte k) ∧
      ((s.team c.team).ops 3 = [(c.id, false)] → (t.team c.team).ops 3 = [])) := by
  let note (s : State) (r : Nat × Nat) : State := noteVa s (hubAgent ctx 6) c.team 3 c.id r.1 r.2
  let s3 := ((c.done, 16) :: c.results).foldl note (decrementAt s2 ctx c.done)
  have hundefined : undefine s ctx (if c.undef then c.results else if c.second then [] else if c.status = 0 then c.clash else []) = s := by
    have hnil : (if c.undef then c.results else if c.second then [] else if c.status = 0 then c.clash else []) = [] := by
      rw [hundef]
      obtain h | h | h := hclash <;> simp [h]
    rw [hnil]
    rfl
  have hexec : exec (.collMemberComplete ctx h) s = .next ((opRetire s3 c.team 3 c.id).setColl (ctx * 64 + h) {}) := by
    have hrun : (!c.active || c.phase != 7 || !ctxRuns s ctx) = false := by simp [hactive, hphase, hctx]
    show Host.Outcome.next _ = _
    simp only [collKey_eq hh, ← hc, hrun, Bool.false_eq_true, if_false, hundefined, ← hs1, ← hs2, hflag]
    rfl
  have hlast : (decrementAt s2 ctx c.done).lasting = s.lasting := by
    have h1 : s1.lasting = s.lasting := hs1 ▸ (hubWrite_lasting _ ctx _ _).trans (beforeRecord_lasting s ctx c.done)
    refine (decrementAt_lasting s2 ctx c.done).trans (.trans ?_ h1)
    rw [hs2]
    split
    · exact (landCtx_lasting _ ctx).trans (flush_lasting s1 ctx)
    · rfl
  have hopc : (s3.team c.team).opc = (s.team c.team).opc :=
    (foldl_keeps note (fun s => (s.team c.team).opc) (fun s r => (noteVa_keeps s (hubAgent ctx 6) c.team 3 c.id r.1 r.2).1 c.team) _ _).trans
      (congrArg Team.opc (team_of_lasting hlast c.team) :)
  have hdev (k : Nat) : s3.devByte k = (decrementAt s2 ctx c.done).devByte k :=
    foldl_keeps note (fun s => s.devByte k) (fun s r => (noteVa_keeps s (hubAgent ctx 6) c.team 3 c.id r.1 r.2).2 k) _ _
  clear_value s3
  exact ⟨_, hexec, setColl_coll _ _ _, hdev, fun hops => opRetire_ops (by rw [Team.ops, hopc]; exact hops)⟩

end

/-! ### Data that comes early -/

theorem earlyLandingArrival_runs {s : State} {ctx quire tag role first area : Nat} {bytes : List Byte} (hup : fabricUp s = true)
    (harea : elaArea (s.ctx ctx) quire = some area)
    (hnone : s.colls.any (fun e => e.2.active && e.2.ctx == ctx && e.2.quire == quire && e.2.tag == tag) = false)
    (hroom : elaUsed (s.ctx ctx) quire + bytes.length ≤ 262144) :
    Sys2Proof.Claims.To (.earlyLandingArrival ctx quire tag role first bytes) s (fun t => (t.ctx ctx).early = (s.ctx ctx).early ++
      [{ quire := quire, tag := tag, role := role, first := first, bytes := bytes }]) := by
  let va := bitsN (s.ctx ctx).elaBase.toNat 16 36 * 65536 + 262144 * area + elaUsed (s.ctx ctx) quire
  let s1 := (writeVa s.draw.2 (hubAgent ctx 6) .engW va ((List.range bytes.length).map (Config.undefByte s.draw.1))).1
  have hexec : exec (.earlyLandingArrival ctx quire tag role first bytes) s = .next (s1.updCtx ctx (fun c => { c with
      early := c.early ++ [{ quire := quire, tag := tag, role := role, first := first, bytes := bytes }] })) := by
    show Host.Outcome.next _ = _
    simp only [harea, hup, hnone, Bool.not_true, Bool.or_self, Bool.false_or, decide_eq_true_eq, if_neg (Nat.not_lt.2 hroom)]
    rfl
  have hearly : (s1.ctx ctx).early = (s.ctx ctx).early :=
    (congrArg Ctx.early (congrFun (counted_aloof.writeVa s.draw.2 (hubAgent ctx 6) .engW va _ false 0) ctx) :)
  exact ⟨_, hexec, (congrArg Ctx.early (updCtx_ctx s1 ctx _)).trans (congrArg (· ++ _) hearly)⟩

/-- Settles O52. -/
theorem collectivesOpenAndComplete : Obligations.CollectivesOpenAndComplete := by
  unfold Obligations.CollectivesOpenAndComplete
  refine ⟨?opens, ?events, fun s ctx quire tag role first area bytes hup harea hnone hroom => earlyLandingArrival_runs hup harea hnone hroom⟩
  case opens =>
    intro s s1 d a va r cr h hd ha hva hroom hcr hdraft
    refine ⟨fun x v hx hv => collSt_runs h hd ha (hx.trans (by rw [hcr, hva])) (hv.trans (by rw [hva])), fun e he => ?_⟩
    simp only [List.mem_cons, List.not_mem_nil, or_false] at he
    obtain rfl | rfl := he
    · obtain ⟨h1, h2, h3⟩ := openColl_opens (s1 := s1) (r := r) h hd ha (show exec (.cav d a (.v 0)) s = openColl 0xF4 1 d a (.v 0) s from rfl) rfl hva hroom hcr hdraft
      exact ⟨h1, h2, fun hr halign hread c hc => h3 hr halign hread c (hc.trans (hcr ▸ rfl))⟩
    · obtain ⟨h1, h2, h3⟩ := openColl_opens (s1 := s1) (r := r) h hd ha (show exec (.repart d a (.v 0)) s = openColl 0xF5 2 d a (.v 0) s from rfl) rfl hva hroom hcr hdraft
      exact ⟨h1, h2, fun hr halign hread c hc => h3 hr halign hread c (hc.trans (hcr ▸ rfl))⟩
  case events =>
    intro s ctx h c hh hc hactive
    refine ⟨fun hcav hphase hwait hall hctx => repartHistogramPass_runs hh hc hactive hcav hphase hwait hall hctx,
      fun n s1 hcav hphase hwait hctx hn hw hlast => repartRecordChunk_ends hh hc hactive hcav hphase hwait hctx hn hw hlast, ?chunk,
      fun role x hup hlt hchip => ⟨fun hp => collAnnounceReceive_pause hh hc hactive hup hlt hchip hp,
        fun hp hsecond hphase hnew => collAnnounceReceive_hears hh hc hactive hup hlt hchip hp hsecond hphase hnew⟩,
      fun hphase hsecond hctx => collOpenTimeout_runs hh hc hactive hphase hsecond hctx,
      fun s1 s2 hphase hctx hundef hclash hflag hs1 hs2 => collMemberComplete_runs hh hc hactive hphase hctx hundef hclash hflag hs1 hs2⟩
    case chunk =>
      intro role first bytes _ hsecond hphase hwait hctx hrole hlt hchip hnone hfirst hbytes hann
      obtain ⟨x, hann, hcon, hlen⟩ := hann
      subst hfirst
      exact collChunkReceive_runs hh hc hactive hsecond hphase hwait hctx hrole hlt hchip hnone hbytes hann hcon hlen

end Sys2Proof.Machine
end

section
/-! SUPPORT. PUTR, GETR and RRED at the issuing chip (20 R408 to R410): O47. -/

namespace Sys2Proof.Machine

/-! ### The lanes of a remote instruction -/

/-- What lane l of a remote instruction sends, with its role: `get` for a GETR, which sends no data. -/
def remoteLane (t : Team) (d b : Opnd) (ctl : Nat) (get : Bool) (l : Nat) : RemoteLane × Nat :=
  ({ lane := l, va := wrapN 64 ((ctl % 2 ^ 52 : Nat) + sextN 32 (opVal t 2 b l / 2 ^ 32) * tySize (mrType t.mr)),
     data := w64 (if get then 0 else opVal t (mrWords t.mr) d l % 2 ^ (8 * tySize (mrType t.mr))), poison := false }, opVal t 2 b l % 2 ^ 32)

/-- The lanes of the passes, each with the cycle of its pass. -/
def remoteAt (t : Team) (d b : Opnd) (ctl : Nat) (get : Bool) (ps : List Pass) : List (RemoteLane × Nat × Nat) :=
  ps.flatMap (fun p => ((span p.lo p.n).filter (takesPart t)).map (fun l =>
    ((remoteLane t d b ctl get l).1, (remoteLane t d b ctl get l).2, p.at_)))

theorem remoteAt_lanes {t : Team} (hlanes : 5 ≤ t.lanesLog) (d b : Opnd) (ctl : Nat) (get : Bool) {is64 : Bool} {ps : List Pass}
    (hps : ps.map (fun p => (p.lo, p.n)) = passWords t is64) :
    (remoteAt t d b ctl get ps).map (fun x => (x.1, x.2.1)) = (parts t).map (remoteLane t d b ctl get) := by
  rw [← passLanes_parts hlanes is64, passLanes, ← hps, remoteAt]
  simp [List.map_flatMap, List.flatMap_map, List.filter_flatMap, Function.comp_def]

theorem mem_remoteAt {t : Team} (hlanes : 5 ≤ t.lanesLog) {d b : Opnd} {ctl : Nat} {get is64 : Bool} {ps : List Pass}
    (hps : ps.map (fun p => (p.lo, p.n)) = passWords t is64) {x : RemoteLane × Nat × Nat} (hx : x ∈ remoteAt t d b ctl get ps) :
    ∃ l ∈ parts t, (x.1, x.2.1) = remoteLane t d b ctl get l := by
  have h := List.mem_map_of_mem (f := fun x : RemoteLane × Nat × Nat => (x.1, x.2.1)) hx
  rw [remoteAt_lanes hlanes d b ctl get hps, List.mem_map] at h
  obtain ⟨l, hl, hx⟩ := h
  exact ⟨l, hl, hx.symm⟩

/-! ### The roles' chips -/

theorem lanePeers_keeps {ti : Nat} (ls : List (RemoteLane × Nat)) {s s1 : State} {peers : List (RemoteLane × Option Nat)}
    (hf : (s.team ti).flight = []) (h : lanePeers s ti ls = .ok (s1, peers)) :
    s1.lasting = s.lasting ∧ s1.manned = s.manned ∧ peers.map (·.1) = ls.map (·.1) := by
  induction ls generalizing s s1 peers with
  | nil =>
    cases h
    exact ⟨rfl, rfl, rfl⟩
  | cons x r ih =>
    obtain ⟨x, role⟩ := x
    unfold lanePeers at h
    split at h
    · cases h
    · next s2 n b hb =>
      obtain ⟨hl, hm⟩ := issueBinding_keeps hf hb
      split at h
      · cases h
      · next s3 l hr =>
        obtain ⟨hl3, hm3, hpeers⟩ := ih ((congrArg Team.flight (team_of_lasting hl ti) :).trans hf) hr
        cases h
        exact ⟨hl3.trans hl, hm3.trans hm, by simp [hpeers]⟩

/-! ### Packets -/

/-- The packets hold every lane, and no other. -/
theorem mem_packets (n : Nat) (x : RemoteLane) (k : Nat) (ls : List RemoteLane) (h : ls.length ≤ k) : (∃ p ∈ packets n k ls, x ∈ p) ↔ x ∈ ls := by
  induction k generalizing ls with
  | zero =>
    rw [List.length_eq_zero_iff.1 (Nat.le_zero.1 h)]
    simp [packets]
  | succ k ih =>
    cases ls with
    | nil => simp [packets]
    | cons y r =>
      unfold packets
      dsimp only
      generalize hm : max 1 (Config.packetLanes (n + k) % ((y :: r).length + 1)) = m
      have hm1 : 1 ≤ m := hm ▸ Nat.le_max_left _ _
      have hrest : ((y :: r).drop m).length ≤ k := by
        rw [List.length_drop]
        omega
      have hsplit : x ∈ y :: r ↔ x ∈ (y :: r).take m ∨ x ∈ (y :: r).drop m := by rw [← List.mem_append, List.take_append_drop]
      rw [hsplit, ← ih _ hrest]
      simp only [List.mem_cons, exists_eq_or_imp]

/-- What a message of a remote instruction says of its chip and its lanes. -/
theorem laneMsg_inj {kind k k' ctx id id' ty : Nat} {ctr : Option Nat} {ls ls' : List RemoteLane}
    (h : laneMsg kind k ctx id ty ctr ls = laneMsg kind k' ctx id' ty ctr ls') : k = k' ∧ ls = ls' := by
  unfold laneMsg at h
  split at h
  · cases h; exact ⟨rfl, rfl⟩
  · split at h <;> cases h <;> exact ⟨rfl, rfl⟩

section
variable (kind ctx id ty : Nat) (ctr : Option Nat)

/-- Messages that carry the lanes of each of some chips, and nothing else. -/
def Carried (lanes : Nat → List RemoteLane) (chips : List Nat) (ms : List FabMsg) : Prop :=
  ∀ x k, (∃ m ∈ ms, Sys2Proof.Claims.carries kind k ctx ty ctr x m) ↔ k ∈ chips ∧ x ∈ lanes k

theorem sendLanes_keeps (s : State) (k : Nat) (ls : List RemoteLane) :
    (sendLanes s kind k ctx id ty ctr ls).fabric = s.fabric ++ (packets s.fresh ls.length ls).map (laneMsg kind k ctx id ty ctr) ∧
      (sendLanes s kind k ctx id ty ctr ls).teams = s.teams ∧ (sendLanes s kind k ctx id ty ctr ls).cur = s.cur ∧
      ∀ q, byteAt (sendLanes s kind k ctx id ty ctr ls) q = byteAt s q := by
  have go (ps : List (List RemoteLane)) (s : State) : (ps.foldl (fun s p => s.send (laneMsg kind k ctx id ty ctr p)) s).fabric =
        s.fabric ++ ps.map (laneMsg kind k ctx id ty ctr) := by
    induction ps generalizing s with
    | nil => simp
    | cons p r ih => rw [List.foldl_cons, ih, (send_keeps s _).1]; simp
  refine ⟨go _ _, ?_, ?_, fun q => .trans ?_ (show byteAt { s with fresh := s.fresh + ls.length } q = byteAt s q by cases q <;> rfl)⟩
  · exact foldl_keeps (fun s p => s.send (laneMsg kind k ctx id ty ctr p)) State.teams (fun s p => (send_keeps s _).2.2.1) _ _
  · exact foldl_keeps (fun s p => s.send (laneMsg kind k ctx id ty ctr p)) State.cur (fun s p => by unfold State.send; dsimp only; split <;> rfl) _ _
  · exact foldl_keeps (fun s p => s.send (laneMsg kind k ctx id ty ctr p)) (fun s => byteAt s q) (fun s p => (send_keeps s _).2.2.2 q) _ _

/-- The lanes of one chip after those of others. -/
theorem carried_cons {lanes : Nat → List RemoteLane} {k : Nat} {chips : List Nat} {ms : List FabMsg} (n : Nat)
    (h : Carried kind ctx ty ctr lanes chips ms) :
    Carried kind ctx ty ctr lanes (k :: chips) ((packets n (lanes k).length (lanes k)).map (laneMsg kind k ctx id ty ctr) ++ ms) := by
  intro x j
  have hone : (∃ m ∈ (packets n (lanes k).length (lanes k)).map (laneMsg kind k ctx id ty ctr), Sys2Proof.Claims.carries kind j ctx ty ctr x m) ↔
      j = k ∧ x ∈ lanes j := by
    constructor
    · rintro ⟨m, hm, id', ls, rfl, hx⟩
      obtain ⟨p, hp, he⟩ := List.mem_map.1 hm
      obtain ⟨rfl, rfl⟩ := laneMsg_inj he
      exact ⟨rfl, (mem_packets n x _ _ (Nat.le_refl _)).1 ⟨p, hp, hx⟩⟩
    · rintro ⟨rfl, hx⟩
      obtain ⟨p, hp, hxp⟩ := (mem_packets n x _ _ (Nat.le_refl _)).2 hx
      exact ⟨_, List.mem_map_of_mem hp, id, p, rfl, hxp⟩
  have hsplit : (∃ m ∈ (packets n (lanes k).length (lanes k)).map (laneMsg kind k ctx id ty ctr) ++ ms, Sys2Proof.Claims.carries kind j ctx ty ctr x m) ↔
      (j = k ∧ x ∈ lanes j) ∨ (j ∈ chips ∧ x ∈ lanes j) := by
    rw [← hone, ← h x j]
    simp only [List.mem_append, or_and_right, exists_or]
  rw [hsplit, List.mem_cons, or_and_right]

/-- The lanes of all chips are sent, and nothing else. -/
theorem sendChips_carries (lanes : Nat → List RemoteLane) (chips : List Nat) (s : State) :
    ∃ ms, (chips.foldl (fun s k => sendLanes s kind k ctx id ty ctr (lanes k)) s).fabric = s.fabric ++ ms ∧ Carried kind ctx ty ctr lanes chips ms ∧
      (chips.foldl (fun s k => sendLanes s kind k ctx id ty ctr (lanes k)) s).teams = s.teams ∧
      (chips.foldl (fun s k => sendLanes s kind k ctx id ty ctr (lanes k)) s).cur = s.cur ∧
      ∀ q, byteAt (chips.foldl (fun s k => sendLanes s kind k ctx id ty ctr (lanes k)) s) q = byteAt s q := by
  induction chips generalizing s with
  | nil => exact ⟨[], by simp, fun x k => by simp, rfl, rfl, fun q => rfl⟩
  | cons k r ih =>
    obtain ⟨hf, ht, hc, hb⟩ := sendLanes_keeps kind ctx id ty ctr s k (lanes k)
    obtain ⟨ms, hfr, hcar, htr, hcr, hbr⟩ := ih (sendLanes s kind k ctx id ty ctr (lanes k))
    exact ⟨_, by rw [List.foldl_cons, hfr, hf, List.append_assoc], carried_cons kind ctx id ty ctr s.fresh hcar, htr.trans ht, hcr.trans hc,
      fun q => (hbr q).trans (hb q)⟩

end

theorem mem_foldl_insertNew {α : Type} [BEq α] [LawfulBEq α] (l acc : List α) (x : α) : x ∈ l.foldl insertNew acc ↔ x ∈ l ∨ x ∈ acc := by
  induction l generalizing acc with
  | nil => simp
  | cons y r ih =>
    have hy : x ∈ insertNew acc y ↔ x = y ∨ x ∈ acc := by
      unfold insertNew
      split
      · next hc => exact ⟨.inr, fun h => h.elim (fun e => e ▸ List.contains_iff_mem.1 hc) id⟩
      · exact List.mem_cons
    rw [List.foldl_cons, ih, hy, List.mem_cons]
    tauto

/-! ### The command -/

/-- The entry of the registers that a GETR's answers go to. -/
def getrFlight (t : Team) (id : Nat) (writes : List (Reg × Nat × W64)) : List InFlight :=
  if writes.isEmpty then []
  else [{ id := t.nIssued, kind := .getr id, regs := (writes.map (·.1)).foldl insertNew [], writes := writes }]

theorem foldl_insertNew_isEmpty (rs : List Reg) : (rs.foldl insertNew []).isEmpty = rs.isEmpty := by
  cases rs with
  | nil => rfl
  | cons r rs =>
    have hr : r ∈ (r :: rs).foldl insertNew [] := (mem_foldl_insertNew _ _ _).2 (.inl List.mem_cons_self)
    rw [List.isEmpty_cons, List.isEmpty_eq_false_iff]
    exact List.ne_nil_of_mem hr

/-- The team of a command whose registers await its answers, where it has any. -/
def getrPut (s : State) (ti id : Nat) (writes : List (Reg × Nat × W64)) : State :=
  if ((writes.map (·.1)).foldl insertNew []).isEmpty then s else s.updTeam ti (fun t => { t with
    flight := t.flight ++ [{ id := t.nIssued, kind := .getr id, regs := (writes.map (·.1)).foldl insertNew [], writes := writes }] })

theorem getrPut_reach (s : State) (ti id : Nat) (writes : List (Reg × Nat × W64)) : (getrPut s ti id writes).reach = s.reach := by
  unfold getrPut
  split <;> rfl

theorem getrPut_keeps (s : State) (ti id : Nat) (writes : List (Reg × Nat × W64)) : (getrPut s ti id writes).fabric = s.fabric ∧
    (getrPut s ti id writes).cur = s.cur ∧ (∀ q, byteAt (getrPut s ti id writes) q = byteAt s q) ∧
    (getrPut s ti id writes).team ti = { s.team ti with flight := (s.team ti).flight ++ getrFlight (s.team ti) id writes } ∧
    ∀ j, j ≠ ti → (getrPut s ti id writes).team j = s.team j := by
  unfold getrPut getrFlight
  rw [foldl_insertNew_isEmpty, List.isEmpty_map]
  split
  · exact ⟨rfl, rfl, fun _ => rfl, by rw [List.append_nil], fun _ _ => rfl⟩
  · exact ⟨rfl, rfl, fun q => byteAt_updTeam _ _ _ q, updTeam_team _ _ _, fun j hj => updTeam_team_ne _ _ _ _ hj⟩

/-- The chips of the lanes, each once, and the lanes of one. -/
def chipsOf (ls : List (RemoteLane × Nat)) : List Nat := ((ls.map (·.2)).foldl insertNew []).reverse
def chipLanes (ls : List (RemoteLane × Nat)) (k : Nat) : List RemoteLane := (ls.filter (fun x => x.2 == k)).map (·.1)

theorem mem_chipsOf (ls : List (RemoteLane × Nat)) (k : Nat) : k ∈ chipsOf ls ↔ ∃ x, (x, k) ∈ ls := by
  rw [chipsOf, List.mem_reverse, mem_foldl_insertNew]
  simp

theorem mem_chipLanes (ls : List (RemoteLane × Nat)) (k : Nat) (x : RemoteLane) : x ∈ chipLanes ls k ↔ (x, k) ∈ ls := by
  simp [chipLanes]

/-- A remote instruction whose lanes' chips are all reached enters its command and sends them. -/
theorem remoteSend_reached {s : State} {ti kind ty : Nat} {ctr : Option Nat} {ls : List (RemoteLane × Nat)} {writes : List (Reg × Nat × W64)}
    (hf : (s.team ti).flight = []) (hls : ls ≠ []) (hreach : ∀ x ∈ ls, s.reach x.2 = true) :
    ∃ f : FabCmd, remoteSend s ti kind ty ctr ls writes = (chipsOf ls).foldl
      (fun s' k => sendLanes s' kind k (s.crew (s.team ti).crew).ctx s.order ty ctr (chipLanes ls k))
      ((getrPut (opIssue s ti 3).2 ti s.order writes).updCtx (s.crew (s.team ti).crew).ctx (fun c => { c with fab := c.fab ++ [f] })) := by
  have hreach2 : (opIssue s ti 3).2.reach = s.reach := by
    rw [opIssue_eq 3 hf]
    rfl
  have hup (k : Nat) (hk : k ∈ chipsOf ls) : s.reach k = true := by
    obtain ⟨x, hx⟩ := (mem_chipsOf ls k).1 hk
    exact hreach _ hx
  have hnone : (chipsOf ls).filter (fun k => !s.reach k) = [] := List.filter_eq_nil_iff.2 (fun k hk => by simp [hup k hk])
  have hlive : (ls.filter (fun x => s.reach x.2)).isEmpty = false := by
    rw [List.filter_eq_self.2 hreach]
    exact List.isEmpty_eq_false_iff.2 hls
  have hreach3 : (getrPut (opIssue s ti 3).2 ti s.order writes).reach = s.reach := (getrPut_reach _ _ _ _).trans hreach2
  have hall : (chipsOf ls).filter (fun k => s.reach k) = chipsOf ls := List.filter_eq_self.2 hup
  unfold remoteSend
  dsimp only
  rw [hreach2, hlive]
  generalize h3 : (if ((writes.map (·.1)).foldl insertNew []).isEmpty = true then (opIssue s ti 3).2
    else (opIssue s ti 3).2.updTeam ti (fun t => { t with flight := t.flight ++
      [{ id := t.nIssued, kind := .getr (opIssue s ti 3).1, regs := (writes.map (·.1)).foldl insertNew [], writes := writes }] })) = s3
  obtain rfl : getrPut (opIssue s ti 3).2 ti s.order writes = s3 := h3
  rw [hreach3, show ((ls.map (·.2)).foldl insertNew []).reverse = chipsOf ls from rfl, hnone, List.foldl_nil, hreach3, hall]
  rw [if_neg Bool.false_ne_true]
  have hall4 (c : Nat) (g : Ctx → Ctx) :
      (chipsOf ls).filter (fun k => ((getrPut (opIssue s ti 3).2 ti s.order writes).updCtx c g).reach k) = chipsOf ls := by
    rw [show ((getrPut (opIssue s ti 3).2 ti s.order writes).updCtx c g).reach = s.reach from hreach3, hall]
  exact ⟨_, congrArg (List.foldl _ _) (hall4 _ _)⟩

/-- A remote instruction whose lanes' chips are all reached. -/
theorem remoteSend_sends {s : State} {ti kind ty : Nat} {ctr : Option Nat} {ls : List (RemoteLane × Nat)} {writes : List (Reg × Nat × W64)}
    (hf : (s.team ti).flight = []) (hls : ls ≠ []) (hreach : ∀ x ∈ ls, s.reach x.2 = true) :
    ∃ ms, (remoteSend s ti kind ty ctr ls writes).fabric = s.fabric ++ ms ∧
      (∀ x k, (∃ m ∈ ms, Sys2Proof.Claims.carries kind k (s.crew (s.team ti).crew).ctx ty ctr x m) ↔ (x, k) ∈ ls) ∧
      (remoteSend s ti kind ty ctr ls writes).team ti = { s.team ti with
        opc := cset [] (s.team ti).opc 3 ((s.team ti).ops 3 ++ [(s.order, false)]), flight := getrFlight (s.team ti) s.order writes } ∧
      (∀ j, j ≠ ti → (remoteSend s ti kind ty ctr ls writes).team j = s.team j) ∧ (remoteSend s ti kind ty ctr ls writes).cur = s.cur ∧
      ∀ q, byteAt (remoteSend s ti kind ty ctr ls writes) q = byteAt s q := by
  obtain ⟨f, hrun⟩ := remoteSend_reached (kind := kind) (ty := ty) (ctr := ctr) (writes := writes) hf hls hreach
  obtain ⟨ms, hfab, hcar, hteams, hcur, hbytes⟩ := sendChips_carries kind (s.crew (s.team ti).crew).ctx s.order ty ctr (chipLanes ls) (chipsOf ls)
    ((getrPut (opIssue s ti 3).2 ti s.order writes).updCtx (s.crew (s.team ti).crew).ctx (fun c => { c with fab := c.fab ++ [f] }))
  obtain ⟨hgf, hgc, hgb, hgt, hgo⟩ := getrPut_keeps (opIssue s ti 3).2 ti s.order writes
  have hissue := opIssue_eq 3 hf
  have hteam := opIssue_team 3 hf
  rw [hrun]
  refine ⟨ms, hfab.trans ?_, fun x k => (hcar x k).trans ⟨fun h => (mem_chipLanes ls k x).1 h.2, fun h => ⟨(mem_chipsOf ls k).2 ⟨x, h⟩, (mem_chipLanes ls k x).2 h⟩⟩,
    ?_, fun j hj => ?_, hcur.trans (hgc.trans ?_), fun q => (hbytes q).trans ((byteAt_updCtx _ _ _ q).trans ((hgb q).trans (byteAt_opIssue 3 hf q)))⟩
  · exact congrArg (· ++ ms) (hgf.trans (by rw [hissue]; rfl))
  · rw [State.team, hteams]
    refine hgt.trans ?_
    rw [hteam]
    simp [hf, getrFlight]
  · rw [State.team, hteams]
    refine (hgo j hj).trans ?_
    rw [hissue]
    exact updTeam_team_ne _ _ _ _ hj
  · rw [hissue]
    rfl

/-! ### The instruction -/

/-- What PUTR, GETR and RRED ask of their destination or data field. -/
def remoteField (t : Team) (kind : Nat) : Opnd → Bool
  | .v n => !mr64 t.mr || n.val % 2 == 0
  | .vx _ | .zr => true
  | .lid => kind != 1
  | _ => false

section
variable {i : Instr} {s s1 : State} {op kind : Nat} {d a : Opnd} {b : Fin 128} {ctl : Nat} {peers : List (RemoteLane × Option Nat)}

/-- A remote instruction of a ready team whose lanes' addresses may be remote, and whose roles are bound. -/
theorem remoteOp_runs (h : ready s = true) (he : exec i s = remoteOp op kind d a (.v b) s) (ha : okS a = true) (hd : remoteField s.me kind d = true)
    (hty : (mrTyValid s.me.mr && (decide (kind < 2) || tyAtomAdd (mrType s.me.mr))) = true)
    (hin : inRange s.me [(d, mrWords s.me.mr), (a, 2), (.v b, 2)] = true) (hroom : s.me.opCount 3 < 255)
    (hquire : (s.crewRec s.me.crew).quire ≠ 0xFFFF) (hdraft : (s.crew s.me.crew).drafting = false) (hctl : ctl = (sVal s.me a).toNat) (hmax : ctl < 2 ^ 61)
    (hget : kind = 1 → bitN ctl 52 = false)
    (hva : ∀ l ∈ parts s.me, (remoteLane s.me d (.v b) ctl (kind == 1) l).1.va % tySize (mrType s.me.mr) = 0 ∧
      (remoteLane s.me d (.v b) ctl (kind == 1) l).1.va < winLo)
    (hpeers : lanePeers s.settled s.cur ((parts s.me).map (remoteLane s.me d (.v b) ctl (kind == 1))) = .ok (s1, peers))
    (hbound : ∀ x ∈ peers, x.2.isSome = true) :
    ∃ ps : List Pass, ps.map (fun p => (p.lo, p.n)) = passWords s.me (mr64 s.me.mr) ∧
      exec i s = .next (retire (remoteSend s1 s.cur kind (mrType s.me.mr) (if bitN ctl 52 then some (bitsN ctl 53 8) else none)
        (peers.map (fun x => (x.1, x.2.getD 0))) (if kind = 1 then (remoteAt s.me d (.v b) ctl true ps).flatMap (fun x =>
          grpWrites (s1.team s.cur) (mrWords s.me.mr) d x.2.2 x.1.lane 0) else [])) s.cur op 1 ps false []) := by
  have ht := ready_pend h
  have hreach := withinRegs_of_inRange hin
  obtain ⟨ps, hps, hpass⟩ := passesOf_ready h op (passWords s.me (mr64 s.me.mr))
    (bankReads (if kind = 1 then [(.v b, 2)] else [(d, mrWords s.me.mr), (.v b, 2)])) (vxOps [(d, mrWords s.me.mr), (a, 2), (.v b, 2)])
    ((guardUse s.me :: indexUses s.me [(d, mrWords s.me.mr), (a, 2), (.v b, 2)]) ++ [(d, mrWords s.me.mr), (a, 2), (.v b, 2)].map (grpUse s.me))
  have hf0 : (s.settled.team s.cur).flight = [] := by rw [settled_team, ready_flight h]
  obtain ⟨-, hm, -⟩ := lanePeers_keeps _ hf0 hpeers
  have hend : endIdem s1 s.me.crew = s1 := endIdem_of_not (by rw [crew_of_manned hm]; exact hdraft)
  have hlanes : ps.flatMap (fun p => ((span p.lo p.n).filter (fun l => s.me.active l && s.me.guard p.at_ l)).map (fun l =>
      (({ lane := l, va := wrapN 64 ((ctl % 2 ^ 52 : Nat) + sextN 32 (readGrp s.me p.at_ 2 (.v b) l / 2 ^ 32) * tySize (mrType s.me.mr)),
          data := w64 (if kind = 1 then 0 else readGrp s.me p.at_ (mrWords s.me.mr) d l % 2 ^ (8 * tySize (mrType s.me.mr))), poison := false } : RemoteLane),
        readGrp s.me p.at_ 2 (.v b) l % 2 ^ 32, p.at_))) = remoteAt s.me d (.v b) ctl (kind == 1) ps := by
    simp only [guard_nil ht, readGrp_nil ht, remoteAt, remoteLane, beq_iff_eq]
    rfl
  have hfind (p : RemoteLane → Bool) (hp : ∀ l ∈ parts s.me, p (remoteLane s.me d (.v b) ctl (kind == 1) l).1 = true) :
      (remoteAt s.me d (.v b) ctl (kind == 1) ps).find? (fun x => !p x.1) = none := by
    rw [List.find?_eq_none]
    intro x hx
    obtain ⟨l, hl, hx⟩ := mem_remoteAt (ready_lanes h).1 hps hx
    have hx1 : x.1 = (remoteLane s.me d (.v b) ctl (kind == 1) l).1 := congrArg Prod.fst hx
    simp [hx1, hp l hl]
  have hfields : [fld d (remoteField s.me kind), fld a okS, fld (.v b) (fun _ => true)].all (·.2) = true := by simp [fld, hd, ha]
  have hctl' (c : Nat) : readGrp s.me c 2 a 0 = ctl := by
    have hop : readGrp s.me c 2 a 0 = readOp s.me c true a 0 := by
      cases a with
      | v n => exact nomatch ha
      | vx n => exact nomatch ha
      | _ => rfl
    rw [hop, rdS s.me c a ht ha, hctl]
  have hclear : (decide (ctl / 2 ^ 61 ≠ 0) || (kind == 1 && bitN ctl 52)) = false := by
    rw [Nat.div_eq_of_lt hmax]
    by_cases hk : kind = 1
    · simp [hget hk]
    · simp [hk]
  have hnone : peers.find? (fun x => x.2.isNone) = none := by
    rw [List.find?_eq_none]
    intro x hx
    have := hbound x hx
    cases hx2 : x.2 <;> simp_all
  have hwrites : (if kind = 1 then (remoteAt s.me d (.v b) ctl (kind == 1) ps).flatMap (fun x => grpWrites (s1.team s.cur) (mrWords s.me.mr) d x.2.2 x.1.lane 0) else []) =
      if kind = 1 then (remoteAt s.me d (.v b) ctl true ps).flatMap (fun x => grpWrites (s1.team s.cur) (mrWords s.me.mr) d x.2.2 x.1.lane 0) else [] := by
    split
    · next hk => rw [beq_iff_eq.2 hk]
    · rfl
  refine ⟨ps, hps, he.trans (runInstr_ok s _ _ h ?_)⟩
  have hdecode : decodeChecks s.me (wordF3 op d a (.v b)) false [fld d (remoteField s.me kind), fld a okS, fld (.v b) (fun _ => true)]
      (mrTyValid s.me.mr && (decide (kind < 2) || tyAtomAdd (mrType s.me.mr))) = .ok () := by
    rw [hty]
    exact decodeChecks_ok s.me _ _ (ready_pace h) hfields
  refine (congrArg (Except.bind · _) hdecode).trans ?_
  have haligned := hfind (fun y => y.va % tySize (mrType s.me.mr) == 0) (fun l hl => beq_iff_eq.2 (hva l hl).1)
  have hlow := hfind (fun y => decide (y.va < winLo)) (fun l hl => decide_eq_true (hva l hl).2)
  have hcanon := hfind (fun y => decide (y.va < 2 ^ 52)) (fun l hl => decide_eq_true (Nat.lt_trans (hva l hl).2 (by decide)))
  have hrec : (s.settled.crewRec s.me.crew).quire ≠ 65535 := hquire
  simp only [Except.bind, rangeChecks_ok hreach, hpass, vxChecks_ok ht hreach, hctl', hlanes, show opRoom s.me 3 = .ok () from if_pos hroom, haligned, hlow,
    hcanon, settle_settled ht, decide_eq_true hrec, if_true, remoteAt_lanes (ready_lanes h).1 d (.v b) ctl (kind == 1) hps, hpeers, poisonLane, ready_vPoison h,
    List.isEmpty_nil, Option.orElse_none, commit_nil s.me _ ht, sPoisoned_nil s.me _ (ready_sPoison h), Bool.false_eq_true, if_false, undersized_nil _ _ _ _ _ ht,
    hclear, Bool.not_true, hnone, hend, bind, pure, Except.pure, hwrites]

/-- The registers of a lane's group do not depend on what lasts of the team. -/
theorem grpWrites_lasting {t t' : Team} (ht : t.lasting = t'.lasting) (n : Nat) (o : Opnd) (c l v : Nat) :
    grpWrites t n o c l v = grpWrites t' n o c l v := by
  have hx : t.x = t'.x := (congrArg Team.x ht :)
  have hpend : t.pend = t'.pend := (congrArg Team.pend ht :)
  have hindex (k : Nat) : vxIndex t c k l = vxIndex t' c k l := by
    simp only [vxIndex, Team.read, hpend, Team.held, hx]
  cases o with
  | vx k => simp only [grpWrites, hindex]
  | _ => rfl

/-- The registers that await a GETR's answers are those of the lanes that take part. -/
theorem getrWrites_iff {t : Team} (ht : t.pend = []) (hlanes : 5 ≤ t.lanesLog) (d b : Opnd) (ctl : Nat) {is64 : Bool} {ps : List Pass}
    (hps : ps.map (fun p => (p.lo, p.n)) = passWords t is64) (n : Nat) (r : Reg) (l : Nat) :
    (∃ v, (r, l, v) ∈ (remoteAt t d b ctl true ps).flatMap (fun x => grpWrites t n d x.2.2 x.1.lane 0)) ↔
      ∃ k, writesLane t false k ∧ ∃ v, (r, l, v) ∈ grpWrites t n d 0 k 0 := by
  have hlane : (remoteAt t d b ctl true ps).map (·.1.lane) = parts t := by
    have h := congrArg (List.map (fun x : RemoteLane × Nat => x.1.lane)) (remoteAt_lanes hlanes d b ctl true hps)
    simp only [List.map_map] at h
    refine h.trans ?_
    simp [remoteLane, Function.comp_def]
  simp only [List.mem_flatMap, grpWrites_nil ht n d, ← mem_parts, ← hlane, List.mem_map]
  constructor
  · rintro ⟨v, x, hx, hv⟩
    exact ⟨_, ⟨x, hx, rfl⟩, v, hv⟩
  · rintro ⟨_, ⟨x, hx, rfl⟩, v, hv⟩
    exact ⟨v, x, hx, hv⟩

theorem wordWrites_mem (r l v n : Nat) : (.v r, l, w64 (v % 2 ^ 32)) ∈ wordWrites r l v (n + 1) := List.mem_cons_self

/-- What a remote instruction leaves (R408 to R410). -/
theorem remoteOp_sends (h : ready s = true) (he : exec i s = remoteOp op kind d a (.v b) s) (ha : okS a = true) (hd : remoteField s.me kind d = true)
    (hty : (mrTyValid s.me.mr && (decide (kind < 2) || tyAtomAdd (mrType s.me.mr))) = true)
    (hin : inRange s.me [(d, mrWords s.me.mr), (a, 2), (.v b, 2)] = true) (hroom : s.me.opCount 3 < 255) (hparts : parts s.me ≠ [])
    (hquire : (s.crewRec s.me.crew).quire ≠ 0xFFFF) (hdraft : (s.crew s.me.crew).drafting = false) (hctl : ctl = (sVal s.me a).toNat) (hmax : ctl < 2 ^ 61)
    (hget : kind = 1 → bitN ctl 52 = false)
    (hva : ∀ l ∈ parts s.me, (remoteLane s.me d (.v b) ctl (kind == 1) l).1.va % tySize (mrType s.me.mr) = 0 ∧
      (remoteLane s.me d (.v b) ctl (kind == 1) l).1.va < winLo)
    (hpeers : lanePeers s.settled s.cur ((parts s.me).map (remoteLane s.me d (.v b) ctl (kind == 1))) = .ok (s1, peers))
    (hbound : ∀ x ∈ peers, ∃ k, x.2 = some k ∧ s1.reach k = true) :
    ∃ t id ms, exec i s = .next t ∧ t.me.pc = nextPc s.me.pc 1 ∧ t.me.status = .run ∧ t.me.v = s.me.v ∧ t.me.s = s.me.s ∧
      t.me.ops 3 = s.me.ops 3 ++ [(id, false)] ∧ t.fabric = s1.fabric ++ ms ∧ (∀ q, byteAt t q = byteAt s1 q) ∧
      (∀ x k, (∃ m ∈ ms, Sys2Proof.Claims.carries kind k (s.crew s.me.crew).ctx (mrType s.me.mr) (if bitN ctl 52 then some (bitsN ctl 53 8) else none) x m) ↔
        (x, some k) ∈ peers) ∧
      (kind = 1 → d ≠ .zr → ∃ f ∈ t.me.flight, f.kind = .getr id ∧ ∀ r l, (∃ v, (r, l, v) ∈ f.writes) ↔
        ∃ k, writesLane s.me false k ∧ ∃ v, (r, l, v) ∈ grpWrites s.me (mrWords s.me.mr) d 0 k 0) := by
  obtain ⟨ps, hps, hexec⟩ := remoteOp_runs h he ha hd hty hin hroom hquire hdraft hctl hmax hget hva hpeers
    (fun x hx => by obtain ⟨k, hk, -⟩ := hbound x hx; rw [hk]; rfl)
  have hf0 : (s.settled.team s.cur).flight = [] := by rw [settled_team, ready_flight h]
  obtain ⟨hl0, hm, hlanes⟩ := lanePeers_keeps _ hf0 hpeers
  have hl : s1.lasting = s.lasting := hl0.trans (settled_lasting s)
  have hlast : (s1.team s.cur).lasting = s.me.lasting := team_of_lasting hl s.cur
  have hf1 : (s1.team s.cur).flight = [] := (congrArg Team.flight hlast :).trans (ready_flight h)
  have hsome : peers.map (fun x => (x.1, x.2.getD 0)) ≠ [] := by
    intro hnil
    have hnil' : peers = [] := List.map_eq_nil_iff.1 hnil
    rw [hnil', List.map_nil] at hlanes
    exact hparts (by simpa using hlanes.symm)
  have hreach : ∀ x ∈ peers.map (fun x => (x.1, x.2.getD 0)), s1.reach x.2 = true := by
    intro x hx
    obtain ⟨y, hy, rfl⟩ := List.mem_map.1 hx
    obtain ⟨k, hk, hr⟩ := hbound y hy
    rw [hk]
    exact hr
  have hmem (x : RemoteLane) (k : Nat) : (x, k) ∈ peers.map (fun x => (x.1, x.2.getD 0)) ↔ (x, some k) ∈ peers := by
    constructor
    · intro hx
      obtain ⟨y, hy, he⟩ := List.mem_map.1 hx
      obtain ⟨z, j'⟩ := y
      obtain ⟨j, rfl, -⟩ := hbound _ hy
      obtain ⟨rfl, rfl⟩ := Prod.mk.inj he
      exact hy
    · exact fun hx => List.mem_map.2 ⟨_, hx, rfl⟩
  generalize hw : (if kind = 1 then (remoteAt s.me d (.v b) ctl true ps).flatMap (fun x =>
    grpWrites (s1.team s.cur) (mrWords s.me.mr) d x.2.2 x.1.lane 0) else []) = writes at hexec
  obtain ⟨ms, hfab, hcar, hteam, -, hcur, hbytes⟩ := remoteSend_sends (kind := kind) (ty := mrType s.me.mr)
    (ctr := if bitN ctl 52 then some (bitsN ctl 53 8) else none) (writes := writes) hf1 hsome hreach
  generalize remoteSend s1 s.cur kind (mrType s.me.mr) (if bitN ctl 52 then some (bitsN ctl 53 8) else none) (peers.map (fun x => (x.1, x.2.getD 0))) writes =
    s2 at hexec hfab hteam hcur hbytes
  have honly := retire_onlyTeam s2 s.cur op 1 ps false []
  have hme := retire_me s2 s.cur op 1 ps false []
  have hstatus := retire_status s2 s.cur op 1 ps false []
  have hcur1 : s1.cur = s.cur := cur_of_lasting hl
  generalize retire s2 s.cur op 1 ps false [] = t at hexec honly hme hstatus
  rw [hteam] at hme
  have htme : t.me = t.team s.cur := by rw [State.me, honly.cur, hcur, hcur1]
  have hcrew : (s1.crew (s1.team s.cur).crew).ctx = (s.crew s.me.crew).ctx := by
    rw [show (s1.team s.cur).crew = s.me.crew from (congrArg Team.crew hlast :), crew_of_manned hm]
    rfl
  refine ⟨t, s1.order, ms, hexec, ?_, htme ▸ hstatus, ?_, ?_, ?_, ?_, fun q => (honly.byteAt q).trans (hbytes q),
    fun x k => by rw [← hcrew, hcar, hmem], fun hk hzr => ?_⟩
  · rw [htme]
    exact (congrArg Team.pc hme :).trans (congrArg (nextPc · 1) (congrArg Team.pc hlast :))
  · rw [htme]
    exact (congrArg Team.v hme :).trans (congrArg Team.v hlast :)
  · rw [htme]
    exact (congrArg Team.s hme :).trans (congrArg Team.s hlast :)
  · have hopc : (s1.team s.cur).opc = s.me.opc := (congrArg Team.opc hlast :)
    refine (ops_issued s.me 3 s1.order ?_).1
    rw [htme]
    refine (congrArg Team.opc hme :).trans ?_
    show cset [] (s1.team s.cur).opc 3 ((s1.team s.cur).ops 3 ++ [(s1.order, false)]) = _
    rw [Team.ops, hopc, Team.ops]
  · exact (congrArg State.fabric honly.1 :).trans hfab
  · rw [if_pos hk] at hw
    simp only [grpWrites_lasting hlast] at hw
    have hiff (r : Reg) (l : Nat) := getrWrites_iff (ready_pend h) (ready_lanes h).1 d (.v b) ctl hps (mrWords s.me.mr) r l
    rw [hw] at hiff
    have hne : writes.isEmpty = false := by
      obtain ⟨k, hk'⟩ := List.exists_mem_of_ne_nil _ hparts
      obtain ⟨n, hn⟩ : ∃ n, mrWords s.me.mr = n + 1 := by
        unfold mrWords
        split
        · exact ⟨1, rfl⟩
        · exact ⟨0, rfl⟩
      have hsome (r : Reg) (v : W64) (hv : (r, k, v) ∈ grpWrites s.me (mrWords s.me.mr) d 0 k 0) : writes.isEmpty = false := by
        obtain ⟨v', hv'⟩ := (hiff r k).2 ⟨k, mem_parts.1 hk', v, hv⟩
        exact List.isEmpty_eq_false_iff.2 (List.ne_nil_of_mem hv')
      rw [hn] at hsome
      cases d with
      | v r => exact hsome _ _ (wordWrites_mem _ _ _ _)
      | vx r => exact hsome _ _ (wordWrites_mem _ _ _ _)
      | zr => exact absurd rfl hzr
      | lid => rw [hk] at hd; cases hd
      | _ => cases hd
    have hflight : t.me.flight = getrFlight (s1.team s.cur) s1.order writes := by rw [htme]; exact (congrArg Team.flight hme :)
    unfold getrFlight at hflight
    rw [hne, if_neg Bool.false_ne_true] at hflight
    exact ⟨_, hflight ▸ List.mem_singleton_self _, rfl, hiff⟩

end

/-- Settles O47: every row is `remoteOp_sends`. -/
theorem remoteAccessesAreSent : Obligations.RemoteAccessesAreSent := by
  unfold Obligations.RemoteAccessesAreSent
  intro s s1 d a b n e ty ctl peers h ha hty0 hty hn he hd hin hroom hparts hquire hdraft hctl hmax ls hls hva row hrow hget hadd hpeers hbound
  subst hty hn he
  have hls' (get : Bool) : ls get = (parts s.me).map (remoteLane s.me d (.v b) ctl get) := hls get
  have hlane : ∀ get, ∀ l ∈ parts s.me, (remoteLane s.me d (.v b) ctl get l).1.va % tySize (mrType s.me.mr) = 0 ∧
      (remoteLane s.me d (.v b) ctl get l).1.va < winLo := by
    intro get l hl
    exact hva (remoteLane s.me d (.v b) ctl true l) (by rw [hls' true]; exact List.mem_map_of_mem hl)
  have hfield (kind : Nat) (hlid : kind = 1 → d ≠ .lid) : remoteField s.me kind d = true := by
    obtain ⟨k, rfl, hk⟩ | ⟨k, rfl⟩ | rfl | rfl := hd
    · cases h64 : mr64 s.me.mr with
      | false => simp [remoteField, h64]
      | true => simp [remoteField, h64, hk h64]
    · rfl
    · rfl
    · exact bne_iff_ne.2 (fun hk => hlid hk rfl)
  rw [hls'] at hpeers
  simp only [List.mem_cons, List.not_mem_nil, or_false] at hrow
  obtain rfl | rfl | rfl | rfl := hrow
  · exact remoteOp_sends (kind := 0) h (show exec (.putr d a (.v b)) s = remoteOp 0xED 0 d a (.v b) s from rfl) ha (hfield 0 nofun) (by simp [hty0]) hin hroom
      hparts hquire hdraft hctl hmax nofun (hlane _) hpeers hbound
  · exact remoteOp_sends (kind := 1) h (show exec (.getr d a (.v b)) s = remoteOp 0xEE 1 d a (.v b) s from rfl) ha (hfield 1 (fun _ => (hget rfl).2))
      (by simp [hty0]) hin hroom hparts hquire hdraft hctl hmax (fun _ => (hget rfl).1) (hlane _) hpeers hbound
  · exact remoteOp_sends (kind := 2) h (show exec (.rredAdd d a (.v b)) s = remoteOp 0xEF 2 d a (.v b) s from rfl) ha (hfield 2 nofun)
      (by simp [hty0, hadd (Nat.le_refl 2)]) hin hroom hparts hquire hdraft hctl hmax nofun (hlane _) hpeers hbound
  · exact remoteOp_sends (kind := 3) h (show exec (.rredMax d a (.v b)) s = remoteOp 0xF0 3 d a (.v b) s from rfl) ha (hfield 3 nofun)
      (by simp [hty0, hadd (show 2 ≤ 3 by decide)]) hin hroom hparts hquire hdraft hctl hmax nofun (hlane _) hpeers hbound

end Sys2Proof.Machine
end

section
/-! SUPPORT. Arriving at a barrier and departing from it (18 R363, R365): O30. -/

namespace Sys2Proof.Machine

/-! ### Acquires and departures of several teams -/

theorem closeSome_cur (s : State) (ti : Nat) (out : LateLoad → Bool) : (closeSome s ti out).cur = s.cur := by
  unfold closeSome
  split
  · exact foldl_keeps (fun s (l : LateLoad) => fillLine s (s.teamCrew ti).core (.phys l.key) l.hint) State.cur
      (fun s l => (congrArg State.cur (fillLine_uncached s _ _ _) :)) _ _
  · rfl

theorem acquires_keep (scope : Nat) (ps : List Nat) (s : State) :
    (ps.foldl (fun s p => s.acquire p scope) s).cur = s.cur ∧ ∀ j, ((ps.foldl (fun s p => s.acquire p scope) s).team j).pc = (s.team j).pc := by
  induction ps generalizing s with
  | nil => exact ⟨rfl, fun _ => rfl⟩
  | cons p r ih =>
    obtain ⟨hcur, hpc⟩ := ih (s.acquire p scope)
    obtain ⟨hself, hother⟩ := acquire_team s p scope
    have hacq : (s.acquire p scope).cur = s.cur :=
      (congrArg State.cur (acquireAt_uncached (closeLate s p) (s.team p).crew scope) :).trans (closeSome_cur s p _)
    refine ⟨hcur.trans hacq, fun j => (hpc j).trans ?_⟩
    by_cases hj : j = p
    · rw [hj, hself]
    · rw [hother j hj]

theorem depart_only (core c op : Nat) (s : State) (p : Nat) : OnlyTeam p s (depart core c op s p) := retire_onlyTeam _ _ _ _ _ _ _

theorem depart_goes (core c op : Nat) (s : State) (p : Nat) :
    ((depart core c op s p).team p).pc = nextPc (s.team p).pc 1 ∧ ((depart core c op s p).team p).status = .run :=
  ⟨(congrArg Team.pc (retire_me s p op 1 _ true []) :), retire_status _ _ _ _ _ _ _⟩

/-- Parties that depart go on, and no other team changes. -/
theorem departs_keep (core c op : Nat) (ps : List Nat) (hnd : ps.Nodup) (s : State) :
    (ps.foldl (depart core c op) s).cur = s.cur ∧ (∀ j, j ∉ ps → (ps.foldl (depart core c op) s).team j = s.team j) ∧
      ∀ j ∈ ps, ((ps.foldl (depart core c op) s).team j).pc = nextPc (s.team j).pc 1 ∧ ((ps.foldl (depart core c op) s).team j).status = .run := by
  induction ps generalizing s with
  | nil => exact ⟨rfl, fun _ _ => rfl, fun _ h => nomatch h⟩
  | cons p r ih =>
    obtain ⟨hp, hr⟩ := List.nodup_cons.1 hnd
    obtain ⟨hcur, hout, hin⟩ := ih hr (depart core c op s p)
    have honly := depart_only core c op s p
    refine ⟨hcur.trans honly.cur, fun j hj => ?_, fun j hj => ?_⟩
    · rw [List.mem_cons, not_or] at hj
      exact (hout j hj.2).trans (honly.2.1 j hj.1)
    · obtain rfl | hjr := List.mem_cons.1 hj
      · rw [List.foldl_cons, hout j hp]
        exact depart_goes core c op s j
      · have hne : j ≠ p := fun e => hp (e ▸ hjr)
        rw [← honly.2.1 j hne]
        exact hin j hjr

section
variable {i : Instr} {s s1 : State} {op : Nat} {u : UCtx} {st : TStatus} {scope : Nat} {ps : List Nat}

/-- The parties that wait depart, and the team that completes the barrier with them. -/
theorem AtPass.departAll_goes (hu : AtPass s op u) (hl : s1.lasting = s.lasting) :
    (departAll { u with s := s1 } st scope ps).me.pc = nextPc s.me.pc 1 ∧ (departAll { u with s := s1 } st scope ps).me.status = .run ∧
      (ps.Nodup → ∀ p ∈ ps, p ≠ s.cur → (s1.team p).status = st →
        ((departAll { u with s := s1 } st scope ps).team p).pc = nextPc (s1.team p).pc 1 ∧
          ((departAll { u with s := s1 } st scope ps).team p).status = .run) := by
  let out := ps.filter (fun p => p != u.ti && (s1.team p).status == st)
  let s2 := (u.ti :: out).foldl (fun s p => s.acquire p scope) s1
  let s3 := out.foldl (depart (s1.crew u.t.crew).core u.c u.op) s2
  let s4 : State := { s3 with fresh := s3.fresh + 1 }
  have hgoes : departAll { u with s := s1 } st scope ps = u.done s4 [] 0 := rfl
  obtain ⟨hcur2, hpc2⟩ := acquires_keep scope (u.ti :: out) s1
  have hti : s.cur ∉ out := by
    intro h
    have := (List.mem_filter.1 h).2
    simp [hu.ti] at this
  have honly := hu.done_only s4 [] 0 false
  have hout (hnd : out.Nodup) := departs_keep (s1.crew u.t.crew).core u.c u.op out hnd s2
  have hcur4 (l : List Nat) (x : State) : (l.foldl (depart (s1.crew u.t.crew).core u.c u.op) x).cur = x.cur :=
    foldl_keeps (depart (s1.crew u.t.crew).core u.c u.op) State.cur (fun x p => (depart_only _ _ _ x p).cur) l x
  have hself (l : List Nat) (x : State) (h : s.cur ∉ l) : (l.foldl (depart (s1.crew u.t.crew).core u.c u.op) x).team s.cur = x.team s.cur := by
    induction l generalizing x with
    | nil => rfl
    | cons p r ih =>
      rw [List.mem_cons, not_or] at h
      exact (ih _ h.2).trans ((depart_only _ _ _ x p).2.1 _ h.1)
  have hcur : (u.done s4 [] 0).cur = s.cur := honly.cur.trans ((hcur4 out s2).trans (hcur2.trans (cur_of_lasting hl)))
  rw [hgoes]
  refine ⟨?_, ?_, fun hnd p hp hne hst => ?_⟩
  · rw [State.me, hcur]
    refine (congrArg Team.pc (hu.done_me s4 [] 0 false) :).trans ?_
    change nextPc (s3.team s.cur).pc 1 = _
    rw [hself out s2 hti, hpc2]
    exact congrArg (nextPc · 1) (congrArg Team.pc (team_of_lasting hl s.cur) :)
  · rw [State.me, hcur]
    exact hu.done_status s4 [] 0 false
  · have hpo : p ∈ out := List.mem_filter.2 ⟨hp, by simp [hu.ti, hne, hst]⟩
    rw [honly.2.1 p hne]
    obtain ⟨-, -, hin⟩ := hout (hnd.filter _)
    obtain ⟨hpc, hrun⟩ := hin p hpo
    exact ⟨hpc.trans (by rw [hpc2]), hrun⟩

/-- A team with nothing in flight arrives: no team changes. -/
theorem arriving_keeps (hu : AtPass s op u) (h : ready s = true) (hl : s1.lasting = s.lasting) (st : TStatus) (scope : Nat) :
    (UCtx.arriving { u with s := s1 } st scope).teams = s1.teams ∧ (UCtx.arriving { u with s := s1 } st scope).lasting = s.lasting := by
  have hf : (s1.team s.cur).flight = [] := (congrArg Team.flight (team_of_lasting hl s.cur) :).trans (ready_flight h)
  unfold UCtx.arriving
  dsimp only
  rw [hu.ti]
  split
  · exact ⟨rfl, hl⟩
  · obtain ⟨hteams, hlast, -⟩ := release_teams hf scope
    exact ⟨hteams, hlast.trans hl⟩

/-- A team that has to wait at a barrier waits there. -/
theorem AtPass.part_waits (hu : AtPass s op u) (hl : s1.lasting = s.lasting) (st : TStatus) :
    ∃ t, u.part s1 st = .become t ∧ t.me.status = st ∧ t.me.pc = s.me.pc := by
  obtain ⟨t, hpart, honly, hst, hpc⟩ := hu.part_me s1 st
  have hcur : t.cur = s.cur := honly.cur.trans (cur_of_lasting hl)
  exact ⟨t, hpart, by rw [State.me, hcur, hst], by rw [State.me, hcur, hpc]; exact (congrArg Team.pc (team_of_lasting hl s.cur) :)⟩

/-- A barrier of parties on this core's chip: it is complete when every other party waits there or is gone, and none is awaited. -/
theorem arrive_runs (hu : AtPass s op u) (h : ready s = true) (awaits : Bool)
    (hok : ∀ t, arrive u st scope ps awaits = .ok t → exec i s = .next t)
    (hstop : ∀ x, arrive u st scope ps awaits = .error x → exec i s = .next (stopped s s.cur x)) :
    (ps.Nodup → awaits = false → (∀ p ∈ ps, p = s.cur ∨ (s.team p).status = st ∨ partyGone s p = true) → Sys2Proof.Claims.Departs i s st ps) ∧
    ((awaits = true ∨ ∃ p ∈ ps, p ≠ s.cur ∧ (s.team p).status ≠ st ∧ partyGone s p = false) →
      ∃ t, exec i s = .next t ∧ t.me.status = st ∧ t.me.pc = s.me.pc) := by
  obtain ⟨hteams, hlast⟩ := arriving_keeps (s1 := u.s) hu h hu.lasting st scope
  have hteam (j : Nat) : u.s.team j = s.team j := by rw [hu.state, settled_teams]
  have hgone (p : Nat) : partyGone u.s p = partyGone s p := by rw [partyGone, partyGone, hteam]
  have hall : ps.all (fun p => p == u.ti || (u.s.team p).status == st || partyGone u.s p) = true ↔
      ∀ p ∈ ps, p = s.cur ∨ (s.team p).status = st ∨ partyGone s p = true := by
    simp only [List.all_eq_true, hteam, hgone, hu.ti, Bool.or_eq_true, beq_iff_eq, or_assoc]
  refine ⟨fun hnd haw hthere => ?_, fun hmissing => ?_⟩
  · have hdone : arrive u st scope ps awaits = .ok (departAll { u with s := u.arriving st scope } st scope ps) := by
      unfold arrive
      rw [haw, hall.2 hthere]
      rfl
    obtain ⟨hpc, hrun, hothers⟩ := hu.departAll_goes (st := st) (scope := scope) (ps := ps) hlast
    refine ⟨_, hok _ hdone, hpc, hrun, fun p hp hne hst => ?_⟩
    have hsame : (UCtx.arriving { u with s := u.s } st scope).team p = s.team p := by rw [State.team, hteams, ← hteam]; rfl
    have hp' := hothers hnd p hp hne (by rw [hsame, hst])
    rw [hsame] at hp'
    exact hp'
  · have hnot : (!awaits && ps.all (fun p => p == u.ti || (u.s.team p).status == st || partyGone u.s p)) = false := by
      obtain haw | ⟨p, hp, hne, hst, hg⟩ := hmissing
      · rw [haw]
        rfl
      · rw [Bool.and_eq_false_iff]
        refine .inr (Bool.eq_false_iff.2 fun ha => ?_)
        obtain h1 | h1 | h1 := hall.1 ha p hp
        · exact hne h1
        · exact hst h1
        · rw [hg] at h1
          cases h1
    obtain ⟨t, hpart, hst, hpc⟩ := hu.part_waits hlast st
    refine ⟨t, ?_, hst, hpc⟩
    have hwait : arrive u st scope ps awaits = .error (.become t) := by
      unfold arrive
      dsimp only
      rw [hnot, if_neg Bool.false_ne_true]
      exact congrArg Except.error hpart
    exact hstop _ hwait

end

/-! ### BAR.CREW and BAR.FOLIO -/

theorem barCrew_runs {s : State} {imm : BitVec 16} (h : ready s = true) (himm : imm.toNat < 16) {ps : List Nat} (hps : ps = (s.crew s.me.crew).teams) :
    (ps.Nodup → (∀ p ∈ ps, p = s.cur ∨ (s.team p).status = .barCrew imm.toNat ∨ partyGone s p = true) →
      Sys2Proof.Claims.Departs (.barCrew (.v 0) imm) s (.barCrew imm.toNat) ps) ∧
    ((∃ p ∈ ps, p ≠ s.cur ∧ (s.team p).status ≠ .barCrew imm.toNat ∧ partyGone s p = false) →
      ∃ t, exec (.barCrew (.v 0) imm) s = .next t ∧ t.me.status = .barCrew imm.toNat ∧ t.me.pc = s.me.pc) := by
  subst hps
  obtain ⟨u, hu, hok, hstop⟩ := uniform_run h (fields := []) (op := 0xAE) (word := wordFI 0xAE (.v 0) imm) (reads := []) (writes := []) (late := false)
    (body := fun u => arrive u (.barCrew imm.toNat) 1 (s.crew s.me.crew).teams) rfl
    (show exec (.barCrew (.v 0) imm) s = execBarCrew (.v 0) imm s from rfl) (by
      have hdec := decodeChecks_ok s.me (wordFI 0xAE (.v 0) imm) [fld (.v 0) okZero] (ready_pace h) (by decide)
      simp only [hdec, ok_bind, Nat.div_eq_of_lt himm, ne_eq, not_true_eq_false, if_false])
  obtain ⟨hgo, hwait⟩ := arrive_runs hu h false hok hstop
  exact ⟨fun hnd hall => hgo hnd rfl hall, fun hmiss => hwait (.inr hmiss)⟩

theorem barFolio_runs {s : State} {imm : BitVec 16} (h : ready s = true) (himm : imm.toNat < 16) (hfolio : (s.crewRec s.me.crew).folio = true)
    {ps : List Nat} (hps : ps = folioTeams s s.me.crew) :
    (ps.Nodup → folioAborted s s.me.crew = false → (∀ p ∈ ps, p = s.cur ∨ (s.team p).status = .barFolio imm.toNat ∨ partyGone s p = true) →
      Sys2Proof.Claims.Departs (.barFolio (.v 0) imm) s (.barFolio imm.toNat) ps) ∧
    ((folioAborted s s.me.crew = true ∨ ∃ p ∈ ps, p ≠ s.cur ∧ (s.team p).status ≠ .barFolio imm.toNat ∧ partyGone s p = false) →
      ∃ t, exec (.barFolio (.v 0) imm) s = .next t ∧ t.me.status = .barFolio imm.toNat ∧ t.me.pc = s.me.pc) := by
  subst hps
  obtain ⟨u, hu, hok, hstop⟩ := uniform_run h (fields := []) (op := 0xAF) (word := wordFI 0xAF (.v 0) imm) (reads := []) (writes := []) (late := false)
    (body := fun u => arrive u (.barFolio imm.toNat) 2 (folioTeams u.s s.me.crew) (folioAborted u.s s.me.crew)) rfl
    (show exec (.barFolio (.v 0) imm) s = execBarFolio (.v 0) imm s from rfl) (by
      have hdec := decodeChecks_ok s.me (wordFI 0xAF (.v 0) imm) [fld (.v 0) okZero] (ready_pace h) (by decide)
      simp only [hdec, ok_bind, Nat.div_eq_of_lt himm, ne_eq, not_true_eq_false, if_false, hfolio, Bool.not_true, Bool.false_eq_true])
  have hteams : folioTeams u.s s.me.crew = folioTeams s s.me.crew := by rw [hu.state]; rfl
  have haborted : folioAborted u.s s.me.crew = folioAborted s s.me.crew := by rw [hu.state]; rfl
  rw [hteams, haborted] at hok hstop
  exact arrive_runs hu h (folioAborted s s.me.crew) hok hstop

/-! ### BAR.QUIRE -/

/-- A crew but for its drafts. -/
def Crew.undrafted (c : Crew) : Crew := { c with drafts := [] }

/-- What a barrier of a quire is judged by: the teams, the crews but for their drafts, the launches, the contexts, and which chip this is. -/
def State.roster (s : State) : State :=
  { teams := s.teams, crews := s.crews.map (fun e => (e.1, e.2.undrafted)), launches := s.launches, ctxs := s.ctxs, chipId := s.chipId }

theorem cget_map_undrafted (m : Cells Crew) (k : Nat) : cget {} (m.map (fun e => (e.1, e.2.undrafted))) k = (cget {} m k).undrafted := by
  induction m with
  | nil => rfl
  | cons e r ih =>
    obtain ⟨a, w⟩ := e
    simp only [List.map_cons, cget]
    split
    · rfl
    · split
      · rfl
      · exact ih

theorem roster_crew (s : State) (i : Nat) : s.roster.crew i = (s.crew i).undrafted := cget_map_undrafted _ _

theorem boundTeams_roster (s : State) (ctx : Nat) (b : Binding) : boundTeams s.roster ctx b = boundTeams s ctx b := by
  have hfind (p : Nat × Crew → Bool) (hp : ∀ e, p (e.1, e.2.undrafted) = p e) :
      (s.crews.map (fun e => (e.1, e.2.undrafted))).find? p = (s.crews.find? p).map (fun e => (e.1, e.2.undrafted)) := by
    rw [List.find?_map]
    exact congrArg (Option.map _) (List.find?_congr fun e _ => hp e)
  have h : s.roster.crews.find? (fun e => e.2.status != .none && e.2.ctx == ctx && e.2.ix == b.crew &&
      (s.roster.launch e.2.launch).lrec.quire == b.dir && (s.roster.launch e.2.launch).live) =
    (s.crews.find? (fun e => e.2.status != .none && e.2.ctx == ctx && e.2.ix == b.crew &&
      (s.launch e.2.launch).lrec.quire == b.dir && (s.launch e.2.launch).live)).map (fun e => (e.1, e.2.undrafted)) := hfind _ (fun _ => rfl)
  unfold boundTeams
  rw [h]
  cases s.crews.find? (fun e => e.2.status != .none && e.2.ctx == ctx && e.2.ix == b.crew &&
    (s.launch e.2.launch).lrec.quire == b.dir && (s.launch e.2.launch).live) <;> rfl

theorem memberArrived_roster (s : State) (ctx tag quire teams me : Nat) (b : Binding) :
    memberArrived s.roster ctx tag quire teams me b = memberArrived s ctx tag quire teams me b := by
  have hrec (i : Nat) : s.roster.crewRec i = s.crewRec i := by
    unfold State.crewRec
    rw [roster_crew]
    rfl
  have hteam (i : Nat) : s.roster.team i = s.team i := rfl
  have hgone (i : Nat) : partyGone s.roster i = partyGone s i := rfl
  have hchip : s.roster.chipId = s.chipId := rfl
  have harrived (q t : Nat) : remoteArrived s.roster ctx q t = remoteArrived s ctx q t := rfl
  unfold memberArrived
  rw [boundTeams_roster]
  simp only [hrec, hteam, hgone, hchip, harrived]

theorem memberArrived_congr {s t : State} (h : t.roster = s.roster) (ctx tag quire teams me : Nat) :
    memberArrived t ctx tag quire teams me = memberArrived s ctx tag quire teams me := by
  funext b
  rw [← memberArrived_roster t, h, memberArrived_roster]

theorem cset_map_undrafted {m : Cells Crew} {k : Nat} {v : Crew} (hold : cget {} m k ≠ {}) (hv : v ≠ {}) (hsame : v.undrafted = (cget {} m k).undrafted) :
    (cset {} m k v).map (fun e => (e.1, e.2.undrafted)) = m.map (fun e => (e.1, e.2.undrafted)) := by
  induction m with
  | nil => exact absurd rfl hold
  | cons e r ih =>
    obtain ⟨a, w⟩ := e
    simp only [cget] at hold hsame
    simp only [cset]
    by_cases hka : k < a
    · rw [if_neg (by omega), if_pos hka] at hold
      exact absurd rfl hold
    · rw [if_neg hka]
      by_cases heq : k = a
      · subst heq
        rw [if_pos rfl] at hsame
        rw [if_pos rfl, if_neg hv, List.map_cons, List.map_cons, hsame]
      · have hne : ¬a = k := fun e => heq e.symm
        rw [if_neg hne, if_neg hka] at hold hsame
        rw [if_neg heq, List.map_cons, List.map_cons, ih hold hsame]

theorem release_roster {s : State} {ti : Nat} (h : (s.team ti).flight = []) (scope : Nat) : (s.release ti scope).roster = s.roster := by
  have hrel : (releaseAt s (s.team ti).crew scope).roster = s.roster := (congrArg State.roster (releaseAt_uncached s (s.team ti).crew scope) :)
  unfold State.release
  dsimp only
  rw [closeLate_nil h]
  split
  · next hd =>
    refine .trans ?_ hrel
    simp only [Bool.and_eq_true] at hd
    obtain ⟨⟨hdraft, -⟩, -⟩ := hd
    have hne (c : Crew) (hc : c.drafting = true) : c ≠ {} := by
      rintro rfl
      cases hc
    exact congrArg (fun m => ({ teams := _, crews := m, launches := _, ctxs := _, chipId := _ } : State))
      (cset_map_undrafted (hne _ hdraft) (hne _ hdraft) rfl)
  · exact hrel

theorem sends_roster (m : Nat → FabMsg) (ks : List Nat) (s : State) : (ks.foldl (fun s k => s.send (m k)) s).roster = s.roster :=
  foldl_keeps (fun s k => s.send (m k)) State.roster (fun s k => by
    unfold State.send
    dsimp only
    split <;> rfl) ks s

/-- What BAR.QUIRE has found, of a crew and its quire's bindings. -/
theorem barQuire_runs {s s1 : State} {a : Opnd} {bs : List (Option Binding)} (h : ready s = true) (ha : okS a = true) (hv : (sVal s.me a).toNat < 65536)
    (hbind : hubBindings s.settled (s.crew s.me.crew).ctx (s.crewRec s.me.crew).quire = (s1, bs)) :
    ((s.crew s.me.crew).role = 0xFFFFFFFF → Traps (.barQuire (.v 0) a (.v 0)) s 0x14 3 0) ∧
    ((s.crew s.me.crew).role ≠ 0xFFFFFFFF → (∃ b ∈ bs.filterMap id, s1.reach b.chip = false) → Traps (.barQuire (.v 0) a (.v 0)) s 0x14 4 0) ∧
    ((s.crew s.me.crew).role ≠ 0xFFFFFFFF → (∀ b ∈ bs.filterMap id, s1.reach b.chip = true) →
      ∃ t, exec (.barQuire (.v 0) a (.v 0)) s = .next t ∧
        if (bs.filterMap id).all (memberArrived s1 (s.crew s.me.crew).ctx (sVal s.me a).toNat (s.crewRec s.me.crew).quire
          (s1.crewRec s.me.crew).teams s.cur) = true then t.me.pc = nextPc s.me.pc 1 ∧ t.me.status = .run
        else t.me.pc = s.me.pc ∧ t.me.status = .barQuire (sVal s.me a).toNat) := by
  obtain ⟨u, hu, hok, hstop⟩ := uniform_run h (fields := [fld (.v 0) okZero, fld a okS, fld (.v 0) okZero]) (by simp [fld, ha, okZero])
    (show exec (.barQuire (.v 0) a (.v 0)) s = execBarQuire (.v 0) a (.v 0) s from rfl) rfl
  have hbind' : hubBindings u.s (s.crew s.me.crew).ctx (s.crewRec s.me.crew).quire = (s1, bs) := hu.state ▸ hbind
  have hsmall : ¬(sVal s.me a).toNat / 65536 ≠ 0 := by rw [Nat.div_eq_of_lt hv]; exact fun h => h rfl
  have hl : s1.lasting = s.lasting := by
    have hb := hubBindings_lasting s.settled (s.crew s.me.crew).ctx (s.crewRec s.me.crew).quire
    rw [hbind] at hb
    exact hb.trans (settled_lasting s)
  refine ⟨fun hrole => hstop _ ?_, fun hrole hlost => hstop _ ?_, fun hrole hup => ?_⟩
  · simp only [hu.rd h ha, if_neg hsmall, if_pos hrole]
    rfl
  · have hany : (bs.filterMap id).any (fun b => !s1.reach b.chip) = true := by
      obtain ⟨b, hb, hr⟩ := hlost
      exact List.any_eq_true.2 ⟨b, hb, by rw [hr]; rfl⟩
    simp only [hu.rd h ha, if_neg hsmall, if_neg hrole, hbind', hany, if_true]
    rfl
  · have hnone : (bs.filterMap id).any (fun b => !s1.reach b.chip) = false := by
      rw [List.any_eq_false]
      intro b hb
      rw [hup b hb]
      exact Bool.false_ne_true
    let v := (sVal s.me a).toNat
    let c := s.crew s.me.crew
    let q := (s.crewRec s.me.crew).quire
    let s2 := UCtx.arriving { u with s := s1 } (.barQuire v) 5
    let chips := (((bs.filterMap id).map (·.chip)).filter (· != s2.chipId)).foldl insertNew []
    let s3 := if s.me.status == .barQuire v then s2 else chips.foldl (fun s' k => s'.send (.bar k c.ctx q v c.ix s.me.id)) s2
    let s4 := s3.updCtx c.ctx (fun x => { x with quireBars := x.quireBars.filter (fun e => !(e.1 == q && e.2.1 == v)) })
    obtain ⟨-, hl2⟩ := arriving_keeps hu h hl (.barQuire v) 5
    have hr2 : s2.roster = s1.roster := by
      have hf : (s1.team u.ti).flight = [] := by
        rw [hu.ti]
        exact (congrArg Team.flight (team_of_lasting hl s.cur) :).trans (ready_flight h)
      dsimp only [s2, UCtx.arriving]
      split
      · rfl
      · exact release_roster hf 5
    have hl3 : s3.lasting = s.lasting := by
      dsimp only [s3]
      split
      · exact hl2
      · exact (foldl_keeps _ State.lasting (fun s' k => send_lasting s' _) _ _).trans hl2
    have hr3 : s3.roster = s1.roster := by
      dsimp only [s3]
      split
      · exact hr2
      · exact (sends_roster _ _ _).trans hr2
    have hrec : s3.crewRec s.me.crew = s1.crewRec s.me.crew := by
      have hcrew (x : State) : x.roster.crewRec s.me.crew = x.crewRec s.me.crew := by
        unfold State.crewRec
        rw [roster_crew]
        rfl
      rw [← hcrew s3, hr3, hcrew]
    have hall : (bs.filterMap id).all (memberArrived s3 c.ctx v q (s3.crewRec s.me.crew).teams s.cur) =
        (bs.filterMap id).all (memberArrived s1 c.ctx v q (s1.crewRec s.me.crew).teams s.cur) := by rw [hrec, memberArrived_congr hr3]
    cases hthere : (bs.filterMap id).all (memberArrived s1 c.ctx v q (s1.crewRec s.me.crew).teams s.cur) with
    | true =>
      obtain ⟨hpc, hrun, -⟩ := hu.departAll_goes (s1 := s4) (st := .barQuire v) (scope := 5) (ps := quireWaiters s4 c.ctx q v) hl3
      refine ⟨_, hok (departAll { u with s := s4 } (.barQuire v) 5 (quireWaiters s4 c.ctx q v)) ?_, ?_⟩
      · simp only [hu.rd h ha, if_neg hsmall, if_neg hrole, hbind', hnone, Bool.false_eq_true, if_false]
        refine (if_pos (hall.trans hthere)).trans rfl
      · rw [if_pos rfl]
        exact ⟨hpc, hrun⟩
    | false =>
      obtain ⟨t, hpart, hst, hpc⟩ := hu.part_waits hl3 (.barQuire v)
      refine ⟨t, hstop (.become t) ?_, ?_⟩
      · simp only [hu.rd h ha, if_neg hsmall, if_neg hrole, hbind', hnone, Bool.false_eq_true, if_false]
        refine (if_neg (Bool.eq_false_iff.1 (hall.trans hthere))).trans ?_
        exact congrArg Except.error hpart
      · rw [if_neg Bool.false_ne_true]
        exact ⟨hpc, hst⟩

/-! ### Arrivals of other chips -/

theorem putArrived_remote (s : State) (ctx quire tag : Nat) (l : List (Nat × Nat × Nat)) : remoteArrived (putArrived s ctx quire tag l) ctx quire tag = l := by
  have hnone : (((s.ctx ctx).quireBars.filter (fun e => !(e.1 == quire && e.2.1 == tag))).find? (fun e => e.1 == quire && e.2.1 == tag)) = none := by
    rw [List.find?_eq_none]
    intro e he htrue
    have hkept := (List.mem_filter.1 he).2
    rw [htrue] at hkept
    cases hkept
  unfold remoteArrived putArrived
  rw [updCtx_ctx]
  dsimp only
  rw [List.find?_append, hnone]
  cases l with
  | nil => rfl
  | cons x r => simp

theorem barQuireArrivalMsg_runs {s : State} (ctx quire tag chip crew team : Nat) (hup : fabricUp s = true) :
    ∃ t, exec (.barQuireArrivalMsg ctx quire tag chip crew team) s = .next t ∧ t.teams = s.teams ∧
      (tag ≠ tagRuns → (remoteArrived t ctx quire tag).contains (chip, crew, team) = true) ∧
      (tag = tagRuns → (remoteArrived t ctx quire tagEnded).contains (chip, crew, team) = false) := by
  by_cases htag : tag = tagRuns
  · refine ⟨putArrived s ctx quire tagEnded ((remoteArrived s ctx quire tagEnded).filter (· != (chip, crew, team))), ?_, rfl, fun h => absurd htag h,
      fun _ => ?_⟩
    · show Host.Outcome.next _ = _
      simp only [hup, Bool.not_true, Bool.false_eq_true, if_false, if_pos htag]
    · rw [putArrived_remote, Bool.eq_false_iff, ne_eq, List.contains_iff_mem]
      intro hm
      simpa using (List.mem_filter.1 hm).2
  · cases hnow : (remoteArrived s ctx quire tag).contains (chip, crew, team) with
    | true =>
      refine ⟨s, ?_, rfl, fun _ => hnow, fun h => absurd h htag⟩
      show Host.Outcome.next _ = _
      simp only [hup, Bool.not_true, Bool.false_eq_true, if_false, if_neg htag, hnow, if_true]
    | false =>
      refine ⟨putArrived s ctx quire tag (remoteArrived s ctx quire tag ++ [(chip, crew, team)]), ?_, rfl, fun _ => ?_, fun h => absurd h htag⟩
      · show Host.Outcome.next _ = _
        simp only [hup, Bool.not_true, Bool.false_eq_true, if_false, if_neg htag, hnow]
      · rw [putArrived_remote, List.contains_iff_mem]
        exact List.mem_append_right _ (List.mem_singleton_self _)

/-- Settles O30. -/
theorem barriersWaitForEveryParty : Obligations.BarriersWaitForEveryParty := by
  unfold Obligations.BarriersWaitForEveryParty
  intro s imm h
  refine ⟨fun himm ps hps hnd => ?crews, fun himm hfolio ps hps hnd => ?folios, fun a s1 bs ha hv hbind => barQuire_runs h ha hv hbind,
    fun ctx quire tag chip crew team hup => barQuireArrivalMsg_runs ctx quire tag chip crew team hup⟩
  case crews =>
    obtain ⟨hgo, hwait⟩ := barCrew_runs h himm hps
    exact ⟨hgo hnd, fun p hp hne hst hg => hwait ⟨p, hp, hne, hst, hg⟩⟩
  case folios =>
    obtain ⟨hgo, hwait⟩ := barFolio_runs h himm hfolio hps
    exact ⟨hgo hnd, hwait⟩

end Sys2Proof.Machine
end

section
/-! SUPPORT. The effects of the matrix queue's commands (19 R379, R380, R384): O34. -/

namespace Sys2Proof.Machine

/-! ### Cells written one after another -/

/-- A key that none of the writes names keeps its value. -/
theorem cget_writes_other {α : Type} [DecidableEq α] (d : α) (key : Nat → Nat) (g : Nat → α) {k : Nat} {ls : List Nat} (h : ∀ e ∈ ls, key e ≠ k)
    (m : Cells α) : cget d (ls.foldl (fun m e => cset d m (key e) (g e)) m) k = cget d m k := by
  induction ls generalizing m with
  | nil => rfl
  | cons e r ih =>
    rw [List.foldl_cons, ih (fun x hx => h x (List.mem_cons_of_mem _ hx)), cget_cset_ne]
    exact fun heq => h e List.mem_cons_self heq.symm

/-- A key that exactly one of the writes names holds what that one wrote. -/
theorem cget_writes_one {α : Type} [DecidableEq α] (d : α) (key : Nat → Nat) (g : Nat → α) {k x : Nat} {ls : List Nat} (hx : x ∈ ls)
    (hkey : key x = k) (honly : ∀ e ∈ ls, key e = k → e = x) (m : Cells α) :
    cget d (ls.foldl (fun m e => cset d m (key e) (g e)) m) k = g x := by
  induction ls generalizing m with
  | nil => cases hx
  | cons e r ih =>
    rw [List.foldl_cons]
    by_cases hr : x ∈ r
    · exact ih hr (fun y hy => honly y (List.mem_cons_of_mem _ hy)) _
    · have he : e = x := ((List.mem_cons.1 hx).resolve_right hr).symm
      have hrest : ∀ y ∈ r, key y ≠ k := fun y hy hk => hr (honly y (List.mem_cons_of_mem _ hy) hk ▸ hy)
      rw [cget_writes_other d key g hrest, he, hkey, cget_cset_self]

/-- The accumulator's cells after a block of m rows and n columns from row `base` was written row by row. -/
theorem cget_block {m n j : Nat} (hn : n ≤ 64) (hj : j < 64) (base i : Nat) (g : Nat → W64) (acc : Cells W64) :
    cget 0 ((List.range (m * n)).foldl (fun acc e => cset 0 acc ((base + e / n) * 64 + e % n) (g e)) acc) ((base + i) * 64 + j) =
      if i < m ∧ j < n then g (i * n + j) else cget 0 acc ((base + i) * 64 + j) := by
  have hat : ∀ e ∈ List.range (m * n), (base + e / n) * 64 + e % n = (base + i) * 64 + j → i = e / n ∧ j = e % n ∧ 0 < n := by
    intro e he heq
    have hpos : 0 < n := Nat.pos_of_ne_zero (fun h0 => by simp [h0] at he)
    have hmod : e % n < n := Nat.mod_lt _ hpos
    omega
  by_cases hin : i < m ∧ j < n
  · obtain ⟨hi, hjn⟩ := hin
    rw [if_pos ⟨hi, hjn⟩]
    have hpos : 0 < n := by omega
    have hdiv : (i * n + j) / n = i := by rw [Nat.mul_comm, Nat.mul_add_div hpos, Nat.div_eq_of_lt hjn, Nat.add_zero]
    have hmod : (i * n + j) % n = j := by rw [Nat.mul_comm, Nat.mul_add_mod, Nat.mod_eq_of_lt hjn]
    refine cget_writes_one 0 (fun e => (base + e / n) * 64 + e % n) g (List.mem_range.2 ?_) (by rw [hdiv, hmod]) (fun e he heq => ?_) acc
    · calc i * n + j < (i + 1) * n := by rw [Nat.succ_mul]; omega
        _ ≤ m * n := Nat.mul_le_mul_right n hi
    · obtain ⟨hie, hje, -⟩ := hat e he heq
      rw [hie, hje, Nat.mul_comm]
      exact (Nat.div_add_mod e n).symm
  · rw [if_neg hin]
    refine cget_writes_other 0 (fun e => (base + e / n) * 64 + e % n) g (fun e he heq => hin ?_) acc
    obtain ⟨hie, hje, hpos⟩ := hat e he heq
    exact ⟨hie ▸ Nat.div_lt_of_lt_mul (Nat.mul_comm m n ▸ List.mem_range.1 he), hje ▸ Nat.mod_lt _ hpos⟩

/-- The cells of an image that holds `img` from offset `a`, its zeroes left out. -/
theorem cget_image (img : List Byte) (a o : Nat) :
    cget 0 ((List.zip (List.range' a img.length) img).filter (fun e => e.2 != 0)) o = if o < a then 0 else img.getD (o - a) 0 := by
  induction img generalizing a with
  | nil => simp [cget]
  | cons b r ih =>
    rw [List.length_cons, List.range'_succ, List.zip_cons_cons, List.filter_cons]
    have hrest := ih (a + 1)
    rcases Nat.lt_trichotomy o a with hlt | rfl | hgt
    · rw [if_pos hlt]
      rw [if_pos (Nat.lt_succ_of_lt hlt)] at hrest
      split
      · simp only [cget, if_neg (Nat.ne_of_gt hlt), if_pos hlt]
      · exact hrest
    · rw [if_neg (Nat.lt_irrefl o), Nat.sub_self, List.getD_cons_zero]
      rw [if_pos (Nat.lt_succ_self o)] at hrest
      split
      · simp only [cget, if_pos]
      · next hb =>
        have hzero : b = 0 := by simpa using hb
        rw [hrest, hzero]
    · rw [if_neg (Nat.not_lt_of_gt hgt), show o - a = (o - (a + 1)) + 1 by omega, List.getD_cons_succ]
      rw [if_neg (show ¬ o < a + 1 by omega)] at hrest
      split
      · simp only [cget, if_neg (Nat.ne_of_lt hgt), if_neg (Nat.not_lt_of_gt hgt), hrest]
      · exact hrest

/-! ### The head of a crew's queue -/

/-- The state in which the head m of crew ci's queue has been taken up by the engine. -/
def mmaTaken (s : State) (ci : Nat) : State := mmaHead s ci (fun m => { m with started := true })

theorem mmaTaken_crew {s : State} {ci : Nat} {m : MmaCmd} {rest : List MmaCmd} (hq : (s.crew ci).mmq = m :: rest) :
    (mmaTaken s ci).crew ci = { s.crew ci with mmq := { m with started := true } :: rest } := by
  unfold mmaTaken mmaHead State.updCrew
  rw [setCrew_crew]
  dsimp only
  rw [hq]

theorem byteAt_mmaTaken (s : State) (ci : Nat) (q : Place) : byteAt (mmaTaken s ci) q = byteAt s q := byteAt_updCrew s ci rfl q

section
variable {s : State} {ci : Nat} {m : MmaCmd} {rest : List MmaCmd} {c : Crew} (hc : c = s.crew ci) (hq : c.mmq = m :: rest)
  (hres : c.resident = true) (hctx : ctxRuns s c.ctx = true) (hwait : m.wait = none) (hbusy : mmaBusy s c.core ci = false)
include hc hq hres hctx hwait

/-- A head that may start, and that acts at once, does so. -/
theorem matrixCommandStart_runs (hread : m.op ≠ .reading) (hnew : m.started = false)
    (hfree : ∀ r, mmaRegion m.op = some r → drainHolds s c r = false) (hfirst : mmaEarlier s c.core ci m.id = false)
    (hties : mmaTies s c m = false) (hbusy : mmaBusy s c.core ci = false) (hst : ∀ va w f64, m.op ≠ .accSt va w f64) :
    exec (.matrixCommandStart ci) s = .next (mmaAct (mmaTaken s ci) ci m rest) := by
  have hready : mmaReady s c = some m := by
    unfold mmaReady
    rw [hq]
    dsimp only
    refine if_neg ?_
    have hop : (m.op == MmaOp.reading) = false := beq_eq_false_iff_ne.2 hread
    rw [hres, hctx, hwait, hnew, hop]
    cases hr : mmaRegion m.op with
    | none => exact Bool.false_ne_true
    | some r => simp [hfree r hr]
  show Host.Outcome.next _ = _
  rw [← hc, hq]
  dsimp only
  rw [if_neg (by simp [hres, hctx, hwait, hbusy, hnew, hready, hfirst, hties])]
  cases hop : m.op with
  | accSt va w f64 => exact absurd hop (hst va w f64)
  | _ => exact congrArg Host.Outcome.next (if_neg (by simp [hnew]))

/-- A head that has taken effect leaves its queue. -/
theorem matrixCommandComplete_runs (hstarted : m.started = true) (hst : ∀ va w f64, m.op ≠ .accSt va w f64) :
    exec (.matrixCommandComplete ci) s = .next (mmaRetire s ci m) := by
  show Host.Outcome.next _ = _
  rw [← hc, hq]
  dsimp only
  rw [if_neg (by simp [hres, hctx, hwait, hstarted])]
  cases hop : m.op with
  | accSt va w f64 => exact absurd hop (hst va w f64)
  | _ => rfl

end

theorem mmaRetire_crew {s : State} {ci : Nat} {m : MmaCmd} {rest : List MmaCmd} (hq : (s.crew ci).mmq = m :: rest) :
    ((mmaRetire s ci m).crew ci).mmq = rest := by
  show (cget _ (cset _ _ _ _) _ : Crew).mmq = rest
  rw [cget_cset_self]
  exact congrArg (List.drop 1) hq

theorem byteAt_mmaRetire (s : State) (ci : Nat) (m : MmaCmd) (q : Place) : byteAt (mmaRetire s ci m) q = byteAt s q :=
  (byteAt_updTeam _ _ _ q).trans (byteAt_updCrew s ci rfl q)

/-! ### What a command's effect leaves -/

theorem byteAt_mmaAct (s : State) (ci : Nat) (m : MmaCmd) (rest : List MmaCmd) (q : Place) : byteAt (mmaAct s ci m rest) q = byteAt s q := by
  unfold mmaAct
  split
  case h_5 => split
              · rfl
              · exact byteAt_updTeam _ _ _ q
  case h_7 => rfl
  case h_8 => rfl
  all_goals exact byteAt_updCrew s ci rfl q

theorem mmaAct_mmq (s : State) (ci : Nat) (m : MmaCmd) (rest : List MmaCmd) : ((mmaAct s ci m rest).crew ci).mmq = (s.crew ci).mmq := by
  unfold mmaAct
  split
  case h_5 => split <;> rfl
  case h_7 => rfl
  case h_8 => rfl
  all_goals exact (congrArg Crew.mmq (setCrew_crew _ _ _) :)

/-- The product's cells: one rounding for each chunk, of what the accumulator held or of 0. -/
theorem mmaEffect_acc (z : Bool) (base ta tb M N K tyA b8A tyB b8B : Nat) (f64 : Bool) (fl : Nat) (c : Crew) (hn : N ≤ 64) (i j : Nat) (hj : j < 64) :
    cget 0 (mmaEffect z base ta tb M N K tyA b8A tyB b8B f64 fl c).acc ((base + i) * 64 + j) =
      if i < M ∧ j < N then
        w64 (mmaElem f64 fl ((List.range ((K + chunkOf tyA - 1) / chunkOf tyA)).map
          (fun k => chunkValue (c.tile ta) (c.tile tb) M N K tyA b8A tyB b8B fl i j (k * chunkOf tyA)))
          (if z then 0 else (cget 0 c.acc ((base + i) * 64 + j)).toNat))
      else cget 0 c.acc ((base + i) * 64 + j) := by
  refine (cget_block hn hj base i _ c.acc).trans ?_
  by_cases hin : i < M ∧ j < N
  · have hjn : j < N := hin.2
    have hpos : 0 < N := by omega
    have hdiv : (i * N + j) / N = i := by rw [Nat.mul_comm, Nat.mul_add_div hpos, Nat.div_eq_of_lt hjn, Nat.add_zero]
    have hmod : (i * N + j) % N = j := by rw [Nat.mul_comm, Nat.mul_add_mod, Nat.mod_eq_of_lt hjn]
    rw [if_pos hin, if_pos hin, hdiv, hmod, List.map_map]
    rfl
  · rw [if_neg hin, if_neg hin]

/-- What the head's effect leaves of its crew, for a command that acts on it by f. -/
theorem mmaAct_crew {s : State} {ci : Nat} {m : MmaCmd} {rest : List MmaCmd} (hq : (s.crew ci).mmq = m :: rest) (f : Crew → Crew)
    (hact : mmaAct (mmaTaken s ci) ci m rest = (mmaTaken s ci).updCrew ci f) :
    (mmaAct (mmaTaken s ci) ci m rest).crew ci = f { s.crew ci with mmq := { m with started := true } :: rest } := by
  rw [hact, State.updCrew, setCrew_crew, mmaTaken_crew hq]

/-- Settles O34: the head of a crew's queue takes its effect, command by command, and leaves the queue once it has. -/
theorem matrixCommandsTakeEffectInOrder : Obligations.MatrixCommandsTakeEffectInOrder := by
  unfold Obligations.MatrixCommandsTakeEffectInOrder
  intro s ci m rest c hc hq hres hctx hwait hbusy hread
  have hq' : (s.crew ci).mmq = m :: rest := hc ▸ hq
  refine ⟨fun hnew hfree hfirst hties hst => ?_, fun hstarted hst => ?_⟩
  · refine ⟨_, matrixCommandStart_runs hc hq hres hctx hwait hread hnew hfree hfirst hties hbusy hst,
      fun q => (byteAt_mmaAct _ ci m rest q).trans (byteAt_mmaTaken s ci q), fun c' hc' => ⟨?queue, ?tcfg, ?setTile, ?mma, ?accCfg, ?drain, ?accLd⟩⟩
    case queue => rw [hc', mmaAct_mmq, mmaTaken_crew hq']
    case tcfg =>
      intro k hop
      rw [hc', mmaAct_crew hq' _ (by rw [mmaAct, hop]), hc, Crew.tile, Crew.setTile, cget_cset_self]
      rfl
    case setTile =>
      intro k img bad hop
      rw [hc', mmaAct_crew hq' _ (by rw [mmaAct, hop]), Crew.tile, Crew.setTile, cget_cset_self]
      refine ⟨rfl, fun o => ?_⟩
      have himg := cget_image img 0 o
      rwa [← List.range_eq_range', if_neg (Nat.not_lt_zero o), Nat.sub_zero] at himg
    case mma =>
      intro z base ta tb M N K tyA b8A tyB b8B f64 fl hop hn i j hj
      rw [hc', mmaAct_crew hq' _ (by rw [mmaAct, hop]), hc]
      exact mmaEffect_acc z base ta tb M N K tyA b8A tyB b8B f64 fl _ hn i j hj
    case accCfg =>
      intro f64 hop k
      rw [hc', mmaAct_crew hq' _ (by rw [mmaAct, hop])]
      rfl
    case drain =>
      intro ti d hop hlast
      have hact : mmaAct (mmaTaken s ci) ci m rest = (mmaTaken s ci).updTeam ti (fun t => { t with drain := some { d with armed := true } }) := by
        rw [mmaAct, hop]
        refine if_neg (Bool.eq_false_iff.1 (List.any_eq_false.2 fun x hx => ?_))
        cases hxo : x.op with
        | drain tj e => exact fun heq => hlast x hx e (eq_of_beq heq ▸ hxo)
        | _ => exact Bool.false_ne_true
      rw [hact, updTeam_team]
    case accLd =>
      intro f64 first rows cols vals bad hop hcols i j hj
      rw [hc', mmaAct_crew hq' _ (by rw [mmaAct, hop]), hc]
      exact cget_block hcols hj first i (fun k => vals.getD k 0) _
  · exact ⟨_, matrixCommandComplete_runs hc hq hres hctx hwait hstarted hst, mmaRetire_crew hq', byteAt_mmaRetire s ci m, opRetire_ops⟩

end Sys2Proof.Machine
end

section
/-! SUPPORT. ACC.ST's writing of its object, in versions (19 R382, 09 R186, R187): O35. -/

namespace Sys2Proof.Machine

/-- No access of memory reaches a crew's matrix queue. -/
theorem mmq_aloof (ci : Nat) : Aloof (fun s => (s.crew ci).mmq) where
  memory _ _ _ _ _ _ _ _ _ _ _ _ := rfl
  scratch s i _ _ := by
    by_cases h : ci = i
    · rw [h, setCrew_crew]
    · rw [setCrew_crew_ne _ _ _ _ h]
  wakes _ _ := rfl
  pages _ _ _ := rfl
  notes _ _ _ _ := rfl
  hosts _ _ _ := rfl

/-! ### Parts written, and what every agent sees -/

/-- Lines stored to leave every view of the machine that memory does not reach. -/
theorem Aloof.storeLines {α : Type} {V : State → α} (hV : Aloof V) (core hint : Nat) (qs : List Place) (s : State) :
    V (qs.foldl (fun s q => storeLine s core q hint) s) = V s :=
  hV.of_uncached (foldl_keeps (fun s q => storeLine s core q hint) State.uncached (fun s q => storeLine_uncached s core q hint) qs s)

theorem Aloof.stWrite {α : Type} {V : State → α} (hV : Aloof V) (a : Agent) (c : Crew) (va w : Nat) (f64 : Bool) (ver : Nat) (ks : List Nat)
    (s : State) : V (stWrite a c va w f64 ver s ks).1 = V s := by
  induction ks generalizing s with
  | nil => rfl
  | cons k r ih =>
    unfold Machine.stWrite
    dsimp only
    have hp := hV.placesOf a .engW (piecesOf (stPart c va w f64 ver k).1 (stPart c va w f64 ver k).2.1.length) s
    split
    · next s1 e he => rw [he] at hp; exact hp
    · next s1 ps he =>
      rw [he] at hp
      exact (ih _).trans ((hV.writePieces _ _ _ _ _ _ _).trans ((hV.storeLines _ _ _ _).trans hp))

theorem showVa_keeps {α : Type} (V : State → α) (hV : ∀ s p n, V (s.unhide p n) = V s) (s : State) (a : Agent) (va n : Nat) :
    V (showVa s a va n) = V s := by
  unfold showVa
  split
  · exact foldl_keeps (fun s (x : Nat × Place × Nat) => s.unhide x.2.1 x.2.2) V (fun s x => hV s x.2.1 x.2.2) _ s
  · rfl

theorem byteAt_showVa (s : State) (a : Agent) (va n : Nat) (q : Place) : byteAt (showVa s a va n) q = byteAt s q :=
  byteAt_of_stored (showVa_keeps State.stored unhide_stored s a va n) q

theorem showVa_mmq (s : State) (a : Agent) (va n ci : Nat) : ((showVa s a va n).crew ci).mmq = (s.crew ci).mmq :=
  showVa_keeps (fun s => (s.crew ci).mmq) (mmq_aloof ci).unhide s a va n

theorem mmaHead_mmq {s : State} {ci : Nat} {m : MmaCmd} {rest : List MmaCmd} (hq : (s.crew ci).mmq = m :: rest) (f : MmaCmd → MmaCmd) :
    ((mmaHead s ci f).crew ci).mmq = f m :: rest := by
  unfold mmaHead State.updCrew
  rw [setCrew_crew]
  dsimp only
  rw [hq]

theorem byteAt_mmaHead (s : State) (ci : Nat) (f : MmaCmd → MmaCmd) (q : Place) : byteAt (mmaHead s ci f) q = byteAt s q := byteAt_updCrew s ci rfl q

/-! ### The object's store at the head of its queue -/

section
variable {s : State} {ci va w : Nat} {f64 : Bool} {m : MmaCmd} {rest : List MmaCmd} {c : Crew} (hc : c = s.crew ci) (hq : c.mmq = m :: rest)
  (hres : c.resident = true) (hctx : ctxRuns s c.ctx = true) (hwait : m.wait = none) (hop : m.op = .accSt va (w64 w) f64) (hw : w < 2 ^ 48)
include hc hq hres hctx hwait hop hw

theorem accSt_starts (hbusy : mmaBusy s c.core ci = false)
    (hgo : m.started = true ∨ m.started = false ∧ mmaEarlier s c.core ci m.id = false ∧ mmaTies s c m = false) :
    exec (.matrixCommandStart ci) s = .next (stStep s ci m va w f64) := by
  have hctl : (w64 w).toNat = w := by
    rw [w64, BitVec.toNat_ofNat, Nat.mod_eq_of_lt (by omega)]
  show Host.Outcome.next _ = _
  rw [← hc, hq]
  dsimp only
  rw [if_neg, hop]
  · dsimp only
    rw [hctl]
  obtain hst | ⟨hnew, hfirst, hties⟩ := hgo
  · simp [hres, hctx, hwait, hbusy, hst]
  · have hready : mmaReady s c = some m := by
      unfold mmaReady
      rw [hq]
      dsimp only
      refine if_neg ?_
      rw [hres, hctx, hwait, hnew, hop]
      exact Bool.false_ne_true
    simp [hres, hctx, hwait, hbusy, hnew, hready, hfirst, hties]

theorem accSt_completes (hst : m.started = true) (hdone : stParts w ≤ m.done) :
    exec (.matrixCommandComplete ci) s = .next (if stAon w then mmaRetire s ci m else
      let a := engAgent s m.team 4
      (match writeVa (showVa (releaseAt s ci 4) a va (stSize w)) a .engW va (leBytes 4 ((m.ver + 1) % 2 ^ 32)) with
        | (s, .ok ()) => mmaRetire (showVa s a va 4) ci m
        | (s, .error e) => mmaStop s ci m a .engW e)) := by
  have hctl : (w64 w).toNat = w := by
    rw [w64, BitVec.toNat_ofNat, Nat.mod_eq_of_lt (by omega)]
  show Host.Outcome.next _ = _
  rw [← hc, hq]
  dsimp only
  rw [if_neg (by simp [hres, hctx, hwait, hst]), hop]
  dsimp only
  rw [hctl]
  exact congrArg Host.Outcome.next (if_neg (by omega))

end

/-! ### The parts, one event each -/

section
variable {s s1 s2 s3 : State} {ci va w : Nat} {f64 : Bool} {m : MmaCmd} {a : Agent} (ha : a = engAgent s m.team 4)
include ha

theorem stStep_next (hst : m.started = true) (hmore : m.done < stParts w) (hwrite : stWrite a (s.crew ci) va w f64 m.ver s [m.done] = (s2, .ok ())) :
    stStep s ci m va w f64 = mmaHead s2 ci (fun m => { m with done := m.done + 1, again := none }) := by
  unfold stStep
  dsimp only
  rw [if_pos hst, if_neg (Nat.not_le_of_lt hmore), ← ha, hwrite]

theorem stStep_odd {vb : List Byte} {pz : Bool} (hnew : m.started = false) (hread : engRead s a ci va 4 = (s1, .ok (vb, pz)))
    (haon : stAon w = false) (hwrite : stWrite a (s.crew ci) va w f64 (oddVersion (ofLE vb)) s1 [0] = (s2, .ok ())) :
    stStep s ci m va w f64 = mmaHead (showVa s2 a va 4) ci
      (fun m => { m with started := true, done := 1, ver := oddVersion (ofLE vb), again := none }) := by
  unfold stStep
  dsimp only
  rw [if_neg (by rw [hnew]; exact Bool.false_ne_true), ← ha, hread]
  dsimp only
  rw [if_neg (by rw [haon]; exact Bool.false_ne_true), hwrite]

theorem stStep_whole {vb : List Byte} {pz : Bool} {ps : List (Nat × Place × Nat)} (hnew : m.started = false)
    (hread : engRead s a ci va 4 = (s1, .ok (vb, pz))) (haon : stAon w = true)
    (hps : placesOf s1 a .engW (piecesOf va (stSize w)) = (s2, .ok ps))
    (hwrite : stWrite a (s.crew ci) va w f64 ((oddVersion (ofLE vb) + 1) % 2 ^ 32) (releaseAt s2 ci 4) (List.range (stParts w)) = (s3, .ok ())) :
    stStep s ci m va w f64 = mmaHead (showVa s3 a va (stSize w)) ci
      (fun m => { m with started := true, done := stParts w, ver := oddVersion (ofLE vb), again := none }) := by
  unfold stStep
  dsimp only
  rw [if_neg (by rw [hnew]; exact Bool.false_ne_true), ← ha, hread]
  dsimp only
  rw [if_pos haon, hps]
  dsimp only
  rw [hwrite]

end

/-- Settles O35: each start writes the part that is next, with the version read once, and the completion the even version. -/
theorem accumulatorStoresGoInVersions : Obligations.AccumulatorStoresGoInVersions := by
  unfold Obligations.AccumulatorStoresGoInVersions
  intro s ci va w f64 m rest a c hc hq hres hctx hwait hbusy hop hw ha
  have hq' : (s.crew ci).mmq = m :: rest := hc ▸ hq
  have hmmq := mmq_aloof ci
  have hwritten {ver : Nat} {ks : List Nat} {t t' : State} (hwrite : stWrite a c va w f64 ver t ks = (t', .ok ())) :
      (t'.crew ci).mmq = (t.crew ci).mmq := by
    have hk := hmmq.stWrite a c va w f64 ver ks t
    rwa [hwrite] at hk
  refine ⟨fun hnew hfirst hties s1 vb pz ver hread hver => ?first, fun hst hmore s2 hwrite => ?next, fun hst hdone => ⟨?even, ?whole⟩⟩
  case first =>
    obtain rfl : ver = oddVersion (ofLE vb) := hver
    have hq1 : (s1.crew ci).mmq = m :: rest := by
      have hk := hmmq.engRead s a ci va 4 0
      rw [hread] at hk
      exact hk.trans hq'
    have hstart := accSt_starts hc hq hres hctx hwait hop hw hbusy (.inr ⟨hnew, hfirst, hties⟩)
    refine ⟨fun haon s2 hwrite => ?_, fun haon s2 ps s3 hps hwrite => ?_⟩
    · refine ⟨_, hstart.trans (congrArg _ (stStep_odd ha hnew hread haon (hc ▸ hwrite))),
        fun q => (byteAt_mmaHead _ ci _ q).trans (byteAt_showVa s2 a va 4 q), ?_⟩
      rw [mmaHead_mmq ((showVa_mmq s2 a va 4 ci).trans ((hwritten hwrite).trans hq1))]
    · have hq2 : (s2.crew ci).mmq = m :: rest := by
        have hk := hmmq.placesOf a .engW (piecesOf va (64 + stRows w * stCols w * tySize (stTy w))) s1
        rw [hps] at hk
        exact hk.trans hq1
      have hq3 := ((hwritten hwrite).trans (hmmq.of_uncached (releaseAt_uncached s2 ci 4))).trans hq2
      refine ⟨_, hstart.trans (congrArg _ (stStep_whole ha hnew hread haon hps (hc ▸ hwrite))),
        fun q => (byteAt_mmaHead _ ci _ q).trans (byteAt_showVa s3 a va (stSize w) q), ?_⟩
      rw [mmaHead_mmq ((showVa_mmq s3 a va (stSize w) ci).trans hq3)]
  case next =>
    refine ⟨_, (accSt_starts hc hq hres hctx hwait hop hw hbusy (.inl hst)).trans (congrArg _ (stStep_next ha hst hmore (hc ▸ hwrite))),
      byteAt_mmaHead s2 ci _, mmaHead_mmq ((hwritten hwrite).trans hq') _⟩
  case even =>
    intro haon s2 hwrite
    have hrun := accSt_completes hc hq hres hctx hwait hop hw hst hdone
    rw [if_neg (by rw [haon]; exact Bool.false_ne_true), ← ha] at hrun
    dsimp only at hrun
    rw [hwrite] at hrun
    have hq2 : (s2.crew ci).mmq = m :: rest := by
      have hk := hmmq.writeVa (showVa (releaseAt s ci 4) a va (stSize w)) a .engW va (leBytes 4 ((m.ver + 1) % 2 ^ 32)) false 0
      rw [hwrite] at hk
      exact hk.trans ((showVa_mmq _ a va (stSize w) ci).trans ((hmmq.of_uncached (releaseAt_uncached s ci 4)).trans hq'))
    exact ⟨_, hrun, fun q => (byteAt_mmaRetire _ ci m q).trans (byteAt_showVa s2 a va 4 q), mmaRetire_crew ((showVa_mmq s2 a va 4 ci).trans hq2)⟩
  case whole =>
    intro haon
    have hrun := accSt_completes hc hq hres hctx hwait hop hw hst hdone
    rw [if_pos haon] at hrun
    exact ⟨_, hrun, byteAt_mmaRetire s ci m, mmaRetire_crew hq'⟩

end Sys2Proof.Machine
end

section
/-! SUPPORT. The parts of a transfer and the elements of a gather (19 R386, R389, 09 R182): O38. -/

namespace Sys2Proof.Machine

/-! ### The head of a channel -/

theorem byteAt_updCore (s : State) (i : Nat) (f : Core → Core) (q : Place) : byteAt (s.updCore i f) q = byteAt s q := by cases q <;> rfl

theorem updCore_core (s : State) (i : Nat) (f : Core → Core) : (s.updCore i f).core i = f (s.core i) := setCore_core s i _

theorem updChan_chan (s : State) (core k : Nat) (f : Chan → Chan) : (s.updChan core k f).chan core k = f (s.chan core k) := by
  unfold State.updChan State.chan
  rw [updCore_core]
  exact cget_cset_self _ _ _ _

theorem byteAt_updChan (s : State) (core k : Nat) (f : Chan → Chan) (q : Place) : byteAt (s.updChan core k f) q = byteAt s q := byteAt_updCore s core _ q

theorem cpyHead_chan {s : State} {core k : Nat} {x : CpyXfer} {rest : List CpyXfer} (hq : (s.chan core k).q = x :: rest) (f : CpyXfer → CpyXfer) :
    (cpyHead s core k f).chan core k = { s.chan core k with q := f x :: rest } := by
  unfold cpyHead
  rw [updChan_chan, hq]

theorem cpyRetire_chan {s : State} {core k : Nat} {x : CpyXfer} {rest : List CpyXfer} (hq : (s.chan core k).q = x :: rest) :
    ((cpyRetire s core k x).chan core k).q = rest := by
  show ((s.updChan core k (fun c => { c with q := c.q.drop 1 })).chan core k).q = rest
  rw [updChan_chan, hq]
  rfl

section
variable {s : State} {core k : Nat} {x : CpyXfer} {rest : List CpyXfer} (hq : (s.chan core k).q = x :: rest) (hlive : cpyLive s x = true)
include hq hlive

theorem cpyTransferStart_starts (hnew : x.started = false) :
    exec (.cpyTransferStart core k) s = .next (let t := cpyHead s core k (fun x => { x with started := true })
      if x.reset then t.updChan core k (fun c => { c with wp := 0 }) else t) := by
  show Host.Outcome.next _ = _
  rw [hq]
  dsimp only
  rw [if_neg (by simp [hlive]), if_pos (by simp [hnew])]

theorem cpyTransferStart_moves (hst : x.started = true) (hmore : x.done < x.bytes) {t : State} (hunit : cpyUnit s core k x = .on t) :
    exec (.cpyTransferStart core k) s = .next t := by
  show Host.Outcome.next _ = _
  rw [hq]
  dsimp only
  rw [if_neg (by simp [hlive]), if_neg (by simp [hst]), if_neg (Nat.not_le_of_lt hmore), hunit]

theorem cpyTransferComplete_retires (hst : x.started = true) (hdone : x.done = x.bytes) (hring : x.ring = none) :
    exec (.cpyTransferComplete core k) s = .next (cpyRetire s core k x) := by
  have hrest : cpyRest core k (2 * x.bytes + 2) s = s := by
    unfold cpyRest
    rw [hq]
    exact if_pos (Nat.le_of_eq hdone.symm)
  show Host.Outcome.next (cpyFinish core k s) = _
  unfold cpyFinish
  rw [hq]
  dsimp only
  rw [if_neg (by simp [hlive, hst]), hrest, hq]
  dsimp only
  rw [if_pos ⟨rfl, Nat.le_of_eq hdone.symm⟩, hring]

end

/-- A part of a transfer between two places of memory that do not overlap. -/
theorem cpyUnit_runs {s s1 s2 : State} {core k src dst n : Nat} {x : CpyXfer} {bs : List Byte} {bad : Bool} (hring : x.ring = none)
    (hover : x.overlaps = false) (hsrc : src = wrapN 64 (x.src + x.done : Nat)) (hdst : dst = wrapN 64 (x.dst + x.done : Nat))
    (hn : n = (if src % 8 = 0 ∧ dst % 8 = 0 ∧ 8 ≤ x.bytes - x.done then 8 else 1))
    (hread : engRead s (engAgent s x.team 1) x.crew src n x.hint = (s1, .ok (bs, bad)))
    (hwrite : writeVa s1.draw.2 (engAgent s x.team 1) .engW dst bs bad x.hint = (s2, .ok ())) :
    cpyUnit s core k x = .on (cpyCount s2 core k n none) := by
  have hsrc' : wrapN 64 ((x.src : Int) + x.done) = src := hsrc.symm
  have hdst' : wrapN 64 ((x.dst : Int) + x.done) = dst := hdst.symm
  unfold cpyUnit
  rw [hring]
  dsimp only
  rw [hsrc', hdst', ← hn, hread]
  dsimp only
  rw [if_neg (by rw [hover]; exact Bool.false_ne_true), hwrite]

theorem cpyCount_wp (s : State) (core k n : Nat) (slot : Option Nat) :
    ((cpyCount s core k n slot).chan core k).wp = ((s.chan core k).wp + n) % 2 ^ 64 := by
  unfold cpyCount cpyHead
  rw [updChan_chan, updChan_chan]

/-! ### The head of the gather engine -/

theorem gthHead_gth {s : State} {core : Nat} {g : GthCmd} {rest : List GthCmd} (hq : (s.core core).gth = g :: rest) (f : GthCmd → GthCmd) :
    ((gthHead s core f).core core).gth = f g :: rest := by
  unfold gthHead
  rw [updCore_core]
  dsimp only
  rw [hq]

/-- The engine goes on behind an element of its head gather. -/
def gthNext (core : Nat) (out : Bool) (s : State) : State :=
  gthHead s core (fun g => { g with done := g.done + 1, bad := g.bad + (if out then 1 else 0), again := none })

theorem gthRun_succ {s s3 : State} {core : Nat} {g : GthCmd} {rest : List GthCmd} {out : Bool} (hq : (s.core core).gth = g :: rest)
    (hwait : g.wait = none) (hmore : g.done < g.count) (helem : gthElem s g = (s3, .ok out)) (n : Nat) :
    gthRun core (n + 1) s = gthRun core n (gthNext core out s3) := by
  rw [gthRun, hq]
  dsimp only
  rw [if_neg (by simp [hwait, hmore]), helem]
  rfl

/-- A gather that has no element left retires with its count. -/
theorem gthFinish_done {s : State} {core : Nat} {g : GthCmd} {rest : List GthCmd} (hq : (s.core core).gth = g :: rest) (hwait : g.wait = none)
    (hdone : g.count ≤ g.done) : gthFinish core s = gthRetire s core g (some g.bad) := by
  unfold gthFinish
  rw [hq]
  dsimp only
  rw [if_neg (by simp [hwait]), Nat.sub_eq_zero_of_le hdone, gthRun, hq]
  exact if_pos ⟨rfl, rfl, hdone⟩

/-- The head gather goes on to its end from the state that one more element leaves. -/
theorem gthFinish_step {s t : State} {core : Nat} {g h : GthCmd} {rest : List GthCmd} (hq : (s.core core).gth = g :: rest) (hwait : g.wait = none)
    (hqt : (t.core core).gth = h :: rest) (hh : h.id = g.id ∧ h.team = g.team ∧ h.count = g.count ∧ h.done = g.done + 1 ∧ h.wait = none)
    (hmore : g.done < g.count) (hrun : ∀ n, gthRun core (n + 1) s = gthRun core n t) : gthFinish core s = gthFinish core t := by
  obtain ⟨hid, hteam, hcount, hdone, hhwait⟩ := hh
  unfold gthFinish
  rw [hq, hqt]
  dsimp only
  rw [if_neg (by simp [hwait]), if_neg (by simp [hhwait]), hid, hteam, hcount, hdone,
    show g.count - g.done = (g.count - (g.done + 1)) + 1 by omega, hrun]

theorem gthResult_keeps (s : State) (g : GthCmd) (v : Option Nat) : (gthResult s g v).cores = s.cores ∧
    (∀ q, byteAt (gthResult s g v) q = byteAt s q) ∧ ((gthResult s g v).team g.team).opc = (s.team g.team).opc := by
  have hland (i : Nat) (more : List (Reg × Nat × W64)) : (landFlight s g.team i more).cores = s.cores ∧
      (∀ q, byteAt (landFlight s g.team i more) q = byteAt s q) ∧ ((landFlight s g.team i more).team g.team).opc = (s.team g.team).opc := by
    unfold landFlight
    dsimp only
    split
    · exact ⟨rfl, fun _ => rfl, rfl⟩
    · refine ⟨rfl, fun q => (byteAt_updTeam _ _ _ q).trans ?_, ?_⟩
      · cases q <;> rfl
      · rw [updTeam_team]
        rfl
  unfold gthResult
  split
  · exact ⟨rfl, fun _ => rfl, rfl⟩
  · split
    · exact hland _ _
    · exact ⟨rfl, fun _ => rfl, rfl⟩

theorem gthRetire_gth {s : State} {core : Nat} {g : GthCmd} {rest : List GthCmd} (hq : (s.core core).gth = g :: rest) (v : Option Nat) :
    ((gthRetire s core g v).core core).gth = rest := by
  have hcores := (gthResult_keeps (s.updCore core (fun c => { c with gth := c.gth.drop 1 })) g v).1
  show (cget ({} : Core) (gthRetire s core g v).cores core).gth = rest
  refine (congrArg (fun m => (cget ({} : Core) m core).gth) hcores).trans ?_
  show ((s.updCore core (fun c => { c with gth := c.gth.drop 1 })).core core).gth = rest
  rw [updCore_core]
  exact congrArg (List.drop 1) hq

theorem byteAt_gthRetire (s : State) (core : Nat) (g : GthCmd) (v : Option Nat) (q : Place) : byteAt (gthRetire s core g v) q = byteAt s q :=
  (byteAt_updTeam _ _ _ q).trans (((gthResult_keeps _ g v).2.1 q).trans (byteAt_updCore s core _ q))

/-- Sd's result is the only one of its team in flight: it becomes a write of the count, to be performed. -/
theorem gthResult_lands {s : State} {g : GthCmd} {r : Nat} {f : InFlight} {bad : Nat} (hsd : g.sd = some r) (hflight : (s.team g.team).flight = [f])
    (hkind : f.kind = .gth) (hwrites : f.writes = []) : ((gthResult s g (some bad)).team g.team).flight = [] ∧
    ∃ w, ((gthResult s g (some bad)).team g.team).pend = (s.team g.team).pend ++ [w] ∧ w.reg = .s r ∧ w.val = w64 bad ∧ w.il = true := by
  have hfind : (s.team g.team).flight.findIdx? (fun f => f.kind == .gth) = some 0 := by
    rw [hflight, List.findIdx?_cons, hkind]
    rfl
  have hres : gthResult s g (some bad) = landFlight s g.team 0 [(.s r, 0, w64 bad)] := by
    unfold gthResult
    rw [hsd]
    dsimp only
    rw [hfind]
  obtain ⟨hempty, due, hpend⟩ := landFlight_team [(.s r, 0, w64 bad)] hflight
  rw [hres]
  refine ⟨hempty, { reg := .s r, lane := 0, val := w64 bad, due := due, pc := (s.team g.team).pc, il := true }, ?_, rfl, rfl, rfl⟩
  rw [hpend, hwrites]
  rfl

/-- The index of a gather's next element is out of range. -/
def gthOut (g : GthCmd) (j : Int) : Bool := decide (j < 0 ∨ (g.bound : Int) ≤ j)

/-- An element is copied where its index is in range, and zeroed where it is not. -/
theorem gthElem_runs {s s1 s2 s3 : State} {g : GthCmd} {a : Agent} {ib bs : List Byte} {ibad bad : Bool} {j : Int} {n : Nat} (ha : a = engAgent s g.team 2)
    (hindex : engRead s a g.crew (wrapN 64 (g.idx + 4 * g.done : Nat)) 4 g.hint = (s1, .ok (ib, ibad)))
    (hj : j = (if g.signed then sextN 32 (ofLE ib) else (ofLE ib : Int))) (hn : n = 2 ^ g.lsz)
    (helem : (j < 0 ∨ (g.bound : Int) ≤ j) ∧ s2 = s1 ∧ bs = List.replicate n 0 ∧ bad = false ∨
      0 ≤ j ∧ j < g.bound ∧ engRead s1 a g.crew (wrapN 64 (g.base + j * n)) n g.hint = (s2, .ok (bs, bad)))
    (hwrite : writeVa s2 a .engW (wrapN 64 (g.dst + g.done * n : Nat)) bs (bad || ibad) g.hint = (s3, .ok ())) :
    gthElem s g = (s3, .ok (gthOut g j)) := by
  have hindex' : engRead s a g.crew (wrapN 64 ((g.idx : Int) + 4 * g.done)) 4 g.hint = (s1, .ok (ib, ibad)) := hindex
  have hwrite' : writeVa s2 a .engW (wrapN 64 ((g.dst : Int) + g.done * n)) bs (bad || ibad) g.hint = (s3, .ok ()) := hwrite
  unfold gthElem
  dsimp only
  rw [← ha, hindex']
  dsimp only
  rw [← hj, ← hn]
  obtain ⟨hout, rfl, rfl, rfl⟩ | ⟨hlo, hhi, hread⟩ := helem
  · rw [decide_eq_true hout, if_pos rfl]
    dsimp only
    rw [hwrite', gthOut, decide_eq_true hout]
  · have hin : ¬ (j < 0 ∨ (g.bound : Int) ≤ j) := by omega
    rw [decide_eq_false hin, if_neg Bool.false_ne_true, hread]
    dsimp only
    rw [hwrite', gthOut, decide_eq_false hin]

/-- The engine goes on to elements of its head command: to some of them, or to its end. -/
theorem gthCommandComplete_runs {s : State} {core : Nat} {g : GthCmd} {rest : List GthCmd} (hq : (s.core core).gth = g :: rest)
    (hres : (s.crew g.crew).resident = true) (hctx : ctxRuns s (s.crew g.crew).ctx = true) (hwait : g.wait = none) :
    (∃ k, k + 1 < g.count - g.done ∧ exec (.gthCommandComplete core) s = .next (gthRun core (k + 1) s.draw.2)) ∨
      exec (.gthCommandComplete core) s = .next (gthFinish core s.draw.2) := by
  have hexec : exec (.gthCommandComplete core) s = .next (if Config.choice s.draw.1 ≠ 0 ∧ Config.choice s.draw.1 < g.count - g.done
      then gthRun core (Config.choice s.draw.1) s.draw.2 else gthFinish core s.draw.2) := by
    show Host.Outcome.next _ = _
    rw [hq]
    exact congrArg Host.Outcome.next (if_neg (by simp [hres, hctx, hwait]))
  rw [hexec]
  by_cases hk : Config.choice s.draw.1 ≠ 0 ∧ Config.choice s.draw.1 < g.count - g.done
  · obtain ⟨k, hsucc⟩ := Nat.exists_eq_succ_of_ne_zero hk.1
    refine .inl ⟨k, by omega, ?_⟩
    rw [if_pos hk, hsucc]
  · exact .inr (by rw [if_neg hk])

/-- Settles O38: a unit of a transfer and an element of a gather, and the end of each. -/
theorem copiesAndGathers : Obligations.CopiesAndGathers := by
  unfold Obligations.CopiesAndGathers
  refine ⟨?copies, ?gathers⟩
  case copies =>
    intro s core k x rest hq hlive hring
    refine ⟨fun hnew => ⟨_, cpyTransferStart_starts hq hlive hnew, ?_⟩, fun hst hmore hover src dst n s1 bs bad s2 hsrc hdst hn hread hwrite => ?_,
      fun hst hdone => ⟨_, cpyTransferComplete_retires hq hlive hst hdone hring, ?_, fun q => ?_, opRetire_ops⟩⟩
    · dsimp only
      split
      · exact ⟨by rw [updChan_chan, cpyHead_chan hq], by rw [updChan_chan], fun q => (byteAt_updChan _ core k _ q).trans (byteAt_updChan s core k _ q)⟩
      · rw [cpyHead_chan hq]
        exact ⟨rfl, rfl, byteAt_updChan s core k _⟩
    · exact ⟨_, cpyTransferStart_moves hq hlive hst hmore (cpyUnit_runs hring hover hsrc hdst hn hread hwrite),
        fun q => (byteAt_updChan _ core k _ q).trans (byteAt_updChan s2 core k _ q), cpyCount_wp s2 core k n none⟩
    · exact cpyRetire_chan hq
    · exact (byteAt_updTeam _ _ _ q).trans (byteAt_updChan s core k _ q)
  case gathers =>
    intro s core g rest hq hres hctx hwait
    have hq0 : (s.draw.2.core core).gth = g :: rest := hq
    refine ⟨fun hmore s1 ib ibad hindex j n hj hn s2 bs bad hread s3 hwrite hq3 => ?_, fun hdone => ?_⟩
    · have helem := gthElem_runs (s := s.draw.2) rfl hindex hj hn hread hwrite
      have hrun := gthRun_succ hq0 hwait hmore helem
      have hgth : ((gthNext core (gthOut g j) s3).core core).gth = _ := gthHead_gth hq3 (fun x => { x with done := x.done + 1, bad := x.bad + (if gthOut g j then 1 else 0), again := none })
      have hfin := gthFinish_step hq0 hwait hgth ⟨rfl, rfl, rfl, rfl, hwait⟩ hmore hrun
      refine ⟨gthNext core (gthOut g j) s3, byteAt_updCore s3 core _, ?_, ?_, fun hlast => ⟨?_, fun q => ?_, ?_⟩⟩
      rotate_left 1
      · obtain ⟨k, -, hexec⟩ | hexec := gthCommandComplete_runs hq hres hctx hwait
        · exact .inl ⟨k, hexec.trans (congrArg _ (hrun k))⟩
        · exact .inr (hexec.trans (congrArg _ hfin))
      · obtain ⟨k, hk, -⟩ | hexec := gthCommandComplete_runs hq hres hctx hwait
        · omega
        · exact hexec.trans (congrArg _ hfin)
      · rw [gthFinish_done hgth hwait (Nat.le_of_eq hlast.symm)]
        exact byteAt_gthRetire _ core _ _ q
      · rw [gthFinish_done hgth hwait (Nat.le_of_eq hlast.symm)]
        exact gthRetire_gth hgth _
      · rw [hgth]
        simp [gthOut]
    · obtain ⟨k, hk, -⟩ | hexec := gthCommandComplete_runs hq hres hctx hwait
      · omega
      have hkeeps := gthResult_keeps (s.draw.2.updCore core (fun c => { c with gth := c.gth.drop 1 })) g (some g.bad)
      refine ⟨_, hexec.trans (congrArg _ (gthFinish_done hq0 hwait hdone)), gthRetire_gth hq0 _,
        fun q => (byteAt_gthRetire _ core g _ q).trans (by cases q <;> rfl), fun hops => opRetire_ops ?_, fun r f hsd hflight hkind hwrites => ?_⟩
      · exact (congrArg (fun m => cget [] m 1) hkeeps.2.2).trans hops
      · obtain ⟨hempty, w, hpend, hw⟩ := gthResult_lands (s := s.draw.2.updCore core (fun c => { c with gth := c.gth.drop 1 })) (bad := g.bad)
          hsd hflight hkind hwrites
        rw [gthRetire, opRetire, updTeam_team]
        exact ⟨hempty, w, hpend, hw⟩

end Sys2Proof.Machine
end

section
/-! SUPPORT. Records that start the engines (19 R385, R388, R390, R391): O36. -/

namespace Sys2Proof.Machine

section
variable {i : Instr} {s s2 s3 : State} {op c : Nat} {u : UCtx}

/-- A command of class c that gives an S result at once. -/
theorem AtPass.issues_now (hu : AtPass s op u) (h : ready s = true) (hl : s2.lasting = s.lasting) (hteams : s3.teams = (opIssue s2 s.cur c).2.teams)
    (hcur : s3.cur = s.cur) (hbytes : ∀ q, byteAt s3 q = byteAt s2 q) {d : Opnd} (hd : okS d = true) (v : Nat)
    (he : exec i s = .next (u.now s3 [(d, v)])) {eff : State → Nat → Prop}
    (heff : (u.now s3 [(d, v)]).me.s = (s.me.putS d (w64 v)).s → eff (u.now s3 [(d, v)]) s2.order) :
    Sys2Proof.Claims.Issues i s s2 c eff := by
  have hlast := team_of_lasting hl s.cur
  obtain ⟨hteam, -, -⟩ := hu.issued_me h hl hteams hcur
  have honly := hu.now_only s3 hd v
  have hnow := hu.now_me s3 hd v
  have hl3 : s3.lasting = (opIssue s2 s.cur c).2.lasting := by
    have hcur2 : (opIssue s2 s.cur c).2.cur = s.cur := by
      rw [opIssue_eq c ((congrArg Team.flight hlast :).trans (ready_flight h))]
      exact cur_of_lasting (t := s2) hl
    unfold State.lasting State.team
    rw [hteams, hcur, hcur2]
  obtain ⟨-, -, -, hopc⟩ := hu.now_issued h hl hl3 hd v
  have hputs (t : Team) (w : W64) : (t.putS d w).kept = t.kept := by cases d <;> simp [Team.putS, Team.put, Team.kept]
  have hs (t : Team) (ht : t.s = s.me.s) (w : W64) : (t.putS d w).s = (s.me.putS d w).s := by
    cases d <;> simp [Team.putS, Team.put, ht]
  refine commands_of he honly hcur ?_ (hu.now_status _ hd v) (fun j hj => ?_) hbytes ⟨s2.order, ops_issued s.me c s2.order hopc, heff ?_⟩
  · refine (congrArg Team.kept hnow :).trans ?_
    have hk := hputs (s3.team s.cur) (w64 v)
    have hm : (s3.team s.cur).kept = s.me.kept := (congrArg Team.kept hteam :).trans (congrArg Team.kept hlast :)
    rw [hm] at hk
    simp only [Team.kept, Team.untimed, Prod.mk.injEq] at hk ⊢
    obtain ⟨hpc, hrest⟩ := hk
    exact ⟨congrArg (nextPc · 1) hpc, hrest⟩
  · rw [State.team, hteams, opIssue_eq c ((congrArg Team.flight hlast :).trans (ready_flight h))]
    exact updTeam_team_ne _ _ _ _ hj
  · rw [State.me, honly.cur, hcur]
    exact (congrArg Team.s hnow :).trans (hs _ ((congrArg Team.s hteam :).trans (congrArg Team.s hlast :)) _)

theorem AtPass.now_core (hu : AtPass s op u) (s' : State) {d : Opnd} (hd : okS d = true) (v k : Nat) :
    ((u.now s' [(d, v)]).core k).chans = (s'.core k).chans := (congrArg Core.chans ((hu.now_only s' hd v).2.2 k) :)

theorem AtPass.done_core (hu : AtPass s op u) (s' : State) (ws : List (Opnd × Nat)) (lat : Nat) (il : Bool) (k : Nat) :
    ((u.done s' ws lat il).core k).gth = (s'.core k).gth := (congrArg Core.gth ((hu.done_only s' ws lat il).2.2 k) :)

end

/-! ### Copies -/

/-- The ring of a transfer's record is one that it may name, and the transfer one of its producers. -/
def cpyRingOk (s : State) (ci flags : Nat) (r : List Byte) (rg : Option (Nat × Nat)) : Prop :=
  bitN flags 1 = false ∧ rg = none ∨ bitN flags 1 = true ∧ rg = some (field r 24 4, field r 22 1) ∧ field r 22 1 ≤ 7 ∧
    ∃ g, ringFor s ci (field r 24 4) = some g ∧ bitN g.prods (field r 22 1) = true

theorem cpy_runs {s s1 : State} {d a : Opnd} {va core k flags w0 : Nat} {r : List Byte} {rg : Option (Nat × Nat)} (h : ready s = true)
    (hd : okS d = true) (ha : okS a = true) (hva : va = (sVal s.me a).toNat) (hdraft : (s.crew s.me.crew).drafting = false)
    (hcore : core = (s.crew s.me.crew).core) (hroom : s.me.opCount 0 < 255) (halign : va % 32 = 0) (hread : issueRead s.settled s.cur va 32 = .ok (s1, r))
    (hz28 : field r 28 4 = 0) (hz23 : field r 23 1 = 0) (hflags : flags = field r 21 1) (hfl : flags < 16) (hk : k = field r 20 1) (hk7 : k ≤ 7)
    (hring : cpyRingOk s1 s.me.crew flags r rg)
    (hdata : dataOk s1 (engAgent s1 s.cur 1) ((field r 0 8, field r 16 4) :: (if bitN flags 1 then [] else [(field r 8 8, field r 16 4)])) = .ok ())
    (hw0 : w0 = (if bitN flags 0 then 0 else (s1.chan core k).sum)) :
    Sys2Proof.Claims.Issues (.cpy d a (.v 0)) s s1 0 (fun z id => z.me.s = (s.me.putS d (w64 w0)).s ∧
      z.chan core k = { s1.chan core k with sum := (w0 + field r 16 4) % 2 ^ 64, q := (s1.chan core k).q ++
        [{ team := s.cur, crew := s.me.crew, src := field r 0 8, dst := field r 8 8, bytes := field r 16 4, reset := bitN flags 0, hint := bitsN flags 2 2,
           ring := rg, order := id }] }) := by
  obtain ⟨u, hu, hok, -⟩ := uniform_run h (fields := [fld d okS, fld a okS, fld (.v 0) okZero]) (by simp [fld, hd, ha, okZero])
    (show exec (.cpy d a (.v 0)) s = execCpy d a (.v 0) s from rfl) rfl
  have hf0 : (s.settled.team s.cur).flight = [] := by rw [settled_team, ready_flight h]
  obtain ⟨hl1, hc1⟩ := issueRead_keeps hf0 hread
  have hl : s1.lasting = s.lasting := hl1.trans (settled_lasting s)
  have hcrew : s1.crew s.me.crew = s.crew s.me.crew := crew_of_manned hc1 _
  have hf1 : (s1.team s.cur).flight = [] := (congrArg Team.flight (team_of_lasting hl s.cur) :).trans (ready_flight h)
  have hread' : issueRead u.s s.cur va 32 = .ok (s1, r) := hu.state ▸ hread
  have hroom' : opRoom u.t 0 = .ok () := by rw [hu.team, opRoom, if_pos hroom]
  have hend (p : Bool) : (if p then endIdem s1 s.me.crew else s1) = s1 := by
    rw [endIdem_of_not (by rw [hcrew]; exact hdraft), ite_self]
  let x : CpyXfer := { team := s.cur, crew := s.me.crew, src := field r 0 8, dst := field r 8 8, bytes := field r 16 4, reset := bitN flags 0,
                       hint := bitsN flags 2 2, ring := rg, order := s1.order }
  let s3 : State := (opIssue s1 s.cur 0).2.updChan core k (fun c => { c with sum := (w0 + field r 16 4) % 2 ^ 64, q := c.q ++ [x] })
  have hexec : exec (.cpy d a (.v 0)) s = .next (u.now s3 [(d, w0)]) := by
    refine hok _ ?_
    simp only [hu.rd h ha, ← hva, hroom', ok_bind, halign, ne_eq, not_true_eq_false, if_false, hread', hu.poison, ← hflags, ← hk]
    rw [if_neg (by simp [hz28, hz23, Nat.div_eq_of_lt hfl, hk7])]
    obtain ⟨hplain, hrg⟩ | ⟨hmode, hrg, hprod7, g, hg, hprod⟩ := hring
    · simp only [hplain, Bool.false_eq_true, if_false] at hdata
      simp only [hplain, Bool.false_eq_true, if_false, hend, hcrew, ← hcore, hdata, ok_bind, ← hw0, opIssue_eq 0 hf1, s3, x, hrg]
    · simp only [hmode, if_true] at hdata
      have hin : (decide (7 < field r 22 1) || !bitN g.prods (field r 22 1)) = false := by simp [hprod7, hprod]
      simp only [hmode, if_true, hend, hcrew, ← hcore, hg, hin, Bool.false_eq_true, if_false, hdata, ok_bind, ← hw0, opIssue_eq 0 hf1, s3, x, hrg]
  have hcur : s3.cur = s.cur := by
    simp only [s3, opIssue_eq 0 hf1]
    exact cur_of_lasting (t := s1) hl
  have hteams : s3.teams = (opIssue s1 s.cur 0).2.teams := rfl
  have hbytes (q : Place) : byteAt s3 q = byteAt s1 q := (byteAt_updChan _ core k _ q).trans (byteAt_opIssue 0 hf1 q)
  have hchan : s3.chan core k = { s1.chan core k with sum := (w0 + field r 16 4) % 2 ^ 64, q := (s1.chan core k).q ++ [x] } := by
    have hissued : (opIssue s1 s.cur 0).2.chan core k = s1.chan core k := by
      rw [opIssue_eq 0 hf1]
      rfl
    show (State.updChan _ core k _).chan core k = _
    rw [updChan_chan, hissued]
  clear_value s3
  exact hu.issues_now h hl hteams hcur hbytes hd w0 hexec
    (fun hs => ⟨hs, (congrArg (fun m => cget ({} : Chan) m k) (hu.now_core s3 hd w0 core)).trans hchan⟩)

/-! ### Gathers -/

/-- A command of class c that leaves more results in flight. -/
theorem AtPass.issues_flight {i : Instr} {s s2 s3 : State} {op c : Nat} {u : UCtx} (hu : AtPass s op u) (h : ready s = true)
    (hl : s2.lasting = s.lasting) {fl : List InFlight} (hme : s3.team s.cur = { (opIssue s2 s.cur c).2.team s.cur with flight := fl })
    (hothers : ∀ j, j ≠ s.cur → s3.team j = s2.team j) (hcur : s3.cur = s.cur) (hbytes : ∀ q, byteAt s3 q = byteAt s2 q)
    (he : exec i s = .next (u.done s3 [] 0)) {eff : State → Nat → Prop} (heff : eff (u.done s3 [] 0) s2.order) :
    Sys2Proof.Claims.Issues i s s2 c eff := by
  have hlast := team_of_lasting hl s.cur
  rw [opIssue_team c ((congrArg Team.flight hlast :).trans (ready_flight h))] at hme
  refine hu.commands_done hcur ?_ hothers hbytes he ⟨s2.order, ops_issued s.me c s2.order ?_, heff⟩
  · exact (congrArg Team.kept hme :).trans (congrArg Team.kept hlast :)
  · rw [State.me, (hu.done_only s3 [] 0 false).cur, hcur]
    refine (congrArg Team.opc (hu.done_me s3 [] 0 false) :).trans ((congrArg Team.opc hme :).trans ?_)
    have hopc : (s2.team s.cur).opc = s.me.opc := (congrArg Team.opc hlast :)
    show cset [] (s2.team s.cur).opc c ((s2.team s.cur).ops c ++ [(s2.order, false)]) = _
    rw [Team.ops, hopc, Team.ops]

/-- Results of a command that a team awaits. -/
def awaitAll (s : State) (ti : Nat) (regs : List Reg) (f : Team → InFlight) : State :=
  if regs.isEmpty then s else s.updTeam ti (fun t => { t with flight := t.flight ++ [f t] })

theorem awaitAll_keeps (s : State) (ti : Nat) (regs : List Reg) (f : Team → InFlight) : (awaitAll s ti regs f).cur = s.cur ∧
    (awaitAll s ti regs f).cores = s.cores ∧ (∃ fl, (awaitAll s ti regs f).team ti = { s.team ti with flight := fl }) ∧
    (∀ j, j ≠ ti → (awaitAll s ti regs f).team j = s.team j) ∧ ∀ q, byteAt (awaitAll s ti regs f) q = byteAt s q := by
  unfold awaitAll
  split
  · exact ⟨rfl, rfl, ⟨_, rfl⟩, fun _ _ => rfl, fun _ => rfl⟩
  · exact ⟨rfl, rfl, ⟨_, updTeam_team _ _ _⟩, fun j hj => updTeam_team_ne _ _ _ _ hj, byteAt_updTeam _ _ _⟩

/-- The register that a gather's count goes to. -/
def gthSd : Opnd → Option Nat
  | .s n => some n.val
  | _ => none

/-- A command's number is the next of the order in which things happen. -/
theorem opIssue_pair {s : State} {ti : Nat} (c : Nat) (h : (s.team ti).flight = []) : opIssue s ti c = (s.order, (opIssue s ti c).2) := by
  rw [opIssue_eq c h]

theorem gth_runs {s s1 : State} {d a : Opnd} {va core lsz al : Nat} {r : List Byte} (h : ready s = true) (hd : okS d = true) (ha : okS a = true)
    (hva : va = (sVal s.me a).toNat) (hdraft : (s.crew s.me.crew).drafting = false) (hcore : core = (s.crew s.me.crew).core)
    (hroom : s.me.opCount 1 < 255) (halign : va % 64 = 0) (hread : issueRead s.settled s.cur va 48 = .ok (s1, r))
    (hz36 : field r 36 12 = 0) (hz30 : field r 30 2 = 0) (hfl : field r 29 1 < 8) (hlsz : lsz = field r 28 1) (hlsz6 : lsz ≤ 6)
    (hal : al = min (2 ^ lsz) 8) (hidx4 : field r 8 8 % 4 = 0) (hbase : field r 0 8 % al = 0) (hidx : field r 8 8 % al = 0)
    (hdst : field r 16 8 % al = 0)
    (hdata : dataOk s1 (engAgent s1 s.cur 2) [(field r 8 8, 4 * field r 24 4), (field r 16 8, field r 24 4 * 2 ^ lsz)] = .ok ()) :
    Sys2Proof.Claims.Issues (.gth d a (.v 0)) s s1 1 (fun z id => (z.core core).gth = (s1.core core).gth ++
      [{ team := s.cur, id := id, crew := s.me.crew, base := field r 0 8, idx := field r 8 8, dst := field r 16 8, count := field r 24 4,
         lsz := lsz, bound := field r 32 4, signed := bitN (field r 29 1) 0, hint := bitsN (field r 29 1) 1 2, sd := gthSd d }]) := by
  obtain ⟨u, hu, hok, -⟩ := uniform_run h (fields := [fld d okS, fld a okS, fld (.v 0) okZero]) (by simp [fld, hd, ha, okZero])
    (show exec (.gth d a (.v 0)) s = execGth d a (.v 0) s from rfl) rfl
  have hf0 : (s.settled.team s.cur).flight = [] := by rw [settled_team, ready_flight h]
  obtain ⟨hl1, hc1⟩ := issueRead_keeps hf0 hread
  have hl : s1.lasting = s.lasting := hl1.trans (settled_lasting s)
  have hcrew : s1.crew s.me.crew = s.crew s.me.crew := crew_of_manned hc1 _
  have hf1 : (s1.team s.cur).flight = [] := (congrArg Team.flight (team_of_lasting hl s.cur) :).trans (ready_flight h)
  have hread' : issueRead u.s s.cur va 48 = .ok (s1, r) := hu.state ▸ hread
  have hroom' : opRoom u.t 1 = .ok () := by rw [hu.team, opRoom, if_pos hroom]
  have hend (p : Bool) : (if p then endIdem s1 s.me.crew else s1) = s1 := by
    rw [endIdem_of_not (by rw [hcrew]; exact hdraft), ite_self]
  let g : GthCmd := { team := s.cur, id := s1.order, crew := s.me.crew, base := field r 0 8, idx := field r 8 8, dst := field r 16 8, count := field r 24 4,
                      lsz := lsz, bound := field r 32 4, signed := bitN (field r 29 1) 0, hint := bitsN (field r 29 1) 1 2,
                      sd := gthSd d }
  let s3 : State := (opIssue s1 s.cur 1).2.updCore core (fun c => { c with gth := c.gth ++ [g] })
  let regs := (dstWrites u.t true d u.c 0 0).map (·.1)
  let f : Team → InFlight := fun t => { id := t.nIssued, kind := .gth, regs := regs, writes := [] }
  have hissuedCore : ((opIssue s1 s.cur 1).2.crew s.me.crew).core = core := by
    rw [opIssue_eq 1 hf1, hcore, ← hcrew]
    rfl
  have hexec : exec (.gth d a (.v 0)) s = .next (u.done (awaitAll s3 s.cur regs f) [] 0) := by
    refine hok _ ?_
    have hsound : (decide (field r 36 12 ≠ 0) || decide (field r 30 2 ≠ 0) || decide (field r 29 1 / 8 ≠ 0) || decide (6 < lsz) ||
        decide (field r 8 8 % 4 ≠ 0) || decide (field r 8 8 % al ≠ 0) || decide (field r 0 8 % al ≠ 0) || decide (field r 16 8 % al ≠ 0)) = false := by
      simp [hz36, hz30, Nat.div_eq_of_lt hfl, hlsz6, hidx4, hidx, hbase, hdst]
    simp only [hu.rd h ha, ← hva, hroom', ok_bind, halign, ne_eq, not_true_eq_false, if_false, hread', hu.poison, ← hlsz, ← hal] at hsound ⊢
    rw [hsound]
    simp only [Bool.false_eq_true, if_false, hend, hdata, ok_bind]
    rw [opIssue_pair 1 hf1]
    dsimp only
    rw [hissuedCore]
    rfl
  have hcur : s3.cur = s.cur := by
    simp only [s3, opIssue_eq 1 hf1]
    exact cur_of_lasting (t := s1) hl
  have hme3 : s3.team s.cur = (opIssue s1 s.cur 1).2.team s.cur := rfl
  have hothers (j : Nat) (hj : j ≠ s.cur) : s3.team j = s1.team j := by
    show (opIssue s1 s.cur 1).2.team j = s1.team j
    rw [opIssue_eq 1 hf1]
    exact updTeam_team_ne _ _ _ _ hj
  have hbytes (q : Place) : byteAt s3 q = byteAt s1 q := (byteAt_updCore _ core _ q).trans (byteAt_opIssue 1 hf1 q)
  have hgth : (s3.core core).gth = (s1.core core).gth ++ [g] := by
    have hissued : (opIssue s1 s.cur 1).2.core core = s1.core core := by
      rw [opIssue_eq 1 hf1]
      rfl
    show ((State.updCore _ core _).core core).gth = _
    rw [updCore_core, hissued]
  clear_value s3 f regs
  obtain ⟨hacur, hacores, ⟨fl, hame⟩, haothers, habytes⟩ := awaitAll_keeps s3 s.cur regs f
  refine hu.issues_flight h hl (fl := fl) (hame.trans (by rw [hme3])) (fun j hj => (haothers j hj).trans (hothers j hj)) (hacur.trans hcur)
    (fun q => (habytes q).trans (hbytes q)) hexec ?_
  refine (hu.done_core _ [] 0 false core).trans (.trans ?_ hgth)
  exact congrArg (fun m => (cget ({} : Core) m core).gth) hacores

/-! ### Streams -/

/-- A stream's record written by its team, at the end of an instruction. -/
theorem AtPass.done_stream {s s1 : State} {op : Nat} {u : UCtx} (hu : AtPass s op u) (hl : s1.lasting = s.lasting) (f : Nat) (y : Stream)
    {z : State} (hz : z = u.done (s1.updTeam s.cur (fun t => t.setStream f y)) [] 0) :
    z.me.pc = nextPc s.me.pc 1 ∧ z.me.status = .run ∧ (∀ q, byteAt z q = byteAt s1 q) ∧ (∀ g, g ≠ f → z.me.stream g = s.me.stream g) ∧
      z.me.stream f = y := by
  have honly := hu.done_only (s1.updTeam s.cur (fun t => t.setStream f y)) [] 0 false
  have hdone := hu.done_me (s1.updTeam s.cur (fun t => t.setStream f y)) [] 0 false
  have hlast := team_of_lasting hl s.cur
  have hcur : z.cur = s.cur := (congrArg State.cur hz).trans (honly.cur.trans (cur_of_lasting (t := s1) hl))
  rw [updTeam_team] at hdone
  rw [State.me, hcur, hz]
  have hstreams : ((u.done (s1.updTeam s.cur (fun t => t.setStream f y)) [] 0).team s.cur).streams = ((s1.team s.cur).setStream f y).streams :=
    (congrArg Team.streams hdone :)
  have hsame : (s1.team s.cur).streams = s.me.streams := (congrArg Team.streams hlast :)
  refine ⟨(congrArg Team.pc hdone :).trans (congrArg (nextPc · 1) (congrArg Team.pc hlast :)), hu.done_status _ _ _ _,
    fun q => (honly.byteAt q).trans (byteAt_updTeam _ _ _ q), fun g hg => ?_, ?_⟩
  · refine (congrArg (fun m => cget ({} : Stream) m g) hstreams).trans ((setStream_stream_ne (s1.team s.cur) y hg).trans ?_)
    exact congrArg (fun m => cget ({} : Stream) m g) hsame
  · exact (congrArg (fun m => cget ({} : Stream) m f) hstreams).trans (setStream_stream (s1.team s.cur) f y)

theorem srecLd_runs {s s1 : State} {a : Opnd} {t : BitVec 8} {va f ez : Nat} {r : List Byte} {x : Stream} (h : ready s = true) (ha : okS a = true)
    (ht : t.toNat < 16) (hva : va = (sVal s.me a).toNat) (hf : f = t.toNat) (halign : va % 64 = 0) (hread : issueRead s.settled s.cur va 64 = .ok (s1, r))
    (hz : field r 28 36 = 0) (hez : ez = field r 12 1) (hez8 : ez < 8) (hez3 : ez % 4 ≠ 3) (hhint : field r 15 1 < 4) (hlen : field r 8 4 ≠ 0)
    (hkind : field r 13 1 ≤ 1) (hbase : field r 0 8 % 2 ^ (ez % 4) = 0) (hstride : field r 16 8 % 2 ^ (ez % 4) = 0)
    (hx : x = s.me.stream (field r 14 1))
    (hix : field r 13 1 = 1 → field r 14 1 ≠ f ∧ field r 14 1 ≤ 15 ∧ x.loaded = true ∧ x.indirect = false ∧ x.esz = 4)
    (hrun : (s.me.stream f).running = false) (hused : indexesRunning s.me f = false) :
    ∃ z, exec (.srecLd t a (.v 0)) s = .next z ∧ z.me.pc = nextPc s.me.pc 1 ∧ z.me.status = .run ∧ (∀ q, byteAt z q = byteAt s1 q) ∧
      (∀ g, g ≠ f → z.me.stream g = s.me.stream g) ∧ z.me.stream f =
        { loaded := true, base := field r 0 8,
          stride := sextN 64 (field r 16 8), length := field r 8 4, esz := 2 ^ (ez % 4), signed := bitN ez 2,
          indirect := field r 13 1 == 1, ixs := field r 14 1 % 16, hint := field r 15 1, bound := field r 24 4 } := by
  obtain ⟨u, hu, hok, -⟩ := uniform_run h (fields := [fldTile t, fld a okS, fld (.v 0) okZero]) (by simp [fldTile, fld, ht, ha, okZero])
    (show exec (.srecLd t a (.v 0)) s = execSrecLd t a (.v 0) s from rfl) rfl
  have hf0 : (s.settled.team s.cur).flight = [] := by rw [settled_team, ready_flight h]
  have hl : s1.lasting = s.lasting := (issueRead_keeps hf0 hread).1.trans (settled_lasting s)
  have hread' : issueRead u.s s.cur va 64 = .ok (s1, r) := hu.state ▸ hread
  let y : Stream := { loaded := true, base := field r 0 8, stride := sextN 64 (field r 16 8), length := field r 8 4, esz := 2 ^ (ez % 4), signed := bitN ez 2,
                      indirect := field r 13 1 == 1, ixs := field r 14 1 % 16, hint := field r 15 1, bound := field r 24 4 }
  refine ⟨_, hok (u.done (s1.updTeam s.cur (fun t => t.setStream f y)) [] 0) ?_, hu.done_stream hl f y rfl⟩
  have hfits : (decide (field r 28 36 ≠ 0) || decide (ez / 8 ≠ 0) || decide (ez % 4 = 3) || decide (field r 15 1 / 4 ≠ 0) || decide (field r 8 4 = 0) ||
      decide (1 < field r 13 1)) = false := by
    simp [hz, Nat.div_eq_of_lt hez8, hez3, Nat.div_eq_of_lt hhint, hlen, hkind]
  have hindex : (decide (field r 13 1 = 1) && (decide (field r 14 1 = f) || decide (15 < field r 14 1) || !x.loaded || x.indirect || x.esz != 4)) = false := by
    by_cases hk : field r 13 1 = 1
    · obtain ⟨hne, hle, hload, hdir, hesz⟩ := hix hk
      simp [hne, hle, hload, hdir, hesz]
    · simp [hk]
  simp only [hu.rd h ha, ← hva, ok_bind, halign, ne_eq, not_true_eq_false, if_false, hread', hu.poison, ← hez, ← hf, hu.team, ← hx, hbase, hstride,
    hrun, hused, Bool.or_self, decide_false, Bool.false_eq_true] at hfits hindex ⊢
  rw [hfits, hindex]
  rfl

theorem srecGo_runs {s : State} {a : Opnd} {t : BitVec 8} {va f : Nat} {x : Stream} (h : ready s = true) (ha : okS a = true) (ht : t.toNat < 16)
    (hva : va = (sVal s.me a).toNat) (hf : f = t.toNat) (hlt : va < 2 ^ 27) (hx : x = s.me.stream f) (hload : x.loaded = true) (hrun : x.running = false)
    (hmode : bitN va 0 = false ∧ bitsN va 4 20 = 0 ∧ bindDir (s.me.q (bitsN va 1 3)).bind = false ∧
        bindSrc (s.me.q (bitsN va 1 3)).bind = 1 ∧ bindStrm (s.me.q (bitsN va 1 3)).bind = f ∨
      bitN va 0 = true ∧ bitsN va 1 3 = 0 ∧ ∃ g, ringFor s s.me.crew (bitsN va 4 20) = some g ∧ bitN g.prods (bitsN va 24 3) = true) :
    ∃ z o, exec (.srecGo t a (.v 0)) s = .next z ∧ z.me.pc = nextPc s.me.pc 1 ∧ z.me.status = .run ∧ (∀ q, byteAt z q = byteAt s q) ∧
      (∀ g, g ≠ f → z.me.stream g = s.me.stream g) ∧ z.me.stream f =
        { x with running := true, short := false, pos := 0,
                 ring := bitN va 0, q := bitsN va 1 3, ringOff := bitsN va 4 20, prod := bitsN va 24 3, slot := none, slotFill := 0, order := o,
                 ahead := [], halt := none, again := none, wait := none } := by
  obtain ⟨u, hu, hok, -⟩ := uniform_run h (fields := [fldTile t, fld a okS, fld (.v 0) okZero]) (by simp [fldTile, fld, ht, ha, okZero])
    (show exec (.srecGo t a (.v 0)) s = execSrecGo t a (.v 0) s from rfl) rfl
  have hclose : closeLate u.s s.cur = u.s := closeLate_nil (hu.flight h)
  let y : Stream := { x with running := true, short := false, pos := 0, ring := bitN va 0, q := bitsN va 1 3, ringOff := bitsN va 4 20, prod := bitsN va 24 3,
                             slot := none, slotFill := 0, order := u.s.order, ahead := [], halt := none, again := none, wait := none }
  have hl : u.s.tick.2.lasting = s.lasting := hu.lasting
  have hring (off : Nat) : ringFor u.s s.me.crew off = ringFor s s.me.crew off := by
    unfold ringFor ringChecks
    rw [hu.only.crew]
  have hexec : exec (.srecGo t a (.v 0)) s = .next (u.done (u.s.tick.2.updTeam s.cur (fun t => t.setStream f y)) [] 0) := by
    refine hok _ ?_
    have htop : va / 2 ^ 27 = 0 := Nat.div_eq_of_lt hlt
    obtain ⟨hplain, hoff, hdir, hsrc, hstrm⟩ | ⟨hmode, hq, g, hg, hprod⟩ := hmode
    · simp only [hu.rd h ha, ← hva, hu.team, ← hf, ← hx, htop, hplain, hoff, hload, hrun, hdir, hsrc, hstrm, hclose, ne_eq, not_true_eq_false,
        decide_false, Bool.or_self, bne_self_eq_false, Bool.false_eq_true, if_false, Bool.not_true, Bool.not_false, Bool.true_and, y]
      rfl
    · simp only [hu.rd h ha, ← hva, hu.team, ← hf, ← hx, htop, hmode, hq, hload, hrun, hring, hg, hprod, hclose, ne_eq, not_true_eq_false,
        decide_false, Bool.or_self, bne_self_eq_false, Bool.false_eq_true, if_false, if_true, Bool.not_true, Bool.false_and, y]
      rfl
  obtain ⟨hpc, hst, hbytes, hothers, hself⟩ := hu.done_stream hl f y rfl
  refine ⟨_, u.s.order, hexec, hpc, hst, fun q => (hbytes q).trans ((?_ : byteAt u.s.tick.2 q = byteAt u.s q).trans (hu.only.byteAt q)), hothers, hself⟩
  cases q <;> rfl

/-- Settles O36. -/
theorem recordsStartTheEngines : Obligations.RecordsStartTheEngines := by
  unfold Obligations.RecordsStartTheEngines
  intro s s1 d a t va r h hd ha ht hva hdraft core hcore
  refine ⟨?cpy, ?gth, ?srecLd, fun f x => srecGo_runs h ha ht hva⟩
  case cpy =>
    intro k flags w0 rg hroom halign hread hz28 hz23 hflags hfl hk hk7 hring hdata hw0
    exact cpy_runs h hd ha hva hdraft hcore hroom halign hread hz28 hz23 hflags hfl hk hk7 hring hdata hw0
  case gth =>
    intro lsz al hroom halign hread hz36 hz30 hfl hlsz hlsz6 hal hidx4 hbase hidx hdst hdata
    have hrun := gth_runs h hd ha hva hdraft hcore hroom halign hread hz36 hz30 hfl hlsz hlsz6 hal hidx4 hbase hidx hdst hdata
    obtain ⟨n, rfl⟩ | rfl := okS_cases d hd
    · exact hrun
    · exact hrun
  case srecLd =>
    intro f ez x hf halign hread hz hez hez8 hez3 hhint hlen hkind hbase hstride hx hix hrun hused
    exact srecLd_runs h ha ht hva hf halign hread hz hez hez8 hez3 hhint hlen hkind hbase hstride hx hix hrun hused

end Sys2Proof.Machine
end

section
/-! SUPPORT. What a write of memory leaves, byte by byte, and the memory requests of a core; with them LDN, STN and the responses
(18 R350, R352): O26. -/

namespace Sys2Proof.Machine

/-! ### A write leaves every crew as it is, and sets no team's requests -/

/-- The teams and the crews, as they are kept. -/
def State.staff (s : State) : Nat × Cells Team × Cells Crew := (s.cur, s.teams, s.crews)

theorem rewrites_staff (s : State) (k n : Nat) : (s.rewrites k n).staff = s.staff := by
  unfold State.rewrites
  dsimp only
  split <;> rfl

theorem unhide_staff (s : State) (p : Place) (n : Nat) : (s.unhide p n).staff = s.staff := by
  unfold State.unhide
  split <;> rfl

theorem putMem_staff (s : State) (k : Nat) (b : Byte) : (s.putMem k b).staff = s.staff := by
  unfold State.putMem
  split <;> rfl

theorem putHomeBytes_staff (bs : List Byte) (s : State) (k : Nat) : (s.putHomeBytes k bs).staff = s.staff := by
  induction bs generalizing s k with
  | nil => rfl
  | cons b r ih => exact (ih _ _).trans (putMem_staff s k b)

theorem putOverBytes_staff (bs : List Byte) (s : State) (k : Nat) : (s.putOverBytes k bs).staff = s.staff := by
  induction bs generalizing s k with
  | nil => rfl
  | cons b r ih =>
    refine (ih _ _).trans ?_
    unfold State.putOver
    split <;> rfl

theorem dirtyDie_staff (s : State) (ctx die : Nat) : (s.dirtyDie ctx die).staff = s.staff := by
  unfold State.dirtyDie
  split <;> rfl

theorem post_staff (s : State) (w ctx k : Nat) (bs : List Byte) : (s.post w ctx k bs).staff = s.staff := by
  unfold State.post
  split
  · exact putOverBytes_staff bs s k
  · rfl

theorem putDevBytes_staff (s : State) (w ctx k : Nat) (bs : List Byte) (hint : Nat) : (s.putDevBytes w ctx k bs hint).staff = s.staff := by
  have hfar : (if decide (w < 512 ∧ w / 128 ≠ keyDie k) = true then
      storeMargin (s.dirtyDie ctx (w / 128)) (w / 128) (keyLines k bs.length) else s).staff = s.staff := by
    split
    · exact dirtyDie_staff s ctx _
    · rfl
  unfold State.putDevBytes
  dsimp only
  split
  · exact post_staff s w ctx k bs
  · split
    · have lines := foldl_keeps (fun s l => useL2 s l (if hint = 3 then 0 else hint)) State.staff (fun s l => (congrArg State.staff (useL2_uncached s l _) :))
      exact (putOverBytes_staff bs _ k).trans ((lines _ _).trans ((dirtyDie_staff _ ctx _).trans hfar))
    · split
      · exact (putOverBytes_staff bs _ k).trans hfar
      · exact (putHomeBytes_staff bs _ k).trans hfar

/-- The memory requests of the teams whose crew is among those that `busy` names. -/
def requestsOf (busy : Nat → Bool) (m : Cells Team) : Nat :=
  m.foldl (fun n e => if busy e.2.crew then e.2.flight.foldl (fun n f => n + f.reqs) n else n) 0

theorem outstanding_eq (s : State) (core : Nat) :
    outstanding s core = requestsOf (fun c => (s.crew c).core == core && (s.crew c).resident) s.teams := rfl

/-- Those of one team. -/
def teamLoad (busy : Nat → Bool) (t : Team) : Nat := if busy t.crew then (t.flight.map (·.reqs)).sum else 0

theorem requestsOf_sum (busy : Nat → Bool) (m : Cells Team) : requestsOf busy m = (m.map (fun e => teamLoad busy e.2)).sum := by
  have flights (l : List InFlight) (n : Nat) : l.foldl (fun n f => n + f.reqs) n = n + (l.map (·.reqs)).sum := by
    induction l generalizing n with
    | nil => rfl
    | cons f r ih => rw [List.foldl_cons, ih, List.map_cons, List.sum_cons, Nat.add_assoc]
  have teams (n : Nat) : m.foldl (fun n e => if busy e.2.crew then e.2.flight.foldl (fun n f => n + f.reqs) n else n) n =
      n + (m.map (fun e => teamLoad busy e.2)).sum := by
    induction m generalizing n with
    | nil => rfl
    | cons e r ih =>
      rw [List.foldl_cons, ih, List.map_cons, List.sum_cons, teamLoad]
      split
      · rw [flights, Nat.add_assoc]
      · rw [Nat.zero_add]
  exact (teams 0).trans (Nat.zero_add _)

/-- A team written back with no more requests than it had adds none. -/
theorem requestsOf_cset (busy : Nat → Bool) (m : Cells Team) (k : Nat) (v : Team) (hv : teamLoad busy v ≤ teamLoad busy (cget {} m k)) :
    requestsOf busy (cset {} m k v) ≤ requestsOf busy m := by
  have hempty : teamLoad busy {} = 0 := by simp [teamLoad]
  simp only [requestsOf_sum]
  induction m with
  | nil =>
    rw [cget, hempty] at hv
    unfold cset
    split
    · exact Nat.le_refl _
    · simpa using hv
  | cons e r ih =>
    obtain ⟨a, w⟩ := e
    unfold cget at hv
    unfold cset
    rcases Nat.lt_trichotomy k a with hlt | rfl | hgt
    · rw [if_neg (Nat.ne_of_gt hlt), if_pos hlt, hempty] at hv
      rw [if_pos hlt]
      split
      · exact Nat.le_refl _
      · simp only [List.map_cons, List.sum_cons]
        omega
    · rw [if_pos rfl] at hv
      rw [if_neg (Nat.lt_irrefl k), if_pos rfl]
      split
      · refine Nat.le_trans (((List.dropWhile_suffix _).sublist.map _).sum_le_sum (fun _ _ => Nat.zero_le _)) ?_
        simp
      · simp only [List.map_cons, List.sum_cons]
        omega
    · rw [if_neg (Nat.ne_of_lt hgt), if_neg (Nat.not_lt_of_gt hgt)] at hv
      rw [if_neg (Nat.not_lt_of_gt hgt), if_neg (Nat.ne_of_gt hgt)]
      have hrest := ih hv
      simp only [List.map_cons, List.sum_cons]
      omega

/-- Where memory is: the links to the host, and each die's share of its near store. -/
def State.sites (s : State) : Cells Bool × (Nat → Nat) := (s.links, fun d => (s.die d).share)

theorem placeReached_of_sites {s t : State} (h : t.sites = s.sites) (p : Place) (n : Nat) : placeReached t p n = placeReached s p n := by
  have hlinks : t.links = s.links := congrArg Prod.fst h
  have hshare (d : Nat) : (t.die d).share = (s.die d).share := congrFun (congrArg Prod.snd h) d
  have hpresent (k : Nat) : t.present k = s.present k := by
    unfold State.present
    rw [hshare]
  have hhost : hostUp t = hostUp s := by
    unfold hostUp State.link
    rw [hlinks]
  cases p with
  | phys k =>
    show reaches t k n = reaches s k n
    unfold reaches
    rw [hhost, funext hpresent]
  | _ => rfl

theorem putMem_sites (s : State) (k : Nat) (b : Byte) : (s.putMem k b).sites = s.sites := by
  unfold State.putMem
  split <;> rfl

theorem putHomeBytes_sites (bs : List Byte) (s : State) (k : Nat) : (s.putHomeBytes k bs).sites = s.sites := by
  induction bs generalizing s k with
  | nil => rfl
  | cons b r ih => exact (ih _ _).trans (putMem_sites s k b)

theorem unhide_sites (s : State) (p : Place) (n : Nat) : (s.unhide p n).sites = s.sites := by
  unfold State.unhide
  split <;> rfl

/-- From s to t no team has more memory requests than before, and memory is where it was. -/
def Eases (s t : State) : Prop := (∀ busy, requestsOf busy t.teams ≤ requestsOf busy s.teams) ∧ t.sites = s.sites

theorem Eases.of_same {s t : State} (h : t.teams = s.teams) (hs : t.sites = s.sites) : Eases s t :=
  ⟨fun busy => Nat.le_of_eq (congrArg (requestsOf busy) h), hs⟩

theorem Eases.trans {s t u : State} (h : Eases s t) (k : Eases t u) : Eases s u := ⟨fun busy => Nat.le_trans (k.1 busy) (h.1 busy), k.2.trans h.2⟩

theorem eases_updTeam (s : State) (i : Nat) {f : Team → Team} (hcrew : (f (s.team i)).crew = (s.team i).crew) (hflight : (f (s.team i)).flight = (s.team i).flight) :
    Eases s (s.updTeam i f) := by
  refine ⟨fun busy => requestsOf_cset busy s.teams i (f (s.team i)) (Nat.le_of_eq ?_), rfl⟩
  show teamLoad busy (f (s.team i)) = teamLoad busy (s.team i)
  rw [teamLoad, teamLoad, hcrew, hflight]

theorem eases_foldl {β : Type} (f : State → β → State) (h : ∀ s b, Eases s (f s b)) (l : List β) (s : State) : Eases s (l.foldl f s) := by
  induction l generalizing s with
  | nil => exact .of_same rfl rfl
  | cons b r ih => exact (h s b).trans (ih _)

theorem eases_touch (s : State) (line : Nat) : Eases s (s.touch line) := by
  have wake (s : State) (e : Nat × Team) : Eases s (if e.2.sleepsOn line then s.updTeam e.1 (·.wake) else s) := by
    split
    · refine eases_updTeam s e.1 ?_ ?_
      all_goals
        unfold Team.wake
        split <;> rfl
    · exact .of_same rfl rfl
  have watched : (if s.queues.any (fun e => e.2.watch == some line) then
      { s with queues := s.queues.map (fun e => if e.2.watch = some line then (e.1, { e.2 with lineChanged := true }) else e) } else s).teams = s.teams := by
    split <;> rfl
  have hsites : (if s.queues.any (fun e => e.2.watch == some line) then
      { s with queues := s.queues.map (fun e => if e.2.watch = some line then (e.1, { e.2 with lineChanged := true }) else e) } else s).sites = s.sites := by
    split <;> rfl
  unfold State.touch
  generalize (if s.queues.any (fun e => e.2.watch == some line) then
      { s with queues := s.queues.map (fun e => if e.2.watch = some line then (e.1, { e.2 with lineChanged := true }) else e) } else s) = s1 at watched hsites ⊢
  dsimp only
  split
  · exact (Eases.of_same watched hsites).trans (eases_foldl _ wake _ s1)
  · exact .of_same watched hsites

theorem eases_touchLines (ls : List Nat) (s : State) : Eases s (ls.foldl State.touch s) := eases_foldl State.touch eases_touch ls s

theorem teams_of_staff {s t : State} (h : t.staff = s.staff) : t.teams = s.teams := congrArg (fun x => x.2.1) h

theorem eases_homePut (s : State) (k : Nat) (bs : List Byte) : Eases s (homePut s k bs) :=
  (Eases.of_same (teams_of_staff ((putHomeBytes_staff bs _ k).trans (unhide_staff s _ _)))
    ((putHomeBytes_sites bs _ k).trans (unhide_sites s _ _))).trans (eases_touchLines _ _)

theorem eases_setBits (s : State) (key set : Nat) : Eases s (setBits s key set) := by
  unfold setBits
  dsimp only
  split
  · exact .of_same rfl rfl
  · exact (Eases.of_same (teams_of_staff (putMem_staff s key _)) (putMem_sites s key _)).trans (eases_touchLines _ _)

theorem eases_firstTouch (s : State) (ctx pte key : Nat) (write : Bool) : Eases s (firstTouch s ctx pte key write).1 := by
  unfold firstTouch
  dsimp only
  split
  · exact .of_same rfl rfl
  · refine (eases_homePut s key _).trans (.of_same rfl (Prod.ext rfl (funext fun d => ?_)))
    by_cases hd : d = pteHome pte
    · rw [hd]
      exact (congrArg Die.share (setDie_die _ _ _)).trans (congrFun (congrArg Prod.snd (eases_homePut s key _).2.symm) _)
    · exact congrArg Die.share (setDie_die_ne _ _ _ _ hd)

theorem eases_walk (s : State) (ctx : Nat) (spec : Bool) (acc : Acc) (va : Nat) : Eases s (walk s ctx spec acc va).1 := by
  unfold walk
  split
  · exact .of_same rfl rfl
  · dsimp only
    split
    · exact .of_same rfl rfl
    · exact eases_setBits s.draw.2 _ _
  · next e k _ =>
    have h := eases_firstTouch s ctx e k acc.writes
    split <;> next e => rw [e] at h; exact h

theorem eases_translate (s : State) (a : Agent) (acc : Acc) (va : Nat) : Eases s (translate s a acc va).1 := by
  have hwalk := eases_walk s a.ctx a.spec acc va
  unfold translate
  extract_lets core useLast last part ptlb ctlb keep
  clear_value core useLast last part ptlb ctlb
  have hpart (s : State) (h : Held) : Eases s (match core, part with
      | some c, some p => if a.source = 0 then s.updCore c (fun k => { k with ptlb := cset [] k.ptlb p (tlbPut 64 (cget [] k.ptlb p) h) }) else s
      | _, _ => s) := by
    (repeat' split) <;> exact .of_same rfl rfl
  have hlane (s : State) (h : Held) : Eases s (match a.team, a.lane with
      | some t, some l => if useLast then s.updTeam t (fun t => { t with lastPage := cset [] t.lastPage l [h] }) else s
      | _, _ => s) := by
    split
    · split
      · exact eases_updTeam s _ rfl rfl
      · exact .of_same rfl rfl
    · exact .of_same rfl rfl
  have hkeep (s : State) (h : Held) : Eases s (keep s h) := (hpart s h).trans (hlane _ h)
  split
  · exact .of_same rfl rfl
  · split
    · exact hkeep s _
    · split
      · exact hkeep s _
      · split
        · next e => rw [e] at hwalk; exact hwalk
        · next s1 h e =>
          rw [e] at hwalk
          refine (hwalk.trans (.of_same ?_ ?_)).trans (hkeep _ h)
          all_goals split <;> rfl

theorem eases_place (s : State) (a : Agent) (acc : Acc) (va : Nat) : Eases s (place s a acc va).1 := by
  have h := eases_translate s a acc va
  have hlost (s : State) (key : Nat) : Eases s (hostLost s a key) := by
    unfold hostLost
    (repeat' split) <;> exact .of_same rfl rfl
  unfold place
  split
  · exact .of_same rfl rfl
  · split
    · next e => rw [e] at h; exact h.trans (hlost _ _)
    · next e => rw [e] at h; exact h

theorem outstanding_le {s t : State} (hcrews : t.crews = s.crews) (h : Eases s t) (core : Nat) : outstanding t core ≤ outstanding s core := by
  have hcrew (c : Nat) : t.crew c = s.crew c := crew_of_crews hcrews c
  rw [outstanding_eq, outstanding_eq]
  simp only [hcrew]
  exact h.1 _

/-! ### The bytes after a write -/

/-- The byte at q once bs have been written at p: one of them, or the one before. -/
def putByte (p : Place) (bs : List Byte) (q : Place) (old : Byte) : Byte :=
  match p.covers bs.length q with
  | some o => bs.getD o 0
  | none => old

theorem cget_scratchPut (bs : List Byte) (m : Cells (Option Byte)) (o j : Nat) :
    cget none (scratchPut m o bs) j = if o ≤ j ∧ j < o + bs.length then some (bs.getD (j - o) 0) else cget none m j := by
  induction bs generalizing m o with
  | nil => simp [scratchPut]
  | cons b r ih =>
    rw [scratchPut, ih, List.length_cons]
    rcases Nat.lt_trichotomy j o with hlt | rfl | hgt
    · rw [if_neg (by omega), if_neg (by omega), cget_cset_ne _ _ _ _ _ (by omega)]
    · rw [if_neg (by omega), if_pos (by omega), cget_cset_self, Nat.sub_self, List.getD_cons_zero]
    · rw [show j - o = (j - (o + 1)) + 1 by omega, List.getD_cons_succ, cget_cset_ne _ _ _ _ _ (by omega)]
      exact if_congr (by omega) rfl rfl

theorem byteAt_putPlace (s : State) (w ctx : Nat) {p : Place} {bs : List Byte} (hreach : placeReached s p bs.length = true) (bad : Bool) (hint : Nat)
    (q : Place) : byteAt (putPlace s w ctx p bs bad hint) q = putByte p bs q (byteAt s q) := by
  refine (byteAt_of_stored (touchLines_stored _ _) q).trans ?_
  unfold putByte
  cases p with
  | scratch c o =>
    cases q with
    | phys k => rfl
    | scratch c' o' =>
      dsimp only [Place.covers, byteAt]
      by_cases hc : c = c'
      · subst hc
        rw [State.updCrew, setCrew_crew, scratchAt, cget_scratchPut]
        by_cases hin : o ≤ o' ∧ o' < o + bs.length
        · rw [if_pos hin, if_pos ⟨rfl, hin⟩]
          rfl
        · rw [if_neg hin, if_neg (fun h => hin h.2)]
          rfl
      · rw [State.updCrew, setCrew_crew_ne _ _ _ _ (fun h => hc h.symm), if_neg (fun h => hc h.1)]
    | _ => rfl
  | phys k =>
    simp only [placeReached, reaches, Bool.and_eq_true, Bool.or_eq_true, bne_iff_ne, ne_eq, List.all_eq_true] at hreach
    obtain ⟨hhost, hpresent⟩ := hreach
    have hrew := rewrites_stored s k bs.length
    have hput (j : Nat) := putDevBytes_devByte (s.rewrites k bs.length) w ctx k bs hint j
      (fun i hi => (congrArg (fun x : State => x.present (k + i)) hrew :).trans (hpresent (k + i) (mem_span.2 (by omega))))
      (fun hk => (hostUp_of_stored hrew).trans (hhost.resolve_left (fun h => h hk)))
    cases q with
    | phys j =>
      refine (hput j).trans ?_
      dsimp only [Place.covers, byteAt]
      by_cases hin : k ≤ j ∧ j < k + bs.length
      · rw [if_pos hin, if_pos hin]
      · rw [if_neg hin, if_neg hin]
        exact (congrArg (State.devByte · j) hrew :)
    | scratch c o =>
      have hcrews : ((s.rewrites k bs.length).putDevBytes w ctx k bs hint).crews = s.crews := by
        exact (congrArg (fun x => x.2.2) (putDevBytes_staff _ w ctx k bs hint) :).trans (congrArg (fun x => x.2.2) (rewrites_staff s k _) :)
      exact (congrArg (fun m => scratchAt (cget {} m c) o) hcrews :)
    | _ => rfl
  | _ => cases hreach

theorem byteAt_of_uncached {s t : State} (h : t.uncached = s.uncached) (q : Place) : byteAt t q = byteAt s q := by
  rw [eq_of_uncached h]
  cases q <;> rfl

/-! ### Room for requests -/

theorem eases_settled (s : State) : Eases s s.settled := ⟨fun busy => requestsOf_cset busy s.teams s.cur s.me (Nat.le_refl _), rfl⟩

/-- A team's core that has room for a request of each lane has room for as many as its passes make. -/
theorem reqRoom_ok {s s' : State} (hfit : requestsFit s = true) (hease : Eases s s') (hcrews : s'.crews = s.crews)
    (hteam : (s'.team s.cur).crew = s.me.crew) (op : Nat) (ps : List Pass) {reqs : List Nat} (hreqs : reqs.sum ≤ s.me.lanes) :
    reqRoom s' s.cur op ps reqs = .ok () := by
  have hcore : (s'.teamCrew s.cur).core = (s.crew s.me.crew).core := by
    rw [State.teamCrew, hteam, crew_of_crews hcrews]
  have hout := outstanding_le hcrews hease (s.crew s.me.crew).core
  have hroom := of_decide_eq_true hfit
  unfold reqRoom
  rw [hcore]
  exact if_pos (by omega)

/-! ### Stores -/

/-- Stores of one lane, of a crew that does not draft. -/
theorem storeLanes_one {s' : State} {ti op : Nat} {x : LaneAddr × Place} (hflight : (s'.team ti).flight = [])
    (hdraft : (s'.crew (s'.team ti).crew).drafting = false) (val : LaneAddr → List Byte) :
    storeLanes s' ti op none [x] val = shareWrite (cacheStores s' ti op [x]) (s'.crew (s'.team ti).crew).core (s'.crew (s'.team ti).crew).ctx x.2 (val x.1)
      false (hintOf (cacheStores s' ti op [x]) ti op x.1) := by
  have hclose : closeWords s' ti (laneWords [x]) = s' := closeSome_nil _ hflight
  unfold storeLanes
  simp only [hclose, hdraft, Bool.false_and, Bool.false_eq_true, if_false, List.foldl_cons, List.foldl_nil]

theorem cacheStores_uncached (s : State) (ti op : Nat) (xs : List (LaneAddr × Place)) : (cacheStores s ti op xs).uncached = s.uncached :=
  foldl_keeps (fun s (x : LaneAddr × Place) => storeLine s (s.teamCrew ti).core x.2 (hintOf s ti op x.1)) State.uncached
    (fun s _ => storeLine_uncached s _ _ _) _ s

theorem stored_of_uncached {s t : State} (h : t.uncached = s.uncached) : t.stored = s.stored := by
  rw [eq_of_uncached h]
  rfl

/-- A write that other cores may see later, byte by byte. -/
theorem byteAt_shared {s t : State} (h : t.stored = s.stored) (w ctx : Nat) {p : Place} {bs : List Byte} (hreach : placeReached s p bs.length = true)
    (bad : Bool) (hint : Nat) (q : Place) : byteAt (shareWrite t w ctx p bs bad hint) q = putByte p bs q (byteAt s q) :=
  (byteAt_of_stored (shareWrite_stored h w ctx p bs bad hint) q).trans (byteAt_putPlace s w ctx hreach bad hint q)

/-! ### LDN and STN -/

section
variable {s s' : State} {a : Opnd} {off : BitVec 8} {va : Nat} {p : Place} {acc : Acc} (h : ready s = true) (ha : okS a = true)
  (hva : va = wrapN 64 ((sVal s.me a).toNat + off.toInt * 8)) (halign : va % 8 = 0) (hlt : va < 2 ^ 52)
  (hwin : winLo ≤ va → windowPlace s (teamAgent s s.cur none) va ≠ .prot ∧ windowPlace s (teamAgent s s.cur none) (va + 7) ≠ .prot)
  (hreach : placeReached s p 8 = true) (hfit : requestsFit s = true) (hp : place s.settled (teamAgent s s.cur none) acc va = (s', p))
include hp

/-- What the one access of a team as a whole leaves of the machine. -/
theorem accessed_keeps : s'.lasting = s.lasting ∧ s'.crews = s.crews ∧ Eases s s' := by
  have hl := place_lasting s.settled (teamAgent s s.cur none) acc va
  have hm := place_crews s.settled (teamAgent s s.cur none) acc va
  have he := eases_place s.settled (teamAgent s s.cur none) acc va
  rw [hp] at hl hm he
  exact ⟨hl.trans (settled_lasting s), hm, (eases_settled s).trans he⟩

include halign hlt hwin hreach
theorem uniformPlace_settled : uniformPlace s.settled s.cur acc va 8 true = .ok (s', p) := by
  rw [← settled_agent] at hp
  refine uniformPlace_ok (fun _ => halign) hlt (fun hlo => ?_) hp ?_
  · rw [settled_agent]
    exact hwin hlo
  · cases p with
    | phys k => exact .inl ⟨k, rfl⟩
    | scratch c o => exact .inr ⟨c, o, rfl⟩
    | _ => cases hreach

include h ha hva hfit
theorem ldn_runs (hacc : acc = .load) (d : Fin 64) (hbad : (loadRead s' s.me.crew p 8).2 = false) :
    ∃ t, exec (.ldn (.s d) a off) s = .next t ∧ t.me.pc = nextPc s.me.pc 1 ∧ t.me.status = .run ∧
      (∃ w, (w = (Reg.s d.val, 0, w64 (ofLE (loadRead s' s.me.crew p 8).1))) ∧
        ((∃ x ∈ t.me.pend, x.il = true ∧ (x.reg, x.lane, x.val) = w) ∨ (∃ f ∈ t.me.flight, w ∈ f.writes))) ∧
      (∀ q, byteAt t q = byteAt s' q) := by
  subst hacc
  obtain ⟨u, hu, hok, -⟩ := uniform_run h (fields := [fld (.s d) okSreg, fld a okS]) (by simp [fld, ha, okSreg])
    (show exec (.ldn (.s d) a off) s = execLdn (.s d) a off s from rfl) rfl
  obtain ⟨hl, hcrews, hease⟩ := accessed_keeps hp
  have hplace := uniformPlace_settled halign hlt hwin hreach hp
  have hlast := team_of_lasting hl s.cur
  have hflight : (s'.team s.cur).flight = [] := (congrArg Team.flight hlast :).trans (ready_flight h)
  have hclose : closeWords s' s.cur [p.word] = s' := closeSome_nil _ hflight
  have hone : [if quickPlace s' s.cur p then 0 else 1].sum ≤ s.me.lanes := by
    have hlanes : 1 ≤ s.me.lanes := Nat.one_le_two_pow
    split <;> simp [hlanes]
  have hroom := reqRoom_ok hfit hease hcrews (congrArg Team.crew hlast :) 0x90 u.ps hone
  let s2 : State := if (s'.crew s.me.crew).drafting then fillLine s' (s'.teamCrew s.cur).core p (pageHint s' s.cur 0xFFFF va) else s'
  have hexec : exec (.ldn (.s d) a off) s = .next (u.load s2 va p (.s d) (ofLE (loadRead s' s.me.crew p 8).1)) := by
    refine hok _ ?_
    simp only [hu.rd h ha, ← hva, hu.state, hplace, ok_bind, hu.poison, hclose, hbad, Bool.false_eq_true, if_false, hroom, s2]
  have hs2 : s2.uncached = s'.uncached := by
    dsimp only [s2]
    split
    · exact fillLine_uncached s' _ _ _
    · rfl
  clear_value s2
  have hl2 : s2.lasting = s.lasting := (lasting_of_uncached hs2).trans hl
  have hbytes (q : Place) : byteAt s2 q = byteAt s' q := byteAt_of_uncached hs2 q
  generalize hv : ofLE (loadRead s' s.me.crew p 8).1 = v at hexec ⊢
  unfold UCtx.load at hexec
  split at hexec
  · have honly := hu.done_only s2 [(.s d, v)] 4 true
    obtain ⟨hpc, hst⟩ := hu.done_goes hl2 [(.s d, v)] 4 true
    refine ⟨_, hexec, hpc, hst, ⟨_, rfl, .inl ⟨{ reg := .s d.val, lane := 0, val := w64 v, due := u.c + 4, pc := s.me.pc, il := true }, ?_, rfl, rfl⟩⟩,
      fun q => (honly.byteAt q).trans (hbytes q)⟩
    have hpend : ((u.done s2 [(.s d, v)] 4 true).team s.cur).pend = (s2.team s.cur).pend ++ doneWrites s.me u.c 4 true [(.s d, v)] :=
      (congrArg Team.pend (hu.done_me s2 [(.s d, v)] 4 true) :)
    rw [State.me, honly.cur, cur_of_lasting hl2, hpend]
    exact List.mem_append_right _ List.mem_cons_self
  · rw [hu.ti] at hexec
    have hdst : dstWrites u.t true (.s d) u.c 0 v = [(Reg.s d.val, 0, w64 v)] := rfl
    rw [hdst] at hexec
    let f : Team → InFlight := fun t => { id := t.nIssued, kind := .mem, regs := [.s d.val], writes := [(.s d.val, 0, w64 v)], reqs := 1,
                                          late := (lateLoad s2 s.cur 8 (pageHint s2 s.cur 0xFFFF va) ({ lane := 0xFFFF, at_ := u.c, va := va }, p) [(.s d.val, 0, w64 v)]).toList }
    have hexec' : exec (.ldn (.s d) a off) s = .next (u.done (s2.updTeam s.cur (fun t => { t with flight := t.flight ++ [f t] })) [] 0) := hexec
    have honly := hu.done_only (s2.updTeam s.cur (fun t => { t with flight := t.flight ++ [f t] })) [] 0 false
    have hme := hu.done_me (s2.updTeam s.cur (fun t => { t with flight := t.flight ++ [f t] })) [] 0 false
    rw [updTeam_team] at hme
    have hcur : (u.done (s2.updTeam s.cur (fun t => { t with flight := t.flight ++ [f t] })) [] 0).cur = s.cur :=
      honly.cur.trans (cur_of_lasting (t := s2) hl2)
    refine ⟨_, hexec', ?_, ?_, ⟨_, rfl, .inr ⟨f (s2.team s.cur), ?_, List.mem_cons_self⟩⟩,
      fun q => (honly.byteAt q).trans ((byteAt_updTeam _ _ _ q).trans (hbytes q))⟩
    · rw [State.me, hcur]
      exact (congrArg Team.pc hme :).trans (congrArg (nextPc · 1) (congrArg Team.pc (team_of_lasting hl2 s.cur) :))
    · rw [State.me, hcur]
      exact hu.done_status _ _ _ _
    · have hfl : ((u.done (s2.updTeam s.cur (fun t => { t with flight := t.flight ++ [f t] })) [] 0).team s.cur).flight =
          (s2.team s.cur).flight ++ [f (s2.team s.cur)] := (congrArg Team.flight hme :)
      rw [State.me, hcur, hfl]
      exact List.mem_append_right _ List.mem_cons_self

theorem stn_runs (hacc : acc = .store) {sd : Opnd} (hsd : okS sd = true) (hdraft : (s'.crew s.me.crew).drafting = false) :
    ∃ t, exec (.stn sd a off) s = .next t ∧ t.me.pc = nextPc s.me.pc 1 ∧ t.me.status = .run ∧ t.me.pend = [] ∧
      (∀ q, byteAt t q = match p.covers 8 q with
        | some o => (leBytes 8 (sVal s.me sd).toNat).getD o 0
        | none => byteAt s' q) := by
  subst hacc
  obtain ⟨u, hu, hok, -⟩ := uniform_run h (fields := [fld sd okS, fld a okS]) (by simp [fld, ha, hsd])
    (show exec (.stn sd a off) s = execStn sd a off s from rfl) rfl
  obtain ⟨hl, hcrews, hease⟩ := accessed_keeps hp
  have hplace := uniformPlace_settled halign hlt hwin hreach hp
  have hlast := team_of_lasting hl s.cur
  have hcrew : (s'.team s.cur).crew = s.me.crew := (congrArg Team.crew hlast :)
  have hflight : (s'.team s.cur).flight = [] := (congrArg Team.flight hlast :).trans (ready_flight h)
  have hone : [if quickPlace s' s.cur p then 0 else 1].sum ≤ s.me.lanes := by
    have hlanes : 1 ≤ s.me.lanes := Nat.one_le_two_pow
    split <;> simp [hlanes]
  have hroom := reqRoom_ok hfit hease hcrews hcrew 0x91 u.ps hone
  let s2 : State := storeLanes s' s.cur 0x91 none [({ lane := 0xFFFF, at_ := u.c, va := va }, p)] (fun _ => leBytes 8 (sVal s.me sd).toNat)
  have hexec : exec (.stn sd a off) s = .next (u.done s2 [] 0) := by
    refine hok _ ?_
    simp only [hu.rd h ha, hu.rd h hsd, ← hva, hu.state, hplace, ok_bind, hu.poison, hroom, s2]
  have hone := storeLanes_one (op := 0x91) (x := ({ lane := 0xFFFF, at_ := u.c, va := va }, p)) hflight (hcrew ▸ hdraft) (fun _ => leBytes 8 (sVal s.me sd).toNat)
  have hcache := cacheStores_uncached s' s.cur 0x91 [({ lane := 0xFFFF, at_ := u.c, va := va }, p)]
  have hl2 : s2.lasting = s.lasting := by
    refine (congrArg State.lasting hone).trans ((shareWrite_lasting _ _ _ _ _ _ _).trans ((lasting_of_uncached hcache).trans hl))
  have hbytes (q : Place) : byteAt s2 q = putByte p (leBytes 8 (sVal s.me sd).toNat) q (byteAt s' q) := by
    refine (congrArg (byteAt · q) hone).trans (byteAt_shared (stored_of_uncached hcache) _ _ ?_ _ _ q)
    rw [leBytes_length, placeReached_of_sites hease.2]
    exact hreach
  clear_value s2
  obtain ⟨hpc, hst⟩ := hu.done_goes hl2 [] 0 false
  have honly := hu.done_only s2 [] 0 false
  refine ⟨_, hexec, hpc, hst, ?_, fun q => (honly.byteAt q).trans ((hbytes q).trans ?_)⟩
  · have hpend : ((u.done s2 [] 0).team s.cur).pend = (s2.team s.cur).pend ++ [] := (congrArg Team.pend (hu.done_me s2 [] 0 false) :)
    rw [State.me, honly.cur, cur_of_lasting hl2, hpend, List.append_nil]
    exact (congrArg Team.pend (team_of_lasting hl2 s.cur) :).trans (ready_pend h)
  · unfold putByte
    rw [leBytes_length]

end

/-! ### Responses -/

/-- The lines of loads performed when their response comes come into the caches. -/
def responded (s : State) (ti : Nat) (f : InFlight) : State := f.late.foldl (fun s l => fillLine s (s.teamCrew ti).core (.phys l.key) l.hint) s

theorem responded_uncached (s : State) (ti : Nat) (f : InFlight) : (responded s ti f).uncached = s.uncached :=
  foldl_keeps (fun s (l : LateLoad) => fillLine s (s.teamCrew ti).core (.phys l.key) l.hint) State.uncached (fun s _ => fillLine_uncached s _ _ _) _ s

/-- The only result of a team in flight is a memory access's: it lands with the values read at issue, or with those that the core sees by now. -/
theorem memResponseReturn_runs {s : State} {ti : Nat} {f : InFlight} (hflight : (s.team ti).flight = [f]) (hkind : f.kind = .mem) :
    ∃ s1 g, exec (.memResponseReturn ti 0) s = .next (landFlight s1 ti 0 []) ∧ (s1.team ti).flight = [g] ∧
      (g.writes = f.writes ∨ f.late ≠ [] ∧ g.writes = lateWrites s (s.team ti).crew f) ∧ (s1.team ti).pend = (s.team ti).pend ∧
      (s1.team ti).pc = (s.team ti).pc ∧ (∀ j, j ≠ ti → s1.team j = s.team j) ∧ s1.mem = s.mem ∧ s1.l2 = s.l2 := by
  have hun := responded_uncached s ti f
  have hteam := team_of_uncached hun
  have hmem : (responded s ti f).mem = s.mem := (congrArg State.mem hun :)
  have hl2 : (responded s ti f).l2 = s.l2 := (congrArg State.l2 hun :)
  have hhead : (s.team ti).flight[0]? = some f := by rw [hflight]; rfl
  by_cases hlate : (!f.late.isEmpty && Config.lateRead s.fresh) = true
  · let g : InFlight := { f with writes := lateWrites s (s.team ti).crew f, late := [] }
    refine ⟨(responded s ti f).updTeam ti (fun t => { t with flight := t.flight.map (fun x => if x == f then
      { x with writes := lateWrites s (s.team ti).crew f, late := [] } else x) }), g, ?_, ?_,
      .inr ⟨?_, rfl⟩, ?_, ?_, fun j hj => (updTeam_team_ne _ _ _ _ hj).trans (hteam j), hmem, hl2⟩
    · show Host.Outcome.next _ = _
      rw [hhead]
      dsimp only
      rw [if_neg (not_not.2 hkind), if_pos hlate]
      rfl
    · rw [updTeam_team, hteam, hflight]
      simp [g]
    · intro hnone
      rw [hnone] at hlate
      cases hlate
    · rw [updTeam_team, hteam]
    · rw [updTeam_team, hteam]
  · refine ⟨responded s ti f, f, ?_, (congrArg Team.flight (hteam ti)).trans hflight, .inl rfl, congrArg Team.pend (hteam ti), congrArg Team.pc (hteam ti),
      fun j _ => hteam j, hmem, hl2⟩
    show Host.Outcome.next _ = _
    rw [hhead]
    dsimp only
    rw [if_neg (not_not.2 hkind), if_neg hlate]
    rfl

theorem landFlight_others (s : State) (ti i : Nat) (more : List (Reg × Nat × W64)) :
    (∀ j, j ≠ ti → (landFlight s ti i more).team j = s.team j) ∧ (landFlight s ti i more).mem = s.mem ∧ (landFlight s ti i more).l2 = s.l2 := by
  unfold landFlight
  dsimp only
  split
  · exact ⟨fun _ _ => rfl, rfl, rfl⟩
  · exact ⟨fun j hj => updTeam_team_ne _ _ _ _ hj, rfl, rfl⟩

/-- Settles O26. -/
theorem uniformAccessesAndResponses : Obligations.UniformAccessesAndResponses := by
  unfold Obligations.UniformAccessesAndResponses
  refine ⟨fun s s' d sd a off va p h ha hsd hva halign hlt hwin hreach hfit => ⟨fun hp hbad => ?_, fun hp hdraft => ?_⟩, fun s ti f hflight hkind => ?_⟩
  · exact ldn_runs h ha hva halign hlt hwin hreach hfit hp rfl d hbad
  · exact stn_runs h ha hva halign hlt hwin hreach hfit hp rfl hsd hdraft
  · obtain ⟨s1, g, hexec, hone, hwrites, hpend, hpc, hothers, hmem, hl2⟩ := memResponseReturn_runs hflight hkind
    obtain ⟨hempty, due, hland⟩ := landFlight_team [] hone
    obtain ⟨hrest, hmem', hl2'⟩ := landFlight_others s1 ti 0 []
    refine ⟨_, due, g.writes, hexec, hempty, hwrites, ?_, fun j hj => (hrest j hj).trans (hothers j hj), hmem'.trans hmem, hl2'.trans hl2⟩
    rw [hland, hpend, hpc, List.append_nil]

end Sys2Proof.Machine
end

section
/-! SUPPORT. Memory instructions whose lanes' addresses have a place without a walk (18 R346 to R352, 10 R198): what they have before they act, and
with it the stores: O24. -/

namespace Sys2Proof.Machine

/-! ### Lanes whose addresses have a place -/

/-- Every lane that takes part has a place for its access, which no walk is needed for. -/
def AtSpots (s : State) (acc : Acc) (f : MemForm) (p : Nat → Place) : Prop :=
  ∀ l, writesLane s.me false l → spot s acc (tySize (mrType s.me.mr)) l (f.addr s.me (tySize (mrType s.me.mr)) 0 l) = some (p l)

/-- The lanes' accesses with their places, pass by pass. -/
def laneSpots (t : Team) (f : MemForm) (ps : List Pass) (p : Nat → Place) : List (List (LaneAddr × Place)) :=
  (laneAddrs t f ps).map (fun g => g.map (fun x => (x, p x.lane)))

theorem spot_cases {s : State} {acc : Acc} {e l va : Nat} {p : Place} (h : spot s acc e l va = some p) : va % e = 0 ∧ va < 2 ^ 52 ∧
    ((va < winLo ∧ ∃ x, (cget [] s.me.lastPage l).find? (·.serves (teamAgent s s.cur none).ctx acc va) = some x ∧ reaches s (x.key va) e = true ∧
        p = .phys (x.key va)) ∨
      (winLo ≤ va ∧ windowPlace s (teamAgent s s.cur none) va ≠ .prot ∧ windowPlace s (teamAgent s s.cur none) (va + e - 1) ≠ .prot ∧
        p = windowPlace s (teamAgent s s.cur none) va)) := by
  unfold spot at h
  dsimp only at h
  split at h
  · cases h
  · next hva =>
    have hcanon : va % e = 0 ∧ va < 2 ^ 52 := by omega
    refine ⟨hcanon.1, hcanon.2, ?_⟩
    split at h
    · next hlo =>
      split at h
      · next x hx =>
        split at h
        · next hr =>
          cases h
          exact .inl ⟨hlo, x, hx, hr, rfl⟩
        · cases h
      · cases h
    · next hlo =>
      split at h
      · cases h
      · next hw => exact .inr ⟨Nat.not_lt.1 hlo, fun hc => hw (.inl hc), fun hc => hw (.inr hc), (Option.some.inj h).symm⟩

/-- A place of an access is memory that can be reached, or scratch. -/
theorem spot_reached {s : State} {acc : Acc} {e l va : Nat} {p : Place} (h : spot s acc e l va = some p) : placeReached s p e = true := by
  obtain ⟨-, -, hwhere⟩ := spot_cases h
  obtain ⟨-, x, -, hr, hp⟩ | ⟨-, hw, -, hp⟩ := hwhere
  · rw [hp]
    exact hr
  · obtain hc | ⟨c, o, hc⟩ := windowPlace_cases s (teamAgent s s.cur none) va
    · exact absurd hc hw
    · rw [hp, hc]
      rfl

/-- Addresses that all have a place pass their checks. -/
theorem addrChecks_spots {s : State} {acc : Acc} {e : Nat} {ls : List LaneAddr} {p : Nat → Place} (h : ∀ x ∈ ls, spot s acc e x.lane x.va = some (p x.lane)) :
    addrChecks s (teamAgent s s.cur none) e ls = .ok () := by
  have hmis : ls.find? (fun x => x.va % e != 0) = none := List.find?_eq_none.2 fun x hx => by
    obtain ⟨halign, -, -⟩ := spot_cases (h x hx)
    simp [halign]
  have hcanon : ls.find? (fun x => decide (2 ^ 52 ≤ x.va)) = none := List.find?_eq_none.2 fun x hx => by
    obtain ⟨-, hva, -⟩ := spot_cases (h x hx)
    simp only [decide_eq_true_eq]
    omega
  have hprot : ls.find? (fun x => decide (winLo ≤ x.va) && (windowPlace s (teamAgent s s.cur none) x.va == .prot ||
      windowPlace s (teamAgent s s.cur none) (x.va + e - 1) == .prot)) = none := List.find?_eq_none.2 fun x hx => by
    obtain ⟨-, -, ⟨hlo, -⟩ | ⟨-, hfirst, hlast, -⟩⟩ := spot_cases (h x hx)
    · simp [Nat.not_le.2 hlo]
    · simp [hfirst, hlast]
  rw [addrChecks, hmis]
  dsimp only
  rw [hcanon]
  dsimp only
  rw [hprot]

/-- An access that has a place goes there, and its translation leaves the machine as it was. -/
theorem place_spot {s : State} {acc : Acc} {e l va : Nat} {p : Place} (h : spot s acc e l va = some p) (hacc : acc ≠ .fetch) :
    place s.settled (teamAgent s.settled s.cur (some l)) acc va = (s.settled, p) := by
  have hteam : s.settled.team s.cur = s.me := settled_team s
  have hagent : teamAgent s.settled s.cur (some l) = teamAgent s s.cur (some l) := settled_agent s (some l)
  rw [hagent]
  obtain ⟨-, hva, hwhere⟩ := spot_cases h
  obtain ⟨hlo, x, hx, hr, hp⟩ | ⟨hlo, hw, -, hp⟩ := hwhere
  · have hclass : addrClass s.settled (teamAgent s s.cur (some l)) va = none := by
      rw [addrClass, if_neg (by omega), if_neg (by omega)]
    have hlast : translate s.settled (teamAgent s s.cur (some l)) acc va = (s.settled, .ok (x.key va)) := by
      have huse : (acc != .fetch) = true := bne_iff_ne.2 hacc
      unfold translate
      simp only [teamAgent, hteam, huse, beq_self_eq_true, Bool.and_self, if_true]
      rw [show (cget [] s.me.lastPage l).find? (·.serves (s.crew (s.team s.cur).crew).ctx acc va) = some x from hx]
    have hkept : hostLost s.settled (teamAgent s s.cur (some l)) (x.key va) = s.settled := by
      simp only [reaches, Bool.and_eq_true, Bool.or_eq_true, bne_iff_ne, ne_eq] at hr
      refine if_neg (fun hc => hr.1.elim (fun hk => hk hc.1) (fun hup => ?_))
      have hdown : hostUp s = false := hc.2
      rw [hup] at hdown
      cases hdown
    unfold place
    rw [hclass]
    dsimp only
    rw [hlast]
    dsimp only
    rw [hkept, hp]
  · have hclass : addrClass s.settled (teamAgent s s.cur (some l)) va = some (windowPlace s (teamAgent s s.cur none) va) := by
      rw [addrClass, if_neg (by omega), if_pos hlo]
      rfl
    unfold place
    rw [hclass, hp]

theorem translatePass_spots {s : State} {acc : Acc} {e : Nat} (hacc : acc ≠ .fetch) {p : Nat → Place} {g : List LaneAddr}
    (h : ∀ x ∈ g, spot s acc e x.lane x.va = some (p x.lane)) :
    translatePass s.settled s.cur acc g = (s.settled, g.map (fun x => (x, p x.lane)), []) := by
  induction g with
  | nil => rfl
  | cons x r ih =>
    have hx := h x List.mem_cons_self
    have hr := ih (fun y hy => h y (List.mem_cons_of_mem _ hy))
    have hplace := place_spot hx hacc
    have hreach := spot_reached hx
    rw [translatePass, hplace]
    dsimp only
    rw [hr]
    dsimp only
    cases hp : p x.lane with
    | phys k => rw [List.map_cons, hp]
    | scratch c o => rw [List.map_cons, hp]
    | _ => rw [hp] at hreach; cases hreach

theorem translatePasses_spots {s : State} {acc : Acc} {e : Nat} (hacc : acc ≠ .fetch) (every : Bool) {p : Nat → Place} {gs : List (List LaneAddr)}
    (h : ∀ g ∈ gs, ∀ x ∈ g, spot s acc e x.lane x.va = some (p x.lane)) :
    translatePasses s.settled s.cur acc every gs = (s.settled, gs.map (fun g => g.map (fun x => (x, p x.lane))), none) := by
  induction gs with
  | nil => rfl
  | cons g r ih =>
    rw [translatePasses, translatePass_spots hacc (h g List.mem_cons_self)]
    dsimp only
    rw [ih (fun y hy => h y (List.mem_cons_of_mem _ hy))]
    rfl

/-! ### Requests of the passes -/

theorem insertNew_length (l : List Nat) (a : Nat) : (insertNew l a).length ≤ l.length + 1 := by
  unfold insertNew
  split
  · omega
  · simp

theorem insertAll_length (xs l : List Nat) : (xs.foldl insertNew l).length ≤ l.length + xs.length := by
  induction xs generalizing l with
  | nil => simp
  | cons x r ih =>
    have h1 := ih (insertNew l x)
    have h2 := insertNew_length l x
    rw [List.foldl_cons, List.length_cons]
    omega

/-- A pass makes at most one request for each of its lanes. -/
theorem passRequests_le (s : State) (ti : Nat) (acc : Acc) (xs : List (LaneAddr × Place)) : passRequests s ti acc xs ≤ xs.length := by
  unfold passRequests
  dsimp only
  generalize hout : xs.filter (fun x => !quickPlace s ti x.2) = out
  have hle : out.length ≤ xs.length := hout ▸ List.length_filter_le _ _
  have hsplit := List.length_eq_length_filter_add (l := out) (fun x => servedByLast s ti acc x.1)
  have hlines := insertAll_length ((out.filter (fun x => !servedByLast s ti acc x.1)).map (·.2.line)) []
  rw [List.length_map, List.length_nil] at hlines
  omega

theorem requests_le {s : State} {ti : Nat} {acc : Acc} (gs : List (List (LaneAddr × Place))) : (gs.map (passRequests s ti acc)).sum ≤ gs.flatten.length := by
  induction gs with
  | nil => simp
  | cons g r ih =>
    have hg := passRequests_le s ti acc g
    rw [List.map_cons, List.sum_cons, List.flatten_cons, List.length_append]
    omega

/-! ### What a memory instruction has before it acts -/

/-- What a memory instruction of lanes with places has before it acts. -/
def spotted (s : State) (f : MemForm) (acc : Acc) (p : Nat → Place) (ps : List Pass) : MemReady :=
  { s := s.settled, ps := ps, groups := laneSpots s.me f ps p, fault := none, bad := none, early := .ok (),
    reqs := (laneSpots s.me f ps p).map (passRequests s.settled s.cur acc) }

/-- The lanes' accesses in order. -/
def spotLanes (s : State) (f : MemForm) (p : Nat → Place) (ps : List Pass) : List (LaneAddr × Place) := (laneSpots s.me f ps p).flatten

theorem spotLanes_eq (s : State) (f : MemForm) (p : Nat → Place) (ps : List Pass) :
    spotLanes s f p ps = (laneAddrs s.me f ps).flatten.map (fun x => (x, p x.lane)) := by
  rw [spotLanes, laneSpots, List.map_flatten]

/-- A memory instruction of a ready team whose lanes' addresses have places is ready to act. -/
theorem memReady_spots {s : State} {f : MemForm} {reads : List (Opnd × Nat)} {acc : Acc} {p : Nat → Place} (h : ready s = true)
    (hf : f.fields.all (·.2) = true) (hty : (f.tyOk && dqTyOk s.me.mr reads) = true) (hreach : WithinRegs s.me ((f.d, f.dN) :: f.addrOps))
    (hdone : s.me.doneLanes = 0) (hat : AtSpots s acc f p) (hacc : acc ≠ .fetch) (every : Bool)
    {before : State → List LaneAddr → State} (hbefore : ∀ l, before s.settled l = s.settled) :
    ∃ ps : List Pass, ps.map (fun p => (p.lo, p.n)) = passWords s.me (mr64 s.me.mr) ∧
      memReady s s.cur s.me f reads acc every before = .ok (spotted s f acc p ps) := by
  obtain ⟨ps, hps, hrun⟩ := memReady_run h hf hty hreach hdone acc every before
  have hspot (x : LaneAddr) (hx : x ∈ (laneAddrs s.me f ps).flatten) : spot s acc (tySize (mrType s.me.mr)) x.lane x.va = some (p x.lane) := by
    have hl : x.lane ∈ parts s.me := laneAddrs_lanes (ready_lanes h).1 f hps ▸ List.mem_map_of_mem hx
    rw [laneAddrs_va s.me f ps hx]
    exact hat _ (mem_parts.1 hl)
  have hready : readied s f acc every before ps = spotted s f acc p ps := by
    unfold readied spotted laneSpots
    dsimp only
    rw [hbefore, translatePasses_spots hacc every (fun g hg x hx => hspot x (List.mem_flatten_of_mem hg hx))]
  refine ⟨ps, hps, ?_⟩
  rw [hrun, addrChecks_spots hspot, hready]
  rfl

/-- The core has room for the requests of lanes with places. -/
theorem spotted_room {s : State} (h : ready s = true) (hfit : requestsFit s = true) (f : MemForm) (acc : Acc) (p : Nat → Place) {ps : List Pass}
    (hps : ps.map (fun p => (p.lo, p.n)) = passWords s.me (mr64 s.me.mr)) (op : Nat) : (spotted s f acc p ps).room s.cur op = .ok () := by
  refine reqRoom_ok hfit (eases_settled s) rfl (congrArg Team.crew (settled_team s)) op ps ?_
  have hlen : (laneSpots s.me f ps p).flatten.length = (parts s.me).length := by
    have hl := congrArg List.length (spotLanes_eq s f p ps)
    rw [List.length_map] at hl
    refine hl.trans ?_
    rw [← laneAddrs_lanes (ready_lanes h).1 f hps, List.length_map]
  have hparts : (parts s.me).length ≤ s.me.lanes := (List.length_filter_le _ _).trans (Nat.le_of_eq List.length_range)
  exact (requests_le _).trans (by omega)

/-! ### What writes leave of the teams, and of where memory is -/

/-- From s to t no byte of memory has moved, every crew's core and context are the same, and a team is as it was or, when it slept, woken. -/
structure Wakes (s t : State) : Prop where
  sites : t.sites = s.sites
  cur : t.cur = s.cur
  teams : ∀ j, t.team j = s.team j ∨ t.team j = (s.team j).wake

theorem Wakes.trans {s t u : State} (h : Wakes s t) (k : Wakes t u) : Wakes s u := by
  refine ⟨k.sites.trans h.sites, k.cur.trans h.cur, fun j => ?_⟩
  obtain hk | hk := k.teams j <;> obtain hh | hh := h.teams j
  · exact .inl (hk.trans hh)
  · exact .inr (hk.trans hh)
  · exact .inr (hk.trans (congrArg Team.wake hh))
  · exact .inr (hk.trans ((congrArg Team.wake hh).trans (wake_wake _)))

theorem Wakes.of_same {s t : State} (hsites : t.sites = s.sites) (hstaff : t.staff = s.staff) : Wakes s t :=
  ⟨hsites, congrArg Prod.fst hstaff, fun j => .inl (congrArg (fun m => cget ({} : Team) m j) (teams_of_staff hstaff))⟩

theorem Wakes.foldl {β : Type} {f : State → β → State} (h : ∀ s b, Wakes s (f s b)) (l : List β) (s : State) : Wakes s (l.foldl f s) := by
  induction l generalizing s with
  | nil => exact .of_same rfl rfl
  | cons b r ih => exact (h s b).trans (ih _)

theorem Wakes.of_uncached {s t : State} (h : t.uncached = s.uncached) : Wakes s t :=
  .of_same (congrArg State.sites h :) (congrArg State.staff h :)

theorem touch_wakes (s : State) (line : Nat) : Wakes s (s.touch line) := by
  have wake (s : State) (e : Nat × Team) : Wakes s (if e.2.sleepsOn line then s.updTeam e.1 (·.wake) else s) := by
    split
    · refine ⟨rfl, rfl, fun j => ?_⟩
      by_cases hj : j = e.1
      · rw [hj]
        exact .inr (updTeam_team _ _ _)
      · exact .inl (updTeam_team_ne _ _ _ _ hj)
    · exact .of_same rfl rfl
  have watched : Wakes s (if s.queues.any (fun e => e.2.watch == some line) then
      { s with queues := s.queues.map (fun e => if e.2.watch = some line then (e.1, { e.2 with lineChanged := true }) else e) } else s) := by
    split <;> exact .of_same rfl rfl
  unfold State.touch
  generalize (if s.queues.any (fun e => e.2.watch == some line) then
      { s with queues := s.queues.map (fun e => if e.2.watch = some line then (e.1, { e.2 with lineChanged := true }) else e) } else s) = s1 at watched ⊢
  dsimp only
  split
  · exact watched.trans (.foldl wake _ s1)
  · exact watched

theorem rewrites_sites (s : State) (k n : Nat) : (s.rewrites k n).sites = s.sites := by
  unfold State.rewrites
  dsimp only
  split <;> rfl

theorem putOverBytes_sites (bs : List Byte) (s : State) (k : Nat) : (s.putOverBytes k bs).sites = s.sites := by
  induction bs generalizing s k with
  | nil => rfl
  | cons b r ih =>
    refine (ih _ _).trans ?_
    unfold State.putOver
    split <;> rfl

theorem putDevBytes_sites (s : State) (w ctx k : Nat) (bs : List Byte) (hint : Nat) : (s.putDevBytes w ctx k bs hint).sites = s.sites := by
  have dirty (s : State) (die : Nat) : (s.dirtyDie ctx die).sites = s.sites := by
    unfold State.dirtyDie
    split <;> rfl
  have hfar : (if decide (w < 512 ∧ w / 128 ≠ keyDie k) = true then
      storeMargin (s.dirtyDie ctx (w / 128)) (w / 128) (keyLines k bs.length) else s).sites = s.sites := by
    split
    · exact dirty s _
    · rfl
  unfold State.putDevBytes
  dsimp only
  split
  · unfold State.post
    split
    · exact putOverBytes_sites bs s k
    · rfl
  · split
    · have lines := foldl_keeps (fun s l => useL2 s l (if hint = 3 then 0 else hint)) State.sites (fun s l => (congrArg State.sites (useL2_uncached s l _) :))
      exact (putOverBytes_sites bs _ k).trans ((lines _ _).trans ((dirty _ _).trans hfar))
    · split
      · exact (putOverBytes_sites bs _ k).trans hfar
      · exact (putHomeBytes_sites bs _ k).trans hfar

theorem putPlace_wakes (s : State) (w ctx : Nat) (p : Place) (bs : List Byte) (bad : Bool) (hint : Nat) : Wakes s (putPlace s w ctx p bs bad hint) := by
  refine .trans ?_ (.foldl touch_wakes _ _)
  cases p with
  | phys k =>
    exact .of_same ((putDevBytes_sites _ w ctx k bs hint).trans (rewrites_sites s k _)) ((putDevBytes_staff _ w ctx k bs hint).trans (rewrites_staff s k _))
  | scratch c o => exact ⟨rfl, rfl, fun _ => .inl rfl⟩
  | _ => exact .of_same rfl rfl

theorem shareWrite_wakes (s : State) (w ctx : Nat) (p : Place) (bs : List Byte) (bad : Bool) (hint : Nat) : Wakes s (shareWrite s w ctx p bs bad hint) := by
  have own : Wakes s (if w < 512 then storeBad (seenBy s w p bs.length) w p bs else s) := by
    have hbad : (storeBad (seenBy s w p bs.length) w p bs).uncached = (seenBy s w p bs.length).uncached := by
      unfold storeBad
      split <;> rfl
    split
    · exact .of_uncached (hbad.trans (seenBy_uncached s w p _))
    · exact .of_same rfl rfl
  have forms (n : Nat) (ps : List Place) (s : State) : Wakes s (ps.foldl (fun s x => keepForm s n w x) s) :=
    .foldl (f := fun s x => keepForm s n w x) (fun _ _ => .of_same rfl rfl) ps s
  unfold Machine.shareWrite
  generalize (if w < 512 then storeBad (seenBy s w p bs.length) w p bs else s) = s1 at own ⊢
  refine .trans ?_ (putPlace_wakes _ w ctx p bs bad hint)
  dsimp only
  split
  · exact (own.trans (.of_same (t := s1.draw.2) rfl rfl)).trans (forms _ _ _)
  · exact own

/-! ### Stores of several lanes -/

/-- The byte at q after writes one after another: that of the last one which covers it. -/
theorem putByte_foldl {β : Type} (P : β → Place) (B : β → List Byte) (q : Place) (xs : List β) (old : Byte) :
    xs.foldl (fun b x => putByte (P x) (B x) q b) old =
      (xs.reverse.findSome? (fun x => ((P x).covers (B x).length q).map (fun o => (B x).getD o 0))).getD old := by
  induction xs generalizing old with
  | nil => rfl
  | cons x r ih =>
    rw [List.foldl_cons, ih, List.reverse_cons, List.findSome?_append]
    cases r.reverse.findSome? (fun x => ((P x).covers (B x).length q).map (fun o => (B x).getD o 0)) with
    | some b => rfl
    | none =>
      rw [Option.getD_none, Option.none_or, List.findSome?_singleton, putByte]
      cases (P x).covers (B x).length q <;> rfl

/-- Writes one after another that other cores may see later: the bytes they leave, and what else of the machine. -/
theorem shareAll_leaves {β : Type} (w ctx : Nat) (P : β → Place) (B : β → List Byte) (hint : State → β → Nat) (xs : List β) {s t : State}
    (h : t.stored = s.stored) (hw : Wakes s t) (hreach : ∀ x ∈ xs, placeReached s (P x) (B x).length = true) :
    (∀ q, byteAt (xs.foldl (fun s x => shareWrite s w ctx (P x) (B x) false (hint s x)) t) q = xs.foldl (fun b x => putByte (P x) (B x) q b) (byteAt s q)) ∧
      Wakes s (xs.foldl (fun s x => shareWrite s w ctx (P x) (B x) false (hint s x)) t) := by
  induction xs generalizing s t with
  | nil => exact ⟨byteAt_of_stored h, hw⟩
  | cons x r ih =>
    have hwrite := shareWrite_wakes t w ctx (P x) (B x) false (hint t x)
    have hx := byteAt_shared h w ctx (hreach x List.mem_cons_self) false (hint t x)
    obtain ⟨hbytes, hwakes⟩ := ih (s := shareWrite t w ctx (P x) (B x) false (hint t x)) rfl (.of_same rfl rfl) (fun y hy => by
      rw [placeReached_of_sites (hwrite.sites.trans hw.sites)]
      exact hreach y (List.mem_cons_of_mem _ hy))
    refine ⟨fun q => (hbytes q).trans ?_, (hw.trans hwrite).trans hwakes⟩
    rw [hx q]
    rfl

/-- The state after the release of a store that has one. -/
def released (s : State) (ti : Nat) : Option Nat → State
  | some scope => s.release ti scope
  | none => s

theorem released_uncached {s : State} {ti : Nat} (hflight : (s.team ti).flight = []) (hdraft : (s.crew (s.team ti).crew).drafting = false)
    (rel : Option Nat) : (released s ti rel).uncached = s.uncached := by
  cases rel with
  | some scope => exact (congrArg State.uncached (release_of_not hflight hdraft scope)).trans (releaseAt_uncached s _ scope)
  | none => rfl

/-- Stores of a crew that does not draft, with a release before them where `rel` gives its scope. -/
theorem storeLanes_leaves {s : State} {ti : Nat} (hflight : (s.team ti).flight = []) (hdraft : (s.crew (s.team ti).crew).drafting = false) (op : Nat)
    (rel : Option Nat) {xs : List (LaneAddr × Place)} {val : LaneAddr → List Byte} (hreach : ∀ x ∈ xs, placeReached s x.2 (val x.1).length = true) :
    (∀ q, byteAt (storeLanes s ti op rel xs val) q = xs.foldl (fun b x => putByte x.2 (val x.1) q b) (byteAt s q)) ∧ Wakes s (storeLanes s ti op rel xs val) := by
  have hclose : closeWords s ti (laneWords xs) = s := closeSome_nil _ hflight
  have hs1 := released_uncached hflight hdraft rel
  have hcrew : ((released s ti rel).crew (s.team ti).crew).drafting = false := by rw [crew_of_crews (crews_of_uncached hs1)]; exact hdraft
  have hrun : storeLanes s ti op rel xs val = xs.foldl (fun s2 x => shareWrite s2 (s.crew (s.team ti).crew).core (s.crew (s.team ti).crew).ctx x.2 (val x.1) false
      (hintOf s2 ti op x.1)) (cacheStores (released s ti rel) ti op xs) := by
    unfold storeLanes
    simp only [hclose, hdraft, Bool.false_and, Bool.false_eq_true, if_false]
    cases rel with
    | some scope => exact if_neg (Bool.eq_false_iff.1 hcrew)
    | none => exact if_neg (Bool.eq_false_iff.1 hcrew)
  have hcache := (cacheStores_uncached (released s ti rel) ti op xs).trans hs1
  rw [hrun]
  generalize cacheStores (released s ti rel) ti op xs = t at hcache
  generalize (s.crew (s.team ti).crew).core = w
  generalize (s.crew (s.team ti).crew).ctx = ctx
  have hstored := stored_of_uncached hcache
  have hwakes : Wakes s t := .of_uncached hcache
  have hall := shareAll_leaves w ctx (fun x => x.2) (fun x => val x.1) (fun s2 x => hintOf s2 ti op x.1) xs hstored hwakes hreach
  exact hall

/-- What a store's lane writes. -/
def storeVal (t : Team) (f : MemForm) (x : LaneAddr) : List Byte := leBytes (tySize (mrType t.mr)) (readGrp t x.at_ f.dN f.d x.lane)

/-- The state in which a store of registers has taken its source. -/
def storeTaken (s : State) (f : MemForm) : State := takenDone (takenOf s.settled s.cur [.op f.d]) s.cur [(f.d, f.dN)] 0 (takenOf s.settled s.cur [.op f.d]).lf

theorem storeTaken_keeps {s : State} {f : MemForm} (hd : plainOpnd f.d = true) : (storeTaken s f).team s.cur = s.me ∧ (storeTaken s f).cur = s.cur ∧
    (storeTaken s f).crews = s.crews ∧ (storeTaken s f).sites = s.sites ∧ (∀ j, j ≠ s.cur → (storeTaken s f).team j = s.team j) ∧
    ∀ q, byteAt (storeTaken s f) q = byteAt s q := by
  have hsettled (j : Nat) : s.settled.team j = s.team j := by
    by_cases hj : j = s.cur
    · rw [hj]
      exact settled_team s
    · exact (onlyTeam_settled s).2.1 j hj
  obtain ⟨hme, hothers⟩ := takenDone_of (s := s) (u := s.settled) hsettled [.op f.d] [(f.d, f.dN)]
  rw [popSrcs_plains s.me (srcs := [(f.d, f.dN)]) (by simpa using hd)] at hme
  exact ⟨hme, rfl, rfl, rfl, hothers, fun q => (byteAt_updTeam _ _ _ q).trans ((onlyTeam_settled s).byteAt q)⟩

/-- A store of a ready team whose lanes' addresses have places writes them. -/
theorem storeOp_runs {s : State} {f : MemForm} {p : Nat → Place} (h : ready s = true) (hf : f.fields.all (·.2) = true) (hty : f.tyOk = true)
    (hd : plainOpnd f.d = true) (hreach : WithinRegs s.me ((f.d, f.dN) :: f.addrOps)) (hdone : s.me.doneLanes = 0) (hfit : requestsFit s = true)
    (hat : AtSpots s .store f p) : ∃ ps : List Pass, ps.map (fun p => (p.lo, p.n)) = passWords s.me (mr64 s.me.mr) ∧
      storeOp s s.cur s.me f = .ok (retire (storeLanes (storeTaken s f) s.cur f.op (if f.sync then some (mrScope s.me.mr) else none)
        (spotLanes s f p ps) (storeVal s.me f)) s.cur f.op 1 ps false []) := by
  have hplain : ∀ x ∈ [(f.d, f.dN)], plainOpnd x.1 = true := by simpa using hd
  obtain ⟨ps, hps, hready⟩ := memReady_spots (reads := [(f.d, f.dN)]) h hf (by rw [hty, dqTyOk_plain _ hplain]; rfl) hreach hdone hat (by decide) false
    (before := fun s _ => s) (fun _ => rfl)
  have hflags (xs : List (LaneAddr × Place)) : xs.foldl (fun m (_ : LaneAddr × Place) => m ||| 0) 0 = 0 := by
    induction xs with
    | nil => rfl
    | cons _ r ih => exact ih
  refine ⟨ps, hps, ?_⟩
  have hroom := spotted_room h hfit f .store p hps f.op
  have htake : takeSrcs s.settled s.cur [(f.d, f.dN)] = .ok (takenOf s.settled s.cur [.op f.d]) := takeSrcs_plain s.settled s.cur hplain
  have hfault : (spotted s f .store p ps).fault = none := rfl
  have hpoison : (spotted s f .store p ps).poison = .ok () := rfl
  have hearly : (spotted s f .store p ps).early = .ok () := rfl
  have hlanes : (spotted s f .store p ps).lanes = spotLanes s f p ps := rfl
  have hmr : ((takenOf s.settled s.cur [.op f.d]).s.team s.cur) = s.me := settled_team s
  have hzero : (spotLanes s f p ps).foldl (fun m x => m ||| (takenOf s.settled s.cur [.op f.d]).flags x.1.lane) 0 = 0 := hflags _
  unfold storeOp
  simp only [hready, bind, Except.bind, hfault, hpoison, hearly, hroom, show (spotted s f .store p ps).s = s.settled from rfl, htake, hlanes, hmr, hzero]
  rfl

/-- A team that may issue does not sleep. -/
theorem wake_of_canIssue {s : State} {j : Nat} (h : canIssue s j = true) : (s.team j).wake = s.team j := by
  unfold Team.wake
  split
  · next m hm =>
    rw [canIssue, hm] at h
    simp at h
  · rfl

/-- Settles O24's part of one form: what the instruction leaves at the places of its lanes. -/
theorem stores_of {i : Instr} {s : State} {f : MemForm} {p : Nat → Place} {body : Nat → Team → Except Stop State} (he : exec i s = runInstr s body)
    (hbody : body s.cur s.me = storeOp s s.cur s.me f) (h : ready s = true) (hf : f.fields.all (·.2) = true) (hty : f.tyOk = true)
    (hd : plainOpnd f.d = true) (hreach : WithinRegs s.me ((f.d, f.dN) :: f.addrOps)) (hdone : s.me.doneLanes = 0) (hfit : requestsFit s = true)
    (hdraft : (s.crew s.me.crew).drafting = false) (hat : AtSpots s .store f p) :
    Stores i s (tySize (mrType s.me.mr)) (parts s.me) p (opVal s.me f.dN f.d) := by
  obtain ⟨ps, hps, hrun⟩ := storeOp_runs h hf hty hd hreach hdone hfit hat
  obtain ⟨hme, hcur, hcrews, hsites, hothers, hbytes⟩ := storeTaken_keeps (s := s) hd
  have hlane (x : LaneAddr × Place) (hx : x ∈ spotLanes s f p ps) : x.1.lane ∈ parts s.me ∧ x.2 = p x.1.lane := by
    rw [spotLanes_eq] at hx
    obtain ⟨y, hy, rfl⟩ := List.mem_map.1 hx
    exact ⟨laneAddrs_lanes (ready_lanes h).1 f hps ▸ List.mem_map_of_mem hy, rfl⟩
  have hval (x : LaneAddr) : storeVal s.me f x = leBytes (tySize (mrType s.me.mr)) (opVal s.me f.dN f.d x.lane) := by
    rw [storeVal, readGrp_nil (ready_pend h), opVal]
  obtain ⟨hstored, hwakes⟩ := storeLanes_leaves (s := storeTaken s f) (ti := s.cur) (xs := spotLanes s f p ps) (val := storeVal s.me f)
    ((congrArg Team.flight hme).trans (ready_flight h)) (by rw [hme, crew_of_crews hcrews]; exact hdraft) f.op
    (if f.sync then some (mrScope s.me.mr) else none) (fun x hx => by
      obtain ⟨hl, hp⟩ := hlane x hx
      rw [placeReached_of_sites hsites, storeVal, leBytes_length, hp]
      exact spot_reached (hat _ (mem_parts.1 hl)))
  generalize storeLanes (storeTaken s f) s.cur f.op (if f.sync then some (mrScope s.me.mr) else none) (spotLanes s f p ps) (storeVal s.me f) = s2
    at hrun hstored hwakes
  have hcur2 : s2.cur = s.cur := hwakes.cur.trans hcur
  have hme2 : s2.team s.cur = s.me := by
    have hawake : s.me.wake = s.me := wake_of_canIssue (ready_issue h)
    obtain hsame | hwoken := hwakes.teams s.cur
    · exact hsame.trans hme
    · exact hwoken.trans ((congrArg Team.wake hme).trans hawake)
  have honly := retire_onlyTeam s2 s.cur f.op 1 ps false []
  have hret := retire_me s2 s.cur f.op 1 ps false []
  have hmeEq : (retire s2 s.cur f.op 1 ps false []).me = (retire s2 s.cur f.op 1 ps false []).team s.cur := by
    rw [State.me, honly.cur, hcur2]
  refine ⟨_, he.trans (runInstr_ok s _ body h (hbody.trans hrun)), ?_, ?_, fun q => ?_, fun j hj => ?_⟩
  · rw [hmeEq, hret, hme2, List.append_nil]
    rfl
  · rw [hmeEq]
    exact retire_status _ _ _ _ _ _ _
  · have hfind : (spotLanes s f p ps).reverse.findSome? (fun x => (x.2.covers (storeVal s.me f x.1).length q).map (fun o => (storeVal s.me f x.1).getD o 0)) =
        (parts s.me).reverse.findSome? (fun l => ((p l).covers (tySize (mrType s.me.mr)) q).map
          (fun o => (leBytes (tySize (mrType s.me.mr)) (opVal s.me f.dN f.d l)).getD o 0)) := by
      rw [spotLanes_eq, ← laneAddrs_lanes (ready_lanes h).1 f hps, ← List.map_reverse, ← List.map_reverse, List.findSome?_map, List.findSome?_map]
      simp only [Function.comp_def, hval, leBytes_length]
    rw [honly.byteAt, hstored, hbytes, putByte_foldl, hfind]
    cases (parts s.me).reverse.findSome? (fun l => ((p l).covers (tySize (mrType s.me.mr)) q).map
      (fun o => (leBytes (tySize (mrType s.me.mr)) (opVal s.me f.dN f.d l)).getD o 0)) <;> rfl
  · rw [honly.2.1 j hj, ← hothers j hj]
    exact hwakes.teams j

/-- The plain store forms of FM addresses, of opcode op, and ST.REL, which has a scope. -/
theorem stores_fm {i : Instr} {s : State} {d a : Opnd} {off : BitVec 8} {p : Nat → Place} (op : Nat) (rel : Bool) (he : exec i s = storeFm op rel d a off s)
    (h : ready s = true) (hty : mrTyValid s.me.mr = true) (hrel : (rel && mrScope s.me.mr == 7) = false) (hdone : s.me.doneLanes = 0)
    (hd : okStD s.me d = true) (hdraft : (s.crew s.me.crew).drafting = false) (hfit : requestsFit s = true) (ha : okBase a = true)
    (hin : inRange s.me [(d, mrWords s.me.mr), (a, 2)] = true)
    (hat : ∀ l, writesLane s.me false l → spot s .store (tySize (mrType s.me.mr)) l (addrFm s.me (tySize (mrType s.me.mr)) a off l) = some (p l)) :
    Stores i s (tySize (mrType s.me.mr)) (parts s.me) p (opVal s.me (mrWords s.me.mr) d) :=
  stores_of (f := fmForm op true rel s s.me d a off) he rfl h (by simp [fmForm, fld, hd, ha]) (by simp [fmForm, hty, hrel])
    (plain_of_inRange hin List.mem_cons_self) (withinRegs_of_inRange hin) hdone hfit hdraft hat

theorem stores_x {i : Instr} {s : State} {d a b : Opnd} {p : Nat → Place} (op : Nat) (he : exec i s = storeX op d a b s)
    (h : ready s = true) (hty : mrTyValid s.me.mr = true) (hdone : s.me.doneLanes = 0)
    (hd : okStD s.me d = true) (hdraft : (s.crew s.me.crew).drafting = false) (hfit : requestsFit s = true) (ha : okS a = true) (hb : okIdx b = true)
    (hin : inRange s.me [(d, mrWords s.me.mr), (a, 1), (b, 1)] = true)
    (hat : ∀ l, writesLane s.me false l → spot s .store (tySize (mrType s.me.mr)) l (addrX s.me (tySize (mrType s.me.mr)) a b l) = some (p l)) :
    Stores i s (tySize (mrType s.me.mr)) (parts s.me) p (opVal s.me (mrWords s.me.mr) d) :=
  stores_of (f := xForm op true s s.me d a b) he rfl h (by simp [xForm, fld, hd, ha, hb]) hty
    (plain_of_inRange hin List.mem_cons_self) (withinRegs_of_inRange hin) hdone hfit hdraft hat

/-- Settles O24: the lanes' places are those of their accesses, and a store writes them in the order of the lanes. -/
theorem storesWriteTheirAddresses : Obligations.StoresWriteTheirAddresses := by
  unfold Obligations.StoresWriteTheirAddresses
  rintro s d a b off _ _ h hty rfl rfl hdone hd hdraft hfit
  refine ⟨fun ha hin p hat => ⟨?_, fun hscope => ?_⟩, fun ha hb hin p hat => ?_⟩
  · have plain (op : Nat) {i : Instr} (he : exec i s = storeFm op false d a off s) :=
      stores_fm op false he h hty rfl hdone hd hdraft hfit ha hin hat
    simp only [List.forall_mem_cons]
    exact ⟨plain 0x84 rfl, plain 0x85 rfl, plain 0x86 rfl, plain 0x87 rfl, fun _ hi => nomatch hi⟩
  · exact stores_fm 0x93 true rfl h hty (by simpa using hscope) hdone hd hdraft hfit ha hin hat
  · have indexed (op : Nat) {i : Instr} (he : exec i s = storeX op d a b s) := stores_x op he h hty hdone hd hdraft hfit ha hb hin hat
    simp only [List.forall_mem_cons]
    exact ⟨indexed 0x8C rfl, indexed 0x8D rfl, indexed 0x8E rfl, indexed 0x8F rfl, fun _ hi => nomatch hi⟩

end Sys2Proof.Machine
end

section
/-! SUPPORT. Loads whose lanes' addresses have a place without a walk (18 R346, R348, R351, R352): O23. -/

namespace Sys2Proof.Machine

/-! ### What a load comes to -/

theorem devBytes_congr {s t : State} (h : t.devByte = s.devByte) (k n : Nat) : t.devBytes k n = s.devBytes k n := by
  induction n generalizing k with
  | zero => rfl
  | succ n ih => rw [State.devBytes, ih, h, State.devBytes]

theorem readPlace_settled (s : State) (p : Place) (n : Nat) : readPlace s.settled p n = readPlace s p n := by
  cases p with
  | phys k =>
    unfold readPlace
    dsimp only
    rw [devBytes_congr (s := s) (t := s.settled) rfl]
    rfl
  | _ => rfl

theorem loadRead_settled (s : State) (ci : Nat) (p : Place) (n : Nat) : loadRead s.settled ci p n = loadRead s ci p n := by
  unfold loadRead viewPlace viewWith
  simp only [readPlace_settled]
  rfl

/-- The caches once a load has read, and what it acquires. -/
def loadFetched (s : State) (f : MemForm) (xs : List (LaneAddr × Place)) : State :=
  if f.sync then (cacheLoads s.settled s.cur f.op xs).acquire s.cur (mrScope s.me.mr) else cacheLoads s.settled s.cur f.op xs

/-- The writes of the lanes' values, quick or in flight. -/
def gotWrites (s : State) (f : MemForm) (xs : List (LaneAddr × Place)) (v : Nat → Nat) : List (List PendWrite × List (Reg × Nat × W64)) :=
  xs.map (fun x => loadWrites s.settled s.cur f.d f.dN x (v x.1.lane))

/-- A load into a queue: an entry for each word. -/
def loadPushed (s : State) (f : MemForm) (xs : List (LaneAddr × Place)) (v : Nat → Nat) : State :=
  pushEntries (loadFetched s f xs) s.me f.d (entriesOf (xs.map (fun x => (x.1.lane, v x.1.lane))) f.dN)

section
variable {s : State} {f : MemForm} {p : Nat → Place} {v : Nat → Nat} (h : ready s = true) (hf : f.fields.all (·.2) = true) (hty : f.tyOk = true)
  (hreach : WithinRegs s.me ((f.d, f.dN) :: f.addrOps)) (hdone : s.me.doneLanes = 0) (hreads : s.me.doneReads = []) (hfit : requestsFit s = true)
  (hat : AtSpots s .load f p)
  (hgood : ∀ l, writesLane s.me false l → (loadRead s s.me.crew (p l) (tySize (mrType s.me.mr))).2 = false)
  (hv : ∀ l, v l = ofLE (loadRead s s.me.crew (p l) (tySize (mrType s.me.mr))).1)
include h hreads hgood hv

/-- What a lane of a load reads. -/
theorem laneLoad_spots {ps : List Pass} (hps : ps.map (fun p => (p.lo, p.n)) = passWords s.me (mr64 s.me.mr)) {x : LaneAddr × Place}
    (hx : x ∈ spotLanes s f p ps) : laneLoad s.settled s.cur (tySize (mrType s.me.mr)) x = (v x.1.lane, false) := by
  rw [spotLanes_eq] at hx
  obtain ⟨y, hy, rfl⟩ := List.mem_map.1 hx
  have hl : y.lane ∈ parts s.me := laneAddrs_lanes (ready_lanes h).1 f hps ▸ List.mem_map_of_mem hy
  have hteam : s.settled.team s.cur = s.me := settled_team s
  unfold laneLoad
  rw [hteam, hreads]
  dsimp only [List.find?_nil]
  rw [loadRead_settled]
  exact Prod.ext (hv _).symm (hgood _ (mem_parts.1 hl))

include hf hty hreach hdone hfit hat

/-- A load of a ready team whose lanes' addresses have places. -/
theorem loadOp_runs : ∃ ps : List Pass, ps.map (fun p => (p.lo, p.n)) = passWords s.me (mr64 s.me.mr) ∧
    (∀ k, f.d = .q k → pushRoom s s.me f.d f.dN = .ok () →
      loadOp s s.cur s.me f = .ok (retire (loadPushed s f (spotLanes s f p ps) v) s.cur f.op 1 ps false [])) ∧
    (plainOpnd f.d = true → ∃ xs reqs late, loadOp s s.cur s.me f = .ok (retire
      (putFlight (loadFetched s f xs) s.cur ((gotWrites s f (spotLanes s f p ps) v).flatMap (·.2)) reqs late) s.cur f.op 1 ps false
        ((gotWrites s f (spotLanes s f p ps) v).flatMap (·.1)))) := by
  obtain ⟨ps, hps, hready⟩ := memReady_spots (reads := []) h hf (by rw [hty]; rfl) hreach hdone hat (by decide) false (before := fun s _ => s) (fun _ => rfl)
  generalize hr : spotted s f .load p ps = r at hready
  have hclose : closeWords r.s s.cur (laneWords r.lanes) = s.settled := by
    rw [← hr]
    exact closeSome_nil _ ((congrArg Team.flight (settled_team s)).trans (ready_flight h))
  have hsame : ({ s := s.settled, ps := r.ps, groups := r.groups, fault := r.fault, bad := r.bad, early := r.early, reqs := r.reqs } : MemReady) = r := by
    rw [← hr]
    rfl
  have hgot : r.lanes.map (fun x => (x, laneLoad s.settled s.cur (tySize (mrType s.me.mr)) x)) =
      (spotLanes s f p ps).map (fun x => (x, (v x.1.lane, false))) := by
    rw [← hr]
    exact List.map_congr_left fun x hx => congrArg (Prod.mk x) (laneLoad_spots h hreads hgood hv hps hx)
  have hbad : ((spotLanes s f p ps).map (fun x => (x, (v x.1.lane, false)))).find? (fun g => g.2.2) = none := by
    simp
  have hroom : r.room s.cur f.op = .ok () := hr ▸ spotted_room h hfit f .load p hps f.op
  have hpush : pushRoom s.settled s.me f.d f.dN = pushRoom s s.me f.d f.dN :=
    pushRoom_congr (s := s) (u := s.settled) rfl (fun j => by
      by_cases hj : j = s.cur
      · rw [hj]; exact settled_team s
      · exact (onlyTeam_settled s).2.1 j hj) _ _ _
  have hfault : r.fault = none := hr ▸ rfl
  have hpoison : r.poison = .ok () := hr ▸ rfl
  have hearly : r.early = .ok () := hr ▸ rfl
  have hps' : r.ps = ps := hr ▸ rfl
  have hlanes : r.lanes = spotLanes s f p ps := hr ▸ rfl
  refine ⟨ps, hps, fun k hk hroom' => ?_, fun hd => ?_⟩
  · unfold loadOp
    simp only [hready, bind, Except.bind, hclose]
    simp only [hsame]
    simp only [hgot, hbad, hfault, hpoison, settled_team, hearly, hroom, hk, hps', List.map_map, Function.comp_def, if_true]
    rw [← hk, hpush, hroom', loadPushed, loadFetched, hlanes]
  · unfold loadOp
    simp only [hready, bind, Except.bind, hclose]
    simp only [hsame]
    simp only [hgot, hbad, hfault, hpoison, settled_team, hearly, hpush, pushRoom_plain _ _ _ hd, hroom, hps', List.map_map, Function.comp_def]
    refine ⟨_, _, _, (if_neg ?_).trans rfl⟩
    split
    · next hk => rw [hk] at hd; cases hd
    · exact Bool.false_ne_true

end

/-! ### What a load leaves -/

theorem cacheLoads_uncached (s : State) (ti op : Nat) (xs : List (LaneAddr × Place)) : (cacheLoads s ti op xs).uncached = s.uncached :=
  foldl_keeps (fun s (x : LaneAddr × Place) => fillLine s (s.teamCrew ti).core x.2 (hintOf s ti op x.1)) State.uncached
    (fun s _ => fillLine_uncached s _ _ _) _ s

theorem loadFetched_uncached {s : State} (hflight : s.me.flight = []) (f : MemForm) (xs : List (LaneAddr × Place)) :
    (loadFetched s f xs).uncached = s.settled.uncached := by
  have hcache := cacheLoads_uncached s.settled s.cur f.op xs
  unfold loadFetched
  split
  · refine (acquire_uncached ?_ _).trans hcache
    rw [team_of_uncached hcache, settled_team, hflight]
  · exact hcache

/-- An acquire leaves nothing of the caches that it invalidates. -/
theorem acquireAt_empties (s : State) (ci scope : Nat) : ∀ core, core = (s.crew ci).core →
    (2 ≤ scope → cget [] (acquireAt s ci scope).caches.l1 core = [] ∧ ∀ e ∈ (acquireAt s ci scope).caches.l1Old, e.core ≠ core) ∧
    (3 ≤ scope → cget [] (acquireAt s ci scope).caches.margin (core / 128) = [] ∧ ∀ e ∈ (acquireAt s ci scope).caches.marginOld, e.core ≠ core / 128) := by
  rintro _ rfl
  have kept (l : List StaleWord) (c : Nat) : ∀ e ∈ l.filter (·.core != c), e.core ≠ c := fun e he =>
    bne_iff_ne.1 (List.mem_filter.1 he).2
  refine ⟨fun hscope => ?_, fun hscope => ?_⟩
  · unfold acquireAt
    dsimp only
    rw [if_neg (by omega)]
    split <;> exact ⟨cget_cset_self _ _ _ _, kept _ _⟩
  · unfold acquireAt
    dsimp only
    rw [if_neg (by omega), if_neg (by omega)]
    exact ⟨cget_cset_self _ _ _ _, kept _ _⟩

theorem loadFetched_acquires {s : State} (hflight : s.me.flight = []) {f : MemForm} (hsync : f.sync = true) (xs : List (LaneAddr × Place)) :
    ∀ core, core = (s.crew s.me.crew).core →
    (2 ≤ mrScope s.me.mr → cget [] (loadFetched s f xs).caches.l1 core = [] ∧ ∀ e ∈ (loadFetched s f xs).caches.l1Old, e.core ≠ core) ∧
    (3 ≤ mrScope s.me.mr → cget [] (loadFetched s f xs).caches.margin (core / 128) = [] ∧
      ∀ e ∈ (loadFetched s f xs).caches.marginOld, e.core ≠ core / 128) := by
  have hcache := cacheLoads_uncached s.settled s.cur f.op xs
  have hteam : (cacheLoads s.settled s.cur f.op xs).team s.cur = s.me := (team_of_uncached hcache _).trans (settled_team s)
  have hcrew : (cacheLoads s.settled s.cur f.op xs).crew s.me.crew = s.crew s.me.crew := crew_of_crews (crews_of_uncached hcache) _
  have hrun : loadFetched s f xs = acquireAt (cacheLoads s.settled s.cur f.op xs) s.me.crew (mrScope s.me.mr) := by
    rw [loadFetched, if_pos hsync, State.acquire, closeLate_nil ((congrArg Team.flight hteam).trans hflight), hteam]
  rw [hrun, ← hcrew]
  exact acquireAt_empties _ _ _

/-- Results put in flight: one entry that holds them all, if there are any. -/
theorem putFlight_team (s : State) (ti : Nat) (ws : List (Reg × Nat × W64)) (reqs : Nat) (late : List LateLoad) :
    OnlyTeam ti s (putFlight s ti ws reqs late) ∧ ∃ F : List InFlight,
      (putFlight s ti ws reqs late).team ti = { s.team ti with flight := (s.team ti).flight ++ F } ∧
      (∀ f ∈ F, f.kind = .mem ∧ f.id = (s.team ti).nIssued) ∧ ∀ w, (∃ f ∈ F, w ∈ f.writes) ↔ w ∈ ws := by
  unfold putFlight
  split
  · next hnone =>
    refine ⟨.rfl, [], by rw [List.append_nil], fun _ hf => absurd hf List.not_mem_nil, fun w => ?_⟩
    rw [List.isEmpty_iff.1 hnone]
    simp
  · refine ⟨onlyTeam_updTeam _ _ _, _, updTeam_team _ _ _, fun f hf => ?_, fun w => ?_⟩
    · rw [List.mem_singleton.1 hf]
      exact ⟨rfl, rfl⟩
    · simp

/-- The lanes' accesses are those of the lanes that take part. -/
theorem spotLanes_iff {s : State} (hlanes : 5 ≤ s.me.lanesLog) (f : MemForm) (p : Nat → Place) {is64 : Bool} {ps : List Pass}
    (hps : ps.map (fun p => (p.lo, p.n)) = passWords s.me is64) (P : Nat → Place → Prop) :
    (∃ y ∈ spotLanes s f p ps, P y.1.lane y.2) ↔ ∃ k, writesLane s.me false k ∧ P k (p k) := by
  have hmem := laneAddrs_lanes hlanes f hps
  rw [spotLanes_eq]
  constructor
  · rintro ⟨_, hy, hP⟩
    obtain ⟨y, hmine, rfl⟩ := List.mem_map.1 hy
    exact ⟨y.lane, mem_parts.1 (hmem ▸ List.mem_map_of_mem hmine), hP⟩
  · rintro ⟨k, hk, hP⟩
    have hk' : k ∈ (laneAddrs s.me f ps).flatten.map (·.lane) := hmem.symm ▸ mem_parts.2 hk
    obtain ⟨y, hy, rfl⟩ := List.mem_map.1 hk'
    exact ⟨_, List.mem_map_of_mem hy, hP⟩

theorem quickPlace_settled (s : State) (p : Place) : quickPlace s.settled s.cur p = quickPlace s s.cur p := by
  unfold quickPlace
  rw [settled_team]
  rfl

section
variable {s : State} (ht : s.me.pend = []) (f : MemForm) (v : Nat → Nat) (xs : List (LaneAddr × Place)) (r : Reg) (l : Nat) (x : W64)
include ht

/-- The writes that a load's quick lanes have outstanding. -/
theorem gotWrites_quick : (∃ w ∈ (gotWrites s f xs v).flatMap (·.1), w.reg = r ∧ w.lane = l ∧ w.val = x) ↔
    ∃ y ∈ xs, quickPlace s s.cur y.2 = true ∧ (r, l, x) ∈ grpWrites s.me f.dN f.d 0 y.1.lane (v y.1.lane) := by
  have one (y : LaneAddr × Place) : (∃ w ∈ (loadWrites s.settled s.cur f.d f.dN y (v y.1.lane)).1, w.reg = r ∧ w.lane = l ∧ w.val = x) ↔
      quickPlace s s.cur y.2 = true ∧ (r, l, x) ∈ grpWrites s.me f.dN f.d 0 y.1.lane (v y.1.lane) := by
    unfold loadWrites
    rw [settled_team, quickPlace_settled]
    dsimp only
    rw [grpWrites_nil ht _ _ y.1.at_]
    split
    · next hq => simp [hq]
    · next hq => simp [hq]
  simp only [gotWrites, List.mem_flatMap, List.mem_map, exists_exists_and_eq_and, ← one]
  exact ⟨fun ⟨w, ⟨y, hy, hw⟩, hx⟩ => ⟨y, hy, w, hw, hx⟩, fun ⟨y, hy, w, hw, hx⟩ => ⟨w, ⟨y, hy, hw⟩, hx⟩⟩

theorem gotWrites_flight : ((r, l, x) ∈ (gotWrites s f xs v).flatMap (·.2)) ↔
    ∃ y ∈ xs, quickPlace s s.cur y.2 = false ∧ (r, l, x) ∈ grpWrites s.me f.dN f.d 0 y.1.lane (v y.1.lane) := by
  have one (y : LaneAddr × Place) : (r, l, x) ∈ (loadWrites s.settled s.cur f.d f.dN y (v y.1.lane)).2 ↔
      quickPlace s s.cur y.2 = false ∧ (r, l, x) ∈ grpWrites s.me f.dN f.d 0 y.1.lane (v y.1.lane) := by
    unfold loadWrites
    rw [settled_team, quickPlace_settled]
    dsimp only
    rw [grpWrites_nil ht _ _ y.1.at_]
    split
    · next hq => simp [hq]
    · next hq => simp [hq]
  simp only [gotWrites, List.mem_flatMap, List.mem_map, exists_exists_and_eq_and, one]

omit ht in
theorem gotWrites_interlocked : ∀ w ∈ (gotWrites s f xs v).flatMap (·.1), w.il = true := by
  have one (y : LaneAddr × Place) : ∀ w ∈ (loadWrites s.settled s.cur f.d f.dN y (v y.1.lane)).1, w.il = true := by
    unfold loadWrites
    dsimp only
    split
    · intro w hw
      obtain ⟨_, -, rfl⟩ := List.mem_map.1 hw
      rfl
    · exact fun _ hw => nomatch hw
  intro w hw
  obtain ⟨_, hg, hw⟩ := List.mem_flatMap.1 hw
  obtain ⟨y, -, rfl⟩ := List.mem_map.1 hg
  exact one y w hw

end

/-! ### Loads into registers -/

/-- The team that issues once its load has retired, with nothing else changed but the caches and what is outstanding. -/
theorem loads_of {i : Instr} {s : State} {f : MemForm} {p : Nat → Place} {v : Nat → Nat} {body : Nat → Team → Except Stop State} (he : exec i s = runInstr s body)
    (hbody : body s.cur s.me = loadOp s s.cur s.me f) (h : ready s = true) (hf : f.fields.all (·.2) = true) (hty : f.tyOk = true)
    (hd : plainOpnd f.d = true) (hreach : WithinRegs s.me ((f.d, f.dN) :: f.addrOps)) (hdone : s.me.doneLanes = 0) (hreads : s.me.doneReads = [])
    (hfit : requestsFit s = true) (hat : AtSpots s .load f p)
    (hgood : ∀ l, writesLane s.me false l → (loadRead s s.me.crew (p l) (tySize (mrType s.me.mr))).2 = false)
    (hv : ∀ l, v l = ofLE (loadRead s s.me.crew (p l) (tySize (mrType s.me.mr))).1) :
    Sys2Proof.Claims.Loads i s f.sync f.dN f.d p v := by
  obtain ⟨ps, hps, -, hregs⟩ := loadOp_runs h hf hty hreach hdone hreads hfit hat hgood hv
  obtain ⟨xs, reqs, late, hrun⟩ := hregs hd
  have ht := ready_pend h
  have hlanes := (ready_lanes h).1
  have hcache := loadFetched_uncached (ready_flight h) f xs
  have hacq := fun hsync => loadFetched_acquires (ready_flight h) (f := f) hsync xs
  generalize loadFetched s f xs = s1 at hrun hcache hacq
  have hteam : s1.team s.cur = s.me := (team_of_uncached hcache _).trans (settled_team s)
  obtain ⟨hput, F, hme, hnew, hwrites⟩ := putFlight_team s1 s.cur ((gotWrites s f (spotLanes s f p ps) v).flatMap (·.2)) reqs late
  generalize putFlight s1 s.cur ((gotWrites s f (spotLanes s f p ps) v).flatMap (·.2)) reqs late = s2 at hrun hput hme
  have honly := hput.trans (retire_onlyTeam s2 s.cur f.op 1 ps false ((gotWrites s f (spotLanes s f p ps) v).flatMap (·.1)))
  have hcur2 : s2.cur = s.cur := hput.cur.trans (congrArg State.cur hcache :)
  have hstep := retire_step f.op ps ((gotWrites s f (spotLanes s f p ps) v).flatMap (·.1)) hcur2
  have hstatus := retire_status s2 s.cur f.op 1 ps false ((gotWrites s f (spotLanes s f p ps) v).flatMap (·.1))
  have hexec := he.trans (runInstr_ok s _ body h (hbody.trans hrun))
  generalize retire s2 s.cur f.op 1 ps false ((gotWrites s f (spotLanes s f p ps) v).flatMap (·.1)) = t at honly hstep hstatus hexec
  have hcaches : t.caches = s1.caches := (congrArg State.caches honly.1 :)
  have hstale : t.stale = s1.stale := (congrArg State.stale honly.1 :)
  rw [hteam] at hme hnew
  refine ⟨t, (gotWrites s f (spotLanes s f p ps) v).flatMap (·.1), F, hexec, ⟨?_, ?_, ?_⟩, gotWrites_interlocked f v _, hnew,
    fun r l x => (gotWrites_quick ht f v _ r l x).trans (spotLanes_iff hlanes f p hps
      (fun k q => quickPlace s s.cur q = true ∧ (r, l, x) ∈ grpWrites s.me f.dN f.d 0 k (v k))),
    fun r l x => (hwrites _).trans ((gotWrites_flight ht f v _ r l x).trans (spotLanes_iff hlanes f p hps
      (fun k q => quickPlace s s.cur q = false ∧ (r, l, x) ∈ grpWrites s.me f.dN f.d 0 k (v k)))),
    fun hsync => hcaches ▸ hacq hsync⟩
  · rw [hstep, hme, ht, ready_flight h]
    rfl
  · rw [State.me, honly.cur, show s1.cur = s.cur from (congrArg State.cur hcache :)]
    exact hstatus
  · have hfrom : OnlyTeam s.cur { s with caches := t.caches, stale := t.stale } s1 := by
      rw [hcaches, hstale, eq_of_uncached hcache]
      exact ⟨rfl, fun j hj => (onlyTeam_settled s).2.1 j hj, fun _ => rfl⟩
    exact hfrom.trans honly

/-! ### Loads into a queue -/

/-- The entry of word w of the lanes' values. -/
theorem entriesOf_word (ls : List Nat) (n : Nat) (v : Nat → Nat) : (entriesOf (ls.map (fun l => (l, v l))) n).length = n ∧ ∀ w < n, ∀ l,
    cget 0 ((entriesOf (ls.map (fun l => (l, v l))) n).getD w {}).vals l = if l ∈ ls then w32 (v l / 2 ^ (32 * w) % 2 ^ 32) else 0 := by
  induction n generalizing v with
  | zero => exact ⟨rfl, fun _ hw => absurd hw (Nat.not_lt_zero _)⟩
  | succ n ih =>
    obtain ⟨hlen, hword⟩ := ih (fun l => v l / 2 ^ 32)
    rw [entriesOf, List.map_map, List.foldl_map]
    refine ⟨congrArg (· + 1) hlen, fun w hw l => ?_⟩
    cases w with
    | zero =>
      rw [List.getD_cons_zero, Nat.mul_zero, Nat.pow_zero, Nat.div_one]
      exact laneEntry_val ls v l
    | succ w =>
      rw [List.getD_cons_succ]
      refine (hword w (by omega) l).trans ?_
      rw [Nat.div_div_eq_div_mul, ← Nat.pow_add, show 32 + 32 * w = 32 * (w + 1) by omega]

theorem loadsQueue_of {i : Instr} {s : State} {f : MemForm} {p : Nat → Place} {v : Nat → Nat} {body : Nat → Team → Except Stop State} (he : exec i s = runInstr s body)
    (hbody : body s.cur s.me = loadOp s s.cur s.me f) (h : ready s = true) (hf : f.fields.all (·.2) = true) (hty : f.tyOk = true) (k : Fin 8)
    (hk : f.d = .q k) (hreach : WithinRegs s.me ((f.d, f.dN) :: f.addrOps)) (hdone : s.me.doneLanes = 0) (hreads : s.me.doneReads = [])
    (hfit : requestsFit s = true) (hat : AtSpots s .load f p)
    (hgood : ∀ l, writesLane s.me false l → (loadRead s s.me.crew (p l) (tySize (mrType s.me.mr))).2 = false)
    (hv : ∀ l, v l = ofLE (loadRead s s.me.crew (p l) (tySize (mrType s.me.mr))).1) : Sys2Proof.Claims.LoadsQueue i s f.dN k v := by
  rintro peer _ hpeer rfl hne hroom
  obtain ⟨ps, hps, hqueue, -⟩ := loadOp_runs h hf hty hreach hdone hreads hfit hat hgood hv
  have htarget := pushTarget_queue hpeer
  have hrun := hqueue k hk (by simp only [hk, pushRoom, htarget]; exact if_pos hroom)
  have hcache := loadFetched_uncached (ready_flight h) f (spotLanes s f p ps)
  have hteam : ∀ j, (loadFetched s f (spotLanes s f p ps)).team j = s.team j := fun j => by
    rw [team_of_uncached hcache]
    by_cases hj : j = s.cur
    · rw [hj]; exact settled_team s
    · exact (onlyTeam_settled s).2.1 j hj
  have hlanes : (spotLanes s f p ps).map (fun x => (x.1.lane, v x.1.lane)) = (parts s.me).map (fun l => (l, v l)) := by
    rw [spotLanes_eq, ← laneAddrs_lanes (ready_lanes h).1 f hps, List.map_map, List.map_map]
    rfl
  obtain ⟨hlen, hword⟩ := entriesOf_word (parts s.me) f.dN v
  generalize hs1 : loadFetched s f (spotLanes s f p ps) = s1 at hcache hteam
  have hpushed : loadPushed s f (spotLanes s f p ps) v = s1.updTeam peer (fun x => x.setQ (bindPq (s.me.q k.val).bind)
      { x.q (bindPq (s.me.q k.val).bind) with entries :=
        (x.q (bindPq (s.me.q k.val).bind)).entries ++ entriesOf ((parts s.me).map (fun l => (l, v l))) f.dN }) := by
    have hu : pushTarget s1 s.me (.q k) = some (peer, bindPq (s.me.q k.val).bind) :=
      pushTarget_queue (by rw [crewTeam, crew_of_crews (crews_of_uncached hcache)]; exact hpeer)
    simp only [loadPushed, hs1, hlanes, hk, pushEntries, hu]
  have hcur : (loadPushed s f (spotLanes s f p ps) v).cur = s.cur := by
    rw [hpushed]
    exact (congrArg State.cur hcache :)
  refine ⟨_, entriesOf ((parts s.me).map (fun l => (l, v l))) f.dN, he.trans (runInstr_ok s _ body h (hbody.trans hrun)), ?_, ?_, hlen, ?_, fun w hw l => ?_⟩
  · rw [retire_step f.op ps [] hcur, hpushed, updTeam_team_ne _ _ _ _ hne.symm, hteam, List.append_nil]
    rfl
  · rw [State.me, (retire_onlyTeam _ _ _ _ _ _ _).cur, hcur]
    exact retire_status _ _ _ _ _ _ _
  · rw [(retire_onlyTeam _ _ _ _ _ _ _).2.1 peer hne, hpushed, updTeam_team, hteam, setQ_q]
  · rw [hword w hw l]
    have hin : l ∈ parts s.me ↔ (s.me.active l = true ∧ s.me.guard 0 l = true ∧ l < s.me.lanes) := by
      simp only [mem_parts, writesLane, Bool.false_eq_true, false_or]
      tauto
    rw [if_congr hin rfl rfl]
    split
    · exact (BitVec.toNat_ofNat _ _).trans (Nat.mod_eq_of_lt (Nat.mod_lt _ (by decide)))
    · rfl

/-! ### The forms -/

section
variable {s : State} {i : Instr} {d a b : Opnd} {off : BitVec 8} {p : Nat → Place} {v : Nat → Nat} (op : Nat) (h : ready s = true)
  (hty : mrTyValid s.me.mr = true) (hdone : s.me.doneLanes = 0) (hreads : s.me.doneReads = []) (hfit : requestsFit s = true) (hd : okLdD s s.me d = true)
  (hv : ∀ l, v l = ofLE (loadRead s s.me.crew (p l) (tySize (mrType s.me.mr))).1)
include h hty hdone hreads hfit hd hv

section
variable (acq : Bool) (he : exec i s = loadFm op acq d a off s) (hacq : (acq && mrScope s.me.mr == 7) = false) (ha : okBase a = true)
  (hat : ∀ l, writesLane s.me false l → spot s .load (tySize (mrType s.me.mr)) l (addrFm s.me (tySize (mrType s.me.mr)) a off l) = some (p l) ∧
    (loadRead s s.me.crew (p l) (tySize (mrType s.me.mr))).2 = false)
include he hacq ha hat

theorem loads_fm (hin : inRange s.me [(d, mrWords s.me.mr), (a, 2)] = true) : Sys2Proof.Claims.Loads i s acq (mrWords s.me.mr) d p v :=
  loads_of (f := fmForm op false acq s s.me d a off) he rfl h (by simp [fmForm, fld, hd, ha]) (by simp [fmForm, hty, hacq])
    (plain_of_inRange hin List.mem_cons_self) (withinRegs_of_inRange hin) hdone hreads hfit (fun l hl => (hat l hl).1) (fun l hl => (hat l hl).2) hv

theorem loadsQueue_fm (k : Fin 8) (hk : d = .q k) (hin : inRange s.me [(a, 2)] = true) : Sys2Proof.Claims.LoadsQueue i s (mrWords s.me.mr) k v :=
  loadsQueue_of (f := fmForm op false acq s s.me d a off) he rfl h (by simp [fmForm, fld, hd, ha]) (by simp [fmForm, hty, hacq]) k hk
    (withinRegs_cons (hk ▸ withinRegs_queue _ _ _) (withinRegs_of_inRange hin)) hdone hreads hfit (fun l hl => (hat l hl).1) (fun l hl => (hat l hl).2) hv

end

section
variable (he : exec i s = loadX op d a b s) (ha : okS a = true) (hb : okIdx b = true)
  (hat : ∀ l, writesLane s.me false l → spot s .load (tySize (mrType s.me.mr)) l (addrX s.me (tySize (mrType s.me.mr)) a b l) = some (p l) ∧
    (loadRead s s.me.crew (p l) (tySize (mrType s.me.mr))).2 = false)
include he ha hb hat

theorem loads_x (hin : inRange s.me [(d, mrWords s.me.mr), (a, 1), (b, 1)] = true) : Sys2Proof.Claims.Loads i s false (mrWords s.me.mr) d p v :=
  loads_of (f := xForm op false s s.me d a b) he rfl h (by simp [xForm, fld, hd, ha, hb]) hty
    (plain_of_inRange hin List.mem_cons_self) (withinRegs_of_inRange hin) hdone hreads hfit (fun l hl => (hat l hl).1) (fun l hl => (hat l hl).2) hv

theorem loadsQueue_x (k : Fin 8) (hk : d = .q k) (hin : inRange s.me [(a, 1), (b, 1)] = true) : Sys2Proof.Claims.LoadsQueue i s (mrWords s.me.mr) k v :=
  loadsQueue_of (f := xForm op false s s.me d a b) he rfl h (by simp [xForm, fld, hd, ha, hb]) hty k hk
    (withinRegs_cons (hk ▸ withinRegs_queue _ _ _) (withinRegs_of_inRange hin)) hdone hreads hfit (fun l hl => (hat l hl).1) (fun l hl => (hat l hl).2) hv

end

end

/-- Settles O23: every lane reads at its place, and what it reads is outstanding for the registers, or comes to the queue's tail. -/
theorem loadsReadTheirAddresses : Obligations.LoadsReadTheirAddresses := by
  unfold Obligations.LoadsReadTheirAddresses
  rintro s d a b off _ _ h hty rfl rfl hdone hreads hfit hd v
  refine ⟨fun ha p hat hv => ⟨fun hin => ⟨?_, fun hscope => ?_⟩, fun k hk hin => ⟨?_, fun hscope => ?_⟩⟩, fun ha hb p hat hv => ?_⟩
  · have plain (op : Nat) {i : Instr} (he : exec i s = loadFm op false d a off s) := loads_fm op h hty hdone hreads hfit hd hv false he rfl ha hat hin
    simp only [List.forall_mem_cons]
    exact ⟨plain 0x80 rfl, plain 0x81 rfl, plain 0x82 rfl, plain 0x83 rfl, fun _ hi => nomatch hi⟩
  · exact loads_fm 0x92 h hty hdone hreads hfit hd hv true rfl (by simpa using hscope) ha hat hin
  · have plain (op : Nat) {i : Instr} (he : exec i s = loadFm op false d a off s) :=
      loadsQueue_fm op h hty hdone hreads hfit hd hv false he rfl ha hat k hk hin
    simp only [List.forall_mem_cons]
    exact ⟨plain 0x80 rfl, plain 0x81 rfl, plain 0x82 rfl, plain 0x83 rfl, fun _ hi => nomatch hi⟩
  · exact loadsQueue_fm 0x92 h hty hdone hreads hfit hd hv true rfl (by simpa using hscope) ha hat k hk hin
  · have regs (op : Nat) {i : Instr} (he : exec i s = loadX op d a b s) := loads_x op h hty hdone hreads hfit hd hv he ha hb hat
    have queues (op : Nat) {i : Instr} (he : exec i s = loadX op d a b s) := loadsQueue_x op h hty hdone hreads hfit hd hv he ha hb hat
    simp only [List.forall_mem_cons]
    exact ⟨⟨regs 0x88 rfl, queues 0x88 rfl⟩, ⟨regs 0x89 rfl, queues 0x89 rfl⟩, ⟨regs 0x8A rfl, queues 0x8A rfl⟩, ⟨regs 0x8B rfl, queues 0x8B rfl⟩,
      fun _ hi => nomatch hi⟩

end Sys2Proof.Machine
end

section
/-! SUPPORT. Atomics whose lanes' addresses have a place without a walk (18 R353 to R356): O27. -/

namespace Sys2Proof.Machine

/-! ### Writes of sound words leave no poison -/

/-- The poisoned words of memory, and the crews. -/
def State.marks (s : State) : List Nat × Cells Crew := (s.poison, s.crews)

/-- No word of memory or of scratch is poisoned. -/
def Sound (s : State) : Prop := s.poison = [] ∧ ∀ c, (s.crew c).scratchPoison = []

theorem Sound.of_marks {s t : State} (h : Sound s) (hm : t.marks = s.marks) : Sound t := by
  have hpoison : t.poison = s.poison := congrArg Prod.fst hm
  exact ⟨hpoison.trans h.1, fun c => by rw [crew_of_crews (congrArg Prod.snd hm :)]; exact h.2 c⟩

theorem touchLines_marks (ls : List Nat) (s : State) : (ls.foldl State.touch s).marks = s.marks := by
  have wakes (line : Nat) (l : Cells Team) (s : State) : (l.foldl (fun s e => if e.2.sleepsOn line then s.updTeam e.1 (·.wake) else s) s).marks = s.marks :=
    foldl_keeps _ State.marks (fun s e => by split <;> rfl) l s
  refine foldl_keeps State.touch State.marks (fun s line => ?_) ls s
  have watched : (if s.queues.any (fun e => e.2.watch == some line) then
      { s with queues := s.queues.map (fun e => if e.2.watch = some line then (e.1, { e.2 with lineChanged := true }) else e) } else s).marks = s.marks := by
    split <;> rfl
  unfold State.touch
  generalize (if s.queues.any (fun e => e.2.watch == some line) then
      { s with queues := s.queues.map (fun e => if e.2.watch = some line then (e.1, { e.2 with lineChanged := true }) else e) } else s) = s1 at watched ⊢
  dsimp only
  split
  · exact (wakes line _ _).trans watched
  · exact watched

theorem putOverBytes_marks (bs : List Byte) (s : State) (k : Nat) : (s.putOverBytes k bs).marks = s.marks := by
  induction bs generalizing s k with
  | nil => rfl
  | cons b r ih =>
    refine (ih _ _).trans ?_
    unfold State.putOver
    split <;> rfl

theorem putHomeBytes_marks (bs : List Byte) (s : State) (k : Nat) : (s.putHomeBytes k bs).marks = s.marks := by
  induction bs generalizing s k with
  | nil => rfl
  | cons b r ih =>
    refine (ih _ _).trans ?_
    unfold State.putHome State.putMem
    split <;> rfl

theorem putDevBytes_marks (s : State) (w ctx k : Nat) (bs : List Byte) (hint : Nat) : (s.putDevBytes w ctx k bs hint).marks = s.marks := by
  have dirty (s : State) (die : Nat) : (s.dirtyDie ctx die).marks = s.marks := by
    unfold State.dirtyDie
    split <;> rfl
  have hfar : (if decide (w < 512 ∧ w / 128 ≠ keyDie k) = true then
      storeMargin (s.dirtyDie ctx (w / 128)) (w / 128) (keyLines k bs.length) else s).marks = s.marks := by
    split
    · exact dirty s _
    · rfl
  unfold State.putDevBytes
  dsimp only
  split
  · unfold State.post
    split
    · exact putOverBytes_marks bs s k
    · rfl
  · split
    · have lines := foldl_keeps (fun s l => useL2 s l (if hint = 3 then 0 else hint)) State.marks (fun s l => (congrArg State.marks (useL2_uncached s l _) :))
      exact (putOverBytes_marks bs _ k).trans ((lines _ _).trans ((dirty _ _).trans hfar))
    · split
      · exact (putOverBytes_marks bs _ k).trans hfar
      · exact (putHomeBytes_marks bs _ k).trans hfar

theorem putPlace_sound {s : State} (h : Sound s) (w ctx : Nat) (p : Place) (bs : List Byte) (hint : Nat) : Sound (putPlace s w ctx p bs false hint) := by
  refine Sound.of_marks ?_ (touchLines_marks _ _)
  cases p with
  | phys k =>
    have hrew : (s.rewrites k bs.length).marks = s.marks := by
      unfold State.rewrites
      dsimp only
      split <;> rfl
    obtain ⟨hnone, hcrews⟩ := h.of_marks ((putDevBytes_marks _ w ctx k bs hint).trans hrew)
    refine ⟨?_, hcrews⟩
    show poisonAfter ((s.rewrites k bs.length).putDevBytes w ctx k bs hint).poison k bs.length false = []
    rw [hnone]
    rfl
  | scratch c o =>
    refine ⟨h.1, fun c' => ?_⟩
    by_cases hc : c' = c
    · rw [hc]
      refine (congrArg Crew.scratchPoison (setCrew_crew _ _ _)).trans ?_
      show poisonAfter (s.crew c).scratchPoison o bs.length false = []
      rw [h.2]
      rfl
    · exact (congrArg Crew.scratchPoison (setCrew_crew_ne _ _ _ _ hc)).trans (h.2 c')
  | _ => exact h

theorem shareWrite_sound {s : State} (h : Sound s) (w ctx : Nat) (p : Place) (bs : List Byte) (hint : Nat) : Sound (shareWrite s w ctx p bs false hint) := by
  have own : (if w < 512 then storeBad (seenBy s w p bs.length) w p bs else s).marks = s.marks := by
    have hbad : (storeBad (seenBy s w p bs.length) w p bs).marks = (seenBy s w p bs.length).marks := by
      unfold storeBad
      split <;> rfl
    split
    · exact hbad.trans (congrArg State.marks (seenBy_uncached s w p _) :)
    · rfl
  have forms (n : Nat) (ps : List Place) (s : State) : (ps.foldl (fun s x => keepForm s n w x) s).marks = s.marks :=
    foldl_keeps (fun s x => keepForm s n w x) State.marks (fun _ _ => rfl) ps s
  unfold Machine.shareWrite
  generalize (if w < 512 then storeBad (seenBy s w p bs.length) w p bs else s) = s1 at own ⊢
  refine putPlace_sound ?_ w ctx p bs hint
  dsimp only
  split
  · exact h.of_marks ((forms _ _ _).trans own)
  · exact h.of_marks own

/-! ### What a read of a place depends on -/

/-- Where every byte is the same, so is what is read at a place that can be reached. -/
theorem readPlace_bytes {s t : State} (h : ∀ q, byteAt t q = byteAt s q) {p : Place} {n : Nat} (hs : placeReached s p n = true)
    (ht : placeReached t p n = true) : (readPlace t p n).1 = (readPlace s p n).1 := by
  have up {u : State} {k : Nat} (hu : reaches u k n = true) : ¬ (keyKind k = 2 ∧ hostUp u = false) := by
    unfold reaches at hu
    simp only [Bool.and_eq_true, Bool.or_eq_true, bne_iff_ne, ne_eq] at hu
    rintro ⟨hk, hdown⟩
    obtain ⟨hkind | hup, -⟩ := hu
    · exact hkind hk
    · rw [hdown] at hup
      cases hup
  cases p with
  | phys k =>
    have hdev : t.devByte = s.devByte := funext fun j => h (.phys j)
    unfold readPlace
    dsimp only
    rw [if_neg (up hs), if_neg (up ht)]
    exact devBytes_congr hdev k n
  | scratch c o =>
    have bytes (n o : Nat) : scratchBytes (t.crew c) o n = scratchBytes (s.crew c) o n := by
      induction n generalizing o with
      | zero => rfl
      | succ n ih => rw [scratchBytes, ih, show scratchAt (t.crew c) o = scratchAt (s.crew c) o from h (.scratch c o), scratchBytes]
    exact bytes n o
  | _ => rfl

theorem readPlace_sound {s : State} (h : Sound s) (p : Place) (n : Nat) : (readPlace s p n).2 = false := by
  cases p with
  | phys k =>
    unfold readPlace
    dsimp only
    split
    · rfl
    · show poisonedIn s.poison k n = false
      rw [h.1]
      rfl
  | scratch c o =>
    show poisonedIn (s.crew c).scratchPoison o n = false
    rw [h.2]
    rfl
  | _ => rfl

/-! ### Lanes one after another -/

/-- Where each team's crew is, and where each crew's core and context are. -/
def State.posts (s : State) : (Nat → Nat) × (Nat → Nat × Nat) := (fun j => (s.team j).crew, fun c => ((s.crew c).core, (s.crew c).ctx))

/-- No access of memory moves a team or a crew. -/
theorem posts_aloof : Aloof State.posts where
  memory _ _ _ _ _ _ _ _ _ _ _ _ := rfl
  scratch s i _ _ := by
    refine Prod.ext rfl (funext fun c => ?_)
    by_cases hc : c = i
    · rw [hc]
      exact (congrArg (fun x : Crew => (x.core, x.ctx)) (setCrew_crew _ _ _)).trans rfl
    · exact congrArg (fun x : Crew => (x.core, x.ctx)) (setCrew_crew_ne _ _ _ _ hc)
  wakes s i := by
    refine Prod.ext (funext fun j => ?_) rfl
    by_cases hj : j = i
    · rw [hj]
      refine (congrArg Team.crew (updTeam_team _ _ _)).trans ?_
      unfold Team.wake
      split <;> rfl
    · exact congrArg Team.crew (updTeam_team_ne _ _ _ _ hj)
  pages s i _ := by
    refine Prod.ext (funext fun j => ?_) rfl
    by_cases hj : j = i
    · rw [hj]
      exact (congrArg Team.crew (setTeam_team _ _ _)).trans rfl
    · exact congrArg Team.crew (setTeam_team_ne _ _ _ _ hj)
  notes _ _ _ _ := rfl
  hosts _ _ _ := rfl

/-- What lanes that have been performed leave, beside what lane after lane makes of memory: the same bytes, no poison, and the old values. -/
structure Exchanged (s : State) (acc : AtomAcc) (u : State) (old : List (Nat × Nat)) : Prop where
  bytes : ∀ q, byteAt acc.s q = byteAt u q
  wakes : Wakes s acc.s
  posts : acc.s.posts = s.posts
  sound : Sound acc.s
  sites : u.sites = s.sites
  bad : acc.bad = none
  old : acc.old.map (fun g => (g.1.1.lane, g.2)) = old

theorem writePlace_sites (s : State) (ctx : Nat) (p : Place) (bs : List Byte) (bad : Bool) (w : Nat) : (writePlace s ctx p bs bad w).sites = s.sites :=
  (putPlace_wakes _ w ctx p bs bad 0).sites.trans (unhide_sites s p _)

theorem byteAt_writePlace (s : State) (ctx : Nat) {p : Place} {bs : List Byte} (hreach : placeReached s p bs.length = true) (bad : Bool) (w : Nat) (q : Place) :
    byteAt (writePlace s ctx p bs bad w) q = putByte p bs q (byteAt s q) := by
  refine (byteAt_putPlace _ w ctx ?_ bad 0 q).trans (congrArg (putByte p bs q) (byteAt_of_stored (unhide_stored s p _) q))
  rw [placeReached_of_sites (unhide_sites s p _)]
  exact hreach

section
variable {s : State} {ti e : Nat} {p : Nat → Place} {new : Nat → LaneAddr → Nat} {f : Nat → Nat → Nat}

/-- One lane's exchange. -/
theorem atomLane_exchanges {acc : AtomAcc} {u : State} {old : List (Nat × Nat)} (h : Exchanged s acc u old) {x : LaneAddr × Place}
    (hx : x.2 = p x.1.lane) (hreach : placeReached s x.2 e = true) (hnew : ∀ m, leBytes e (new m x.1) = leBytes e (f m x.1.lane)) :
    Exchanged s (atomLane ti e new acc x)
      (writePlace u (s.crew (s.team ti).crew).ctx (p x.1.lane) (leBytes e (f (ofLE (readPlace u (p x.1.lane) e).1) x.1.lane)) false (s.crew (s.team ti).crew).core)
      (old ++ [(x.1.lane, ofLE (readPlace u (p x.1.lane) e).1)]) := by
  have ht : placeReached acc.s x.2 e = true := by rw [placeReached_of_sites h.wakes.sites]; exact hreach
  have hu : placeReached u x.2 e = true := by rw [placeReached_of_sites h.sites]; exact hreach
  have hread := readPlace_bytes h.bytes hu ht
  have hcrew : (acc.s.team ti).crew = (s.team ti).crew := congrFun (congrArg Prod.fst h.posts) ti
  have hpost : ((acc.s.crew (s.team ti).crew).core, (acc.s.crew (s.team ti).crew).ctx) = ((s.crew (s.team ti).crew).core, (s.crew (s.team ti).crew).ctx) :=
    congrFun (congrArg Prod.snd h.posts) (s.team ti).crew
  obtain ⟨hcore, hctx⟩ := Prod.mk.inj hpost
  have hrun : atomLane ti e new acc x = { acc with
      s := shareWrite (seenBy acc.s (s.crew (s.team ti).crew).core x.2 e) (s.crew (s.team ti).crew).core (s.crew (s.team ti).crew).ctx x.2
        (leBytes e (f (ofLE (readPlace u x.2 e).1) x.1.lane)) false (pageHint acc.s ti x.1.lane x.1.va),
      old := acc.old ++ [(x, ofLE (readPlace u x.2 e).1)] } := by
    unfold atomLane
    dsimp only
    rw [readPlace_sound h.sound, hcrew, hcore, hctx, hread, hnew]
    rfl
  have hseen := seenBy_uncached acc.s (s.crew (s.team ti).crew).core x.2 e
  have hsound : Sound (seenBy acc.s (s.crew (s.team ti).crew).core x.2 e) := h.sound.of_marks (congrArg State.marks hseen :)
  rw [hrun, ← hx]
  generalize seenBy acc.s (s.crew (s.team ti).crew).core x.2 e = s1 at hseen hsound
  generalize hbs : leBytes e (f (ofLE (readPlace u x.2 e).1) x.1.lane) = bs
  have hlen : bs.length = e := hbs ▸ leBytes_length _ _
  generalize pageHint acc.s ti x.1.lane x.1.va = hint
  generalize (s.crew (s.team ti).crew).core = w
  generalize (s.crew (s.team ti).crew).ctx = ctx
  have hbytes (q : Place) : byteAt (shareWrite s1 w ctx x.2 bs false hint) q = putByte x.2 bs q (byteAt acc.s q) :=
    byteAt_shared (stored_of_uncached hseen) w ctx (hlen.symm ▸ ht) false hint q
  have hwakes := (h.wakes.trans (.of_uncached hseen)).trans (shareWrite_wakes s1 w ctx x.2 bs false hint)
  have hposts := ((posts_aloof.shareWrite s1 w ctx x.2 bs false hint).trans (posts_aloof.of_uncached hseen)).trans h.posts
  have hclean := shareWrite_sound hsound w ctx x.2 bs hint
  generalize shareWrite s1 w ctx x.2 bs false hint = t at hbytes hwakes hposts hclean
  refine ⟨fun q => ?_, hwakes, hposts, hclean, (writePlace_sites _ _ _ _ _ _).trans h.sites, h.bad, ?_⟩
  · rw [byteAt_writePlace _ _ (hlen.symm ▸ hu), ← h.bytes]
    exact hbytes q
  · rw [List.map_append, h.old]
    rfl

theorem atomLanes_exchange {xs : List (LaneAddr × Place)} (hx : ∀ x ∈ xs, x.2 = p x.1.lane) (hreach : ∀ x ∈ xs, placeReached s x.2 e = true)
    (hnew : ∀ x ∈ xs, ∀ m, leBytes e (new m x.1) = leBytes e (f m x.1.lane)) {acc : AtomAcc} {u : State} {old : List (Nat × Nat)}
    (h : Exchanged s acc u old) :
    Exchanged s (xs.foldl (atomLane ti e new) acc)
      (Sys2Proof.Claims.atomics (s.crew (s.team ti).crew).core (s.crew (s.team ti).crew).ctx e p f (xs.map (·.1.lane)) u).1
      (old ++ (Sys2Proof.Claims.atomics (s.crew (s.team ti).crew).core (s.crew (s.team ti).crew).ctx e p f (xs.map (·.1.lane)) u).2) := by
  induction xs generalizing acc u old with
  | nil => exact (List.append_nil old).symm ▸ h
  | cons x r ih =>
    have hone := atomLane_exchanges (ti := ti) h (hx x List.mem_cons_self) (hreach x List.mem_cons_self) (hnew x List.mem_cons_self)
    have hrest := ih (fun y hy => hx y (List.mem_cons_of_mem _ hy)) (fun y hy => hreach y (List.mem_cons_of_mem _ hy))
      (fun y hy => hnew y (List.mem_cons_of_mem _ hy)) hone
    rw [List.append_assoc] at hrest
    exact hrest

end

/-! ### What an atomic comes to -/

/-- The form of an atomic: `k` operands of an element each from Vd on. -/
def atomForm (s : State) (op : Nat) (tys : Nat → Bool) (cas : Bool) (d a b : Opnd) : MemForm :=
  { op := op, word := wordF3 op d a b,
    fields := [fld d (fun o => match o with
      | .v k => !mr64 s.me.mr || k.val % 2 == 0
      | _ => false), fld a okS, fld b okIdx],
    tyOk := mrTyValid s.me.mr && tys (mrType s.me.mr), d := d, dN := if cas then 2 * mrWords s.me.mr else mrWords s.me.mr, base := a, idx := some b }

/-- An atomic outside scratch ends an idempotent crew's drafting first. -/
def atomBefore (s : State) (s' : State) (l : List LaneAddr) : State := if l.any (fun x => decide (x.va < winLo)) then endIdem s' s.me.crew else s'

/-- The new value of a lane's location, of its old one. -/
def atomValue (s : State) (cas : Bool) (new : Nat → Nat → Nat → Nat → Nat) (d : Opnd) (m : Nat) (x : LaneAddr) : Nat :=
  let v := readGrp s.me x.at_ (if cas then 2 * mrWords s.me.mr else mrWords s.me.mr) d x.lane
  new (mrType s.me.mr) m (v % 2 ^ (8 * tySize (mrType s.me.mr))) (v / 2 ^ (32 * mrWords s.me.mr)) % 2 ^ (8 * tySize (mrType s.me.mr))

/-- The lanes performed. -/
def atomsRun (s : State) (cas : Bool) (new : Nat → Nat → Nat → Nat → Nat) (d : Opnd) (xs : List (LaneAddr × Place)) : AtomAcc :=
  xs.foldl (atomLane s.cur (tySize (mrType s.me.mr)) (atomValue s cas new d)) { s := s.settled }

/-- The writes of the old values, quick or in flight. -/
def atomWrites (s : State) (d : Opnd) (acc : AtomAcc) : List (List PendWrite × List (Reg × Nat × W64)) :=
  acc.old.map (fun g => loadWrites acc.s s.cur d (mrWords s.me.mr) g.1 g.2)

/-- An atomic of a ready team whose lanes' addresses have places that it may act on. -/
theorem atomOp_runs {i : Instr} {s : State} {op : Nat} {tys : Nat → Bool} {cas : Bool} {new : Nat → Nat → Nat → Nat → Nat} {d : Fin 128} {a b : Opnd}
    {p : Nat → Place} (he : exec i s = atomOp op tys cas new (.v d) a b s) (h : ready s = true) (hty : mrTyValid s.me.mr = true)
    (htys : tys (mrType s.me.mr) = true) (hd : mr64 s.me.mr = true → d.val % 2 = 0) (ha : okS a = true) (hb : okIdx b = true)
    (hreach : WithinRegs s.me (((atomForm s op tys cas (.v d) a b).d, (atomForm s op tys cas (.v d) a b).dN) :: (atomForm s op tys cas (.v d) a b).addrOps))
    (hdone : s.me.doneLanes = 0) (hfit : requestsFit s = true) (hdraft : (s.crew s.me.crew).drafting = false)
    (hat : AtSpots s .atomic (atomForm s op tys cas (.v d) a b) p) (hhost : ∀ l, writesLane s.me false l → hostRefused op (mrType s.me.mr) (p l) = false)
    (hgood : ∀ xs, (∀ x ∈ xs, writesLane s.me false x.1.lane ∧ x.2 = p x.1.lane) → (atomsRun s cas new (.v d) xs).bad = none) :
    ∃ ps reqs, ps.map (fun p : Pass => (p.lo, p.n)) = passWords s.me (mr64 s.me.mr) ∧
      exec i s = .next (retire (putFlight (atomsRun s cas new (.v d) (spotLanes s (atomForm s op tys cas (.v d) a b) p ps)).s s.cur
        ((atomWrites s (.v d) (atomsRun s cas new (.v d) (spotLanes s (atomForm s op tys cas (.v d) a b) p ps))).flatMap (·.2)) reqs) s.cur op 1 ps false
        ((atomWrites s (.v d) (atomsRun s cas new (.v d) (spotLanes s (atomForm s op tys cas (.v d) a b) p ps))).flatMap (·.1))) := by
  have hbefore (l : List LaneAddr) : atomBefore s s.settled l = s.settled := by
    unfold atomBefore
    split
    · exact endIdem_of_not hdraft
    · rfl
  have hfields : (atomForm s op tys cas (.v d) a b).fields.all (·.2) = true := by
    have heven : (!mr64 s.me.mr || d.val % 2 == 0) = true := by
      cases hm : mr64 s.me.mr with
      | false => rfl
      | true => exact beq_iff_eq.2 (hd hm)
    simp [atomForm, fld, ha, hb, heven]
  obtain ⟨ps, hps, hready⟩ := memReady_spots (reads := [(.v d, (atomForm s op tys cas (.v d) a b).dN)]) h hfields
    (by rw [dqTyOk_plain _ (by simp [plainOpnd])]; simp [atomForm, hty, htys]) hreach hdone hat (by decide) true (before := atomBefore s) hbefore
  have hroom := spotted_room h hfit (atomForm s op tys cas (.v d) a b) .atomic p hps op
  have hlane (x : LaneAddr × Place) (hx : x ∈ spotLanes s (atomForm s op tys cas (.v d) a b) p ps) : writesLane s.me false x.1.lane ∧ x.2 = p x.1.lane := by
    rw [spotLanes_eq] at hx
    obtain ⟨y, hy, rfl⟩ := List.mem_map.1 hx
    exact ⟨mem_parts.1 (laneAddrs_lanes (ready_lanes h).1 _ hps ▸ List.mem_map_of_mem hy), rfl⟩
  have hrefused : (spotLanes s (atomForm s op tys cas (.v d) a b) p ps).find? (fun x => hostRefused op (mrType s.me.mr) x.2) = none :=
    List.find?_eq_none.2 fun x hx => by
      obtain ⟨hl, hp⟩ := hlane x hx
      rw [hp, hhost _ hl]
      exact Bool.false_ne_true
  have hbad := hgood _ hlane
  refine ⟨ps, (spotted s (atomForm s op tys cas (.v d) a b) .atomic p ps).requests.sum, hps, ?_⟩
  unfold atomOp at he
  refine he.trans (runInstr_ok s _ _ h ?_)
  show Except.bind (memReady s s.cur s.me (atomForm s op tys cas (.v d) a b) [(.v d, (atomForm s op tys cas (.v d) a b).dN)] .atomic true (atomBefore s)) _ = _
  rw [hready]
  have hclose : closeWords s.settled s.cur (laneWords (spotLanes s (atomForm s op tys cas (.v d) a b) p ps)) = s.settled :=
    closeSome_nil _ ((congrArg Team.flight (settled_team s)).trans (ready_flight h))
  have hall : (spotLanes s (atomForm s op tys cas (.v d) a b) p ps).drop (spotLanes s (atomForm s op tys cas (.v d) a b) p ps).length = [] := List.drop_length
  have hgroups : (spotted s (atomForm s op tys cas (.v d) a b) .atomic p ps).groups.flatten = spotLanes s (atomForm s op tys cas (.v d) a b) p ps := rfl
  have hlanes : (spotted s (atomForm s op tys cas (.v d) a b) .atomic p ps).lanes = spotLanes s (atomForm s op tys cas (.v d) a b) p ps := rfl
  have hsettled : (spotted s (atomForm s op tys cas (.v d) a b) .atomic p ps).s = s.settled := rfl
  have hpasses : (spotted s (atomForm s op tys cas (.v d) a b) .atomic p ps).ps = ps := rfl
  have hfault : (spotted s (atomForm s op tys cas (.v d) a b) .atomic p ps).fault = none := rfl
  have hpoison : (spotted s (atomForm s op tys cas (.v d) a b) .atomic p ps).poison = .ok () := rfl
  have hearly : (spotted s (atomForm s op tys cas (.v d) a b) .atomic p ps).early = .ok () := rfl
  generalize spotted s (atomForm s op tys cas (.v d) a b) .atomic p ps = r at hgroups hlanes hsettled hpasses hfault hpoison hearly hroom ⊢
  generalize spotLanes s (atomForm s op tys cas (.v d) a b) p ps = xs at hgroups hlanes hclose hall hrefused hbad ⊢
  simp only [Except.bind, hgroups, hlanes, hrefused, hfault, hpoison, hearly, hsettled, settled_team, hpasses, hall, hclose, hroom, List.all_nil, List.filter_true, bind]
  unfold atomsRun atomValue at hbad
  dsimp only at hbad
  rw [hbad]
  rfl

/-! ### What an atomic leaves -/

/-- Writing e bytes of a value takes no more of it than they hold. -/
theorem leBytes_mod (e v : Nat) : leBytes e (v % 2 ^ (8 * e)) = leBytes e v := by
  induction e generalizing v with
  | zero => rfl
  | succ e ih =>
    have hpow : 2 ^ (8 * (e + 1)) = 2 ^ 8 * 2 ^ (8 * e) := by rw [← Nat.pow_add]; congr 1; omega
    have hlow : v % 2 ^ (8 * (e + 1)) % 256 = v % 256 := by rw [hpow]; exact Nat.mod_mul_right_mod v (2 ^ 8) _
    have hhigh : v % 2 ^ (8 * (e + 1)) / 256 = v / 256 % 2 ^ (8 * e) := by rw [hpow]; exact Nat.mod_mul_right_div_self v (2 ^ 8) _
    rw [leBytes, leBytes, hhigh, ih]
    exact congrArg (· :: _) (BitVec.eq_of_toNat_eq (by rw [BitVec.toNat_ofNat, BitVec.toNat_ofNat]; exact hlow))

/-- Registers of 32 bits each. -/
theorem readWords_lt (t : Team) (c l n : Nat) : ∀ r, readWords t c l r n < 2 ^ (32 * n) := by
  induction n with
  | zero => exact fun _ => Nat.one_pos
  | succ n ih =>
    intro r
    have hrest := ih (r + 1)
    have hpow : 2 ^ (32 * (n + 1)) = 2 ^ 32 * 2 ^ (32 * n) := by rw [← Nat.pow_add]; congr 1; omega
    rw [readWords, hpow]
    omega

/-- The second operand of an atomic, of the element's size. -/
theorem atomOperand_fits {t : Team} {cas : Bool} (hfull : cas = true → 8 * tySize (mrType t.mr) = 32 * mrWords t.mr) (d : Fin 128) (c l : Nat) :
    readGrp t c (if cas then 2 * mrWords t.mr else mrWords t.mr) (.v d) l / 2 ^ (32 * mrWords t.mr) < 2 ^ (8 * tySize (mrType t.mr)) := by
  cases cas with
  | false =>
    have hlt : readGrp t c (mrWords t.mr) (.v d) l < 2 ^ (32 * mrWords t.mr) := readWords_lt t c l _ _
    show readGrp t c (mrWords t.mr) (.v d) l / 2 ^ (32 * mrWords t.mr) < _
    rw [Nat.div_eq_of_lt hlt]
    exact Nat.two_pow_pos _
  | true =>
    have hlt : readGrp t c (2 * mrWords t.mr) (.v d) l < 2 ^ (32 * (2 * mrWords t.mr)) := readWords_lt t c l _ _
    show readGrp t c (2 * mrWords t.mr) (.v d) l / 2 ^ (32 * mrWords t.mr) < _
    refine Nat.div_lt_of_lt_mul (Nat.lt_of_lt_of_eq hlt ?_)
    rw [hfull rfl, ← Nat.pow_add]
    congr 1
    omega

/-- What lane l's location becomes, of its old value. -/
def atomNext (s : State) (k : Nat) (new : Nat → Nat → Nat → Nat) (d : Fin 128) (m l : Nat) : Nat :=
  let v := opVal s.me (k * mrWords s.me.mr) (.v d) l
  new m (v % 2 ^ (8 * tySize (mrType s.me.mr))) (v / 2 ^ (32 * mrWords s.me.mr) % 2 ^ (8 * tySize (mrType s.me.mr)))

theorem atomValue_next {s : State} {cas : Bool} (ht : s.me.pend = []) (hfull : cas = true → 8 * tySize (mrType s.me.mr) = 32 * mrWords s.me.mr)
    (new : Nat → Nat → Nat → Nat → Nat) (d : Fin 128) (x : LaneAddr) (m : Nat) : leBytes (tySize (mrType s.me.mr)) (atomValue s cas new (.v d) m x) =
      leBytes (tySize (mrType s.me.mr)) (atomNext s (if cas then 2 else 1) (new (mrType s.me.mr)) d m x.lane) := by
  have hcount : (if cas then 2 else 1) * mrWords s.me.mr = if cas then 2 * mrWords s.me.mr else mrWords s.me.mr := by
    cases cas <;> simp
  rw [atomValue, leBytes_mod, atomNext, opVal, hcount, readGrp_nil ht x.at_]
  rw [Nat.mod_eq_of_lt (atomOperand_fits hfull d 0 x.lane)]
  rfl

/-- The old values go to their registers, at once or with a response. -/
theorem atomWrites_iff (s : State) (d : Fin 128) (acc : AtomAcc) (x : Reg × Nat × W64) :
    ((∃ w ∈ (atomWrites s (.v d) acc).flatMap (·.1), w.il = true ∧ (w.reg, w.lane, w.val) = x) ∨ x ∈ (atomWrites s (.v d) acc).flatMap (·.2)) ↔
      ∃ o ∈ acc.old.map (fun g => (g.1.1.lane, g.2)), x ∈ grpWrites s.me (mrWords s.me.mr) (.v d) 0 o.1 o.2 := by
  have one (g : (LaneAddr × Place) × Nat) : ((∃ w ∈ (loadWrites acc.s s.cur (.v d) (mrWords s.me.mr) g.1 g.2).1, w.il = true ∧ (w.reg, w.lane, w.val) = x) ∨
      x ∈ (loadWrites acc.s s.cur (.v d) (mrWords s.me.mr) g.1 g.2).2) ↔ x ∈ grpWrites s.me (mrWords s.me.mr) (.v d) 0 g.1.1.lane g.2 := by
    obtain ⟨r, l, v⟩ := x
    unfold loadWrites
    dsimp only
    split <;> simp [grpWrites]
  simp only [atomWrites, List.mem_flatMap, List.mem_map, exists_exists_and_eq_and, ← one]
  constructor
  · rintro (⟨w, ⟨g, hg, hw⟩, hx⟩ | ⟨g, hg, hx⟩)
    · exact ⟨g, hg, .inl ⟨w, hw, hx⟩⟩
    · exact ⟨g, hg, .inr hx⟩
  · rintro ⟨g, hg, ⟨w, hw, hx⟩ | hx⟩
    · exact .inl ⟨w, ⟨g, hg, hw⟩, hx⟩
    · exact .inr ⟨g, hg, hx⟩

/-- A ready team's atomics begin with memory as it stands. -/
theorem exchanged_none {s : State} (hsound : Sound s) : Exchanged s { s := s.settled } s [] := by
  have hsettled (j : Nat) : s.settled.team j = s.team j := by
    by_cases hj : j = s.cur
    · rw [hj]
      exact settled_team s
    · exact (onlyTeam_settled s).2.1 j hj
  exact ⟨(onlyTeam_settled s).byteAt, ⟨rfl, rfl, fun j => .inl (hsettled j)⟩, Prod.ext (funext fun j => congrArg Team.crew (hsettled j)) rfl,
    ⟨hsound.1, hsound.2⟩, rfl, rfl, rfl⟩

/-- Settles O27's part of one atomic: what it leaves at the places of its lanes. -/
theorem atomics_of {i : Instr} {s : State} {op : Nat} {tys : Nat → Bool} {cas : Bool} {new : Nat → Nat → Nat → Nat → Nat} {d : Fin 128} {a b : Opnd}
    {p : Nat → Place} (he : exec i s = atomOp op tys cas new (.v d) a b s) (h : ready s = true) (hty : mrTyValid s.me.mr = true)
    (htys : tys (mrType s.me.mr) = true) (hfull : cas = true → 8 * tySize (mrType s.me.mr) = 32 * mrWords s.me.mr)
    (hd : mr64 s.me.mr = true → d.val % 2 = 0) (ha : okS a = true) (hb : okIdx b = true)
    (hin : inRange s.me [(.v d, (if cas then 2 else 1) * mrWords s.me.mr), (a, 1), (b, 1)] = true)
    (hdone : s.me.doneLanes = 0) (hfit : requestsFit s = true) (hdraft : (s.crew s.me.crew).drafting = false) (hsound : Sound s)
    (hat : ∀ l, writesLane s.me false l → spot s .atomic (tySize (mrType s.me.mr)) l (addrX s.me (tySize (mrType s.me.mr)) a b l) = some (p l) ∧
      hostRefused op (mrType s.me.mr) (p l) = false)
    {r : State × List (Nat × Nat)} (hr : r = Sys2Proof.Claims.atomics (s.crew s.me.crew).core (s.crew s.me.crew).ctx (tySize (mrType s.me.mr)) p
      (atomNext s (if cas then 2 else 1) (new (mrType s.me.mr)) d) (parts s.me) s) :
    ∃ t, exec i s = .next t ∧ t.me.pc = nextPc s.me.pc 1 ∧ t.me.status = .run ∧ (∀ q, byteAt t q = byteAt r.1 q) ∧
      ∀ x, ((∃ w ∈ t.me.pend, w.il = true ∧ (w.reg, w.lane, w.val) = x) ∨ (∃ f ∈ t.me.flight, x ∈ f.writes)) ↔
        ∃ o ∈ r.2, x ∈ grpWrites s.me (mrWords s.me.mr) (.v d) 0 o.1 o.2 := by
  have hcount : (if cas then 2 else 1) * mrWords s.me.mr = if cas then 2 * mrWords s.me.mr else mrWords s.me.mr := by
    cases cas <;> simp
  have hexchange (xs : List (LaneAddr × Place)) (hx : ∀ x ∈ xs, writesLane s.me false x.1.lane ∧ x.2 = p x.1.lane) :=
    atomLanes_exchange (s := s) (ti := s.cur) (e := tySize (mrType s.me.mr)) (p := p) (new := atomValue s cas new (.v d))
      (f := atomNext s (if cas then 2 else 1) (new (mrType s.me.mr)) d) (xs := xs) (fun x hm => (hx x hm).2)
      (fun x hm => (hx x hm).2 ▸ spot_reached (hat _ (hx x hm).1).1) (fun x _ m => atomValue_next (ready_pend h) hfull new d x.1 m) (exchanged_none hsound)
  rw [hcount] at hin
  obtain ⟨ps, reqs, hps, hexec⟩ := atomOp_runs he h hty htys hd ha hb (withinRegs_of_inRange hin) hdone hfit hdraft (fun l hl => (hat l hl).1)
    (fun l hl => (hat l hl).2) (fun xs hx => (hexchange xs hx).bad)
  have hlanes : (spotLanes s (atomForm s op tys cas (.v d) a b) p ps).map (·.1.lane) = parts s.me := by
    rw [spotLanes_eq, ← laneAddrs_lanes (ready_lanes h).1 _ hps, List.map_map]
    rfl
  have hrun := hexchange _ (fun x hx => by
    have hall := spotLanes_iff (ready_lanes h).1 (atomForm s op tys cas (.v d) a b) p hps (fun k q => (k, q) = (x.1.lane, x.2))
    obtain ⟨k, hk, heq⟩ := hall.1 ⟨x, hx, rfl⟩
    obtain ⟨rfl, hq⟩ := Prod.mk.inj heq
    exact ⟨hk, hq.symm⟩)
  rw [hlanes, List.nil_append, show s.team s.cur = s.me from rfl, ← hr] at hrun
  have hacc : (spotLanes s (atomForm s op tys cas (.v d) a b) p ps).foldl (atomLane s.cur (tySize (mrType s.me.mr)) (atomValue s cas new (.v d)))
      { s := s.settled } = atomsRun s cas new (.v d) (spotLanes s (atomForm s op tys cas (.v d) a b) p ps) := rfl
  rw [hacc] at hrun
  generalize atomsRun s cas new (.v d) (spotLanes s (atomForm s op tys cas (.v d) a b) p ps) = acc at hexec hrun
  have hiff := atomWrites_iff s d acc
  rw [hrun.old] at hiff
  have hme : acc.s.team s.cur = s.me := (hrun.wakes.teams s.cur).elim id (fun hw => hw.trans (wake_of_canIssue (ready_issue h)))
  obtain ⟨hput, F, hflight, -, hwrites⟩ := putFlight_team acc.s s.cur ((atomWrites s (.v d) acc).flatMap (·.2)) reqs []
  generalize putFlight acc.s s.cur ((atomWrites s (.v d) acc).flatMap (·.2)) reqs = s2 at hexec hput hflight
  generalize (atomWrites s (.v d) acc).flatMap (·.1) = W at hexec hiff
  have honly := hput.trans (retire_onlyTeam s2 s.cur op 1 ps false W)
  have hstep := retire_step op ps W (hput.cur.trans hrun.wakes.cur)
  have hstatus := retire_status s2 s.cur op 1 ps false W
  generalize retire s2 s.cur op 1 ps false W = t at hexec honly hstep hstatus
  rw [hflight, hme, ready_flight h, ready_pend h] at hstep
  have hpend : t.me.pend = W := (congrArg Team.pend hstep :)
  have hfl : t.me.flight = F := (congrArg Team.flight hstep :)
  refine ⟨t, hexec, (congrArg Team.pc hstep :), ?_, fun q => (honly.byteAt q).trans (hrun.bytes q), fun x => ?_⟩
  · rw [State.me, honly.cur, hrun.wakes.cur]
    exact hstatus
  · rw [hpend, hfl, hwrites x]
    exact hiff x

/-- An element of the types that every atomic of a full register takes fills its registers. -/
theorem full_of_tyAtomAny {m : W64} (h : tyAtomAny (mrType m) = true) : 8 * tySize (mrType m) = 32 * mrWords m := by
  unfold tyAtomAny tyWidth at h
  unfold tySize mrWords mr64 tyIs64 tyWidth
  split at h <;> simp_all

/-- Settles O27: the lanes' exchanges are those that the claim makes one after another, and the old values go to the registers from Vd on. -/
theorem atomicsExchangeOldForNew : Obligations.AtomicsExchangeOldForNew := by
  unfold Obligations.AtomicsExchangeOldForNew
  rintro s d a b _ _ _ h hty rfl rfl rfl hdone ha hb hd hdraft hpoison hscratch hfit mk hmk row rfl p hat htys hin r hr
  have run {i : Instr} {op : Nat} {tys : Nat → Bool} {cas : Bool} {new : Nat → Nat → Nat → Nat → Nat} (he : exec i s = atomOp op tys cas new (.v d) a b s) htys hfull hin hat hr :=
    atomics_of (r := r) (p := p) he h hty htys hfull hd ha hb hin hdone hfit hdraft ⟨hpoison, hscratch⟩ hat hr
  have plain {i : Instr} {op : Nat} {tys : Nat → Bool} {new : Nat → Nat → Nat → Nat → Nat} (he : exec i s = atomOp op tys false new (.v d) a b s) htys :=
    run he htys nofun
  simp only [Sys2Proof.Claims.atomRows, List.mem_cons, List.not_mem_nil, or_false] at hmk
  obtain rfl | rfl | rfl | rfl | rfl | rfl | rfl | rfl | rfl | rfl := hmk
  · exact plain (show exec (.atomAdd (.v d) a b) s = execAtomAdd (.v d) a b s from rfl) htys hin hat hr
  · exact plain (show exec (.atomMin (.v d) a b) s = execAtomMin (.v d) a b s from rfl) htys hin hat hr
  · exact plain (show exec (.atomMax (.v d) a b) s = execAtomMax (.v d) a b s from rfl) htys hin hat hr
  · exact plain (show exec (.atomAnd (.v d) a b) s = execAtomAnd (.v d) a b s from rfl) htys hin hat hr
  · exact plain (show exec (.atomOr (.v d) a b) s = execAtomOr (.v d) a b s from rfl) htys hin hat hr
  · exact plain (show exec (.atomXor (.v d) a b) s = execAtomXor (.v d) a b s from rfl) htys hin hat hr
  · exact plain (show exec (.atomXchg (.v d) a b) s = execAtomXchg (.v d) a b s from rfl) htys hin hat hr
  · exact run (show exec (.atomCas (.v d) a b) s = execAtomCas (.v d) a b s from rfl) htys (fun _ => full_of_tyAtomAny htys) hin hat hr
  · exact plain (show exec (.atomDecp (.v d) a b) s = execAtomDecp (.v d) a b s from rfl) htys hin hat hr
  · exact plain (show exec (.atomIncw (.v d) a b) s = execAtomIncw (.v d) a b s from rfl) htys hin hat hr

end Sys2Proof.Machine
end

section
/-! SUPPORT. What a unit of the hub die reads and writes does not depend on the older forms of words that some agents see (09 R180, 11 R225): the
jobs' counts (05 R105), the ready queues (R107) and enqueueing (R100, R108) come out the same whatever those forms are. -/

namespace Sys2Proof.Machine

/-- The machine without the older forms of words that its agents see. -/
def State.clear (s : State) : State := { s with stale := [], caches := { s.caches with l1Old := [], marginOld := [] } }

theorem alike_cases {α : Type} {x y : State × α} (h : x.1.clear = y.1.clear ∧ x.2 = y.2) :
    ∃ t s r, x = (t, r) ∧ y = (s, r) ∧ t.clear = s.clear := ⟨x.1, y.1, x.2, rfl, Prod.ext rfl h.2.symm, h.1⟩

theorem foldl_clear {β : Type} {f : State → β → State} (hf : ∀ {s t : State}, t.clear = s.clear → ∀ b, (f t b).clear = (f s b).clear) (l : List β)
    {s t : State} (h : t.clear = s.clear) : (l.foldl f t).clear = (l.foldl f s).clear := by
  induction l generalizing s t with
  | nil => exact h
  | cons b r ih => exact ih (hf h b)

section
variable {s t : State} (h : t.clear = s.clear)
include h

theorem teams_of_clear : t.teams = s.teams := (congrArg State.teams h :)
theorem queues_of_clear : t.queues = s.queues := (congrArg State.queues h :)
theorem ctx_of_clear (c : Nat) : t.ctx c = s.ctx c := (congrArg (fun x : State => x.ctx c) h :)
theorem fresh_of_clear : t.fresh = s.fresh := (congrArg State.fresh h :)
theorem present_of_clear (k : Nat) : t.present k = s.present k := (congrArg (fun x : State => x.present k) h :)
theorem hostUp_of_clear : hostUp t = hostUp s := (congrArg hostUp h :)
theorem homeByte_of_clear (k : Nat) : t.homeByte k = s.homeByte k := (congrArg (fun x : State => x.homeByte k) h :)
theorem devByte_of_clear : t.devByte = s.devByte := (congrArg State.devByte h :)

theorem homeBytes_of_clear (k n : Nat) : t.homeBytes k n = s.homeBytes k n := by
  induction n generalizing k with
  | zero => rfl
  | succ n ih => rw [State.homeBytes, ih, homeByte_of_clear h, State.homeBytes]

theorem readPlace_of_clear (p : Place) (n : Nat) : readPlace t p n = readPlace s p n := by
  cases p with
  | phys k =>
    have hpoison : t.poison = s.poison := (congrArg State.poison h :)
    unfold readPlace
    dsimp only
    rw [hostUp_of_clear h, fresh_of_clear h, devBytes_congr (devByte_of_clear h), hpoison]
  | scratch c o =>
    have hcrew : t.crew c = s.crew c := (congrArg (fun x : State => x.crew c) h :)
    show (scratchBytes (t.crew c) o n, poisonedIn (t.crew c).scratchPoison o n) = _
    rw [hcrew]
    rfl
  | _ => rfl

/-! ### Bytes of memory -/

theorem putMem_clear (k : Nat) (b : Byte) : (t.putMem k b).clear = (s.putMem k b).clear := by
  have hp := present_of_clear h k
  unfold State.putMem
  rw [hp]
  split
  · exact congrArg (fun x : State => { x with mem := cset (x.blank k) x.mem k b }) h
  · exact h

theorem putHome_clear (k : Nat) (b : Byte) : (t.putHome k b).clear = (s.putHome k b).clear :=
  congrArg (fun x : State => { x with l2 := cset none x.l2 k none }) (putMem_clear h k b)

theorem putOver_clear (k : Nat) (b : Byte) : (t.putOver k b).clear = (s.putOver k b).clear := by
  have hp := present_of_clear h k
  unfold State.putOver
  rw [hp]
  split
  · exact congrArg (fun x : State => { x with l2 := cset none x.l2 k (some b) }) h
  · exact h

end

theorem putHomeBytes_clear (bs : List Byte) {s t : State} (h : t.clear = s.clear) (k : Nat) : (t.putHomeBytes k bs).clear = (s.putHomeBytes k bs).clear := by
  induction bs generalizing s t k with
  | nil => exact h
  | cons b r ih => exact ih (putHome_clear h k b) (k + 1)

theorem putMemBytes_clear (bs : List Byte) {s t : State} (h : t.clear = s.clear) (k : Nat) : (t.putMemBytes k bs).clear = (s.putMemBytes k bs).clear := by
  induction bs generalizing s t k with
  | nil => exact h
  | cons b r ih => exact ih (putMem_clear h k b) (k + 1)

theorem putOverBytes_clear (bs : List Byte) {s t : State} (h : t.clear = s.clear) (k : Nat) : (t.putOverBytes k bs).clear = (s.putOverBytes k bs).clear := by
  induction bs generalizing s t k with
  | nil => exact h
  | cons b r ih => exact ih (putOver_clear h k b) (k + 1)

section
variable {s t : State} (h : t.clear = s.clear)
include h

theorem updTeam_clear (i : Nat) (f : Team → Team) : (t.updTeam i f).clear = (s.updTeam i f).clear := congrArg (fun x : State => x.updTeam i f) h
theorem through_clear (l : List (Nat × Nat)) : ({ t with through := l } : State).clear = ({ s with through := l } : State).clear :=
  congrArg (fun x : State => { x with through := l }) h
theorem queued_clear (q : Cells Queue) : ({ t with queues := q } : State).clear = ({ s with queues := q } : State).clear :=
  congrArg (fun x : State => { x with queues := q }) h
theorem updCtx_clear (i : Nat) (f : Ctx → Ctx) : (t.updCtx i f).clear = (s.updCtx i f).clear := congrArg (fun x : State => x.updCtx i f) h

theorem touch_clear (line : Nat) : (t.touch line).clear = (s.touch line).clear := by
  have watched : (if t.queues.any (fun e => e.2.watch == some line) then
        { t with queues := t.queues.map (fun e => if e.2.watch = some line then (e.1, { e.2 with lineChanged := true }) else e) } else t).clear =
      (if s.queues.any (fun e => e.2.watch == some line) then
        { s with queues := s.queues.map (fun e => if e.2.watch = some line then (e.1, { e.2 with lineChanged := true }) else e) } else s).clear := by
    rw [queues_of_clear h]
    split
    · exact queued_clear h _
    · exact h
  unfold State.touch
  generalize (if t.queues.any (fun e => e.2.watch == some line) then
      { t with queues := t.queues.map (fun e => if e.2.watch = some line then (e.1, { e.2 with lineChanged := true }) else e) } else t) = t1 at watched ⊢
  generalize (if s.queues.any (fun e => e.2.watch == some line) then
      { s with queues := s.queues.map (fun e => if e.2.watch = some line then (e.1, { e.2 with lineChanged := true }) else e) } else s) = s1 at watched ⊢
  dsimp only
  rw [teams_of_clear watched]
  split
  · refine foldl_clear (fun h' e => ?_) _ watched
    split
    · exact updTeam_clear h' _ _
    · exact h'
  · exact watched

theorem touchLines_clear (ls : List Nat) : (ls.foldl State.touch t).clear = (ls.foldl State.touch s).clear := foldl_clear (fun h' l => touch_clear h' l) ls h

theorem rewrites_clear (k n : Nat) : (t.rewrites k n).clear = (s.rewrites k n).clear := by
  unfold State.rewrites
  dsimp only
  rw [queues_of_clear h]
  split
  · exact queued_clear h _
  · exact h

theorem dirtyDie_clear (ctx die : Nat) : (t.dirtyDie ctx die).clear = (s.dirtyDie ctx die).clear := by
  unfold State.dirtyDie
  rw [ctx_of_clear h]
  split
  · exact h
  · exact updCtx_clear h _ _

theorem useL2_clear (line hint : Nat) : (useL2 t line hint).clear = (useL2 s line hint).clear := by
  unfold useL2
  split
  · have hdie : t.die (keyDie (64 * line)) = s.die (keyDie (64 * line)) := (congrArg (fun x : State => x.die (keyDie (64 * line))) h :)
    have hl2 : t.caches.l2 = s.caches.l2 := (congrArg (fun x : State => x.caches.l2) h :)
    dsimp only
    rw [hdie, hl2]
    generalize useLine 2 (((s.die (keyDie (64 * line))).share + 1) * 2 ^ 29) (cget [] s.caches.l2 (keyDie (64 * line))) line hint = r
    exact congrArg (fun x : State => { x with caches := { x.caches with l2 := cset [] s.caches.l2 (keyDie (64 * line)) r.1, out := x.caches.out ++ r.2.toList } }) h
  · exact h

theorem post_clear (w ctx k : Nat) (bs : List Byte) : (t.post w ctx k bs).clear = (s.post w ctx k bs).clear := by
  unfold State.post
  rw [hostUp_of_clear h]
  split
  · exact congrArg (fun x : State => { x with posted := x.posted ++ postedOf x (512 ≤ w) ctx k bs }) (putOverBytes_clear bs h k)
  · exact h

/-- Bytes written by the hub die. -/
theorem putDevBytes_clear (ctx k : Nat) (bs : List Byte) (hint : Nat) : (t.putDevBytes 512 ctx k bs hint).clear = (s.putDevBytes 512 ctx k bs hint).clear := by
  unfold State.putDevBytes
  simp only [Nat.lt_irrefl, false_and, decide_false, Bool.false_eq_true, if_false]
  split
  · exact post_clear h 512 ctx k bs
  · split
    · exact putOverBytes_clear bs (foldl_clear (fun h' l => useL2_clear h' l _) _ (dirtyDie_clear h ctx _)) k
    · exact putHomeBytes_clear bs h k

theorem unhide_clear (p : Place) (n : Nat) : (t.unhide p n).clear = (s.unhide p n).clear := by
  have one (u : State) : (u.unhide p n).clear = u.clear := by
    unfold State.unhide
    split <;> rfl
  rw [one t, one s, h]

theorem putPlace_clear (ctx : Nat) (p : Place) (bs : List Byte) (bad : Bool) (hint : Nat) :
    (putPlace t 512 ctx p bs bad hint).clear = (putPlace s 512 ctx p bs bad hint).clear := by
  refine touchLines_clear ?_ _
  cases p with
  | phys k =>
    exact congrArg (fun x : State => { x with poison := poisonAfter x.poison k bs.length bad }) (putDevBytes_clear (rewrites_clear h k bs.length) ctx k bs hint)
  | scratch c o =>
    exact congrArg (fun x : State => x.updCrew c (fun c => { c with
      scratch := scratchPut c.scratch o bs, scratchPoison := poisonAfter c.scratchPoison o bs.length bad })) h
  | _ => exact h

/-- A write of the hub die that cores may see later. -/
theorem shareWrite_clear (ctx : Nat) (p : Place) (bs : List Byte) (bad : Bool) (hint : Nat) :
    (shareWrite t 512 ctx p bs bad hint).clear = (shareWrite s 512 ctx p bs bad hint).clear := by
  have forms (n : Nat) (ps : List Place) (u : State) : (ps.foldl (fun s x => keepForm s n 512 x) u).clear = u.clear :=
    foldl_keeps (fun s x => keepForm s n 512 x) State.clear (fun _ _ => rfl) ps u
  have hothers : othersSee t 512 = othersSee s 512 := (congrArg (othersSee · 512) h :)
  unfold shareWrite
  rw [if_neg (Nat.lt_irrefl 512), if_neg (Nat.lt_irrefl 512)]
  dsimp only
  rw [hothers]
  refine putPlace_clear ?_ ctx p bs bad hint
  split
  · rw [forms, forms]
    exact congrArg (fun x : State => x.draw.2) h
  · exact h

theorem homePut_clear (k : Nat) (bs : List Byte) : (homePut t k bs).clear = (homePut s k bs).clear := by
  refine touchLines_clear ?_ _
  exact congrArg (fun x : State => { x with poison := poisonAfter x.poison k bs.length false }) (putHomeBytes_clear bs (unhide_clear h (.phys k) bs.length) k)

/-! ### The walk -/

theorem setBits_clear (key set : Nat) : (setBits t key set).clear = (setBits s key set).clear := by
  unfold setBits
  dsimp only
  rw [homeByte_of_clear h]
  split
  · exact h
  · exact touchLines_clear (putMem_clear h key _) _

theorem firstTouch_clear (ctx pte key : Nat) (write : Bool) :
    (firstTouch t ctx pte key write).1.clear = (firstTouch s ctx pte key write).1.clear ∧ (firstTouch t ctx pte key write).2 = (firstTouch s ctx pte key write).2 := by
  have hdie (d : Nat) : t.die d = s.die d := (congrArg (fun x : State => x.die d) h :)
  unfold firstTouch
  dsimp only
  rw [hdie]
  split
  · exact ⟨updCtx_clear h _ _, rfl⟩
  · rw [homeBytes_of_clear h]
    exact ⟨congrArg (fun x : State => x.setDie _ _) (homePut_clear h key _), rfl⟩

theorem walkFrom_of_clear (spec : Bool) (need va table : Nat) (ls : List Nat) : walkFrom t spec need va table ls = walkFrom s spec need va table ls := by
  induction ls generalizing table with
  | nil => rfl
  | cons l r ih => rw [walkFrom, homeBytes_of_clear h, walkFrom]; simp only [ih]

theorem walk_clear (ctx : Nat) (spec : Bool) (acc : Acc) (va : Nat) :
    (walk t ctx spec acc va).1.clear = (walk s ctx spec acc va).1.clear ∧ (walk t ctx spec acc va).2 = (walk s ctx spec acc va).2 := by
  unfold walk
  rw [walkFrom_of_clear h, ctx_of_clear h]
  split
  · exact ⟨h, rfl⟩
  · next level pte key _ =>
    have hdraw : t.draw.2.clear = s.draw.2.clear := congrArg (fun x : State => x.draw.2) h
    have hn : t.draw.1 = s.draw.1 := fresh_of_clear h
    dsimp only
    rw [hn]
    split
    · exact ⟨hdraw, rfl⟩
    · have hset := setBits_clear hdraw key (4 ||| if acc.writes = true then 8 else 0)
      exact ⟨hset, by rw [ctx_of_clear hdraw]⟩
  · next e k _ =>
    obtain ⟨hs, hr⟩ := firstTouch_clear h ctx e k acc.writes
    rcases ht : firstTouch t ctx e k acc.writes with ⟨t1, r1⟩
    rcases hs' : firstTouch s ctx e k acc.writes with ⟨s1, r2⟩
    rw [ht, hs'] at hs hr
    obtain rfl : r1 = r2 := hr
    cases r1 with
    | none => exact ⟨hs, rfl⟩
    | some e' => exact ⟨hs, congrArg (fun c => Except.ok (heldOf c ctx va 3 e' (bitN e' 3))) (ctx_of_clear hs ctx)⟩

/-! ### Places of units of the hub die -/

omit h in
/-- A unit that is no crew's has no TLB: it walks. -/
theorem translate_hub {a : Agent} (hc : a.crew = none) (ht : a.team = none) (s : State) (acc : Acc) (va : Nat) :
    translate s a acc va = ((walk s a.ctx a.spec acc va).1, (walk s a.ctx a.spec acc va).2.map (·.key va)) := by
  unfold translate
  simp only [hc, ht, Option.map_none, List.find?_nil]
  rcases walk s a.ctx a.spec acc va with ⟨s1, e | x⟩ <;> rfl

variable {a : Agent} (hc : a.crew = none) (ht : a.team = none)
include hc ht

theorem place_clear (acc : Acc) (va : Nat) : (place t a acc va).1.clear = (place s a acc va).1.clear ∧ (place t a acc va).2 = (place s a acc va).2 := by
  have hclass : addrClass t a va = addrClass s a va := by
    unfold addrClass windowPlace
    rw [hc]
  have hlost (u : State) (k : Nat) : hostLost u a k = u := by
    unfold hostLost
    rw [hc]
    exact ite_self _
  obtain ⟨hs, hr⟩ := walk_clear h a.ctx a.spec acc va
  unfold place
  rw [hclass, translate_hub hc ht, translate_hub hc ht, hr]
  cases addrClass s a va with
  | some p => exact ⟨h, rfl⟩
  | none =>
    dsimp only
    rcases (walk s a.ctx a.spec acc va).2 with e | x
    · exact ⟨hs, rfl⟩
    · refine ⟨?_, rfl⟩
      show (hostLost _ a _).clear = (hostLost _ a _).clear
      rw [hlost, hlost]
      exact hs

theorem placeVa_clear (acc : Acc) (va : Nat) :
    (placeVa t a acc va).1.clear = (placeVa s a acc va).1.clear ∧ (placeVa t a acc va).2 = (placeVa s a acc va).2 := by
  obtain ⟨t1, s1, p, ht', hs', hs⟩ := alike_cases (place_clear h hc ht acc va)
  unfold placeVa
  rw [ht', hs']
  cases p <;> exact ⟨hs, rfl⟩

theorem placesOf_clear (acc : Acc) (ps : List (Nat × Nat)) :
    (placesOf t a acc ps).1.clear = (placesOf s a acc ps).1.clear ∧ (placesOf t a acc ps).2 = (placesOf s a acc ps).2 := by
  induction ps generalizing s t with
  | nil => exact ⟨h, rfl⟩
  | cons x r ih =>
    obtain ⟨va, n⟩ := x
    have hend (t s : State) : placeEnd t a va n = placeEnd s a va n := by
      unfold placeEnd windowPlace
      rw [hc]
    obtain ⟨t1, s1, p, ht', hs', hs⟩ := alike_cases (placeVa_clear h hc ht acc va)
    unfold placesOf
    rw [ht', hs']
    cases p with
    | error e => exact ⟨hs, rfl⟩
    | ok p =>
      dsimp only
      rw [hend t1 s1]
      cases placeEnd s1 a va n with
      | some e => exact ⟨hs, rfl⟩
      | none =>
        obtain ⟨t2, s2, l, ht', hs', hs⟩ := alike_cases (ih hs)
        dsimp only
        rw [ht', hs']
        cases l <;> exact ⟨hs, rfl⟩

theorem readVa_clear (acc : Acc) (va n : Nat) : (readVa t a acc va n).1.clear = (readVa s a acc va n).1.clear ∧ (readVa t a acc va n).2 = (readVa s a acc va n).2 := by
  obtain ⟨t1, s1, l, ht', hs', hs⟩ := alike_cases (placesOf_clear h hc ht acc (piecesOf va n))
  unfold readVa
  rw [ht', hs']
  cases l with
  | error e => exact ⟨hs, rfl⟩
  | ok l =>
    have hread (p : Place) (n : Nat) : readPlace t1 p n = readPlace s1 p n := readPlace_of_clear hs p n
    have hpoison (p : Place) (n : Nat) : firstPoison t1 p n = firstPoison s1 p n := (congrArg (fun x : State => firstPoison x p n) hs :)
    refine ⟨hs, ?_⟩
    simp only [hread, hpoison]

theorem writeVa_clear (acc : Acc) (va : Nat) (bs : List Byte) (bad : Bool) (hint : Nat) :
    (writeVa t a acc va bs bad hint).1.clear = (writeVa s a acc va bs bad hint).1.clear := by
  have pieces (l : List (Nat × Place × Nat)) (bs : List Byte) {s t : State} (h : t.clear = s.clear) :
      (writePieces t 512 a.ctx bad hint l bs).clear = (writePieces s 512 a.ctx bad hint l bs).clear := by
    induction l generalizing s t bs with
    | nil => exact h
    | cons x r ih => exact ih _ (shareWrite_clear h a.ctx x.2.1 _ bad hint)
  obtain ⟨t1, s1, l, ht', hs', hs⟩ := alike_cases (placesOf_clear h hc ht acc (piecesOf va bs.length))
  unfold writeVa
  rw [ht', hs']
  cases l with
  | error e => exact hs
  | ok l =>
    rw [hc]
    exact pieces l bs hs

end

section
variable {s t : State} (h : t.clear = s.clear)
include h

theorem hubRead_clear (ctx va n : Nat) : (hubRead t ctx va n).1.clear = (hubRead s ctx va n).1.clear ∧ (hubRead t ctx va n).2 = (hubRead s ctx va n).2 := by
  obtain ⟨t1, s1, l, ht', hs', hs⟩ := alike_cases (readVa_clear h (a := hubAgent ctx 5) rfl rfl .engR va n)
  unfold hubRead
  rw [ht', hs']
  cases l <;> exact ⟨hs, rfl⟩

theorem hubWrite_clear (ctx va : Nat) (bs : List Byte) : (hubWrite t ctx va bs).clear = (hubWrite s ctx va bs).clear :=
  writeVa_clear h (a := hubAgent ctx 5) rfl rfl _ va bs _ _

theorem homeRead_clear (ctx va n : Nat) : (homeRead t ctx va n).1.clear = (homeRead s ctx va n).1.clear ∧ (homeRead t ctx va n).2 = (homeRead s ctx va n).2 := by
  obtain ⟨t1, s1, l, ht', hs', hs⟩ := alike_cases (placeVa_clear h (a := hubAgent ctx 5) rfl rfl .engR va)
  unfold homeRead
  rw [ht', hs']
  rcases l with e | p
  · exact ⟨hs, rfl⟩
  · cases p with
    | phys k =>
      dsimp only
      rw [hostUp_of_clear hs, devBytes_congr (devByte_of_clear hs), homeBytes_of_clear hs]
      exact ⟨hs, rfl⟩
    | _ => exact ⟨hs, rfl⟩

theorem kindOfVa_of_clear (ctx va : Nat) : kindOfVa t ctx va = kindOfVa s ctx va := by
  obtain ⟨t1, s1, l, ht', hs', -⟩ := alike_cases (placeVa_clear h (a := { hubAgent ctx 5 with spec := true }) rfl rfl .engR va)
  unfold kindOfVa
  rw [ht', hs']
  rcases l with e | p
  · rfl
  · cases p <;> rfl

theorem decrementAt_clear (ctx va : Nat) : (decrementAt t ctx va).clear = (decrementAt s ctx va).clear := by
  obtain ⟨t1, s1, l, ht', hs', hs⟩ := alike_cases (hubRead_clear h ctx va 8)
  unfold decrementAt
  rw [ht', hs']
  cases l with
  | none => exact hs
  | some bs => exact hubWrite_clear hs ctx va _

/-! ### Writes that land and writes that are flushed -/

theorem landLink_clear (l : Nat) : (landLink t l).clear = (landLink s l).clear := by
  have hposted : t.posted = s.posted := (congrArg State.posted h :)
  unfold landLink
  rw [hposted]
  split
  · exact h
  · exact congrArg (fun x : State => postedLeft x (s.posted.filter (·.link != l))) (foldl_clear (fun h' p => putMemBytes_clear p.bytes h' p.key) _ h)

theorem landCtx_clear (ctx : Nat) : (landCtx t ctx).clear = (landCtx s ctx).clear := by
  refine foldl_clear (fun {s t} h' l => ?_) _ h
  have hposted : t.posted = s.posted := (congrArg State.posted h' :)
  rw [hposted]
  split
  · exact landLink_clear h' l
  · exact h'

theorem writeBack_clear (out : Nat → Bool) : (t.writeBack out).clear = (s.writeBack out).clear := by
  have hl2 : t.l2 = s.l2 := (congrArg State.l2 h :)
  unfold State.writeBack
  rw [hl2]
  refine foldl_clear (fun h' e => ?_) _ h
  split
  · exact putHome_clear h' _ _
  · exact h'

theorem flush_clear (ctx : Nat) : (t.flush ctx).clear = (s.flush ctx).clear := by
  have hthrough : t.through = s.through := (congrArg State.through h :)
  unfold State.flush
  dsimp only
  rw [ctx_of_clear h, hthrough]
  exact updCtx_clear (through_clear (writeBack_clear h _) _) ctx _

/-! ### Jobs (05 R105) -/

theorem raise_clear (ctx vec : Nat) : (t.raise ctx vec).clear = (s.raise ctx vec).clear := by
  have hirqs : ({ t with irqs := (ctx, vec) :: t.irqs } : State).clear = ({ s with irqs := (ctx, vec) :: s.irqs } : State).clear :=
    congrArg (fun x : State => { x with irqs := (ctx, vec) :: x.irqs }) h
  unfold State.raise
  dsimp only
  rw [ctx_of_clear hirqs]
  split
  · exact updCtx_clear hirqs ctx _
  · exact hirqs

theorem raiseQueue_clear (ctx q : Nat) : (raiseQueue t ctx q).clear = (raiseQueue s ctx q).clear := by
  have hvec : (queueVector t ctx q).1.clear = (queueVector s ctx q).1.clear ∧ (queueVector t ctx q).2 = (queueVector s ctx q).2 := by
    obtain ⟨t1, s1, l, ht', hs', hs⟩ := alike_cases (homeRead_clear h ctx ((s.ctx ctx).qtblBase.toNat + 256 * q + 10) 1)
    unfold queueVector
    rw [ctx_of_clear h]
    rw [ht', hs']
    cases l <;> exact ⟨hs, rfl⟩
  obtain ⟨hs, hr⟩ := hvec
  unfold raiseQueue
  dsimp only
  rw [hr]
  exact raise_clear hs ctx _

theorem raiseErr_clear (ctx : Nat) : (raiseErr t ctx).clear = (raiseErr s ctx).clear := by
  unfold raiseErr
  dsimp only
  rw [ctx_of_clear h]
  split
  · exact raise_clear h ctx _
  · exact h

theorem workDone_clear (ctx : Nat) (w : Work) : (workDone t ctx w).clear = (workDone s ctx w).clear := by
  unfold workDone
  rw [queues_of_clear h]
  exact queued_clear h _

theorem jobComplete_clear (ctx j : Nat) : (jobComplete t ctx j).clear = (jobComplete s ctx j).clear := by
  unfold jobComplete
  rw [ctx_of_clear h, kindOfVa_of_clear h]
  have h1 : (if kindOfVa s ctx (jobVa (s.ctx ctx) j 0) = some 2 then landCtx (t.flush ctx) ctx else t).clear =
      (if kindOfVa s ctx (jobVa (s.ctx ctx) j 0) = some 2 then landCtx (s.flush ctx) ctx else s).clear := by
    split
    · exact landCtx_clear (flush_clear h ctx) ctx
    · exact h
  generalize (if kindOfVa s ctx (jobVa (s.ctx ctx) j 0) = some 2 then landCtx (t.flush ctx) ctx else t) = t1 at h1 ⊢
  generalize (if kindOfVa s ctx (jobVa (s.ctx ctx) j 0) = some 2 then landCtx (s.flush ctx) ctx else s) = s1 at h1 ⊢
  dsimp only
  rw [ctx_of_clear h1]
  have h2 := decrementAt_clear h1 ctx (jobVa (s1.ctx ctx) j 16)
  generalize decrementAt t1 ctx (jobVa (s1.ctx ctx) j 16) = t2 at h2 ⊢
  generalize decrementAt s1 ctx (jobVa (s1.ctx ctx) j 16) = s2 at h2 ⊢
  rw [ctx_of_clear h2]
  obtain ⟨t3, s3, l, ht', hs', h3⟩ := alike_cases (hubRead_clear h2 ctx (jobVa (s2.ctx ctx) j 8) 4)
  refine workDone_clear (updCtx_clear ?_ ctx _) ctx _
  rw [ht', hs']
  cases l with
  | none => exact h3
  | some bs =>
    dsimp only
    split
    · exact h3
    · split
      · exact raiseQueue_clear h3 ctx _
      · exact raiseErr_clear h3 ctx

theorem jobAdd_clear (ctx j : Nat) (d : Int) : (jobAdd t ctx j d).clear = (jobAdd s ctx j d).clear := by
  unfold jobAdd
  dsimp only
  rw [ctx_of_clear h]
  obtain ⟨t1, s1, l, ht', hs', hs⟩ := alike_cases (hubRead_clear h ctx (jobVa (s.ctx ctx) j 0) 8)
  rw [ht', hs']
  cases l with
  | none => exact hs
  | some bs =>
    have hw := hubWrite_clear hs ctx (jobVa (s.ctx ctx) j 0) (leBytes 8 (wrapN 64 (ofLE bs + d)))
    dsimp only
    split
    · exact jobComplete_clear hw ctx j
    · exact hw

/-! ### Tasks (05 R100, R107, R108) -/

theorem readyPut_clear (ctx : Nat) (k : Task) (slot : Nat) : (readyPut t ctx k slot).clear = (readyPut s ctx k slot).clear := by
  unfold readyPut
  rw [ctx_of_clear h]
  split
  · exact jobAdd_clear h ctx _ _
  · have htick : t.tick.2.clear = s.tick.2.clear := congrArg (fun x : State => x.tick.2) h
    have hord : t.tick.1 = s.tick.1 := (congrArg (fun x : State => x.tick.1) h :)
    have hlist : readyList t.tick.2 ctx k.queue = readyList s.tick.2 ctx k.queue := (congrArg (fun x : State => readyList x ctx k.queue) htick :)
    have hranked : ranked t.tick.2 ctx k.queue = ranked s.tick.2 ctx k.queue := (congrArg (fun x : State => ranked x ctx k.queue) htick :)
    dsimp only
    rw [hord, hlist, hranked]
    exact updCtx_clear htick ctx _

theorem enqReady_clear (ctx : Nat) (k : Task) : (enqReady t ctx k).map State.clear = (enqReady s ctx k).map State.clear := by
  have hgeneral : generalFree t ctx k.queue = generalFree s ctx k.queue := (congrArg (fun x : State => generalFree x ctx k.queue) h :)
  have hheld : noneHeld t ctx k.queue = noneHeld s ctx k.queue := (congrArg (fun x : State => noneHeld x ctx k.queue) h :)
  have hdepth : depthFree t ctx k.queue k.depth = depthFree s ctx k.queue k.depth := (congrArg (fun x : State => depthFree x ctx k.queue k.depth) h :)
  have hat : noneHeldAt t ctx k.queue k.depth = noneHeldAt s ctx k.queue k.depth := (congrArg (fun x : State => noneHeldAt x ctx k.queue k.depth) h :)
  unfold enqReady
  rw [hgeneral, hheld, hdepth, hat]
  split
  · exact congrArg some (readyPut_clear h ctx k 0)
  · split
    · exact congrArg some (readyPut_clear h ctx k k.depth)
    · rfl

/-- Whether a task finds room, and what enqueueing it leaves. -/
theorem enqInsert_clear (ctx : Nat) (k : Task) : (enqInsert t ctx k).map State.clear = (enqInsert s ctx k).map State.clear := by
  have hpark : mustPark t ctx k = mustPark s ctx k := (congrArg (fun x : State => mustPark x ctx k) h :)
  unfold enqInsert
  rw [hpark]
  split
  · refine congrArg some ?_
    unfold parkTask
    rw [ctx_of_clear h]
    split
    · exact jobAdd_clear h ctx _ _
    · exact updCtx_clear h ctx _
  · exact enqReady_clear h ctx k

end

end Sys2Proof.Machine
end

section
/-! SUPPORT. What the units of the hub die leave when they access memory by address: a unit that is no crew's keeps no translation, so what no write
reaches stays (05 R105). -/

namespace Sys2Proof.Machine

namespace Unwritten
variable {α : Type} {V : State → α}

section
variable {a : Agent} (hc : a.crew = none) (ht : a.team = none)
include hc ht

theorem place (hV : Unwritten V) (s : State) (acc : Acc) (va : Nat) : V (place s a acc va).1 = V s := by
  have hlost (u : State) (k : Nat) : hostLost u a k = u := by
    unfold hostLost
    rw [hc]
    exact ite_self _
  have hwalk := hV.walk s a.ctx a.spec acc va
  unfold Machine.place
  rw [translate_hub hc ht]
  cases addrClass s a va with
  | some p => rfl
  | none =>
    dsimp only
    rcases (Machine.walk s a.ctx a.spec acc va).2 with e | x
    · exact hwalk
    · exact (congrArg V (hlost _ _)).trans hwalk

theorem placeVa (hV : Unwritten V) (s : State) (acc : Acc) (va : Nat) : V (placeVa s a acc va).1 = V s := by
  have h := hV.place hc ht s acc va
  unfold Machine.placeVa
  split <;> next e => rw [e] at h; exact h

theorem placesOf (hV : Unwritten V) (acc : Acc) (ps : List (Nat × Nat)) (s : State) : V (placesOf s a acc ps).1 = V s := by
  induction ps generalizing s with
  | nil => rfl
  | cons p r ih =>
    have hp := hV.placeVa hc ht s acc p.1
    unfold Machine.placesOf
    split
    · next e => rw [e] at hp; exact hp
    · next s1 _ e =>
      rw [e] at hp
      refine .trans ?_ hp
      split
      · rfl
      · have hr := ih s1
        split <;> next e => rw [e] at hr; exact hr

theorem readVa (hV : Unwritten V) (s : State) (acc : Acc) (va n : Nat) : V (readVa s a acc va n).1 = V s := by
  have h := hV.placesOf hc ht acc (piecesOf va n) s
  unfold Machine.readVa
  split <;> next e => rw [e] at h; exact h

theorem writeVa (hV : Unwritten V) (s : State) (acc : Acc) (va : Nat) (bs : List Byte) (bad : Bool) (hint : Nat) :
    V (writeVa s a acc va bs bad hint).1 = V s := by
  have h := hV.placesOf hc ht acc (piecesOf va bs.length) s
  unfold Machine.writeVa
  split
  · next e => rw [e] at h; exact h
  · next e => rw [e] at h; exact (hV.writePieces _ _ bad hint _ _ bs).trans h

end

theorem hubRead (hV : Unwritten V) (s : State) (ctx va n : Nat) : V (hubRead s ctx va n).1 = V s := by
  have h := hV.readVa (a := hubAgent ctx 5) rfl rfl s .engR va n
  unfold Machine.hubRead
  split <;> next e => rw [e] at h; exact h

theorem hubWrite (hV : Unwritten V) (s : State) (ctx va : Nat) (bs : List Byte) : V (hubWrite s ctx va bs) = V s :=
  hV.writeVa (a := hubAgent ctx 5) rfl rfl s _ va bs _ _

theorem homeRead (hV : Unwritten V) (s : State) (ctx va n : Nat) : V (homeRead s ctx va n).1 = V s := by
  have h := hV.placeVa (a := hubAgent ctx 5) rfl rfl s .engR va
  unfold Machine.homeRead
  split <;> next e => rw [e] at h; exact h

theorem decrementAt (hV : Unwritten V) (s : State) (ctx va : Nat) : V (decrementAt s ctx va) = V s := by
  have h := hV.hubRead s ctx va 8
  unfold Machine.decrementAt
  split
  · next e => rw [e] at h; exact (hV.hubWrite _ ctx va _).trans h
  · next e => rw [e] at h; exact h

theorem landLink (hV : Unwritten V) (s : State) (l : Nat) : V (landLink s l) = V s := by
  have bytes (ps : List Posted) : V (ps.foldl (fun s p => s.putMemBytes p.key p.bytes) s) = V s :=
    foldl_keeps (fun s (p : Posted) => s.putMemBytes p.key p.bytes) V (fun s p => hV.putMemBytes p.bytes s p.key) ps s
  unfold Machine.landLink
  split
  · rfl
  · exact (hV.memory _ _ _ _ _ _ _ _ _ _ _ _).trans (bytes _)

theorem landCtx (hV : Unwritten V) (s : State) (ctx : Nat) : V (landCtx s ctx) = V s :=
  foldl_keeps _ V (fun s l => by
    split
    · exact hV.landLink s l
    · rfl) _ s

theorem writeBack (hV : Unwritten V) (s : State) (out : Nat → Bool) : V (s.writeBack out) = V s :=
  foldl_keeps _ V (fun s e => by
    split
    · exact hV.putHome s e.1 _
    · rfl) _ s

theorem flush (hV : Unwritten V) (s : State) (ctx : Nat) : V (s.flush ctx) = V s :=
  (hV.notes _ ctx _ _).trans ((hV.memory _ _ _ _ _ _ _ _ _ _ _ _).trans (hV.writeBack s _))

end Unwritten

/-! ### Jobs, ready queues and counters (05 R99 to R107) -/

/-- Whose turn it is, the teams but for their status, the dependency counters, the task that each crew is, and of each context where its counters are
and what is parked in them. -/
def State.gates (s : State) : Nat × (Nat → Team) × Cells (BitVec 16) × (Nat → Nat) × (Nat → Nat × Nat × Cells (Option Task)) :=
  (s.cur, fun j => { s.team j with status := .run }, s.deps, s.crewTaskId, fun c => ((s.ctx c).ctrBase, (s.ctx c).ctrCount, (s.ctx c).parked))

theorem updCtx_gates (s : State) (i : Nat) {f : Ctx → Ctx} (hf : ∀ c, ((f c).ctrBase, (f c).ctrCount, (f c).parked) = (c.ctrBase, c.ctrCount, c.parked)) :
    (s.updCtx i f).gates = s.gates := by
  refine Prod.ext rfl (Prod.ext rfl (Prod.ext rfl (Prod.ext rfl (funext fun c => ?_))))
  show (((s.updCtx i f).ctx c).ctrBase, ((s.updCtx i f).ctx c).ctrCount, ((s.updCtx i f).ctx c).parked) = _
  by_cases hci : c = i
  · subst hci
    rw [show (s.updCtx c f).ctx c = f (s.ctx c) from setCtx_ctx s c _]
    exact hf (s.ctx c)
  · rw [show (s.updCtx i f).ctx c = s.ctx c from setCtx_ctx_ne s i c _ hci]
    rfl

theorem gates_unwritten : Unwritten State.gates where
  memory _ _ _ _ _ _ _ _ _ _ _ _ := rfl
  scratch s i sc sp := by
    refine Prod.ext rfl (Prod.ext rfl (Prod.ext rfl (Prod.ext (funext fun c => ?_) rfl)))
    have hl : ((s.setCrew i { s.crew i with scratch := sc, scratchPoison := sp }).crew c).launch = (s.crew c).launch := by
      by_cases hc : c = i
      · rw [hc, setCrew_crew]
      · rw [setCrew_crew_ne _ _ _ _ hc]
    show State.crewTaskId _ c = s.crewTaskId c
    unfold State.crewTaskId State.crewTask
    rw [hl]
    rfl
  wakes s i := by
    refine Prod.ext rfl (Prod.ext (funext fun j => ?_) rfl)
    by_cases hj : j = i
    · subst hj
      show ({ (s.updTeam j Team.wake).team j with status := .run } : Team) = _
      rw [updTeam_team]
      unfold Team.wake
      split <;> rfl
    · show ({ (s.updTeam i Team.wake).team j with status := .run } : Team) = _
      rw [updTeam_team_ne _ _ _ _ hj]
      rfl
  notes s i d f := updCtx_gates s i (f := fun c => { c with dirtyDies := d, frPool := f }) (fun _ => rfl)

theorem raise_gates (s : State) (ctx vec : Nat) : (s.raise ctx vec).gates = s.gates := by
  unfold State.raise
  dsimp only
  split
  · exact updCtx_gates _ ctx (by exact fun _ => rfl)
  · rfl

theorem raiseQueue_gates (s : State) (ctx q : Nat) : (raiseQueue s ctx q).gates = s.gates := by
  have h := gates_unwritten.homeRead s ctx ((s.ctx ctx).qtblBase.toNat + 256 * q + 10) 1
  have hvec : (queueVector s ctx q).1.gates = s.gates := by
    unfold queueVector
    split <;> next e => rw [e] at h; exact h
  exact (raise_gates _ ctx _).trans hvec

theorem raiseErr_gates (s : State) (ctx : Nat) : (raiseErr s ctx).gates = s.gates := by
  unfold raiseErr
  dsimp only
  split
  · exact raise_gates s ctx _
  · rfl

theorem workDone_gates (s : State) (ctx : Nat) (w : Work) : (workDone s ctx w).gates = s.gates := rfl

theorem jobComplete_gates (s : State) (ctx j : Nat) : (jobComplete s ctx j).gates = s.gates := by
  unfold jobComplete
  have h1 : (if kindOfVa s ctx (jobVa (s.ctx ctx) j 0) = some 2 then landCtx (s.flush ctx) ctx else s).gates = s.gates := by
    split
    · exact (gates_unwritten.landCtx _ ctx).trans (gates_unwritten.flush s ctx)
    · rfl
  generalize (if kindOfVa s ctx (jobVa (s.ctx ctx) j 0) = some 2 then landCtx (s.flush ctx) ctx else s) = s1 at h1 ⊢
  dsimp only
  have h2 := (gates_unwritten.decrementAt s1 ctx (jobVa (s1.ctx ctx) j 16)).trans h1
  generalize decrementAt s1 ctx (jobVa (s1.ctx ctx) j 16) = s2 at h2 ⊢
  have hread := (gates_unwritten.hubRead s2 ctx (jobVa (s2.ctx ctx) j 8) 4).trans h2
  refine (workDone_gates _ ctx _).trans ((updCtx_gates _ ctx (by exact fun _ => rfl)).trans ?_)
  split
  · next e =>
    rw [e] at hread
    split
    · exact hread
    · split
      · exact (raiseQueue_gates _ ctx _).trans hread
      · exact (raiseErr_gates _ ctx).trans hread
  · next e => rw [e] at hread; exact hread

theorem jobAdd_gates (s : State) (ctx j : Nat) (d : Int) : (jobAdd s ctx j d).gates = s.gates := by
  have h := gates_unwritten.hubRead s ctx (jobVa (s.ctx ctx) j 0) 8
  unfold jobAdd
  dsimp only
  split
  · next s1 bs e =>
    rw [e] at h
    have hw := (gates_unwritten.hubWrite s1 ctx (jobVa (s.ctx ctx) j 0) (leBytes 8 (wrapN 64 (ofLE bs + d)))).trans h
    split
    · exact (jobComplete_gates _ ctx j).trans hw
    · exact hw
  · next e => rw [e] at h; exact h

theorem readyPut_gates (s : State) (ctx : Nat) (k : Task) (slot : Nat) : (readyPut s ctx k slot).gates = s.gates := by
  unfold readyPut
  split
  · exact jobAdd_gates s ctx _ _
  · exact updCtx_gates s.tick.2 ctx (by exact fun _ => rfl)

theorem makeReady_gates (s : State) (ctx : Nat) (k : Task) : (makeReady s ctx k).gates = s.gates := by
  unfold makeReady
  split
  · exact readyPut_gates s ctx k 0
  · exact updCtx_gates s ctx (by exact fun _ => rfl)

end Sys2Proof.Machine
end

section
/-! Rubric's instructions (05 R100, R108, 20 R403, R404). -/

namespace Sys2Proof.Machine

theorem releaseAt_clear (s : State) (ci scope : Nat) : (releaseAt s ci scope).clear = s.clear := by
  unfold releaseAt
  dsimp only
  split <;> rfl

theorem byteAt_of_clear {s t : State} (h : t.clear = s.clear) (q : Place) : byteAt t q = byteAt s q :=
  byteAt_of_stored (congrArg State.stored h :) q

/-! ### ENQ -/

/-- An ENQ on this chip whose counter is in range and free enters a queue, is parked, or waits, as its task would after the release. -/
theorem enqLocal_outcome {u : UCtx} {s1 : State} {ctx : Nat} {k : Task} (d : Opnd) (hflight : (s1.team u.ti).flight = [])
    (hcrew : (s1.team u.ti).crew = u.t.crew) (hctx : ctx = (s1.crew u.t.crew).ctx) (hdraft : (s1.crew u.t.crew).drafting = false)
    (hctr : k.own = 0xFFFFFFFF ∨ (ctrPhys (s1.ctx ctx) k.own).isSome = true) (hgate : gateTaken s1 ctx k = false) :
    (∀ s2, enqInsert (jobAdd s1 ctx k.job 1) ctx k = some s2 → ∃ s3, s3.clear = s2.clear ∧ s3.lasting = s1.lasting ∧
      enqLocal u s1 d k = .ok (u.now s3 [(d, 0)])) ∧
    (enqInsert (jobAdd s1 ctx k.job 1) ctx k = none → ∃ s3 : State, s3.lasting = s1.lasting ∧
      enqLocal u s1 d k = .error (.become (stopped (s3.updTeam u.ti (fun t => { t with enqTask := some k })) u.ti (.block (.wait 1))))) := by
  have hrel : s1.release u.ti 4 = releaseAt s1 u.t.crew 4 := by
    rw [release_of_not hflight (by rw [hcrew]; exact hdraft), hcrew]
  have hlast : (jobAdd (releaseAt s1 u.t.crew 4) ctx k.job 1).lasting = s1.lasting := (jobAdd_lasting _ ctx _ _).trans (releaseAt_lasting s1 _ 4)
  have hsame := enqInsert_clear (jobAdd_clear (releaseAt_clear s1 u.t.crew 4) ctx k.job 1) ctx k
  have hrange : (decide (k.own ≠ 0xFFFFFFFF) && (ctrPhys (s1.ctx ctx) k.own).isNone) = false := by
    rcases hctr with ho | ho
    · simp [ho]
    · rw [Option.isNone_eq_false_iff.2 ho, Bool.and_false]
  have hdefer : deferOp s1 u.t.crew (.enq k k.queue) = (s1, false) := by
    unfold deferOp
    rw [hdraft]
    rfl
  have hrun : enqLocal u s1 d k = (match enqInsert (jobAdd (releaseAt s1 u.t.crew 4) ctx k.job 1) ctx k with
      | some s => .ok (u.now s [(d, 0)])
      | none => .error (.become (stopped ((jobAdd (releaseAt s1 u.t.crew 4) ctx k.job 1).updTeam u.ti (fun t => { t with enqTask := some k })) u.ti
          (.block (.wait 1))))) := by
    unfold enqLocal
    simp only [← hctx, hrange, hgate, hdefer, hrel, Bool.false_eq_true, if_false]
    rfl
  refine ⟨fun s2 hs2 => ?_, fun hnone => ?_⟩
  · rw [hs2] at hsame
    obtain ⟨s3, hs3, hclear⟩ := Option.map_eq_some_iff.1 hsame
    rw [hs3] at hrun
    exact ⟨s3, hclear, (enqInsert_lasting hs3).trans hlast, hrun⟩
  · rw [hnone] at hsame
    rw [Option.map_eq_none_iff.1 hsame] at hrun
    exact ⟨_, hlast, hrun⟩

/-- The depths of the launches are among what no access reaches. -/
theorem depths_aloof : Aloof (fun s i => (s.launch i).depth) where
  memory _ _ _ _ _ _ _ _ _ _ _ _ := rfl
  scratch _ _ _ _ := rfl
  wakes _ _ := rfl
  notes _ _ _ _ := rfl
  pages _ _ _ := rfl
  hosts s i st := by
    refine funext fun j => ?_
    by_cases hj : j = i
    · rw [hj, setLaunch_launch]
    · rw [setLaunch_launch_ne _ _ _ _ hj]

/-- A record that is read at issue leaves what its translations do. -/
theorem issueRead_state {s s1 : State} {ti va n : Nat} {r : List Byte} (hf : (s.team ti).flight = []) (h : issueRead s ti va n = .ok (s1, r)) :
    s1 = (placesOf s (teamAgent s ti none) .load (piecesOf va n)).1 := by
  have hl := placesOf_lasting (teamAgent s ti none) .load (piecesOf va n) s
  unfold issueRead at h
  split at h
  · cases h
  · cases h
  · cases h
  · next s2 ps e =>
    rw [e] at hl ⊢
    dsimp only at h
    split at h
    · cases h
    · cases h
      exact closeLate_nil ((congrArg Team.flight (team_of_lasting hl ti) :).trans hf)

theorem nestDepth_of_issueRead {s s1 : State} {va n : Nat} {r : List Byte} (hf : (s.team s.cur).flight = [])
    (h : issueRead s s.cur va n = .ok (s1, r)) : nestDepth s1 s.cur = nestDepth s s.cur := by
  obtain ⟨hl, hm⟩ := issueRead_keeps hf h
  have hcrew : (s1.team s.cur).crew = (s.team s.cur).crew := (congrArg Team.crew (team_of_lasting hl s.cur) :)
  have hdepth (i : Nat) : (s1.launch i).depth = (s.launch i).depth := by
    rw [issueRead_state hf h]
    exact congrFun (depths_aloof.placesOf (teamAgent s s.cur none) .load (piecesOf va n) s) i
  unfold nestDepth State.teamCrew
  rw [hcrew, crew_of_manned hm, hdepth]

/-- ENQ on this chip (R403). -/
theorem enq_runs {s s1 : State} {d a b : Opnd} {ctx va w : Nat} {r : List Byte} {k : Task} (h : ready s = true) (hd : okS d = true) (ha : okS a = true)
    (hb : okS b = true) (hdraft : (s.crew s.me.crew).drafting = false) (hctx : ctx = (s.crew s.me.crew).ctx) (hva : va = (sVal s.me a).toNat)
    (hw : w = (sVal s.me b).toNat) (hst : s.me.status = .run) (hw4 : w < 4) (halign : va % 64 = 0) (hread : issueRead s.settled s.cur va 64 = .ok (s1, r))
    (hdepth : (s.launch (s.crew s.me.crew).launch).depth < 8) (hshape : taskShapeOk r = true) (hjob : field r 48 4 ≤ 255)
    (hk : k = { taskOf va w r with depth := (s.launch (s.crew s.me.crew).launch).depth + 1 })
    (hctr : k.own = 0xFFFFFFFF ∨ (ctrPhys (s1.ctx ctx) k.own).isSome = true) (hgate : gateTaken s1 ctx k = false) :
    (∀ s2, enqInsert (jobAdd s1 ctx k.job 1) ctx k = some s2 → Sys2Proof.Claims.To (.enq d a b) s (fun t =>
      t.me.pc = nextPc s.me.pc 1 ∧ t.me.status = .run ∧ Sys2Proof.Claims.holdsS t.me d 0 ∧ t.ctx ctx = s2.ctx ctx ∧ (∀ q, byteAt t q = byteAt s2 q))) ∧
    (enqInsert (jobAdd s1 ctx k.job 1) ctx k = none → Sys2Proof.Claims.To (.enq d a b) s (fun t =>
      t.me.pc = s.me.pc ∧ t.me.status = .wait 1 ∧ t.me.enqTask = some k)) := by
  obtain ⟨u, hu, hok, hstop⟩ := uniform_run h (fields := [fld d okS, fld a okS, fld b okS]) (by simp [fld, hd, ha, hb])
    (show exec (.enq d a b) s = execEnq d a b s from rfl) rfl
  have hf0 : (s.settled.team s.cur).flight = [] := by rw [settled_team, ready_flight h]
  obtain ⟨hl1, hm1⟩ := issueRead_keeps hf0 hread
  have hl : s1.lasting = s.lasting := hl1.trans (settled_lasting s)
  have hcrew : s1.crew s.me.crew = s.crew s.me.crew := crew_of_manned hm1 _
  have hnest : nestDepth s1 s.cur = (s.launch (s.crew s.me.crew).launch).depth := by
    rw [show s.cur = s.settled.cur from rfl, nestDepth_of_issueRead (s := s.settled) hf0 hread]
    unfold nestDepth State.teamCrew
    rw [show s.settled.cur = s.cur from rfl, settled_team]
    rfl
  have hteam := team_of_lasting hl s.cur
  obtain ⟨hin, hout⟩ := enqLocal_outcome (u := u) (s1 := s1) (ctx := ctx) (k := k) d (hu.ti ▸ (congrArg Team.flight hteam :).trans (ready_flight h))
    (by rw [hu.ti, hu.team]; exact (congrArg Team.crew hteam :)) (by rw [hu.team, hcrew, hctx]) (by rw [hu.team, hcrew, hdraft]) hctr hgate
  have hread' : issueRead u.s s.cur va 64 = .ok (s1, r) := hu.state ▸ hread
  have hrun : (s.me.status == TStatus.wait 1) = false := by rw [hst]; rfl
  have hbit (i : Nat) (hi : 2 ≤ i) : bitN w i = false :=
    Nat.testBit_eq_false_of_lt (Nat.lt_of_lt_of_le hw4 (Nat.pow_le_pow_right (n := 2) (by decide) hi))
  have hhigh : w / 2 ^ 36 = 0 := by omega
  have hrole : bitsN w 4 32 = 0 := by rw [bitsN]; omega
  have htask : ({ taskOf va (w % 4) r with depth := (s.launch (s.crew s.me.crew).launch).depth + 1 } : Task) = k := by rw [Nat.mod_eq_of_lt hw4, hk]
  simp only [hrun, hu.rd h ha, hu.rd h hb, ← hva, ← hw, hbit 2 (Nat.le_refl 2), hbit 3 (by decide), halign, hread', ok_bind, hu.poison, hhigh, hrole, hnest, hshape, Nat.not_le.2 hdepth,
    Nat.not_lt.2 hjob, htask, ne_eq, not_true_eq_false, Bool.false_and, Bool.false_eq_true, if_false, pure_bind, bne_self_eq_false, Bool.and_false,
    Bool.or_self, Bool.not_true, decide_false] at hok hstop
  refine ⟨fun s2 hs2 => ?_, fun hnone => ?_⟩
  · obtain ⟨s3, hclear, hl3, hrun⟩ := hin s2 hs2
    obtain ⟨hpc, hrs, hhold⟩ := hu.now_goes (hl3.trans hl) hd 0
    have honly := hu.now_only s3 hd 0
    refine ⟨_, hok (u.now s3 [(d, 0)]) ?_, hpc, hrs, hhold, ?_, fun q => ?_⟩
    ·       exact hrun
    · rw [State.ctx, honly.ctxs]
      exact ctx_of_clear hclear ctx
    · exact (honly.byteAt q).trans (byteAt_of_clear hclear q)
  · obtain ⟨s3, hl3, hrun⟩ := hout hnone
    have hcur := cur_of_lasting (hl3.trans hl)
    have hme : (stopped (s3.updTeam s.cur (fun t => { t with enqTask := some k })) s.cur (.block (.wait 1))).me =
        { s3.team s.cur with enqTask := some k, status := .wait 1, passes := [] } := by
      rw [stopped, State.me, updTeam_cur, updTeam_cur, hcur, updTeam_team, updTeam_team]
    rw [hu.ti] at hrun
    have hexec := hstop _ hrun
    refine ⟨_, hexec, ?_⟩
    change (State.me (stopped _ s.cur (.block (.wait 1)))).pc = _ ∧ (State.me (stopped _ s.cur (.block (.wait 1)))).status = _ ∧
      (State.me (stopped _ s.cur (.block (.wait 1)))).enqTask = _
    rw [hme]
    exact ⟨(congrArg Team.pc (team_of_lasting (hl3.trans hl) s.cur) :), rfl, rfl⟩

theorem enqReady_lasting {s s1 : State} {ctx : Nat} {k : Task} (h : enqReady s ctx k = some s1) : s1.lasting = s.lasting := by
  unfold enqReady at h
  split at h
  · cases h; exact readyPut_lasting s ctx k _
  · split at h
    · cases h; exact readyPut_lasting s ctx k _
    · cases h

theorem putS_enqTask (t : Team) (d : Opnd) (v : W64) : (t.putS d v).enqTask = t.enqTask := by cases d <;> rfl

/-- A blocked ENQ ends when its task is in (R108). -/
theorem enq_retries {s s1 : State} {d a b : Opnd} {ctx : Nat} (h : ready s = true) (hd : okS d = true) (ha : okS a = true) (hb : okS b = true)
    (hctx : ctx = (s.crew s.me.crew).ctx) (hst : s.me.status = .wait 1)
    (hin : s.me.enqTask = none ∧ s1 = s ∨ ∃ k, s.me.enqTask = some k ∧ enqReady s.settled ctx k = some s1) :
    Sys2Proof.Claims.To (.enq d a b) s (fun t => t.me.pc = nextPc s.me.pc 1 ∧ t.me.status = .run ∧ t.me.enqTask = none ∧
      Sys2Proof.Claims.holdsS t.me d 0 ∧ t.ctx ctx = s1.ctx ctx) := by
  obtain ⟨u, hu, hok, -⟩ := uniform_run h (fields := [fld d okS, fld a okS, fld b okS]) (by simp [fld, hd, ha, hb])
    (show exec (.enq d a b) s = execEnq d a b s from rfl) rfl
  have hwait : (s.me.status == TStatus.wait 1) = true := by rw [hst]; rfl
  obtain ⟨s2, hl, hctxs, hrun⟩ : ∃ s2 : State, s2.lasting = s.lasting ∧ s2.ctx ctx = s1.ctx ctx ∧
      enqRetry u d = .ok (u.now (s2.updTeam u.ti (fun t => { t with enqTask := none })) [(d, 0)]) := by
    obtain ⟨hnone, rfl⟩ | ⟨k, hk, henq⟩ := hin
    · refine ⟨u.s, hu.lasting, by rw [hu.state]; rfl, ?_⟩
      unfold enqRetry
      rw [hu.team, hnone]
    · have henq' : enqReady u.s (u.s.crew s.me.crew).ctx k = some s1 := by rw [hu.only.crew, ← hctx, hu.state, henq]
      refine ⟨s1, ?_, rfl, ?_⟩
      · exact (enqReady_lasting henq).trans (settled_lasting s)
      · unfold enqRetry
        rw [hu.team, hk]
        dsimp only
        rw [henq']
  simp only [hwait, if_true] at hok
  rw [hu.ti] at hrun
  have hexec := hok _ hrun
  have hset : (s2.updTeam s.cur (fun t => { t with enqTask := none })).team s.cur = { s2.team s.cur with enqTask := none } := updTeam_team _ _ _
  have honly := hu.now_only (s2.updTeam s.cur (fun t => { t with enqTask := none })) hd 0
  have hnow := hu.now_me (s2.updTeam s.cur (fun t => { t with enqTask := none })) hd 0
  have hrs := hu.now_status (s2.updTeam s.cur (fun t => { t with enqTask := none })) hd 0
  rw [hset] at hnow
  generalize u.now (s2.updTeam s.cur (fun t => { t with enqTask := none })) [(d, 0)] = t at hexec honly hnow hrs
  have hme : t.me = t.team s.cur := by rw [State.me, honly.cur, updTeam_cur, cur_of_lasting hl]
  refine ⟨t, hexec, ?_⟩
  dsimp only
  rw [hme]
  refine ⟨?_, hrs, ?_, holdsS_congr (congrArg Team.s hnow :) (holdsS_putS _ d 0), ?_⟩
  · refine (congrArg Team.pc hnow :).trans ?_
    change nextPc (Team.putS _ d (w64 0)).pc 1 = _
    rw [putS_pc]
    exact congrArg (nextPc · 1) (congrArg Team.pc (team_of_lasting hl s.cur) :)
  · exact (congrArg Team.enqTask hnow :).trans (putS_enqTask _ d _)
  · rw [State.ctx, honly.ctxs]
    exact hctxs


/-! ### DEP.DEC and DEP.SET -/

/-- A physical counter's new value. -/
def ctrPut (s : State) (ph n : Nat) : State := { s with deps := cset 0 s.deps ph (BitVec.ofNat 16 n) }

/-- A context in which nothing is parked in a counter any more. -/
def unpark (s : State) (ctx id : Nat) : State := s.updCtx ctx (fun c => { c with parked := cset none c.parked id none })

section
variable {s : State} {ctx id ph : Nat} (hph : ctrPhys (s.ctx ctx) id = some ph)
include hph

theorem depValue_eq : depValue s ctx id = (cget 0 s.deps ph).toNat := by unfold depValue; rw [hph]

theorem depPut_stays {n : Nat} (h : depValue s ctx id = 0 ∨ n ≠ 0 ∨ cget none (s.ctx ctx).parked id = none) : depPut s ctx id n = ctrPut s ph n := by
  rw [depValue_eq hph] at h
  unfold depPut
  rw [hph]
  dsimp only
  split
  · next hz =>
    obtain ⟨hold, hnew⟩ := hz
    obtain h | h | h := h
    · exact absurd h hold
    · exact absurd hnew h
    · split
      · next t ht => exact nomatch (ht.symm.trans h :)
      · rfl
  · rfl

theorem depPut_readies {t : Task} (hv : depValue s ctx id ≠ 0) (hpark : cget none (s.ctx ctx).parked id = some t) :
    depPut s ctx id 0 = makeReady (unpark (ctrPut s ph 0) ctx id) ctx t := by
  rw [depValue_eq hph] at hv
  unfold depPut
  rw [hph]
  dsimp only
  rw [if_pos ⟨hv, rfl⟩]
  split
  · next t' ht =>
    obtain rfl : t' = t := Option.some.inj (ht.symm.trans hpark :)
    rfl
  · next hn => exact nomatch (hn.symm.trans hpark :)

theorem depValue_ctrPut (n : Nat) : depValue (ctrPut s ph n) ctx id = n % 2 ^ 16 := by
  rw [depValue_eq (s := ctrPut s ph n) hph]
  show (cget 0 (cset 0 s.deps ph (BitVec.ofNat 16 n)) ph).toNat = _
  rw [cget_cset_self, BitVec.toNat_ofNat]

/-- Whatever a transition to 0 readies, the counter holds its new value, the teams are as they were but for sleeps that end, and crews are the same tasks. -/
theorem depPut_gates (n : Nat) : (depPut s ctx id n).gates.2.1 = s.gates.2.1 ∧ (depPut s ctx id n).crewTaskId = s.crewTaskId ∧ depValue (depPut s ctx id n) ctx id = n % 2 ^ 16 ∧
    (depValue s ctx id ≠ 0 → n = 0 → cget none ((depPut s ctx id n).ctx ctx).parked id = none) := by
  by_cases hst : depValue s ctx id = 0 ∨ n ≠ 0 ∨ cget none (s.ctx ctx).parked id = none
  · rw [depPut_stays hph hst]
    refine ⟨rfl, rfl, depValue_ctrPut hph n, fun hv hn => ?_⟩
    obtain h | h | h := hst
    · exact absurd h hv
    · exact absurd hn h
    · exact h
  · obtain ⟨hv, hn, hp⟩ : depValue s ctx id ≠ 0 ∧ n = 0 ∧ cget none (s.ctx ctx).parked id ≠ none := by simpa using hst
    obtain ⟨t, ht⟩ := Option.ne_none_iff_exists'.1 hp
    subst hn
    have hg := makeReady_gates (unpark (ctrPut s ph 0) ctx id) ctx t
    rw [depPut_readies hph hv ht]
    generalize makeReady (unpark (ctrPut s ph 0) ctx id) ctx t = s2 at hg ⊢
    have hctx : ((s2.ctx ctx).ctrBase, (s2.ctx ctx).ctrCount, (s2.ctx ctx).parked) =
        ((s.ctx ctx).ctrBase, (s.ctx ctx).ctrCount, cset none (s.ctx ctx).parked id none) := by
      refine (congrArg (fun g => g.2.2.2.2 ctx) hg :).trans ?_
      show (((unpark (ctrPut s ph 0) ctx id).ctx ctx).ctrBase, _, _) = _
      rw [unpark, updCtx_ctx]
      rfl
    have hdeps : s2.deps = (ctrPut s ph 0).deps := (congrArg (fun g => g.2.2.1) hg :)
    simp only [Prod.mk.injEq] at hctx
    obtain ⟨hbase, hcount, hpark⟩ := hctx
    have hph2 : ctrPhys (s2.ctx ctx) id = some ph := by rw [ctrPhys, hbase, hcount]; exact hph
    refine ⟨(congrArg (fun g => g.2.1) hg :), (congrArg (fun g => g.2.2.2.1) hg :), ?_, fun _ _ => ?_⟩
    · rw [depValue_eq hph2, hdeps, ← depValue_eq (s := ctrPut s ph 0) hph, depValue_ctrPut hph]
    · rw [hpark, cget_cset_self]

end

/-! #### The two instructions -/

theorem engDelay_leaves (s : State) (ti : Nat) : (engDelay s ti).cur = s.cur ∧ ((engDelay s ti).team ti).untimed = (s.team ti).untimed ∧
    (engDelay s ti).deps = s.deps ∧ (engDelay s ti).ctxs = s.ctxs := by
  refine ⟨rfl, ?_, rfl, rfl⟩
  show (((s.draw.2).updTeam ti (fun t => { t with nextIssue := t.nextIssue + Config.delay s.draw.1 })).team ti).untimed = _
  rw [updTeam_team]
  rfl

theorem depValue_of {s t : State} (hdeps : t.deps = s.deps) (hctxs : t.ctxs = s.ctxs) (ctx id : Nat) : depValue t ctx id = depValue s ctx id := by
  unfold depValue State.ctx
  rw [hdeps, hctxs]

theorem settled_gates (s : State) : s.settled.gates = s.gates :=
  Prod.ext rfl (Prod.ext (funext fun j => congrArg (fun t : Team => { t with status := .run }) (settled_teams s j)) rfl)

section
variable {s : State} {i : Instr} {op code : Nat} {limit : Bool} {draft : Nat → Nat → Draft} {act : State → Nat → Nat → Nat → State × Bool} {a b : Opnd}
  {ctx va w : Nat} (h : ready s = true) (he : exec i s = depOp op limit draft code act (.v 0) a b s) (ha : okS a = true) (hb : okS b = true)
  (hdraft : (s.crew s.me.crew).drafting = false) (hctx : ctx = (s.crew s.me.crew).ctx) (hva : va = (sVal s.me a).toNat)
  (hw : w = (sVal s.me b).toNat) (hlow : va < 2 ^ 32)
include h he ha hb hdraft hctx hva hw hlow

/-- A counter out of range (R99). -/
theorem depOp_outside (hph : ctrPhys (s.ctx ctx) va = none) : exec i s = .next (stopped s s.cur (trapAt 0x0D va 0)) := by
  obtain ⟨u, hu, -, hstop⟩ := uniform_run h (fields := [fld (.v 0) okZero, fld a okS, fld b okS]) (by simp [fld, ha, hb, okZero]) he rfl
  refine hstop _ ?_
  have hctxs : u.s.ctx ctx = s.ctx ctx := congrArg (fun m => cget ({} : Ctx) m ctx) hu.only.ctxs
  simp only [hu.rd h ha, hu.rd h hb, ← hva, ← hw, Nat.mod_eq_of_lt hlow, hu.only.crew, hdraft, ← hctx, hctxs, hph, Option.isNone_none, Bool.not_false,
    Bool.and_self, if_true]
  rfl

/-- A counter in range takes the operation, after a release. -/
theorem depOp_runs {ph : Nat} (hph : ctrPhys (s.ctx ctx) va = some ph) (hlim : limit = true → w < 2 ^ 16) :
    ∃ u s0, AtPass s op u ∧ s0.gates = s.gates ∧ s0.ctx ctx = s.ctx ctx ∧ ctrPhys (s0.ctx ctx) va = some ph ∧
      depValue s0 ctx va = depValue s ctx va ∧
      (∀ s2, act s0 ctx va w = (s2, false) → exec i s = .next (engDelay (u.done s2 [] 0) s.cur)) ∧
      (∀ s2, act s0 ctx va w = (s2, true) → s2.crewTaskId = s0.crewTaskId →
        exec i s = .next (stopped (engDelay s2 s.cur) s.cur (trapAt code va (s.crewTaskId s.me.crew)))) := by
  obtain ⟨u, hu, hok, hstop⟩ := uniform_run h (fields := [fld (.v 0) okZero, fld a okS, fld b okS]) (by simp [fld, ha, hb, okZero]) he rfl
  have hctxs : u.s.ctx ctx = s.ctx ctx := congrArg (fun m => cget ({} : Ctx) m ctx) hu.only.ctxs
  have hdefer : deferOp u.s s.me.crew (draft va w) = (u.s, false) := by
    unfold deferOp
    rw [hu.only.crew, hdraft]
    rfl
  have hrel : u.s.release s.cur 4 = releaseAt u.s s.me.crew 4 := by
    rw [release_of_not (by rw [hu.me, ready_flight h]) (by rw [hu.me, hu.only.crew, hdraft]), hu.me]
  have hhigh : va / 2 ^ 32 = 0 := Nat.div_eq_of_lt hlow
  have hover : (limit && decide (w / 2 ^ 16 ≠ 0)) = false := by
    cases limit with
    | false => rfl
    | true => rw [Nat.div_eq_of_lt (hlim rfl)]; rfl
  have hgates : (releaseAt u.s s.me.crew 4).gates = s.gates := by
    refine (gates_unwritten.of_uncached (releaseAt_uncached u.s s.me.crew 4)).trans ?_
    rw [hu.state]
    exact settled_gates s
  have htask0 : (releaseAt u.s s.me.crew 4).crewTaskId = s.crewTaskId := (congrArg (fun g => g.2.2.2.1) hgates :)
  simp only [hu.rd h ha, hu.rd h hb, ← hva, ← hw, Nat.mod_eq_of_lt hlow, hu.only.crew, hdraft, ← hctx, hctxs, hph, Option.isNone_some, Bool.not_false,
    Bool.and_false, Bool.false_eq_true, if_false, hu.poison, ok_bind, hhigh, ne_eq, not_true_eq_false, hover, hdefer, hrel] at hok hstop
  have hctx0 : (releaseAt u.s s.me.crew 4).ctx ctx = s.ctx ctx := by
    rw [← hctxs]
    unfold releaseAt
    dsimp only
    split <;> rfl
  have hph0 : ctrPhys ((releaseAt u.s s.me.crew 4).ctx ctx) va = some ph := hctx0.symm ▸ hph
  refine ⟨u, releaseAt u.s s.me.crew 4, hu, hgates, hctx0, hph0, ?_, fun s2 hact => ?_, fun s2 hact htask => ?_⟩
  · rw [depValue_eq hph0, depValue_eq hph]
    exact congrArg (fun m => (cget 0 m ph).toNat) (congrArg (fun g => g.2.2.1) hgates :)
  · refine hok _ ?_
    rw [hact]
  · refine (hstop (.become (stopped (engDelay s2 s.cur) s.cur (trapAt code va (s.crewTaskId s.me.crew)))) ?_)
    rw [hact]
    dsimp only
    rw [htask, htask0]
    rfl
end

/-- An operation of the hub on a counter ends the instruction: the team goes on, and what the counter holds and the context stay. -/
theorem AtPass.dep_goes {s s2 : State} {op : Nat} {u : UCtx} (hu : AtPass s op u) (hcur : s2.cur = s.cur) (hteams : s2.gates.2.1 = s.gates.2.1)
    (ctx id : Nat) : (engDelay (u.done s2 [] 0) s.cur).me.untimed = s.me.stepped.untimed ∧
      depValue (engDelay (u.done s2 [] 0) s.cur) ctx id = depValue s2 ctx id ∧ (engDelay (u.done s2 [] 0) s.cur).ctx ctx = s2.ctx ctx := by
  have honly := hu.done_only s2 [] 0 false
  have hdone := hu.done_me s2 [] 0 false
  obtain ⟨hc, hme, hdeps, hctxs⟩ := engDelay_leaves (u.done s2 [] 0) s.cur
  have hteam : ({ s2.team s.cur with status := .run } : Team) = { s.me with status := .run } := congrFun hteams s.cur
  refine ⟨?_, depValue_of (hdeps.trans (congrArg State.deps honly.1 :)) (hctxs.trans honly.ctxs) ctx id, ?_⟩
  · rw [State.me, hc, honly.cur, hcur, hme, hdone]
    have hstep := congrArg (fun t : Team => Team.untimed { t with pc := nextPc t.pc 1 }) hteam
    simp only [doneWrites, List.flatMap_nil, List.append_nil]
    exact hstep
  · rw [State.ctx, hctxs, honly.ctxs]
    rfl

/-- DEP.DEC of a counter that holds enough (R100, R404). -/
theorem depDec_runs {s : State} {a b : Opnd} {ctx va w ph : Nat} (h : ready s = true) (ha : okS a = true) (hb : okS b = true)
    (hdraft : (s.crew s.me.crew).drafting = false) (hctx : ctx = (s.crew s.me.crew).ctx) (hva : va = (sVal s.me a).toNat)
    (hw : w = (sVal s.me b).toNat) (hlow : va < 2 ^ 32) (hph : ctrPhys (s.ctx ctx) va = some ph) (hw16 : w < 2 ^ 16)
    (hle : w ≤ depValue s ctx va) : Sys2Proof.Claims.To (.depDec (.v 0) a b) s (fun t => t.me.untimed = s.me.stepped.untimed ∧
      (cget none (s.ctx ctx).parked va = none → depValue t ctx va = depValue s ctx va - w ∧ t.ctx ctx = s.ctx ctx) ∧
      (∀ k, cget none (s.ctx ctx).parked va = some k → (depValue s ctx va = w → depValue s ctx va ≠ 0 → cget none (t.ctx ctx).parked va = none) ∧
        (depValue s ctx va ≠ w → t.ctx ctx = s.ctx ctx))) := by
  obtain ⟨u, s0, hu, hgates, hctx0, hph0, hv0, hok, -⟩ := depOp_runs h (show exec (.depDec (.v 0) a b) s = execDepDec (.v 0) a b s from rfl) ha hb hdraft hctx hva hw
    hlow hph (fun _ => hw16)
  have hlt : depValue s ctx va < 2 ^ 16 := by rw [depValue_eq hph]; exact BitVec.isLt _
  have hact : depDecBy s0 ctx va w = (depPut s0 ctx va (depValue s ctx va - w), false) := by
    unfold depDecBy
    rw [hv0]
    exact if_pos hle
  obtain ⟨hteams, -, hnew, hempty⟩ := depPut_gates hph0 (depValue s ctx va - w)
  have hcur := (cur_of_lasting (depPut_lasting s0 ctx va (depValue s ctx va - w))).trans (congrArg Prod.fst hgates :)
  obtain ⟨hme, hval, hsame⟩ := hu.dep_goes hcur (hteams.trans (congrArg (fun g => g.2.1) hgates :)) ctx va
  have hstays (hs : depValue s ctx va = 0 ∨ depValue s ctx va - w ≠ 0 ∨ cget none (s.ctx ctx).parked va = none) :
      (depPut s0 ctx va (depValue s ctx va - w)).ctx ctx = s.ctx ctx := by
    rw [depPut_stays hph0 (by rw [hv0, hctx0]; exact hs)]
    exact hctx0
  refine ⟨_, hok _ hact, hme, fun hp => ⟨?_, hsame.trans (hstays (.inr (.inr hp)))⟩, fun k hp => ⟨fun hvw hv => ?_, fun hvw => ?_⟩⟩
  · rw [hval, hnew, Nat.mod_eq_of_lt (by omega)]
  · rw [hsame]
    exact hempty (hv0.symm ▸ hv) (by omega)
  · exact hsame.trans (hstays (.inr (.inl (by omega))))

/-- DEP.DEC of a counter that holds less underflows. -/
theorem depDec_underflows {s : State} {a b : Opnd} {ctx va w ph : Nat} (h : ready s = true) (ha : okS a = true) (hb : okS b = true)
    (hdraft : (s.crew s.me.crew).drafting = false) (hctx : ctx = (s.crew s.me.crew).ctx) (hva : va = (sVal s.me a).toNat)
    (hw : w = (sVal s.me b).toNat) (hlow : va < 2 ^ 32) (hph : ctrPhys (s.ctx ctx) va = some ph) (hw16 : w < 2 ^ 16)
    (hlt : depValue s ctx va < w) : ∃ t s1, exec (.depDec (.v 0) a b) s = .next t ∧ depValue s1 ctx va = 0 ∧
      t = stopped s1 s.cur (trapAt 0x11 va (s.crewTaskId s.me.crew)) := by
  obtain ⟨u, s0, hu, hgates, hctx0, hph0, hv0, -, hstop⟩ := depOp_runs h (show exec (.depDec (.v 0) a b) s = execDepDec (.v 0) a b s from rfl) ha hb hdraft hctx hva hw
    hlow hph (fun _ => hw16)
  have hact : depDecBy s0 ctx va w = (depPut s0 ctx va 0, true) := by
    unfold depDecBy
    rw [hv0]
    exact if_neg (Nat.not_le.2 hlt)
  obtain ⟨-, htask, hnew, -⟩ := depPut_gates hph0 0
  obtain ⟨-, -, hdeps, hctxs⟩ := engDelay_leaves (depPut s0 ctx va 0) s.cur
  exact ⟨_, _, hstop _ hact htask, (depValue_of hdeps hctxs ctx va).trans hnew, rfl⟩

/-- DEP.SET of a value that a counter holds, and of one that it does not. -/
theorem depSet_runs {s : State} {a b : Opnd} {ctx va w ph : Nat} (h : ready s = true) (ha : okS a = true) (hb : okS b = true)
    (hdraft : (s.crew s.me.crew).drafting = false) (hctx : ctx = (s.crew s.me.crew).ctx) (hva : va = (sVal s.me a).toNat)
    (hw : w = (sVal s.me b).toNat) (hlow : va < 2 ^ 32) (hph : ctrPhys (s.ctx ctx) va = some ph) :
    (w < 2 ^ 16 → Sys2Proof.Claims.To (.depSet (.v 0) a b) s (fun t => t.me.untimed = s.me.stepped.untimed ∧ depValue t ctx va = w)) ∧
    (2 ^ 16 ≤ w → ∃ t s1, exec (.depSet (.v 0) a b) s = .next t ∧ depValue s1 ctx va = depValue s ctx va ∧
      t = stopped s1 s.cur (trapAt 0x12 va (s.crewTaskId s.me.crew))) := by
  obtain ⟨u, s0, hu, hgates, hctx0, hph0, hv0, hok, hstop⟩ := depOp_runs h (show exec (.depSet (.v 0) a b) s = execDepSet (.v 0) a b s from rfl) ha hb hdraft hctx
    hva hw hlow hph (fun hl => nomatch hl)
  refine ⟨fun hw16 => ?_, fun hbig => ?_⟩
  · obtain ⟨hteams, -, hnew, -⟩ := depPut_gates hph0 w
    have hcur := (cur_of_lasting (depPut_lasting s0 ctx va w)).trans (congrArg Prod.fst hgates :)
    obtain ⟨hme, hval, -⟩ := hu.dep_goes hcur (hteams.trans (congrArg (fun g => g.2.1) hgates :)) ctx va
    exact ⟨_, hok (depPut s0 ctx va w) (if_pos (Nat.le_of_lt_succ hw16)), hme, hval.trans (hnew.trans (Nat.mod_eq_of_lt hw16))⟩
  · obtain ⟨-, -, hdeps, hctxs⟩ := engDelay_leaves s0 s.cur
    refine ⟨_, _, hstop s0 (if_neg (by omega)) rfl, (depValue_of hdeps hctxs ctx va).trans hv0, rfl⟩

/-- Settles O45: an ENQ is its task's insertion, which a release before it does not change, and a counter keeps what it was given whatever its
transition to 0 readies. -/
theorem tasksAndDependencies : Obligations.TasksAndDependencies := by
  intro s d a b h hd ha hb hdraft ctx va w hctx hva hw
  refine ⟨fun s1 r k hst hw4 halign hread hdepth hshape hjob hk hctr hgate =>
    enq_runs h hd ha hb hdraft hctx hva hw hst hw4 halign hread hdepth hshape hjob hk hctr hgate, fun hst s1 hin => enq_retries h hd ha hb hctx hst hin,
    fun hlow ph hph v hv => ?_, fun hlow hph => ⟨fun _ => ⟨s, ?_⟩, s, ?_⟩⟩
  · subst hv
    obtain ⟨hset, hover⟩ := depSet_runs h ha hb hdraft hctx hva hw hlow hph
    exact ⟨depDec_runs h ha hb hdraft hctx hva hw hlow hph, depDec_underflows h ha hb hdraft hctx hva hw hlow hph, hset, hover⟩
  · exact depOp_outside h (show exec (.depDec (.v 0) a b) s = execDepDec (.v 0) a b s from rfl) ha hb hdraft hctx hva hw hlow hph
  · exact depOp_outside h (show exec (.depSet (.v 0) a b) s = execDepSet (.v 0) a b s from rfl) ha hb hdraft hctx hva hw hlow hph

end Sys2Proof.Machine
end

section
/-! SUPPORT. The refutation of O44: no hypothesis ties the team of a transfer to the crew whose transfer it is. -/

namespace Sys2Proof.Machine

/-- Crew 0, its team 0 waiting at FORK, has a started transfer that counts for team 7, of the idempotent crew 1, which lists team 0 too; no page of its
source is mapped. -/
def swapping : State := ((State.reset.withFetchWord 32 0).updTeam 0 (fun t => { t with s := [(4, w64 64), (5, w64 1)], status := .wait 5 })
  |>.setTeam 7 { crew := 1 }).setCrew 1 { status := .resident, idem := true, teams := [0], core := 1 }
  |> fun s => s.updChan (s.crew 0).core 0 (fun c => { c with
    q := [{ team := 7, crew := 0, src := 0, dst := 0, bytes := 8, reset := false, ring := none, started := true }] })

/-- FORK of the children at S4, as many as S5 says. -/
def forking : Instr := .fork (.v 0) (.s 4) (.s 5)

/-- Whether the issuing team runs after an instruction. -/
def runsAfter (i : Instr) (s : State) : Bool :=
  match exec i s with
  | .next t => t.me.status == .run
  | _ => false

theorem ready_swapping : ready swapping = true := by decide +kernel

/-- The transfer's fault, met as the crew leaves its core, aborts crew 1, and team 0 with it. -/
theorem forking_aborts : runsAfter forking swapping = false := by decide +kernel

/-- Refutes O44, in its clause on the swap-out: the transfers under way end first, and a fault of one aborts the idempotent crew of its team, which in
this state (one that no run reaches, and no hypothesis excludes) lists the forking team. -/
theorem not_forksSwapTheParent : ¬ Obligations.ForksSwapTheParent := by
  unfold Obligations.ForksSwapTheParent
  intro hall
  obtain ⟨hfork, -⟩ := hall swapping
  obtain ⟨-, -, -, -, hswap⟩ := hfork (.s 4) (.s 5) ready_swapping rfl rfl _ _ rfl rfl
  obtain ⟨t, hexec, hrun, -⟩ := hswap (by decide +kernel) (by decide +kernel) (by decide +kernel) (by decide +kernel) (by decide +kernel)
    (by decide +kernel) (by decide +kernel) (by decide +kernel)
  have hruns : runsAfter forking swapping = true := by
    rw [runsAfter, forking, hexec]
    exact beq_iff_eq.2 hrun
  exact absurd (hruns.symm.trans forking_aborts) (by decide)

end Sys2Proof.Machine
end
